-- ==== Sys2Proof/Word.lean ====
section
/-! DEFINITION. The words of the machine and their plainest arithmetic (R1, R2, R84).
A register word has 64 bits, a vector register 512, a lane mask 16. -/

namespace Sys2Proof

/-- A general register or system register (R84). -/
abbrev Word := BitVec 64

/-- The smallest addressable unit (R2). -/
abbrev Byte := BitVec 8

/-- A vector register (R84). -/
abbrev VecWord := BitVec 512

/-- A lane mask (R84). -/
abbrev MaskWord := BitVec 16

/-- Number of a general register, g0 to g31. -/
abbrev GReg := Fin 32

/-- Number of a general register named by a format V field, g0 to g15 (R99). -/
abbrev GReg16 := Fin 16

/-- Number of a vector register, w0 to w15. -/
abbrev WReg := Fin 16

/-- Number of a lane mask, m0 to m7. -/
abbrev MReg := Fin 8

/-- Number of a predicate, p0 to p7. -/
abbrev PReg := Fin 8

end Sys2Proof
end

