-- ==== Sys2Proof/Syntax.lean ====
section
/-! DEFINITION. The instructions and steps of the part: one constructor per row of the opcode table.
The first 211 constructors are the encoded strand instructions; their fields are the word's fields,
named as in the table. The rest are the steps of units and of the host; their arguments say where
the step lands (a tile, a core, a position in a list of the state) or carry the input it takes. -/

namespace Sys2Proof

/-- Element types of format V, in the order of their codes (R99). -/
inductive VType where
  | f32 | bf16 | f16 | df8 | i32 | i16 | i8 | rns
  deriving DecidableEq, Repr

/-- Comparison conditions of PCMP and PCMPI, in the order of their codes (R103). -/
inductive Cond where
  | eq | ne | lt | ge | ltu | geu
  deriving DecidableEq, Repr

/-- Conditions of FCMP, in the order of their codes (R104). -/
inductive FCond where
  | eq | ne | lt | le | un
  deriving DecidableEq, Repr

/-- Formats of FCVT, in the order of their codes (R104). -/
inductive FFmt where
  | f32 | bf16 | f16 | df8 | i32 | u32 | i64
  deriving DecidableEq, Repr

/-- Access sizes of LDX, in the order of their codes (R106). -/
inductive LdSize where
  | b | h | w | d | bu | hu | wu
  deriving DecidableEq, Repr

/-- Access sizes of STX, in the order of their codes (R106). -/
inductive StSize where
  | b | h | w | d
  deriving DecidableEq, Repr

/-- Kinds of FENCE, in the order of their codes (R106, R68). -/
inductive FenceKind where
  | acquire | release | full
  deriving DecidableEq, Repr

/-- Scopes of FENCE, in the order of their codes (R69). -/
inductive Scope where
  | strand | core | tile | device | domain
  deriving DecidableEq, Repr

/-- Which side of a lease a step concerns (R435). -/
inductive LeaseSide where
  | lender | borrower
  deriving DecidableEq, Repr

/-- The operations a UALink peer may ask of leased memory (R436, R449). -/
inductive PeerOp where
  | read (n : Nat)
  | write (bytes : List Byte)
  | atomic (op : Nat) (wide : Bool) (operand expected : Word)
  | barrier (op : Nat) (x y : Word)
  deriving DecidableEq, Repr

/-- What answers an access once it has been sent: its home on the module or the host (`home`), or a
lending peer, whose data and verdict come from outside (R436). -/
inductive PeerAnswer where
  | home
  | data (bytes : List Byte)
  | revoked
  | permission
  | poison
  | overrun
  deriving DecidableEq, Repr

/-- Where a soft error strikes (R83, R331, R457). -/
inductive SoftSite where
  | slice (tile off : Nat)
  | buffer (core off : Nat)
  | hbm (pa : Nat)
  | accumulator (tile slot i j : Nat)
  | loopSlot (tile slot : Nat)
  deriving DecidableEq, Repr

/-- A plain register of a host window, written by REGISTER_WRITE (R3). -/
inductive HostReg where
  | qbase (q : Nat) | qcfg (q : Nat) | qhead (q : Nat)
  | ctxWord (c w : Nat)
  | kernelPartner (c : Nat)
  | groupWord (unit gid w : Nat)
  | lenderWord (i w : Nat) | borrowerWord (i w : Nat)
  | tsrBase (i : Nat) | tsrHead (i : Nat) | tsrVec (i : Nat)
  | rfmctl (k : Nat)
  | lstat (l : Nat)
  | gwctl (i : Nat) | gwqbase (i : Nat) | gwentry (i : Nat)
  | fwarg (k : Nat) | mgmtvec | pwrcap
  | levelWord (core level : Nat)
  | hostMem (bus : Nat)
  deriving DecidableEq, Repr

/-- The instructions and steps of the opcode table. -/
inductive Instr where
  | add (d a b : GReg)
  | sub (d a b : GReg)
  | and (d a b : GReg)
  | or (d a b : GReg)
  | xor (d a b : GReg)
  | andn (d a b : GReg)
  | shl (d a b : GReg)
  | shr (d a b : GReg)
  | sar (d a b : GReg)
  | ror (d a b : GReg)
  | min (d a b : GReg)
  | max (d a b : GReg)
  | minu (d a b : GReg)
  | maxu (d a b : GReg)
  | slt (d a b : GReg)
  | sltu (d a b : GReg)
  | seq (d a b : GReg)
  | mul (d a b : GReg)
  | mulh (d a b : GReg)
  | mulhu (d a b : GReg)
  | div (d a b : GReg)
  | divu (d a b : GReg)
  | rem (d a b : GReg)
  | remu (d a b : GReg)
  | clz (d a : GReg)
  | ctz (d a : GReg)
  | popc (d a : GReg)
  | sel (d a b : GReg) (p : PReg)
  | addi (d a : GReg) (i : BitVec 16)
  | andi (d a : GReg) (i : BitVec 16)
  | ori (d a : GReg) (i : BitVec 16)
  | xori (d a : GReg) (i : BitVec 16)
  | slti (d a : GReg) (i : BitVec 15)
  | sltiu (d a : GReg) (i : BitVec 15)
  | shli (d a : GReg) (s : BitVec 6)
  | shri (d a : GReg) (s : BitVec 6)
  | sari (d a : GReg) (s : BitVec 6)
  | rori (d a : GReg) (s : BitVec 6)
  | insh (d : GReg) (h : BitVec 2) (i : BitVec 16)
  | aupc (d : GReg) (i : BitVec 16)
  | bfx (d a : GReg) (p w : BitVec 6)
  | bfxu (d a : GReg) (p w : BitVec 6)
  | bfi (d a : GReg) (p w : BitVec 6)
  | pcmp (d : PReg) (a b : GReg) (c : Cond)
  | pcmpi (d : PReg) (a : GReg) (i : BitVec 5) (c : Cond) (j : BitVec 3)
  | pand (d a b : PReg)
  | por (d a b : PReg)
  | pxor (d a b : PReg)
  | pnot (d a : PReg)
  | psave (d : GReg)
  | pload (a : GReg)
  | pmov (d a : PReg)
  | fadd (d a b : GReg)
  | fsub (d a b : GReg)
  | fmul (d a b : GReg)
  | ffma (d a b : GReg)
  | fmin (d a b : GReg)
  | fmax (d a b : GReg)
  | fneg (d a : GReg)
  | fabs (d a : GReg)
  | fcmp (d a b : GReg) (c : FCond)
  | fcvt (d a : GReg) (s t : FFmt)
  | br (o : BitVec 26)
  | call (o : BitVec 26)
  | beq (b a : GReg) (o : BitVec 16)
  | bne (b a : GReg) (o : BitVec 16)
  | blt (b a : GReg) (o : BitVec 16)
  | bge (b a : GReg) (o : BitVec 16)
  | bltu (b a : GReg) (o : BitVec 16)
  | bgeu (b a : GReg) (o : BitVec 16)
  | bp (p : PReg) (s : Bool) (o : BitVec 16)
  | jr (a : GReg)
  | callr (a : GReg)
  | ret
  | loop (a : GReg) (i : BitVec 16)
  | ldb (d a : GReg) (i : BitVec 16)
  | ldh (d a : GReg) (i : BitVec 16)
  | ldw (d a : GReg) (i : BitVec 16)
  | ldd (d a : GReg) (i : BitVec 16)
  | ldbu (d a : GReg) (i : BitVec 16)
  | ldhu (d a : GReg) (i : BitVec 16)
  | ldwu (d a : GReg) (i : BitVec 16)
  | stb (b a : GReg) (i : BitVec 16)
  | sth (b a : GReg) (i : BitVec 16)
  | stw (b a : GReg) (i : BitVec 16)
  | std (b a : GReg) (i : BitVec 16)
  | ldx (d a b : GReg) (z : LdSize) (s : Bool)
  | stx (d a b : GReg) (z : StSize) (s : Bool)
  | aadd (d a b : GReg) (z : Bool)
  | aand (d a b : GReg) (z : Bool)
  | aor (d a b : GReg) (z : Bool)
  | axor (d a b : GReg) (z : Bool)
  | amin (d a b : GReg) (z : Bool)
  | amax (d a b : GReg) (z : Bool)
  | aminu (d a b : GReg) (z : Bool)
  | amaxu (d a b : GReg) (z : Bool)
  | aswp (d a b : GReg) (z : Bool)
  | acas (d a b : GReg) (z : Bool)
  | afadd (d a b : GReg)
  | fence (k : FenceKind) (s : Scope)
  | send (d a b : GReg) (r : Bool)
  | sendr (d a b : GReg) (r : Bool)
  | sendl (d a b : GReg) (r : Bool)
  | spawn (a b : GReg) (c : BitVec 3)
  | reply (b : GReg)
  | mcast (d a b : GReg) (r : Bool)
  | mcastl (d a b : GReg) (l s r : Bool)
  | gred (a b : GReg) (t : BitVec 2)
  | endH
  | armw (a b : GReg) (c : BitVec 3)
  | htset (a b : GReg)
  | htclr (a : GReg)
  | redlv (d a b : GReg)
  | cnti (a b : GReg) (k : Bool)
  | cnta (a b : GReg) (r : Bool)
  | cntr (d a : GReg) (c : Bool)
  | binit (a b : GReg)
  | barr (d a : GReg)
  | barrb (d a b : GReg)
  | bdrop (d a : GReg)
  | btest (d a b : GReg)
  | bwait (d a b : GReg)
  | bbyte (a b : GReg)
  | qpush (a : GReg) (n : BitVec 2)
  | qpop (d : GReg) (n : BitVec 2)
  | qcnt (d : GReg) (n : BitVec 2)
  | qpeek (d : GReg) (n : BitVec 2)
  | cpy (d a b : GReg)
  | cpy2 (d a b : GReg)
  | cpyq (d a : GReg) (j : BitVec 2) (c : BitVec 3)
  | cpyf (d a b : GReg)
  | gath (d a b : GReg) (w : Bool)
  | scat (d a b : GReg) (w : Bool)
  | jpoll (p : PReg) (a : GReg)
  | jwait (d a : GReg)
  | jwaitAll (d : GReg)
  | jcwait (d a : GReg) (u j : Bool)
  | armj (a b : GReg)
  | mma (d a b : GReg) (z : Bool) (n : BitVec 2)
  | mmag (d a b : GReg) (z : Bool) (n : BitVec 2)
  | mst (d a b : GReg) (s : Bool) (f : BitVec 3) (n : BitVec 2)
  | mzr (d : GReg) (c : Bool) (n : BitVec 2)
  | mzrSt (d : GReg) (n : BitVec 2)
  | mscl (a b : GReg) (n : BitVec 2)
  | gload (d a b : GReg)
  | gswap (d : GReg)
  | gswapKeep (d : GReg)
  | gbind (d a : GReg)
  | gdrain (d : GReg)
  | gstat (d : GReg) (x c : Bool)
  | cplb (a b : GReg)
  | cplr (d a : GReg) (s : BitVec 2)
  | cplu (a b : GReg) (r : Bool)
  | wgt (a : GReg)
  | sysr (d : GReg) (r : BitVec 12)
  | sysw (a : GReg) (r : BitVec 12)
  | trap (c : BitVec 12)
  | brk (c : BitVec 12)
  | resume (a : GReg)
  | probe (d a : GReg)
  | gwtake (d : GReg)
  | gwdone (a : GReg)
  | vadd (d a b : WReg) (m : MReg) (t : VType) (s : Bool)
  | vsub (d a b : WReg) (m : MReg) (t : VType) (s : Bool)
  | vmul (d a b : WReg) (m : MReg) (t : VType) (s : Bool)
  | vfma (d a b : WReg) (m : MReg) (t : VType) (s : Bool)
  | vmin (d a b : WReg) (m : MReg) (t : VType) (u : Bool)
  | vmax (d a b : WReg) (m : MReg) (t : VType) (u : Bool)
  | vabs (d a : WReg) (m : MReg) (t : VType) (s : Bool)
  | vneg (d a : WReg) (m : MReg) (t : VType) (s : Bool)
  | vand (d a b : WReg) (m : MReg) (t : VType)
  | vor (d a b : WReg) (m : MReg) (t : VType)
  | vxor (d a b : WReg) (m : MReg) (t : VType)
  | vshl (d a b : WReg) (m : MReg) (t : VType)
  | vshr (d a b : WReg) (m : MReg) (t : VType)
  | vsar (d a b : WReg) (m : MReg) (t : VType)
  | vcmp (d : MReg) (a b : WReg) (m : MReg) (t : VType) (y : Bool) (c : BitVec 3)
  | vsel (d a b : WReg) (s : MReg) (t : VType)
  | vmov (d a : WReg) (m : MReg) (t : VType)
  | vbcast (d : WReg) (a : GReg16) (m : MReg) (t : VType)
  | vext (d : GReg16) (a : WReg) (b : GReg16) (t : VType) (u : Bool)
  | vins (d : WReg) (a b : GReg16) (t : VType)
  | mand (d a b : MReg)
  | mor (d a b : MReg)
  | mnot (d a : MReg)
  | mpop (d : GReg16) (a : MReg)
  | vld (d : WReg) (a : GReg16) (m : MReg) (t : VType)
  | vst (d : WReg) (a : GReg16) (m : MReg) (t : VType)
  | vlds (d : WReg) (a b : GReg16) (m : MReg) (t : VType)
  | vgth (d : WReg) (a : GReg16) (b : WReg) (m : MReg) (t : VType) (s : Bool)
  | vsct (d : WReg) (a : GReg16) (b : WReg) (m : MReg) (t : VType) (s : Bool)
  | vqpush (a : WReg) (m : MReg) (n : BitVec 2)
  | vqpop (d : WReg) (m : MReg) (t : VType) (n : BitVec 2)
  | vcvt (d a : WReg) (m : MReg) (t s : VType)
  | vtorns (d a : WReg) (m : MReg) (t : VType)
  | vfrns (d a : WReg) (b : GReg16) (m : MReg) (t : VType) (p : BitVec 2)
  | vqnt (d a : WReg) (b : GReg16) (m : MReg) (t : VType) (p : BitVec 2)
  | vaddq (d a b : WReg) (m : MReg) (t : VType) (k : BitVec 4)
  | vexp2 (d a : WReg) (m : MReg) (t : VType)
  | vlog2 (d a : WReg) (m : MReg) (t : VType)
  | vrcp (d a : WReg) (m : MReg) (t : VType)
  | vrsq (d a : WReg) (m : MReg) (t : VType)
  | vtanh (d a : WReg) (m : MReg) (t : VType)
  | vsig (d a : WReg) (m : MReg) (t : VType)
  | vred (d a : WReg) (m : MReg) (t : VType) (u : Bool) (o : BitVec 2)
  | vshuf (d a b : WReg) (m : MReg) (t : VType)
  | vperm (d a b : WReg) (m : MReg) (t : VType)
  | vtopk (d a : WReg) (b : GReg16) (m : MReg) (t : VType) (x u : Bool)
  | vscan (d a : WReg) (m : MReg) (t : VType) (e u : Bool) (o : BitVec 2)
  | vrng (d : WReg) (m : MReg) (t : VType)
  | rngseed (a : GReg16)
  | messageArrival (k : Nat)
  | dispatch (core : Nat)
  | replyArrival (k : Nat)
  | counterIncrement (k : Nat)
  | accessRequest (k : Nat)
  | accessReply (k : Nat) (p : PeerAnswer)
  | barrierOperation (k : Nat)
  | barrierDeadlineCheck (unit : Nat)
  | captureComplete (strand : Nat)
  | sfCompletion (core : Nat)
  | refillRead (core level : Nat)
  | refillLand (core level : Nat)
  | coreFreeze (k : Nat)
  | coreUnfreeze (k : Nat)
  | resumePacket (k : Nat)
  | doorbell (q : Nat) (v : Word)
  | queueEnable (q : Nat) (v : Word)
  | queueDisable (q : Nat) (v : Word)
  | nop (q : Nat)
  | launch (q : Nat)
  | copy (q : Nat)
  | signal (q : Nat)
  | cond (q : Nat)
  | condRetest (q : Nat)
  | packetComplete (q k : Nat)
  | placement (c : Nat)
  | kernelLoaded (c : Nat)
  | quiescenceWave (c : Nat)
  | retirementComplete (c : Nat)
  | kernelStop (c : Nat)
  | create (c : Nat)
  | preempt (c : Nat)
  | unfreeze (c : Nat)
  | vacate (c : Nat)
  | restore (c : Nat)
  | clearf (c : Nat)
  | destroy (c : Nat)
  | contextCommandComplete (c : Nat)
  | keyWrite (slot : Nat) (key : BitVec 512)
  | spinelPiece (stack : Nat)
  | translationResponse (unit : Nat) (v : Word)
  | jobStart (core slot : Nat)
  | jobComplete (core slot : Nat)
  | completionPush (core slot : Nat)
  | jobFree (core slot : Nat)
  | arrayOperation (tile : Nat)
  | mmagOffer (k : Nat)
  | mmagReoffer (core slot : Nat)
  | mmagStart (k : Nat)
  | mmagCredit (k : Nat)
  | mmagStep (k : Nat)
  | mmagReport (k : Nat)
  | fabricAdvance (tile : Nat)
  | graphDrainDone (tile : Nat)
  | chainEntry (k : Nat)
  | configError (tile slot region : Nat) (double : Bool)
  | graphReloadComplete (tile slot : Nat)
  | signaturePass (tile : Nat) (bad : List Nat)
  | loopSample (tile slot : Nat)
  | loopFault (tile slot : Nat)
  | rateCreditRefill (tile : Nat)
  | tinv (v : Word)
  | invalidationComplete
  | leaseOffer (i : Nat)
  | leaseGrant (i : Nat)
  | leaseActivation (i peer size : Nat)
  | leaseAnswer (i : Nat) (ok : Bool) (base : Nat)
  | leaseActivationTimeout (i : Nat)
  | leaseRevoke (side : LeaseSide) (i : Nat)
  | revocationNotice (side : LeaseSide) (i : Nat)
  | borrowerRevoked (i : Nat)
  | lenderRevoked (i : Nat) (ack : Bool)
  | leaseAccess (i peer off : Nat) (op : PeerOp)
  | refreshManagement (stack bank : Nat)
  | groupBuild (unit gid : Nat)
  | groupCommit (unit gid : Nat)
  | groupRevoke (unit gid : Nat)
  | groupFreed (unit gid : Nat)
  | groupPacket (k : Nat)
  | domainMulticast (k : Nat)
  | ualinkWriteAnswer (m i : Nat) (peer code : Nat)
  | multicastTimeout (m i : Nat)
  | flitReceive (l : Nat) (noise : Nat)
  | linkNak (l : Nat)
  | linkTrained (l lanes : Nat)
  | trainingTimeout (l : Nat)
  | laneFailure (l : Nat)
  | partnerLost (l : Nat)
  | linkRetrain (l : Nat)
  | linkRetire (l : Nat)
  | portWaitTimeout (k : Nat)
  | gatewayEnable (i : Nat)
  | gatewayDisable (i : Nat)
  | gatewayRestart (i : Nat) (mask : BitVec 16)
  | coldReset (stacksOk : Bool) (lanes : List (Nat × Nat))
  | firmwareReset (stacksOk : Bool) (lanes : List (Nat × Nat))
  | update
  | attest
  | powerPeriod (watts amps peak : Nat) (temps : List Nat)
  | fatalError (code : Nat)
  | registerWrite (r : HostReg) (v : Word)
  | softError (site : SoftSite) (fixed : Bool)
  | mmagAcceptance (k : Nat)
  | chainBindRequest (k : Nat)
  | chainBindAnswer (k : Nat)
  | chainCredit (k : Nat)
  deriving DecidableEq, Repr

end Sys2Proof
end

