-- ==== Sys2Proof/WellFormed.lean ====
section
/-! DEFINITION. Which instructions have an encoding that the core accepts: the checks of R110 step 1
that the types of Syntax.lean do not already make, and those of step 2 that depend on the word
alone (R89, R176). -/

namespace Sys2Proof

/-- Lanes of a vector register (R29, R99). -/
def VType.lanes : VType → Nat
  | .f32 => 16 | .bf16 => 32 | .f16 => 32 | .df8 => 64
  | .i32 => 16 | .i16 => 32 | .i8 => 64 | .rns => 16

/-- Bits of an element (R29). -/
def VType.bits : VType → Nat
  | .f32 => 32 | .bf16 => 16 | .f16 => 16 | .df8 => 8
  | .i32 => 32 | .i16 => 16 | .i8 => 8 | .rns => 32

/-- The integer types. -/
def VType.isInt : VType → Bool
  | .i32 | .i16 | .i8 => true
  | .f32 | .bf16 | .f16 | .df8 | .rns => false

/-- The floating-point types that vector arithmetic accepts (R180). -/
def VType.isFp : VType → Bool
  | .f32 | .bf16 | .f16 => true
  | .df8 | .i32 | .i16 | .i8 | .rns => false

/-- The types of VGTH, VSCT and VQPOP (R189, R193). -/
def VType.isWord : VType → Bool
  | .f32 | .i32 | .rns => true
  | .bf16 | .f16 | .df8 | .i16 | .i8 => false

/-- The integer codes of FCVT (R104). -/
def FFmt.isInt : FFmt → Bool
  | .i32 | .u32 | .i64 => true
  | .f32 | .bf16 | .f16 | .df8 => false

/-- Conditions that VCMP accepts for a type (R184). -/
def vcmpAccepts (t : VType) (c : BitVec 3) : Bool :=
  match t with
  | .f32 | .bf16 | .f16 => decide (c.toNat < 5)
  | .i32 | .i16 | .i8 => decide (c.toNat < 7) && c != 4
  | .rns => decide (c.toNat < 2)
  | .df8 => false

/-- Operations and types that VRED and VSCAN accept (R203, R204). -/
def redAccepts (t : VType) (u : Bool) (o : BitVec 2) : Bool :=
  t != .df8 && o != 3 && (t != .rns || o == 0) && (!u || (o != 0 && t.isInt))

/-- Registers of type `b` that a run needs beside one register of type `a` (R176). -/
def runLen (a b : VType) : Nat :=
  if b.lanes < a.lanes then a.lanes / b.lanes else 1

/-- The system register map (R415): whether software may write the register; none if unassigned. -/
def sysAccess (r : BitVec 12) : Option Bool :=
  match r.toNat with
  | 0x000 => some true
  | 0x001 | 0x002 | 0x003 => some false
  | 0x010 | 0x011 | 0x012 | 0x013 | 0x014 => some true
  | 0x020 | 0x021 => some true
  | 0x030 | 0x031 | 0x032 | 0x033 | 0x034 | 0x035 | 0x036 | 0x037 | 0x038 => some false
  | 0x040 | 0x041 | 0x042 | 0x043 => some true
  | 0x100 | 0x101 | 0x102 | 0x103 | 0x104 => some false
  | 0x105 => some false | 0x106 => some true | 0x107 => some false
  | 0x108 => some false | 0x109 => some true | 0x10A => some false
  | 0x10B => some false | 0x10C => some true | 0x10D => some false
  | _ => none

/-- The instruction's codes and fields are ones its entry accepts (R89, R99, R102 to R110). CPYQ with JC = 3 is
refused here, as a selector its entry does not accept (R110 step 1), although R302 step 1 names ILLEGAL_COMBINATION
for a reserved JC: DESIGN CHOICE, assumption log 84. -/
def Instr.wf : Instr → Bool
  | .add _ _ _ => true
  | .sub _ _ _ => true
  | .and _ _ _ => true
  | .or _ _ _ => true
  | .xor _ _ _ => true
  | .andn _ _ _ => true
  | .shl _ _ _ => true
  | .shr _ _ _ => true
  | .sar _ _ _ => true
  | .ror _ _ _ => true
  | .min _ _ _ => true
  | .max _ _ _ => true
  | .minu _ _ _ => true
  | .maxu _ _ _ => true
  | .slt _ _ _ => true
  | .sltu _ _ _ => true
  | .seq _ _ _ => true
  | .mul _ _ _ => true
  | .mulh _ _ _ => true
  | .mulhu _ _ _ => true
  | .div _ _ _ => true
  | .divu _ _ _ => true
  | .rem _ _ _ => true
  | .remu _ _ _ => true
  | .clz _ _ => true
  | .ctz _ _ => true
  | .popc _ _ => true
  | .sel _ _ _ _ => true
  | .addi _ _ _ => true
  | .andi _ _ _ => true
  | .ori _ _ _ => true
  | .xori _ _ _ => true
  | .slti _ _ _ => true
  | .sltiu _ _ _ => true
  | .shli _ _ _ => true
  | .shri _ _ _ => true
  | .sari _ _ _ => true
  | .rori _ _ _ => true
  | .insh _ _ _ => true
  | .aupc _ _ => true
  | .bfx _ _ p w => decide (p.toNat + w.toNat + 1 ≤ 64)
  | .bfxu _ _ p w => decide (p.toNat + w.toNat + 1 ≤ 64)
  | .bfi _ _ p w => decide (p.toNat + w.toNat + 1 ≤ 64)
  | .pcmp _ _ _ _ => true
  | .pcmpi _ _ _ _ _ => true
  | .pand _ _ _ => true
  | .por _ _ _ => true
  | .pxor _ _ _ => true
  | .pnot _ _ => true
  | .psave _ => true
  | .pload _ => true
  | .pmov _ _ => true
  | .fadd _ _ _ => true
  | .fsub _ _ _ => true
  | .fmul _ _ _ => true
  | .ffma _ _ _ => true
  | .fmin _ _ _ => true
  | .fmax _ _ _ => true
  | .fneg _ _ => true
  | .fabs _ _ => true
  | .fcmp _ _ _ _ => true
  | .fcvt _ _ s t => s != t && !(s.isInt && t.isInt)
  | .br _ => true
  | .call _ => true
  | .beq _ _ _ => true
  | .bne _ _ _ => true
  | .blt _ _ _ => true
  | .bge _ _ _ => true
  | .bltu _ _ _ => true
  | .bgeu _ _ _ => true
  | .bp _ _ _ => true
  | .jr _ => true
  | .callr _ => true
  | .ret => true
  | .loop _ i => i != 0
  | .ldb _ _ _ => true
  | .ldh _ _ _ => true
  | .ldw _ _ _ => true
  | .ldd _ _ _ => true
  | .ldbu _ _ _ => true
  | .ldhu _ _ _ => true
  | .ldwu _ _ _ => true
  | .stb _ _ _ => true
  | .sth _ _ _ => true
  | .stw _ _ _ => true
  | .std _ _ _ => true
  | .ldx _ _ _ _ _ => true
  | .stx _ _ _ _ _ => true
  | .aadd _ _ _ _ => true
  | .aand _ _ _ _ => true
  | .aor _ _ _ _ => true
  | .axor _ _ _ _ => true
  | .amin _ _ _ _ => true
  | .amax _ _ _ _ => true
  | .aminu _ _ _ _ => true
  | .amaxu _ _ _ _ => true
  | .aswp _ _ _ _ => true
  | .acas _ _ _ _ => true
  | .afadd _ _ _ => true
  | .fence _ _ => true
  | .send d _ _ r => r || d == 0
  | .sendr d _ _ r => r || d == 0
  | .sendl d _ _ r => r || d == 0
  | .spawn _ _ _ => true
  | .reply _ => true
  | .mcast d _ _ r => r || d == 0
  | .mcastl d _ _ _ _ r => r || d == 0
  | .gred _ _ _ => true
  | .endH => true
  | .armw _ _ c => decide (c.toNat < 6)
  | .htset _ _ => true
  | .htclr _ => true
  | .redlv _ _ _ => true
  | .cnti _ _ _ => true
  | .cnta _ _ _ => true
  | .cntr _ _ _ => true
  | .binit _ _ => true
  | .barr _ _ => true
  | .barrb _ _ _ => true
  | .bdrop _ _ => true
  | .btest _ _ _ => true
  | .bwait _ _ _ => true
  | .bbyte _ _ => true
  | .qpush _ n => n == 1 || n == 3
  | .qpop _ n => n == 0 || n == 2
  | .qcnt _ _ => true
  | .qpeek _ n => n == 0 || n == 2
  | .cpy _ _ _ => true
  | .cpy2 _ _ _ => true
  | .cpyq _ _ j _ => j != 3
  | .cpyf _ _ _ => true
  | .gath _ _ _ _ => true
  | .scat _ _ _ _ => true
  | .jpoll _ _ => true
  | .jwait _ _ => true
  | .jwaitAll _ => true
  | .jcwait _ _ _ _ => true
  | .armj _ _ => true
  | .mma _ _ _ _ _ => true
  | .mmag _ _ _ _ _ => true
  | .mst _ _ _ _ f _ => decide (f.toNat < 6)
  | .mzr _ _ _ => true
  | .mzrSt _ _ => true
  | .mscl _ _ _ => true
  | .gload _ _ _ => true
  | .gswap _ => true
  | .gswapKeep _ => true
  | .gbind _ _ => true
  | .gdrain _ => true
  | .gstat _ x c => !(x && c)
  | .cplb _ _ => true
  | .cplr _ _ _ => true
  | .cplu _ _ _ => true
  | .wgt _ => true
  | .sysr _ r => (sysAccess r).isSome
  | .sysw _ r => sysAccess r == some true
  | .trap _ => true
  | .brk _ => true
  | .resume _ => true
  | .probe _ _ => true
  | .gwtake _ => true
  | .gwdone _ => true
  | .vadd _ _ _ _ t s => t != .df8 && (!s || t.isInt)
  | .vsub _ _ _ _ t s => t != .df8 && (!s || t.isInt)
  | .vmul _ _ _ _ t s => t != .df8 && (!s || t.isInt)
  | .vfma _ _ _ _ t s => t != .df8 && t != .rns && (!s || t.isInt)
  | .vmin _ _ _ _ t u => t != .df8 && t != .rns && (!u || t.isInt)
  | .vmax _ _ _ _ t u => t != .df8 && t != .rns && (!u || t.isInt)
  | .vabs _ _ _ t s => t != .df8 && t != .rns && (!s || t.isInt)
  | .vneg _ _ _ t s => t != .df8 && (!s || t.isInt)
  | .vand _ _ _ _ _ => true
  | .vor _ _ _ _ _ => true
  | .vxor _ _ _ _ _ => true
  | .vshl _ _ _ _ t => t.isInt
  | .vshr _ _ _ _ t => t.isInt
  | .vsar _ _ _ _ t => t.isInt
  | .vcmp _ _ _ _ t y c => vcmpAccepts t c && (!y || t.lanes != 16)
  | .vsel _ _ _ _ _ => true
  | .vmov _ _ _ _ => true
  | .vbcast _ _ _ _ => true
  | .vext _ _ _ _ _ => true
  | .vins _ _ _ _ => true
  | .mand _ _ _ => true
  | .mor _ _ _ => true
  | .mnot _ _ => true
  | .mpop _ _ => true
  | .vld _ _ _ _ => true
  | .vst _ _ _ _ => true
  | .vlds _ _ _ _ _ => true
  | .vgth _ _ _ _ t _ => t.isWord
  | .vsct _ _ _ _ t _ => t.isWord
  | .vqpush a _ n => decide (a.val + n.toNat ≤ 15)
  | .vqpop d _ t n => t.isWord && decide (d.val + n.toNat ≤ 15)
  | .vcvt d a _ t s => s != .rns && t != .rns && s != t && decide (d.val + runLen s t ≤ 16) && decide (a.val + runLen t s ≤ 16)
  | .vtorns d _ _ t => t.isInt && decide (d.val + t.lanes / 16 ≤ 16)
  | .vfrns _ _ _ _ t p => (t == .f32 || t == .bf16 || t == .i8) && decide (p.toNat < t.lanes / 16)
  | .vqnt _ _ _ _ t p => (t == .i8 || t == .i16 || t == .df8 || t == .bf16 || t == .f16) && decide (p.toNat < t.lanes / 16)
  | .vaddq _ _ _ _ t _ => t != .rns
  | .vexp2 _ _ _ t => t.isFp
  | .vlog2 _ _ _ t => t.isFp
  | .vrcp _ _ _ t => t.isFp
  | .vrsq _ _ _ t => t.isFp
  | .vtanh _ _ _ t => t.isFp
  | .vsig _ _ _ t => t.isFp
  | .vred _ _ _ t u o => redAccepts t u o
  | .vshuf _ _ _ _ _ => true
  | .vperm _ _ _ _ _ => true
  | .vtopk _ _ _ _ t _ u => t != .df8 && t != .rns && (!u || t.isInt)
  | .vscan _ _ _ t _ u o => redAccepts t u o
  | .vrng _ _ t => t == .i32 || t == .f32
  | .rngseed _ => true
  | .messageArrival _ => true
  | .dispatch _ => true
  | .replyArrival _ => true
  | .counterIncrement _ => true
  | .accessRequest _ => true
  | .accessReply _ _ => true
  | .barrierOperation _ => true
  | .barrierDeadlineCheck _ => true
  | .captureComplete _ => true
  | .sfCompletion _ => true
  | .refillRead _ _ => true
  | .refillLand _ _ => true
  | .coreFreeze _ => true
  | .coreUnfreeze _ => true
  | .resumePacket _ => true
  | .doorbell _ _ => true
  | .queueEnable _ _ => true
  | .queueDisable _ _ => true
  | .nop _ => true
  | .launch _ => true
  | .copy _ => true
  | .signal _ => true
  | .cond _ => true
  | .condRetest _ => true
  | .packetComplete _ _ => true
  | .placement _ => true
  | .kernelLoaded _ => true
  | .quiescenceWave _ => true
  | .retirementComplete _ => true
  | .kernelStop _ => true
  | .create _ => true
  | .preempt _ => true
  | .unfreeze _ => true
  | .vacate _ => true
  | .restore _ => true
  | .clearf _ => true
  | .destroy _ => true
  | .contextCommandComplete _ => true
  | .keyWrite _ _ => true
  | .spinelPiece _ => true
  | .translationResponse _ _ => true
  | .jobStart _ _ => true
  | .jobComplete _ _ => true
  | .completionPush _ _ => true
  | .jobFree _ _ => true
  | .arrayOperation _ => true
  | .mmagOffer _ => true
  | .mmagReoffer _ _ => true
  | .mmagStart _ => true
  | .mmagCredit _ => true
  | .mmagStep _ => true
  | .mmagReport _ => true
  | .fabricAdvance _ => true
  | .graphDrainDone _ => true
  | .chainEntry _ => true
  | .configError _ _ _ _ => true
  | .graphReloadComplete _ _ => true
  | .signaturePass _ _ => true
  | .loopSample _ _ => true
  | .loopFault _ _ => true
  | .rateCreditRefill _ => true
  | .tinv _ => true
  | .invalidationComplete => true
  | .leaseOffer _ => true
  | .leaseGrant _ => true
  | .leaseActivation _ _ _ => true
  | .leaseAnswer _ _ _ => true
  | .leaseActivationTimeout _ => true
  | .leaseRevoke _ _ => true
  | .revocationNotice _ _ => true
  | .borrowerRevoked _ => true
  | .lenderRevoked _ _ => true
  | .leaseAccess _ _ _ _ => true
  | .refreshManagement _ _ => true
  | .groupBuild _ _ => true
  | .groupCommit _ _ => true
  | .groupRevoke _ _ => true
  | .groupFreed _ _ => true
  | .groupPacket _ => true
  | .domainMulticast _ => true
  | .ualinkWriteAnswer _ _ _ _ => true
  | .multicastTimeout _ _ => true
  | .flitReceive _ _ => true
  | .linkNak _ => true
  | .linkTrained _ _ => true
  | .trainingTimeout _ => true
  | .laneFailure _ => true
  | .partnerLost _ => true
  | .linkRetrain _ => true
  | .linkRetire _ => true
  | .portWaitTimeout _ => true
  | .gatewayEnable _ => true
  | .gatewayDisable _ => true
  | .gatewayRestart _ _ => true
  | .coldReset _ _ => true
  | .firmwareReset _ _ => true
  | .update => true
  | .attest => true
  | .powerPeriod _ _ _ _ => true
  | .fatalError _ => true
  | .registerWrite _ _ => true
  | .softError _ _ => true
  | .mmagAcceptance _ => true
  | .chainBindRequest _ => true
  | .chainBindAnswer _ => true
  | .chainCredit _ => true

end Sys2Proof
end

