-- ==== Sys2Proof/Decode.lean ====
section
/-! DEFINITION. The decoder and the encoder of instruction words (R96 to R110).
The operation fields of a word name one candidate instruction; the word is that instruction only
if it is exactly the candidate's encoding, so that every must-be-zero field is 0, and the
candidate is well formed. -/

namespace Sys2Proof

/-- Code of an element type (R99). -/
def VType.code : VType → Nat
  | .f32 => 0 | .bf16 => 1 | .f16 => 2 | .df8 => 3 | .i32 => 4 | .i16 => 5 | .i8 => 6 | .rns => 7

/-- The element type that the low three bits name (R99). -/
def VType.ofCode (n : Nat) : Option VType :=
  match n % 8 with
  | 0 => some .f32 | 1 => some .bf16 | 2 => some .f16 | 3 => some .df8
  | 4 => some .i32 | 5 => some .i16 | 6 => some .i8 | _ => some .rns

/-- Code of a condition (R103). -/
def Cond.code : Cond → Nat
  | .eq => 0 | .ne => 1 | .lt => 2 | .ge => 3 | .ltu => 4 | .geu => 5

/-- The condition that the low three bits name (R103). -/
def Cond.ofCode (n : Nat) : Option Cond :=
  match n % 8 with
  | 0 => some .eq | 1 => some .ne | 2 => some .lt | 3 => some .ge | 4 => some .ltu | 5 => some .geu
  | _ => none

/-- Code of an FCMP condition (R104). -/
def FCond.code : FCond → Nat
  | .eq => 0 | .ne => 1 | .lt => 2 | .le => 3 | .un => 4

/-- The FCMP condition that the low three bits name (R104). -/
def FCond.ofCode (n : Nat) : Option FCond :=
  match n % 8 with
  | 0 => some .eq | 1 => some .ne | 2 => some .lt | 3 => some .le | 4 => some .un
  | _ => none

/-- Code of an FCVT format (R104). -/
def FFmt.code : FFmt → Nat
  | .f32 => 0 | .bf16 => 1 | .f16 => 2 | .df8 => 3 | .i32 => 4 | .u32 => 5 | .i64 => 6

/-- The FCVT format that the low three bits name (R104). -/
def FFmt.ofCode (n : Nat) : Option FFmt :=
  match n % 8 with
  | 0 => some .f32 | 1 => some .bf16 | 2 => some .f16 | 3 => some .df8
  | 4 => some .i32 | 5 => some .u32 | 6 => some .i64
  | _ => none

/-- Code of an LDX size (R106). -/
def LdSize.code : LdSize → Nat
  | .b => 0 | .h => 1 | .w => 2 | .d => 3 | .bu => 4 | .hu => 5 | .wu => 6

/-- The LDX size that the low three bits name (R106). -/
def LdSize.ofCode (n : Nat) : Option LdSize :=
  match n % 8 with
  | 0 => some .b | 1 => some .h | 2 => some .w | 3 => some .d
  | 4 => some .bu | 5 => some .hu | 6 => some .wu
  | _ => none

/-- Code of an STX size (R106). -/
def StSize.code : StSize → Nat
  | .b => 0 | .h => 1 | .w => 2 | .d => 3

/-- The STX size that the low two bits name (R106). -/
def StSize.ofCode (n : Nat) : Option StSize :=
  match n % 4 with
  | 0 => some .b | 1 => some .h | 2 => some .w | _ => some .d

/-- Code of a FENCE kind (R106). -/
def FenceKind.code : FenceKind → Nat
  | .acquire => 0 | .release => 1 | .full => 2

/-- The FENCE kind that the low two bits name (R106). -/
def FenceKind.ofCode (n : Nat) : Option FenceKind :=
  match n % 4 with
  | 0 => some .acquire | 1 => some .release | 2 => some .full
  | _ => none

/-- Code of a scope (R69). -/
def Scope.code : Scope → Nat
  | .strand => 0 | .core => 1 | .tile => 2 | .device => 3 | .domain => 4

/-- The scope that the low three bits name (R69). -/
def Scope.ofCode (n : Nat) : Option Scope :=
  match n % 8 with
  | 0 => some .strand | 1 => some .core | 2 => some .tile | 3 => some .device | 4 => some .domain
  | _ => none

/-- The 32-bit word of an instruction (R97 to R109); 0, the illegal word, for a step that has none. -/
def encode : Instr → Nat
  | .add d a b => 0x04000000 + d.val * 2097152 + a.val * 65536 + b.val * 2048
  | .sub d a b => 0x04000020 + d.val * 2097152 + a.val * 65536 + b.val * 2048
  | .and d a b => 0x04000040 + d.val * 2097152 + a.val * 65536 + b.val * 2048
  | .or d a b => 0x04000060 + d.val * 2097152 + a.val * 65536 + b.val * 2048
  | .xor d a b => 0x04000080 + d.val * 2097152 + a.val * 65536 + b.val * 2048
  | .andn d a b => 0x040000A0 + d.val * 2097152 + a.val * 65536 + b.val * 2048
  | .shl d a b => 0x040000C0 + d.val * 2097152 + a.val * 65536 + b.val * 2048
  | .shr d a b => 0x040000E0 + d.val * 2097152 + a.val * 65536 + b.val * 2048
  | .sar d a b => 0x04000100 + d.val * 2097152 + a.val * 65536 + b.val * 2048
  | .ror d a b => 0x04000120 + d.val * 2097152 + a.val * 65536 + b.val * 2048
  | .min d a b => 0x04000140 + d.val * 2097152 + a.val * 65536 + b.val * 2048
  | .max d a b => 0x04000160 + d.val * 2097152 + a.val * 65536 + b.val * 2048
  | .minu d a b => 0x04000180 + d.val * 2097152 + a.val * 65536 + b.val * 2048
  | .maxu d a b => 0x040001A0 + d.val * 2097152 + a.val * 65536 + b.val * 2048
  | .slt d a b => 0x040001C0 + d.val * 2097152 + a.val * 65536 + b.val * 2048
  | .sltu d a b => 0x040001E0 + d.val * 2097152 + a.val * 65536 + b.val * 2048
  | .seq d a b => 0x04000200 + d.val * 2097152 + a.val * 65536 + b.val * 2048
  | .mul d a b => 0x04000220 + d.val * 2097152 + a.val * 65536 + b.val * 2048
  | .mulh d a b => 0x04000240 + d.val * 2097152 + a.val * 65536 + b.val * 2048
  | .mulhu d a b => 0x04000260 + d.val * 2097152 + a.val * 65536 + b.val * 2048
  | .div d a b => 0x04000280 + d.val * 2097152 + a.val * 65536 + b.val * 2048
  | .divu d a b => 0x040002A0 + d.val * 2097152 + a.val * 65536 + b.val * 2048
  | .rem d a b => 0x040002C0 + d.val * 2097152 + a.val * 65536 + b.val * 2048
  | .remu d a b => 0x040002E0 + d.val * 2097152 + a.val * 65536 + b.val * 2048
  | .clz d a => 0x04000300 + d.val * 2097152 + a.val * 65536
  | .ctz d a => 0x04000320 + d.val * 2097152 + a.val * 65536
  | .popc d a => 0x04000340 + d.val * 2097152 + a.val * 65536
  | .sel d a b p => 0x04000360 + d.val * 2097152 + a.val * 65536 + b.val * 2048 + p.val
  | .addi d a i => 0x08000000 + d.val * 2097152 + a.val * 65536 + i.toNat
  | .andi d a i => 0x0C000000 + d.val * 2097152 + a.val * 65536 + i.toNat
  | .ori d a i => 0x10000000 + d.val * 2097152 + a.val * 65536 + i.toNat
  | .xori d a i => 0x14000000 + d.val * 2097152 + a.val * 65536 + i.toNat
  | .slti d a i => 0x18000000 + d.val * 2097152 + a.val * 65536 + i.toNat
  | .sltiu d a i => 0x18008000 + d.val * 2097152 + a.val * 65536 + i.toNat
  | .shli d a s => 0x1C000000 + d.val * 2097152 + a.val * 65536 + s.toNat
  | .shri d a s => 0x1C000040 + d.val * 2097152 + a.val * 65536 + s.toNat
  | .sari d a s => 0x1C000080 + d.val * 2097152 + a.val * 65536 + s.toNat
  | .rori d a s => 0x1C0000C0 + d.val * 2097152 + a.val * 65536 + s.toNat
  | .insh d h i => 0x20000000 + d.val * 2097152 + h.toNat * 65536 + i.toNat
  | .aupc d i => 0x24000000 + d.val * 2097152 + i.toNat
  | .bfx d a p w => 0x28000000 + d.val * 2097152 + a.val * 65536 + p.toNat * 64 + w.toNat
  | .bfxu d a p w => 0x28004000 + d.val * 2097152 + a.val * 65536 + p.toNat * 64 + w.toNat
  | .bfi d a p w => 0x28008000 + d.val * 2097152 + a.val * 65536 + p.toNat * 64 + w.toNat
  | .pcmp d a b c => 0x2C000000 + d.val * 2097152 + a.val * 65536 + b.val * 2048 + c.code * 8
  | .pcmpi d a i c j => 0x2C000040 + d.val * 2097152 + a.val * 65536 + i.toNat * 2048 + c.code * 8 + j.toNat
  | .pand d a b => 0x2C000080 + d.val * 2097152 + a.val * 65536 + b.val * 2048
  | .por d a b => 0x2C0000C0 + d.val * 2097152 + a.val * 65536 + b.val * 2048
  | .pxor d a b => 0x2C000100 + d.val * 2097152 + a.val * 65536 + b.val * 2048
  | .pnot d a => 0x2C000140 + d.val * 2097152 + a.val * 65536
  | .psave d => 0x2C000180 + d.val * 2097152
  | .pload a => 0x2C0001C0 + a.val * 65536
  | .pmov d a => 0x2C000200 + d.val * 2097152 + a.val * 65536
  | .fadd d a b => 0x30000000 + d.val * 2097152 + a.val * 65536 + b.val * 2048
  | .fsub d a b => 0x30000040 + d.val * 2097152 + a.val * 65536 + b.val * 2048
  | .fmul d a b => 0x30000080 + d.val * 2097152 + a.val * 65536 + b.val * 2048
  | .ffma d a b => 0x300000C0 + d.val * 2097152 + a.val * 65536 + b.val * 2048
  | .fmin d a b => 0x30000100 + d.val * 2097152 + a.val * 65536 + b.val * 2048
  | .fmax d a b => 0x30000140 + d.val * 2097152 + a.val * 65536 + b.val * 2048
  | .fneg d a => 0x30000180 + d.val * 2097152 + a.val * 65536
  | .fabs d a => 0x300001C0 + d.val * 2097152 + a.val * 65536
  | .fcmp d a b c => 0x30000200 + d.val * 2097152 + a.val * 65536 + b.val * 2048 + c.code
  | .fcvt d a s t => 0x30000240 + d.val * 2097152 + a.val * 65536 + s.code * 8 + t.code
  | .br o => 0x40000000 + o.toNat
  | .call o => 0x44000000 + o.toNat
  | .beq b a o => 0x48000000 + b.val * 2097152 + a.val * 65536 + o.toNat
  | .bne b a o => 0x4C000000 + b.val * 2097152 + a.val * 65536 + o.toNat
  | .blt b a o => 0x50000000 + b.val * 2097152 + a.val * 65536 + o.toNat
  | .bge b a o => 0x54000000 + b.val * 2097152 + a.val * 65536 + o.toNat
  | .bltu b a o => 0x58000000 + b.val * 2097152 + a.val * 65536 + o.toNat
  | .bgeu b a o => 0x5C000000 + b.val * 2097152 + a.val * 65536 + o.toNat
  | .bp p s o => 0x60000000 + p.val * 8388608 + s.toNat * 4194304 + o.toNat
  | .jr a => 0x64000000 + a.val * 65536
  | .callr a => 0x64000040 + a.val * 65536
  | .ret => 0x64000080
  | .loop a i => 0x68000000 + a.val * 65536 + i.toNat
  | .ldb d a i => 0x80000000 + d.val * 2097152 + a.val * 65536 + i.toNat
  | .ldh d a i => 0x84000000 + d.val * 2097152 + a.val * 65536 + i.toNat
  | .ldw d a i => 0x88000000 + d.val * 2097152 + a.val * 65536 + i.toNat
  | .ldd d a i => 0x8C000000 + d.val * 2097152 + a.val * 65536 + i.toNat
  | .ldbu d a i => 0x90000000 + d.val * 2097152 + a.val * 65536 + i.toNat
  | .ldhu d a i => 0x94000000 + d.val * 2097152 + a.val * 65536 + i.toNat
  | .ldwu d a i => 0x98000000 + d.val * 2097152 + a.val * 65536 + i.toNat
  | .stb b a i => 0x9C000000 + b.val * 2097152 + a.val * 65536 + i.toNat
  | .sth b a i => 0xA0000000 + b.val * 2097152 + a.val * 65536 + i.toNat
  | .stw b a i => 0xA4000000 + b.val * 2097152 + a.val * 65536 + i.toNat
  | .std b a i => 0xA8000000 + b.val * 2097152 + a.val * 65536 + i.toNat
  | .ldx d a b z s => 0xAC000000 + d.val * 2097152 + a.val * 65536 + b.val * 2048 + z.code * 8 + s.toNat * 4
  | .stx d a b z s => 0xAC000040 + d.val * 2097152 + a.val * 65536 + b.val * 2048 + z.code * 8 + s.toNat * 4
  | .aadd d a b z => 0xB0000000 + d.val * 2097152 + a.val * 65536 + b.val * 2048 + z.toNat
  | .aand d a b z => 0xB0000040 + d.val * 2097152 + a.val * 65536 + b.val * 2048 + z.toNat
  | .aor d a b z => 0xB0000080 + d.val * 2097152 + a.val * 65536 + b.val * 2048 + z.toNat
  | .axor d a b z => 0xB00000C0 + d.val * 2097152 + a.val * 65536 + b.val * 2048 + z.toNat
  | .amin d a b z => 0xB0000100 + d.val * 2097152 + a.val * 65536 + b.val * 2048 + z.toNat
  | .amax d a b z => 0xB0000140 + d.val * 2097152 + a.val * 65536 + b.val * 2048 + z.toNat
  | .aminu d a b z => 0xB0000180 + d.val * 2097152 + a.val * 65536 + b.val * 2048 + z.toNat
  | .amaxu d a b z => 0xB00001C0 + d.val * 2097152 + a.val * 65536 + b.val * 2048 + z.toNat
  | .aswp d a b z => 0xB0000200 + d.val * 2097152 + a.val * 65536 + b.val * 2048 + z.toNat
  | .acas d a b z => 0xB0000240 + d.val * 2097152 + a.val * 65536 + b.val * 2048 + z.toNat
  | .afadd d a b => 0xB0000280 + d.val * 2097152 + a.val * 65536 + b.val * 2048
  | .fence k s => 0xB4000000 + k.code * 16 + s.code
  | .send d a b r => 0xB8000000 + d.val * 2097152 + a.val * 65536 + b.val * 2048 + r.toNat
  | .sendr d a b r => 0xB8000040 + d.val * 2097152 + a.val * 65536 + b.val * 2048 + r.toNat
  | .sendl d a b r => 0xB8000080 + d.val * 2097152 + a.val * 65536 + b.val * 2048 + r.toNat
  | .spawn a b c => 0xB80000C0 + a.val * 65536 + b.val * 2048 + c.toNat
  | .reply b => 0xB8000100 + b.val * 2048
  | .mcast d a b r => 0xB8000140 + d.val * 2097152 + a.val * 65536 + b.val * 2048 + r.toNat
  | .mcastl d a b l s r => 0xB8000180 + d.val * 2097152 + a.val * 65536 + b.val * 2048 + l.toNat * 4 + s.toNat * 2 + r.toNat
  | .gred a b t => 0xB80001C0 + a.val * 65536 + b.val * 2048 + t.toNat
  | .endH => 0xBC000000
  | .armw a b c => 0xBC000040 + a.val * 65536 + b.val * 2048 + c.toNat
  | .htset a b => 0xBC000080 + a.val * 65536 + b.val * 2048
  | .htclr a => 0xBC0000C0 + a.val * 65536
  | .redlv d a b => 0xBC000100 + d.val * 2097152 + a.val * 65536 + b.val * 2048
  | .cnti a b k => 0xC0000000 + a.val * 65536 + b.val * 2048 + k.toNat
  | .cnta a b r => 0xC0000040 + a.val * 65536 + b.val * 2048 + r.toNat
  | .cntr d a c => 0xC0000080 + d.val * 2097152 + a.val * 65536 + c.toNat
  | .binit a b => 0xC00000C0 + a.val * 65536 + b.val * 2048
  | .barr d a => 0xC0000100 + d.val * 2097152 + a.val * 65536
  | .barrb d a b => 0xC0000140 + d.val * 2097152 + a.val * 65536 + b.val * 2048
  | .bdrop d a => 0xC0000180 + d.val * 2097152 + a.val * 65536
  | .btest d a b => 0xC00001C0 + d.val * 2097152 + a.val * 65536 + b.val * 2048
  | .bwait d a b => 0xC0000200 + d.val * 2097152 + a.val * 65536 + b.val * 2048
  | .bbyte a b => 0xC0000240 + a.val * 65536 + b.val * 2048
  | .qpush a n => 0xC4000000 + a.val * 65536 + n.toNat
  | .qpop d n => 0xC4000040 + d.val * 2097152 + n.toNat
  | .qcnt d n => 0xC4000080 + d.val * 2097152 + n.toNat
  | .qpeek d n => 0xC40000C0 + d.val * 2097152 + n.toNat
  | .cpy d a b => 0xC8000000 + d.val * 2097152 + a.val * 65536 + b.val * 2048
  | .cpy2 d a b => 0xC8000040 + d.val * 2097152 + a.val * 65536 + b.val * 2048
  | .cpyq d a j c => 0xC8000080 + d.val * 2097152 + a.val * 65536 + j.toNat * 8 + c.toNat
  | .cpyf d a b => 0xC80000C0 + d.val * 2097152 + a.val * 65536 + b.val * 2048
  | .gath d a b w => 0xC8000100 + d.val * 2097152 + a.val * 65536 + b.val * 2048 + w.toNat
  | .scat d a b w => 0xC8000140 + d.val * 2097152 + a.val * 65536 + b.val * 2048 + w.toNat
  | .jpoll p a => 0xC8000180 + p.val * 2097152 + a.val * 65536
  | .jwait d a => 0xC80001C0 + d.val * 2097152 + a.val * 65536
  | .jwaitAll d => 0xC80001C1 + d.val * 2097152
  | .jcwait d a u j => 0xC8000200 + d.val * 2097152 + a.val * 65536 + u.toNat * 2 + j.toNat
  | .armj a b => 0xC8000240 + a.val * 65536 + b.val * 2048
  | .mma d a b z n => 0xCC000000 + d.val * 2097152 + a.val * 65536 + b.val * 2048 + z.toNat * 4 + n.toNat
  | .mmag d a b z n => 0xCC000040 + d.val * 2097152 + a.val * 65536 + b.val * 2048 + z.toNat * 4 + n.toNat
  | .mst d a b s f n => 0xCC000080 + d.val * 2097152 + a.val * 65536 + b.val * 2048 + s.toNat * 32 + f.toNat * 4 + n.toNat
  | .mzr d c n => 0xCC0000C0 + d.val * 2097152 + c.toNat * 8 + n.toNat
  | .mzrSt d n => 0xCC0000C4 + d.val * 2097152 + n.toNat
  | .mscl a b n => 0xCC000100 + a.val * 65536 + b.val * 2048 + n.toNat
  | .gload d a b => 0xD0000000 + d.val * 2097152 + a.val * 65536 + b.val * 2048
  | .gswap d => 0xD0000040 + d.val * 2097152
  | .gswapKeep d => 0xD0000041 + d.val * 2097152
  | .gbind d a => 0xD0000080 + d.val * 2097152 + a.val * 65536
  | .gdrain d => 0xD00000C0 + d.val * 2097152
  | .gstat d x c => 0xD0000100 + d.val * 2097152 + x.toNat * 2 + c.toNat
  | .cplb a b => 0xD4000000 + a.val * 65536 + b.val * 2048
  | .cplr d a s => 0xD4000040 + d.val * 2097152 + a.val * 65536 + s.toNat
  | .cplu a b r => 0xD4000080 + a.val * 65536 + b.val * 2048 + r.toNat
  | .wgt a => 0xD40000C0 + a.val * 65536
  | .sysr d r => 0xD8000000 + d.val * 2097152 + r.toNat
  | .sysw a r => 0xD8001000 + a.val * 65536 + r.toNat
  | .trap c => 0xD8002000 + c.toNat
  | .brk c => 0xD8003000 + c.toNat
  | .resume a => 0xD8004000 + a.val * 65536
  | .probe d a => 0xD8005000 + d.val * 2097152 + a.val * 65536
  | .gwtake d => 0xD8006000 + d.val * 2097152
  | .gwdone a => 0xD8007000 + a.val * 65536
  | .vadd d a b m t s => 0xE0000000 + d.val * 4194304 + a.val * 262144 + b.val * 16384 + m.val * 2048 + t.code * 256 + s.toNat
  | .vsub d a b m t s => 0xE0000010 + d.val * 4194304 + a.val * 262144 + b.val * 16384 + m.val * 2048 + t.code * 256 + s.toNat
  | .vmul d a b m t s => 0xE0000020 + d.val * 4194304 + a.val * 262144 + b.val * 16384 + m.val * 2048 + t.code * 256 + s.toNat
  | .vfma d a b m t s => 0xE0000030 + d.val * 4194304 + a.val * 262144 + b.val * 16384 + m.val * 2048 + t.code * 256 + s.toNat
  | .vmin d a b m t u => 0xE0000040 + d.val * 4194304 + a.val * 262144 + b.val * 16384 + m.val * 2048 + t.code * 256 + u.toNat * 2
  | .vmax d a b m t u => 0xE0000050 + d.val * 4194304 + a.val * 262144 + b.val * 16384 + m.val * 2048 + t.code * 256 + u.toNat * 2
  | .vabs d a m t s => 0xE0000060 + d.val * 4194304 + a.val * 262144 + m.val * 2048 + t.code * 256 + s.toNat
  | .vneg d a m t s => 0xE0000070 + d.val * 4194304 + a.val * 262144 + m.val * 2048 + t.code * 256 + s.toNat
  | .vand d a b m t => 0xE4000000 + d.val * 4194304 + a.val * 262144 + b.val * 16384 + m.val * 2048 + t.code * 256
  | .vor d a b m t => 0xE4000010 + d.val * 4194304 + a.val * 262144 + b.val * 16384 + m.val * 2048 + t.code * 256
  | .vxor d a b m t => 0xE4000020 + d.val * 4194304 + a.val * 262144 + b.val * 16384 + m.val * 2048 + t.code * 256
  | .vshl d a b m t => 0xE4000030 + d.val * 4194304 + a.val * 262144 + b.val * 16384 + m.val * 2048 + t.code * 256
  | .vshr d a b m t => 0xE4000040 + d.val * 4194304 + a.val * 262144 + b.val * 16384 + m.val * 2048 + t.code * 256
  | .vsar d a b m t => 0xE4000050 + d.val * 4194304 + a.val * 262144 + b.val * 16384 + m.val * 2048 + t.code * 256
  | .vcmp d a b m t y c => 0xE8000000 + d.val * 4194304 + a.val * 262144 + b.val * 16384 + m.val * 2048 + t.code * 256 + y.toNat * 8 + c.toNat
  | .vsel d a b s t => 0xE8000010 + d.val * 4194304 + a.val * 262144 + b.val * 16384 + s.val * 2048 + t.code * 256
  | .vmov d a m t => 0xE8000020 + d.val * 4194304 + a.val * 262144 + m.val * 2048 + t.code * 256
  | .vbcast d a m t => 0xE8000030 + d.val * 4194304 + a.val * 262144 + m.val * 2048 + t.code * 256
  | .vext d a b t u => 0xE8000040 + d.val * 4194304 + a.val * 262144 + b.val * 16384 + t.code * 256 + u.toNat
  | .vins d a b t => 0xE8000050 + d.val * 4194304 + a.val * 262144 + b.val * 16384 + t.code * 256
  | .mand d a b => 0xEC000000 + d.val * 4194304 + a.val * 262144 + b.val * 16384
  | .mor d a b => 0xEC000010 + d.val * 4194304 + a.val * 262144 + b.val * 16384
  | .mnot d a => 0xEC000020 + d.val * 4194304 + a.val * 262144
  | .mpop d a => 0xEC000030 + d.val * 4194304 + a.val * 262144
  | .vld d a m t => 0xF0000000 + d.val * 4194304 + a.val * 262144 + m.val * 2048 + t.code * 256
  | .vst d a m t => 0xF0000010 + d.val * 4194304 + a.val * 262144 + m.val * 2048 + t.code * 256
  | .vlds d a b m t => 0xF0000020 + d.val * 4194304 + a.val * 262144 + b.val * 16384 + m.val * 2048 + t.code * 256
  | .vgth d a b m t s => 0xF0000030 + d.val * 4194304 + a.val * 262144 + b.val * 16384 + m.val * 2048 + t.code * 256 + s.toNat
  | .vsct d a b m t s => 0xF0000040 + d.val * 4194304 + a.val * 262144 + b.val * 16384 + m.val * 2048 + t.code * 256 + s.toNat
  | .vqpush a m n => 0xF0000750 + a.val * 262144 + m.val * 2048 + n.toNat
  | .vqpop d m t n => 0xF0000060 + d.val * 4194304 + m.val * 2048 + t.code * 256 + n.toNat
  | .vcvt d a m t s => 0xF4000000 + d.val * 4194304 + a.val * 262144 + m.val * 2048 + t.code * 256 + s.code
  | .vtorns d a m t => 0xF4000010 + d.val * 4194304 + a.val * 262144 + m.val * 2048 + t.code * 256
  | .vfrns d a b m t p => 0xF4000020 + d.val * 4194304 + a.val * 262144 + b.val * 16384 + m.val * 2048 + t.code * 256 + p.toNat
  | .vqnt d a b m t p => 0xF4000030 + d.val * 4194304 + a.val * 262144 + b.val * 16384 + m.val * 2048 + t.code * 256 + p.toNat
  | .vaddq d a b m t k => 0xF4000040 + d.val * 4194304 + a.val * 262144 + b.val * 16384 + m.val * 2048 + t.code * 256 + k.toNat
  | .vexp2 d a m t => 0xF8000000 + d.val * 4194304 + a.val * 262144 + m.val * 2048 + t.code * 256
  | .vlog2 d a m t => 0xF8000010 + d.val * 4194304 + a.val * 262144 + m.val * 2048 + t.code * 256
  | .vrcp d a m t => 0xF8000020 + d.val * 4194304 + a.val * 262144 + m.val * 2048 + t.code * 256
  | .vrsq d a m t => 0xF8000030 + d.val * 4194304 + a.val * 262144 + m.val * 2048 + t.code * 256
  | .vtanh d a m t => 0xF8000040 + d.val * 4194304 + a.val * 262144 + m.val * 2048 + t.code * 256
  | .vsig d a m t => 0xF8000050 + d.val * 4194304 + a.val * 262144 + m.val * 2048 + t.code * 256
  | .vred d a m t u o => 0xF8000060 + d.val * 4194304 + a.val * 262144 + m.val * 2048 + t.code * 256 + u.toNat * 4 + o.toNat
  | .vshuf d a b m t => 0xF8000070 + d.val * 4194304 + a.val * 262144 + b.val * 16384 + m.val * 2048 + t.code * 256
  | .vperm d a b m t => 0xF8000080 + d.val * 4194304 + a.val * 262144 + b.val * 16384 + m.val * 2048 + t.code * 256
  | .vtopk d a b m t x u => 0xF8000090 + d.val * 4194304 + a.val * 262144 + b.val * 16384 + m.val * 2048 + t.code * 256 + x.toNat * 2 + u.toNat
  | .vscan d a m t e u o => 0xF80000A0 + d.val * 4194304 + a.val * 262144 + m.val * 2048 + t.code * 256 + e.toNat * 8 + u.toNat * 4 + o.toNat
  | .vrng d m t => 0xF80000B0 + d.val * 4194304 + m.val * 2048 + t.code * 256
  | .rngseed a => 0xF80000C0 + a.val * 262144
  | .messageArrival _ => 0
  | .dispatch _ => 0
  | .replyArrival _ => 0
  | .counterIncrement _ => 0
  | .accessRequest _ => 0
  | .accessReply _ _ => 0
  | .barrierOperation _ => 0
  | .barrierDeadlineCheck _ => 0
  | .captureComplete _ => 0
  | .sfCompletion _ => 0
  | .refillRead _ _ => 0
  | .refillLand _ _ => 0
  | .coreFreeze _ => 0
  | .coreUnfreeze _ => 0
  | .resumePacket _ => 0
  | .doorbell _ _ => 0
  | .queueEnable _ _ => 0
  | .queueDisable _ _ => 0
  | .nop _ => 0
  | .launch _ => 0
  | .copy _ => 0
  | .signal _ => 0
  | .cond _ => 0
  | .condRetest _ => 0
  | .packetComplete _ _ => 0
  | .placement _ => 0
  | .kernelLoaded _ => 0
  | .quiescenceWave _ => 0
  | .retirementComplete _ => 0
  | .kernelStop _ => 0
  | .create _ => 0
  | .preempt _ => 0
  | .unfreeze _ => 0
  | .vacate _ => 0
  | .restore _ => 0
  | .clearf _ => 0
  | .destroy _ => 0
  | .contextCommandComplete _ => 0
  | .keyWrite _ _ => 0
  | .spinelPiece _ => 0
  | .translationResponse _ _ => 0
  | .jobStart _ _ => 0
  | .jobComplete _ _ => 0
  | .completionPush _ _ => 0
  | .jobFree _ _ => 0
  | .arrayOperation _ => 0
  | .mmagOffer _ => 0
  | .mmagReoffer _ _ => 0
  | .mmagStart _ => 0
  | .mmagCredit _ => 0
  | .mmagStep _ => 0
  | .mmagReport _ => 0
  | .fabricAdvance _ => 0
  | .graphDrainDone _ => 0
  | .chainEntry _ => 0
  | .configError _ _ _ _ => 0
  | .graphReloadComplete _ _ => 0
  | .signaturePass _ _ => 0
  | .loopSample _ _ => 0
  | .loopFault _ _ => 0
  | .rateCreditRefill _ => 0
  | .tinv _ => 0
  | .invalidationComplete => 0
  | .leaseOffer _ => 0
  | .leaseGrant _ => 0
  | .leaseActivation _ _ _ => 0
  | .leaseAnswer _ _ _ => 0
  | .leaseActivationTimeout _ => 0
  | .leaseRevoke _ _ => 0
  | .revocationNotice _ _ => 0
  | .borrowerRevoked _ => 0
  | .lenderRevoked _ _ => 0
  | .leaseAccess _ _ _ _ => 0
  | .refreshManagement _ _ => 0
  | .groupBuild _ _ => 0
  | .groupCommit _ _ => 0
  | .groupRevoke _ _ => 0
  | .groupFreed _ _ => 0
  | .groupPacket _ => 0
  | .domainMulticast _ => 0
  | .ualinkWriteAnswer _ _ _ _ => 0
  | .multicastTimeout _ _ => 0
  | .flitReceive _ _ => 0
  | .linkNak _ => 0
  | .linkTrained _ _ => 0
  | .trainingTimeout _ => 0
  | .laneFailure _ => 0
  | .partnerLost _ => 0
  | .linkRetrain _ => 0
  | .linkRetire _ => 0
  | .portWaitTimeout _ => 0
  | .gatewayEnable _ => 0
  | .gatewayDisable _ => 0
  | .gatewayRestart _ _ => 0
  | .coldReset _ _ => 0
  | .firmwareReset _ _ => 0
  | .update => 0
  | .attest => 0
  | .powerPeriod _ _ _ _ => 0
  | .fatalError _ => 0
  | .registerWrite _ _ => 0
  | .softError _ _ => 0
  | .mmagAcceptance _ => 0
  | .chainBindRequest _ => 0
  | .chainBindAnswer _ => 0
  | .chainCredit _ => 0

/-- The candidate of major opcode 0x01, by its operation field. -/
def fieldAlu (w : Nat) : Option Instr :=
  match w / 32 % 64 with
  | 0 => some (.add (Fin.ofNat 32 (w / 2097152)) (Fin.ofNat 32 (w / 65536)) (Fin.ofNat 32 (w / 2048)))
  | 1 => some (.sub (Fin.ofNat 32 (w / 2097152)) (Fin.ofNat 32 (w / 65536)) (Fin.ofNat 32 (w / 2048)))
  | 2 => some (.and (Fin.ofNat 32 (w / 2097152)) (Fin.ofNat 32 (w / 65536)) (Fin.ofNat 32 (w / 2048)))
  | 3 => some (.or (Fin.ofNat 32 (w / 2097152)) (Fin.ofNat 32 (w / 65536)) (Fin.ofNat 32 (w / 2048)))
  | 4 => some (.xor (Fin.ofNat 32 (w / 2097152)) (Fin.ofNat 32 (w / 65536)) (Fin.ofNat 32 (w / 2048)))
  | 5 => some (.andn (Fin.ofNat 32 (w / 2097152)) (Fin.ofNat 32 (w / 65536)) (Fin.ofNat 32 (w / 2048)))
  | 6 => some (.shl (Fin.ofNat 32 (w / 2097152)) (Fin.ofNat 32 (w / 65536)) (Fin.ofNat 32 (w / 2048)))
  | 7 => some (.shr (Fin.ofNat 32 (w / 2097152)) (Fin.ofNat 32 (w / 65536)) (Fin.ofNat 32 (w / 2048)))
  | 8 => some (.sar (Fin.ofNat 32 (w / 2097152)) (Fin.ofNat 32 (w / 65536)) (Fin.ofNat 32 (w / 2048)))
  | 9 => some (.ror (Fin.ofNat 32 (w / 2097152)) (Fin.ofNat 32 (w / 65536)) (Fin.ofNat 32 (w / 2048)))
  | 10 => some (.min (Fin.ofNat 32 (w / 2097152)) (Fin.ofNat 32 (w / 65536)) (Fin.ofNat 32 (w / 2048)))
  | 11 => some (.max (Fin.ofNat 32 (w / 2097152)) (Fin.ofNat 32 (w / 65536)) (Fin.ofNat 32 (w / 2048)))
  | 12 => some (.minu (Fin.ofNat 32 (w / 2097152)) (Fin.ofNat 32 (w / 65536)) (Fin.ofNat 32 (w / 2048)))
  | 13 => some (.maxu (Fin.ofNat 32 (w / 2097152)) (Fin.ofNat 32 (w / 65536)) (Fin.ofNat 32 (w / 2048)))
  | 14 => some (.slt (Fin.ofNat 32 (w / 2097152)) (Fin.ofNat 32 (w / 65536)) (Fin.ofNat 32 (w / 2048)))
  | 15 => some (.sltu (Fin.ofNat 32 (w / 2097152)) (Fin.ofNat 32 (w / 65536)) (Fin.ofNat 32 (w / 2048)))
  | 16 => some (.seq (Fin.ofNat 32 (w / 2097152)) (Fin.ofNat 32 (w / 65536)) (Fin.ofNat 32 (w / 2048)))
  | 17 => some (.mul (Fin.ofNat 32 (w / 2097152)) (Fin.ofNat 32 (w / 65536)) (Fin.ofNat 32 (w / 2048)))
  | 18 => some (.mulh (Fin.ofNat 32 (w / 2097152)) (Fin.ofNat 32 (w / 65536)) (Fin.ofNat 32 (w / 2048)))
  | 19 => some (.mulhu (Fin.ofNat 32 (w / 2097152)) (Fin.ofNat 32 (w / 65536)) (Fin.ofNat 32 (w / 2048)))
  | 20 => some (.div (Fin.ofNat 32 (w / 2097152)) (Fin.ofNat 32 (w / 65536)) (Fin.ofNat 32 (w / 2048)))
  | 21 => some (.divu (Fin.ofNat 32 (w / 2097152)) (Fin.ofNat 32 (w / 65536)) (Fin.ofNat 32 (w / 2048)))
  | 22 => some (.rem (Fin.ofNat 32 (w / 2097152)) (Fin.ofNat 32 (w / 65536)) (Fin.ofNat 32 (w / 2048)))
  | 23 => some (.remu (Fin.ofNat 32 (w / 2097152)) (Fin.ofNat 32 (w / 65536)) (Fin.ofNat 32 (w / 2048)))
  | 24 => some (.clz (Fin.ofNat 32 (w / 2097152)) (Fin.ofNat 32 (w / 65536)))
  | 25 => some (.ctz (Fin.ofNat 32 (w / 2097152)) (Fin.ofNat 32 (w / 65536)))
  | 26 => some (.popc (Fin.ofNat 32 (w / 2097152)) (Fin.ofNat 32 (w / 65536)))
  | 27 => some (.sel (Fin.ofNat 32 (w / 2097152)) (Fin.ofNat 32 (w / 65536)) (Fin.ofNat 32 (w / 2048)) (Fin.ofNat 8 w))
  | _ => none

/-- The candidate of major opcode 0x06, by its operation field. -/
def fieldSlti (w : Nat) : Option Instr :=
  match w / 32768 % 2 with
  | 0 => some (.slti (Fin.ofNat 32 (w / 2097152)) (Fin.ofNat 32 (w / 65536)) (BitVec.ofNat 15 w))
  | 1 => some (.sltiu (Fin.ofNat 32 (w / 2097152)) (Fin.ofNat 32 (w / 65536)) (BitVec.ofNat 15 w))
  | _ => none

/-- The candidate of major opcode 0x07, by its operation field. -/
def fieldShift (w : Nat) : Option Instr :=
  match w / 64 % 4 with
  | 0 => some (.shli (Fin.ofNat 32 (w / 2097152)) (Fin.ofNat 32 (w / 65536)) (BitVec.ofNat 6 w))
  | 1 => some (.shri (Fin.ofNat 32 (w / 2097152)) (Fin.ofNat 32 (w / 65536)) (BitVec.ofNat 6 w))
  | 2 => some (.sari (Fin.ofNat 32 (w / 2097152)) (Fin.ofNat 32 (w / 65536)) (BitVec.ofNat 6 w))
  | 3 => some (.rori (Fin.ofNat 32 (w / 2097152)) (Fin.ofNat 32 (w / 65536)) (BitVec.ofNat 6 w))
  | _ => none

/-- The candidate of major opcode 0x0A, by its operation field. -/
def fieldBitfield (w : Nat) : Option Instr :=
  match w / 16384 % 4 with
  | 0 => some (.bfx (Fin.ofNat 32 (w / 2097152)) (Fin.ofNat 32 (w / 65536)) (BitVec.ofNat 6 (w / 64)) (BitVec.ofNat 6 w))
  | 1 => some (.bfxu (Fin.ofNat 32 (w / 2097152)) (Fin.ofNat 32 (w / 65536)) (BitVec.ofNat 6 (w / 64)) (BitVec.ofNat 6 w))
  | 2 => some (.bfi (Fin.ofNat 32 (w / 2097152)) (Fin.ofNat 32 (w / 65536)) (BitVec.ofNat 6 (w / 64)) (BitVec.ofNat 6 w))
  | _ => none

/-- The candidate of major opcode 0x0B, by its operation field. -/
def fieldPred (w : Nat) : Option Instr :=
  match w / 64 % 32 with
  | 0 => (Cond.ofCode (w / 8)).bind fun c => some (.pcmp (Fin.ofNat 8 (w / 2097152)) (Fin.ofNat 32 (w / 65536)) (Fin.ofNat 32 (w / 2048)) c)
  | 1 => (Cond.ofCode (w / 8)).bind fun c => some (.pcmpi (Fin.ofNat 8 (w / 2097152)) (Fin.ofNat 32 (w / 65536)) (BitVec.ofNat 5 (w / 2048)) c (BitVec.ofNat 3 w))
  | 2 => some (.pand (Fin.ofNat 8 (w / 2097152)) (Fin.ofNat 8 (w / 65536)) (Fin.ofNat 8 (w / 2048)))
  | 3 => some (.por (Fin.ofNat 8 (w / 2097152)) (Fin.ofNat 8 (w / 65536)) (Fin.ofNat 8 (w / 2048)))
  | 4 => some (.pxor (Fin.ofNat 8 (w / 2097152)) (Fin.ofNat 8 (w / 65536)) (Fin.ofNat 8 (w / 2048)))
  | 5 => some (.pnot (Fin.ofNat 8 (w / 2097152)) (Fin.ofNat 8 (w / 65536)))
  | 6 => some (.psave (Fin.ofNat 32 (w / 2097152)))
  | 7 => some (.pload (Fin.ofNat 32 (w / 65536)))
  | 8 => some (.pmov (Fin.ofNat 8 (w / 2097152)) (Fin.ofNat 8 (w / 65536)))
  | _ => none

/-- The candidate of major opcode 0x0C, by its operation field. -/
def fieldFp (w : Nat) : Option Instr :=
  match w / 64 % 32 with
  | 0 => some (.fadd (Fin.ofNat 32 (w / 2097152)) (Fin.ofNat 32 (w / 65536)) (Fin.ofNat 32 (w / 2048)))
  | 1 => some (.fsub (Fin.ofNat 32 (w / 2097152)) (Fin.ofNat 32 (w / 65536)) (Fin.ofNat 32 (w / 2048)))
  | 2 => some (.fmul (Fin.ofNat 32 (w / 2097152)) (Fin.ofNat 32 (w / 65536)) (Fin.ofNat 32 (w / 2048)))
  | 3 => some (.ffma (Fin.ofNat 32 (w / 2097152)) (Fin.ofNat 32 (w / 65536)) (Fin.ofNat 32 (w / 2048)))
  | 4 => some (.fmin (Fin.ofNat 32 (w / 2097152)) (Fin.ofNat 32 (w / 65536)) (Fin.ofNat 32 (w / 2048)))
  | 5 => some (.fmax (Fin.ofNat 32 (w / 2097152)) (Fin.ofNat 32 (w / 65536)) (Fin.ofNat 32 (w / 2048)))
  | 6 => some (.fneg (Fin.ofNat 32 (w / 2097152)) (Fin.ofNat 32 (w / 65536)))
  | 7 => some (.fabs (Fin.ofNat 32 (w / 2097152)) (Fin.ofNat 32 (w / 65536)))
  | 8 => (FCond.ofCode w).bind fun c => some (.fcmp (Fin.ofNat 32 (w / 2097152)) (Fin.ofNat 32 (w / 65536)) (Fin.ofNat 32 (w / 2048)) c)
  | 9 => (FFmt.ofCode (w / 8)).bind fun s => (FFmt.ofCode w).bind fun t => some (.fcvt (Fin.ofNat 32 (w / 2097152)) (Fin.ofNat 32 (w / 65536)) s t)
  | _ => none

/-- The candidate of major opcode 0x19, by its operation field. -/
def fieldJump (w : Nat) : Option Instr :=
  match w / 64 % 32 with
  | 0 => some (.jr (Fin.ofNat 32 (w / 65536)))
  | 1 => some (.callr (Fin.ofNat 32 (w / 65536)))
  | 2 => some .ret
  | _ => none

/-- The candidate of major opcode 0x2B, by its operation field. -/
def fieldIndexed (w : Nat) : Option Instr :=
  match w / 64 % 32 with
  | 0 => (LdSize.ofCode (w / 8)).bind fun z => some (.ldx (Fin.ofNat 32 (w / 2097152)) (Fin.ofNat 32 (w / 65536)) (Fin.ofNat 32 (w / 2048)) z ((w / 4) % 2 == 1))
  | 1 => (StSize.ofCode (w / 8)).bind fun z => some (.stx (Fin.ofNat 32 (w / 2097152)) (Fin.ofNat 32 (w / 65536)) (Fin.ofNat 32 (w / 2048)) z ((w / 4) % 2 == 1))
  | _ => none

/-- The candidate of major opcode 0x2C, by its operation field. -/
def fieldAtomic (w : Nat) : Option Instr :=
  match w / 64 % 32 with
  | 0 => some (.aadd (Fin.ofNat 32 (w / 2097152)) (Fin.ofNat 32 (w / 65536)) (Fin.ofNat 32 (w / 2048)) (w % 2 == 1))
  | 1 => some (.aand (Fin.ofNat 32 (w / 2097152)) (Fin.ofNat 32 (w / 65536)) (Fin.ofNat 32 (w / 2048)) (w % 2 == 1))
  | 2 => some (.aor (Fin.ofNat 32 (w / 2097152)) (Fin.ofNat 32 (w / 65536)) (Fin.ofNat 32 (w / 2048)) (w % 2 == 1))
  | 3 => some (.axor (Fin.ofNat 32 (w / 2097152)) (Fin.ofNat 32 (w / 65536)) (Fin.ofNat 32 (w / 2048)) (w % 2 == 1))
  | 4 => some (.amin (Fin.ofNat 32 (w / 2097152)) (Fin.ofNat 32 (w / 65536)) (Fin.ofNat 32 (w / 2048)) (w % 2 == 1))
  | 5 => some (.amax (Fin.ofNat 32 (w / 2097152)) (Fin.ofNat 32 (w / 65536)) (Fin.ofNat 32 (w / 2048)) (w % 2 == 1))
  | 6 => some (.aminu (Fin.ofNat 32 (w / 2097152)) (Fin.ofNat 32 (w / 65536)) (Fin.ofNat 32 (w / 2048)) (w % 2 == 1))
  | 7 => some (.amaxu (Fin.ofNat 32 (w / 2097152)) (Fin.ofNat 32 (w / 65536)) (Fin.ofNat 32 (w / 2048)) (w % 2 == 1))
  | 8 => some (.aswp (Fin.ofNat 32 (w / 2097152)) (Fin.ofNat 32 (w / 65536)) (Fin.ofNat 32 (w / 2048)) (w % 2 == 1))
  | 9 => some (.acas (Fin.ofNat 32 (w / 2097152)) (Fin.ofNat 32 (w / 65536)) (Fin.ofNat 32 (w / 2048)) (w % 2 == 1))
  | 10 => some (.afadd (Fin.ofNat 32 (w / 2097152)) (Fin.ofNat 32 (w / 65536)) (Fin.ofNat 32 (w / 2048)))
  | _ => none

/-- The candidate of major opcode 0x2D, by its operation field. -/
def fieldFence (w : Nat) : Option Instr :=
  match w / 64 % 32 with
  | 0 => (FenceKind.ofCode (w / 16)).bind fun k => (Scope.ofCode w).bind fun s => some (.fence k s)
  | _ => none

/-- The candidate of major opcode 0x2E, by its operation field. -/
def fieldMessage (w : Nat) : Option Instr :=
  match w / 64 % 32 with
  | 0 => some (.send (Fin.ofNat 32 (w / 2097152)) (Fin.ofNat 32 (w / 65536)) (Fin.ofNat 32 (w / 2048)) (w % 2 == 1))
  | 1 => some (.sendr (Fin.ofNat 32 (w / 2097152)) (Fin.ofNat 32 (w / 65536)) (Fin.ofNat 32 (w / 2048)) (w % 2 == 1))
  | 2 => some (.sendl (Fin.ofNat 32 (w / 2097152)) (Fin.ofNat 32 (w / 65536)) (Fin.ofNat 32 (w / 2048)) (w % 2 == 1))
  | 3 => some (.spawn (Fin.ofNat 32 (w / 65536)) (Fin.ofNat 32 (w / 2048)) (BitVec.ofNat 3 w))
  | 4 => some (.reply (Fin.ofNat 32 (w / 2048)))
  | 5 => some (.mcast (Fin.ofNat 32 (w / 2097152)) (Fin.ofNat 32 (w / 65536)) (Fin.ofNat 32 (w / 2048)) (w % 2 == 1))
  | 6 => some (.mcastl (Fin.ofNat 32 (w / 2097152)) (Fin.ofNat 32 (w / 65536)) (Fin.ofNat 32 (w / 2048)) ((w / 4) % 2 == 1) ((w / 2) % 2 == 1) (w % 2 == 1))
  | 7 => some (.gred (Fin.ofNat 32 (w / 65536)) (Fin.ofNat 32 (w / 2048)) (BitVec.ofNat 2 w))
  | _ => none

/-- The candidate of major opcode 0x2F, by its operation field. -/
def fieldHandler (w : Nat) : Option Instr :=
  match w / 64 % 32 with
  | 0 => some .endH
  | 1 => some (.armw (Fin.ofNat 32 (w / 65536)) (Fin.ofNat 32 (w / 2048)) (BitVec.ofNat 3 w))
  | 2 => some (.htset (Fin.ofNat 32 (w / 65536)) (Fin.ofNat 32 (w / 2048)))
  | 3 => some (.htclr (Fin.ofNat 32 (w / 65536)))
  | 4 => some (.redlv (Fin.ofNat 32 (w / 2097152)) (Fin.ofNat 32 (w / 65536)) (Fin.ofNat 32 (w / 2048)))
  | _ => none

/-- The candidate of major opcode 0x30, by its operation field. -/
def fieldCounter (w : Nat) : Option Instr :=
  match w / 64 % 32 with
  | 0 => some (.cnti (Fin.ofNat 32 (w / 65536)) (Fin.ofNat 32 (w / 2048)) (w % 2 == 1))
  | 1 => some (.cnta (Fin.ofNat 32 (w / 65536)) (Fin.ofNat 32 (w / 2048)) (w % 2 == 1))
  | 2 => some (.cntr (Fin.ofNat 32 (w / 2097152)) (Fin.ofNat 32 (w / 65536)) (w % 2 == 1))
  | 3 => some (.binit (Fin.ofNat 32 (w / 65536)) (Fin.ofNat 32 (w / 2048)))
  | 4 => some (.barr (Fin.ofNat 32 (w / 2097152)) (Fin.ofNat 32 (w / 65536)))
  | 5 => some (.barrb (Fin.ofNat 32 (w / 2097152)) (Fin.ofNat 32 (w / 65536)) (Fin.ofNat 32 (w / 2048)))
  | 6 => some (.bdrop (Fin.ofNat 32 (w / 2097152)) (Fin.ofNat 32 (w / 65536)))
  | 7 => some (.btest (Fin.ofNat 32 (w / 2097152)) (Fin.ofNat 32 (w / 65536)) (Fin.ofNat 32 (w / 2048)))
  | 8 => some (.bwait (Fin.ofNat 32 (w / 2097152)) (Fin.ofNat 32 (w / 65536)) (Fin.ofNat 32 (w / 2048)))
  | 9 => some (.bbyte (Fin.ofNat 32 (w / 65536)) (Fin.ofNat 32 (w / 2048)))
  | _ => none

/-- The candidate of major opcode 0x31, by its operation field. -/
def fieldQueue (w : Nat) : Option Instr :=
  match w / 64 % 32 with
  | 0 => some (.qpush (Fin.ofNat 32 (w / 65536)) (BitVec.ofNat 2 w))
  | 1 => some (.qpop (Fin.ofNat 32 (w / 2097152)) (BitVec.ofNat 2 w))
  | 2 => some (.qcnt (Fin.ofNat 32 (w / 2097152)) (BitVec.ofNat 2 w))
  | 3 => some (.qpeek (Fin.ofNat 32 (w / 2097152)) (BitVec.ofNat 2 w))
  | _ => none

/-- The candidate of major opcode 0x32, by its operation field. -/
def fieldCopy (w : Nat) : Option Instr :=
  match w / 64 % 32 with
  | 0 => some (.cpy (Fin.ofNat 32 (w / 2097152)) (Fin.ofNat 32 (w / 65536)) (Fin.ofNat 32 (w / 2048)))
  | 1 => some (.cpy2 (Fin.ofNat 32 (w / 2097152)) (Fin.ofNat 32 (w / 65536)) (Fin.ofNat 32 (w / 2048)))
  | 2 => some (.cpyq (Fin.ofNat 32 (w / 2097152)) (Fin.ofNat 32 (w / 65536)) (BitVec.ofNat 2 (w / 8)) (BitVec.ofNat 3 w))
  | 3 => some (.cpyf (Fin.ofNat 32 (w / 2097152)) (Fin.ofNat 32 (w / 65536)) (Fin.ofNat 32 (w / 2048)))
  | 4 => some (.gath (Fin.ofNat 32 (w / 2097152)) (Fin.ofNat 32 (w / 65536)) (Fin.ofNat 32 (w / 2048)) (w % 2 == 1))
  | 5 => some (.scat (Fin.ofNat 32 (w / 2097152)) (Fin.ofNat 32 (w / 65536)) (Fin.ofNat 32 (w / 2048)) (w % 2 == 1))
  | 6 => some (.jpoll (Fin.ofNat 8 (w / 2097152)) (Fin.ofNat 32 (w / 65536)))
  | 7 => if w % 2 = 1 then some (.jwaitAll (Fin.ofNat 32 (w / 2097152))) else some (.jwait (Fin.ofNat 32 (w / 2097152)) (Fin.ofNat 32 (w / 65536)))
  | 8 => some (.jcwait (Fin.ofNat 32 (w / 2097152)) (Fin.ofNat 32 (w / 65536)) ((w / 2) % 2 == 1) (w % 2 == 1))
  | 9 => some (.armj (Fin.ofNat 32 (w / 65536)) (Fin.ofNat 32 (w / 2048)))
  | _ => none

/-- The candidate of major opcode 0x33, by its operation field. -/
def fieldMatrix (w : Nat) : Option Instr :=
  match w / 64 % 32 with
  | 0 => some (.mma (Fin.ofNat 32 (w / 2097152)) (Fin.ofNat 32 (w / 65536)) (Fin.ofNat 32 (w / 2048)) ((w / 4) % 2 == 1) (BitVec.ofNat 2 w))
  | 1 => some (.mmag (Fin.ofNat 32 (w / 2097152)) (Fin.ofNat 32 (w / 65536)) (Fin.ofNat 32 (w / 2048)) ((w / 4) % 2 == 1) (BitVec.ofNat 2 w))
  | 2 => some (.mst (Fin.ofNat 32 (w / 2097152)) (Fin.ofNat 32 (w / 65536)) (Fin.ofNat 32 (w / 2048)) ((w / 32) % 2 == 1) (BitVec.ofNat 3 (w / 4)) (BitVec.ofNat 2 w))
  | 3 => if w / 4 % 2 = 1 then some (.mzrSt (Fin.ofNat 32 (w / 2097152)) (BitVec.ofNat 2 w)) else some (.mzr (Fin.ofNat 32 (w / 2097152)) ((w / 8) % 2 == 1) (BitVec.ofNat 2 w))
  | 4 => some (.mscl (Fin.ofNat 32 (w / 65536)) (Fin.ofNat 32 (w / 2048)) (BitVec.ofNat 2 w))
  | _ => none

/-- The candidate of major opcode 0x34, by its operation field. -/
def fieldGraph (w : Nat) : Option Instr :=
  match w / 64 % 32 with
  | 0 => some (.gload (Fin.ofNat 32 (w / 2097152)) (Fin.ofNat 32 (w / 65536)) (Fin.ofNat 32 (w / 2048)))
  | 1 => if w % 2 = 1 then some (.gswapKeep (Fin.ofNat 32 (w / 2097152))) else some (.gswap (Fin.ofNat 32 (w / 2097152)))
  | 2 => some (.gbind (Fin.ofNat 32 (w / 2097152)) (Fin.ofNat 32 (w / 65536)))
  | 3 => some (.gdrain (Fin.ofNat 32 (w / 2097152)))
  | 4 => some (.gstat (Fin.ofNat 32 (w / 2097152)) ((w / 2) % 2 == 1) (w % 2 == 1))
  | _ => none

/-- The candidate of major opcode 0x35, by its operation field. -/
def fieldCoupling (w : Nat) : Option Instr :=
  match w / 64 % 32 with
  | 0 => some (.cplb (Fin.ofNat 32 (w / 65536)) (Fin.ofNat 32 (w / 2048)))
  | 1 => some (.cplr (Fin.ofNat 32 (w / 2097152)) (Fin.ofNat 32 (w / 65536)) (BitVec.ofNat 2 w))
  | 2 => some (.cplu (Fin.ofNat 32 (w / 65536)) (Fin.ofNat 32 (w / 2048)) (w % 2 == 1))
  | 3 => some (.wgt (Fin.ofNat 32 (w / 65536)))
  | _ => none

/-- The candidate of major opcode 0x36, by its operation field. -/
def fieldSystem (w : Nat) : Option Instr :=
  match w / 4096 % 16 with
  | 0 => some (.sysr (Fin.ofNat 32 (w / 2097152)) (BitVec.ofNat 12 w))
  | 1 => some (.sysw (Fin.ofNat 32 (w / 65536)) (BitVec.ofNat 12 w))
  | 2 => some (.trap (BitVec.ofNat 12 w))
  | 3 => some (.brk (BitVec.ofNat 12 w))
  | 4 => some (.resume (Fin.ofNat 32 (w / 65536)))
  | 5 => some (.probe (Fin.ofNat 32 (w / 2097152)) (Fin.ofNat 32 (w / 65536)))
  | 6 => some (.gwtake (Fin.ofNat 32 (w / 2097152)))
  | 7 => some (.gwdone (Fin.ofNat 32 (w / 65536)))
  | _ => none

/-- The candidate of major opcode 0x38, by its operation field. -/
def fieldVArith (w : Nat) : Option Instr :=
  match w / 16 % 16 with
  | 0 => (VType.ofCode (w / 256)).bind fun t => some (.vadd (Fin.ofNat 16 (w / 4194304)) (Fin.ofNat 16 (w / 262144)) (Fin.ofNat 16 (w / 16384)) (Fin.ofNat 8 (w / 2048)) t (w % 2 == 1))
  | 1 => (VType.ofCode (w / 256)).bind fun t => some (.vsub (Fin.ofNat 16 (w / 4194304)) (Fin.ofNat 16 (w / 262144)) (Fin.ofNat 16 (w / 16384)) (Fin.ofNat 8 (w / 2048)) t (w % 2 == 1))
  | 2 => (VType.ofCode (w / 256)).bind fun t => some (.vmul (Fin.ofNat 16 (w / 4194304)) (Fin.ofNat 16 (w / 262144)) (Fin.ofNat 16 (w / 16384)) (Fin.ofNat 8 (w / 2048)) t (w % 2 == 1))
  | 3 => (VType.ofCode (w / 256)).bind fun t => some (.vfma (Fin.ofNat 16 (w / 4194304)) (Fin.ofNat 16 (w / 262144)) (Fin.ofNat 16 (w / 16384)) (Fin.ofNat 8 (w / 2048)) t (w % 2 == 1))
  | 4 => (VType.ofCode (w / 256)).bind fun t => some (.vmin (Fin.ofNat 16 (w / 4194304)) (Fin.ofNat 16 (w / 262144)) (Fin.ofNat 16 (w / 16384)) (Fin.ofNat 8 (w / 2048)) t ((w / 2) % 2 == 1))
  | 5 => (VType.ofCode (w / 256)).bind fun t => some (.vmax (Fin.ofNat 16 (w / 4194304)) (Fin.ofNat 16 (w / 262144)) (Fin.ofNat 16 (w / 16384)) (Fin.ofNat 8 (w / 2048)) t ((w / 2) % 2 == 1))
  | 6 => (VType.ofCode (w / 256)).bind fun t => some (.vabs (Fin.ofNat 16 (w / 4194304)) (Fin.ofNat 16 (w / 262144)) (Fin.ofNat 8 (w / 2048)) t (w % 2 == 1))
  | 7 => (VType.ofCode (w / 256)).bind fun t => some (.vneg (Fin.ofNat 16 (w / 4194304)) (Fin.ofNat 16 (w / 262144)) (Fin.ofNat 8 (w / 2048)) t (w % 2 == 1))
  | _ => none

/-- The candidate of major opcode 0x39, by its operation field. -/
def fieldVLogic (w : Nat) : Option Instr :=
  match w / 16 % 16 with
  | 0 => (VType.ofCode (w / 256)).bind fun t => some (.vand (Fin.ofNat 16 (w / 4194304)) (Fin.ofNat 16 (w / 262144)) (Fin.ofNat 16 (w / 16384)) (Fin.ofNat 8 (w / 2048)) t)
  | 1 => (VType.ofCode (w / 256)).bind fun t => some (.vor (Fin.ofNat 16 (w / 4194304)) (Fin.ofNat 16 (w / 262144)) (Fin.ofNat 16 (w / 16384)) (Fin.ofNat 8 (w / 2048)) t)
  | 2 => (VType.ofCode (w / 256)).bind fun t => some (.vxor (Fin.ofNat 16 (w / 4194304)) (Fin.ofNat 16 (w / 262144)) (Fin.ofNat 16 (w / 16384)) (Fin.ofNat 8 (w / 2048)) t)
  | 3 => (VType.ofCode (w / 256)).bind fun t => some (.vshl (Fin.ofNat 16 (w / 4194304)) (Fin.ofNat 16 (w / 262144)) (Fin.ofNat 16 (w / 16384)) (Fin.ofNat 8 (w / 2048)) t)
  | 4 => (VType.ofCode (w / 256)).bind fun t => some (.vshr (Fin.ofNat 16 (w / 4194304)) (Fin.ofNat 16 (w / 262144)) (Fin.ofNat 16 (w / 16384)) (Fin.ofNat 8 (w / 2048)) t)
  | 5 => (VType.ofCode (w / 256)).bind fun t => some (.vsar (Fin.ofNat 16 (w / 4194304)) (Fin.ofNat 16 (w / 262144)) (Fin.ofNat 16 (w / 16384)) (Fin.ofNat 8 (w / 2048)) t)
  | _ => none

/-- The candidate of major opcode 0x3A, by its operation field. -/
def fieldVMove (w : Nat) : Option Instr :=
  match w / 16 % 16 with
  | 0 => (VType.ofCode (w / 256)).bind fun t => some (.vcmp (Fin.ofNat 8 (w / 4194304)) (Fin.ofNat 16 (w / 262144)) (Fin.ofNat 16 (w / 16384)) (Fin.ofNat 8 (w / 2048)) t ((w / 8) % 2 == 1) (BitVec.ofNat 3 w))
  | 1 => (VType.ofCode (w / 256)).bind fun t => some (.vsel (Fin.ofNat 16 (w / 4194304)) (Fin.ofNat 16 (w / 262144)) (Fin.ofNat 16 (w / 16384)) (Fin.ofNat 8 (w / 2048)) t)
  | 2 => (VType.ofCode (w / 256)).bind fun t => some (.vmov (Fin.ofNat 16 (w / 4194304)) (Fin.ofNat 16 (w / 262144)) (Fin.ofNat 8 (w / 2048)) t)
  | 3 => (VType.ofCode (w / 256)).bind fun t => some (.vbcast (Fin.ofNat 16 (w / 4194304)) (Fin.ofNat 16 (w / 262144)) (Fin.ofNat 8 (w / 2048)) t)
  | 4 => (VType.ofCode (w / 256)).bind fun t => some (.vext (Fin.ofNat 16 (w / 4194304)) (Fin.ofNat 16 (w / 262144)) (Fin.ofNat 16 (w / 16384)) t (w % 2 == 1))
  | 5 => (VType.ofCode (w / 256)).bind fun t => some (.vins (Fin.ofNat 16 (w / 4194304)) (Fin.ofNat 16 (w / 262144)) (Fin.ofNat 16 (w / 16384)) t)
  | _ => none

/-- The candidate of major opcode 0x3B, by its operation field. -/
def fieldVMask (w : Nat) : Option Instr :=
  match w / 16 % 16 with
  | 0 => some (.mand (Fin.ofNat 8 (w / 4194304)) (Fin.ofNat 8 (w / 262144)) (Fin.ofNat 8 (w / 16384)))
  | 1 => some (.mor (Fin.ofNat 8 (w / 4194304)) (Fin.ofNat 8 (w / 262144)) (Fin.ofNat 8 (w / 16384)))
  | 2 => some (.mnot (Fin.ofNat 8 (w / 4194304)) (Fin.ofNat 8 (w / 262144)))
  | 3 => some (.mpop (Fin.ofNat 16 (w / 4194304)) (Fin.ofNat 8 (w / 262144)))
  | _ => none

/-- The candidate of major opcode 0x3C, by its operation field. -/
def fieldVMemory (w : Nat) : Option Instr :=
  match w / 16 % 16 with
  | 0 => (VType.ofCode (w / 256)).bind fun t => some (.vld (Fin.ofNat 16 (w / 4194304)) (Fin.ofNat 16 (w / 262144)) (Fin.ofNat 8 (w / 2048)) t)
  | 1 => (VType.ofCode (w / 256)).bind fun t => some (.vst (Fin.ofNat 16 (w / 4194304)) (Fin.ofNat 16 (w / 262144)) (Fin.ofNat 8 (w / 2048)) t)
  | 2 => (VType.ofCode (w / 256)).bind fun t => some (.vlds (Fin.ofNat 16 (w / 4194304)) (Fin.ofNat 16 (w / 262144)) (Fin.ofNat 16 (w / 16384)) (Fin.ofNat 8 (w / 2048)) t)
  | 3 => (VType.ofCode (w / 256)).bind fun t => some (.vgth (Fin.ofNat 16 (w / 4194304)) (Fin.ofNat 16 (w / 262144)) (Fin.ofNat 16 (w / 16384)) (Fin.ofNat 8 (w / 2048)) t (w % 2 == 1))
  | 4 => (VType.ofCode (w / 256)).bind fun t => some (.vsct (Fin.ofNat 16 (w / 4194304)) (Fin.ofNat 16 (w / 262144)) (Fin.ofNat 16 (w / 16384)) (Fin.ofNat 8 (w / 2048)) t (w % 2 == 1))
  | 5 => some (.vqpush (Fin.ofNat 16 (w / 262144)) (Fin.ofNat 8 (w / 2048)) (BitVec.ofNat 2 w))
  | 6 => (VType.ofCode (w / 256)).bind fun t => some (.vqpop (Fin.ofNat 16 (w / 4194304)) (Fin.ofNat 8 (w / 2048)) t (BitVec.ofNat 2 w))
  | _ => none

/-- The candidate of major opcode 0x3D, by its operation field. -/
def fieldVConvert (w : Nat) : Option Instr :=
  match w / 16 % 16 with
  | 0 => (VType.ofCode (w / 256)).bind fun t => (VType.ofCode w).bind fun s => some (.vcvt (Fin.ofNat 16 (w / 4194304)) (Fin.ofNat 16 (w / 262144)) (Fin.ofNat 8 (w / 2048)) t s)
  | 1 => (VType.ofCode (w / 256)).bind fun t => some (.vtorns (Fin.ofNat 16 (w / 4194304)) (Fin.ofNat 16 (w / 262144)) (Fin.ofNat 8 (w / 2048)) t)
  | 2 => (VType.ofCode (w / 256)).bind fun t => some (.vfrns (Fin.ofNat 16 (w / 4194304)) (Fin.ofNat 16 (w / 262144)) (Fin.ofNat 16 (w / 16384)) (Fin.ofNat 8 (w / 2048)) t (BitVec.ofNat 2 w))
  | 3 => (VType.ofCode (w / 256)).bind fun t => some (.vqnt (Fin.ofNat 16 (w / 4194304)) (Fin.ofNat 16 (w / 262144)) (Fin.ofNat 16 (w / 16384)) (Fin.ofNat 8 (w / 2048)) t (BitVec.ofNat 2 w))
  | 4 => (VType.ofCode (w / 256)).bind fun t => some (.vaddq (Fin.ofNat 16 (w / 4194304)) (Fin.ofNat 16 (w / 262144)) (Fin.ofNat 16 (w / 16384)) (Fin.ofNat 8 (w / 2048)) t (BitVec.ofNat 4 w))
  | _ => none

/-- The candidate of major opcode 0x3E, by its operation field. -/
def fieldVSpecial (w : Nat) : Option Instr :=
  match w / 16 % 16 with
  | 0 => (VType.ofCode (w / 256)).bind fun t => some (.vexp2 (Fin.ofNat 16 (w / 4194304)) (Fin.ofNat 16 (w / 262144)) (Fin.ofNat 8 (w / 2048)) t)
  | 1 => (VType.ofCode (w / 256)).bind fun t => some (.vlog2 (Fin.ofNat 16 (w / 4194304)) (Fin.ofNat 16 (w / 262144)) (Fin.ofNat 8 (w / 2048)) t)
  | 2 => (VType.ofCode (w / 256)).bind fun t => some (.vrcp (Fin.ofNat 16 (w / 4194304)) (Fin.ofNat 16 (w / 262144)) (Fin.ofNat 8 (w / 2048)) t)
  | 3 => (VType.ofCode (w / 256)).bind fun t => some (.vrsq (Fin.ofNat 16 (w / 4194304)) (Fin.ofNat 16 (w / 262144)) (Fin.ofNat 8 (w / 2048)) t)
  | 4 => (VType.ofCode (w / 256)).bind fun t => some (.vtanh (Fin.ofNat 16 (w / 4194304)) (Fin.ofNat 16 (w / 262144)) (Fin.ofNat 8 (w / 2048)) t)
  | 5 => (VType.ofCode (w / 256)).bind fun t => some (.vsig (Fin.ofNat 16 (w / 4194304)) (Fin.ofNat 16 (w / 262144)) (Fin.ofNat 8 (w / 2048)) t)
  | 6 => (VType.ofCode (w / 256)).bind fun t => some (.vred (Fin.ofNat 16 (w / 4194304)) (Fin.ofNat 16 (w / 262144)) (Fin.ofNat 8 (w / 2048)) t ((w / 4) % 2 == 1) (BitVec.ofNat 2 w))
  | 7 => (VType.ofCode (w / 256)).bind fun t => some (.vshuf (Fin.ofNat 16 (w / 4194304)) (Fin.ofNat 16 (w / 262144)) (Fin.ofNat 16 (w / 16384)) (Fin.ofNat 8 (w / 2048)) t)
  | 8 => (VType.ofCode (w / 256)).bind fun t => some (.vperm (Fin.ofNat 16 (w / 4194304)) (Fin.ofNat 16 (w / 262144)) (Fin.ofNat 16 (w / 16384)) (Fin.ofNat 8 (w / 2048)) t)
  | 9 => (VType.ofCode (w / 256)).bind fun t => some (.vtopk (Fin.ofNat 16 (w / 4194304)) (Fin.ofNat 16 (w / 262144)) (Fin.ofNat 16 (w / 16384)) (Fin.ofNat 8 (w / 2048)) t ((w / 2) % 2 == 1) (w % 2 == 1))
  | 10 => (VType.ofCode (w / 256)).bind fun t => some (.vscan (Fin.ofNat 16 (w / 4194304)) (Fin.ofNat 16 (w / 262144)) (Fin.ofNat 8 (w / 2048)) t ((w / 8) % 2 == 1) ((w / 4) % 2 == 1) (BitVec.ofNat 2 w))
  | 11 => (VType.ofCode (w / 256)).bind fun t => some (.vrng (Fin.ofNat 16 (w / 4194304)) (Fin.ofNat 8 (w / 2048)) t)
  | 12 => some (.rngseed (Fin.ofNat 16 (w / 262144)))
  | _ => none

/-- The one instruction a word may stand for, by its major opcode and operation field (R100 to R109).
Fields that must be zero, and reserved codes, are checked afterwards. -/
def candidate (w : Nat) : Option Instr :=
  match w / 67108864 with
  | 1 => fieldAlu w
  | 2 => some (.addi (Fin.ofNat 32 (w / 2097152)) (Fin.ofNat 32 (w / 65536)) (BitVec.ofNat 16 w))
  | 3 => some (.andi (Fin.ofNat 32 (w / 2097152)) (Fin.ofNat 32 (w / 65536)) (BitVec.ofNat 16 w))
  | 4 => some (.ori (Fin.ofNat 32 (w / 2097152)) (Fin.ofNat 32 (w / 65536)) (BitVec.ofNat 16 w))
  | 5 => some (.xori (Fin.ofNat 32 (w / 2097152)) (Fin.ofNat 32 (w / 65536)) (BitVec.ofNat 16 w))
  | 6 => fieldSlti w
  | 7 => fieldShift w
  | 8 => some (.insh (Fin.ofNat 32 (w / 2097152)) (BitVec.ofNat 2 (w / 65536)) (BitVec.ofNat 16 w))
  | 9 => some (.aupc (Fin.ofNat 32 (w / 2097152)) (BitVec.ofNat 16 w))
  | 10 => fieldBitfield w
  | 11 => fieldPred w
  | 12 => fieldFp w
  | 16 => some (.br (BitVec.ofNat 26 w))
  | 17 => some (.call (BitVec.ofNat 26 w))
  | 18 => some (.beq (Fin.ofNat 32 (w / 2097152)) (Fin.ofNat 32 (w / 65536)) (BitVec.ofNat 16 w))
  | 19 => some (.bne (Fin.ofNat 32 (w / 2097152)) (Fin.ofNat 32 (w / 65536)) (BitVec.ofNat 16 w))
  | 20 => some (.blt (Fin.ofNat 32 (w / 2097152)) (Fin.ofNat 32 (w / 65536)) (BitVec.ofNat 16 w))
  | 21 => some (.bge (Fin.ofNat 32 (w / 2097152)) (Fin.ofNat 32 (w / 65536)) (BitVec.ofNat 16 w))
  | 22 => some (.bltu (Fin.ofNat 32 (w / 2097152)) (Fin.ofNat 32 (w / 65536)) (BitVec.ofNat 16 w))
  | 23 => some (.bgeu (Fin.ofNat 32 (w / 2097152)) (Fin.ofNat 32 (w / 65536)) (BitVec.ofNat 16 w))
  | 24 => some (.bp (Fin.ofNat 8 (w / 8388608)) ((w / 4194304) % 2 == 1) (BitVec.ofNat 16 w))
  | 25 => fieldJump w
  | 26 => some (.loop (Fin.ofNat 32 (w / 65536)) (BitVec.ofNat 16 w))
  | 32 => some (.ldb (Fin.ofNat 32 (w / 2097152)) (Fin.ofNat 32 (w / 65536)) (BitVec.ofNat 16 w))
  | 33 => some (.ldh (Fin.ofNat 32 (w / 2097152)) (Fin.ofNat 32 (w / 65536)) (BitVec.ofNat 16 w))
  | 34 => some (.ldw (Fin.ofNat 32 (w / 2097152)) (Fin.ofNat 32 (w / 65536)) (BitVec.ofNat 16 w))
  | 35 => some (.ldd (Fin.ofNat 32 (w / 2097152)) (Fin.ofNat 32 (w / 65536)) (BitVec.ofNat 16 w))
  | 36 => some (.ldbu (Fin.ofNat 32 (w / 2097152)) (Fin.ofNat 32 (w / 65536)) (BitVec.ofNat 16 w))
  | 37 => some (.ldhu (Fin.ofNat 32 (w / 2097152)) (Fin.ofNat 32 (w / 65536)) (BitVec.ofNat 16 w))
  | 38 => some (.ldwu (Fin.ofNat 32 (w / 2097152)) (Fin.ofNat 32 (w / 65536)) (BitVec.ofNat 16 w))
  | 39 => some (.stb (Fin.ofNat 32 (w / 2097152)) (Fin.ofNat 32 (w / 65536)) (BitVec.ofNat 16 w))
  | 40 => some (.sth (Fin.ofNat 32 (w / 2097152)) (Fin.ofNat 32 (w / 65536)) (BitVec.ofNat 16 w))
  | 41 => some (.stw (Fin.ofNat 32 (w / 2097152)) (Fin.ofNat 32 (w / 65536)) (BitVec.ofNat 16 w))
  | 42 => some (.std (Fin.ofNat 32 (w / 2097152)) (Fin.ofNat 32 (w / 65536)) (BitVec.ofNat 16 w))
  | 43 => fieldIndexed w
  | 44 => fieldAtomic w
  | 45 => fieldFence w
  | 46 => fieldMessage w
  | 47 => fieldHandler w
  | 48 => fieldCounter w
  | 49 => fieldQueue w
  | 50 => fieldCopy w
  | 51 => fieldMatrix w
  | 52 => fieldGraph w
  | 53 => fieldCoupling w
  | 54 => fieldSystem w
  | 56 => fieldVArith w
  | 57 => fieldVLogic w
  | 58 => fieldVMove w
  | 59 => fieldVMask w
  | 60 => fieldVMemory w
  | 61 => fieldVConvert w
  | 62 => fieldVSpecial w
  | _ => none

/-- Why a word is refused (R110 step 1). -/
inductive DecodeError where
  /-- The major opcode or the operation field is reserved, or an enumerated code is. -/
  | reserved
  /-- A field or bit that must be zero is not. -/
  | mustBeZero
  /-- A type, modifier, constraint, register number or direction the entry does not accept. -/
  | notAccepted
  deriving DecidableEq, Repr

/-- The instruction a word stands for, or why it stands for none. -/
def decodeWord (w : Nat) : Except DecodeError Instr :=
  match candidate w with
  | none => .error .reserved
  | some i =>
    if encode i = w then
      if i.wf then .ok i else .error .notAccepted
    else .error .mustBeZero

/-- The instruction a word stands for, if any. -/
def decode (w : Nat) : Option Instr :=
  match decodeWord w with
  | .ok i => some i
  | .error _ => none

/-- The four bytes of a word, least significant first (R96), as a number again. -/
def wordOfBytes : List Byte → Nat
  | [] => 0
  | b :: bs => b.toNat + 256 * wordOfBytes bs

/-- The decoder on any bytes in memory order: the instruction and the bytes after it. -/
def decodeBytes (bs : List Byte) : Option (Instr × List Byte) :=
  if bs.length < 4 then none
  else
    match decode (wordOfBytes (bs.take 4)) with
    | some i => some (i, bs.drop 4)
    | none => none

/-- The bytes of a word in memory order (R96). -/
def bytesOfWord (w : Nat) : List Byte :=
  [BitVec.ofNat 8 w, BitVec.ofNat 8 (w / 256), BitVec.ofNat 8 (w / 65536), BitVec.ofNat 8 (w / 16777216)]

/-- The instruction that the decoder reads from the word whose bits, numbered as the opcode table
numbers them, are `w`; every instruction is one word of 32 bits (R96), so `nbits` is 32. -/
def decodeTableWord (nbits w : Nat) : Option Instr :=
  if nbits ≤ 32 then
    match decodeBytes (bytesOfWord w) with
    | some (i, _) => if w < 4294967296 then some i else none
    | none => none
  else none

end Sys2Proof
end

