-- ==== Sys2Proof/Machine/Crypto.lean ====
section
/-! DEFINITION. The algorithms the manual names by their standards: AES-256-XTS of the memory lines
(R400, R437), SHA3-512 of the attestation report (R468) and the CRC-16 of the torus flits (R440).
The ciphers are those of the public standards (assumption log 8). Bytes are numbers below 256. -/

namespace Sys2Proof.Machine

/-! ### AES-256 -/

/-- The substitution table of AES. -/
def aesSbox : List Nat :=
  [99, 124, 119, 123, 242, 107, 111, 197, 48, 1, 103, 43, 254, 215, 171, 118, 202, 130, 201, 125, 250, 89, 71, 240, 173, 212, 162, 175, 156, 164, 114, 192] ++
  [183, 253, 147, 38, 54, 63, 247, 204, 52, 165, 229, 241, 113, 216, 49, 21, 4, 199, 35, 195, 24, 150, 5, 154, 7, 18, 128, 226, 235, 39, 178, 117] ++
  [9, 131, 44, 26, 27, 110, 90, 160, 82, 59, 214, 179, 41, 227, 47, 132, 83, 209, 0, 237, 32, 252, 177, 91, 106, 203, 190, 57, 74, 76, 88, 207] ++
  [208, 239, 170, 251, 67, 77, 51, 133, 69, 249, 2, 127, 80, 60, 159, 168, 81, 163, 64, 143, 146, 157, 56, 245, 188, 182, 218, 33, 16, 255, 243, 210] ++
  [205, 12, 19, 236, 95, 151, 68, 23, 196, 167, 126, 61, 100, 93, 25, 115, 96, 129, 79, 220, 34, 42, 144, 136, 70, 238, 184, 20, 222, 94, 11, 219] ++
  [224, 50, 58, 10, 73, 6, 36, 92, 194, 211, 172, 98, 145, 149, 228, 121, 231, 200, 55, 109, 141, 213, 78, 169, 108, 86, 244, 234, 101, 122, 174, 8] ++
  [186, 120, 37, 46, 28, 166, 180, 198, 232, 221, 116, 31, 75, 189, 139, 138, 112, 62, 181, 102, 72, 3, 246, 14, 97, 53, 87, 185, 134, 193, 29, 158] ++
  [225, 248, 152, 17, 105, 217, 142, 148, 155, 30, 135, 233, 206, 85, 40, 223, 140, 161, 137, 13, 191, 230, 66, 104, 65, 153, 45, 15, 176, 84, 187, 22]

/-- A byte through the substitution table. -/
def aesSub (b : Nat) : Nat := aesSbox.getD b 0

/-- A byte through the inverse substitution. -/
def aesInvSub (b : Nat) : Nat := aesSbox.findIdx (· == b)

/-- Twice a byte in the field of AES. -/
def aesDouble (b : Nat) : Nat :=
  if b < 128 then 2 * b else (2 * b - 256) ^^^ 27

/-- A byte times a constant below 16 in the field of AES. -/
def aesTimes (k b : Nat) : Nat :=
  let b2 := aesDouble b
  let b4 := aesDouble b2
  let b8 := aesDouble b4
  (if k % 2 = 1 then b else 0) ^^^ (if k / 2 % 2 = 1 then b2 else 0) ^^^
    (if k / 4 % 2 = 1 then b4 else 0) ^^^ (if k / 8 % 2 = 1 then b8 else 0)

/-- Two blocks added. -/
def xorBytes (x y : List Nat) : List Nat := List.zipWith (· ^^^ ·) x y

/-- The next word of the key schedule, from the eight words before it. -/
def aesNextWord (i : Nat) (w7 w0 : List Nat) (rcon : Nat) : List Nat :=
  if i % 8 = 0 then
    xorBytes w0 (xorBytes ((w7.drop 1 ++ w7.take 1).map aesSub) [rcon, 0, 0, 0])
  else if i % 8 = 4 then xorBytes w0 (w7.map aesSub)
  else xorBytes w0 w7

/-- The key schedule, newest word first; `n` further words. -/
def aesExpand : Nat → Nat → Nat → List (List Nat) → List (List Nat)
  | 0, _, _, ws => ws
  | n + 1, i, rcon, ws =>
    let w := aesNextWord i (ws.getD 0 []) (ws.getD 7 []) rcon
    aesExpand n (i + 1) (if i % 8 = 0 then aesDouble rcon else rcon) (w :: ws)

/-- A list cut into pieces of `k`. -/
def chunks {α : Type} (k : Nat) : Nat → List α → List (List α)
  | 0, _ => []
  | n + 1, l => l.take k :: chunks k n (l.drop k)

/-- The fifteen round keys of a 32-byte key. -/
def aesRoundKeys (key : List Nat) : List (List Nat) :=
  let ws := (aesExpand 52 8 1 (chunks 4 8 key).reverse).reverse
  (chunks 4 15 ws).map List.flatten

/-- ShiftRows by `k` columns per row: byte 4 c + r comes from column c + k r. -/
def aesShift (k : Nat) (x : List Nat) : List Nat :=
  (List.range 16).map fun i => x.getD (4 * ((i / 4 + k * (i % 4)) % 4) + i % 4) 0

/-- One column times the circulant matrix whose first row is given. -/
def aesColumn (a b c d : Nat) (x : List Nat) : List Nat :=
  let x0 := x.getD 0 0
  let x1 := x.getD 1 0
  let x2 := x.getD 2 0
  let x3 := x.getD 3 0
  let f := fun p q r t => aesTimes a p ^^^ aesTimes b q ^^^ aesTimes c r ^^^ aesTimes d t
  [f x0 x1 x2 x3, f x1 x2 x3 x0, f x2 x3 x0 x1, f x3 x0 x1 x2]

/-- MixColumns with a circulant matrix. -/
def aesMix (a b c d : Nat) (x : List Nat) : List Nat :=
  ((chunks 4 4 x).map (aesColumn a b c d)).flatten

/-- One block enciphered. -/
def aesEncrypt (key block : List Nat) : List Nat :=
  match aesRoundKeys key with
  | [] => block
  | k0 :: ks =>
    let x := xorBytes block k0
    let y := (ks.take 13).foldl (fun x k => xorBytes (aesMix 2 3 1 1 (aesShift 1 (x.map aesSub))) k) x
    xorBytes (aesShift 1 (y.map aesSub)) (ks.getD 13 [])

/-- One block deciphered. -/
def aesDecrypt (key block : List Nat) : List Nat :=
  match (aesRoundKeys key).reverse with
  | [] => block
  | k14 :: ks =>
    let x := (aesShift 3 (xorBytes block k14)).map aesInvSub
    let y := (ks.take 13).foldl
      (fun x k => (aesShift 3 (aesMix 14 11 13 9 (xorBytes x k))).map aesInvSub) x
    xorBytes y (ks.getD 13 [])

/-! ### XTS -/

/-- The `n` low bytes of a number, least significant first. -/
def natBytes : Nat → Nat → List Nat
  | 0, _ => []
  | n + 1, v => v % 256 :: natBytes n (v / 256)

/-- The number whose bytes these are, least significant first. -/
def bytesNat : List Nat → Nat
  | [] => 0
  | b :: r => b + 256 * bytesNat r

/-- The next block tweak: doubling in the field of 2^128. -/
def xtsDouble (t : Nat) : Nat :=
  let d := 2 * t
  if d < 2 ^ 128 then d else (d - 2 ^ 128) ^^^ 135

/-- The blocks of a data unit, each under its tweak. -/
def xtsBlocks (f : List Nat → List Nat) : Nat → Nat → List Nat → List Nat
  | 0, _, _ => []
  | n + 1, t, l =>
    let tb := natBytes 16 t
    xorBytes (f (xorBytes (l.take 16) tb)) tb ++ xtsBlocks f n (xtsDouble t) (l.drop 16)

/-- A 64-byte line enciphered; bytes [31:0] of the slot are the data key, [63:32] the tweak key, and
the tweak is the line number (R400). -/
def xtsEncrypt (slot : BitVec 512) (line : Nat) (bytes : List Nat) : List Nat :=
  let k := natBytes 64 slot.toNat
  xtsBlocks (aesEncrypt (k.take 32)) 4 (bytesNat (aesEncrypt (k.drop 32) (natBytes 16 line))) bytes

/-- A 64-byte line deciphered. -/
def xtsDecrypt (slot : BitVec 512) (line : Nat) (bytes : List Nat) : List Nat :=
  let k := natBytes 64 slot.toNat
  xtsBlocks (aesDecrypt (k.take 32)) 4 (bytesNat (aesEncrypt (k.drop 32) (natBytes 16 line))) bytes

/-! ### SHA3-512 -/

/-- A 64-bit lane rotated left. -/
def rotl64 (x k : Nat) : Nat := (x * 2 ^ k % 2 ^ 64) ||| (x / 2 ^ (64 - k))

/-- Rotation amounts of Keccak, at x + 5 y. -/
def keccakRot : List Nat :=
  [0, 1, 62, 28, 27, 36, 44, 6, 55, 20, 3, 10, 43, 25, 39, 41, 45, 15, 21, 8, 18, 2, 61, 56, 14]

/-- Round constants of Keccak. -/
def keccakRc : List Nat :=
  [0x1, 0x8082, 0x800000000000808A, 0x8000000080008000, 0x808B, 0x80000001,
   0x8000000080008081, 0x8000000000008009, 0x8A, 0x88, 0x80008009, 0x8000000A] ++
  [0x8000808B, 0x800000000000008B, 0x8000000000008089, 0x8000000000008003, 0x8000000000008002,
   0x8000000000000080, 0x800A, 0x800000008000000A, 0x8000000080008081, 0x8000000000008080,
   0x80000001, 0x8000000080008008]

/-- One round of Keccak on 25 lanes, lane x + 5 y. -/
def keccakRound (a : List Nat) (rc : Nat) : List Nat :=
  let g := fun (l : List Nat) i => l.getD i 0
  let c := (List.range 5).map fun x => g a x ^^^ g a (x + 5) ^^^ g a (x + 10) ^^^ g a (x + 15) ^^^ g a (x + 20)
  let d := (List.range 5).map fun x => g c ((x + 4) % 5) ^^^ rotl64 (g c ((x + 1) % 5)) 1
  let a := (List.range 25).map fun i => g a i ^^^ g d (i % 5)
  -- lane (x, y) moves to (y, 2 x + 3 y)
  let b := (List.range 25).map fun i =>
    let y' := i / 5
    let x' := i % 5
    let x := (x' + 3 * y') % 5
    let j := x + 5 * x'
    rotl64 (g a j) (g keccakRot j)
  (List.range 25).map fun i =>
    let y := i / 5 * 5
    let v := g b i ^^^ ((2 ^ 64 - 1 - g b (y + (i + 1) % 5)) &&& g b (y + (i % 5 + 2) % 5))
    if i = 0 then v ^^^ rc else v

/-- The permutation of Keccak. -/
def keccakF (a : List Nat) : List Nat := keccakRc.foldl keccakRound a

/-- Absorption of `n` blocks of 72 bytes. -/
def sha3Absorb : Nat → List Nat → List Nat → List Nat
  | 0, a, _ => a
  | n + 1, a, m =>
    let lanes := (chunks 8 9 m).map bytesNat
    let a' := keccakF ((List.range 25).map fun i => a.getD i 0 ^^^ lanes.getD i 0)
    sha3Absorb n a' (m.drop 72)

/-- SHA3-512 of a byte list. -/
def sha3_512 (m : List Nat) : List Nat :=
  let pad := 72 - m.length % 72
  let tail := if pad = 1 then [0x86] else 0x06 :: (List.replicate (pad - 2) 0 ++ [0x80])
  let p := m ++ tail
  let a := sha3Absorb (p.length / 72) (List.replicate 25 0) p
  ((a.take 8).map (natBytes 8)).flatten

/-! ### CRC-16 -/

/-- One bit of the CRC with polynomial 0x1021. -/
def crcBit (c : Nat) : Nat :=
  if c / 32768 % 2 = 1 then (2 * c % 65536) ^^^ 0x1021 else 2 * c % 65536

/-- One byte of the CRC. -/
def crcByte (c b : Nat) : Nat :=
  crcBit (crcBit (crcBit (crcBit (crcBit (crcBit (crcBit (crcBit (c ^^^ (b * 256 % 65536)))))))))

/-- CRC-16 of the 64 data bytes and the sideband bits [31:16] of a flit (R440). -/
def flitCrc (data : List Nat) (side : Nat) : Nat :=
  (data ++ natBytes 2 (side / 65536)).foldl crcByte 0xFFFF

end Sys2Proof.Machine
end

