-- ==== Sys2Proof/Machine/Flags.lean ====
section
/-! DEFINITION. Floating-point numbers, rounding and the flags they set (R28 to R40, R48), and the
residue format (R43 to R49). A value is exact until `roundFmt`, `toDf8` or `toInt` narrows it. -/

namespace Sys2Proof.Machine

/-! ### Flags -/

/-- No flag (R132). -/
def flagNone : BitVec 5 := 0
/-- NV, invalid operation (R34). -/
def flagNV : BitVec 5 := 16
/-- DZ, divide by zero (R34). -/
def flagDZ : BitVec 5 := 8
/-- OV, overflow (R34). -/
def flagOV : BitVec 5 := 4
/-- UF, underflow (R34). -/
def flagUF : BitVec 5 := 2
/-- NX, inexact (R34). -/
def flagNX : BitVec 5 := 1

/-- A flag if a condition holds. -/
def flagIf (c : Bool) (f : BitVec 5) : BitVec 5 := if c then f else flagNone

/-! ### Exact values -/

/-- A floating-point datum: a NaN (signalling or quiet), an infinity, or (-1)^neg × m × 2^e. -/
inductive FNum where
  | nan (signalling : Bool)
  | inf (neg : Bool)
  | fin (neg : Bool) (m : Nat) (e : Int)
  deriving DecidableEq, Repr

/-- The formats with infinities (R28). -/
inductive Fmt where
  | f32 | bf16 | f16
  deriving DecidableEq, Repr

/-- Fraction bits (R28). -/
def Fmt.frac : Fmt → Nat
  | .f32 => 23 | .bf16 => 7 | .f16 => 10

/-- Exponent bits (R28). -/
def Fmt.ebits : Fmt → Nat
  | .f32 => 8 | .bf16 => 8 | .f16 => 5

/-- Exponent bias (R28). -/
def Fmt.bias : Fmt → Nat
  | .f32 => 127 | .bf16 => 127 | .f16 => 15

/-- Width in bits (R28). -/
def Fmt.width (f : Fmt) : Nat := 1 + f.ebits + f.frac

/-- Exponent of the smallest normal number (R28). -/
def Fmt.emin (f : Fmt) : Int := 1 - (f.bias : Int)

/-- The canonical NaN (R30). -/
def Fmt.nanBits : Fmt → Nat
  | .f32 => 0x7FC00000 | .bf16 => 0x7FC0 | .f16 => 0x7E00

/-- The code of an infinity. -/
def Fmt.infBits (f : Fmt) (neg : Bool) : Nat :=
  neg.toNat * 2 ^ (f.ebits + f.frac) + (2 ^ f.ebits - 1) * 2 ^ f.frac

/-- The code of the largest finite number. -/
def Fmt.maxBits (f : Fmt) (neg : Bool) : Nat := f.infBits neg - 1

/-- The datum a code of the format stands for (R28). -/
def decodeFp (f : Fmt) (bits : Nat) : FNum :=
  let fr := bits % 2 ^ f.frac
  let ex := bits / 2 ^ f.frac % 2 ^ f.ebits
  let neg := bits / 2 ^ (f.frac + f.ebits) % 2 == 1
  if ex = 2 ^ f.ebits - 1 then
    if fr = 0 then .inf neg else .nan (fr / 2 ^ (f.frac - 1) % 2 == 0)
  else if ex = 0 then .fin neg fr (f.emin - f.frac)
  else .fin neg (2 ^ f.frac + fr) ((ex : Int) - f.bias - f.frac)

/-- The datum a DF8 code stands for (R36). -/
def decodeDf8 (bits : Nat) : FNum :=
  let c := bits % 256
  let fr := c % 8
  let ex := c / 8 % 16
  let neg := c / 128 == 1
  if c = 0x80 then .nan false
  else if ex = 0 then .fin neg fr (-9)
  else .fin neg (8 + fr) ((ex : Int) - 10)

/-- An integer as an exact value; 0 is positive. -/
def FNum.ofInt (i : Int) : FNum := .fin (decide (i < 0)) i.natAbs 0

/-- Whether the datum is a NaN. -/
def FNum.isNan : FNum → Bool
  | .nan _ => true
  | .inf _ => false
  | .fin _ _ _ => false

/-- Whether the datum is a signalling NaN (R30). -/
def FNum.isSnan : FNum → Bool
  | .nan b => b
  | .inf _ => false
  | .fin _ _ _ => false

/-- Whether the datum is a zero. -/
def FNum.isZero : FNum → Bool
  | .nan _ => false
  | .inf _ => false
  | .fin _ m _ => m == 0

/-- The sign; false for a NaN. -/
def FNum.isNeg : FNum → Bool
  | .nan _ => false
  | .inf n => n
  | .fin n _ _ => n

/-- The datum with the opposite sign. -/
def FNum.neg : FNum → FNum
  | .nan b => .nan b
  | .inf n => .inf (!n)
  | .fin n m e => .fin (!n) m e

/-- The datum with a positive sign. -/
def FNum.abs : FNum → FNum
  | .nan b => .nan b
  | .inf _ => .inf false
  | .fin _ m e => .fin false m e

/-- A signed magnitude as an integer. -/
def signed (neg : Bool) (m : Nat) : Int := if neg then -(m : Int) else m

/-- The integer `m × 2^(e − e0)` with its sign, for `e0 ≤ e`. -/
def alignTo (neg : Bool) (m : Nat) (e e0 : Int) : Int := signed neg (m * 2 ^ (e - e0).toNat)

/-- Whether `x < y`, for data that are not NaNs; the zeros are equal. -/
def FNum.lt : FNum → FNum → Bool
  | .nan _, _ => false
  | _, .nan _ => false
  | .inf a, .inf b => a && !b
  | .inf a, .fin _ _ _ => a
  | .fin _ _ _, .inf b => !b
  | .fin n m e, .fin n' m' e' =>
    decide (alignTo n m e (min e e') < alignTo n' m' e' (min e e'))

/-- Whether `x = y` as numbers; NaNs equal nothing. -/
def FNum.eq (x y : FNum) : Bool := !x.isNan && !y.isNan && !x.lt y && !y.lt x

/-! ### Exact operations; the second component is the flags they set -/

/-- The sum, exact; `down` says that the mode is RDN, which decides the sign of a zero (R146). -/
def FNum.add (down : Bool) (x y : FNum) : FNum × BitVec 5 :=
  let s := flagIf (x.isSnan || y.isSnan) flagNV
  match x, y with
  | .nan _, _ => (.nan false, s)
  | _, .nan _ => (.nan false, s)
  | .inf a, .inf b => if a = b then (.inf a, s) else (.nan false, flagNV)
  | .inf a, .fin _ _ _ => (.inf a, s)
  | .fin _ _ _, .inf b => (.inf b, s)
  | .fin n m e, .fin n' m' e' =>
    let e0 := min e e'
    let t := alignTo n m e e0 + alignTo n' m' e' e0
    if t = 0 then (.fin (if n = n' then n else down) 0 0, s)
    else (.fin (decide (t < 0)) t.natAbs e0, s)

/-- The product, exact (R34 for 0 × ∞). -/
def FNum.mul (x y : FNum) : FNum × BitVec 5 :=
  let s := flagIf (x.isSnan || y.isSnan) flagNV
  match x, y with
  | .nan _, _ => (.nan false, s)
  | _, .nan _ => (.nan false, s)
  | .inf a, .inf b => (.inf (a != b), s)
  | .inf a, .fin b m _ => if m = 0 then (.nan false, flagNV) else (.inf (a != b), s)
  | .fin a m _, .inf b => if m = 0 then (.nan false, flagNV) else (.inf (a != b), s)
  | .fin a m e, .fin b m' e' => (.fin (a != b) (m * m') (e + e'), s)

/-- `z + x × y`, the product exact inside the sum (R146, R181). -/
def FNum.fma (down : Bool) (z x y : FNum) : FNum × BitVec 5 :=
  let p := x.mul y
  let t := FNum.add down z p.1
  (t.1, p.2 ||| t.2)

/-- The value times `2^k`. -/
def FNum.scale (x : FNum) (k : Int) : FNum :=
  match x with
  | .nan b => .nan b
  | .inf n => .inf n
  | .fin n m e => .fin n m (e + k)

/-! ### Rounding (R32) -/

/-- Rounding modes of FPCTL (R131). -/
def rmRNE : BitVec 2 := 0
/-- Toward zero. -/
def rmRTZ : BitVec 2 := 1
/-- Downward. -/
def rmRDN : BitVec 2 := 2
/-- Upward. -/
def rmRUP : BitVec 2 := 3

/-- The magnitude `m × 2^e` rounded to a multiple of `2^q`, as the multiple; the second component
says that it differs from the exact magnitude (R32). -/
def roundMag (rm : BitVec 2) (neg : Bool) (m : Nat) (e q : Int) : Nat × Bool :=
  if q ≤ e then (m * 2 ^ (e - q).toNat, false)
  else
    let s := (q - e).toNat
    let d := m / 2 ^ s
    let r := m % 2 ^ s
    if r = 0 then (d, false)
    else
      let up :=
        if rm = 0 then decide (2 ^ s < 2 * r) || (decide (2 * r = 2 ^ s) && d % 2 == 1)
        else if rm = 1 then false
        else if rm = 2 then neg
        else !neg
      (if up then d + 1 else d, true)

/-- floor (log2 (m × 2^e)), for `m` nonzero. -/
def floorLog (m : Nat) (e : Int) : Int := (Nat.log2 m : Int) + e

/-- The code of the finite magnitude `r × 2^q` with `r` below `2^(frac+1)`; a normal number has
`r` at or above `2^frac`, and a subnormal one has `q = emin − frac`. -/
def packFp (f : Fmt) (neg : Bool) (r : Nat) (q : Int) : Nat :=
  let sign := neg.toNat * 2 ^ (f.ebits + f.frac)
  if r < 2 ^ f.frac then sign + r
  else sign + (q + f.frac + f.bias).toNat * 2 ^ f.frac + (r - 2 ^ f.frac)

/-- Round(x, fmt, mode) with the flags of R34; `fz` flushes a subnormal result (R35). -/
def roundFmt (f : Fmt) (rm : BitVec 2) (fz : Bool) (x : FNum) : Nat × BitVec 5 :=
  match x with
  | .nan _ => (f.nanBits, flagNone)
  | .inf n => (f.infBits n, flagNone)
  | .fin n m e =>
    if m = 0 then (n.toNat * 2 ^ (f.ebits + f.frac), flagNone)
    else
      let lg := floorLog m e
      let qu := lg - f.frac                                  -- exponent range unbounded
      let u := roundMag rm n m e qu
      let top := decide (2 ^ (f.frac + 1) ≤ u.1)              -- rounded up to the next binade
      let lgu := if top then lg + 1 else lg
      if decide ((f.bias : Int) < lgu) then
        let toInf := if rm = 0 then true else if rm = 1 then false else if rm = 2 then n else !n
        (if toInf then f.infBits n else f.maxBits n, flagOV ||| flagNX)
      else
        let qb := max lg f.emin - f.frac
        let b := roundMag rm n m e qb
        let carry := decide (2 ^ (f.frac + 1) ≤ b.1)
        let r := if carry then b.1 / 2 else b.1
        let q := if carry then qb + 1 else qb
        let tiny := decide (lgu < f.emin)
        let nx := flagIf b.2 flagNX ||| flagIf (tiny && b.2) flagUF
        if fz && decide (r < 2 ^ f.frac) && r != 0 then
          (n.toNat * 2 ^ (f.ebits + f.frac), flagUF ||| flagNX)
        else (packFp f n r q, nx)

/-- FlushIn of R35: a subnormal source read as a zero of its sign. -/
def flushIn (f : Fmt) (fz : Bool) (bits : Nat) : FNum :=
  match decodeFp f bits with
  | .fin n m e => if fz && decide (m < 2 ^ f.frac) then .fin n 0 0 else .fin n m e
  | .inf n => .inf n
  | .nan s => .nan s

/-- ToDF8 of R37 with its flags. -/
def toDf8 (x : FNum) : Nat × BitVec 5 :=
  match x with
  | .nan _ => (0x80, flagNone)
  | .inf n => (if n then 0xFF else 0x7F, flagOV)
  | .fin n m e =>
    if m = 0 then (0, flagNone)
    else
      let q := max (floorLog m e) (-6) - 3
      let r := roundMag 0 n m e q
      let carry := decide (16 ≤ r.1)
      let y := if carry then r.1 / 2 else r.1
      let q := if carry then q + 1 else q
      let nx := flagIf r.2 flagNX
      if y = 0 then (0, nx ||| flagUF)
      else if decide (8 < q + 3) then (if n then 0xFF else 0x7F, nx ||| flagOV)
      else if y < 8 then (n.toNat * 128 + y, nx ||| flagIf r.2 flagUF)
      else (n.toNat * 128 + (q + 10).toNat * 8 + (y - 8), nx)

/-- ToInt of R39 into `lo .. hi`, with its flags. -/
def toIntRange (x : FNum) (lo hi : Int) (rm : BitVec 2) : Int × BitVec 5 :=
  match x with
  | .nan _ => (0, flagNV)
  | .inf n => (if n then lo else hi, flagNV)
  | .fin n m e =>
    let r := roundMag rm n m e 0
    let v := signed n r.1
    if hi < v then (hi, flagNV)
    else if v < lo then (lo, flagNV)
    else (v, flagIf r.2 flagNX)

/-- ToInt(x, n, mode) of R39. -/
def toInt (x : FNum) (n : Nat) (rm : BitVec 2) : Int × BitVec 5 :=
  toIntRange x (-(2 : Int) ^ (n - 1)) ((2 : Int) ^ (n - 1) - 1) rm

/-- An integer modulo `2^n` (R42). -/
def wrap (n : Nat) (i : Int) : Nat := (i % (2 : Int) ^ n).toNat

/-- clamp of R10. -/
def clampInt (x lo hi : Int) : Int := if x < lo then lo else if hi < x then hi else x

/-- The signed value of the low `n` bits. -/
def sextNat (n v : Nat) : Int :=
  let t := v % 2 ^ n
  if 2 ^ (n - 1) ≤ t then (t : Int) - 2 ^ n else t

/-! ### Minimum, maximum, comparison -/

/-- minimumNumber (`wantMax` false) or maximumNumber of IEEE 754-2019 (R31). -/
def minMaxNum (wantMax : Bool) (x y : FNum) : FNum × BitVec 5 :=
  let s := flagIf (x.isSnan || y.isSnan) flagNV
  if x.isNan then (if y.isNan then .nan false else y, s)
  else if y.isNan then (x, s)
  else
    let xLess := x.lt y || (x.isZero && y.isZero && x.isNeg && !y.isNeg)
    (if wantMax then (if xLess then y else x) else (if xLess then x else y), s)

/-- The code of a datum that is exactly a value of the format (R31, R146): nothing is rounded. -/
def exactBits (f : Fmt) (x : FNum) : Nat := (roundFmt f 0 false x).1

/-- Comparison by FCMP code 0 EQ, 1 NE, 2 LT, 3 LE, 4 UN with its NV rule (R147). -/
def fpCompare (c : Nat) (x y : FNum) : Bool × BitVec 5 :=
  let anyNan := x.isNan || y.isNan
  let s := flagIf (x.isSnan || y.isSnan) flagNV
  match c with
  | 0 => (x.eq y, s)
  | 1 => (!x.eq y, s)
  | 2 => (x.lt y, s ||| flagIf anyNan flagNV)
  | 3 => (x.lt y || x.eq y, s ||| flagIf anyNan flagNV)
  | _ => (anyNan, s)

/-! ### RNS24 (R43 to R49) -/

/-- x mod m with a remainder in 0 .. m − 1 (R43). -/
def modNat (x : Int) (m : Nat) : Nat := (x % (m : Int)).toNat

/-- A container from its four residues (R44). -/
def rnsPack (a b c k : Nat) : Nat := k * 33554432 + c * 65536 + b * 256 + a

/-- Channel A, B, C and check of a container, reduced (R45). -/
def rnsA (v : Nat) : Nat := v % 256
/-- Channel B. -/
def rnsB (v : Nat) : Nat := v / 256 % 256 % 255
/-- Channel C. -/
def rnsC (v : Nat) : Nat := v / 65536 % 512 % 257
/-- The check channel. -/
def rnsK (v : Nat) : Nat := v / 33554432 % 128 % 127

/-- An operation channel by channel (R46). -/
def rnsMap2 (op : Nat → Nat → Nat) (x y : Nat) : Nat :=
  rnsPack (op (rnsA x) (rnsA y) % 256) (op (rnsB x) (rnsB y) % 255)
    (op (rnsC x) (rnsC y) % 257) (op (rnsK x) (rnsK y) % 127)

/-- a + b (R46). -/
def rnsAdd (x y : Nat) : Nat := rnsMap2 (· + ·) x y
/-- a × b per channel (R181). -/
def rnsMul (x y : Nat) : Nat := rnsMap2 (· * ·) x y
/-- −a (R46). -/
def rnsNeg (x : Nat) : Nat :=
  rnsPack ((256 - rnsA x) % 256) ((255 - rnsB x) % 255) ((257 - rnsC x) % 257) ((127 - rnsK x) % 127)
/-- a − b (R46). -/
def rnsSub (x y : Nat) : Nat := rnsAdd x (rnsNeg y)
/-- a × 2^s (R46). -/
def rnsShift (x s : Nat) : Nat :=
  rnsPack (rnsA x * 2 ^ s % 256) (rnsB x * 2 ^ s % 255) (rnsC x * 2 ^ s % 257) (rnsK x * 2 ^ s % 127)
/-- The canonical form (R45). -/
def rnsCanon (x : Nat) : Nat := rnsPack (rnsA x) (rnsB x) (rnsC x) (rnsK x)
/-- Conversion of an integer (R47). -/
def rnsOfInt (v : Int) : Nat := rnsPack (modNat v 256) (modNat v 255) (modNat v 257) (modNat v 127)

/-- The represented integer, and whether the check channel agrees (R48). -/
def rnsValue (v : Nat) : Int × Bool :=
  let x := (rnsA v * 16711425 + rnsB v * 8421376 + rnsC v * 8421120) % 16776960
  let x : Int := if 8388480 ≤ x then (x : Int) - 16776960 else x
  (x, modNat x 127 == rnsK v)

/-- Targets of exit conversion (R48). -/
inductive ExitFmt where
  | f32 | bf16 | i8
  deriving DecidableEq, Repr

/-- What an exit conversion gives: the code, whether the check failed, and whether it saturated in
the sense of SCNT (R346). -/
structure ExitResult where
  code : Nat
  poisoned : Bool := false
  saturated : Bool := false
  deriving DecidableEq, Repr

/-- The poison code (R49). -/
def poisonCode : ExitFmt → Nat
  | .f32 => 0x7FFFFFFF | .bf16 => 0x7FFF | .i8 => 0x80

/-- ExitConvert of R48; `scale` is an FP32 code. -/
def exitConvert (v scale : Nat) (t : ExitFmt) : ExitResult :=
  let x := rnsValue v
  if !x.2 then { code := poisonCode t, poisoned := true }
  else
    let y := ((FNum.ofInt x.1).mul (decodeFp .f32 scale)).1
    match t with
    | .i8 =>
      if y.isNan then { code := 0 }
      else
        let r := toIntRange y (-128) 127 0
        { code := wrap 8 r.1, saturated := r.2 == flagNV }
    | .f32 => fpExit .f32 y
    | .bf16 => fpExit .bf16 y
where
  fpExit (f : Fmt) (y : FNum) : ExitResult :=
    let b := (roundFmt f 0 false y).1
    match y with
    | .fin n _ _ => { code := b, saturated := b == f.infBits n }
    | .inf _ => { code := b }
    | .nan _ => { code := b }

end Sys2Proof.Machine
end

