-- ==== Sys2Proof/Config.lean ====
section
/-! DEFINITION. What one implementation fixes and the manual leaves open.
Each is an opaque constant: no proof can see its value (assumption log 4 and 5). -/

namespace Sys2Proof.Config

/-- The firmware image the module is shipped with in its flash (R460). -/
opaque factoryImage : List Byte

/-- The check of R460 step 1: whether the signature of an image verifies under the fused key. -/
opaque firmwareAccepts : List Byte → Bool

/-- The version number an image carries (FWVER of R463). -/
opaque firmwareVersion : List Byte → BitVec 32

/-- The 2,592 bytes of the device identity's public key (R468). -/
opaque identityKey : List Byte

/-- The ML-DSA-87 signature of the device identity over a 64-byte digest (R468). -/
opaque identitySign : List Byte → List Byte

/-- The bytes of the capability list as published, given the fuse map (R461, R462). -/
opaque capabilityList : List Nat → List Byte

/-- The largest activation count a stack states, the reset value of RFMCTL.HOLD (R439). -/
opaque rfmHold : Nat → BitVec 16

/-- The threshold a stack states, the reset value of RFMCTL.LEVEL (R439). -/
opaque rfmLevel : Nat → BitVec 16

/-- A free value, for a word the manual says is written and whose value it does not state; the step
applies it to the counter `nextId` of the state and advances that counter. -/
opaque freeWord : Nat → Word

/-- A free choice, where the manual gives no rule for one: the choice is this number, for the counter
`nextId` of the state, modulo the number of alternatives. -/
opaque freeChoice : Nat → Nat

end Sys2Proof.Config
end

