-- ==== Sys2Proof/Machine/State.lean ====
section
/-! DEFINITION. The state of the machine as plain data, and the state right after reset.
A family of like parts (strands, cores, tiles, contexts) is a sparse map from its number to its
record; a number the map does not list has the record's default value, which is its reset value. -/

namespace Sys2Proof.Machine

/-- A sparse map from numbers to records. -/
abbrev SMap (α : Type) := List (Nat × α)

/-- The record of number `k`, the default `d` when the map does not list it. -/
def SMap.get {α : Type} : SMap α → α → Nat → α
  | [], d, _ => d
  | (k', v) :: r, d, k => if k' = k then v else SMap.get r d k

/-- The map with `v` at `k`. -/
def SMap.set {α : Type} (m : SMap α) (k : Nat) (v : α) : SMap α :=
  (k, v) :: m.filter (fun e => e.1 != k)

/-! ### Causes and stalls -/

/-- Cause and event names of R414. -/
inductive Cause where
  | illegalInstruction | illegalCombination | misaligned | stackLimit | rangeLock | scratchBounds
  | pageAbsent | pagePermission | leaseRevoked | poison | handlerAbsent | spillFull
  | barrierOverrun | graphCapacity | graphRange | couplingCycle | couplingGain | userTrap
  | breakpoint | configUncorrectable | replyOrphan | softCorrected
  deriving DecidableEq, Repr

/-- Stall causes of R124. -/
inductive StallCause where
  | operand | queueEmpty | queueFull | jobSlots | lockTable | jobWait | replySlot | injection
  | sfQueue | divider | fence | fpSerial
  deriving DecidableEq, Repr

/-- What a strand saved after a fault waits for (SST 2, 3 and 4 of R407). -/
inductive SavedMark where
  | none | resume | discard
  deriving DecidableEq, Repr

/-- Strand states of R120. -/
inductive Phase where
  | idle
  | running
  | stalled (c : StallCause)
  | faulted
  | savedFault (m : SavedMark)
  | savedPre
  deriving DecidableEq, Repr

/-! ### Messages and packets -/

/-- The packet header of R211, field by field. -/
structure Hdr where
  fpost : Bool := false
  rhidx : BitVec 12 := 0
  len : BitVec 9 := 0
  posted : Bool := false
  ud : Bool := false
  nr : Bool := false
  tmo : Bool := false
  rels : Bool := false
  kind : BitVec 3 := 0
  seq : BitVec 16 := 0
  sstr : BitVec 2 := 0
  score : BitVec 3 := 0
  sy : BitVec 5 := 0
  sx : BitVec 5 := 0
  rslot : BitVec 6 := 0
  re : Bool := false
  lclass : BitVec 3 := 0
  ctx : BitVec 8 := 0
  hidx : BitVec 12 := 0
  pset : Bool := false
  prio : BitVec 2 := 0
  dcore : BitVec 3 := 0
  dy : BitVec 5 := 0
  dx : BitVec 5 := 0
  deriving DecidableEq, Repr

/-- A short or long message: header, four argument words, payload bytes (R210). -/
structure Msg where
  hdr : Hdr := {}
  args : List Word := []
  payload : List Byte := []
  deriving DecidableEq, Repr

/-- What a group packet does at its members (R286, R288). -/
inductive GroupWork where
  | message
  | store (addr : Word)
  | reduce (ty : BitVec 2) (midx : Nat)
  deriving DecidableEq, Repr

/-- What a packet carries besides its route. -/
inductive Body where
  | msg (m : Msg)
  | reply (m : Msg)
  | counter (h : Hdr) (cnt : Nat) (v : BitVec 32)
  | freeze (core ctx : Nat)
  | unfreeze (core ctx : Nat)
  | resume (v : Word) (ctx : Nat)
  | group (m : Msg) (gid : Nat) (work : GroupWork) (climb : Bool) (mc : Nat)
  | domain (m : Msg) (gid : Nat) (addr : Word) (alt : Bool) (mc : Nat)
  | mmagOffer (origin core slot member : Nat)
  | mmagAnswer (core slot member : Nat) (ok : Bool)
  | mmagStart (origin core slot member : Nat)
  | mmagCredit (origin core slot member : Nat) (forA : Bool) (n : Nat)
  | mmagStep (origin core slot member : Nat) (isA : Bool) (k : Nat) (vals : List Nat) (bad : Option Word)
  | mmagReport (core slot member : Nat) (cause : Option (BitVec 8)) (addr : Word)
  | chainBind (sender : Nat)
  | chainAnswer (ok : Bool) (credits : Nat)
  | chainEntry (sender : Nat) (elems : List (BitVec 32)) (marks : BitVec 64)
  | chainCredit
  | request (ids : List Nat)
  | answer (ids : List Nat)
  deriving DecidableEq, Repr

/-- A packet in the network (R210, R213). `after` lists the accesses its release waits for (R70). `pos` is the router
that holds it, or that it is leaving while it is `moving`; `via` is the link it last took, in whose receiving buffer,
of virtual channel `vc1` of its network, it lies, and `dlx` and `dly` say which datelines it has crossed (R443). -/
structure Packet where
  id : Nat := 0
  src : Nat := 0
  dst : Nat := 0
  pos : Nat := 0
  moving : Bool := false
  vn1 : Bool := false
  ctx : Nat := 0
  after : List Nat := []
  body : Body
  via : Option Nat := none
  vc1 : Bool := false
  dlx : Bool := false
  dly : Bool := false
  deriving DecidableEq, Repr

/-! ### Accesses in flight -/

/-- Where a translated access goes: a byte of the module or of host memory, with the key slot of an
encrypted line, or an offset within a borrowed lease (R424, R437). -/
inductive Target where
  | mem (pa : Nat) (key : Option Nat)
  | lease (idx off : Nat) (key : Option Nat)
  deriving DecidableEq, Repr

/-- Where a returned result is written (R125). -/
inductive Dest where
  | none
  | g (r : GReg) (n : Nat) (signed : Bool)
  | lane (r : WReg) (j n : Nat)
  | code
  | landing
  deriving DecidableEq, Repr

/-- The barrier operations of R269, with the operands their home needs. -/
inductive BarrierOp where
  | init (e : BitVec 16) (y : BitVec 32)
  | arrive (add : Word) (drop : Bool)
  | test (phase : Bool)
  | wait (phase : Bool) (deadline : BitVec 32) (dest : Word) (args : List Word)
  | bytes (sub : Word)
  deriving DecidableEq, Repr

/-- What an access does at its home. -/
inductive AccKind where
  | load
  | store (bytes : List Byte)
  | atomic (op : Nat) (operand expected : Word)
  | barrier (op : BarrierOp)
  | redlv (dest : Option Word)
  | probe (v w : Word)
  deriving DecidableEq, Repr

/-- How an access stands. -/
inductive AccStatus where
  | sent
  | done (bytes : List Byte)
  | failed (c : Cause)
  deriving DecidableEq, Repr

/-- An access that has been issued and not yet answered (R64, R129). Elements of one vector
instruction, or of one MSCL, share `grp`; `whole` says that the elements of the group in one line
are performed together (R63), `port` is the UALink port through which it has left, `back` says that its answer has
returned. PROBE's result waits here too, though it is no access (R438). -/
structure Access where
  id : Nat := 0
  grp : Nat := 0
  strand : Nat := 0
  run : Nat := 0
  ctx : Nat := 0
  tile : Nat := 0
  epc : Word := 0
  va : Word := 0
  size : Nat := 0
  kind : AccKind := .load
  target : Target := .mem 0 none
  dest : Dest := .none
  after : List Nat := []
  whole : Bool := false
  hidx : BitVec 12 := 0
  sentAt : Nat := 0
  status : AccStatus := .sent
  port : Option Nat := none
  back : Bool := false
  deriving DecidableEq, Repr

/-! ### Strands -/

/-- A result that an earlier instruction of the strand still owes (R125); `acq` says that the result may acquire,
so nothing of the strand issues before it (R71, R278). -/
structure Pend where
  id : Nat := 0
  g : Option GReg := none
  w : Option WReg := none
  wn : Nat := 1
  lc : Word := 0
  acq : Bool := false
  deriving DecidableEq, Repr

/-- A fault found before its record is written (R129); `time` is TIME when it was found (R410). -/
structure FaultRec where
  cause : Cause
  ord : Nat := 0
  time : Word := 0
  deferred : Bool := false
  epc : Word := 0
  badva : Word := 0
  deriving DecidableEq, Repr

/-- One strand (R84, R87, R120, R415). `acq` lists the accesses of other strands that it has acquired before they
were performed (R72), `startAt` the clock from which its first instruction may issue (R123), `hasImage` says that
a SAVED strand has an image at `imageVa`. -/
structure Strand where
  phase : Phase := .idle
  g : Vector Word 32 := Vector.replicate 32 0
  p : BitVec 8 := 0
  w : Vector VecWord 16 := Vector.replicate 16 0
  m : Vector MaskWord 8 := Vector.replicate 8 0
  pc : BitVec 48 := 0
  lc : Word := 0
  ls : Word := 0
  le : Word := 0
  sbase : Word := 0
  slim : Word := 0
  rm : BitVec 2 := 0
  fz : Bool := false
  flags : BitVec 5 := 0
  stepMode : Bool := false
  rsmd : Bool := false
  level : BitVec 3 := 0
  inl : BitVec 4 := 0
  cause : BitVec 9 := 0
  epc : Word := 0
  badva : Word := 0
  hidx : BitVec 12 := 0
  msgsrc : BitVec 17 := 0
  weight : BitVec 7 := 16
  credit : Nat := 64
  rngctr : Word := 0
  rngstream : Word := 0
  jc0 : BitVec 32 := 0
  jc1 : BitVec 32 := 0
  jstat : Vector (BitVec 8) 16 := Vector.replicate 16 0
  code : BitVec 2 := 0
  msg : Msg := {}
  owed : Bool := false
  replied : Bool := false
  pool : Option Nat := none
  seq : BitVec 16 := 0
  run : Nat := 0
  pend : List Pend := []
  faults : List FaultRec := []
  taken : List Word := []
  hasImage : Bool := false
  imageVa : Word := 0
  resumeWait : Bool := false
  fetched : Option (BitVec 48 × BitVec 32) := none
  landing : List Byte := []
  acq : List Nat := []
  startAt : Word := 0
  deriving DecidableEq, Repr

/-! ### Cores -/

/-- The part of a handler-table entry that travels with a message (R221). -/
structure Snap where
  entry : BitVec 32 := 0
  regs : BitVec 2 := 0
  stack : BitVec 11 := 0
  deriving DecidableEq, Repr

/-- A handler-queue entry (R244); a reserved position that has not landed has `landed = false` (R250). -/
structure QEntry where
  msg : Msg := {}
  snap : Snap := {}
  level : BitVec 2 := 0
  arrt : BitVec 32 := 0
  landed : Bool := true
  pool : Option Nat := none
  ringAt : Nat := 0
  deriving DecidableEq, Repr

/-- Level states of R254. -/
inductive LevelState where
  | empty | filling | spilling | refilling | frozen
  deriving DecidableEq, Repr

/-- One handler-queue level and its spill ring (R243, R248). `ring` lists, oldest first, the messages
the ring holds: how many ring entries each takes and whose context it is; the first `unread`
of them have been read and have not yet left the ring. -/
structure Level where
  depth : BitVec 9 := 0
  lwm : BitVec 9 := 0
  st : LevelState := .empty
  entries : List QEntry := []
  head : Nat := 0
  tail : Nat := 0
  count : Nat := 0
  ring : List (Nat × Nat) := []
  unread : Nat := 0
  deriving DecidableEq, Repr

/-- A reply slot (R216). -/
structure ReplySlot where
  reserved : Bool := false
  ctx : Nat := 0
  filled : Bool := false
  entry : QEntry := {}
  deriving DecidableEq, Repr

/-- Kinds of job (R293, R325, R329, R332, R351). -/
inductive JobKind where
  | cpy | cpy2 | cpyf | gath | scat | mma | mmag | mst | gload
  deriving DecidableEq, Repr

/-- Job states of R295. -/
inductive JobState where
  | free | issued | running | translating | completing
  deriving DecidableEq, Repr

/-- How one piece of a job stands: its requests wait for credit (`todo`), the engine has it (`ready`), it
waits at a stack for an address generator or in the sorter, a generator has it, a translation service request holds it,
or it is over. -/
inductive PieceState where
  | todo
  | ready
  | spinel (k : Nat)
  | gen (k : Nat)
  | held (tag : Nat)
  | failed
  | done
  deriving DecidableEq, Repr

/-- One piece of a job: a run of bytes within one granule of source and destination, or a row. `asked` counts its
requests that have had their credit, `wrote` those of them that have been performed (R367, R368). -/
structure Piece where
  idx : Nat := 0
  src : Word := 0
  dst : Word := 0
  len : Nat := 0
  st : PieceState := .todo
  asked : Nat := 0
  wrote : Nat := 0
  deriving DecidableEq, Repr

/-- How the completion action of a job stands (R298). -/
inductive ActState where
  | waiting
  | pushing (word : Word)
  | held (tag : Nat)
  | done
  deriving DecidableEq, Repr

/-- The origin's record of an MMAG job (R333, R334). -/
structure MmagOrigin where
  accepted : List Nat := []
  offering : Option Nat := none
  refusedAt : Option Nat := none
  started : Bool := false
  reported : List Nat := []
  deriving DecidableEq, Repr

/-- A job slot (R293, R295). `err` is the error with the lowest place `errIdx` so far, found at `errTime` (R311,
R410); `k` counts the steps that an MMA has taken, or the rows that an MST has stored (R336, R337). -/
structure Job where
  st : JobState := .free
  kind : JobKind := .cpy
  strand : Nat := 0
  run : Nat := 0
  ctx : Nat := 0
  fn : Nat := 0
  desc : List Word := []
  comp : Word := 0
  comp1 : Word := 0
  comp2 : Word := 0
  hidx : BitVec 12 := 0
  pieces : List Piece := []
  err : Option (BitVec 8) := none
  errIdx : Nat := 0
  errAddr : Word := 0
  errTile : Nat := 0
  errTime : Word := 0
  bytes : Nat := 0
  rows : Nat := 0
  k : Nat := 0
  after : List Nat := []
  action : ActState := .waiting
  mmag : MmagOrigin := {}
  deriving DecidableEq, Repr

/-- A job watch (R316). -/
structure JobWatch where
  slots : List Nat := []
  msg : Msg := {}
  ctx : Nat := 0
  deriving DecidableEq, Repr

/-- A request in the special-function queue (R201). -/
structure SfEntry where
  id : Nat := 0
  strand : Nat := 0
  run : Nat := 0
  code : BitVec 2 := 0
  fn : Nat := 0
  ty : VType := .f32
  d : WReg := 0
  x : VecWord := 0
  mask : MaskWord := 0
  rm : BitVec 2 := 0
  fz : Bool := false
  deriving DecidableEq, Repr

/-- A handler core (R19) or gateway core (R451). `divUntil` is the clock in which its divider is free again,
`inqFresh` counts the entries pushed into its inbound queue in this clock (R256), `record` is the translation
of its save record that Agate keeps while a command is in progress (R406). -/
structure Core where
  ptr : Nat := 0
  lastPromoted : Bool := false
  levels : SMap Level := []
  replies : SMap ReplySlot := []
  replyOrder : List Nat := []
  pool : List Nat := []
  jobs : SMap Job := []
  jwatches : List JobWatch := []
  sfq : List SfEntry := []
  inq : List Word := []
  pushCompletionNext : Bool := false
  frozen : Bool := false
  freezeTime : Word := 0
  record : Option Target := none
  recordVa : Word := 0
  divUntil : Word := 0
  inqFresh : Nat := 0
  deriving DecidableEq, Repr

/-! ### Tiles -/

/-- Counter states of R238. -/
inductive CounterState where
  | free | armed | fired
  deriving DecidableEq, Repr

/-- An arrival counter (R238). -/
structure Counter where
  count : BitVec 32 := 0
  st : CounterState := .free
  rearm : Bool := false
  rls : Bool := false
  sat : Bool := false
  thresh : BitVec 32 := 0
  dest : Word := 0
  args : List Word := []
  deriving DecidableEq, Repr

/-- An armed watch (R230). -/
structure Watch where
  off : Nat := 0
  cond : BitVec 3 := 0
  cmp : Word := 0
  dest : Word := 0
  args : List Word := []
  ctx : Nat := 0
  deriving DecidableEq, Repr

/-- A continuation entry of a barrier unit's pool (R268); `obj` and `key` say where its barrier lies. -/
structure Cont where
  hdr : Hdr := {}
  args : List Word := []
  ctx : Nat := 0
  phase : Bool := false
  deadline : BitVec 32 := 0
  next : Nat := 65535
  obj : Nat := 0
  key : Option Nat := none
  deriving DecidableEq, Repr

/-- A range-lock entry (R75). -/
structure RangeLock where
  dst : Bool := false
  lo : Nat := 0
  hi : Nat := 0
  core : Nat := 0
  job : Nat := 0
  ctx : Nat := 0
  origin : Nat := 0
  deriving DecidableEq, Repr

/-- An accumulator slot (R317). Elements are listed by 128 i + j; an unlisted element is 0 and an
unlisted scale is 1.0. -/
structure AccSlot where
  elems : SMap (BitVec 32) := []
  int32 : Bool := false
  ovf : Bool := false
  perr : Bool := false
  sa : SMap (BitVec 32) := []
  sb : SMap (BitVec 32) := []
  staged : Option (SMap (BitVec 32) × SMap (BitVec 32)) := none
  parity : List Nat := []
  deriving DecidableEq, Repr

/-- One operand step of an MMAG as it reaches a member: its number, the codes of its elements, and the
address of a unit that could not be read (R334, R335). -/
structure MStep where
  k : Nat := 0
  vals : List Nat := []
  bad : Option Word := none
  deriving DecidableEq, Repr

/-- A member part of an MMAG in a member's queue (R333, R334): steps that have arrived and not been
consumed, the steps consumed so far, and the failure it will report. -/
structure Part where
  origin : Nat := 0
  core : Nat := 0
  job : Nat := 0
  member : Nat := 0
  started : Bool := false
  begun : Bool := false
  k : Nat := 0
  stepsA : List MStep := []
  stepsB : List MStep := []
  cause : Option (BitVec 8) := none
  addr : Word := 0
  deriving DecidableEq, Repr

/-- Operations in the array's command queue (R320). MZR is kept with the access its result answers. -/
inductive ArrayOp where
  | mma (core job : Nat)
  | mst (core job : Nat)
  | mzr (a : Access) (slot : Nat) (int32 status : Bool)
  | mscl (slot core : Nat)
  | part (p : Part)
  deriving DecidableEq, Repr

/-- A supplier's side of an MMAG (R333, R334): which operand it supplies and, per member, the next
step to send and the credits held, and the context whose range it registers. -/
structure Supply where
  origin : Nat := 0
  core : Nat := 0
  job : Nat := 0
  isA : Bool := false
  addr : Word := 0
  stride : Nat := 0
  ty : Nat := 0
  count : Nat := 0
  k : Nat := 0
  steps : Nat := 0
  credits : List (Nat × Nat) := []
  locked : Bool := false
  ctx : Nat := 0
  deriving DecidableEq, Repr

/-- Graph slot states of R347. -/
inductive SlotState where
  | empty | loading | ready | active | draining | frozen | reloading
  deriving DecidableEq, Repr

/-- A Beryl configuration slot (R347, R358). Nodes are listed by 64 s + r, switches by 1024 c + 16 r + k;
`damaged` lists the regions of a reload under way, `foundAt` is the delivered count when a signature mismatch was found
(R364), `tag` the translation service request that the reload waits for, `absent` says that it was answered in vain, and
`lost` that a reload has failed. -/
structure GSlot where
  st : SlotState := .empty
  wasDraining : Bool := false
  addr : Word := 0
  len : Nat := 0
  ctx : Nat := 0
  inputs : Nat := 0
  outputs : Nat := 0
  depth : Nat := 0
  consts : List (BitVec 32) := []
  outs : List (BitVec 64) := []
  nodes : SMap (BitVec 48) := []
  switches : SMap (BitVec 16) := []
  damaged : List Nat := []
  bySignature : Bool := false
  foundAt : BitVec 32 := 0
  tag : Option Nat := none
  absent : Bool := false
  lost : Bool := false
  deriving DecidableEq, Repr

/-- A FIFO or chain entry: 64 elements and their poison marks (R343, R345). -/
structure BEntry where
  elems : List (BitVec 32) := []
  marks : BitVec 64 := 0
  deriving DecidableEq, Repr

/-- Graph commands in the tile's command queue (R349). A command with a result keeps the access that the
result answers; `begun` says that it waits for a drain, `waiting` for the answer of a chain's receiver. -/
inductive GCmd where
  | gload (core job : Nat)
  | gswap (a : Access) (keep : Bool) (begun : Bool)
  | gbind (a : Access) (run4 : List Word) (waiting : Bool)
  | gdrain (a : Access) (begun : Bool)
  deriving DecidableEq, Repr

/-- The Beryl fabric of a tile (R339 to R357). `stages` lists, nearest the input first, the vector
that each stage works on; `none` is a bubble. `inFresh` and `outFresh` count the entries pushed into the two
FIFOs in this clock (R256). -/
structure Fabric where
  a : GSlot := {}
  b : GSlot := {}
  front : Bool := false
  bind : List Word := []
  inClosed : Bool := true
  inAfter : List Nat := []
  inFifo : List (List (BitVec 32)) := []
  outFifo : List BEntry := []
  stages : List (Option (List (BitVec 32))) := []
  held : List BEntry := []
  drainLeft : Nat := 0
  taken : BitVec 32 := 0
  delivered : BitVec 32 := 0
  activeTaken : Nat := 0
  rcnt : BitVec 16 := 0
  scnt : BitVec 16 := 0
  rld : BitVec 8 := 0
  range : Bool := false
  sigf : Bool := false
  reason : BitVec 4 := 0
  cmds : List GCmd := []
  chain : List BEntry := []
  chainSender : Option Nat := none
  credits : Nat := 0
  inNext : Nat := 0
  outNext : Nat := 0
  cleanAt : BitVec 32 := 0
  inFresh : Nat := 0
  outFresh : Nat := 0
  deriving DecidableEq, Repr

/-- Loop states of R374. -/
inductive LoopState where
  | unbound | bound | running | saturated | faulted
  deriving DecidableEq, Repr

/-- A Jasper loop slot (R369). `bind` holds g[b] of CPLB (R378); `upd` a CPLU whose values take effect
after the sample that is due in its clock (R376). -/
structure Loop where
  st : LoopState := .unbound
  hold : Bool := false
  bind : Word := 0
  setpoint : Nat := 0
  ilim : Nat := 0
  period : Nat := 0
  kp : Nat := 0
  ki : Nat := 0
  wmin : Nat := 0
  wmax : Nat := 0
  basep : Nat := 0
  basec : Nat := 0
  occ : Nat := 0
  err : Int := 0
  integ : Int := 0
  u : Int := 0
  run : Nat := 0
  timer : Nat := 0
  nsmp : BitVec 32 := 0
  clp : Bool := false
  clc : Bool := false
  vp : Nat := 0
  vc : Nat := 0
  declSet : Nat := 0
  declKp : Nat := 0
  declKi : Nat := 0
  upd : Option (Word × Word × Bool) := none
  deriving DecidableEq, Repr

/-- An open reduction round at a root (R288). -/
structure Round where
  gid : Nat := 0
  parts : List (Nat × Msg × BitVec 2) := []
  deriving DecidableEq, Repr

/-- A push that RESTORE replays: the handle, the target core, and the job that made it, if it is still there
(R404, R408). -/
structure Replay where
  word : Word := 0
  core : Nat := 0
  job : Option (Nat × Nat) := none
  deriving DecidableEq, Repr

/-- A tile (R18). `sets` lists the handler-table changes of this clock (R233), `fenced` the accesses that a fence
of TILE or CORE scope has ordered before they were performed, with the core of a CORE fence (R69), `ringRead` and
`ringNext` the ring read of this clock and the rotation over its rings (R250), `loopServed`, `loopNext` and
`loopsSeen` the coupling instruction of this clock, the rotation of the cores, and the loop slots at the end of the
previous clock (R377, R379), `replays` the pushes that RESTORE replays. -/
structure Tile where
  handlers : SMap Word := []
  counters : SMap Counter := []
  watches : List Watch := []
  conts : SMap Cont := []
  locks : List RangeLock := []
  slots : SMap AccSlot := []
  queue : List ArrayOp := []
  supplies : List Supply := []
  fabric : Fabric := {}
  loops : SMap Loop := []
  copyRate : Nat := 64
  gathRate : Nat := 64
  copyCredit : Nat := 64
  gathCredit : Nat := 64
  refillDue : Bool := false
  groups : SMap (Word × Word) := []
  rounds : List Round := []
  seqs : SMap (BitVec 16) := []
  vacated : Bool := false
  sets : List (Nat × Option Word) := []
  fenced : List (Nat × Option Nat) := []
  ringRead : Bool := false
  ringNext : Nat := 0
  loopServed : Bool := false
  loopNext : Nat := 0
  loopsSeen : SMap Loop := []
  replays : List Replay := []
  deriving DecidableEq, Repr

/-! ### Contexts and kernels -/

/-- Context states of R397. -/
inductive CtxState where
  | free | created | active | suspended | vacated | destroying
  deriving DecidableEq, Repr

/-- Kernel states of R387. -/
inductive KernelState where
  | free | placing | loading | running | draining | retiring
  deriving DecidableEq, Repr

/-- The context command under way (R397). -/
inductive CtxCmd where
  | none | preempt | unfreeze | vacate | restore | destroy
  deriving DecidableEq, Repr

/-- A context slot: its descriptor (R396), its kernel record (R387) and what its agents hold: the LAUNCH
that started the kernel, the count of sources and the first of two waves (R393), the command under way,
the cores whose answer it awaits, and the translations it keeps (R406); `drainAt` is the clock in which its kernel
entered DRAINING (R394), `skew` lists the descriptor words whose base
was last written unaligned (R399). -/
structure Ctx where
  vec : BitVec 16 := 0
  err : BitVec 8 := 0
  busy : Bool := false
  flt : Bool := false
  st : CtxState := .free
  w1 : Word := 0
  ptroot : Word := 0
  keyslot : Word := 0
  savebase : Word := 0
  spbase : Word := 0
  frbase : Word := 0
  frhead : BitVec 32 := 0
  frtail : BitVec 32 := 0
  frlost : BitVec 32 := 0
  udbase : Word := 0
  udhead : BitVec 32 := 0
  udtail : BitVec 32 := 0
  udlost : BitVec 32 := 0
  evbase : Word := 0
  evhead : BitVec 32 := 0
  evtail : BitVec 32 := 0
  evlost : BitVec 32 := 0
  agelim : BitVec 32 := 4096
  fcore : BitVec 13 := 0
  rngkey0 : Word := 0
  rngkey1 : Word := 0
  kst : KernelState := .free
  h1 : BitVec 5 := 0
  w1k : BitVec 5 := 0
  y0 : BitVec 5 := 0
  x0 : BitVec 5 := 0
  reason : BitVec 8 := 0
  stop : Bool := false
  qui : Bool := false
  imageBase : Word := 0
  partner : BitVec 8 := 0
  pvalid : Bool := false
  stksz : Nat := 0
  launchQ : Nat := 0
  launchIdx : Nat := 0
  src : Nat := 0
  wave : Option (Nat × Nat) := none
  cmd : CtxCmd := .none
  waiting : List Nat := []
  saved : List (Nat × Target) := []
  skew : List Nat := []
  drainAt : Word := 0
  deriving DecidableEq, Repr

/-! ### Host queues, device registers, leases, links -/

/-- Host command queue states of R260. -/
inductive QueueState where
  | idle | running | waiting | stopped | error
  deriving DecidableEq, Repr

/-- A packet that has started and not completed (R263). -/
structure PktRun where
  idx : Nat := 0
  words : List Word := []
  pieces : List Piece := []
  done : Bool := false
  deriving DecidableEq, Repr

/-- A host command queue (R260): its registers, the packets that have started, the LAUNCH at HEAD that waits
for its rectangle, and when a COND that tests itself again last read its word. -/
structure HostQ where
  qbase : Word := 0
  ctx : BitVec 8 := 0
  szlog2 : BitVec 4 := 0
  vec : BitVec 16 := 0
  loc : Bool := false
  enable : Bool := false
  tail : BitVec 16 := 0
  head : BitVec 16 := 0
  erridx : BitVec 16 := 0
  errcode : BitVec 8 := 0
  st : QueueState := .stopped
  started : List PktRun := []
  pending : Option PktRun := none
  condAt : Option Word := none
  deriving DecidableEq, Repr

/-- One member of a multicast (R282, R290, R292): for a UALink group its peer, its first and second port, the
lease and the address of the write it is sent, the port taken and the clock in which it was taken; its outcome once
it is known. -/
structure Member where
  idx : Nat := 0
  peer : Nat := 0
  first : Nat := 0
  second : Nat := 0
  lease : Nat := 0
  addr : Word := 0
  used : Option Nat := none
  sentAt : Nat := 0
  code : Option Nat := none
  deriving DecidableEq, Repr

/-- A multicast under way whose members' outcomes are awaited (R290); a UALink group's members are sent the
payload (R292). -/
structure MCast where
  id : Nat := 0
  ctx : Nat := 0
  hdr : Hdr := {}
  domain : Bool := false
  tile : Nat := 0
  admitted : Bool := false
  sentAt : Nat := 0
  payload : List Byte := []
  members : List Member := []
  deriving DecidableEq, Repr

/-- Lease states of R433 and R434. -/
inductive LeaseState where
  | revoked | offered | granted | active | revoking
  deriving DecidableEq, Repr

/-- A lender entry (R433). -/
structure Lender where
  st : LeaseState := .revoked
  peer : BitVec 10 := 0
  w : Bool := false
  r : Bool := false
  adm : BitVec 32 := 0
  size : BitVec 20 := 0
  base : BitVec 19 := 0
  since : Nat := 0
  deriving DecidableEq, Repr

/-- A borrower entry (R434). -/
structure Borrower where
  st : LeaseState := .revoked
  peer : BitVec 10 := 0
  lidx : BitVec 12 := 0
  port : BitVec 4 := 0
  altport : BitVec 4 := 0
  size : BitVec 20 := 0
  lbase : BitVec 19 := 0
  since : Nat := 0
  deriving DecidableEq, Repr

/-- What leaves by a UALink port for another accelerator (R292, R435, R436): a lease's activation request, the answer to
one with BASE if it is positive, the acknowledgement of a revocation, a request at the lender's address, and the answer
to a request. Leases are named by the lender's index. -/
inductive PeerMsg where
  | activation (peer lidx size : Nat)
  | activated (peer lidx : Nat) (base : Option Nat)
  | acknowledgement (peer lidx : Nat)
  | access (port peer lidx addr : Nat) (op : PeerOp)
  | answer (peer lidx : Nat) (a : PeerAnswer)
  deriving DecidableEq, Repr

/-- What a translation service request was made for (R309, R430). -/
inductive TsrFor where
  | piece (core job idx : Nat)
  | action (core job : Nat)
  | reload (tile slot : Nat)
  deriving DecidableEq, Repr

/-- A translation service request (R430); `sent` says that its record is in the ring. -/
structure TsrReq where
  tag : Nat := 0
  unit : Nat := 0
  who : TsrFor
  va : Word := 0
  ctx : Nat := 0
  write : Bool := false
  tile : Nat := 0
  spinel : Bool := false
  stack : Nat := 0
  sent : Bool := false
  deriving DecidableEq, Repr

/-- The request ring of one Agate unit (R430). -/
structure Tsr where
  base : Word := 0
  head : Word := 0
  tail : Word := 0
  vec : BitVec 16 := 0
  deriving DecidableEq, Repr

/-- A Spinel layer (R268, R310): its continuation pool, the pieces that wait for a generator, those that the generators
have, and the row requests in the gather sorter with their tokens; its refresh register and activation counts. -/
structure Spinel where
  conts : SMap Cont := []
  waiting : List (Nat × Nat × Nat) := []
  gens : List (Nat × Nat × Nat) := []
  sorter : List ((Nat × Nat × Nat) × Nat) := []
  rfmEn : Bool := true
  rfmHold : Option (BitVec 16) := none
  rfmLevel : Option (BitVec 16) := none
  acts : SMap Nat := []
  deriving DecidableEq, Repr

/-- Link states of R445. -/
inductive LinkState where
  | down | training | up | degraded | retired
  deriving DecidableEq, Repr

/-- A flit on a link: its packet, its place in it, and its 64 bytes of data (R440). -/
structure Flit where
  pid : Nat := 0
  first : Bool := true
  last : Bool := true
  data : List Byte := []
  deriving DecidableEq, Repr

/-- A link port (R440, R448): its register fields and, for the outgoing direction, the retry buffer, which holds the
flits not yet acknowledged, oldest first, the LSEQ of the oldest, how many of them the receiver has taken, the LSEQ it
expects, and a negative acknowledgement under way (R441). -/
structure Link where
  st : LinkState := .down
  width : BitVec 5 := 0
  retry : BitVec 16 := 0
  crcerr : BitVec 32 := 0
  since : Nat := 0
  lseq : BitVec 8 := 0
  expect : BitVec 8 := 0
  flits : List Flit := []
  taken : Nat := 0
  nak : Option (BitVec 8) := none
  repeats : Nat := 0
  deriving DecidableEq, Repr

/-- A gateway register block (R452). -/
structure Gateway where
  ctx : BitVec 8 := 0
  szlog2 : BitVec 4 := 0
  enable : Bool := false
  qbase : Word := 0
  entry : Word := 0
  head : BitVec 32 := 0
  deriving DecidableEq, Repr

/-- Firmware states of R463. -/
inductive FwState where
  | booting | ready | updating | recovery | fatal
  deriving DecidableEq, Repr

/-- The management window and what the management core keeps (R463); `updating` says that an UPDATE waits for
the packets that have started (R464), `layout` where it has saved the queues. -/
structure Mgmt where
  st : FwState := .booting
  err : BitVec 8 := 0
  ver : BitVec 32 := 0
  arg0 : Word := 0
  arg1 : Word := 0
  arg2 : Word := 0
  vec : BitVec 16 := 0
  capw : BitVec 13 := 6000
  thr : BitVec 7 := 64
  amps : BitVec 16 := 0
  watt : BitVec 13 := 0
  fatal : BitVec 8 := 0
  logCount : BitVec 32 := 0
  logNew : BitVec 3 := 0
  logLink : BitVec 12 := 0
  temps : List (BitVec 16) := []
  flash : Option (List Byte) := none
  layout : Option Word := none
  updating : Bool := false
  deriving DecidableEq, Repr

/-! ### The schedule -/

/-- The steps of the table that happen of themselves once they are due. -/
inductive Due where
  | linkNak | flitReceive | messageArrival | replyArrival | counterIncrement | coreFreeze | coreUnfreeze
  | resumePacket | groupPacket | domainMulticast | mmagOffer | mmagAcceptance | mmagStart | mmagCredit
  | mmagStep | mmagReport | chainBindRequest | chainBindAnswer | chainEntry | chainCredit
  | accessRequest | barrierOperation | portWaitTimeout | accessReply
  | captureComplete | sfCompletion | dispatch | refillLand | refillRead
  | mmagReoffer | jobStart | jobComplete | completionPush | jobFree
  | spinelPiece | barrierDeadlineCheck | arrayOperation | graphDrainDone | fabricAdvance | graphReloadComplete
  | packetComplete | nop | launch | copy | signal | cond | condRetest
  | placement | kernelLoaded | quiescenceWave | retirementComplete | contextCommandComplete
  | multicastTimeout | leaseActivationTimeout | borrowerRevoked | lenderRevoked | trainingTimeout
  | invalidationComplete | firmwareReset | coldReset
  deriving DecidableEq, Repr

/-- One act of the schedule: a clock, one issue clock of a core (R126), one issue clock of every core with the queue
traffic of that clock (R256), the issue of one strand, a step of the table named by its row, or a step that is due,
with up to two numbers (assumption log 1). -/
inductive Act where
  | clock
  | core (c : Nat)
  | issueClock
  | issue (n : Nat)
  | event (i : Instr)
  | due (d : Due) (a b : Nat)
  deriving DecidableEq, Repr

/-! ### The whole state -/

/-- The state of the module, of the host memory it reaches, and of its inputs. -/
structure State where
  mem : List Host.Cell := []
  poison : List Nat := []
  soft : List Nat := []
  time : Word := 0
  nextId : Nat := 0
  strands : SMap Strand := []
  cores : SMap Core := []
  tiles : SMap Tile := []
  ctxs : SMap Ctx := []
  queues : SMap HostQ := []
  keys : SMap (BitVec 512) := []
  domains : SMap (Word × Word) := []
  mcasts : List MCast := []
  lenders : SMap Lender := []
  borrowers : SMap Borrower := []
  tinv : Word := 0
  tinvBusy : Bool := false
  tsrs : SMap Tsr := []
  tsrReqs : List TsrReq := []
  spinels : SMap Spinel := []
  links : SMap Link := []
  gateways : SMap Gateway := []
  mgmt : Mgmt := {}
  fuses : List Nat := []
  net : List Packet := []
  acc : List Access := []
  msix : List (BitVec 16) := []
  notices : List (LeaseSide × Nat) := []
  sent : List PeerMsg := []
  agenda : List Act := []
  cur : Nat := 0
  deriving DecidableEq, Repr

/-- The machine right after a cold reset (R459): everything cleared, HBM contents included; the
management core has not yet run its boot sequence (R460, FWSTAT reads BOOTING). -/
def State.reset : State := {}

/-- Reasons for which the machine itself stops. No step of this model raises one: the manual gives
every step an effect, and a fault of a strand is state (R120, R129). -/
inductive Fault where
  /-- Raised by no step; safe. -/
  | none
  deriving DecidableEq, Repr

/-- Reasons for which a step is refused. -/
inductive Refusal where
  /-- Raised by exec for an instruction that has no meaning yet; safe: the machine stops. -/
  | notModelled (mnemonic : String)
  deriving DecidableEq, Repr

end Sys2Proof.Machine
end

