-- ==== Sys2Proof/Machine/Ops.lean ====
section
/-! DEFINITION. The named operations over the parts of the state, registers and memory: accessors,
bytes of memory, homes and encryption, translation and the checks of an access. -/

namespace Sys2Proof.Machine

/-! ### Parts by number (R8, R20, R451) -/

/-- A strand. -/
def State.strand (s : State) (n : Nat) : Strand := s.strands.get {} n
/-- The state with a strand replaced. -/
def State.setStrand (s : State) (n : Nat) (x : Strand) : State := { s with strands := s.strands.set n x }
/-- The state with a strand changed. -/
def State.modStrand (s : State) (n : Nat) (f : Strand → Strand) : State := s.setStrand n (f (s.strand n))
/-- A core. -/
def State.core (s : State) (c : Nat) : Core := s.cores.get {} c
/-- The state with a core replaced. -/
def State.setCore (s : State) (c : Nat) (x : Core) : State := { s with cores := s.cores.set c x }
/-- The state with a core changed. -/
def State.modCore (s : State) (c : Nat) (f : Core → Core) : State := s.setCore c (f (s.core c))
/-- A tile. -/
def State.tile (s : State) (t : Nat) : Tile := s.tiles.get {} t
/-- The state with a tile replaced. -/
def State.setTile (s : State) (t : Nat) (x : Tile) : State := { s with tiles := s.tiles.set t x }
/-- The state with a tile changed. -/
def State.modTile (s : State) (t : Nat) (f : Tile → Tile) : State := s.setTile t (f (s.tile t))
/-- A context slot. -/
def State.ctx (s : State) (c : Nat) : Ctx := s.ctxs.get {} c
/-- The state with a context slot replaced. -/
def State.setCtx (s : State) (c : Nat) (x : Ctx) : State := { s with ctxs := s.ctxs.set c x }
/-- The state with a context slot changed. -/
def State.modCtx (s : State) (c : Nat) (f : Ctx → Ctx) : State := s.setCtx c (f (s.ctx c))
/-- A host command queue. -/
def State.queue (s : State) (q : Nat) : HostQ := s.queues.get {} q
/-- The state with a host command queue changed. -/
def State.modQueue (s : State) (q : Nat) (f : HostQ → HostQ) : State :=
  { s with queues := s.queues.set q (f (s.queue q)) }
/-- A link port. -/
def State.link (s : State) (l : Nat) : Link := s.links.get {} l
/-- The state with a link port changed. -/
def State.modLink (s : State) (l : Nat) (f : Link → Link) : State :=
  { s with links := s.links.set l (f (s.link l)) }
/-- A gateway register block. -/
def State.gateway (s : State) (i : Nat) : Gateway := s.gateways.get {} i
/-- The state with a gateway block changed. -/
def State.modGateway (s : State) (i : Nat) (f : Gateway → Gateway) : State :=
  { s with gateways := s.gateways.set i (f (s.gateway i)) }
/-- A lender entry. -/
def State.lender (s : State) (i : Nat) : Lender := s.lenders.get {} i
/-- The state with a lender entry changed. -/
def State.modLender (s : State) (i : Nat) (f : Lender → Lender) : State :=
  { s with lenders := s.lenders.set i (f (s.lender i)) }
/-- A borrower entry. -/
def State.borrower (s : State) (i : Nat) : Borrower := s.borrowers.get {} i
/-- The state with a borrower entry changed. -/
def State.modBorrower (s : State) (i : Nat) (f : Borrower → Borrower) : State :=
  { s with borrowers := s.borrowers.set i (f (s.borrower i)) }
/-- A Spinel layer. -/
def State.spinel (s : State) (k : Nat) : Spinel := s.spinels.get {} k
/-- The state with a Spinel layer changed. -/
def State.modSpinel (s : State) (k : Nat) (f : Spinel → Spinel) : State :=
  { s with spinels := s.spinels.set k (f (s.spinel k)) }
/-- A request ring. -/
def State.tsr (s : State) (i : Nat) : Tsr := s.tsrs.get {} i
/-- The state with a request ring changed. -/
def State.modTsr (s : State) (i : Nat) (f : Tsr → Tsr) : State :=
  { s with tsrs := s.tsrs.set i (f (s.tsr i)) }
/-- A key slot (R400). -/
def State.key (s : State) (k : Nat) : BitVec 512 := s.keys.get 0 k

/-- Global core number of a strand, 8 t + c on tiles and 6,144 + n on gateways (R8, R451). -/
def coreOf (n : Nat) : Nat := n / 4
/-- Strand slot of a strand in its core. -/
def slotOf (n : Nat) : Nat := n % 4
/-- Whether a global core number is a gateway core's. -/
def isGatewayCore (c : Nat) : Bool := decide (6144 ≤ c)
/-- Whether a strand lies on a gateway core. -/
def isGateway (n : Nat) : Bool := isGatewayCore (coreOf n)
/-- Gateway number of a gateway core. -/
def gatewayNo (c : Nat) : Nat := c - 6144
/-- Port tile of gateway core `k` (R451). -/
def portTile (k : Nat) : Nat := if k < 16 then (4 + k) * 32 else (k - 12) * 32 + 31
/-- The tile of a core: its own tile, or a gateway core's port tile. -/
def tileOfCore (c : Nat) : Nat := if isGatewayCore c then portTile (gatewayNo c) else c / 8
/-- The tile of a strand. -/
def tileOf (n : Nat) : Nat := tileOfCore (coreOf n)
/-- Column of a tile (R8). -/
def tileX (t : Nat) : Nat := t % 32
/-- Row of a tile (R8). -/
def tileY (t : Nat) : Nat := t / 32
/-- I/O die of a gateway core: 0 west, 1 east (R22). -/
def dieOfGateway (k : Nat) : Nat := k / 16
/-- I/O die of the half of the module a tile lies in (R309). -/
def halfOf (t : Nat) : Nat := if tileX t < 16 then 0 else 1

/-! ### Registers (R84, R85) -/

/-- A general register; g0 reads 0. -/
def readG (st : Strand) (r : GReg) : Word := if r = 0 then 0 else st.g[r]
/-- The strand with a general register written; writes to g0 are discarded. -/
def writeG (st : Strand) (r : GReg) (v : Word) : Strand :=
  if r = 0 then st else { st with g := st.g.set r v }
/-- A predicate; p0 reads 1. -/
def readP (st : Strand) (r : PReg) : Bool := r == 0 || st.p.getLsbD r.val
/-- The strand with a predicate written; writes to p0 are discarded. -/
def writeP (st : Strand) (r : PReg) (b : Bool) : Strand :=
  if r = 0 then st
  else { st with p := (st.p &&& ~~~ (1#8 <<< r.val)) ||| ((BitVec.ofBool b).setWidth 8 <<< r.val) }
/-- A vector register. -/
def readW (st : Strand) (r : WReg) : VecWord := st.w[r]
/-- The strand with a vector register written. -/
def writeW (st : Strand) (r : WReg) (v : VecWord) : Strand := { st with w := st.w.set r v }
/-- A lane mask; m0 reads all ones. -/
def readM (st : Strand) (r : MReg) : MaskWord := if r = 0 then BitVec.allOnes 16 else st.m[r]
/-- The strand with a lane mask written; writes to m0 are discarded. -/
def writeM (st : Strand) (r : MReg) (v : MaskWord) : Strand :=
  if r = 0 then st else { st with m := st.m.set r v }
/-- The register number of a format V field (R99). -/
def g16 (r : GReg16) : GReg := ⟨r.val, by omega⟩
/-- Budget in registers (R86). -/
def budget (code : BitVec 2) : Nat := 8 * (code.toNat + 1)
/-- The program counter as a word. -/
def pcWord (st : Strand) : Word := st.pc.setWidth 64
/-- The system register FPCTL (R131). -/
def fpctlWord (st : Strand) : Word := (st.rm.setWidth 64) ||| (if st.fz then 4 else 0)
/-- The system register STATUS (R416). -/
def statusWord (st : Strand) : Word :=
  st.inl.setWidth 64 ||| (if st.rsmd then 0x100 else 0) ||| (st.level.setWidth 64 <<< 9)
    ||| (if st.stepMode then 0x8000 else 0)
/-- Flags merged into FPFLAGS; they are sticky (R34). -/
def mergeFlags (st : Strand) (f : BitVec 5) : Strand := { st with flags := st.flags ||| f }

/-! ### Codes -/

/-- Codes of causes and events (R414). -/
def Cause.code : Cause → BitVec 8
  | .illegalInstruction => 0x01 | .illegalCombination => 0x02 | .misaligned => 0x03
  | .stackLimit => 0x04 | .rangeLock => 0x05 | .scratchBounds => 0x06 | .pageAbsent => 0x07
  | .pagePermission => 0x08 | .leaseRevoked => 0x09 | .poison => 0x0A | .handlerAbsent => 0x0B
  | .spillFull => 0x0C | .barrierOverrun => 0x0D | .graphCapacity => 0x0E | .graphRange => 0x0F
  | .couplingCycle => 0x10 | .couplingGain => 0x11 | .userTrap => 0x12 | .breakpoint => 0x13
  | .configUncorrectable => 0x14 | .replyOrphan => 0x15 | .softCorrected => 0x40

/-! ### Bytes of memory

One physical address space holds local HBM at its PA, the slices of the tiles, the gateway
buffers, and host memory at its bus address (R421, R424, R451). -/

/-- Physical place of a slice byte. -/
def sliceAddr (t off : Nat) : Nat := 0x100000000000 + t * 0x400000 + off
/-- Physical place of a gateway buffer byte. -/
def bufferAddr (k off : Nat) : Nat := 0x200000000000 + k * 0x100000 + off
/-- Physical place of a host memory byte. -/
def hostAddr (bus : Nat) : Nat := 0x10000000000000000 + bus
/-- Whether a physical place lies in local HBM (R421). -/
def isHbm (pa : Nat) : Bool := decide (pa < 0x10000000000)
/-- Whether a physical place lies in host memory. -/
def isHost (pa : Nat) : Bool := decide (0x10000000000000000 ≤ pa)
/-- The tile and offset of a slice place. -/
def sliceOf (pa : Nat) : Option (Nat × Nat) :=
  if 0x100000000000 ≤ pa ∧ pa < 0x100000000000 + 768 * 0x400000 then
    some ((pa - 0x100000000000) / 0x400000, (pa - 0x100000000000) % 0x400000)
  else none
/-- Places that read 0 and ignore writes: the end of a slice (R385). -/
def isReservedByte (pa : Nat) : Bool :=
  match sliceOf pa with
  | some (_, off) => decide (0x2F0800 ≤ off)
  | none => false

/-- The byte at a place; a place the list does not hold reads 0. -/
def memByte : List Host.Cell → Nat → Byte
  | [], _ => 0
  | (k, v) :: r, a => if k = a then v else memByte r a

/-- A cell put before the first larger place. -/
def memInsert (a : Nat) (b : Byte) : List Host.Cell → List Host.Cell
  | [] => [(a, b)]
  | (k, v) :: r => if a < k then (a, b) :: (k, v) :: r else (k, v) :: memInsert a b r

/-- The memory with one byte written, in canonical form: a zero byte is not listed. -/
def memWrite (m : List Host.Cell) (a : Nat) (b : Byte) : List Host.Cell :=
  let r := m.filter (fun e => e.1 != a)
  if b = 0 then r else memInsert a b r

/-- The canonical form: places strictly rising, no zero byte. -/
def Memory.wf : List Host.Cell → Bool
  | [] => true
  | [(_, v)] => v != 0
  | (k, v) :: (k', v') :: r => v != 0 && decide (k < k') && Memory.wf ((k', v') :: r)

/-- The byte at a place. -/
def State.byte (s : State) (a : Nat) : Byte := memByte s.mem a
/-- The state with one byte written; reserved places ignore the write (R385). -/
def State.setByte (s : State) (a : Nat) (b : Byte) : State :=
  if isReservedByte a then s else { s with mem := memWrite s.mem a b }

/-- `n` bytes from a place. -/
def State.readRaw (s : State) (a : Nat) : Nat → List Byte
  | 0 => []
  | n + 1 => s.byte a :: State.readRaw s (a + 1) n

/-- Bytes written from a place on. -/
def State.writeRaw (s : State) (a : Nat) : List Byte → State
  | [] => s
  | b :: r => State.writeRaw (s.setByte a b) (a + 1) r

/-- The number whose bytes these are, least significant first (R2). -/
def leNat : List Byte → Nat
  | [] => 0
  | b :: r => b.toNat + 256 * leNat r

/-- The `n` low bytes of a number, least significant first (R2). -/
def leBytes : Nat → Nat → List Byte
  | 0, _ => []
  | n + 1, v => BitVec.ofNat 8 v :: leBytes n (v / 256)

/-- The 64-bit word at a place. -/
def State.word64 (s : State) (a : Nat) : Nat := leNat (s.readRaw a 8)

/-! ### Poison and encryption (R83, R163, R400, R437) -/

/-- Addresses of the 8-byte units that `n` bytes from `a` touch. -/
def unitsOf (a n : Nat) : List Nat :=
  if n = 0 then [] else (List.range ((a + n - 1) / 8 - a / 8 + 1)).map fun i => (a / 8 + i) * 8

/-- Whether a range touches a poisoned unit. -/
def State.poisoned (s : State) (a n : Nat) : Bool := (unitsOf a n).any s.poison.contains

/-- The line of 64 bytes with number `line`, deciphered under key slot `k`. -/
def State.plainLine (s : State) (k line : Nat) : List Byte :=
  (xtsDecrypt (s.key k) line ((s.readRaw (line * 64) 64).map BitVec.toNat)).map (BitVec.ofNat 8)

/-- `n` bytes of a place as its home holds them, deciphered when the page is encrypted. -/
def State.readPlain (s : State) (pa : Nat) (key : Option Nat) (n : Nat) : List Byte :=
  match key with
  | none => s.readRaw pa n
  | some k =>
    (List.range n).map fun i => (s.plainLine k ((pa + i) / 64)).getD ((pa + i) % 64) 0

/-- Bytes laid over a list from position `at_` on. -/
def overlay (l : List Byte) (at_ : Nat) (bs : List Byte) : List Byte :=
  l.take at_ ++ bs ++ l.drop (at_ + bs.length)

/-- Bytes written at a place, line by line; `fuel` bounds the lines. -/
def State.writeLines (s : State) (k : Nat) : Nat → Nat → List Byte → State
  | 0, _, _ => s
  | fuel + 1, pa, bs =>
    if bs.isEmpty then s
    else
      let room := 64 - pa % 64
      let line := overlay (s.plainLine k (pa / 64)) (pa % 64) (bs.take room)
      let enc := (xtsEncrypt (s.key k) (pa / 64) (line.map BitVec.toNat)).map (BitVec.ofNat 8)
      State.writeLines (s.writeRaw (pa / 64 * 64) enc) k fuel (pa + room) (bs.drop room)

/-- Bytes written at a place, enciphered when the page is encrypted. -/
def State.writePlain (s : State) (pa : Nat) (key : Option Nat) (bs : List Byte) : State :=
  match key with
  | none => s.writeRaw pa bs
  | some k => s.writeLines k (bs.length / 64 + 2) pa bs

/-- Units wholly covered by `n` bytes from `a`: a store to them clears their error (R163). -/
def coveredUnits (a n : Nat) : List Nat :=
  (unitsOf a n).filter fun u => decide (a ≤ u ∧ u + 8 ≤ a + n)

/-- Whether a store of `n` bytes covers a poisoned unit only in part (R163). -/
def State.partlyPoisoned (s : State) (a n : Nat) : Bool :=
  (unitsOf a n).any fun u => s.poison.contains u && !(coveredUnits a n).contains u

/-! ### Placements (R60, R387, R392) -/

/-- Whether tile `t` lies in the rectangle of a kernel record. -/
def Ctx.covers (k : Ctx) (t : Nat) : Bool :=
  decide ((tileX t + 32 - k.x0.toNat) % 32 ≤ k.w1k.toNat ∧
    (tileY t + 24 - k.y0.toNat % 24) % 24 ≤ k.h1.toNat)

/-- Whether a kernel record holds tiles for delivery and bounds (R392). -/
def Ctx.delivers (k : Ctx) : Bool := k.kst == .running || k.kst == .draining

/-- Whether a kernel record has tiles marked as held (R388 to R395). -/
def Ctx.holds (k : Ctx) : Bool :=
  k.kst == .loading || k.kst == .running || k.kst == .draining || k.kst == .retiring

/-- The context whose kernel has tile `t` marked as held. -/
def State.holder (s : State) (t : Nat) : Option Nat :=
  (s.ctxs.find? fun e => e.2.holds && e.2.covers t).map (·.1)

/-- Whether tile `t` is in the placement of context `c`, or in a partner placement recorded for
it (R60, R392). -/
def State.inPlacement (s : State) (c t : Nat) : Bool :=
  let k := s.ctx c
  let p := s.ctx k.partner.toNat
  decide (t < 768) && ((k.delivers && k.covers t) || (k.delivers && k.pvalid && p.delivers && p.covers t))

/-- Context of a strand: the kernel that holds its tile, or the context of its die's gateways. -/
def State.ctxOf (s : State) (n : Nat) : Nat :=
  if isGateway n then (s.gateway (dieOfGateway (gatewayNo (coreOf n)))).ctx.toNat
  else (s.holder (tileOf n)).getD 0

/-- Whether the kernel of context `c` entered DRAINING in an earlier clock: what is satisfied now is discarded
(R394). -/
def State.pastDrain (s : State) (c : Nat) : Bool := (s.ctx c).kst == .draining && (s.ctx c).drainAt != s.time

/-! ### Address map (R57, R58) -/

/-- The tile and offset of a scratchpad window address. -/
def windowOf (va : Nat) : Option (Nat × Nat) :=
  if 0x700000000000 ≤ va ∧ va < 0x7000C0000000 then
    some ((va - 0x700000000000) / 0x400000, (va - 0x700000000000) % 0x400000)
  else none

/-- The offset of an own-tile alias address. -/
def aliasOf (va : Nat) : Option Nat :=
  if 0x7F0000000000 ≤ va ∧ va < 0x7F0000300000 then some (va - 0x7F0000000000) else none

/-- The outcome of R58 for one byte. -/
def r58 (va : Nat) : Option Cause :=
  if 0x1000000000000 ≤ va then some .pageAbsent
  else if va < 0x700000000000 then none
  else if va < 0x7000C0000000 then
    if 0x300000 ≤ (va - 0x700000000000) % 0x400000 then some .scratchBounds else none
  else if va < 0x7F0000000000 then some .scratchBounds
  else if va < 0x7F0000300000 then none
  else if va < 0x800000000000 then some .scratchBounds
  else some .pageAbsent

/-- The outcome of R58 for an access: its first byte's, else its last byte's. -/
def r58Range (va n : Nat) : Option Cause :=
  match r58 va with
  | some c => some c
  | none => r58 (va + (n - 1))

/-- The lowest byte of `[va, va + n)` whose outcome under R58 is `k`. -/
def r58Lowest (k : Cause) (va n : Nat) : Nat :=
  let hole := 0x700000300000 + (va - 0x700000000000) / 0x400000 * 0x400000
  ([va, hole, 0x7000C0000000, 0x7F0000300000, 0x800000000000, 0x1000000000000].find? fun b =>
    decide (va ≤ b ∧ b < va + n) && r58 b == some k).getD (va + (n - 1))

/-- The lowest byte of `[va, va + n)` in the slice of a tile outside the placements of context `c` (R60). -/
def State.outsideByte (s : State) (c va n : Nat) : Option Nat :=
  let lo := max va 0x700000000000
  let hi := min (va + n) 0x7000C0000000
  if hi ≤ lo then none
  else
    let t0 := (lo - 0x700000000000) / 0x400000
    let t1 := (hi - 1 - 0x700000000000) / 0x400000
    (((List.range (t1 - t0 + 1)).map (t0 + ·)).find? fun t => !s.inPlacement c t).map fun t =>
      max lo (0x700000000000 + t * 0x400000)

/-- The outcome of R58, by its first and last byte, and then of R60 for a range of an engine's or a queue's
addresses, with the lowest failing byte (R302); `c` is the party's context. -/
def State.boundsCheck (s : State) (c va n : Nat) : Option (Cause × Nat) :=
  match r58Range va n with
  | some k => some (k, r58Lowest k va n)
  | none => (s.outsideByte c va n).map fun b => (.scratchBounds, b)

/-! ### Page tables (R422 to R426) -/

/-- A translation as the walk finds it. `val` is the PA, the bus address or the lease offset. -/
structure Leaf where
  tier : Nat := 0
  val : Nat := 0
  lease : Nat := 0
  key : Nat := 0
  enc : Bool := false
  pois : Bool := false
  r : Bool := false
  w : Bool := false
  x : Bool := false
  region : Bool := false
  gran : Nat := 0
  deriving DecidableEq, Repr

/-- A leaf entry (R423, R424); `g` is the granule and `code` its PROBE code. -/
def leafOf (e va g code : Nat) : Option Leaf :=
  let tier := e / 64 % 4
  if tier = 3 then none
  else
    let val := if tier = 0 then e / 65536 % 0x1000000 * 65536
      else if tier = 1 then e / 0x10000000 % 0x1000000000 * 65536
      else e / 65536 * 65536
    some
      { tier := tier, val := val / g * g + va % g,
        lease := if tier = 1 then e / 65536 % 4096 else 0,
        key := e / 512 % 64, enc := e / 256 % 2 == 1, pois := e / 32768 % 2 == 1,
        r := e / 8 % 2 == 1, w := e / 16 % 2 == 1, x := e / 32 % 2 == 1, gran := code }

/-- A region descriptor applied to an address (R425, R426); `level1` says that the entry's span is
1 GiB. -/
def State.regionOf (s : State) (desc va : Nat) (level1 : Bool) : Option Leaf :=
  let d := s.word64 desc
  let g := if level1 && d / 256 % 2 == 1 then 0x200000 else 0x10000
  let a := d % 16
  let b := d / 16 % 16
  let span := if level1 then 0x40000000 else 0x200000
  if a + b = 0 then none
  else
    let p := va % span / g
    let n := p / (a + b)
    let q := p % (a + b)
    let base : Leaf :=
      { key := d / 8192 % 64, enc := d / 4096 % 2 == 1, r := d / 512 % 2 == 1,
        w := d / 1024 % 2 == 1, x := d / 2048 % 2 == 1, region := true,
        gran := if g = 0x200000 then 1 else 0 }
    if q < a then
      let fb := s.word64 (desc + 8) / 65536 % 0x1000000 * 65536
      some { base with tier := 0, val := fb + (n * a + q) * g + va % g }
    else
      let cb := s.word64 (desc + 16) / 65536 % 0x1000000000 * 65536
      some { base with tier := 1, val := cb + (n * b + (q - a)) * g + va % g,
                       lease := d / 0x100000000 % 4096 }

/-- The walk of an address (R422, R423); none is an absent page. Only translated addresses are walked (R57). -/
def State.walk (s : State) (c va : Nat) : Option Leaf :=
  if 0x700000000000 ≤ va then none
  else
  let root := (s.ctx c).ptroot.toNat / 0x200000 % 0x80000 * 0x200000
  let e1 := s.word64 (root + 8 * (va / 0x40000000))
  match e1 % 4 with
  | 0 => none
  | 2 => leafOf e1 va 0x40000000 2
  | 3 => s.regionOf (e1 / 32 % 0x800000000 * 32) va true
  | _ =>
    let e2 := s.word64 (e1 / 256 % 0x100000000 * 256 + 8 * (va / 0x200000 % 512))
    match e2 % 4 with
    | 0 => none
    | 2 => leafOf e2 va 0x200000 1
    | 3 => s.regionOf (e2 / 32 % 0x800000000 * 32) va false
    | _ =>
      let e3 := s.word64 (e2 / 256 % 0x100000000 * 256 + 8 * (va / 0x10000 % 32))
      if e3 % 4 = 2 then leafOf e3 va 0x10000 0 else none

/-- What an access needs of a page (R424, R80, R437). -/
structure Need where
  r : Bool := false
  w : Bool := false
  x : Bool := false
  /-- an atomic or barrier operation -/
  atomic : Bool := false
  /-- an atomic that a host page can perform (R80) -/
  hostOk : Bool := false
  deriving DecidableEq, Repr

/-- Need of a load or engine read. -/
def needR : Need := { r := true }
/-- Need of a store or engine write. -/
def needW : Need := { w := true }
/-- Need of a barrier operation (R270). -/
def needBarrier : Need := { r := true, w := true, atomic := true }

/-- What a translation gives an access (R431). -/
inductive Xlate where
  | absent
  | denied
  | revoked
  | poisoned (t : Target)
  | ok (t : Target)
  deriving DecidableEq, Repr

/-- The key slot of a page of context `c`, none for plaintext; the outer none is a KEY not below
KCOUNT (R400, R424). With KCOUNT = 0 the pages are held in plaintext. -/
def Ctx.keyFor (k : Ctx) (l : Leaf) : Option (Option Nat) :=
  let kbase := k.keyslot.toNat % 2048
  let kcount := k.keyslot.toNat / 65536 % 128
  if !l.enc then some none
  else if l.key < kcount then some (some (kbase + l.key))
  else none

/-- The translation of one address of the translated range, for one access (R424, R428, R431). Local HBM takes
bits [39:0] of a PA (R421; assumption log 71). -/
def State.xlate (s : State) (c va : Nat) (need : Need) : Xlate :=
  match s.walk c va with
  | none => .absent
  | some l =>
    match (s.ctx c).keyFor l with
    | none => .denied
    | some key =>
      let b := s.borrower l.lease
      if (need.r && !l.r) || (need.w && !l.w) || (need.x && !l.x) then .denied
      else if need.atomic && l.tier == 2 && !need.hostOk then .denied
      else if l.tier == 1 && (decide (b.size.toNat * 0x200000 ≤ l.val) ||
          (need.atomic && l.enc)) then .denied
      else
        let t : Target :=
          if l.tier = 0 then .mem (l.val % 0x10000000000) key
          else if l.tier = 1 then .lease l.lease l.val key
          else .mem (hostAddr l.val) none
        if l.pois then .poisoned t
        else if l.tier == 1 && b.st != .active then .revoked
        else .ok t

/-- The target of an address for a party on tile `t` (or gateway core): scratchpad is resolved by
R59, the rest by translation. -/
def State.resolve (s : State) (c : Nat) (core va : Nat) (need : Need) : Xlate :=
  match windowOf va with
  | some (w, off) => .ok (.mem (sliceAddr w off) none)
  | none =>
    match aliasOf va with
    | some off =>
      if isGatewayCore core then .ok (.mem (bufferAddr (gatewayNo core) off) none)
      else .ok (.mem (sliceAddr (core / 8) off) none)
    | none => s.xlate c va need

/-- Whether a target is a byte of the issuing tile's slice or of the gateway's buffer. -/
def isOwn (core : Nat) (t : Target) : Bool :=
  match t with
  | .mem pa _ =>
    if isGatewayCore core then
      decide (bufferAddr (gatewayNo core) 0 ≤ pa ∧ pa < bufferAddr (gatewayNo core) 0 + 0x100000)
    else decide (sliceAddr (core / 8) 0 ≤ pa ∧ pa < sliceAddr (core / 8) 0 + 0x300000)
  | .lease _ _ _ => false

/-! ### The checks of an access (R77, R162) -/

/-- The lowest byte of `[a, a + n)` that overlaps a lock entry the access must not touch: a
destination entry, or for a store also a source entry (R77). -/
def lockHit (locks : List RangeLock) (a n : Nat) (store : Bool) : Option Nat :=
  (locks.filterMap fun l =>
    if (l.dst || store) && decide (l.lo < a + n) && decide (a ≤ l.hi) then some (max a l.lo) else none).min?

/-- The outcome of an access check: a cause with its BADVA, or the target and whether the page is
POISONED (nothing is then performed, R431). -/
inductive Checked where
  | bad (c : Cause) (badva : Word)
  | ok (t : Target) (poisoned : Bool)
  deriving DecidableEq, Repr

/-- CheckAccess of R162 for a party of context `c` at core `core` against a table of range locks: `align` is the
alignment, `size` the bytes checked. -/
def State.checkLocks (s : State) (c core : Nat) (locks : List RangeLock) (ea : Word) (size align : Nat)
    (need : Need) : Checked :=
  let va := ea.toNat
  if va % align ≠ 0 then .bad .misaligned ea
  else
    match r58Range va size with
    | some k => .bad k ea
    | none =>
      let out :=
        match windowOf va with
        | some (w, _) => !s.inPlacement c w
        | none =>
          match aliasOf va with
          | some off => isGatewayCore core && decide (0x100000 < off + size)
          | none => false
      if out then .bad .scratchBounds ea
      else
        let hit := lockHit locks va size (need.w || need.atomic)
        let lock := fun (t : Target) (p : Bool) =>
          match hit with
          | some b => Checked.bad .rangeLock (BitVec.ofNat 64 b)
          | none => .ok t p
        match s.resolve c core va need with
        | .absent => .bad .pageAbsent ea
        | .denied => .bad .pagePermission ea
        | .revoked => .bad .leaseRevoked ea
        | .poisoned t => lock t true
        | .ok t => lock t false

/-- CheckAccess of R162 for a party at core `core`, against the range locks of its tile (R77). -/
def State.checkFor (s : State) (c core : Nat) (ea : Word) (size align : Nat) (need : Need) : Checked :=
  s.checkLocks c core (if isGatewayCore core then [] else (s.tile (tileOfCore core)).locks) ea size align need

/-- CheckAccess of R162 for strand `n`. -/
def State.checkAccess (s : State) (n : Nat) (ea : Word) (size align : Nat) (need : Need) : Checked :=
  s.checkFor (s.ctxOf n) (coreOf n) ea size align need

/-! ### Taking a fault (R121, R129) -/

/-- The fault that comes first in program order; of two with one place, the one found first. -/
def firstFault : List FaultRec → Option FaultRec
  | [] => none
  | f :: r =>
    match firstFault r with
    | none => some f
    | some g => if f.ord ≤ g.ord then some f else some g

/-- The strand with a fault found: it is FAULTED, CAUSE and BADVA hold the first of its faults, and
EPC is the program counter, the address of the first instruction not issued. -/
def Strand.fault (st : Strand) (f : FaultRec) : Strand :=
  let fs := st.faults ++ [f]
  let g := (firstFault fs).getD f
  { st with phase := .faulted, faults := fs, epc := pcWord st, badva := g.badva,
            cause := g.cause.code.setWidth 9 ||| (if g.deferred then 0x100 else 0) }

/-- A fault raised at strand `n`. The machine takes it by entering FAULTED; CAPTURE_COMPLETE then
writes the image, the record and the post. -/
def State.raise (s : State) (n : Nat) (f : FaultRec) : State :=
  s.modStrand n fun st => st.fault { f with time := s.time }

/-- A fault found at issue: nothing but the fault has happened. -/
def State.raiseAtIssue (s : State) (n : Nat) (c : Cause) (badva : Word) : State :=
  s.raise n { cause := c, ord := s.nextId, epc := pcWord (s.strand n), badva := badva }

/-! ### The image of a strand (R407) -/

/-- The STATE word of an image with SST `sst`. -/
def Strand.stateWord (st : Strand) (sst : Nat) : Nat :=
  sst + (!st.pend.isEmpty).toNat * 8 + (st.p ||| 1).toNat * 16 + st.inl.toNat * 2 ^ 12 +
    st.code.toNat * 2 ^ 16 + st.weight.toNat * 2 ^ 18

/-- Bytes [47:0] of the triggering message's header flit. -/
def headBytes (h args : Nat) : List Byte := leBytes 16 h ++ leBytes 32 args

/-- Four argument words as one number. -/
def argsNat (l : List Word) : Nat :=
  (l.getD 0 0).toNat + (l.getD 1 0).toNat * 2 ^ 64 + (l.getD 2 0).toNat * 2 ^ 128 +
    (l.getD 3 0).toNat * 2 ^ 192

/-- The 2,048 bytes of a strand image; `hdr` is the header of the triggering message as a number. g0, p0 and m0
are saved as they read (R84). -/
def Strand.imageBytes (st : Strand) (sst hdr : Nat) : List Byte :=
  ((List.range 32).map fun i =>
    leBytes 8 (if i < budget st.code ∧ i ≠ 0 then (st.g.toList.getD i 0).toNat else 0)).flatten ++
  (st.w.toList.map fun x => leBytes 64 x.toNat).flatten ++
  (st.m.toList.mapIdx fun i x => leBytes 2 (if i = 0 then 0xFFFF else x.toNat)).flatten ++
  leBytes 8 (st.stateWord sst) ++ leBytes 8 st.epc.toNat ++ leBytes 8 st.cause.toNat ++
  leBytes 8 st.badva.toNat ++ leBytes 8 st.sbase.toNat ++ leBytes 8 st.slim.toNat ++
  leBytes 8 st.lc.toNat ++ leBytes 8 st.ls.toNat ++ leBytes 8 st.le.toNat ++
  leBytes 8 (fpctlWord st).toNat ++ leBytes 8 st.flags.toNat ++ leBytes 8 st.rngctr.toNat ++
  leBytes 8 st.rngstream.toNat ++ leBytes 4 st.jc0.toNat ++ leBytes 4 st.jc1.toNat ++
  (st.jstat.toList) ++ leBytes 8 st.hidx.toNat ++ leBytes 8 st.msgsrc.toNat ++
  leBytes 8 (statusWord st).toNat ++
  leBytes 8 (st.owed.toNat + st.replied.toNat * 2 + (st.pool.getD 255) % 256 * 256) ++
  headBytes hdr (argsNat st.msg.args) ++ List.replicate 544 0

/-- The image of an IDLE strand (R401): it holds no register, and 0xFF says that it holds no pool slot (R407). -/
def idleImage : List Byte := List.replicate 1449 0 ++ [0xFF] ++ List.replicate 598 0

/-- `n` bytes of a record from offset `off`, as a number. -/
def fieldAt (bs : List Byte) (off n : Nat) : Nat := leNat ((bs.drop off).take n)

/-- The strand with the registers of an image loaded (R403, R420). The program counter is the image's
EPC with its two low bits read as 0 (R84). -/
def Strand.loadImage (st : Strand) (bs : List Byte) : Strand :=
  let f := fieldAt bs
  let state := f 1296 8
  let status := f 1440 8
  { st with
    g := Vector.ofFn fun i : Fin 32 => BitVec.ofNat 64 (f (8 * i.val) 8),
    w := Vector.ofFn fun i : Fin 16 => BitVec.ofNat 512 (f (256 + 64 * i.val) 64),
    m := Vector.ofFn fun i : Fin 8 => BitVec.ofNat 16 (f (1280 + 2 * i.val) 2),
    p := BitVec.ofNat 8 (state / 16), inl := BitVec.ofNat 4 (state / 2 ^ 12),
    code := BitVec.ofNat 2 (state / 2 ^ 16), weight := BitVec.ofNat 7 (state / 2 ^ 18),
    epc := BitVec.ofNat 64 (f 1304 8), pc := BitVec.ofNat 48 (f 1304 8 / 4 * 4),
    cause := BitVec.ofNat 9 (f 1312 8), badva := BitVec.ofNat 64 (f 1320 8),
    sbase := BitVec.ofNat 64 (f 1328 8), slim := BitVec.ofNat 64 (f 1336 8),
    lc := BitVec.ofNat 64 (f 1344 8), ls := BitVec.ofNat 64 (f 1352 8 % 2 ^ 48 / 4 * 4),
    le := BitVec.ofNat 64 (f 1360 8 % 2 ^ 48 / 4 * 4), rm := BitVec.ofNat 2 (f 1368 8),
    fz := f 1368 8 / 4 % 2 == 1, flags := BitVec.ofNat 5 (f 1376 8),
    rngctr := BitVec.ofNat 64 (f 1384 8), rngstream := BitVec.ofNat 64 (f 1392 8),
    jc0 := BitVec.ofNat 32 (f 1400 4), jc1 := BitVec.ofNat 32 (f 1404 4),
    jstat := Vector.ofFn fun i : Fin 16 => BitVec.ofNat 8 (f (1408 + i.val) 1),
    hidx := BitVec.ofNat 12 (f 1424 8), msgsrc := BitVec.ofNat 17 (f 1432 8),
    stepMode := status / 2 ^ 15 % 2 == 1, rsmd := status / 2 ^ 8 % 2 == 1,
    level := BitVec.ofNat 3 (status / 2 ^ 9),
    owed := f 1448 1 % 2 == 1, replied := f 1448 1 / 2 % 2 == 1,
    pool := (if f 1449 1 = 255 then none else some (f 1449 1 % 64)),
    msg := { st.msg with args := (List.range 4).map fun i => BitVec.ofNat 64 (f (1472 + 8 * i) 8) },
    fetched := none, landing := [] }

/-- The return from a fault (R420): the image's registers, RSMD set, RUNNING at EPC with credit 64. -/
def Strand.resumed (st : Strand) (bs : List Byte) : Strand :=
  { st.loadImage bs with rsmd := true, phase := .running, credit := 64, faults := [],
                         hasImage := false, resumeWait := false }

/-- Bytes at a target; leased memory is not read here. -/
def State.readTarget (s : State) (t : Target) (off n : Nat) : List Byte :=
  match t with
  | .mem pa key => s.readPlain (pa + off) key n
  | .lease _ _ _ => List.replicate n 0

/-- Bytes written at a target; a save area in leased memory takes no write. -/
def State.writeTarget (s : State) (t : Target) (off : Nat) (bs : List Byte) : State :=
  match t with
  | .mem pa key =>
    { s.writePlain (pa + off) key bs with
      poison := s.poison.filter fun u => !(coveredUnits (pa + off) bs.length).contains u,
      soft := s.soft.filter fun u => !(coveredUnits (pa + off) bs.length).contains u }
  | .lease _ _ _ => s

/-- Whether a strand is SAVED. -/
def Phase.saved : Phase → Bool
  | .savedFault _ => true
  | .savedPre => true
  | .idle => false
  | .running => false
  | .stalled _ => false
  | .faulted => false


/-- Relative tile r of tile `t` in the placement of a kernel record (R406). -/
def Ctx.relTile (k : Ctx) (t : Nat) : Nat :=
  (tileY t + 24 - k.y0.toNat % 24) % 24 * (k.w1k.toNat + 1) + (tileX t + 32 - k.x0.toNat) % 32

/-- Address of the core record of tile core `c` in the save area of a context (R406). -/
def Ctx.coreRecord (k : Ctx) (c : Nat) : Nat :=
  k.savebase.toNat / 0x200000 % 0x8000000 * 0x200000 + (8 * k.relTile (c / 8) + c % 8) * 16384

/-- The place of an address of the save area of context `c`, none if the page does not take writes there
(R406). -/
def State.saveTarget (s : State) (c va : Nat) : Option Target :=
  match s.xlate c va needW with
  | .ok (.mem pa key) => some (.mem pa key)
  | .ok (.lease _ _ _) => none
  | .poisoned _ => none
  | .absent => none
  | .denied => none
  | .revoked => none

/-- A place moved on by some bytes. -/
def Target.plus (t : Target) (n : Nat) : Target :=
  match t with
  | .mem pa key => .mem (pa + n) key
  | .lease i off key => .lease i (off + n) key

/-- Where byte `off` of the core record of core `core` lies: by the translation that Agate keeps while a command is
in progress, and otherwise by that of now (R406, R429). -/
def State.coreSave (s : State) (core off : Nat) : Option Target :=
  let k := s.core core
  match k.record with
  | some t => some (t.plus off)
  | none => s.saveTarget ((s.holder (tileOfCore core)).getD 0) (k.recordVa.toNat + off)

/-- Where the image of a SAVED strand lies, if it has one. -/
def State.savedImage (s : State) (n : Nat) : Option Target :=
  let st := s.strand n
  if !st.phase.saved || !st.hasImage then none
  else
    let k := s.core (coreOf n)
    match k.record with
    | some t => some (t.plus (st.imageVa.toNat - k.recordVa.toNat))
    | none => s.saveTarget (s.ctxOf n) st.imageVa.toNat

/-- A field of the image of strand `n` written, if it is SAVED and has one (R130, R402). -/
def State.imageField (s : State) (n off : Nat) (bs : List Byte) : State :=
  match s.savedImage n with
  | some t => s.writeTarget t off bs
  | none => s

end Sys2Proof.Machine
end

