-- ==== Sys2Proof/Machine/Post.lean ====
section
/-! DEFINITION. Headers, packets on the torus, rings, events, fault records: what every unit does when
it posts a message or reports something (R210 to R215, R234 to R236, R409 to R413, R440 to R443). -/

namespace Sys2Proof.Machine

/-! ### Headers (R211) -/

/-- The 128 bits of a header. -/
def Hdr.bits (h : Hdr) : Nat :=
  h.dx.toNat + h.dy.toNat * 2 ^ 5 + h.dcore.toNat * 2 ^ 11 + h.prio.toNat * 2 ^ 14 +
  h.pset.toNat * 2 ^ 16 + h.hidx.toNat * 2 ^ 17 + h.ctx.toNat * 2 ^ 29 + h.lclass.toNat * 2 ^ 37 +
  h.re.toNat * 2 ^ 40 + h.rslot.toNat * 2 ^ 41 + h.sx.toNat * 2 ^ 47 + h.sy.toNat * 2 ^ 52 +
  h.score.toNat * 2 ^ 57 + h.sstr.toNat * 2 ^ 60 + h.seq.toNat * 2 ^ 64 + h.kind.toNat * 2 ^ 80 +
  h.rels.toNat * 2 ^ 83 + h.tmo.toNat * 2 ^ 84 + h.nr.toNat * 2 ^ 85 + h.ud.toNat * 2 ^ 86 +
  h.posted.toNat * 2 ^ 87 + h.len.toNat * 2 ^ 88 + h.rhidx.toNat * 2 ^ 97 + h.fpost.toNat * 2 ^ 109

/-- The header that 128 bits hold; reserved bits are ignored. -/
def Hdr.ofBits (v : Nat) : Hdr :=
  { dx := BitVec.ofNat 5 v, dy := BitVec.ofNat 5 (v / 2 ^ 5), dcore := BitVec.ofNat 3 (v / 2 ^ 11),
    prio := BitVec.ofNat 2 (v / 2 ^ 14), pset := v / 2 ^ 16 % 2 == 1,
    hidx := BitVec.ofNat 12 (v / 2 ^ 17), ctx := BitVec.ofNat 8 (v / 2 ^ 29),
    lclass := BitVec.ofNat 3 (v / 2 ^ 37), re := v / 2 ^ 40 % 2 == 1,
    rslot := BitVec.ofNat 6 (v / 2 ^ 41), sx := BitVec.ofNat 5 (v / 2 ^ 47),
    sy := BitVec.ofNat 5 (v / 2 ^ 52), score := BitVec.ofNat 3 (v / 2 ^ 57),
    sstr := BitVec.ofNat 2 (v / 2 ^ 60), seq := BitVec.ofNat 16 (v / 2 ^ 64),
    kind := BitVec.ofNat 3 (v / 2 ^ 80), rels := v / 2 ^ 83 % 2 == 1, tmo := v / 2 ^ 84 % 2 == 1,
    nr := v / 2 ^ 85 % 2 == 1, ud := v / 2 ^ 86 % 2 == 1, posted := v / 2 ^ 87 % 2 == 1,
    len := BitVec.ofNat 9 (v / 2 ^ 88), rhidx := BitVec.ofNat 12 (v / 2 ^ 97),
    fpost := v / 2 ^ 109 % 2 == 1 }

/-- Bytes [47:0] of a header flit: header and four argument words (R210). -/
def Msg.flitBytes (m : Msg) : List Byte :=
  leBytes 16 m.hdr.bits ++ ((List.range 4).map fun i => leBytes 8 (m.args.getD i 0).toNat).flatten

/-- The message whose header flit has these first 48 bytes. -/
def Msg.ofFlit (bs : List Byte) (payload : List Byte) : Msg :=
  { hdr := Hdr.ofBits (leNat (bs.take 16)),
    args := (List.range 4).map fun i => BitVec.ofNat 64 (leNat ((bs.drop (16 + 8 * i)).take 8)),
    payload := payload }

/-- Payload flits of a message (R210). -/
def payloadFlits (len : Nat) : Nat := (len + 63) / 64

/-- The destination fields of a destination word, for a sender whose placement offset is
`(x0, y0)` (R212). -/
def Hdr.withDest (h : Hdr) (dw : Word) (x0 y0 : Nat) : Hdr :=
  let v := dw.toNat
  let x := v % 32
  let y := v / 32 % 32
  let rel := v / 1024 % 2 == 1
  { h with
    dx := BitVec.ofNat 5 (if rel then (x0 + x) % 32 else x),
    dy := BitVec.ofNat 5 (if rel then (y0 + y) % 24 else y),
    dcore := BitVec.ofNat 3 (v / 2 ^ 11), prio := BitVec.ofNat 2 (v / 2 ^ 14),
    pset := v / 2 ^ 16 % 2 == 1, hidx := BitVec.ofNat 12 (v / 2 ^ 17) }

/-- The reply handler index of a destination word (R212). -/
def destRhidx (dw : Word) : BitVec 12 := BitVec.ofNat 12 (dw.toNat / 2 ^ 52)

/-- The tile a header names; rows 24 to 31 name none (R212). -/
def Hdr.destTile (h : Hdr) : Option Nat :=
  if h.dy.toNat < 24 then some (h.dy.toNat * 32 + h.dx.toNat) else none

/-- The tile a header comes from. -/
def Hdr.srcTile (h : Hdr) : Nat := h.sy.toNat % 24 * 32 + h.sx.toNat

/-- The source fields of a packet posted by tile `t`, core `c`, strand slot `k`. -/
def Hdr.withSource (h : Hdr) (t c k : Nat) : Hdr :=
  { h with sx := BitVec.ofNat 5 (tileX t), sy := BitVec.ofNat 5 (tileY t),
           score := BitVec.ofNat 3 c, sstr := BitVec.ofNat 2 k }

/-- The placement offset of a context's kernel (R391). -/
def State.offsetOf (s : State) (c : Nat) : Nat × Nat := ((s.ctx c).x0.toNat, (s.ctx c).y0.toNat)

/-! ### Torus routes (R8, R442, R448) -/

/-- The neighbour of a tile through a torus port: 0 north, 1 east, 2 south, 3 west. -/
def neighbour (t port : Nat) : Nat :=
  let x := tileX t
  let y := tileY t
  match port with
  | 0 => (y + 23) % 24 * 32 + x
  | 1 => y * 32 + (x + 1) % 32
  | 2 => (y + 1) % 24 * 32 + x
  | _ => y * 32 + (x + 31) % 32

/-- The port a packet leaves by: along x first, the shorter way round, a tie in the + direction. -/
def routePort (pos dst : Nat) : Nat :=
  let dx := (tileX dst + 32 - tileX pos) % 32
  let dy := (tileY dst + 24 - tileY pos) % 24
  if dx ≠ 0 then (if dx ≤ 16 then 1 else 3) else (if dy ≤ 12 then 2 else 0)

/-- Whether a packet of this body follows the group's ports and not its destination (R442). -/
def Body.isGroup : Body → Bool
  | .group _ _ _ _ _ => true
  | .msg _ => false
  | .reply _ => false
  | .counter _ _ _ => false
  | .freeze _ _ => false
  | .unfreeze _ _ => false
  | .resume _ _ => false
  | .domain _ _ _ _ _ => false
  | .mmagOffer _ _ _ _ => false
  | .mmagAnswer _ _ _ _ => false
  | .mmagStart _ _ _ _ => false
  | .mmagCredit _ _ _ _ _ _ => false
  | .mmagStep _ _ _ _ _ _ _ _ => false
  | .mmagReport _ _ _ _ _ => false
  | .chainBind _ => false
  | .chainAnswer _ _ => false
  | .chainEntry _ _ _ => false
  | .chainCredit => false
  | .request _ => false
  | .answer _ => false

/-- Payload flits that follow the header flit of a packet (NFL of R440). -/
def Body.payloadFlits : Body → Nat
  | .msg m => Sys2Proof.Machine.payloadFlits m.payload.length
  | .reply m => Sys2Proof.Machine.payloadFlits m.payload.length
  | .group m _ _ _ _ => Sys2Proof.Machine.payloadFlits m.payload.length
  | .domain m _ _ _ _ => Sys2Proof.Machine.payloadFlits m.payload.length
  | .chainEntry _ _ _ => 4
  | .mmagStep _ _ _ _ _ _ vals _ => min 4 (vals.length / 16)
  | .counter _ _ _ => 0
  | .freeze _ _ => 0
  | .unfreeze _ _ => 0
  | .resume _ _ => 0
  | .mmagOffer _ _ _ _ => 0
  | .mmagAnswer _ _ _ _ => 0
  | .mmagStart _ _ _ _ => 0
  | .mmagCredit _ _ _ _ _ _ => 0
  | .mmagReport _ _ _ _ _ => 0
  | .chainBind _ => 0
  | .chainAnswer _ _ => 0
  | .chainCredit => 0
  | .request _ => 0
  | .answer _ => 0

/-- The header of a packet's flit, its destination and context apart, and its argument words (R210, R211, R213).
What a control, access, MMAG or chain packet holds beside its KIND, the manual does not lay out, but for the operand of
RESUME: 0 here, and nothing reads it (DESIGN CHOICE, assumption log 86). -/
def Body.head : Body → Hdr × List Word
  | .msg m => (m.hdr, m.args)
  | .reply m => (m.hdr, m.args)
  | .counter h _ v => (h, [v.setWidth 64])
  | .group m _ _ _ _ => (m.hdr, m.args)
  | .domain m _ _ _ _ => (m.hdr, m.args)
  | .resume v _ => ({ kind := 5 }, [v])
  | .freeze c _ => ({ kind := 5, dcore := BitVec.ofNat 3 c }, [])
  | .unfreeze c _ => ({ kind := 5, dcore := BitVec.ofNat 3 c }, [])
  | .request _ => ({ kind := 3 }, [])
  | .answer _ => ({ kind := 4 }, [])
  | .mmagOffer _ _ _ _ => ({}, [])
  | .mmagAnswer _ _ _ _ => ({}, [])
  | .mmagStart _ _ _ _ => ({}, [])
  | .mmagCredit _ _ _ _ _ _ => ({}, [])
  | .mmagStep _ _ _ _ _ _ _ _ => ({}, [])
  | .mmagReport _ _ _ _ _ => ({}, [])
  | .chainBind _ => ({}, [])
  | .chainAnswer _ _ => ({}, [])
  | .chainEntry _ _ _ => ({}, [])
  | .chainCredit => ({}, [])

/-- The bytes of a packet's payload flits. -/
def Body.payload : Body → List Byte
  | .msg m => m.payload
  | .reply m => m.payload
  | .group m _ _ _ _ => m.payload
  | .domain m _ _ _ _ => m.payload
  | .chainEntry _ elems _ => elems.flatMap fun v => leBytes 4 v.toNat
  | .mmagStep _ _ _ _ _ _ vals _ => vals.flatMap fun v => leBytes 4 v
  | .counter _ _ _ => []
  | .freeze _ _ => []
  | .unfreeze _ _ => []
  | .resume _ _ => []
  | .mmagOffer _ _ _ _ => []
  | .mmagAnswer _ _ _ _ => []
  | .mmagStart _ _ _ _ => []
  | .mmagCredit _ _ _ _ _ _ => []
  | .mmagReport _ _ _ _ _ => []
  | .chainBind _ => []
  | .chainAnswer _ _ => []
  | .chainCredit => []
  | .request _ => []
  | .answer _ => []

/-- The group id in the route field (R440): of KIND 6 traffic. -/
def Body.gid : Body → Nat
  | .group _ gid _ _ _ => gid
  | .domain _ gid _ _ _ => gid
  | .msg _ => 0
  | .reply _ => 0
  | .counter _ _ _ => 0
  | .freeze _ _ => 0
  | .unfreeze _ _ => 0
  | .resume _ _ => 0
  | .mmagOffer _ _ _ _ => 0
  | .mmagAnswer _ _ _ _ => 0
  | .mmagStart _ _ _ _ => 0
  | .mmagCredit _ _ _ _ _ _ => 0
  | .mmagStep _ _ _ _ _ _ _ _ => 0
  | .mmagReport _ _ _ _ _ => 0
  | .chainBind _ => 0
  | .chainAnswer _ _ => 0
  | .chainEntry _ _ _ => 0
  | .chainCredit => 0
  | .request _ => 0
  | .answer _ => 0

/-- How many flits a packet has. -/
def Packet.size (p : Packet) : Nat := 1 + p.body.payloadFlits

/-- The link a packet takes next. -/
def Packet.nextLink (p : Packet) : Nat := 4 * p.pos + routePort p.pos p.dst

/-- Whether link `l` crosses a dateline: from x = 31 to x = 0 or back, or from y = 23 to y = 0 or back (R443). -/
def crossesDateline (l : Nat) : Bool :=
  let t := l / 4
  match l % 4 with
  | 0 => tileY t == 0
  | 1 => tileX t == 31
  | 2 => tileY t == 23
  | _ => tileX t == 0

/-- A packet on the link it takes next, with its virtual channel at the far end (R443): it enters on VC0 and moves to
VC1 when it crosses a dateline, and on the turn to y it is on VC0 again. -/
def Packet.onLink (p : Packet) : Packet :=
  let l := p.nextLink
  let x := l % 2 == 1
  let dlx := x && (p.dlx || crossesDateline l)
  let dly := p.dly || (!x && crossesDateline l)
  { p with moving := true, via := some l, dlx := dlx, dly := dly, vc1 := if x then dlx else dly }

/-- The route field of a packet on a link (R440). -/
def Packet.route (p : Packet) : Nat :=
  p.vc1.toNat + p.vn1.toNat * 2 ^ 3 + p.body.payloadFlits * 2 ^ 4 + p.body.gid * 2 ^ 7 + p.dlx.toNat * 2 ^ 19 +
    p.dly.toNat * 2 ^ 20

/-- The header flit's data: the message's 48 bytes and the route field (R210, R440). -/
def Packet.headData (p : Packet) : List Byte :=
  let h := p.body.head
  let h1 : Hdr := { h.1 with dx := BitVec.ofNat 5 (tileX p.dst), dy := BitVec.ofNat 5 (tileY p.dst),
                             ctx := BitVec.ofNat 8 p.ctx }
  ({ hdr := h1, args := h.2 } : Msg).flitBytes ++ leBytes 16 p.route

/-- The flits of a packet, header first; bytes of the last one beyond the payload are 0 (R210). -/
def packetFlits (p : Packet) : List Flit :=
  let n := p.body.payloadFlits
  { pid := p.id, first := true, last := n == 0, data := p.headData } ::
    (List.range n).map fun i =>
      let bs := (p.body.payload.drop (64 * i)).take 64
      { pid := p.id, first := false, last := i + 1 == n, data := bs ++ List.replicate (64 - bs.length) 0 }

/-- Whether two packets are of one stream (R214). -/
def Packet.sameStream (p q : Packet) : Bool := q.src == p.src && q.dst == p.dst && q.vn1 == p.vn1

/-- Whether every access of a release set has been performed. -/
def State.released (s : State) (after : List Nat) : Bool :=
  after.all fun i => !(s.acc.any fun a => a.id == i && a.status == .sent)

/-- Flits that each virtual channel of a torus input port holds (R443). -/
def vcDepth : Nat := 8
/-- Flits that the retry buffer of a link holds (R441). -/
def retryDepth : Nat := 64

/-- Flits in, or on their way to, the buffer of a virtual channel at the far end of link `l`. -/
def State.vcUsed (s : State) (l : Nat) (vn1 vc1 : Bool) : Nat :=
  ((s.net.filter fun p => p.via == some l && p.vn1 == vn1 && p.vc1 == vc1).map (·.size)).sum

/-- Whether a packet may leave its router now: its release is met (R70), no earlier packet of its stream waits there
(R214), there is credit for it in its virtual channel (R443), and room in the link's retry buffer (R441). -/
def State.mayLeave (s : State) (p : Packet) : Bool :=
  let q := p.onLink
  p.pos != p.dst && !p.moving && s.released p.after &&
    ((s.net.takeWhile fun x => x.id != p.id).all fun x => !(p.sameStream x && x.pos == p.pos && !x.moving)) &&
    decide (s.vcUsed p.nextLink q.vn1 q.vc1 + p.size ≤ vcDepth) &&
    decide ((s.link p.nextLink).flits.length + p.size ≤ retryDepth)

/-- A packet that may leave its router handed to its next link. -/
def State.sendOn (s : State) (p : Packet) : State :=
  if s.mayLeave p then
    let q := p.onLink
    ({ s with net := s.net.map fun x => if x.id = p.id then q else x } : State).modLink p.nextLink fun l =>
      { l with flits := l.flits ++ packetFlits q }
  else s

/-- Every packet that waits at a router and may leave it, the oldest first. -/
def State.pump (s : State) : State :=
  s.net.foldl (fun (s : State) p => match s.net.find? fun x => x.id == p.id with
    | some x => s.sendOn x
    | none => s) s

/-- A packet joins the network, and leaves its router if it may. -/
def State.route (s : State) (p : Packet) : State := ({ s with net := s.net ++ [p] } : State).sendOn p

/-- Whether the local port of tile `t` accepts another packet of a network from a strand: none that could go waits
there (R124; how many the port holds is a DESIGN CHOICE, assumption log 87). -/
def State.portTakes (s : State) (t : Nat) (vn1 : Bool) : Bool :=
  s.net.all fun p => !(p.src == t && p.pos == t && p.dst != t && p.vn1 == vn1 && !p.moving && p.via.isNone &&
    !p.body.isGroup && s.released p.after)

/-- A packet injected at the router of tile `src` towards tile `dst` (Post of R10, R214). -/
def State.inject (s : State) (src dst : Nat) (vn1 : Bool) (ctx : Nat) (after : List Nat) (b : Body) :
    State :=
  { s with nextId := s.nextId + 1 }.route
    { id := s.nextId, src := src, dst := dst, pos := src, vn1 := vn1, ctx := ctx, after := after, body := b }

/-- A group packet sent on by the passing stage of tile `t`, with the datelines it has crossed (R286, R443). -/
def State.forward (s : State) (t dst ctx : Nat) (lines : Bool × Bool) (b : Body) : State :=
  { s with nextId := s.nextId + 1 }.route
    { id := s.nextId, src := t, dst := dst, pos := t, ctx := ctx, body := b, dlx := lines.1, dly := lines.2 }

/-- One more source of kernel `c` (R393). -/
def State.source (s : State) (c : Nat) : State := s.modCtx c fun k => { k with src := k.src + 1 }

/-- Accesses a release of the party waits for: those of strand `n` of its present run that are not
yet performed (R70), and those of other strands that it has acquired before they were (R72). -/
def State.releaseSet (s : State) (n : Nat) : List Nat :=
  (s.acc.filter fun a => a.status == .sent &&
    ((a.strand == n && a.run == (s.strand n).run) || (s.strand n).acq.contains a.id)).map (·.id)

/-! ### Special ports (R14) -/

/-- What a special port leads to. -/
inductive SpecialPort where
  | spinel (k : Nat)
  | westDie
  | eastDie
  deriving DecidableEq, Repr

/-- The special port of a tile. -/
def specialPort (t : Nat) : Option SpecialPort :=
  if tileY t = 0 then some (.spinel (tileX t / 4))
  else if tileY t = 23 then some (.spinel (8 + tileX t / 4))
  else if 4 ≤ tileY t ∧ tileY t < 20 then
    if tileX t = 0 then some .westDie else if tileX t = 31 then some .eastDie else none
  else none

/-- The tile by whose special port a tile reaches the Spinel layer of stack `k`. Which of the four it is, like which
of an I/O die's sixteen, follows from the tile (DESIGN CHOICE, assumption log 88). -/
def memPort (t k : Nat) : Nat := (if k < 8 then 4 * k else 736 + 4 * (k - 8)) + tileX t % 4

/-- The tile by whose special port a tile reaches an I/O die. -/
def ioPort (t : Nat) (west : Bool) : Nat := (4 + tileY t % 16) * 32 + if west then 0 else 31

/-! ### Ports of the domain (R447) and what a peer answers -/

/-- State of the link of UALink port `p`. -/
def State.portState (s : State) (p : Nat) : LinkState := (s.link (3072 + p)).st

/-- The port an access takes of a first and a second one; none while neither is usable. -/
def State.choosePort (s : State) (first second : Nat) : Option Nat :=
  if s.portState first = .up then some first
  else if s.portState second = .up then some second
  else if s.portState first = .degraded then some first
  else if s.portState second = .degraded then some second
  else none

/-- The port of a borrowed lease. -/
def State.leasePort (s : State) (i : Nat) : Option Nat :=
  s.choosePort (s.borrower i).port.toNat (s.borrower i).altport.toNat

/-- The tile to which tile `t` sends an access (R64, R442): the tile of a slice, or that of the special port towards a
stack, the host's I/O die, the die of a gateway's buffer, or the die of a lease's port. -/
def State.homeTile (s : State) (t : Nat) : Target → Nat
  | .mem pa _ =>
    match sliceOf pa with
    | some (w, _) => w
    | none => if isHbm pa then memPort t (pa / 65536 % 16) else if isHost pa then ioPort t true
      else portTile ((pa - bufferAddr 0 0) / 0x100000)
  | .lease i _ _ => ioPort t (decide (((s.leasePort i).getD (s.borrower i).port.toNat) < 8))

/-- Bytes that the manual leaves to a party outside the module: free values. -/
def State.freeBytes (s : State) (n : Nat) : State × List Byte :=
  ({ s with nextId := s.nextId + n + 1 },
    (List.range n).map fun i => (Config.freeWord (s.nextId + i)).setWidth 8)

/-- What the lending peer answers to an engine's access to leased memory: a free choice of performed,
revoked, refused and poisoned (R436); without a usable port it is LEASE_REVOKED (R447). -/
def State.peerVerdict (s : State) (i : Nat) : State × Option Cause :=
  if (s.leasePort i).isNone then (s, some .leaseRevoked)
  else
    ({ s with nextId := s.nextId + 1 },
      match Config.freeChoice s.nextId % 4 with
      | 0 => none
      | 1 => some .leaseRevoked
      | 2 => some .pagePermission
      | _ => some .poison)

/-- The lender's address of offset `off` of a borrowed lease (R436). -/
def State.lenderAddr (s : State) (i off : Nat) : Nat := (s.borrower i).lbase.toNat * 0x200000 + off

/-- A request under a borrowed lease sent through a port (R436). -/
def State.sendLease (s : State) (port i off : Nat) (op : PeerOp) : State :=
  let b := s.borrower i
  { s with sent := s.sent ++ [.access port b.peer.toNat b.lidx.toNat (s.lenderAddr i off) op] }

/-- Bytes sent to offset `off` of a borrowed lease. Of an encrypted page whole lines leave, enciphered with the lender's
address in the tweak (R400, R437); what the lender holds around the bytes is not known here: free values. -/
def State.sendBytes (s : State) (port i off : Nat) (key : Option Nat) (bs : List Byte) : State :=
  match key with
  | none => s.sendLease port i off (.write bs)
  | some k =>
    let n := (off % 64 + bs.length + 63) / 64
    let (s, fr) := s.freeBytes (64 * n)
    let plain := fr.take (off % 64) ++ bs ++ fr.drop (off % 64 + bs.length)
    let lines := (List.range n).flatMap fun j =>
      (xtsEncrypt (s.key k) (s.lenderAddr i off / 64 + j) (((plain.drop (64 * j)).take 64).map BitVec.toNat)).map
        (BitVec.ofNat 8)
    s.sendLease port i (off / 64 * 64) (.write lines)

/-- The request for `n` bytes at offset `off` of a borrowed lease: of an encrypted page, for the lines that hold them. -/
def State.askBytes (s : State) (port i off : Nat) (key : Option Nat) (n : Nat) : State :=
  match key with
  | none => s.sendLease port i off (.read n)
  | some _ => s.sendLease port i (off / 64 * 64) (.read ((off % 64 + n + 63) / 64 * 64))

/-- An engine's read of leased memory, and its answer. -/
def State.peerRead (s : State) (i off : Nat) (key : Option Nat) (n : Nat) : State × Option Cause :=
  match s.leasePort i with
  | none => s.peerVerdict i
  | some p => (s.askBytes p i off key n).peerVerdict i

/-- An engine's write to leased memory, and its answer. -/
def State.peerStore (s : State) (i off : Nat) (key : Option Nat) (bs : List Byte) : State × Option Cause :=
  match s.leasePort i with
  | none => s.peerVerdict i
  | some p => (s.sendBytes p i off key bs).peerVerdict i

/-- A write of Agate or of a spill unit to leased memory; none if it is refused. -/
def State.peerWrite (s : State) (i off : Nat) (key : Option Nat) (bs : List Byte) : Option State :=
  match s.peerStore i off key bs with
  | (s, none) => some s
  | (_, some _) => none

/-! ### Rings (R409) -/

/-- An engine write of bytes within one granule at a translated address (R424); none if the page
does not take it. -/
def State.vaWrite (s : State) (c : Nat) (va : Nat) (bs : List Byte) : Option State :=
  match s.xlate c va needW with
  | .ok (.mem pa key) =>
    some { s.writePlain pa key bs with
      poison := s.poison.filter fun u => !(coveredUnits pa bs.length).contains u,
      soft := s.soft.filter fun u => !(coveredUnits pa bs.length).contains u }
  | .ok (.lease i off key) => s.peerWrite i off key bs
  | .poisoned _ => none
  | .absent => none
  | .denied => none
  | .revoked => none

/-- Bytes written from a translated address on, 64 at a time. -/
def State.vaWriteAll (s : State) (c : Nat) : Nat → Nat → List Byte → Option State
  | 0, _, _ => some s
  | fuel + 1, va, bs =>
    if bs.isEmpty then some s
    else
      match s.vaWrite c va (bs.take 64) with
      | some s' => State.vaWriteAll s' c fuel (va + 64) (bs.drop 64)
      | none => none

/-- An engine read of `n` bytes within one granule at a translated address; none if the page is
absent, not readable or poisoned. What leased memory holds is not known here: free values. -/
def State.vaRead (s : State) (c va n : Nat) : Option (List Byte) :=
  match s.xlate c va needR with
  | .ok (.mem pa key) => if s.poisoned pa n then none else some (s.readPlain pa key n)
  | .ok (.lease _ _ _) => some (s.freeBytes n).2
  | .poisoned _ => none
  | .absent => none
  | .denied => none
  | .revoked => none

/-- Bytes read from a translated address on, 64-byte line by line. -/
def State.vaReadAll (s : State) (c : Nat) : Nat → Nat → Nat → Option (List Byte)
  | 0, _, _ => some []
  | fuel + 1, va, n =>
    if n = 0 then some []
    else
      let k := min n (64 - va % 64)
      match s.vaRead c va k, State.vaReadAll s c fuel (va + k) (n - k) with
      | some a, some b => some (a ++ b)
      | _, _ => none

/-- The three rings of a context. -/
inductive Ring where
  | fault | undeliverable | event
  deriving DecidableEq, Repr

/-- Base register, HEAD, TAIL and record size of a ring. -/
def Ctx.ring (k : Ctx) : Ring → Word × BitVec 32 × BitVec 32 × Nat
  | .fault => (k.frbase, k.frhead, k.frtail, 128)
  | .undeliverable => (k.udbase, k.udhead, k.udtail, 384)
  | .event => (k.evbase, k.evhead, k.evtail, 64)

/-- A record counted as written. -/
def Ctx.ringCount (k : Ctx) : Ring → Ctx
  | .fault => { k with frtail := k.frtail + 1 }
  | .undeliverable => { k with udtail := k.udtail + 1 }
  | .event => { k with evtail := k.evtail + 1 }

/-- A record counted as lost. -/
def Ctx.ringLose (k : Ctx) : Ring → Ctx
  | .fault => { k with frlost := k.frlost + 1 }
  | .undeliverable => { k with udlost := k.udlost + 1 }
  | .event => { k with evlost := k.evlost + 1 }

/-- Address of record `n` of a ring. -/
def ringAddr (base : Word) (n : BitVec 32) (size : Nat) : Nat :=
  base.toNat / 4096 % 0x1000000000 * 4096 + n.toNat % 2 ^ (base.toNat % 32) * size

/-- A record written to a ring of context `c`; false if it was lost (R409). -/
def State.ringPut (s : State) (c : Nat) (r : Ring) (bs : List Byte) : State × Bool :=
  let (base, head, tail, size) := (s.ctx c).ring r
  if (tail - head).toNat = 2 ^ (base.toNat % 32) then (s.modCtx c fun k => k.ringLose r, false)
  else
    match s.vaWriteAll c 8 (ringAddr base tail size) (bs ++ List.replicate (size - bs.length) 0) with
    | some s' =>
      let s' := s'.modCtx c fun k => k.ringCount r
      -- the event ring going from empty to non-empty sends VEC
      (if r = .event ∧ tail = head then { s' with msix := s'.msix ++ [(s'.ctx c).vec] } else s', true)
    | none => (s.modCtx c fun k => k.ringLose r, false)

/-- Word 1 of fault and event records (R410). -/
def State.recordWord1 (s : State) (c job tile strand : Nat) : Nat :=
  let k := s.ctx c
  strand % 2 ^ 15 + tile % 2 ^ 10 * 2 ^ 20 + k.x0.toNat * 2 ^ 30 + k.y0.toNat * 2 ^ 35 +
    k.w1k.toNat * 2 ^ 40 + k.h1.toNat * 2 ^ 45 + job % 16 * 2 ^ 50

/-- Event(NAME): an event record of context `c` (R10, R413). -/
def State.event (s : State) (c : Nat) (code : Cause) (sub tile strand : Nat) (d0 d1 : Word) : State :=
  (s.ringPut c .event
    (leBytes 8 (code.code.toNat + sub % 256 * 256 + s.time.toNat % 2 ^ 32 * 2 ^ 32) ++
     leBytes 8 (s.recordWord1 c 0 tile strand) ++ leBytes 8 d0.toNat ++ leBytes 8 d1.toNat)).1

/-- A condition of R412: FLT becomes 1, and VEC is sent if it was 0 (R398). -/
def State.setFlt (s : State) (c : Nat) : State :=
  if (s.ctx c).st = .free ∨ (s.ctx c).flt = true then s
  else
    let s := s.modCtx c fun k => { k with flt := true }
    { s with msix := s.msix ++ [(s.ctx c).vec] }

/-- SEQ of a posting unit of a tile, and the state with it counted (R215). Unit 0 is the router, which posts router
replies, fault posts and multicast replies (DESIGN CHOICE, assumption log 79). -/
def State.unitSeq (s : State) (t unit : Nat) : BitVec 16 × State :=
  let q := (s.tile t).seqs.get 0 unit
  (q, s.modTile t fun x => { x with seqs := x.seqs.set unit (q + 1) })

/-- A message posted by a unit of tile `t`: it is injected at that tile's router (R10, R218).
A row that names no tile is found later by the router itself (R235 reason 2). -/
def State.postMsg (s : State) (t unit : Nat) (after : List Nat) (m : Msg) : State :=
  let (q, s) := s.unitSeq t unit
  let m := { m with hdr := { m.hdr with seq := q } }
  let dst := (m.hdr.destTile).getD t
  (s.source m.hdr.ctx.toNat).inject t dst false m.hdr.ctx.toNat after (.msg m)

/-- The flags of a fault record's word 0 (R410). -/
structure FaultFlags where
  spill : Bool := false
  fabric : Bool := false
  job : Bool := false
  defer : Bool := false
  deriving DecidableEq, Repr

/-- A fault record with everything R410 names; `found` is TIME at detection where that lies before the write. -/
structure FaultRecord where
  flags : FaultFlags := {}
  cause : BitVec 8 := 0
  job : Nat := 0
  tile : Nat := 0
  strand : Nat := 0
  epc : Word := 0
  badva : Word := 0
  hidx : BitVec 12 := 0
  image : Word := 0
  lost : List Byte := []
  found : Option Word := none
  deriving DecidableEq, Repr

/-- Word 0 of a fault record. -/
def FaultRecord.word0 (f : FaultRecord) (time : Word) : Nat :=
  f.cause.toNat + f.flags.defer.toNat * 2 ^ 8 + f.flags.job.toNat * 2 ^ 9 +
    f.flags.fabric.toNat * 2 ^ 10 + f.flags.spill.toNat * 2 ^ 11 + time.toNat % 2 ^ 32 * 2 ^ 32

/-- The fault post of R411, after record `n` has been written. -/
def State.faultPost (s : State) (c : Nat) (f : FaultRecord) (n : BitVec 32) (w0 w1 : Nat) : State :=
  let k := s.ctx c
  if k.flt then s
  else if !k.delivers then s.setFlt c
  else
    let dw : Word := BitVec.ofNat 64 (k.fcore.toNat % 1024 + 1024 + k.fcore.toNat / 1024 % 8 * 2 ^ 11
      + 2 ^ 16 + 0xFFF * 2 ^ 17)
    let h : Hdr := { posted := true, fpost := true, ctx := BitVec.ofNat 8 c }
    let h := (h.withDest dw k.x0.toNat k.y0.toNat).withSource f.tile 0 0
    s.postMsg f.tile 0 []
      { hdr := h,
        args := [n.setWidth 64, BitVec.ofNat 64 w0, BitVec.ofNat 64 w1, f.image] }

/-- A fault record written to context `c` and its post (R410 to R412). -/
def State.faultRecord (s : State) (c : Nat) (f : FaultRecord) : State :=
  let n := (s.ctx c).frtail
  let w0 := f.word0 (f.found.getD s.time)
  let w1 := s.recordWord1 c f.job f.tile f.strand
  let bs := leBytes 8 w0 ++ leBytes 8 w1 ++ leBytes 8 f.epc.toNat ++ leBytes 8 f.badva.toNat ++
    leBytes 8 f.hidx.toNat ++ leBytes 8 f.image.toNat ++ List.replicate 16 0 ++ f.lost
  match s.ringPut c .fault bs with
  | (s, true) => s.faultPost c f n w0 w1
  | (s, false) => s.setFlt c

/-! ### Replies and undeliverable messages (R217, R234 to R236) -/

/-- A reply packet to the request with header `h`, answered from tile `t` (R228). -/
def State.sendReply (s : State) (t unit : Nat) (h : Hdr) (ud nr : Bool) (args : List Word) : State :=
  let (q, s) := s.unitSeq t unit
  let r : Hdr :=
    { kind := 1, hidx := h.rhidx, rslot := h.rslot, ctx := h.ctx, dx := h.sx, dy := h.sy,
      dcore := h.score, ud := ud, nr := nr, seq := q, rhidx := 0 }
  (s.source h.ctx.toNat).inject t h.srcTile true h.ctx.toNat []
    (.reply { hdr := r.withSource t 0 0, args := args })

/-- Zero arguments. -/
def zeroArgs : List Word := [0, 0, 0, 0]

/-- The record word of an undeliverable message (R234). -/
def udWord (time : Word) (t reason : Nat) (long : Bool) : Nat :=
  1 + long.toNat * 2 + reason * 2 ^ 8 + t * 2 ^ 22 + time.toNat % 2 ^ 32 * 2 ^ 32

/-- A message found undeliverable at tile `t`: record, event HANDLER_ABSENT, and the answer a request
is owed (R217, R236). The event is raised whether or not the ring takes the record (DESIGN CHOICE, assumption
log 80). -/
def State.undeliverable (s : State) (t reason : Nat) (m : Msg) : State :=
  let c := m.hdr.ctx.toNat
  let bs := leBytes 8 (udWord s.time t reason (m.hdr.lclass != 0)) ++ List.replicate 56 0 ++
    m.flitBytes ++ List.replicate 16 0 ++ m.payload
  let s := (s.ringPut c .undeliverable bs).1
  let s := s.event c .handlerAbsent reason t 0 0 0
  if m.hdr.re then s.sendReply t 0 m.hdr true false zeroArgs
  else if m.hdr.fpost then s.setFlt c
  else s

/-- A message sent by strand or unit of tile `t`, with its SEQ already set: a row that names no tile is
undeliverable at the sending router (R235 reason 2). -/
def State.sendMsg (s : State) (t : Nat) (after : List Nat) (m : Msg) : State :=
  match m.hdr.destTile with
  | some d => (s.source m.hdr.ctx.toNat).inject t d false m.hdr.ctx.toNat after (.msg m)
  | none => s.undeliverable t 2 m

/-- A message posted by a unit, checked as `sendMsg` checks it. -/
def State.post (s : State) (t unit : Nat) (after : List Nat) (m : Msg) : State :=
  let (q, s) := s.unitSeq t unit
  s.sendMsg t after { m with hdr := { m.hdr with seq := q } }

/-! ### Acknowledged multicasts (R290) -/

/-- The four argument words that 256 bits make. -/
def argWords (v : Nat) : List Word := (List.range 4).map fun i => BitVec.ofNat 64 (v / 2 ^ (64 * i))

/-- The outcome bits of a multicast's members. -/
def MCast.outcome (m : MCast) : Nat :=
  (m.members.map fun x =>
    let c := x.code.getD 0
    if m.domain then c % 4 * 4 ^ x.idx else if c = 0 then 0 else 2 ^ x.idx).sum

/-- The outcome of one member; the first one counts. -/
def State.memberCode (s : State) (id idx code : Nat) : State :=
  { s with mcasts := s.mcasts.map fun m =>
    if m.id = id then
      { m with members := m.members.map fun x =>
          if x.idx = idx ∧ x.code.isNone then { x with code := some code } else x }
    else m }

/-- A multicast whose members all have an outcome is over; one with RE = 1 is answered. -/
def State.mcastFinish (s : State) (id : Nat) : State :=
  match s.mcasts.find? fun m => m.id == id with
  | none => s
  | some m =>
    if m.admitted && m.members.all fun x => x.code.isSome then
      let s := { s with mcasts := s.mcasts.filter fun x => x.id != id }
      if m.hdr.re then s.sendReply m.tile 0 m.hdr false false (argWords m.outcome) else s
    else s

/-- A multicast that was not admitted: it is over, and one with RE = 1 is answered with UD = 1. -/
def State.mcastRefused (s : State) (id : Nat) (v : Nat) : State :=
  match s.mcasts.find? fun m => m.id == id with
  | none => s
  | some m =>
    let s := { s with mcasts := s.mcasts.filter fun x => x.id != id }
    if m.hdr.re then s.sendReply m.tile 0 m.hdr true false (argWords v) else s

/-! ### Watches (R230, R231) -/

/-- A comparison in the codes of ARMW, the left operand first (R230). -/
def armCond (c : Nat) (x y : Word) : Bool :=
  match c with
  | 0 => x == y
  | 1 => x != y
  | 2 => x.slt y
  | 3 => !x.slt y
  | 4 => x.ult y
  | _ => !x.ult y

/-- The bound message of a watch of tile `t` (R231); its SCORE and SSTR are 0 (DESIGN CHOICE, assumption log 78). -/
def State.watchMsg (s : State) (t : Nat) (w : Watch) : Msg :=
  let (x0, y0) := s.offsetOf w.ctx
  let h : Hdr := { posted := true, ctx := BitVec.ofNat 8 w.ctx }
  { hdr := (h.withDest w.dest x0 y0).withSource t 0 0, args := w.args }

/-- Whether a watch of tile `t` is satisfied by the word it watches. -/
def State.watchHolds (s : State) (t : Nat) (w : Watch) : Bool :=
  armCond w.cond.toNat (BitVec.ofNat 64 (s.word64 (sliceAddr t w.off))) w.cmp

/-- The post of a satisfied watch of tile `t`; one satisfied while its kernel is DRAINING is discarded (R231,
R394). -/
def State.postWatch1 (s : State) (t : Nat) (w : Watch) : State :=
  if s.pastDrain w.ctx then s else s.post t 1 [] (s.watchMsg t w)

/-- The watches on the words that `n` bytes from offset `off` of tile `t` touch, evaluated after a
write (WATCH_POST of R231). -/
def State.evalWatches (s : State) (t off n : Nat) : State :=
  let hit := fun (w : Watch) => decide (w.off < off + n ∧ off < w.off + 8) && s.watchHolds t w
  let ws := (s.tile t).watches
  let s' := s.modTile t fun x => { x with watches := ws.filter fun w => !hit w }
  (ws.filter hit).foldl (fun s w => s.postWatch1 t w) s'

/-! ### Reads and writes at their home (R64, R83, R163) -/

/-- Corrected soft errors in a range are corrected and reported (R83, SOFT_CORRECTED). -/
def State.correct (s : State) (c pa n : Nat) : State :=
  let hit := (unitsOf pa n).filter s.soft.contains
  if hit.isEmpty then s
  else
    let t := match sliceOf pa with | some (t, _) => t | none => 0
    hit.foldl (fun s u => s.event c .softCorrected 0 t 0 (BitVec.ofNat 64 u) 0)
      { s with soft := s.soft.filter fun u => !hit.contains u }

/-- Corrected soft errors corrected in `n` bytes that an engine reads from a translated address on (R83). -/
def State.vaCorrect (s : State) (c : Nat) : Nat → Nat → Nat → State
  | 0, _, _ => s
  | fuel + 1, va, n =>
    if n = 0 then s
    else
      let k := min n (65536 - va % 65536)
      let s := match s.xlate c va needR with
        | .ok (.mem pa _) => s.correct c pa k
        | .ok (.lease _ _ _) => s
        | .poisoned _ => s
        | .absent => s
        | .denied => s
        | .revoked => s
      State.vaCorrect s c fuel (va + k) (n - k)

/-- Corrected soft errors corrected in `n` bytes that are read at a kept translation (R83, R406). -/
def State.targetCorrect (s : State) (c : Nat) (t : Target) (off n : Nat) : State :=
  match t with
  | .mem pa _ => s.correct c (pa + off) n
  | .lease _ _ _ => s

/-- Bytes stored at a place: whole units are freshly written, and the watches of a slice see the
write (R163, R231). -/
def State.storeAt (s : State) (pa : Nat) (key : Option Nat) (bs : List Byte) : State :=
  let s := { s.writePlain pa key bs with
    poison := s.poison.filter fun u => !(coveredUnits pa bs.length).contains u,
    soft := s.soft.filter fun u => !(coveredUnits pa bs.length).contains u }
  match sliceOf pa with
  | some (t, off) => s.evalWatches t off bs.length
  | none => s

/-- Units of a range marked as poisoned (R311). -/
def State.poisonUnits (s : State) (us : List Nat) : State :=
  { s with poison := us ++ s.poison.filter fun u => !us.contains u }

end Sys2Proof.Machine
end

