-- ==== Sys2Proof/Machine/Operands.lean ====
section
/-! DEFINITION. What every strand instruction shares: the checks at issue, the stall on a pending
operand, the move to the next instruction, the check of the stack pointer, and the operand forms
(R88, R110, R124, R125, R149, R156, R171, R172, R419, R451). -/

namespace Sys2Proof.Machine

/-- The registers an instruction reads or writes: general registers with every register of a run,
and vector registers with every register of a run (R88, R124). -/
structure Uses where
  g : List Nat := []
  w : List Nat := []
  deriving DecidableEq, Repr

/-- What an instruction comes to once it is considered for issue. -/
inductive Res where
  /-- issued; the next instruction is the one in sequence -/
  | go (s : State)
  /-- issued, and it wrote LC: the loop-back does not change LC any more -/
  | goLc (s : State)
  /-- issued; control is transferred to the target -/
  | jump (s : State) (target : BitVec 48)
  /-- issued, and followed by a fault at the next instruction (R419) -/
  | stop (s : State) (c : Cause) (badva : Word)
  /-- issued, and the strand has ended -/
  | ended (s : State)
  /-- held at issue -/
  | hold (c : StallCause)
  /-- held at issue, after something of it has begun -/
  | wait (s : State) (c : StallCause)
  /-- a fault at issue -/
  | trap (c : Cause) (badva : Word)
  /-- a fault at issue whose BADVA the manual does not state: a free value -/
  | trapOpen (c : Cause)
  /-- a fault at the instruction after its access has been performed (R172) -/
  | trapIn (s : State) (c : Cause) (badva : Word)

/-- The three outcomes of a step with this model's types. -/
abbrev Out := Host.Outcome State Fault Refusal

/-- The strand that issues. -/
def State.me (s : State) : Strand := s.strand s.cur
/-- The state with the issuing strand changed. -/
def State.modMe (s : State) (f : Strand → Strand) : State := s.modStrand s.cur f
/-- Its context. -/
def State.myCtx (s : State) : Nat := s.ctxOf s.cur
/-- Its tile, for a gateway strand its port tile. -/
def State.myTile (s : State) : Nat := tileOf s.cur
/-- Its core. -/
def State.myCore (s : State) : Nat := coreOf s.cur

/-- The numbers of `n` registers from `r` on (R88). -/
def run (r n : Nat) : List Nat := (List.range n).map (r + ·)

/-- The words of a run of registers. -/
def readRun (st : Strand) (r n : Nat) : List Word :=
  (run r n).map fun k => if k = 0 then 0 else st.g.toList.getD k 0

/-- Whether a pending result stops an instruction with these registers: it is a register the
instruction reads or writes (R124). -/
def Pend.blocks (p : Pend) (u : Uses) : Bool :=
  (match p.g with
    | some r => r != 0 && u.g.contains r.val
    | none => false) ||
  (match p.w with
    | some r => u.w.any fun k => decide (r.val ≤ k ∧ k < r.val + p.wn)
    | none => false)

/-- Whether every general register lies within the budget and no run passes g31 (R88). -/
def Uses.inBudget (u : Uses) (st : Strand) : Bool := u.g.all fun k => decide (k < budget st.code)

/-- Whether a strand takes part in issue. -/
def Phase.issues : Phase → Bool
  | .running => true
  | .stalled _ => true
  | .idle => false
  | .faulted => false
  | .savedFault _ => false
  | .savedPre => false

/-- Whether the loop-back of R156 applies at the instruction at the program counter. -/
def Strand.atLoopEnd (st : Strand) : Bool := st.lc != 0 && pcWord st == st.le

/-- The address after an instruction that transfers no control (R156). -/
def Strand.nextPc (st : Strand) : BitVec 48 :=
  if st.atLoopEnd && st.lc - 1 != 0 then st.ls.setWidth 48 else st.pc + 4

/-- The strand `st` moved on from the instruction it issued as `old` (R156). -/
def Strand.advance (st old : Strand) (target : Option (BitVec 48)) (keepLc : Bool) : Strand :=
  let pc := target.getD old.nextPc
  { st with
    pc := pc,
    lc := if target.isNone && old.atLoopEnd && !keepLc then old.lc - 1 else st.lc,
    epc := if st.phase = .faulted then pc.setWidth 64 else st.epc,
    phase := if st.phase = .faulted then .faulted else .running,
    fetched := none, landing := [] }

/-- The state after an instruction of strand `n` has issued; with STEP set before and after it, a
BREAKPOINT follows (R419). -/
def State.advance (s : State) (n : Nat) (old : Strand) (target : Option (BitVec 48)) (keepLc : Bool) :
    State :=
  let s := s.modStrand n fun st => st.advance old target keepLc
  let st := s.strand n
  if old.stepMode && st.stepMode && st.phase == .running then s.raiseAtIssue n .breakpoint 0x1000
  else s

/-- The state with strand `n` held at issue. -/
def State.holdAt (s : State) (n : Nat) (c : StallCause) : State :=
  s.modStrand n fun st => { st with phase := .stalled c }

/-- What becomes of the state after an instruction of strand `s.cur` has been considered. -/
def State.finish (s : State) : Res → State
  | .go s' => s'.advance s.cur s.me none false
  | .goLc s' => s'.advance s.cur s.me none true
  | .jump s' t => s'.advance s.cur s.me (some t) false
  | .stop s' c b =>
    (s'.modStrand s.cur fun st => st.advance s.me none false).raiseAtIssue s.cur c b
  | .ended s' => s'
  | .hold c => s.holdAt s.cur c
  | .wait s' c => if (s'.strand s.cur).phase = .faulted then s' else s'.holdAt s.cur c
  | .trap c b => s.raiseAtIssue s.cur c b
  | .trapOpen c => { s with nextId := s.nextId + 1 }.raiseAtIssue s.cur c (Config.freeWord s.nextId)
  | .trapIn s' c b => s'.raiseAtIssue s.cur c b

/-- The instruction word, as BADVA of ILLEGAL_INSTRUCTION holds it (R111). -/
def wordOf (i : Instr) : Word := BitVec.ofNat 64 (encode i)

/-- Whether nothing of the strand issues now: a result for sp, or one that may acquire, is still pending
(R71, R172). -/
def Strand.barred (st : Strand) : Bool := st.pend.any fun p => p.acq || p.g == some 2

/-- An instruction of strand `s.cur` considered for issue: a pending operand, a pending sp or a pending acquire
holds it, a register beyond the budget is ILLEGAL_INSTRUCTION, and otherwise it comes to what `body` says
(R88, R110, R124, R172). A strand that takes no part in issue issues nothing. -/
def State.issue (s : State) (i : Instr) (u : Uses) (body : State → Res) : State :=
  if !s.me.phase.issues then s
  else if s.me.barred then s.holdAt s.cur .operand
  else if !u.inBudget s.me then s.raiseAtIssue s.cur .illegalInstruction (wordOf i)
  else if s.me.pend.any fun p => p.blocks u then s.holdAt s.cur .operand
  else s.finish (body s)

/-- When `issue` reaches the instruction's own entry. -/
def State.canIssue (s : State) (u : Uses) : Bool :=
  s.me.phase.issues && u.inBudget s.me && !s.me.barred && !(s.me.pend.any fun p => p.blocks u)

/-- An instruction that gateway cores do not have (R451). -/
def tileOnly (i : Instr) (body : State → Res) (s : State) : Res :=
  if isGateway s.cur then .trap .illegalInstruction (wordOf i) else body s

/-- A form with RE = 1, which gateway cores do not have (R451). -/
def noReply (re : Bool) (body : State → Res) (s : State) : Res :=
  if re && isGateway s.cur then .trapOpen .illegalCombination else body s

/-! ### Results in general registers (R171) -/

/-- Whether a value must not be written to a register: it is sp and the value is below SLIM. -/
def Strand.spBad (st : Strand) (d : GReg) (v : Word) : Bool := d == 2 && v.ult st.slim

/-- A result written to a general register, after the check of the stack pointer. -/
def State.putG (s : State) (d : GReg) (v : Word) : Res :=
  if s.me.spBad d v then .trap .stackLimit v else .go (s.modMe fun st => writeG st d v)

/-- The same, for an instruction that has changed the state to `s'` beside its result: a
STACK_LIMIT leaves the state unchanged. -/
def State.putGAnd (s s' : State) (d : GReg) (v : Word) : Res :=
  if s.me.spBad d v then .trap .stackLimit v else .go (s'.modMe fun st => writeG st d v)

/-! ### Operand forms -/

/-- `Sext(x, n)` of a field, to 64 bits. -/
def sx {n : Nat} (x : BitVec n) : Word := x.signExtend 64
/-- `Zext(x, n)` of a field, to 64 bits. -/
def zx {n : Nat} (x : BitVec n) : Word := x.setWidth 64
/-- The low `n` bits of a word, sign-extended to 64 bits. -/
def sextW (n : Nat) (v : Nat) : Word := BitVec.ofInt 64 (sextNat n (v % 2 ^ n))
/-- A bit as a word. -/
def bitWord (b : Bool) : Word := if b then 1 else 0
/-- Target of a branch with a word offset, modulo 2^48 (R98, R149). -/
def branchTo {n : Nat} (st : Strand) (o : BitVec n) : BitVec 48 := st.pc + (o.signExtend 48 <<< 2)

/-! ### Fetch (R150) -/

/-- What a fetch finds. -/
inductive Fetched where
  | bad (c : Cause) (badva : Word)
  | word (w : Nat)
  | far (t : Target)
  deriving DecidableEq, Repr

/-- The fetch at the program counter of strand `n`, with the checks of R150. A revoked lease, a POISONED page and a
word with an uncorrectable error have no row there: they are LEASE_REVOKED and POISON at the fetch address (DEDUCED
from R83 and R431, assumption log 83). -/
def State.fetch (s : State) (n : Nat) : Fetched :=
  let st := s.strand n
  let va := st.pc.toNat
  let a := pcWord st
  if (windowOf va).isSome || (aliasOf va).isSome then .bad .pagePermission a
  else
    match r58 va with
    | some c => .bad c a
    | none =>
      match s.xlate (s.ctxOf n) va { x := true } with
      | .absent => .bad .pageAbsent a
      | .denied => .bad .pagePermission a
      | .revoked => .bad .leaseRevoked a
      | .poisoned _ => .bad .poison a
      | .ok (.mem pa key) =>
        if s.poisoned pa 4 then .bad .poison a else .word (leNat (s.readPlain pa key 4))
      | .ok (.lease i off key) =>
        match st.fetched with
        | some (pc, w) => if pc = st.pc then .word w.toNat else .far (.lease i off key)
        | none => .far (.lease i off key)

end Sys2Proof.Machine
end

