-- ==== Sys2Proof/Machine/Fault.lean ====
section
/-! DEFINITION. Capture and return of strands: records of faults, images in the save area, RESUME,
discard, and faults that arrive after issue (R121, R129, R130, R217, R401 to R412, R420). -/

namespace Sys2Proof.Machine

/-! ### Packets of a strand (R214, R215) -/

/-- The header of a packet that strand `n` sends: source fields and SEQ (R211, R451). -/
def State.strandHdr (s : State) (n : Nat) (h : Hdr) : Hdr :=
  let core := if isGateway n then 0 else coreOf n % 8
  { h.withSource (tileOf n) core (slotOf n) with
    ctx := BitVec.ofNat 8 (s.ctxOf n), seq := (s.strand n).seq }

/-- One more packet sent by strand `n`. -/
def State.countSent (s : State) (n : Nat) : State := s.modStrand n fun st => { st with seq := st.seq + 1 }

/-- A handler message sent by strand `n`, released after the accesses `after`. -/
def State.strandSend (s : State) (n : Nat) (after : List Nat) (m : Msg) : State :=
  (s.countSent n).sendMsg (tileOf n) after { m with hdr := s.strandHdr n m.hdr }

/-- The reply of strand `n` to its triggering message (R217, R228, R229). -/
def State.strandReply (s : State) (n : Nat) (nr : Bool) (args : List Word) : State :=
  let q := (s.strand n).msg.hdr
  let h : Hdr :=
    { kind := 1, hidx := q.rhidx, rslot := q.rslot, dx := q.sx, dy := q.sy, dcore := q.score, nr := nr }
  let h := { s.strandHdr n h with ctx := q.ctx }
  ((s.countSent n).source q.ctx.toNat).inject (tileOf n) q.srcTile true q.ctx.toNat []
    (.reply { hdr := h, args := args })

/-! ### Ending a strand (R121, R217, R223, R229) -/

/-- The strand IDLE, its blocks returned. What is not a register of the next run is kept. -/
def Strand.idled (st : Strand) : Strand :=
  { st with phase := .idle, pool := none, owed := false, replied := false, inl := 0,
            pend := [], faults := [], hasImage := false, resumeWait := false, acq := [], fetched := none, landing := [] }

/-- A pool slot of a core freed. -/
def Core.freePool (c : Core) : Option Nat → Core
  | some k => { c with pool := c.pool.filter (· != k) }
  | none => c

/-! ### Images in memory (R130, R407, R408) -/

/-- The first byte of the STATE word of the saved image of strand `n`, changed. -/
def State.imageState (s : State) (n : Nat) (f : Nat → Nat) : State :=
  match s.savedImage n with
  | some t =>
    let b := leNat (s.readTarget t 1296 1)
    s.writeTarget t 1296 (leBytes 1 (f b))
  | none => s

/-- SST of the saved image set. -/
def State.imageSst (s : State) (n sst : Nat) : State := s.imageState n fun b => b / 8 * 8 + sst

/-- PEND of the saved image made to agree with the strand. -/
def State.imagePend (s : State) (n : Nat) : State :=
  let p := (!(s.strand n).pend.isEmpty).toNat
  s.imageState n fun b => b / 16 * 16 + p * 8 + b % 8

/-- The image of strand `n` written to its core record with SST `sst`; without a page that takes it
there is no image. -/
def State.saveImage (s : State) (n sst : Nat) (base : Option Target) (baseVa : Nat) : State :=
  match base with
  | some (.mem pa key) =>
    let st := s.strand n
    let t : Target := .mem (pa + 2048 * slotOf n) key
    let iva : Word := BitVec.ofNat 64 (baseVa + 2048 * slotOf n)
    (s.modStrand n fun x => { x with hasImage := true, imageVa := iva }).writeTarget t 0
      (st.imageBytes sst st.msg.hdr.bits)
  | some (.lease _ _ _) => s.modStrand n fun st => { st with hasImage := false, imageVa := 0 }
  | none => s.modStrand n fun st => { st with hasImage := false, imageVa := 0 }

/-- A SAVED strand reloaded from its image, with the header of its message. -/
def State.loadFrom (s : State) (n : Nat) (f : Strand → List Byte → Strand) : State :=
  match s.savedImage n with
  | some t =>
    let bs := s.readTarget t 0 2048
    let s := s.targetCorrect ((s.holder (tileOf n)).getD 0) t 0 2048
    s.modStrand n fun st =>
      let x := f st bs
      { x with msg := { x.msg with hdr := Hdr.ofBits (fieldAt bs 1456 16) } }
  | none =>
    s.modStrand n fun st => f st (st.imageBytes 3 st.msg.hdr.bits)

/-- Register blocks a strand's budget takes (R86). -/
def blocksOf (st : Strand) : Nat := st.code.toNat + 1

/-- Whether a strand holds register blocks (R86, R120). -/
def Strand.holdsBlocks (st : Strand) : Bool := st.phase != .idle && st.phase != .savedPre

/-- Blocks still held for runs that have ended while a request of theirs is queued (R202). -/
def State.lingering (s : State) (core : Nat) : Nat :=
  let q := (s.core core).sfq.filter fun e =>
    (s.strand e.strand).run != e.run || (s.strand e.strand).phase == .idle
  (((q.map fun e => (e.strand, e.run, e.code.toNat + 1)).eraseDups).map fun x => x.2.2).sum

/-- Free register blocks of a core (R86, R202). -/
def State.freeBlocks (s : State) (core : Nat) : Nat :=
  12 - (((List.range 4).map fun k =>
    let st := s.strand (4 * core + k)
    if st.holdsBlocks then blocksOf st else 0).sum + s.lingering core)

/-- The image of a strand loaded when its core resumes (R403). -/
def Strand.regained (st : Strand) (bs : List Byte) : Strand :=
  let x := st.loadImage bs
  { x with rsmd := x.rsmd || fieldAt bs 1296 1 % 8 == 3, phase := .running, credit := 64, faults := [],
           hasImage := false }

/-- Strands of a resumed core that wait for blocks or for their image return to RUNNING, in order of
strand slot (R86, R130, R403). -/
def State.regain (s : State) (core : Nat) : State :=
  if (s.core core).frozen then s
  else
    ((List.range 4).foldl (fun (acc : State × Nat × Bool) k =>
      let (s, free, stop) := acc
      let n := 4 * core + k
      let st := s.strand n
      if st.phase ≠ .savedPre ∨ stop then (s, free, stop)
      else if free < blocksOf st then (s, free, true)
      else if st.pend.isEmpty then (s.loadFrom n Strand.regained, free - blocksOf st, false)
      else (s, free - blocksOf st, false)) (s, s.freeBlocks core, false)).1

/-- A strand that waits for its image reloaded once the image holds every pending result (R130, R403,
R420). -/
def State.tryResume (s : State) (n : Nat) : State :=
  let st := s.strand n
  if st.resumeWait && st.pend.isEmpty then s.loadFrom n Strand.resumed
  else if st.phase = .savedPre then s.regain (coreOf n)
  else s

/-- Strand `n` ended or discarded: the NR reply it owes, its pool slot, IDLE. -/
def State.release (s : State) (n : Nat) : State :=
  let st := s.strand n
  let s := if st.owed && !st.replied then s.strandReply n true zeroArgs else s
  ((s.modCore (coreOf n) fun c => c.freePool st.pool).modStrand n Strand.idled).regain (coreOf n)

/-! ### Records (R129, R410 to R412) -/

/-- The fault record of a strand fault written and posted. -/
def State.strandRecord (s : State) (n : Nat) (hidx : BitVec 12) (image : Word) (f : FaultRec) : State :=
  s.faultRecord (s.ctxOf n)
    { flags := { defer := f.deferred }, cause := f.cause.code, tile := tileOf n, strand := n,
      epc := f.epc, badva := f.badva, hidx := hidx, image := image, found := some f.time }

/-- Capture of a FAULTED strand completes: the image is written, then a record for every fault found
(R121, R129). -/
def State.capture (s : State) (n : Nat) : State :=
  let st := s.strand n
  let c := s.ctxOf n
  let va := if isGateway n then 0 else (s.ctx c).coreRecord (coreOf n)
  let t := if isGateway n then none else s.saveTarget c va
  let s := s.modStrand n fun st => { st with phase := .savedFault .none, faults := [] }
  let s := s.saveImage n 2 t va
  let image := (s.strand n).imageVa
  let s := if st.hidx = 0xFFF then s.setFlt c else s
  st.faults.foldl (fun s f => s.strandRecord n st.hidx image f) s

/-- The record of a fault of a strand whose capture is over or whose run has ended, written at once; FLT is set where
the handler is 0xFFF (R129, R412). -/
def State.recordLate (s : State) (n : Nat) (hidx : BitVec 12) (image : Word) (f : FaultRec) : State :=
  (if hidx = 0xFFF then s.setFlt (s.ctxOf n) else s).strandRecord n hidx image f

/-- A fault found after issue (R129, R163, R172). `hidx` is the handler of the access. A strand that
has been saved is recorded at once; one saved by pre-emption is then SAVED after a fault. -/
def State.raiseLate (s : State) (n run : Nat) (hidx : BitVec 12) (f : FaultRec) : State :=
  let st := s.strand n
  let f := { f with time := s.time }
  if st.run ≠ run then s.recordLate n hidx 0 f
  else
    match st.phase with
    | .running => s.raise n f
    | .stalled _ => s.raise n f
    | .faulted => s.raise n f
    | .idle => s.recordLate n hidx 0 f
    | .savedFault _ => s.recordLate n hidx st.imageVa f
    | .savedPre =>
      let x := st.fault f
      let s := s.modStrand n fun _ => { x with phase := .savedFault .none, faults := [] }
      let s := (s.imageSst n 2).imageField n 1304
        (leBytes 8 x.epc.toNat ++ leBytes 8 x.cause.toNat ++ leBytes 8 x.badva.toNat)
      s.recordLate n st.hidx st.imageVa f

end Sys2Proof.Machine
end

