-- ==== Sys2Proof/Machine/Access.lean ====
section
/-! DEFINITION. Loads, stores and atomics from their issue to their answer: what they do at their home,
how they travel as packets, and how a result or a fault comes back (R64 to R66, R79, R80, R129, R130, R163, R165,
R166, R192, R213, R436). An access whose home is the issuing tile's slice, or the issuing gateway's buffer,
is performed in the step that issues it (assumption log 6). -/

namespace Sys2Proof.Machine

/-! ### Atomics (R166) -/

/-- FP32 addition at the home: RNE, no flush, no flag. -/
def afaddBits (x y : Nat) : Nat :=
  (roundFmt .f32 rmRNE false ((decodeFp .f32 x).add false (decodeFp .f32 y)).1).1

/-- The new value of an atomic of `n` bits with code `op`; none when nothing is written. -/
def atomicNew (op n o b e : Nat) : Option Nat :=
  let lt := decide (sextNat n o < sextNat n b)
  match op with
  | 0 => some ((o + b) % 2 ^ n)
  | 1 => some (o &&& b)
  | 2 => some (o ||| b)
  | 3 => some (o ^^^ b)
  | 4 => some (if lt then o else b)
  | 5 => some (if lt then b else o)
  | 6 => some (min o b)
  | 7 => some (max o b)
  | 8 => some b
  | 9 => if o = e then some b else none
  | _ => some (afaddBits o b)

/-! ### At the home (R64, R83, R163) -/

/-- Re-injection of an undeliverable record is done by its home once `REDLV` has read it. -/
def redlvBytes : Nat := 384

/-- Bytes stored as part of a larger store: its watches are evaluated when all of it is there. -/
def State.storeQuiet (s : State) (pa : Nat) (key : Option Nat) (bs : List Byte) : State :=
  { s.writePlain pa key bs with
    poison := s.poison.filter fun u => !(coveredUnits pa bs.length).contains u,
    soft := s.soft.filter fun u => !(coveredUnits pa bs.length).contains u }

/-- The watches on the line that a whole-line store has written (R63, R231). -/
def State.lineWatches (s : State) (a : Access) : State :=
  match a.target, a.kind with
  | .mem pa _, .store _ =>
    match sliceOf pa with
    | some (t, off) => if a.whole then s.evalWatches t (off / 64 * 64) 64 else s
    | none => s
  | _, _ => s

/-- A load, store or atomic performed on bytes of the module or of host memory. -/
def State.performMem (s : State) (a : Access) (pa : Nat) (key : Option Nat) : State × AccStatus :=
  match a.kind with
  | .load =>
    if s.poisoned pa a.size then (s, .failed .poison)
    else (s.correct a.ctx pa a.size, .done (s.readPlain pa key a.size))
  | .store bs =>
    if s.partlyPoisoned pa a.size then (s, .failed .poison)
    else if a.whole then (s.storeQuiet pa key bs, .done [])
    else (s.storeAt pa key bs, .done [])
  | .atomic op operand expected =>
    if s.poisoned pa a.size then (s, .failed .poison)
    else
      let n := 8 * a.size
      let old := s.readPlain pa key a.size
      let s := s.correct a.ctx pa a.size
      match atomicNew op n (leNat old) (operand.toNat % 2 ^ n) (expected.toNat % 2 ^ n) with
      | some v => (s.storeAt pa key (leBytes a.size v), .done old)
      | none => (s, .done old)
  | .barrier _ => (s, .sent)
  | .probe _ _ => (s, .done [])
  | .redlv _ =>
    if s.poisoned pa redlvBytes then (s, .failed .poison)
    else
      let bs := s.readPlain pa key redlvBytes
      let s := s.correct a.ctx pa redlvBytes
      let w := leNat (bs.take 8)
      if w % 2 = 0 then (s, .done []) else (s.storeAt pa key (leBytes 8 (w - 1)), .done bs)

/-- An access performed at its home; one on leased memory is performed by the lending peer. -/
def State.perform (s : State) (a : Access) : State × AccStatus :=
  match a.target with
  | .mem pa key => s.performMem a pa key
  | .lease _ _ _ => (s, .sent)

/-! ### Results (R125, R159, R163) -/

/-- The word a load or atomic writes to a general register. -/
def loadWord (n : Nat) (signed : Bool) (bs : List Byte) : Word :=
  if signed then sextW (8 * n) (leNat bs) else BitVec.ofNat 64 (leNat bs)

/-- Bits `[8 at_ + 8 n - 1 : 8 at_]` of a vector replaced by bytes. -/
def setBytes (x : VecWord) (at_ n v : Nat) : VecWord :=
  let mask : VecWord := BitVec.ofNat 512 ((2 ^ (8 * n) - 1) * 2 ^ (8 * at_))
  (x &&& ~~~ mask) ||| BitVec.ofNat 512 (v % 2 ^ (8 * n) * 2 ^ (8 * at_))

/-- The fault of an access that failed (R129): the record names the access's instruction. -/
def Access.lateFault (a : Access) (c : Cause) : FaultRec :=
  { cause := c, ord := a.id, deferred := true, epc := a.epc, badva := a.va }

/-- A result written by a strand that may have been saved: its register and its image (R130). -/
def State.putLate (s : State) (n : Nat) (f : Strand → Strand) (off : Nat) (bs : List Byte) : State :=
  (s.modStrand n f).imageField n off bs

/-- The bytes of an answered access written to its destination. -/
def State.deliver (s : State) (a : Access) (bs : List Byte) : State :=
  let n := a.strand
  match a.dest with
  | .none => s
  | .g r k sg =>
    let v := loadWord k sg bs
    if (s.strand n).spBad r v then
      -- R172: the access stands, the instruction is issued again
      let p := (s.strand n).pend.find? fun p => p.id == a.grp
      let s := s.modStrand n fun st =>
        { st with pc := a.epc.setWidth 48, lc := (p.map (·.lc)).getD st.lc }
      let lc := (s.strand n).lc
      let s := (s.imageField n 1304 (leBytes 8 a.epc.toNat)).imageField n 1344 (leBytes 8 lc.toNat)
      s.raiseLate n a.run a.hidx
        { cause := .stackLimit, ord := a.id, epc := a.epc, badva := v }
    else if r = 0 then s
    else s.putLate n (fun st => writeG st r v) (8 * r.val) (leBytes 8 v.toNat)
  | .lane r j k =>
    s.putLate n (fun st => writeW st r (setBytes (readW st r) (j * k) k (leNat bs)))
      (256 + 64 * r.val + j * k) (leBytes k (leNat bs))
  | .code =>
    s.modStrand n fun st =>
      { st with fetched := some (a.epc.setWidth 48, BitVec.ofNat 32 (leNat bs)) }
  | .landing => s.modStrand n fun st => { st with landing := st.landing ++ bs }

/-- The message of an undeliverable record, as REDLV sends it again (R234, R237). -/
def redlvMsg (bs : List Byte) (dest : Option Word) (x0 y0 : Nat) : Msg :=
  let m := Msg.ofFlit ((bs.drop 64).take 48) []
  let m := { m with payload := (bs.drop 128).take m.hdr.len.toNat }
  let h := { m.hdr with re := false, rels := false, fpost := false }
  { m with hdr := match dest with
    | some dw => h.withDest dw x0 y0
    | none => h }

/-- A recorded packet sent again from tile `t`, as the kind it has: a reply on VN1, a counter increment to its
counter, and otherwise a handler message (R211, R236, R237). -/
def State.redeliver (s : State) (t : Nat) (m : Msg) : State :=
  match m.hdr.destTile with
  | none => s.undeliverable t 2 m
  | some d =>
    let c := m.hdr.ctx.toNat
    let b : Body :=
      if m.hdr.kind = 1 then .reply m
      else if m.hdr.kind = 2 then .counter m.hdr (m.hdr.hidx.toNat % 256) ((m.args.getD 0 0).setWidth 32)
      else .msg m
    (s.source c).inject t d (m.hdr.kind == 1) c [] b

/-- The two results of a PROBE written, each checked where it is sp; with one refused neither is written (R171, R438). -/
def State.deliverProbe (s : State) (a : Access) (v w : Word) : State :=
  match a.dest with
  | .g d _ _ =>
    let d' : GReg := Fin.ofNat 32 (d.val + 1)
    let first := fun (s : State) => s.deliver a (leBytes 8 v.toNat)
    let second := fun (s : State) => s.deliver { a with dest := .g d' 8 false } (leBytes 8 w.toNat)
    if (s.strand a.strand).spBad d v then first s
    else if (s.strand a.strand).spBad d' w then second s
    else second (first s)
  | .none => s
  | .lane _ _ _ => s
  | .code => s
  | .landing => s

/-- What an answered access brings: its result, and for REDLV the message sent again. -/
def State.deliverKind (s : State) (a : Access) (bs : List Byte) : State :=
  match a.kind with
  | .redlv dest =>
    if bs.isEmpty then s.deliver a (leBytes 8 0)
    else
      let m := redlvMsg bs dest (s.offsetOf a.ctx).1 (s.offsetOf a.ctx).2
      (s.redeliver a.tile m).deliver a (leBytes 8 1)
  | .load => s.deliver a bs
  | .store _ => s.deliver a bs
  | .atomic _ _ _ => s.deliver a bs
  | .barrier _ => s.deliver a bs
  | .probe v w => s.deliverProbe a v w

/-- The pending result of a group taken off its strand. -/
def State.unpend (s : State) (n grp : Nat) : State :=
  (s.modStrand n fun st => { st with pend := st.pend.filter fun p => p.id != grp }).imagePend n

/-- The bytes with which an access is done, none if it failed or is still under way. -/
def AccStatus.bytes : AccStatus → Option (List Byte)
  | .done bs => some bs
  | .sent => none
  | .failed _ => none

/-- The cause with which an access failed. -/
def AccStatus.cause : AccStatus → Option Cause
  | .failed c => some c
  | .sent => none
  | .done _ => none

/-- Whether an access has neither been performed nor refused. -/
def AccStatus.open : AccStatus → Bool
  | .sent => true
  | .done _ => false
  | .failed _ => false

/-- The failed element a group reports: the one with the lowest address, and one fault for the group (R192). R192
says so of loads; of vector stores it is DEDUCED (assumption log 82). -/
def worst (as : List Access) : Option (Access × Cause) :=
  (as.filterMap fun a => a.status.cause.map fun c => (a, c)).foldl
    (fun o x => match o with
      | none => some x
      | some y => if x.1.va.toNat < y.1.va.toNat then some x else some y) none

/-- Whether the run that issued an access has not ended. -/
def State.accessLive (s : State) (a : Access) : Bool :=
  (s.strand a.strand).run == a.run && (s.strand a.strand).phase != .idle

/-- What the accesses of a group bring: every result, or the fault of a group that failed. A group with a
destination that failed writes nothing. -/
def State.settleGroup (s : State) (as : List Access) (live : Bool) : State :=
  match worst as with
  | some (x, c) => s.raiseLate x.strand x.run x.hidx (x.lateFault c)
  | none =>
    if live then as.foldl (fun s x => match x.status.bytes with
      | some bs => s.deliverKind x bs
      | none => s) s
    else s

/-- A group of accesses answered: its strand no longer awaits it. -/
def State.answer (s : State) (as : List Access) : State :=
  match as with
  | [] => s
  | a :: _ =>
    let live := s.accessLive a
    let s := s.settleGroup as live
    if live then (s.unpend a.strand a.grp).tryResume a.strand else s

/-! ### Issue -/

/-- The part of an access that its strand gives it. -/
def State.accessOf (s : State) (ea : Word) (size : Nat) (kind : AccKind) (t : Target) (poisoned : Bool)
    (dest : Dest) : Access :=
  { strand := s.cur, run := s.me.run, ctx := s.myCtx, tile := s.myTile, epc := pcWord s.me, va := ea,
    size := size, kind := kind, target := t, dest := dest, hidx := s.me.hidx,
    sentAt := s.time.toNat, status := if poisoned then .failed .poison else .sent }

/-- Numbered identifiers given to the accesses of one instruction. -/
def numberFrom (g : Nat) : Nat → List Access → List Access
  | _, [] => []
  | i, a :: r => { a with id := g + i, grp := g } :: numberFrom g (i + 1) r

/-- The accesses of a group whose home is the issuing tile's own slice, performed in order. -/
def State.performOwn (s : State) (core : Nat) : List Access → State × List Access
  | [] => (s, [])
  | a :: r =>
    let (s, a) :=
      if a.status.open && isOwn core a.target then
        let (s', st) := s.perform a
        (s', { a with status := st })
      else (s, a)
    let (s, r) := State.performOwn s core r
    (s, a :: r)

/-- Whether an access has its home on the module or on the host. -/
def Target.local_ : Target → Bool
  | .mem _ _ => true
  | .lease _ _ _ => false

/-- The granule of `n` bytes that a target on the module or the host lies in. -/
def Target.granule (n : Nat) : Target → Option Nat
  | .mem pa _ => some (pa / n)
  | .lease _ _ _ => none

/-- Whether two accesses of one instruction are performed together at their home: elements of one line of a
whole-line access, and otherwise those in one aligned unit of 8 bytes (R63). -/
def Access.joins (a b : Access) : Bool :=
  let n := if a.whole then 64 else 8
  a.grp == b.grp && a.strand == b.strand && a.target.local_ && a.target.granule n == b.target.granule n

/-- Accesses gathered into those that are performed together, in the order of their first elements. -/
def gather : List (List Access) → List Access → List (List Access)
  | gs, [] => gs
  | gs, a :: r =>
    gather (if gs.any fun g => g.any a.joins then gs.map fun g => if g.any a.joins then g ++ [a] else g
      else gs ++ [[a]]) r

/-- The requests of accesses sent to their homes on VN0, each with the release it waits for (R213, R214). -/
def State.sendRequests (s : State) (as : List Access) : State :=
  (gather [] as).foldl (fun s g => match g with
    | [] => s
    | a :: _ => s.inject a.tile (s.homeTile a.tile a.target) false a.ctx a.after (.request (g.map (·.id)))) s

/-- A group of accesses issued. A group wholly performed at once is answered at once; any other is
in flight, and its destination is pending. What has nothing to wait for at a home counts as answered. -/
def State.issueGroup (s : State) (as : List Access) (p : Option Pend) : State :=
  let g := s.nextId
  let s := { s with nextId := g + as.length + 1 }
  let (s, as) := s.performOwn s.myCore (numberFrom g 0 as)
  let s := match as.find? fun a => isOwn s.myCore a.target with
    | some a => s.lineWatches a
    | none => s
  if as.all fun a => isOwn s.myCore a.target && !a.status.open then
    s.settleGroup as true
  else
    let s := { s.source s.myCtx with acc := s.acc ++ as.map fun (a : Access) => { a with back := !a.status.open } }
    let s := s.sendRequests (as.filter fun a => a.status.open)
    match p with
    | some p => s.modMe fun st => { st with pend := st.pend ++ [{ p with id := g, lc := st.lc }] }
    | none => s

/-- A scalar access with its result in `d` (R159, R165): the check, then the access. A result for sp
that R171 forbids is found when the value is there; the access stands. -/
def State.scalarAccess (s : State) (ea : Word) (size : Nat) (need : Need) (kind : AccKind)
    (dest : Option (GReg × Bool)) : Res :=
  match s.checkAccess s.cur ea size size need with
  | .bad c b => .trap c b
  | .ok t p =>
    match dest with
    | none => .go (s.issueGroup [s.accessOf ea size kind t p .none] none)
    | some (d, sg) =>
      let a := s.accessOf ea size kind t p .none
      if isOwn s.myCore t && !p then
        let s := { s with nextId := s.nextId + 1 }
        let (s', st) := s.perform { a with id := s.nextId - 1 }
        match st with
        | .done bs =>
          let v := loadWord size sg bs
          if s.me.spBad d v then .trapIn s' .stackLimit v else .go (s'.modMe fun x => writeG x d v)
        | .failed c => .go (s'.raise s.cur ({ a with id := s.nextId - 1 }.lateFault c))
        | .sent => .go s'
      else .go (s.issueGroup [{ a with dest := .g d size sg }] (some { g := some d }))

/-! ### ACCESS_REQUEST and ACCESS_REPLY -/

/-- Whether an access is of the kind ACCESS_REQUEST performs. -/
def AccKind.plain : AccKind → Bool
  | .load => true
  | .store _ => true
  | .atomic _ _ _ => true
  | .barrier _ => false
  | .redlv _ => true
  | .probe _ _ => false

/-- The accesses whose request or answer a packet is. -/
def Body.carried : Body → List Nat
  | .request ids => ids
  | .answer ids => ids
  | .msg _ => []
  | .reply _ => []
  | .counter _ _ _ => []
  | .freeze _ _ => []
  | .unfreeze _ _ => []
  | .resume _ _ => []
  | .group _ _ _ _ _ => []
  | .domain _ _ _ _ _ => []
  | .mmagOffer _ _ _ _ => []
  | .mmagAnswer _ _ _ _ => []
  | .mmagStart _ _ _ _ => []
  | .mmagCredit _ _ _ _ _ _ => []
  | .mmagStep _ _ _ _ _ _ _ _ => []
  | .mmagReport _ _ _ _ _ => []
  | .chainBind _ => []
  | .chainAnswer _ _ => []
  | .chainEntry _ _ _ => []
  | .chainCredit => []

/-- Whether a packet carries only loads of the group of `a`, which are independent of each other (R191). -/
def State.loadsBeside (s : State) (a : Access) (p : Packet) : Bool :=
  a.kind == .load && !p.body.carried.isEmpty &&
    p.body.carried.all fun i => s.acc.any fun b => b.id == i && b.grp == a.grp && b.strand == a.strand && b.kind == .load

/-- Whether the packet with the request or the answer of an access is still on its way: it has not reached its
destination, or a packet of its stream goes before it (R214). -/
def State.onWay (s : State) (a : Access) : Bool :=
  s.net.any fun p => p.body.carried.contains a.id &&
    (p.pos != p.dst || p.moving ||
      (s.net.takeWhile fun q => q.id != p.id).any fun q => p.sameStream q && !s.loadsBeside a q)

/-- Whether an access may be performed now: its request has reached the home and its releases are met (R70, R79). -/
def State.mayPerform (s : State) (a : Access) : Bool :=
  a.status.open && s.released a.after && !s.onWay a

/-- The answer of accesses sent back from their home on VN1; their request has been served (R213). -/
def State.sendAnswer (s : State) (a : Access) (ids : List Nat) : State :=
  let s := { s with net := s.net.filterMap fun (p : Packet) => match p.body with
    | .request is =>
      if is.all ids.contains then none else some { p with body := .request (is.filter fun i => !ids.contains i) }
    | _ => some p }
  s.inject (s.homeTile a.tile a.target) a.tile true a.ctx [] (.answer ids)

/-- One access of the list in flight performed at its home. -/
def State.performAt (s : State) (i : Nat) : State :=
  match s.acc.find? fun a => a.id == i with
  | some a =>
    let (s', st) := s.perform a
    { s' with acc := s'.acc.map fun (x : Access) => if x.id = i then { x with status := st } else x }
  | none => s

/-- A barrier operation as a peer is asked for it; BWAIT is never sent to leased memory (R267, R276). -/
def BarrierOp.peerOp : BarrierOp → PeerOp
  | .init e y => .barrier 0 (e.setWidth 64) (y.setWidth 64)
  | .arrive add false => .barrier 1 add 0
  | .arrive add true => .barrier 2 add 0
  | .test ph => .barrier 3 (if ph then 1 else 0) 0
  | .bytes sub => .barrier 4 sub 0
  | .wait _ _ _ _ => .barrier 3 0 0

/-- The request of an access sent to the lender through port `p` (R436, R437). REDLV reads the record and clears its first
bit. -/
def State.sendOut (s : State) (a : Access) (p i off : Nat) (key : Option Nat) : State :=
  match a.kind with
  | .load => s.askBytes p i off key a.size
  | .store bs => s.sendBytes p i off key bs
  | .atomic op x y => s.sendLease p i off (.atomic op (a.size == 8) x y)
  | .barrier op => s.sendLease p i off op.peerOp
  | .redlv _ => (s.askBytes p i off key redlvBytes).sendLease p i off (.atomic 1 true (~~~1#64) 0)
  | .probe _ _ => s

/-- An access to leased memory that has reached the die of its port leaves once a port of its lease is usable (R436,
R447). -/
def State.leaveBy (s : State) (k : Nat) (a : Access) : State :=
  match a.target with
  | .mem _ _ => s
  | .lease i off key =>
    match s.leasePort i with
    | none => s
    | some p =>
      if !s.mayPerform a || a.port.isSome then s
      else
        let s := s.sendOut a p i off key
        { s with acc := s.acc.modify k fun (x : Access) => { x with port := some p, sentAt := s.time.toNat } }

/-- ACCESS_REQUEST: entry `k` is performed, together with those that join it, and the answer goes back (R63, R64,
R79); one to leased memory leaves for its lender. -/
def State.accessRequest (s : State) (k : Nat) : State :=
  match s.acc[k]? with
  | none => s
  | some a =>
    if !a.target.local_ then s.leaveBy k a
    else if s.mayPerform a && a.kind.plain && a.target.local_ then
      let ids := (s.acc.filter fun b => b.status.open && a.joins b).map (·.id)
      ((ids.foldl (fun s i => s.performAt i) s).lineWatches a).sendAnswer a ids
    else s

/-- What the lending peer's answer means to an access (R436). The data of an encrypted page arrive as
the lines that hold them. -/
def State.peerStatus (s : State) (a : Access) (p : PeerAnswer) : AccStatus :=
  match p with
  | .home => .sent
  | .revoked => .failed .leaseRevoked
  | .permission => .failed .pagePermission
  | .poison => .failed .poison
  | .overrun => .failed .barrierOverrun
  | .data bs =>
    match a.target with
    | .mem _ _ => .sent
    | .lease _ _ none => .done (bs.take a.size)
    | .lease i off (some key) =>
      let first := ((s.borrower i).lbase.toNat * 0x200000 + off) / 64
      let plain := (chunks 64 (bs.length / 64 + 1) bs).mapIdx fun j l =>
        (xtsDecrypt (s.key key) (first + j) (l.map BitVec.toNat)).map (BitVec.ofNat 8)
      .done ((plain.flatten.drop (off % 64)).take a.size)

/-- The clocks that an access or a multicast waits for a port or an answer (R290, R447). -/
def portWait : Nat := 2 ^ 20

/-- PORT_WAIT_TIMEOUT: an access that has found no usable port for 2^20 clocks is answered with
LEASE_REVOKED. -/
def State.portTimeout (s : State) (k : Nat) : State :=
  match s.acc[k]? with
  | none => s
  | some a =>
    if a.status.open && !a.target.local_ && !s.onWay a && a.port.isNone &&
        decide (a.sentAt + portWait ≤ s.time.toNat) then
      ({ s with acc := s.acc.modify k fun x => { x with status := .failed .leaseRevoked } } : State).sendAnswer a [a.id]
    else s

/-- An access that has left for its lender is answered by it (R436). -/
def State.peerReply (s : State) (k : Nat) (a : Access) (p : PeerAnswer) : State :=
  if a.target.local_ || a.port.isNone || s.peerStatus a p == .sent then s
  else
    ({ s with acc := s.acc.modify k fun x => { x with status := s.peerStatus a p } } : State).sendAnswer a [a.id]

/-- The answer of access `a` sunk at its tile: every access it answers is back. Once every access of the group is back,
their results are written and they are no longer in flight. -/
def State.sinkAnswer (s : State) (a : Access) : State :=
  let ids := a.id :: ((s.net.filter fun p => p.body.carried.contains a.id).flatMap fun p => p.body.carried)
  let s := { s with
    net := s.net.filter fun (p : Packet) => !p.body.carried.contains a.id,
    acc := s.acc.map fun (x : Access) => if ids.contains x.id then { x with back := true } else x }
  let mine := fun (b : Access) => b.grp == a.grp && b.strand == a.strand
  let as := s.acc.filter mine
  if as.all (·.back) then ({ s with acc := s.acc.filter fun b => !mine b } : State).answer as else s

/-- ACCESS_REPLY: the lending peer's answer to entry `k`, or its answer returned to the tile (R129, R213). -/
def State.accessReply (s : State) (k : Nat) (p : PeerAnswer) : State :=
  match s.acc[k]? with
  | none => s
  | some a =>
    if a.status.open then s.peerReply k a p
    else if s.onWay a then s
    else s.sinkAnswer a

/-- ACCESS_REQUEST (R79). -/
def execAccessRequest (k : Nat) (s : State) : Out := .next (s.accessRequest k)
/-- ACCESS_REPLY (R129). -/
def execAccessReply (k : Nat) (p : PeerAnswer) (s : State) : Out := .next (s.accessReply k p)
/-- PORT_WAIT_TIMEOUT (R447). -/
def execPortWaitTimeout (k : Nat) (s : State) : Out := .next (s.portTimeout k)

end Sys2Proof.Machine
end

