-- ==== Sys2Proof/Machine/Alu.lean ====
section
/-! DEFINITION. Register and immediate arithmetic, opcodes 0x01 to 0x0A (R134 to R142). -/

namespace Sys2Proof.Machine

/-! ### Values (R135, R136, R139, R142) -/

/-- Leading zero bits. -/
def clz64 (v : Word) : Nat := if v = 0 then 64 else 63 - Nat.log2 v.toNat
/-- Trailing zero bits; 64 for 0. -/
def ctz64 (v : Word) : Nat := ((List.range 64).find? fun i => v.getLsbD i).getD 64
/-- One bits. -/
def popc64 (v : Word) : Nat := ((List.range 64).filter fun i => v.getLsbD i).length
/-- Signed quotient, toward zero, with the corners of R136. -/
def divS (a b : Word) : Word :=
  if b = 0 then BitVec.allOnes 64 else BitVec.ofInt 64 (a.toInt.tdiv b.toInt)
/-- Signed remainder, of the dividend's sign. -/
def remS (a b : Word) : Word := if b = 0 then a else BitVec.ofInt 64 (a.toInt.tmod b.toInt)
/-- Unsigned quotient. -/
def divU (a b : Word) : Word := if b = 0 then BitVec.allOnes 64 else a / b
/-- Unsigned remainder. -/
def remU (a b : Word) : Word := if b = 0 then a else a % b
/-- High half of the signed product. -/
def mulHi (a b : Word) : Word := BitVec.ofInt 64 (a.toInt * b.toInt / 2 ^ 64)
/-- High half of the unsigned product. -/
def mulHiU (a b : Word) : Word := BitVec.ofNat 64 (a.toNat * b.toNat / 2 ^ 64)
/-- Bits `[p + w : p]` of a word, zero-extended; `w` is the width less one. -/
def bitsAt (v : Word) (p w : BitVec 6) : Nat := v.toNat / 2 ^ p.toNat % 2 ^ (w.toNat + 1)
/-- The bits `[p + w : p]` of `d` replaced by low bits of `v`. -/
def insertBits (d v : Word) (p w : BitVec 6) : Word :=
  let mask : Word := BitVec.ofNat 64 (2 ^ (w.toNat + 1) - 1)
  (d &&& ~~~ (mask <<< p.toNat)) ||| ((v &&& mask) <<< p.toNat)
/-- The shift amount of a register. -/
def amount (b : Word) : Nat := b.toNat % 64

/-- Clocks for which a division with quotient `q` holds the divider (R125). -/
def divClocks (q : Nat) : Nat := max 4 (2 + ((if q = 0 then 0 else Nat.log2 q + 1) + 1) / 2)
/-- The quotient whose bits a signed division computes; 0 for the two corners, which take 4 clocks (R125). -/
def divMagS (a b : Word) : Nat :=
  if b = 0 ∨ (a.toInt = -2 ^ 63 ∧ b.toInt = -1) then 0 else a.toInt.natAbs / b.toInt.natAbs
/-- The quotient whose bits an unsigned division computes. -/
def divMagU (a b : Word) : Nat := a.toNat / b.toNat

/-! ### Forms -/

/-- A register-register form: `d` receives `f` of the two sources. -/
def State.alu2 (s : State) (i : Instr) (d a b : GReg) (f : Word → Word → Word) : Out :=
  .next (s.issue i { g := [d, a, b] } fun s => s.putG d (f (readG s.me a) (readG s.me b)))

/-- Whether the divider of the issuing core holds another division (R124). -/
def State.dividing (s : State) : Bool := decide (s.time.toNat < (s.core s.myCore).divUntil.toNat)

/-- A division or remainder: it waits for the core's divider, and holds it for as long as its quotient `q` takes
(R124, R125). -/
def State.divide (s : State) (i : Instr) (d a b : GReg) (f : Word → Word → Word) (q : Word → Word → Nat) : Out :=
  .next (s.issue i { g := [d, a, b] } fun s =>
    let x := readG s.me a
    let y := readG s.me b
    if s.dividing then .hold .divider
    else s.putGAnd (s.modCore s.myCore fun c => { c with divUntil := s.time + BitVec.ofNat 64 (divClocks (q x y)) })
      d (f x y))

/-- A form with one register source. -/
def State.alu1 (s : State) (i : Instr) (d a : GReg) (f : Word → Word) : Out :=
  .next (s.issue i { g := [d, a] } fun s => s.putG d (f (readG s.me a)))

/-- A form that changes part of its destination. -/
def State.aluKeep (s : State) (i : Instr) (d a : GReg) (f : Word → Word → Word) : Out :=
  .next (s.issue i { g := [d, a] } fun s => s.putG d (f (readG s.me d) (readG s.me a)))

/-- ADD (R135). -/
def execAdd (d a b : GReg) (s : State) : Out := s.alu2 (.add d a b) d a b (· + ·)
/-- SUB (R135). -/
def execSub (d a b : GReg) (s : State) : Out := s.alu2 (.sub d a b) d a b (· - ·)
/-- AND (R135). -/
def execAnd (d a b : GReg) (s : State) : Out := s.alu2 (.and d a b) d a b (· &&& ·)
/-- OR (R135). -/
def execOr (d a b : GReg) (s : State) : Out := s.alu2 (.or d a b) d a b (· ||| ·)
/-- XOR (R135). -/
def execXor (d a b : GReg) (s : State) : Out := s.alu2 (.xor d a b) d a b (· ^^^ ·)
/-- ANDN (R135). -/
def execAndn (d a b : GReg) (s : State) : Out := s.alu2 (.andn d a b) d a b fun x y => x &&& ~~~ y
/-- SHL (R135). -/
def execShl (d a b : GReg) (s : State) : Out := s.alu2 (.shl d a b) d a b fun x y => x <<< amount y
/-- SHR (R135). -/
def execShr (d a b : GReg) (s : State) : Out := s.alu2 (.shr d a b) d a b fun x y => x >>> amount y
/-- SAR (R135). -/
def execSar (d a b : GReg) (s : State) : Out := s.alu2 (.sar d a b) d a b fun x y => x.sshiftRight (amount y)
/-- ROR (R135). -/
def execRor (d a b : GReg) (s : State) : Out := s.alu2 (.ror d a b) d a b fun x y => x.rotateRight (amount y)
/-- MIN (R135). -/
def execMin (d a b : GReg) (s : State) : Out := s.alu2 (.min d a b) d a b fun x y => if x.slt y then x else y
/-- MAX (R135). -/
def execMax (d a b : GReg) (s : State) : Out := s.alu2 (.max d a b) d a b fun x y => if x.slt y then y else x
/-- MINU (R135). -/
def execMinu (d a b : GReg) (s : State) : Out := s.alu2 (.minu d a b) d a b fun x y => if x.ult y then x else y
/-- MAXU (R135). -/
def execMaxu (d a b : GReg) (s : State) : Out := s.alu2 (.maxu d a b) d a b fun x y => if x.ult y then y else x
/-- SLT (R135). -/
def execSlt (d a b : GReg) (s : State) : Out := s.alu2 (.slt d a b) d a b fun x y => bitWord (x.slt y)
/-- SLTU (R135). -/
def execSltu (d a b : GReg) (s : State) : Out := s.alu2 (.sltu d a b) d a b fun x y => bitWord (x.ult y)
/-- SEQ (R135). -/
def execSeq (d a b : GReg) (s : State) : Out := s.alu2 (.seq d a b) d a b fun x y => bitWord (x == y)
/-- MUL (R135). -/
def execMul (d a b : GReg) (s : State) : Out := s.alu2 (.mul d a b) d a b (· * ·)
/-- MULH (R135). -/
def execMulh (d a b : GReg) (s : State) : Out := s.alu2 (.mulh d a b) d a b mulHi
/-- MULHU (R135). -/
def execMulhu (d a b : GReg) (s : State) : Out := s.alu2 (.mulhu d a b) d a b mulHiU
/-- DIV (R136). -/
def execDiv (d a b : GReg) (s : State) : Out := s.divide (.div d a b) d a b divS divMagS
/-- DIVU (R136). -/
def execDivu (d a b : GReg) (s : State) : Out := s.divide (.divu d a b) d a b divU divMagU
/-- REM (R136). -/
def execRem (d a b : GReg) (s : State) : Out := s.divide (.rem d a b) d a b remS divMagS
/-- REMU (R136). -/
def execRemu (d a b : GReg) (s : State) : Out := s.divide (.remu d a b) d a b remU divMagU
/-- CLZ (R135). -/
def execClz (d a : GReg) (s : State) : Out := s.alu1 (.clz d a) d a fun x => BitVec.ofNat 64 (clz64 x)
/-- CTZ (R135). -/
def execCtz (d a : GReg) (s : State) : Out := s.alu1 (.ctz d a) d a fun x => BitVec.ofNat 64 (ctz64 x)
/-- POPC (R135). -/
def execPopc (d a : GReg) (s : State) : Out := s.alu1 (.popc d a) d a fun x => BitVec.ofNat 64 (popc64 x)
/-- SEL (R134, R135). -/
def execSel (d a b : GReg) (p : PReg) (s : State) : Out :=
  s.alu2 (.sel d a b p) d a b fun x y => if readP s.me p then x else y

/-- ADDI (R137). -/
def execAddi (d a : GReg) (i : BitVec 16) (s : State) : Out := s.alu1 (.addi d a i) d a fun x => x + sx i
/-- ANDI (R137). -/
def execAndi (d a : GReg) (i : BitVec 16) (s : State) : Out := s.alu1 (.andi d a i) d a fun x => x &&& zx i
/-- ORI (R137). -/
def execOri (d a : GReg) (i : BitVec 16) (s : State) : Out := s.alu1 (.ori d a i) d a fun x => x ||| zx i
/-- XORI (R137). -/
def execXori (d a : GReg) (i : BitVec 16) (s : State) : Out := s.alu1 (.xori d a i) d a fun x => x ^^^ zx i
/-- SLTI (R138). -/
def execSlti (d a : GReg) (i : BitVec 15) (s : State) : Out :=
  s.alu1 (.slti d a i) d a fun x => bitWord (x.slt (sx i))
/-- SLTIU (R138). -/
def execSltiu (d a : GReg) (i : BitVec 15) (s : State) : Out :=
  s.alu1 (.sltiu d a i) d a fun x => bitWord (x.ult (sx i))
/-- SHLI (R139). -/
def execShli (d a : GReg) (n : BitVec 6) (s : State) : Out := s.alu1 (.shli d a n) d a fun x => x <<< n.toNat
/-- SHRI (R139). -/
def execShri (d a : GReg) (n : BitVec 6) (s : State) : Out := s.alu1 (.shri d a n) d a fun x => x >>> n.toNat
/-- SARI (R139). -/
def execSari (d a : GReg) (n : BitVec 6) (s : State) : Out :=
  s.alu1 (.sari d a n) d a fun x => x.sshiftRight n.toNat
/-- RORI (R139). -/
def execRori (d a : GReg) (n : BitVec 6) (s : State) : Out :=
  s.alu1 (.rori d a n) d a fun x => x.rotateRight n.toNat
/-- INSH (R140). -/
def execInsh (d : GReg) (h : BitVec 2) (i : BitVec 16) (s : State) : Out :=
  .next (s.issue (.insh d h i) { g := [d] } fun s =>
    s.putG d ((readG s.me d &&& ~~~ (0xFFFF#64 <<< (16 * h.toNat))) ||| (zx i <<< (16 * h.toNat))))
/-- AUPC (R141). -/
def execAupc (d : GReg) (i : BitVec 16) (s : State) : Out :=
  .next (s.issue (.aupc d i) { g := [d] } fun s => s.putG d (pcWord s.me + (sx i <<< 16)))
/-- BFX (R142). -/
def execBfx (d a : GReg) (p w : BitVec 6) (s : State) : Out :=
  s.alu1 (.bfx d a p w) d a fun x => sextW (w.toNat + 1) (bitsAt x p w)
/-- BFXU (R142). -/
def execBfxu (d a : GReg) (p w : BitVec 6) (s : State) : Out :=
  s.alu1 (.bfxu d a p w) d a fun x => BitVec.ofNat 64 (bitsAt x p w)
/-- BFI (R142). -/
def execBfi (d a : GReg) (p w : BitVec 6) (s : State) : Out :=
  s.aluKeep (.bfi d a p w) d a fun x y => insertBits x y p w

end Sys2Proof.Machine
end

