-- ==== Sys2Proof/Machine/Pred.lean ====
section
/-! DEFINITION. Predicates, opcode 0x0B, and scalar FP32, opcode 0x0C (R95, R103, R104, R143 to R148). -/

namespace Sys2Proof.Machine

/-! ### Predicates -/

/-- A comparison condition (R143). -/
def Cond.holds (c : Cond) (x y : Word) : Bool :=
  match c with
  | .eq => x == y
  | .ne => x != y
  | .lt => x.slt y
  | .ge => !x.slt y
  | .ltu => x.ult y
  | .geu => !x.ult y

/-- The imm8 of PCMPI (R143). -/
def pcmpiImm (i : BitVec 5) (j : BitVec 3) : Word := sx (i ++ j)

/-- A result written to a predicate. -/
def State.putP (s : State) (d : PReg) (b : Bool) : Res := .go (s.modMe fun st => writeP st d b)

/-- A form on predicates only. -/
def State.predForm (s : State) (i : Instr) (d : PReg) (f : Strand → Bool) : Out :=
  .next (s.issue i {} fun s => s.putP d (f s.me))

/-- PCMP (R143). -/
def execPcmp (d : PReg) (a b : GReg) (c : Cond) (s : State) : Out :=
  .next (s.issue (.pcmp d a b c) { g := [a, b] } fun s => s.putP d (Cond.holds c (readG s.me a) (readG s.me b)))
/-- PCMPI (R143). -/
def execPcmpi (d : PReg) (a : GReg) (i : BitVec 5) (c : Cond) (j : BitVec 3) (s : State) : Out :=
  .next (s.issue (.pcmpi d a i c j) { g := [a] } fun s =>
    s.putP d (Cond.holds c (readG s.me a) (pcmpiImm i j)))
/-- PAND (R144). -/
def execPand (d a b : PReg) (s : State) : Out := s.predForm (.pand d a b) d fun st => readP st a && readP st b
/-- POR (R144). -/
def execPor (d a b : PReg) (s : State) : Out := s.predForm (.por d a b) d fun st => readP st a || readP st b
/-- PXOR (R144). -/
def execPxor (d a b : PReg) (s : State) : Out := s.predForm (.pxor d a b) d fun st => readP st a != readP st b
/-- PNOT (R144). -/
def execPnot (d a : PReg) (s : State) : Out := s.predForm (.pnot d a) d fun st => !readP st a
/-- PMOV (R144). -/
def execPmov (d a : PReg) (s : State) : Out := s.predForm (.pmov d a) d fun st => readP st a
/-- PSAVE (R95): p0 to p7 into the low byte. -/
def execPsave (d : GReg) (s : State) : Out :=
  .next (s.issue (.psave d) { g := [d] } fun s => s.putG d ((s.me.p ||| 1).setWidth 64))
/-- PLOAD (R95): p1 to p7 from the low byte. -/
def execPload (a : GReg) (s : State) : Out :=
  .next (s.issue (.pload a) { g := [a] } fun s =>
    .go (s.modMe fun st => { st with p := (readG st a).setWidth 8 }))

/-! ### Scalar FP32 -/

/-- The FP32 value of a register, flushed on reading under FZ (R35, R145). -/
def Strand.fp32 (st : Strand) (r : GReg) : FNum := flushIn .f32 st.fz ((readG st r).toNat % 2 ^ 32)

/-- Whether sums of zeros of opposite sign are negative: under RDN (R146). -/
def Strand.down (st : Strand) : Bool := st.rm == rmRDN

/-- A result with flags. -/
def State.putFlags (s : State) (d : GReg) (v : Word) (f : BitVec 5) : Res :=
  s.putGAnd (s.modMe fun st => mergeFlags st f) d v

/-- An exact value and its flags rounded into FP32 (R32 to R35). -/
def Strand.roundF32 (st : Strand) (x : FNum × BitVec 5) : Word × BitVec 5 :=
  let (b, f) := roundFmt .f32 st.rm st.fz x.1
  (BitVec.ofNat 64 b, x.2 ||| f)

/-- A scalar FP32 form. -/
def State.fpForm (s : State) (i : Instr) (g : List Nat) (d : GReg) (f : Strand → Word × BitVec 5) : Out :=
  .next (s.issue i { g := g } fun s => s.putFlags d (f s.me).1 (f s.me).2)

/-- FADD (R146). -/
def execFadd (d a b : GReg) (s : State) : Out :=
  s.fpForm (.fadd d a b) [d, a, b] d fun st => st.roundF32 ((st.fp32 a).add st.down (st.fp32 b))
/-- FSUB (R146). -/
def execFsub (d a b : GReg) (s : State) : Out :=
  s.fpForm (.fsub d a b) [d, a, b] d fun st => st.roundF32 ((st.fp32 a).add st.down (st.fp32 b).neg)
/-- FMUL (R146). -/
def execFmul (d a b : GReg) (s : State) : Out :=
  s.fpForm (.fmul d a b) [d, a, b] d fun st => st.roundF32 ((st.fp32 a).mul (st.fp32 b))
/-- FFMA (R146). -/
def execFfma (d a b : GReg) (s : State) : Out :=
  s.fpForm (.ffma d a b) [d, a, b] d fun st =>
    st.roundF32 (FNum.fma st.down (st.fp32 d) (st.fp32 a) (st.fp32 b))
/-- FMIN and FMAX (R31, R146): exact, only NV. -/
def Strand.minMaxF32 (st : Strand) (wantMax : Bool) (a b : GReg) : Word × BitVec 5 :=
  let r := minMaxNum wantMax (st.fp32 a) (st.fp32 b)
  (BitVec.ofNat 64 (exactBits .f32 r.1), r.2)
/-- FMIN (R146). -/
def execFmin (d a b : GReg) (s : State) : Out :=
  s.fpForm (.fmin d a b) [d, a, b] d fun st => st.minMaxF32 false a b
/-- FMAX (R146). -/
def execFmax (d a b : GReg) (s : State) : Out :=
  s.fpForm (.fmax d a b) [d, a, b] d fun st => st.minMaxF32 true a b
/-- FNEG (R146). -/
def execFneg (d a : GReg) (s : State) : Out :=
  s.fpForm (.fneg d a) [d, a] d fun st =>
    (BitVec.ofNat 64 (exactBits .f32 (st.fp32 a).neg), flagIf (st.fp32 a).isSnan flagNV)
/-- FABS (R146). -/
def execFabs (d a : GReg) (s : State) : Out :=
  s.fpForm (.fabs d a) [d, a] d fun st =>
    (BitVec.ofNat 64 (exactBits .f32 (st.fp32 a).abs), flagIf (st.fp32 a).isSnan flagNV)
/-- The codes of FCMP in the order of `fpCompare`. -/
def FCond.number : FCond → Nat
  | .eq => 0 | .ne => 1 | .lt => 2 | .le => 3 | .un => 4
/-- FCMP (R147). -/
def execFcmp (d a b : GReg) (c : FCond) (s : State) : Out :=
  s.fpForm (.fcmp d a b c) [d, a, b] d fun st =>
    let r := fpCompare (FCond.number c) (st.fp32 a) (st.fp32 b)
    (bitWord r.1, r.2)

/-- The exact value of an FCVT source (R148). -/
def Strand.cvtSource (st : Strand) (v : Nat) : FFmt → FNum
  | .f32 => flushIn .f32 st.fz (v % 2 ^ 32)
  | .bf16 => flushIn .bf16 st.fz (v % 2 ^ 16)
  | .f16 => flushIn .f16 st.fz (v % 2 ^ 16)
  | .df8 => decodeDf8 (v % 2 ^ 8)
  | .i32 => FNum.ofInt (sextNat 32 (v % 2 ^ 32))
  | .u32 => FNum.ofInt (v % 2 ^ 32 : Nat)
  | .i64 => FNum.ofInt (sextNat 64 v)

/-- A value converted into the target of FCVT (R37 to R40, R148). -/
def Strand.cvtTarget (st : Strand) (x : FNum) : FFmt → Word × BitVec 5
  | .f32 => let r := roundFmt .f32 st.rm st.fz x; (BitVec.ofNat 64 r.1, r.2)
  | .bf16 => let r := roundFmt .bf16 st.rm st.fz x; (BitVec.ofNat 64 r.1, r.2)
  | .f16 => let r := roundFmt .f16 st.rm st.fz x; (BitVec.ofNat 64 r.1, r.2)
  | .df8 => let r := toDf8 x; (BitVec.ofNat 64 r.1, r.2)
  | .i32 => let r := toInt x 32 st.rm; (BitVec.ofInt 64 r.1, r.2)
  | .u32 => let r := toIntRange x 0 0xFFFFFFFF st.rm; (BitVec.ofInt 64 r.1, r.2)
  | .i64 => let r := toInt x 64 st.rm; (BitVec.ofInt 64 r.1, r.2)

/-- FCVT (R148). -/
def execFcvt (d a : GReg) (src tgt : FFmt) (s : State) : Out :=
  s.fpForm (.fcvt d a src tgt) [d, a] d fun st =>
    let x := st.cvtSource (readG st a).toNat src
    let r := st.cvtTarget x tgt
    (r.1, r.2 ||| flagIf x.isSnan flagNV)

end Sys2Proof.Machine
end

