-- ==== Sys2Proof/Machine/Control.lean ====
section
/-! DEFINITION. Branches, calls, jumps and the hardware loop, opcodes 0x10 to 0x1A (R149 to R157). -/

namespace Sys2Proof.Machine

/-- The general register lk. -/
def lk : GReg := 1
/-- The general register sp. -/
def sp : GReg := 2
/-- The general register mp. -/
def mp : GReg := 3

/-- A branch taken or not (R149). -/
def State.branch (s : State) (taken : Bool) (t : BitVec 48) : Res := if taken then .jump s t else .go s

/-- A compare-branch (R152). -/
def State.compareBranch (s : State) (i : Instr) (b a : GReg) (o : BitVec 16) (c : Word → Word → Bool) : Out :=
  .next (s.issue i { g := [b, a] } fun s =>
    s.branch (c (readG s.me a) (readG s.me b)) (branchTo s.me o))

/-- The link address of a call, PC + 4. -/
def linkAfter (st : Strand) : Word := pcWord st + 4

/-- BR (R151). -/
def execBr (o : BitVec 26) (s : State) : Out :=
  .next (s.issue (.br o) {} fun s => .jump s (branchTo s.me o))
/-- CALL (R151). -/
def execCall (o : BitVec 26) (s : State) : Out :=
  .next (s.issue (.call o) { g := [lk.val] } fun s =>
    .jump (s.modMe fun st => writeG st lk (linkAfter st)) (branchTo s.me o))
/-- BEQ (R152). -/
def execBeq (b a : GReg) (o : BitVec 16) (s : State) : Out :=
  s.compareBranch (.beq b a o) b a o fun x y => x == y
/-- BNE (R152). -/
def execBne (b a : GReg) (o : BitVec 16) (s : State) : Out :=
  s.compareBranch (.bne b a o) b a o fun x y => x != y
/-- BLT (R152). -/
def execBlt (b a : GReg) (o : BitVec 16) (s : State) : Out :=
  s.compareBranch (.blt b a o) b a o fun x y => x.slt y
/-- BGE (R152). -/
def execBge (b a : GReg) (o : BitVec 16) (s : State) : Out :=
  s.compareBranch (.bge b a o) b a o fun x y => !x.slt y
/-- BLTU (R152). -/
def execBltu (b a : GReg) (o : BitVec 16) (s : State) : Out :=
  s.compareBranch (.bltu b a o) b a o fun x y => x.ult y
/-- BGEU (R152). -/
def execBgeu (b a : GReg) (o : BitVec 16) (s : State) : Out :=
  s.compareBranch (.bgeu b a o) b a o fun x y => !x.ult y
/-- BP (R153). -/
def execBp (p : PReg) (sense : Bool) (o : BitVec 16) (s : State) : Out :=
  .next (s.issue (.bp p sense o) {} fun s => s.branch (readP s.me p == sense) (branchTo s.me o))

/-- A jump to a register's value, checked as R154 orders it; `s'` is the state with the link. -/
def jumpTo (s' : State) (t : Word) : Res :=
  if t.toNat / 2 ^ 48 ≠ 0 then .trap .pageAbsent t
  else if t.toNat % 4 ≠ 0 then .trap .misaligned t
  else .jump s' (t.setWidth 48)

/-- JR (R154). -/
def execJr (a : GReg) (s : State) : Out :=
  .next (s.issue (.jr a) { g := [a] } fun s => jumpTo s (readG s.me a))
/-- CALLR (R154): the target is read before lk is written. -/
def execCallr (a : GReg) (s : State) : Out :=
  .next (s.issue (.callr a) { g := [a, lk.val] } fun s =>
    jumpTo (s.modMe fun st => writeG st lk (linkAfter st)) (readG s.me a))
/-- RET (R154). -/
def execRet (s : State) : Out :=
  .next (s.issue .ret { g := [lk.val] } fun s => jumpTo s (readG s.me lk))

/-- LOOP (R155). -/
def execLoop (a : GReg) (i : BitVec 16) (s : State) : Out :=
  .next (s.issue (.loop a i) { g := [a] } fun s =>
    let st := s.me
    let n := readG st a
    let off : BitVec 48 := i.setWidth 48 <<< 2
    if n = 0 then .jump s (st.pc + off + 4)
    else .jump (s.modMe fun x => { x with
      lc := n, ls := (st.pc + 4).setWidth 64, le := (st.pc + off).setWidth 64 }) (st.pc + 4))

end Sys2Proof.Machine
end

