-- ==== Sys2Proof/Machine/LoadStore.lean ====
section
/-! DEFINITION. Scalar loads and stores, atomics and FENCE, opcodes 0x20 to 0x2D (R68, R69, R80, R159 to
R169). -/

namespace Sys2Proof.Machine

/-- Base and offset address (R159). -/
def eaOff (st : Strand) (a : GReg) (i : BitVec 16) : Word := readG st a + sx i
/-- Base and index address (R160); `k` is log2 of the size. -/
def eaIdx (st : Strand) (a b : GReg) (scaled : Bool) (k : Nat) : Word :=
  readG st a + (if scaled then readG st b <<< k else readG st b)

/-- A load of `n` bytes (R159). -/
def State.loadForm (s : State) (i : Instr) (u : List Nat) (d : GReg) (ea : Strand → Word) (n : Nat)
    (sg : Bool) : Out :=
  .next (s.issue i { g := u } fun s => s.scalarAccess (ea s.me) n needR .load (some (d, sg)))

/-- A store of the low `n` bytes of a register (R159). -/
def State.storeForm (s : State) (i : Instr) (u : List Nat) (b : GReg) (ea : Strand → Word) (n : Nat) : Out :=
  .next (s.issue i { g := u } fun s =>
    s.scalarAccess (ea s.me) n needW (.store (leBytes n (readG s.me b).toNat)) none)

/-- LDB (R159). -/
def execLdb (d a : GReg) (i : BitVec 16) (s : State) : Out :=
  s.loadForm (.ldb d a i) [d, a] d (fun st => eaOff st a i) 1 true
/-- LDH (R159). -/
def execLdh (d a : GReg) (i : BitVec 16) (s : State) : Out :=
  s.loadForm (.ldh d a i) [d, a] d (fun st => eaOff st a i) 2 true
/-- LDW (R159). -/
def execLdw (d a : GReg) (i : BitVec 16) (s : State) : Out :=
  s.loadForm (.ldw d a i) [d, a] d (fun st => eaOff st a i) 4 true
/-- LDD (R159). -/
def execLdd (d a : GReg) (i : BitVec 16) (s : State) : Out :=
  s.loadForm (.ldd d a i) [d, a] d (fun st => eaOff st a i) 8 false
/-- LDBU (R159). -/
def execLdbu (d a : GReg) (i : BitVec 16) (s : State) : Out :=
  s.loadForm (.ldbu d a i) [d, a] d (fun st => eaOff st a i) 1 false
/-- LDHU (R159). -/
def execLdhu (d a : GReg) (i : BitVec 16) (s : State) : Out :=
  s.loadForm (.ldhu d a i) [d, a] d (fun st => eaOff st a i) 2 false
/-- LDWU (R159). -/
def execLdwu (d a : GReg) (i : BitVec 16) (s : State) : Out :=
  s.loadForm (.ldwu d a i) [d, a] d (fun st => eaOff st a i) 4 false
/-- STB (R159). -/
def execStb (b a : GReg) (i : BitVec 16) (s : State) : Out :=
  s.storeForm (.stb b a i) [b, a] b (fun st => eaOff st a i) 1
/-- STH (R159). -/
def execSth (b a : GReg) (i : BitVec 16) (s : State) : Out :=
  s.storeForm (.sth b a i) [b, a] b (fun st => eaOff st a i) 2
/-- STW (R159). -/
def execStw (b a : GReg) (i : BitVec 16) (s : State) : Out :=
  s.storeForm (.stw b a i) [b, a] b (fun st => eaOff st a i) 4
/-- STD (R159). -/
def execStd (b a : GReg) (i : BitVec 16) (s : State) : Out :=
  s.storeForm (.std b a i) [b, a] b (fun st => eaOff st a i) 8

/-- log2 of the size of an LDX code, and whether it extends the sign (R160). -/
def LdSize.shape : LdSize → Nat × Bool
  | .b => (0, true) | .h => (1, true) | .w => (2, true) | .d => (3, false)
  | .bu => (0, false) | .hu => (1, false) | .wu => (2, false)
/-- log2 of the size of an STX code (R160). -/
def StSize.log : StSize → Nat
  | .b => 0 | .h => 1 | .w => 2 | .d => 3

/-- LDX (R160). -/
def execLdx (d a b : GReg) (z : LdSize) (sc : Bool) (s : State) : Out :=
  s.loadForm (.ldx d a b z sc) [d, a, b] d (fun st => eaIdx st a b sc (LdSize.shape z).1)
    (2 ^ (LdSize.shape z).1) (LdSize.shape z).2
/-- STX (R160): field d is read. -/
def execStx (d a b : GReg) (z : StSize) (sc : Bool) (s : State) : Out :=
  s.storeForm (.stx d a b z sc) [d, a, b] d (fun st => eaIdx st a b sc (StSize.log z)) (2 ^ StSize.log z)

/-! ### Atomics (R80, R165, R166) -/

/-- An atomic with code `op`; on a host page only AADD, ASWP and ACAS are performed. -/
def State.atomicForm (s : State) (i : Instr) (op : Nat) (d a b : GReg) (wide : Bool) : Out :=
  .next (s.issue i { g := [d, a, b] } fun s =>
    let need : Need := { r := true, w := true, atomic := true, hostOk := op == 0 || op == 8 || op == 9 }
    s.scalarAccess (readG s.me a) (if wide then 8 else 4) need
      (.atomic op (readG s.me b) (readG s.me d)) (some (d, false)))

/-- AADD (R166). -/
def execAadd (d a b : GReg) (z : Bool) (s : State) : Out := s.atomicForm (.aadd d a b z) 0 d a b z
/-- AAND (R166). -/
def execAand (d a b : GReg) (z : Bool) (s : State) : Out := s.atomicForm (.aand d a b z) 1 d a b z
/-- AOR (R166). -/
def execAor (d a b : GReg) (z : Bool) (s : State) : Out := s.atomicForm (.aor d a b z) 2 d a b z
/-- AXOR (R166). -/
def execAxor (d a b : GReg) (z : Bool) (s : State) : Out := s.atomicForm (.axor d a b z) 3 d a b z
/-- AMIN (R166). -/
def execAmin (d a b : GReg) (z : Bool) (s : State) : Out := s.atomicForm (.amin d a b z) 4 d a b z
/-- AMAX (R166). -/
def execAmax (d a b : GReg) (z : Bool) (s : State) : Out := s.atomicForm (.amax d a b z) 5 d a b z
/-- AMINU (R166). -/
def execAminu (d a b : GReg) (z : Bool) (s : State) : Out := s.atomicForm (.aminu d a b z) 6 d a b z
/-- AMAXU (R166). -/
def execAmaxu (d a b : GReg) (z : Bool) (s : State) : Out := s.atomicForm (.amaxu d a b z) 7 d a b z
/-- ASWP (R166). -/
def execAswp (d a b : GReg) (z : Bool) (s : State) : Out := s.atomicForm (.aswp d a b z) 8 d a b z
/-- ACAS (R166): g[d] is the expected value. -/
def execAcas (d a b : GReg) (z : Bool) (s : State) : Out := s.atomicForm (.acas d a b z) 9 d a b z
/-- AFADD (R166), of 4 bytes. -/
def execAfadd (d a b : GReg) (s : State) : Out := s.atomicForm (.afadd d a b) 10 d a b false

/-! ### FENCE (R68, R69, R168) -/

/-- Whether an access returns a value to its strand. -/
def AccKind.returns : AccKind → Bool
  | .load => true
  | .store _ => false
  | .atomic _ _ _ => true
  | .barrier _ => true
  | .redlv _ => true
  | .probe _ _ => false

/-- Whether an entry is an access that R65 to R67 order; PROBE's is none (R438). -/
def AccKind.ordered : AccKind → Bool
  | .probe _ _ => false
  | .load => true
  | .store _ => true
  | .atomic _ _ _ => true
  | .barrier _ => true
  | .redlv _ => true

/-- Accesses of strand `n` and its present run that have not been answered. -/
def State.outstanding (s : State) (n : Nat) : List Access :=
  s.acc.filter fun a => a.strand == n && a.run == (s.strand n).run && a.kind.ordered

/-- Whether a FENCE of strand `n` still waits (R168): at STRAND scope it does not; a load or atomic
has not returned; or, for release and full at DEVICE and DOMAIN scope, a store is not acknowledged, or an access that the strand has
acquired from another is not yet performed (R72). -/
def State.fenceWaits (s : State) (n : Nat) (k : FenceKind) (sc : Scope) : Bool :=
  let l := s.outstanding n
  match sc with
  | .strand => false
  | .core => l.any fun a => a.kind.returns
  | .tile => l.any fun a => a.kind.returns
  | .device => (l.any fun a => a.kind.returns || k != .acquire) || (k != .acquire && !(s.releaseSet n).isEmpty)
  | .domain => (l.any fun a => a.kind.returns || k != .acquire) || (k != .acquire && !(s.releaseSet n).isEmpty)

/-- What FENCE acquire and full do: the accesses that a fence of CORE or TILE scope of this tile has released before
they were performed are acquired by the strand (R69, R71). -/
def State.fenceAcquires (s : State) : State :=
  let ids := (s.tile s.myTile).fenced.filterMap fun x =>
    if x.2 = none ∨ x.2 = some s.myCore then some x.1 else none
  s.modMe fun st => { st with acq := (st.acq ++ ids.filter fun i => !st.acq.contains i).filter fun i => !s.released [i] }

/-- What FENCE release and full of CORE or TILE scope do: the strand's accesses that are not yet performed are ordered
for the parties of the scope (R69, R70). -/
def State.fenceReleases (s : State) (sc : Scope) : State :=
  let core := if sc = .core then some s.myCore else none
  s.modTile s.myTile fun t =>
    { t with fenced := (t.fenced.filter fun x => !s.released [x.1]) ++ (s.releaseSet s.cur).map fun i => (i, core) }

/-- What a completed FENCE does. -/
def State.fenced (s : State) (k : FenceKind) (sc : Scope) : State :=
  let s := if k = .release ∨ sc = .strand then s else s.fenceAcquires
  if k ≠ .acquire ∧ (sc = .core ∨ sc = .tile) then s.fenceReleases sc else s

/-- FENCE (R168). -/
def execFence (k : FenceKind) (sc : Scope) (s : State) : Out :=
  .next (s.issue (.fence k sc) {} fun s => if s.fenceWaits s.cur k sc then .hold .fence else .go (s.fenced k sc))

end Sys2Proof.Machine
end

