-- ==== Sys2Proof/Machine/Transc.lean ====
section
/-! DEFINITION. The special functions of R200 as data that round to the correctly rounded result.

Outside the exact cases each value is known to 240 bits or more and carries a sticky bit below them;
no value of these functions on an FP32, BF16 or FP16 argument lies that close to a point where the
rounding changes (assumption log 9). -/

namespace Sys2Proof.Machine

/-- Fraction bits of the fixed-point numbers used here. -/
def fxBits : Nat := 256
/-- 1 in fixed point. -/
def fxOne : Nat := 2 ^ 256
/-- ln 2 in fixed point, rounded down. -/
def fxLn2 : Nat := 0xb17217f7d1cf79abc9e3b39803f2f6af40f343267298b62d8a0d175b8baafa2b

/-- The tail of the exponential series from `term = y^k / k!` on. -/
def fxExpFrom (y : Nat) : Nat → Nat → Nat → Nat
  | 0, _, _ => 0
  | fuel + 1, k, term => term + fxExpFrom y fuel (k + 1) (term * y / fxOne / (k + 1))

/-- e^y for y below 1. -/
def fxExp (y : Nat) : Nat := fxExpFrom y 70 0 fxOne

/-- The tail of the series of atanh z: the terms `z^k / k` for odd k. -/
def fxAtanhFrom (zz : Nat) : Nat → Nat → Nat → Nat
  | 0, _, _ => 0
  | fuel + 1, k, power => power / k + fxAtanhFrom zz fuel (k + 2) (power * zz / fxOne)

/-- log2 of a number in 1 .. 2. -/
def fxLog2 (m : Nat) : Nat :=
  let z := (m - fxOne) * fxOne / (m + fxOne)
  2 * fxAtanhFrom (z * z / fxOne) 90 1 z * fxOne / fxLn2

/-- The magnitude `v × 2^e` and a little more. -/
def above (neg : Bool) (v : Nat) (e : Int) : FNum := .fin neg (2 * v + 1) (e - 1)
/-- A little less than the magnitude `m × 2^e`. -/
def justBelow (neg : Bool) (m : Nat) (e : Int) : FNum := .fin neg (m * 2 ^ 40 - 1) (e - 40)

/-- The magnitude `m × 2^e` in fixed point, rounded down. -/
def toFx (m : Nat) (e : Int) : Nat :=
  if 0 ≤ e + 256 then m * 2 ^ (e + 256).toNat else m / 2 ^ (-(e + 256)).toNat

/-- The position of the leading bit of `m × 2^e`, 0 for the value 1. -/
def leading (m : Nat) (e : Int) : Int := (Nat.log2 m : Int) + e

/-- 2^x. -/
def exp2Val (n : Bool) (m : Nat) (e : Int) : FNum :=
  if m = 0 then .fin false 1 0
  else if leading m e < -40 then
    (if n then justBelow false 1 0 else above false (2 ^ 60) (-60))
  else if 10 ≤ leading m e then above false 1 (if n then -3000 else 3000)
  else
    let v := toFx m e
    let whole := v / fxOne
    let frac := v % fxOne
    let k : Int := if n then (if frac = 0 then -(whole : Int) else -(whole : Int) - 1) else whole
    let f := if n && frac != 0 then fxOne - frac else frac
    if frac = 0 then .fin false 1 k
    else above false (fxExp (f * fxLn2 / fxOne)) (k - 256)

/-- log2 of a positive number. -/
def log2Val (m : Nat) (e : Int) : FNum :=
  let k := leading m e
  let unit := toFx m (e - k)
  if unit = fxOne then FNum.ofInt k
  else
    let l := k * (fxOne : Int) + (fxLog2 unit : Int)
    above (decide (l < 0)) l.natAbs (-256)

/-- 1/x. -/
def rcpVal (n : Bool) (m : Nat) (e : Int) : FNum :=
  let q := 2 ^ 300 / m
  .fin n (2 * q + (if q * m = 2 ^ 300 then 0 else 1)) (-e - 301)

/-- The integer square root, bit by bit from bit `k`. -/
def isqrtFrom (v : Nat) : Nat → Nat → Nat
  | 0, r => r
  | k + 1, r => isqrtFrom v k (if (r + 2 ^ k) * (r + 2 ^ k) ≤ v then r + 2 ^ k else r)

/-- 1/√x of a positive number. -/
def rsqVal (m : Nat) (e : Int) : FNum :=
  let odd := e % 2 = 1
  let m := if odd then 2 * m else m
  let e := if odd then e - 1 else e
  let q := 2 ^ 600 / m
  let r := isqrtFrom q 301 0
  .fin false (2 * r + (if r * r * m = 2 ^ 600 then 0 else 1)) (-(e / 2) - 301)

/-- e^-z for z at least 0, as `w × 2^(-256 - k)` with w near fxOne. -/
def expNeg (m : Nat) (e : Int) : Nat × Nat :=
  let z := toFx m e
  let k := z / fxLn2 + 1
  (fxExp (k * fxLn2 - z), k)

/-- tanh x. -/
def tanhVal (n : Bool) (m : Nat) (e : Int) : FNum :=
  if m = 0 then .fin n 0 0
  else if leading m e < -20 then justBelow n m e
  else if 6 ≤ leading m e then justBelow n 1 0
  else
    let (w, k) := expNeg m (e + 1)
    let u := w / 2 ^ k
    above n ((fxOne - u) * fxOne / (fxOne + u)) (-256)

/-- 1/(1 + e^-x). -/
def sigVal (n : Bool) (m : Nat) (e : Int) : FNum :=
  if m = 0 then .fin false 1 (-1)
  else if leading m e < -40 then
    (if n then justBelow false 1 (-1) else above false (2 ^ 60) (-61))
  else if 10 ≤ leading m e then (if n then above false 1 (-3000) else justBelow false 1 0)
  else
    let (w, k) := expNeg m e
    if n then above false (w * fxOne / (fxOne + w / 2 ^ k)) (-256 - (k : Int))
    else if 7 ≤ leading m e then justBelow false 1 0
    else above false (fxOne * fxOne / (fxOne + w / 2 ^ k)) (-256)

/-- Function `fn` of R200 (0 VEXP2, 1 VLOG2, 2 VRCP, 3 VRSQ, 4 VTANH, 5 VSIG) with the special values
and flags of its table. -/
def specialVal (fn : Nat) (x : FNum) : FNum × BitVec 5 :=
  match x with
  | .nan s => (.nan false, flagIf s flagNV)
  | .inf n =>
    match fn with
    | 0 => (if n then .fin false 0 0 else .inf false, flagNone)
    | 1 => if n then (.nan false, flagNV) else (.inf false, flagNone)
    | 2 => (.fin n 0 0, flagNone)
    | 3 => if n then (.nan false, flagNV) else (.fin false 0 0, flagNone)
    | 4 => (.fin n 1 0, flagNone)
    | _ => (if n then .fin false 0 0 else .fin false 1 0, flagNone)
  | .fin n m e =>
    match fn with
    | 0 => (exp2Val n m e, flagNone)
    | 1 => if m = 0 then (.inf true, flagDZ) else if n then (.nan false, flagNV) else (log2Val m e, flagNone)
    | 2 => if m = 0 then (.inf n, flagDZ) else (rcpVal n m e, flagNone)
    | 3 => if m = 0 then (.inf n, flagDZ) else if n then (.nan false, flagNV) else (rsqVal m e, flagNone)
    | 4 => (tanhVal n m e, flagNone)
    | _ => (sigVal n m e, flagNone)

/-- A special function of an element of format `f`, with its flags (R200). -/
def specialBits (f : Fmt) (fn : Nat) (rm : BitVec 2) (fz : Bool) (bits : Nat) : Nat × BitVec 5 :=
  let (y, fl) := specialVal fn (flushIn f fz bits)
  let (b, fl') := roundFmt f rm fz y
  (b, fl ||| fl')

end Sys2Proof.Machine
end

