-- ==== Sys2Proof/Machine/Lanes.lean ====
section
/-! DEFINITION. Elements of vector registers: lanes, masks, runs, and what one element of each
vector operation gives (R29, R84, R175 to R178, R181, R183, R184, R195 to R199, R206, R207). -/

namespace Sys2Proof.Machine

/-! ### Lanes (R29, R176, R177) -/

/-- The format of a floating-point element type. -/
def VType.fmt : VType → Fmt
  | .bf16 => .bf16
  | .f16 => .f16
  | .f32 => .f32
  | .df8 => .f32
  | .i32 => .f32
  | .i16 => .f32
  | .i8 => .f32
  | .rns => .f32

/-- The elements of one vector register read in a type. -/
def lanesOf (t : VType) (v : VecWord) : List Nat :=
  (List.range (VType.lanes t)).map fun j => v.toNat / 2 ^ (VType.bits t * j) % 2 ^ VType.bits t

/-- A vector register with these elements of `n` bits. -/
def packLanes (n : Nat) : List Nat → Nat
  | [] => 0
  | x :: r => x % 2 ^ n + 2 ^ n * packLanes n r

/-- The vector with these elements in a type. -/
def vecOf (t : VType) (l : List Nat) : VecWord := BitVec.ofNat 512 (packLanes (VType.bits t) l)

/-- A vector register by number; a number past w15 is never asked for. -/
def wAt (st : Strand) (k : Nat) : VecWord := st.w.toList.getD k 0

/-- The elements of a run of registers. -/
def runLanes (st : Strand) (t : VType) (r : WReg) (n : Nat) : List Nat :=
  ((List.range n).map fun i => lanesOf t (wAt st (r.val + i))).flatten

/-- The strand with a run of registers written from a list of elements. -/
def writeRun (st : Strand) (t : VType) (r : WReg) (l : List Nat) : Strand :=
  let parts := chunks (VType.lanes t) (l.length / VType.lanes t) l
  { st with w := Vector.ofFn fun i : Fin 16 =>
      if r.val ≤ i.val then
        match parts[i.val - r.val]? with
        | some p => vecOf t p
        | none => st.w[i]
      else st.w[i] }

/-- Whether element `j` of `e` is enabled by a mask (R177). -/
def enabled (m : MaskWord) (e j : Nat) : Bool := m.getLsbD (j * 16 / e)

/-- Elements replaced where they are enabled. -/
def maskInto (m : MaskWord) (old new : List Nat) : List Nat :=
  (List.range old.length).map fun j =>
    if enabled m old.length j then new.getD j 0 else old.getD j 0

/-- An elementwise result: the value of every element and the flags of the enabled ones. -/
def eachLane (m : MaskWord) (e : Nat) (f : Nat → Nat × BitVec 5) : List Nat × BitVec 5 :=
  let rs := (List.range e).map f
  (rs.map (·.1), ((List.range e).filter (enabled m e)).foldl
    (fun fl j => fl ||| (rs.getD j (0, 0)).2) flagNone)

/-! ### Arithmetic of one element (R181) -/

/-- The operations of opcode 0x38. -/
inductive VArith where
  | add | sub | mul | fma | min | max | abs | neg
  deriving DecidableEq, Repr

/-- An integer element: SAT clamps the exact value, else it wraps. -/
def intResult (n : Nat) (sat : Bool) (t : Int) : Nat :=
  if sat then wrap n (clampInt t (-(2 : Int) ^ (n - 1)) ((2 : Int) ^ (n - 1) - 1)) else wrap n t

/-- An integer element of an operation; `u` reads the values unsigned. -/
def intArith (op : VArith) (n : Nat) (sat u : Bool) (x y z : Nat) : Nat :=
  let r := fun v : Nat => if u then ((v % 2 ^ n : Nat) : Int) else sextNat n v
  match op with
  | .add => intResult n sat (r x + r y)
  | .sub => intResult n sat (r x - r y)
  | .mul => intResult n sat (r x * r y)
  | .fma => intResult n sat (r z + r x * r y)
  | .min => wrap n (if r x ≤ r y then r x else r y)
  | .max => wrap n (if r x ≤ r y then r y else r x)
  | .abs => intResult n sat (if r x < 0 then -r x else r x)
  | .neg => intResult n sat (-r x)

/-- A residue element. -/
def rnsArith (op : VArith) (x y : Nat) : Nat :=
  match op with
  | .add => rnsAdd x y
  | .sub => rnsSub x y
  | .mul => rnsMul x y
  | .neg => rnsNeg x
  | .fma => rnsCanon x
  | .min => rnsCanon x
  | .max => rnsCanon x
  | .abs => rnsCanon x

/-- A floating-point element. -/
def fpArith (st : Strand) (f : Fmt) (op : VArith) (x y z : Nat) : Nat × BitVec 5 :=
  let x := flushIn f st.fz x
  let y := flushIn f st.fz y
  let z := flushIn f st.fz z
  let fin := fun (v : FNum × BitVec 5) =>
    let r := roundFmt f st.rm st.fz v.1
    (r.1, v.2 ||| r.2)
  let exact := fun (v : FNum × BitVec 5) => (exactBits f v.1, v.2)
  match op with
  | .add => fin (x.add st.down y)
  | .sub => fin (x.add st.down y.neg)
  | .mul => fin (x.mul y)
  | .fma => fin (FNum.fma st.down z x y)
  | .min => exact (minMaxNum false x y)
  | .max => exact (minMaxNum true x y)
  | .abs => exact (x.abs, flagIf x.isSnan flagNV)
  | .neg => exact (x.neg, flagIf x.isSnan flagNV)

/-- One element of an arithmetic instruction. -/
def vArith (st : Strand) (t : VType) (op : VArith) (sat u : Bool) (x y z : Nat) : Nat × BitVec 5 :=
  match t with
  | .f32 => fpArith st .f32 op x y z
  | .bf16 => fpArith st .bf16 op x y z
  | .f16 => fpArith st .f16 op x y z
  | .i32 => (intArith op 32 sat u x y z, flagNone)
  | .i16 => (intArith op 16 sat u x y z, flagNone)
  | .i8 => (intArith op 8 sat u x y z, flagNone)
  | .rns => (rnsArith op x y, flagNone)
  | .df8 => (x, flagNone)

/-! ### Comparison (R184) -/

/-- One element of VCMP. -/
def vCompare (st : Strand) (t : VType) (c x y : Nat) : Bool × BitVec 5 :=
  if VType.isFp t then fpCompare c (flushIn (VType.fmt t) st.fz x) (flushIn (VType.fmt t) st.fz y)
  else if VType.isInt t then
    let n := VType.bits t
    (match c with
      | 0 => x == y
      | 1 => x != y
      | 2 => decide (sextNat n x < sextNat n y)
      | 3 => decide (sextNat n x ≤ sextNat n y)
      | 5 => decide (x < y)
      | _ => decide (x ≤ y), flagNone)
  else (if c = 0 then rnsCanon x == rnsCanon y else rnsCanon x != rnsCanon y, flagNone)

/-- The mask VCMP writes: one bit for each group of elements, their AND or with ANY their OR; a bit
whose governing bit is 0 keeps its value. -/
def compareMask (old m : MaskWord) (e : Nat) (any : Bool) (r : Nat → Bool) : MaskWord :=
  let k := e / 16
  (List.range 16).foldl (fun acc i =>
    if !m.getLsbD i then acc
    else
      let g := (List.range k).map fun q => r (k * i + q)
      let b := if any then g.any id else g.all id
      (acc &&& ~~~ (1#16 <<< i)) ||| (if b then 1#16 <<< i else 0)) old

/-! ### Conversion (R195, R196, R198, R199) -/

/-- The exact value of an element as a conversion reads it. -/
def vSource (st : Strand) (t : VType) (x : Nat) : FNum :=
  match t with
  | .f32 => flushIn .f32 st.fz x
  | .bf16 => flushIn .bf16 st.fz x
  | .f16 => flushIn .f16 st.fz x
  | .df8 => decodeDf8 x
  | .i32 => FNum.ofInt (sextNat 32 x)
  | .i16 => FNum.ofInt (sextNat 16 x)
  | .i8 => FNum.ofInt (sextNat 8 x)
  | .rns => FNum.ofInt 0

/-- A value rounded into an element type, with its flags. -/
def vTarget (st : Strand) (t : VType) (x : FNum) : Nat × BitVec 5 :=
  let nv := flagIf x.isSnan flagNV
  match t with
  | .f32 => let r := roundFmt .f32 st.rm st.fz x; (r.1, r.2 ||| nv)
  | .bf16 => let r := roundFmt .bf16 st.rm st.fz x; (r.1, r.2 ||| nv)
  | .f16 => let r := roundFmt .f16 st.rm st.fz x; (r.1, r.2 ||| nv)
  | .df8 => let r := toDf8 x; (r.1, r.2 ||| nv)
  | .i32 => let r := toInt x 32 st.rm; (wrap 32 r.1, r.2)
  | .i16 => let r := toInt x 16 st.rm; (wrap 16 r.1, r.2)
  | .i8 => let r := toInt x 8 st.rm; (wrap 8 r.1, r.2)
  | .rns => (0, flagNone)

/-- One element of VCVT: an integer into an integer is clamped without a flag. -/
def vConvert (st : Strand) (t s : VType) (x : Nat) : Nat × BitVec 5 :=
  if VType.isInt s && VType.isInt t then
    let n := VType.bits t
    (wrap n (clampInt (sextNat (VType.bits s) x) (-(2 : Int) ^ (n - 1)) ((2 : Int) ^ (n - 1) - 1)), flagNone)
  else vTarget st t (vSource st s x)

/-- One element of VTORNS. -/
def toRns (t : VType) (x : Nat) : Nat × BitVec 5 :=
  let v := sextNat (VType.bits t) x
  let c := clampInt v (-8388480) 8388479
  (rnsOfInt c, flagIf (c != v) flagNV)

/-- One element of VQNT. -/
def vQuant (st : Strand) (t : VType) (x scale : Nat) : Nat × BitVec 5 :=
  let p := (flushIn .f32 st.fz x).mul (flushIn .f32 st.fz scale)
  let r := vTarget st t p.1
  (r.1, p.2 ||| r.2)

/-- One element of VADDQ. -/
def vAddq (st : Strand) (t : VType) (k x y : Nat) : Nat × BitVec 5 :=
  let a := (vSource st t x).add st.down (vSource st t y)
  let r := vTarget st t (a.1.scale (-(k : Int)))
  (r.1, a.2 ||| r.2)

/-! ### Ranking (R206) -/

/-- A number that rises with the rank of an element: NaN above all, +0 above −0. -/
def rankKey (st : Strand) (t : VType) (u : Bool) (x : Nat) : Int :=
  if VType.isFp t then
    let f := VType.fmt t
    let v := flushIn f st.fz x
    if v.isNan then 2 ^ 40
    else
      let b := exactBits f v
      let h := 2 ^ (VType.bits t - 1)
      if b < h then (b : Int) else -((b - h : Nat) : Int) - 1
  else if u then x else sextNat (VType.bits t) x

/-- An entry put behind every entry that ranks at least as high. -/
def rankInsert (e : Int × Nat) : List (Int × Nat) → List (Int × Nat)
  | [] => [e]
  | x :: r => if x.1 < e.1 then e :: x :: r else x :: rankInsert e r

/-- The indices of the enabled elements, ranked. -/
def ranked (st : Strand) (t : VType) (u : Bool) (m : MaskWord) (xs : List Nat) : List Nat :=
  (((List.range xs.length).filter (enabled m xs.length)).foldl
    (fun l j => rankInsert (rankKey st t u (xs.getD j 0), j) l) []).map (·.2)

/-- The value VTOPK writes for an element. -/
def rankValue (st : Strand) (t : VType) (x : Nat) : Nat :=
  if VType.isFp t then exactBits (VType.fmt t) (flushIn (VType.fmt t) st.fz x) else x

/-! ### Random numbers (R55) -/

/-- One round of Philox4x32. -/
def philoxRound (c : Nat × Nat × Nat × Nat) (k0 k1 : Nat) : Nat × Nat × Nat × Nat :=
  let (c0, c1, c2, c3) := c
  let p := 0xD2511F53 * c0
  let q := 0xCD9E8D57 * c2
  ((q / 2 ^ 32) ^^^ c1 ^^^ k0, q % 2 ^ 32, (p / 2 ^ 32) ^^^ c3 ^^^ k1, p % 2 ^ 32)

/-- Philox4x32 with `n` rounds. -/
def philox : Nat → Nat × Nat × Nat × Nat → Nat → Nat → Nat × Nat × Nat × Nat
  | 0, c, _, _ => c
  | n + 1, c, k0, k1 =>
    philox n (philoxRound c k0 k1) ((k0 + 0x9E3779B9) % 2 ^ 32) ((k1 + 0xBB67AE85) % 2 ^ 32)

/-- The 16 words of one draw. -/
def drawLanes (ctr stream : Word) (k0 k1 : Nat) : List Nat :=
  ((List.range 4).map fun b =>
    let c := (ctr.toNat + b) % 2 ^ 64
    let (u0, u1, u2, u3) := philox 10 (c % 2 ^ 32, c / 2 ^ 32, stream.toNat % 2 ^ 32,
      stream.toNat / 2 ^ 32) k0 k1
    [u0, u1, u2, u3]).flatten

end Sys2Proof.Machine
end

