-- ==== Sys2Proof/Machine/Vector.lean ====
section
/-! DEFINITION. The vector instructions that stay within the strand: opcodes 0x38 to 0x3B, 0x3D, and those
of 0x3E that are not special functions (R180 to R188, R195 to R199, R203 to R209). -/

namespace Sys2Proof.Machine

/-! ### Forms -/

/-- An elementwise form of one register per operand: element `j` of `d` receives `f j`, where the mask
enables it, and the flags are merged. -/
def State.laneForm (s : State) (i : Instr) (u : Uses) (d : WReg) (m : MReg) (t : VType)
    (f : Strand → Nat → Nat × BitVec 5) : Out :=
  .next (s.issue i u fun s =>
    let st := s.me
    let mask := readM st m
    let e := VType.lanes t
    let (r, fl) := eachLane mask e (f st)
    .go (s.modMe fun x => mergeFlags (writeW x d (vecOf t (maskInto mask (lanesOf t (readW st d)) r))) fl))

/-- The uses of a form with a destination and two sources. -/
def uses3 (d a b : WReg) : Uses := { w := [d.val, a.val, b.val] }
/-- The uses of a form with a destination and one source. -/
def uses2 (d a : WReg) : Uses := { w := [d.val, a.val] }

/-- Element `j` of a register in a type. -/
def laneAt (st : Strand) (t : VType) (r : WReg) (j : Nat) : Nat :=
  (readW st r).toNat / 2 ^ (VType.bits t * j) % 2 ^ VType.bits t

/-- An arithmetic form of opcode 0x38 (R181). -/
def State.arithForm (s : State) (i : Instr) (us : Uses) (op : VArith) (d a b : WReg) (m : MReg) (t : VType)
    (sat u : Bool) : Out :=
  s.laneForm i us d m t fun st j =>
    vArith st t op sat u (laneAt st t a j) (laneAt st t b j) (laneAt st t d j)

/-- VADD (R181). -/
def execVadd (d a b : WReg) (m : MReg) (t : VType) (sat : Bool) (s : State) : Out :=
  s.arithForm (.vadd d a b m t sat) (uses3 d a b) .add d a b m t sat false
/-- VSUB (R181). -/
def execVsub (d a b : WReg) (m : MReg) (t : VType) (sat : Bool) (s : State) : Out :=
  s.arithForm (.vsub d a b m t sat) (uses3 d a b) .sub d a b m t sat false
/-- VMUL (R181). -/
def execVmul (d a b : WReg) (m : MReg) (t : VType) (sat : Bool) (s : State) : Out :=
  s.arithForm (.vmul d a b m t sat) (uses3 d a b) .mul d a b m t sat false
/-- VFMA (R181): vd is the addend. -/
def execVfma (d a b : WReg) (m : MReg) (t : VType) (sat : Bool) (s : State) : Out :=
  s.arithForm (.vfma d a b m t sat) (uses3 d a b) .fma d a b m t sat false
/-- VMIN (R181). -/
def execVmin (d a b : WReg) (m : MReg) (t : VType) (u : Bool) (s : State) : Out :=
  s.arithForm (.vmin d a b m t u) (uses3 d a b) .min d a b m t false u
/-- VMAX (R181). -/
def execVmax (d a b : WReg) (m : MReg) (t : VType) (u : Bool) (s : State) : Out :=
  s.arithForm (.vmax d a b m t u) (uses3 d a b) .max d a b m t false u
/-- VABS (R181). -/
def execVabs (d a : WReg) (m : MReg) (t : VType) (sat : Bool) (s : State) : Out :=
  s.arithForm (.vabs d a m t sat) (uses2 d a) .abs d a a m t sat false
/-- VNEG (R181). -/
def execVneg (d a : WReg) (m : MReg) (t : VType) (sat : Bool) (s : State) : Out :=
  s.arithForm (.vneg d a m t sat) (uses2 d a) .neg d a a m t sat false

/-- A logical form of opcode 0x39 (R182). -/
def State.logicForm (s : State) (i : Instr) (d a b : WReg) (m : MReg) (t : VType) (f : Nat → Nat → Nat) : Out :=
  s.laneForm i (uses3 d a b) d m t fun st j => (f (laneAt st t a j) (laneAt st t b j), flagNone)

/-- VAND (R182). -/
def execVand (d a b : WReg) (m : MReg) (t : VType) (s : State) : Out :=
  s.logicForm (.vand d a b m t) d a b m t (· &&& ·)
/-- VOR (R182). -/
def execVor (d a b : WReg) (m : MReg) (t : VType) (s : State) : Out :=
  s.logicForm (.vor d a b m t) d a b m t (· ||| ·)
/-- VXOR (R182). -/
def execVxor (d a b : WReg) (m : MReg) (t : VType) (s : State) : Out :=
  s.logicForm (.vxor d a b m t) d a b m t (· ^^^ ·)

/-- VSHL (R183): a count of the width or more gives 0. -/
def execVshl (d a b : WReg) (m : MReg) (t : VType) (s : State) : Out :=
  s.logicForm (.vshl d a b m t) d a b m t fun x c =>
    if VType.bits t ≤ c then 0 else x * 2 ^ c % 2 ^ VType.bits t
/-- VSHR (R183). -/
def execVshr (d a b : WReg) (m : MReg) (t : VType) (s : State) : Out :=
  s.logicForm (.vshr d a b m t) d a b m t fun x c => if VType.bits t ≤ c then 0 else x / 2 ^ c
/-- VSAR (R183). -/
def execVsar (d a b : WReg) (m : MReg) (t : VType) (s : State) : Out :=
  s.logicForm (.vsar d a b m t) d a b m t fun x c =>
    let v := sextNat (VType.bits t) x
    wrap (VType.bits t) (if VType.bits t ≤ c then (if v < 0 then -1 else 0) else v / (2 : Int) ^ c)

/-- VCMP (R184). -/
def execVcmp (d : MReg) (a b : WReg) (m : MReg) (t : VType) (y : Bool) (c : BitVec 3) (s : State) : Out :=
  .next (s.issue (.vcmp d a b m t y c) { w := [a.val, b.val] } fun s =>
    let st := s.me
    let e := VType.lanes t
    let mask := readM st m
    let r := fun j => vCompare st t c.toNat (laneAt st t a j) (laneAt st t b j)
    let fl := ((List.range e).filter (enabled mask e)).foldl (fun fl j => fl ||| (r j).2) flagNone
    .go (s.modMe fun x =>
      mergeFlags (writeM x d (compareMask (readM st d) mask e y fun j => (r j).1)) fl))

/-- VSEL (R185). -/
def execVsel (d a b : WReg) (sel : MReg) (t : VType) (s : State) : Out :=
  .next (s.issue (.vsel d a b sel t) (uses3 d a b) fun s =>
    let st := s.me
    let e := VType.lanes t
    .go (s.modMe fun x => writeW x d (vecOf t ((List.range e).map fun j =>
      if enabled (readM st sel) e j then laneAt st t a j else laneAt st t b j))))

/-- VMOV (R186). -/
def execVmov (d a : WReg) (m : MReg) (t : VType) (s : State) : Out :=
  s.laneForm (.vmov d a m t) (uses2 d a) d m t fun st j => (laneAt st t a j, flagNone)
/-- VBCAST (R186). -/
def execVbcast (d : WReg) (a : GReg16) (m : MReg) (t : VType) (s : State) : Out :=
  s.laneForm (.vbcast d a m t) { g := [a.val], w := [d.val] } d m t fun st _ =>
    ((readG st (g16 a)).toNat % 2 ^ VType.bits t, flagNone)

/-- VEXT (R187). -/
def execVext (d : GReg16) (a : WReg) (b : GReg16) (t : VType) (u : Bool) (s : State) : Out :=
  .next (s.issue (.vext d a b t u) { g := [d.val, b.val], w := [a.val] } fun s =>
    let st := s.me
    let v := laneAt st t a ((readG st (g16 b)).toNat % VType.lanes t)
    s.putG (g16 d) (if u then BitVec.ofNat 64 v else sextW (VType.bits t) v))
/-- VINS (R187). -/
def execVins (d : WReg) (a b : GReg16) (t : VType) (s : State) : Out :=
  .next (s.issue (.vins d a b t) { g := [a.val, b.val], w := [d.val] } fun s =>
    let st := s.me
    let i := (readG st (g16 b)).toNat % VType.lanes t
    .go (s.modMe fun x => writeW x d (setBytes (readW st d) (i * (VType.bits t / 8)) (VType.bits t / 8)
      (readG st (g16 a)).toNat)))

/-- A form on masks only (R188). -/
def State.maskForm (s : State) (i : Instr) (d : MReg) (f : Strand → MaskWord) : Out :=
  .next (s.issue i {} fun s => .go (s.modMe fun x => writeM x d (f s.me)))
/-- MAND (R188). -/
def execMand (d a b : MReg) (s : State) : Out := s.maskForm (.mand d a b) d fun st => readM st a &&& readM st b
/-- MOR (R188). -/
def execMor (d a b : MReg) (s : State) : Out := s.maskForm (.mor d a b) d fun st => readM st a ||| readM st b
/-- MNOT (R188). -/
def execMnot (d a : MReg) (s : State) : Out := s.maskForm (.mnot d a) d fun st => ~~~ readM st a
/-- MPOP (R188). -/
def execMpop (d : GReg16) (a : MReg) (s : State) : Out :=
  .next (s.issue (.mpop d a) { g := [d.val] } fun s =>
    s.putG (g16 d) (BitVec.ofNat 64 (popc64 ((readM s.me a).setWidth 64))))

/-! ### Conversion -/

/-- Registers in a run of `e` elements of a type. -/
def regsFor (t : VType) (e : Nat) : Nat := e / VType.lanes t

/-- A form that reads a run of one type and writes a run of another, `e` elements in all. -/
def State.runForm (s : State) (i : Instr) (d a : WReg) (m : MReg) (t src : VType) (e : Nat)
    (f : Strand → Nat → Nat × BitVec 5) : Out :=
  .next (s.issue i { w := run d.val (regsFor t e) ++ run a.val (regsFor src e) } fun s =>
    let st := s.me
    let mask := readM st m
    let xs := runLanes st src a (regsFor src e)
    let (r, fl) := eachLane mask e fun j => f st (xs.getD j 0)
    .go (s.modMe fun x =>
      mergeFlags (writeRun x t d (maskInto mask (runLanes st t d (regsFor t e)) r)) fl))

/-- VCVT (R195). -/
def execVcvt (d a : WReg) (m : MReg) (t src : VType) (s : State) : Out :=
  s.runForm (.vcvt d a m t src) d a m t src (max (VType.lanes t) (VType.lanes src)) fun st x =>
    vConvert st t src x
/-- VTORNS (R196). -/
def execVtorns (d a : WReg) (m : MReg) (t : VType) (s : State) : Out :=
  s.runForm (.vtorns d a m t) d a m .rns t (VType.lanes t) fun _ x => toRns t x

/-- A form that writes the 16 lanes of position `p` (R197, R198). -/
def State.positionForm (s : State) (i : Instr) (d a : WReg) (b : GReg16) (m : MReg) (t : VType)
    (p : BitVec 2) (f : Strand → Nat → Nat → Nat × BitVec 5) : Out :=
  .next (s.issue i { g := [b.val], w := [d.val, a.val] } fun s =>
    let st := s.me
    let mask := readM st m
    let scale := (readG st (g16 b)).toNat % 2 ^ 32
    let (r, fl) := eachLane mask 16 fun j => f st (laneAt st .f32 a j) scale
    let l := (List.range (VType.lanes t)).map fun j =>
      if 16 * p.toNat ≤ j ∧ j < 16 * p.toNat + 16 ∧ enabled mask 16 (j - 16 * p.toNat) then
        r.getD (j - 16 * p.toNat) 0
      else laneAt st t d j
    .go (s.modMe fun x => mergeFlags (writeW x d (vecOf t l)) fl))

/-- The exit format of a VFRNS target (R197). -/
def exitOf : VType → ExitFmt
  | .f32 => .f32
  | .bf16 => .bf16
  | .i8 => .i8
  | .f16 => .f32
  | .df8 => .f32
  | .i32 => .f32
  | .i16 => .f32
  | .rns => .f32

/-- VFRNS (R197). -/
def execVfrns (d a : WReg) (b : GReg16) (m : MReg) (t : VType) (p : BitVec 2) (s : State) : Out :=
  s.positionForm (.vfrns d a b m t p) d a b m t p fun _ x scale =>
    let r := exitConvert x scale (exitOf t)
    (r.code, flagIf r.poisoned flagNV)
/-- VQNT (R198). -/
def execVqnt (d a : WReg) (b : GReg16) (m : MReg) (t : VType) (p : BitVec 2) (s : State) : Out :=
  s.positionForm (.vqnt d a b m t p) d a b m t p fun st x scale => vQuant st t x scale
/-- VADDQ (R199). -/
def execVaddq (d a b : WReg) (m : MReg) (t : VType) (k : BitVec 4) (s : State) : Out :=
  s.laneForm (.vaddq d a b m t k) (uses3 d a b) d m t fun st j =>
    vAddq st t k.toNat (laneAt st t a j) (laneAt st t b j)

/-! ### Reduce, scan, permute (R203 to R206) -/

/-- The operation of VRED and VSCAN. -/
def redOp (o : BitVec 2) : VArith := if o = 0 then .add else if o = 1 then .min else .max

/-- The canonical NaN of a floating-point type, the extreme of an integer type, or zero: the identity of
an operation (R203, R204). -/
def identity (t : VType) (o : BitVec 2) (u : Bool) : Nat :=
  let n := VType.bits t
  if o = 0 then 0
  else if VType.isFp t then (VType.fmt t).nanBits
  else if u then (if o = 1 then 2 ^ n - 1 else 0)
  else (if o = 1 then 2 ^ (n - 1) - 1 else 2 ^ (n - 1))

/-- One level of the pairwise tree of R53. -/
def pairSum (f : Nat → Nat → Nat × BitVec 5) : List Nat → List Nat × BitVec 5
  | x :: y :: r =>
    let (v, fl) := f x y
    let (l, fl') := pairSum f r
    (v :: l, fl ||| fl')
  | [x] => ([x], flagNone)
  | [] => ([], flagNone)

/-- The tree of R53. -/
def treeSum (f : Nat → Nat → Nat × BitVec 5) : Nat → List Nat → Nat × BitVec 5
  | 0, l => (l.getD 0 0, flagNone)
  | k + 1, l =>
    let (l, fl) := pairSum f l
    let (v, fl') := treeSum f k l
    (v, fl ||| fl')

/-- A fold of one operation over elements, with its flags. -/
def foldElems (f : Nat → Nat → Nat × BitVec 5) (start : Nat) (l : List Nat) : Nat × BitVec 5 :=
  l.foldl (fun acc x => let r := f acc.1 x; (r.1, acc.2 ||| r.2)) (start, flagNone)

/-- VRED (R203). -/
def execVred (d a : WReg) (m : MReg) (t : VType) (u : Bool) (o : BitVec 2) (s : State) : Out :=
  .next (s.issue (.vred d a m t u o) (uses2 d a) fun s =>
    let st := s.me
    let e := VType.lanes t
    let mask := readM st m
    let op := fun x y => vArith st t (redOp o) false u x y 0
    let on := (List.range e).filter (enabled mask e)
    let (v, fl) :=
      if o = 0 then treeSum op 6 ((List.range e).map fun j => if enabled mask e j then laneAt st t a j else 0)
      else foldElems op (identity t o u) (on.map (laneAt st t a))
    .go (s.modMe fun x => mergeFlags (writeW x d (BitVec.ofNat 512 (v % 2 ^ VType.bits t))) fl))

/-- The elements of a scan from element `j` on: the value each enabled element receives. -/
def scanFrom (f : Nat → Nat → Nat × BitVec 5) (on : Nat → Bool) (excl : Bool) (old : Nat → Nat) :
    Nat → Nat → Nat → List Nat → List Nat × BitVec 5
  | 0, _, _, _ => ([], flagNone)
  | _ + 1, _, _, [] => ([], flagNone)
  | k + 1, j, acc, x :: r =>
    if on j then
      let (v, fl) := f acc x
      let (l, fl') := scanFrom f on excl old k (j + 1) v r
      ((if excl then acc else v) :: l, fl ||| fl')
    else
      let (l, fl') := scanFrom f on excl old k (j + 1) acc r
      (old j :: l, fl')

/-- VSCAN (R204). -/
def execVscan (d a : WReg) (m : MReg) (t : VType) (excl u : Bool) (o : BitVec 2) (s : State) : Out :=
  .next (s.issue (.vscan d a m t excl u o) (uses2 d a) fun s =>
    let st := s.me
    let e := VType.lanes t
    let op := fun x y => vArith st t (redOp o) false u x y 0
    let (l, fl) := scanFrom op (enabled (readM st m) e) excl (laneAt st t d) e 0 (identity t o u)
      (lanesOf t (readW st a))
    .go (s.modMe fun x => mergeFlags (writeW x d (vecOf t l)) fl))

/-- VSHUF (R205). -/
def execVshuf (d a b : WReg) (m : MReg) (t : VType) (s : State) : Out :=
  s.laneForm (.vshuf d a b m t) (uses3 d a b) d m t fun st j =>
    (laneAt st t a (laneAt st t b j % VType.lanes t), flagNone)
/-- VPERM (R205). -/
def execVperm (d a b : WReg) (m : MReg) (t : VType) (s : State) : Out :=
  s.laneForm (.vperm d a b m t) (uses3 d a b) d m t fun st j =>
    let l := VType.lanes t
    let k := laneAt st t b j
    (if k % (2 * l) < l then laneAt st t a (k % l) else laneAt st t d (k % l), flagNone)

/-- VTOPK (R206). -/
def execVtopk (d a : WReg) (b : GReg16) (m : MReg) (t : VType) (x u : Bool) (s : State) : Out :=
  .next (s.issue (.vtopk d a b m t x u) { g := [b.val], w := [d.val, a.val] } fun s =>
    let st := s.me
    let e := VType.lanes t
    let mask := readM st m
    let xs := lanesOf t (readW st a)
    let order := ranked st t u mask xs
    let k := min (readG st (g16 b)).toNat e
    let l := (List.range e).map fun i =>
      if i < k then
        match order[i]? with
        | some j => if x then j else rankValue st t (xs.getD j 0)
        | none => if x then 2 ^ VType.bits t - 1 else 0
      else 0
    let nv := VType.isFp t && order.any fun j => (decodeFp (VType.fmt t) (xs.getD j 0)).isSnan
    .go (s.modMe fun y => mergeFlags (writeW y d (vecOf t l)) (flagIf nv flagNV)))

/-! ### Random numbers (R207 to R209) -/

/-- VRNG (R207). -/
def execVrng (d : WReg) (m : MReg) (t : VType) (s : State) : Out :=
  .next (s.issue (.vrng d m t) { w := [d.val] } fun s =>
    let st := s.me
    let k := s.ctx s.myCtx
    let u := drawLanes st.rngctr st.rngstream (k.rngkey0.toNat % 2 ^ 32) (k.rngkey1.toNat % 2 ^ 32)
    let vals := u.map fun x => if t = .f32 then exactBits .f32 (.fin false (x / 256) (-24)) else x
    .go (s.modMe fun x => { writeW x d (vecOf t (maskInto (readM st m) (lanesOf t (readW st d)) vals)) with
      rngctr := st.rngctr + 4 }))
/-- RNGSEED (R208). -/
def execRngseed (a : GReg16) (s : State) : Out :=
  .next (s.issue (.rngseed a) { g := [a.val] } fun s =>
    .go (s.modMe fun x => { x with rngstream := readG s.me (g16 a), rngctr := 0 }))

end Sys2Proof.Machine
end

