-- ==== Sys2Proof/Machine/VecMem.lean ====
section
/-! DEFINITION. Vector memory, opcode 0x3C but for the FIFO forms, and the special-function unit
(R189 to R192, R200 to R202). -/

namespace Sys2Proof.Machine

/-! ### Vector memory -/

/-- An element of a vector access: its number and its address. -/
abbrev Elem := Nat × Word

/-- The enabled elements of a type, with their addresses. -/
def elemsOf (mask : MaskWord) (t : VType) (addr : Nat → Word) : List Elem :=
  ((List.range (VType.lanes t)).filter (enabled mask (VType.lanes t))).map fun j => (j, addr j)

/-- The checks of R190 on elements in order: the first fault, or the targets. -/
def State.checkElems (s : State) (n : Nat) (need : Need) : List Elem →
    Except (Cause × Word) (List (Elem × Target × Bool))
  | [] => .ok []
  | e :: r =>
    match s.checkAccess s.cur e.2 n n need with
    | .bad c b => .error (c, b)
    | .ok t p =>
      match State.checkElems s n need r with
      | .ok l => .ok ((e, t, p) :: l)
      | .error x => .error x

/-- A vector access (R190, R191): every element is checked, then every element is an access. `line`
says that it is a VLD or VST on one aligned line. -/
def State.vecAccess (s : State) (t : VType) (es : List Elem) (need : Need) (kind : Nat → AccKind)
    (dest : Nat → Dest) (line : Bool) (p : Option Pend) : Res :=
  let n := VType.bits t / 8
  match s.checkElems n need es with
  | .error (c, b) => .trap c b
  | .ok l =>
    .go (s.issueGroup (l.map fun (e, tg, pois) =>
      let onSlice := match tg with
        | .mem pa _ => !isHbm pa && !isHost pa
        | .lease _ _ _ => false
      { s.accessOf e.2 n (kind e.1) tg pois (dest e.1) with whole := line && onSlice }) p)

/-- A vector load (R189). -/
def State.vecLoad (s : State) (t : VType) (d : WReg) (m : MReg) (addr : Nat → Word) (line : Bool) : Res :=
  s.vecAccess t (elemsOf (readM s.me m) t addr) needR (fun _ => .load)
    (fun j => .lane d j (VType.bits t / 8)) line (some { w := some d })

/-- A vector store (R189). -/
def State.vecStore (s : State) (t : VType) (d : WReg) (m : MReg) (addr : Nat → Word) (line : Bool) : Res :=
  let n := VType.bits t / 8
  let st := s.me
  s.vecAccess t (elemsOf (readM st m) t addr) needW
    (fun j => .store (leBytes n (laneAt st t d j))) (fun _ => .none) line none

/-- Addresses of consecutive elements. -/
def unitAddr (a : Word) (t : VType) (j : Nat) : Word := a + BitVec.ofNat 64 (j * (VType.bits t / 8))
/-- Addresses of elements a stride apart. -/
def strideAddr (a st : Word) (j : Nat) : Word := a + BitVec.ofNat 64 j * st
/-- Addresses with an offset taken from a vector (R189). -/
def indexAddr (a : Word) (x : Nat) (sc : Bool) : Word := a + sextW 32 x * (if sc then 4 else 1)

/-- VLD (R189). -/
def execVld (d : WReg) (a : GReg16) (m : MReg) (t : VType) (s : State) : Out :=
  .next (s.issue (.vld d a m t) { g := [a.val], w := [d.val] } fun s =>
    let b := readG s.me (g16 a)
    s.vecLoad t d m (unitAddr b t) (b.toNat % 64 == 0))
/-- VST (R189). -/
def execVst (d : WReg) (a : GReg16) (m : MReg) (t : VType) (s : State) : Out :=
  .next (s.issue (.vst d a m t) { g := [a.val], w := [d.val] } fun s =>
    let b := readG s.me (g16 a)
    s.vecStore t d m (unitAddr b t) (b.toNat % 64 == 0))
/-- VLDS (R189). -/
def execVlds (d : WReg) (a b : GReg16) (m : MReg) (t : VType) (s : State) : Out :=
  .next (s.issue (.vlds d a b m t) { g := [a.val, b.val], w := [d.val] } fun s =>
    s.vecLoad t d m (strideAddr (readG s.me (g16 a)) (readG s.me (g16 b))) false)
/-- VGTH (R189). -/
def execVgth (d : WReg) (a : GReg16) (b : WReg) (m : MReg) (t : VType) (sc : Bool) (s : State) : Out :=
  .next (s.issue (.vgth d a b m t sc) { g := [a.val], w := [d.val, b.val] } fun s =>
    s.vecLoad t d m (fun j => indexAddr (readG s.me (g16 a)) (laneAt s.me t b j) sc) false)
/-- VSCT (R189). -/
def execVsct (d : WReg) (a : GReg16) (b : WReg) (m : MReg) (t : VType) (sc : Bool) (s : State) : Out :=
  .next (s.issue (.vsct d a b m t sc) { g := [a.val], w := [d.val, b.val] } fun s =>
    s.vecStore t d m (fun j => indexAddr (readG s.me (g16 a)) (laneAt s.me t b j) sc) false)

/-! ### The special-function unit -/

/-- Entries of the request queue of a core (R201). -/
def sfDepth : Nat := 8

/-- A special-function instruction: an entry of the core's queue, its result pending (R201). -/
def State.sfForm (s : State) (i : Instr) (fn : Nat) (d a : WReg) (m : MReg) (t : VType) : Out :=
  .next (s.issue i (uses2 d a) fun s =>
    let st := s.me
    if sfDepth ≤ (s.core s.myCore).sfq.length then .hold .sfQueue
    else
      let e : SfEntry :=
        { id := s.nextId, strand := s.cur, run := st.run, code := st.code, fn := fn, ty := t, d := d, x := readW st a,
          mask := readM st m, rm := st.rm, fz := st.fz }
      let s := { s with nextId := s.nextId + 1 }.modCore s.myCore fun c => { c with sfq := c.sfq ++ [e] }
      .go (s.modMe fun x => { x with pend := x.pend ++ [{ id := e.id, w := some d, lc := x.lc }] }))

/-- VEXP2 (R200). -/
def execVexp2 (d a : WReg) (m : MReg) (t : VType) (s : State) : Out := s.sfForm (.vexp2 d a m t) 0 d a m t
/-- VLOG2 (R200). -/
def execVlog2 (d a : WReg) (m : MReg) (t : VType) (s : State) : Out := s.sfForm (.vlog2 d a m t) 1 d a m t
/-- VRCP (R200). -/
def execVrcp (d a : WReg) (m : MReg) (t : VType) (s : State) : Out := s.sfForm (.vrcp d a m t) 2 d a m t
/-- VRSQ (R200). -/
def execVrsq (d a : WReg) (m : MReg) (t : VType) (s : State) : Out := s.sfForm (.vrsq d a m t) 3 d a m t
/-- VTANH (R200). -/
def execVtanh (d a : WReg) (m : MReg) (t : VType) (s : State) : Out := s.sfForm (.vtanh d a m t) 4 d a m t
/-- VSIG (R200). -/
def execVsig (d a : WReg) (m : MReg) (t : VType) (s : State) : Out := s.sfForm (.vsig d a m t) 5 d a m t

/-- The elements and flags of a queued request. -/
def SfEntry.result (e : SfEntry) (old : VecWord) : VecWord × BitVec 5 :=
  let n := VType.lanes e.ty
  let xs := lanesOf e.ty e.x
  let (r, fl) := eachLane e.mask n fun j =>
    specialBits (VType.fmt e.ty) e.fn e.rm e.fz (xs.getD j 0)
  (vecOf e.ty (maskInto e.mask (lanesOf e.ty old) r), fl)

/-- SF_COMPLETION: the oldest request of a core completes; its result goes to its strand or to the
saved image, and is dropped when the strand has ended (R201, R202). -/
def State.sfComplete (s : State) (core : Nat) : State :=
  match (s.core core).sfq with
  | [] => s
  | e :: r =>
    let s := s.modCore core fun c => { c with sfq := r }
    let st := s.strand e.strand
    if st.run ≠ e.run || st.phase == .idle then s
    else
      let (v, fl) := e.result (readW st e.d)
      let s := s.putLate e.strand (fun x => mergeFlags (writeW x e.d v) fl) (256 + 64 * e.d.val)
        (leBytes 64 v.toNat)
      let s := s.imageField e.strand 1376 (leBytes 8 (s.strand e.strand).flags.toNat)
      (s.unpend e.strand e.id).tryResume e.strand

/-- SF_COMPLETION (R201). -/
def execSfCompletion (core : Nat) (s : State) : Out := .next (s.sfComplete core)

end Sys2Proof.Machine
end

