-- ==== Sys2Proof/Machine/Message.lean ====
section
/-! DEFINITION. Messages, handlers and counters, opcodes 0x2E to 0x30 but for the group forms: sending,
answering, ending, watches, the handler table, arrival counters (R216, R224 to R233, R237 to R242). -/

namespace Sys2Proof.Machine

/-! ### Reply slots (R216) -/

/-- The lowest-numbered free reply slot of a core. -/
def Core.freeReply (c : Core) : Option Nat :=
  (List.range 64).find? fun i => !(c.replies.get {} i).reserved

/-- A core with a reply slot reserved for a context. -/
def Core.reserveReply (c : Core) (i ctx : Nat) : Core :=
  { c with replies := c.replies.set i { reserved := true, ctx := ctx } }

/-- A core with a reply slot freed. -/
def Core.freeReplySlot (c : Core) (i : Nat) : Core :=
  { c with replies := c.replies.set i {}, replyOrder := c.replyOrder.filter (· != i) }

/-- What SEND, SENDR, SENDL and the multicasts do with RE: with RE = 1 a slot is reserved and its number
written to `d`, after the check of sp; `f` goes on with the slot. -/
def State.withReply (s : State) (re : Bool) (d : GReg) (f : State → Nat → State) : Res :=
  if !re then .go (f s 0)
  else
    match (s.core s.myCore).freeReply with
    | none => .hold .replySlot
    | some i =>
      let v : Word := BitVec.ofNat 64 i
      if s.me.spBad d v then .trap .stackLimit v
      else
        let s := (s.source s.myCtx).modCore s.myCore fun c => c.reserveReply i s.myCtx
        .go (f (s.modMe fun st => writeG st d v) i)

/-- An instruction that sends a packet on VN0 or VN1: it waits while the local port takes none (R124). -/
def State.injecting (s : State) (vn1 : Bool) (r : Res) : Res :=
  if s.portTakes s.myTile vn1 then r else .hold .injection

/-! ### SEND, SENDR, SENDL (R224, R225) -/

/-- The header a sending instruction forms from a destination word. -/
def State.sendHdr (s : State) (dw : Word) (re rels : Bool) (slot len : Nat) : Hdr :=
  let (x0, y0) := s.offsetOf s.myCtx
  let h : Hdr :=
    { re := re, rslot := BitVec.ofNat 6 slot, rhidx := if re then destRhidx dw else 0, rels := rels,
      len := BitVec.ofNat 9 len, lclass := BitVec.ofNat 3 (payloadFlits len) }
  h.withDest dw x0 y0

/-- SEND and SENDR. -/
def State.sendForm (s : State) (i : Instr) (d a b : GReg) (re rels : Bool) : Out :=
  .next (s.issue i { g := d.val :: a.val :: run b.val 4 } (noReply re fun s =>
    let st := s.me
    let after := if rels then s.releaseSet s.cur else []
    s.injecting false (s.withReply re d fun s' slot =>
      s'.strandSend s.cur after
        { hdr := s.sendHdr (readG st a) re rels slot 0, args := readRun st b.val 4 })))

/-- SEND (R225). -/
def execSend (d a b : GReg) (re : Bool) (s : State) : Out := s.sendForm (.send d a b re) d a b re false
/-- SENDR (R225): a release point (R70). -/
def execSendr (d a b : GReg) (re : Bool) (s : State) : Out := s.sendForm (.sendr d a b re) d a b re true

/-- The offset in the issuing tile's slice of a range given by alias or window address. -/
def State.ownOffset (s : State) (va n : Nat) : Option Nat :=
  if isGateway s.cur then none
  else
    match aliasOf va with
    | some off => if off + n ≤ 0x300000 then some off else none
    | none =>
      match windowOf va with
      | some (w, off) => if w = s.myTile ∧ off + n ≤ 0x300000 then some off else none
      | none => none

/-- The place of a payload: the issuing tile's slice, or the issuing gateway's buffer. -/
def State.ownPlace (s : State) (va n : Nat) : Option Nat :=
  if isGateway s.cur then
    match aliasOf va with
    | some off => if off + n ≤ 0x100000 then some (bufferAddr (gatewayNo s.myCore) off) else none
    | none => none
  else (s.ownOffset va n).map (sliceAddr s.myTile)

/-- The payload checks of SENDL and MCASTL on a descriptor: the first cause, or the place (R225). -/
def State.payloadCheck (s : State) (desc : Word) : Except (Cause × Word) Nat :=
  let va := desc.toNat % 2 ^ 48
  let len := desc.toNat / 2 ^ 48 % 256 + 1
  let ea : Word := BitVec.ofNat 64 va
  if va % 8 ≠ 0 then .error (.misaligned, ea)
  else
    match s.ownPlace va len with
    | none => .error (.scratchBounds, ea)
    | some pa =>
      match (if isGateway s.cur then none else lockHit (s.tile s.myTile).locks va len false) with
      | some l => .error (.rangeLock, BitVec.ofNat 64 l)
      | none => .ok pa

/-- A payload read at `pa` and sent: with a poisoned unit nothing is sent, a reserved slot is freed and
POISON is raised (R225). -/
def State.withPayload (s : State) (desc : Word) (pa : Nat) (re : Bool) (d : GReg)
    (send : State → Nat → List Byte → State) : Res :=
  let len := desc.toNat / 2 ^ 48 % 256 + 1
  s.withReply re d fun s' slot =>
    if s'.poisoned pa len then
      let s' := if re then s'.modCore s.myCore fun c => c.freeReplySlot slot else s'
      let f : FaultRec :=
        { cause := .poison, ord := s'.nextId, deferred := true, epc := pcWord s.me,
          badva := BitVec.ofNat 64 (desc.toNat % 2 ^ 48) }
      { s' with nextId := s'.nextId + 1 }.raise s.cur f
    else send (s'.correct s.myCtx pa len) slot (s'.readRaw pa len)

/-- SENDL (R225). -/
def execSendl (d a b : GReg) (re : Bool) (s : State) : Out :=
  .next (s.issue (.sendl d a b re) { g := d.val :: a.val :: run b.val 5 } (noReply re fun s =>
    let st := s.me
    let desc := (readRun st b.val 5).getD 4 0
    match s.payloadCheck desc with
    | .error (c, v) => .trap c v
    | .ok pa =>
      s.injecting false (s.withPayload desc pa re d fun s' slot bs =>
        s'.strandSend s.cur []
          { hdr := s.sendHdr (readG st a) re false slot bs.length, args := readRun st b.val 4,
            payload := bs })))

/-! ### The handler table (R220, R232) -/

/-- An entry of a tile's handler table. -/
def State.handler (s : State) (t h : Nat) : Nat := ((s.tile t).handlers.get 0 h).toNat
/-- VALID of an entry. -/
def entryValid (e : Nat) : Bool := e / 2 ^ 63 % 2 == 1
/-- LONG of an entry. -/
def entryLong (e : Nat) : Bool := e / 2 ^ 62 % 2 == 1
/-- REPLY of an entry. -/
def entryReply (e : Nat) : Bool := e / 2 ^ 61 % 2 == 1
/-- Whether CORES of an entry admits a core. -/
def entryAdmits (e c : Nat) : Bool := e / 2 ^ (40 + c) % 2 == 1
/-- PRIO of an entry. -/
def entryPrio (e : Nat) : Nat := e / 2 ^ 38 % 4
/-- The snapshot of an entry (R221). -/
def entrySnap (e : Nat) : Snap :=
  { entry := BitVec.ofNat 32 e, regs := BitVec.ofNat 2 (e / 2 ^ 36), stack := BitVec.ofNat 11 (e / 2 ^ 48) }
/-- An entry with its reserved bits 0. -/
def entryWord (v : Word) : Word := v &&& 0xE7FFFFF0FFFFFFFF

/-- Whether HTSET and HTCLR refuse an index (R232). -/
def tableIndexBad (v : Word) : Bool := decide (0xFF0 ≤ v.toNat % 4096 ∧ v.toNat % 4096 ≤ 0xFFD)

/-- One change of a handler table: an entry replaced, or its VALID cleared (R232). -/
def setEntry (m : SMap Word) (x : Nat × Option Word) : SMap Word :=
  match x.2 with
  | some v => m.set x.1 v
  | none => m.set x.1 (m.get 0 x.1 &&& 0x7FFFFFFFFFFFFFFF)

/-- A tile at the end of a clock: the table changes of the clock take effect (R233). -/
def Tile.applySets (x : Tile) : Tile := { x with handlers := x.sets.foldl setEntry x.handlers, sets := [] }

/-- HTSET (R232): the change takes effect at the end of the clock (R233). -/
def execHtset (a b : GReg) (s : State) : Out :=
  .next (s.issue (.htset a b) { g := [a, b] } fun s =>
    let i := readG s.me a
    let v := readG s.me b
    if tableIndexBad i then .trap .illegalCombination i
    else if entryValid v.toNat && v.toNat % 4 != 0 then .trap .misaligned v
    else .go (s.modTile s.myTile fun t => { t with sets := t.sets ++ [(i.toNat % 4096, some (entryWord v))] }))
/-- HTCLR (R232): the change takes effect at the end of the clock (R233). -/
def execHtclr (a : GReg) (s : State) : Out :=
  .next (s.issue (.htclr a) { g := [a] } fun s =>
    let i := readG s.me a
    if tableIndexBad i then .trap .illegalCombination i
    else .go (s.modTile s.myTile fun t => { t with sets := t.sets ++ [(i.toNat % 4096, none)] }))

/-! ### SPAWN, REPLY, END (R226 to R229) -/

/-- The entry point of an entry in the image of a context (R220). -/
def State.entryPc (s : State) (c : Nat) (entry : BitVec 32) : BitVec 48 :=
  BitVec.ofNat 48 (((s.ctx c).imageBase.toNat + entry.toNat) / 4 * 4)

/-- Whether every strand of a core is occupied. -/
def State.noIdle (s : State) (core : Nat) : Bool :=
  (List.range 4).all fun k => (s.strand (4 * core + k)).phase != .idle

/-- Whether SPAWN runs its child inline (R227). That list alone decides, also for a VALID entry 0xFFE or 0xFFF
(DESIGN CHOICE, assumption log 77). -/
def State.spawnsInline (s : State) (entry core : Nat) : Bool :=
  !isGateway s.cur && core == s.myCore % 8 && s.noIdle s.myCore && entryValid entry && entryAdmits entry core &&
    !entryLong entry && !entryReply entry &&
    decide (entry / 2 ^ 36 % 4 ≤ s.me.code.toNat) && decide (s.me.inl.toNat < 15)

/-- The inline child of SPAWN (R227): the link words are stored as three stores below sp. It transfers control, so
it makes no loop-back at LE (DEDUCED, assumption log 76). -/
def State.spawnInline (s : State) (entry : Nat) (args : List Word) : Res :=
  let st := s.me
  let n := readG st sp - 64
  if n.ult st.slim then .trap .stackLimit n
  else
    let words := [linkAfter st, readG st lk, readG st mp]
    match s.checkElems 8 needW ((List.range 3).map fun i => (i, n + BitVec.ofNat 64 (8 * i))) with
    | .error (c, b) => .trap c b
    | .ok l =>
      let s := s.issueGroup (l.map fun (e, t, p) =>
        s.accessOf e.2 8 (.store (leBytes 8 (words.getD e.1 0).toNat)) t p .none) none
      .jump (s.modMe fun x =>
        let x := writeG x sp n
        let x := { x with g := (List.range 4).foldl (fun g i =>
          g.setIfInBounds (4 + i) (args.getD i 0)) x.g }
        { writeG x mp 0 with inl := x.inl + 1 }) (s.entryPc s.myCtx (entrySnap entry).entry)

/-- SPAWN (R226, R227). -/
def execSpawn (a b : GReg) (c : BitVec 3) (s : State) : Out :=
  .next (s.issue (.spawn a b c) { g := a.val :: run b.val 4 ++ [lk.val, sp.val, mp.val] } fun s =>
    let st := s.me
    let h := (readG st a).toNat % 4096
    let e := s.handler s.myTile h
    let args := readRun st b.val 4
    if s.spawnsInline e c.toNat then s.spawnInline e args
    else
      let hdr : Hdr :=
        { dx := BitVec.ofNat 5 (tileX s.myTile), dy := BitVec.ofNat 5 (tileY s.myTile), dcore := c,
          hidx := BitVec.ofNat 12 h }
      s.injecting false (.go (s.strandSend s.cur [] { hdr := hdr, args := args })))

/-- REPLY (R228). -/
def execReply (b : GReg) (s : State) : Out :=
  .next (s.issue (.reply b) { g := run b.val 4 } fun s =>
    let st := s.me
    if !st.owed || st.replied then .trapOpen .replyOrphan
    else
      s.injecting true
        (.go ((s.strandReply s.cur false (readRun st b.val 4)).modMe fun x => { x with replied := true })))

/-- The return of an inline child, from the 24 bytes at sp (R229); no BREAKPOINT follows an END (R419). -/
def State.inlineReturn (s : State) (bs : List Byte) : Res :=
  let st := s.me
  let t : Word := BitVec.ofNat 64 (fieldAt bs 0 8)
  let n := readG st sp + 64
  if n.ult st.slim then .trap .stackLimit n
  else
    match jumpTo (s.modMe fun x =>
      let x := writeG x lk (BitVec.ofNat 64 (fieldAt bs 8 8))
      let x := writeG x mp (BitVec.ofNat 64 (fieldAt bs 16 8))
      { writeG x sp n with inl := x.inl - 1 }) t with
    | .jump s' t => .ended (s'.modStrand s.cur fun x => x.advance st (some t) false)
    | r => r

/-- END within an inline child (R229): three loads from the stack, then the return. -/
def State.endInline (s : State) : Res :=
  let st := s.me
  if st.landing.length = 24 then s.inlineReturn st.landing
  else if !st.pend.isEmpty then .hold .operand
  else
    match s.checkElems 8 needR ((List.range 3).map fun i => (i, readG st sp + BitVec.ofNat 64 (8 * i))) with
    | .error (c, b) => .trap c b
    | .ok l =>
      let s' := s.issueGroup (l.map fun (e, t, p) => s.accessOf e.2 8 .load t p .landing) (some {})
      if s'.me.landing.length = 24 then s'.inlineReturn s'.me.landing else .wait s' .operand

/-- Pending results that END waits for: loads and atomics, but not special functions (R229). -/
def State.loadsPending (s : State) : Bool :=
  s.me.pend.any fun p => !((s.core s.myCore).sfq.any fun e => e.id == p.id)

/-- END (R229). -/
def execEndH (s : State) : Out :=
  .next (s.issue .endH { g := [lk.val, mp.val] } fun s =>
    if s.me.inl ≠ 0 then s.endInline
    else if s.loadsPending then .hold .operand
    else .ended (s.release s.cur))

/-! ### Watches and REDLV (R230, R231, R237) -/

/-- Entries of a tile's watch table. -/
def watchDepth : Nat := 64

/-- ARMW (R230, R231). -/
def execArmw (a b : GReg) (c : BitVec 3) (s : State) : Out :=
  .next (s.issue (.armw a b c) { g := a.val :: run b.val 6 } (tileOnly (.armw a b c) fun s =>
    let st := s.me
    let ea := readG st a
    let r := readRun st b.val 6
    if ea.toNat % 8 ≠ 0 then .trap .misaligned ea
    else
      match s.ownOffset ea.toNat 8 with
      | none => .trap .scratchBounds ea
      | some off =>
        if watchDepth ≤ (s.tile s.myTile).watches.length then .hold .injection
        else
          let w : Watch :=
            { off := off, cond := c, cmp := r.getD 0 0, dest := r.getD 1 0, args := r.drop 2, ctx := s.myCtx }
          if s.watchHolds s.myTile w then .go (s.postWatch1 s.myTile w)
          else .go (s.modTile s.myTile fun t => { t with watches := t.watches ++ [w] })))

/-- REDLV (R237). -/
def execRedlv (d a b : GReg) (s : State) : Out :=
  .next (s.issue (.redlv d a b) { g := [d, a, b] } fun s =>
    let st := s.me
    let ea := readG st a
    match s.checkAccess s.cur ea redlvBytes 64 needBarrier with
    | .bad c v => .trap c v
    | .ok t p =>
      let dest := if b = 0 then none else some (readG st b)
      let a := s.accessOf ea redlvBytes (.redlv dest) t p .none
      if isOwn s.myCore t && !p then
        let s1 := { s with nextId := s.nextId + 1 }
        let (s', out) := s1.perform { a with id := s.nextId }
        match out with
        | .done bs =>
          let s' := if bs.isEmpty then s'
            else s'.redeliver s.myTile (redlvMsg bs dest (s.offsetOf s.myCtx).1 (s.offsetOf s.myCtx).2)
          let v := bitWord (!bs.isEmpty)
          if s.me.spBad d v then .trapIn s' .stackLimit v else .go (s'.modMe fun x => writeG x d v)
        | .failed c => .go (s'.raise s.cur ({ a with id := s.nextId }.lateFault c))
        | .sent => .go s'
      else .go (s.issueGroup [{ a with dest := .g d 8 false }] (some { g := some d })))

/-! ### Arrival counters (R238 to R242) -/

/-- The message a counter of tile `t` posts, for the context `c` of the tile's kernel (R241). -/
def State.counterMsg (s : State) (t c : Nat) (k : Counter) : Msg :=
  let (x0, y0) := s.offsetOf c
  let h : Hdr := { posted := true, ctx := BitVec.ofNat 8 c }
  { hdr := (h.withDest k.dest x0 y0).withSource t 0 0, args := k.args }

/-- AddCount of R241 on the counter's data: the counter after the addition and the posts it makes. -/
def Counter.add (k : Counter) (v : Nat) : Counter × Nat :=
  let n := k.count.toNat + v
  let sat := decide (2 ^ 32 ≤ n)
  let n := if sat then 2 ^ 32 - 1 else n
  let k := { k with count := BitVec.ofNat 32 n, sat := k.sat || sat }
  if k.st ≠ .armed ∨ n < k.thresh.toNat then (k, 0)
  else if k.rls then ({ k with st := .free, count := 0 }, 1)
  else if k.rearm then ({ k with count := BitVec.ofNat 32 (n % k.thresh.toNat) }, n / k.thresh.toNat)
  else ({ k with st := .fired }, 1)

/-- A contribution of `v` to counter `i` of tile `t`. -/
def State.addCount (s : State) (t i v : Nat) : State :=
  let c := (s.holder t).getD 0
  let k := (s.tile t).counters.get {} i
  let (k', posts) := k.add v
  let s := s.modTile t fun x => { x with counters := x.counters.set i k' }
  (List.range posts).foldl (fun s _ => s.post t 2 [] (s.counterMsg t c k)) s

/-- The counter CNTI leaves before the crossing rule (R240); `r` is its run. -/
def Counter.init (k : Counter) (r : List Word) (keep : Bool) : Counter :=
  let w := (r.getD 0 0).toNat
  { count := if keep then k.count else 0, st := .armed, sat := false,
    thresh := if w % 2 ^ 32 = 0 then 1 else BitVec.ofNat 32 w,
    rearm := w / 2 ^ 32 % 2 == 1, rls := w / 2 ^ 33 % 2 == 1, dest := r.getD 1 0, args := r.drop 2 }

/-- The state word of R238. -/
def Counter.word (k : Counter) : Word :=
  let st := match k.st with
    | .free => 0
    | .armed => 1
    | .fired => 2
  BitVec.ofNat 64 (k.count.toNat * 2 ^ 32 + st * 2 ^ 30 + k.rearm.toNat * 2 ^ 29 + k.rls.toNat * 2 ^ 28 +
    k.sat.toNat * 2 ^ 27)

/-- CNTI (R240). -/
def execCnti (a b : GReg) (keep : Bool) (s : State) : Out :=
  .next (s.issue (.cnti a b keep) { g := a.val :: run b.val 6 } fun s =>
    let st := s.me
    let i := (readG st a).toNat % 256
    let s := s.modTile s.myTile fun t =>
      { t with counters := t.counters.set i ((t.counters.get {} i).init (readRun st b.val 6) keep) }
    .go (s.addCount s.myTile i 0))

/-- A counter increment sent towards the counter a counter word names (R212, R239, R241): its number
travels in HIDX and the increment in argument word 0. `h` has the source fields. -/
def State.sendCount (s : State) (t : Nat) (after : List Nat) (h : Hdr) (cw : Word) (v : BitVec 32) : State :=
  let (x0, y0) := s.offsetOf h.ctx.toNat
  let w := cw.toNat
  let cnt := w / 2 ^ 17 % 256
  let d := h.withDest (BitVec.ofNat 64 (w % 2 ^ 11)) x0 y0
  let h := { h with kind := 2, dx := d.dx, dy := d.dy, hidx := BitVec.ofNat 12 cnt }
  match h.destTile with
  | some dst => (s.source h.ctx.toNat).inject t dst false h.ctx.toNat after (.counter h cnt v)
  | none => s.undeliverable t 2 { hdr := h, args := [v.setWidth 64, 0, 0, 0] }

/-- CNTA (R241). -/
def execCnta (a b : GReg) (rel : Bool) (s : State) : Out :=
  .next (s.issue (.cnta a b rel) { g := [a, b] } fun s =>
    let st := s.me
    let after := if rel then s.releaseSet s.cur else []
    let h := s.strandHdr s.cur { rels := rel }
    s.injecting false
      (.go ((s.countSent s.cur).sendCount s.myTile after h (readG st a) ((readG st b).setWidth 32))))

/-- CNTR (R242). -/
def execCntr (d a : GReg) (clr : Bool) (s : State) : Out :=
  .next (s.issue (.cntr d a clr) { g := [d, a] } fun s =>
    let i := (readG s.me a).toNat % 256
    let k := (s.tile s.myTile).counters.get {} i
    let s' := if clr then s.modTile s.myTile fun t =>
      { t with counters := t.counters.set i { k with st := .free, count := 0, sat := false } } else s
    s.putGAnd s' d k.word)

end Sys2Proof.Machine
end

