-- ==== Sys2Proof/Machine/Loop.lean ====
section
/-! DEFINITION. The coupling loops of the Jasper controllers, opcode 0x35, and their steps (R128, R367 to
R381). -/

namespace Sys2Proof.Machine

/-! ### What a slot binds (R367, R368, R378) -/

/-- A field of the binding word. -/
def Loop.field (l : Loop) (at_ width : Nat) : Nat := l.bind.toNat / 2 ^ at_ % 2 ^ width

/-- An actuator: its code and, for a strand slot, 4 × core + slot. -/
def Loop.actuator (l : Loop) (consumer : Bool) : Option (Nat × Nat) :=
  let b := if consumer then 16 else 8
  match l.field b 3 with
  | 0 => none
  | 1 => some (1, l.field (b + 3) 3 * 4 + l.field (b + 6) 2)
  | k => some (k, 0)

/-- The buffer: kind, core, level; what the kind does not use is 0. -/
def Loop.buffer (l : Loop) : Nat × Nat × Nat :=
  let k := l.field 0 3
  (k, if k < 2 then l.field 3 3 else 0, if k = 1 then l.field 6 2 else 0)

/-- Whether a slot's loop samples (R374). -/
def Loop.live (l : Loop) : Bool := l.st == .bound || l.st == .running || l.st == .saturated

/-- Entries of a handler-queue level that have landed (R249, R250). -/
def Level.occ (l : Level) : Nat := (l.entries.filter (·.landed)).length
/-- Positions of a level that a ring read has reserved. -/
def Level.resv (l : Level) : Nat := (l.entries.filter fun e => !e.landed).length
/-- A level of a core. -/
def State.level (s : State) (c l : Nat) : Level := (s.core c).levels.get {} l
/-- The state with a level changed. -/
def State.modLevel (s : State) (c l : Nat) (f : Level → Level) : State :=
  s.modCore c fun x => { x with levels := x.levels.set l (f (x.levels.get {} l)) }

/-- The front slot of a fabric (R347). -/
def Fabric.frontSlot (f : Fabric) : GSlot := if f.front then f.b else f.a
/-- The other slot. -/
def Fabric.backSlot (f : Fabric) : GSlot := if f.front then f.a else f.b

/-- The fabric of a tile. -/
def State.fabric (s : State) (t : Nat) : Fabric := (s.tile t).fabric
/-- The state with a fabric changed. -/
def State.modFabric (s : State) (t : Nat) (f : Fabric → Fabric) : State :=
  s.modTile t fun x => { x with fabric := f x.fabric }

/-- A slot changed: A for `false`, B for `true`. -/
def Fabric.modSlot (f : Fabric) (b : Bool) (g : GSlot → GSlot) : Fabric :=
  if b then { f with b := g f.b } else { f with a := g f.a }
/-- The front slot changed. -/
def Fabric.modFront (f : Fabric) (g : GSlot → GSlot) : Fabric := f.modSlot f.front g
/-- The back slot changed. -/
def Fabric.modBack (f : Fabric) (g : GSlot → GSlot) : Fabric := f.modSlot (!f.front) g
/-- A slot by number: 0 A, 1 B. -/
def Fabric.slot (f : Fabric) (b : Bool) : GSlot := if b then f.b else f.a

/-- Whether a job works in the copy engine. -/
def JobKind.copies : JobKind → Bool
  | .cpy => true
  | .cpy2 => true
  | .cpyf => true
  | .gath => false
  | .scat => false
  | .mma => false
  | .mmag => false
  | .mst => false
  | .gload => false

/-- Whether a piece is held by a translation service request. -/
def PieceState.isHeld : PieceState → Bool
  | .held _ => true
  | .todo => false
  | .ready => false
  | .spinel _ => false
  | .gen _ => false
  | .failed => false
  | .done => false

/-- Whether a piece is over. -/
def PieceState.ended : PieceState → Bool
  | .failed => true
  | .done => true
  | .todo => false
  | .ready => false
  | .spinel _ => false
  | .gen _ => false
  | .held _ => false

/-- Requests of a tile's copy engine, or of its gather unit, that have been sent and not been performed: for the copy
engine the lines of its staging buffer (R310, R367). -/
def State.staged (s : State) (t : Nat) (copies : Bool) : Nat :=
  ((List.range 8).map fun c => ((s.core (8 * t + c)).jobs.map fun e =>
    if e.2.kind.copies == copies then
      (e.2.pieces.map fun p => if p.st.ended || p.st.isHeld || p.st == .todo then 0 else p.asked - p.wrote).sum
    else 0).sum).sum

/-- The occupancy of a buffer of tile `t` (R367). -/
def State.bufOcc (s : State) (t : Nat) (b : Nat × Nat × Nat) : Nat :=
  match b.1 with
  | 0 => (s.core (8 * t + b.2.1)).inq.length
  | 1 => let l := s.level (8 * t + b.2.1) b.2.2; min 65535 (l.occ + l.resv + l.count)
  | 2 => (s.tile t).fabric.inFifo.length
  | 3 => (s.tile t).fabric.outFifo.length
  | _ => s.staged t true

/-- Capacity of a buffer (R367). -/
def State.bufCap (s : State) (t : Nat) (b : Nat × Nat × Nat) : Nat :=
  match b.1 with
  | 0 => 16
  | 1 => (s.level (8 * t + b.2.1) b.2.2).depth.toNat
  | 2 => 32
  | 3 => 32
  | _ => 64

/-- Whether a buffer with occupancy `occ` is full (R367). -/
def State.bufFull (s : State) (t : Nat) (b : Nat × Nat × Nat) (occ : Nat) : Bool :=
  if b.1 = 1 then
    let st := (s.level (8 * t + b.2.1) b.2.2).st
    st == .spilling || st == .refilling || st == .frozen
  else decide (s.bufCap t b ≤ occ)

/-- Round trip RT of a buffer in clocks (R367). -/
def State.bufRt (s : State) (t : Nat) (b : Nat × Nat × Nat) : Nat :=
  match b.1 with
  | 0 => 4
  | 1 => 16
  | 4 => 64
  | _ =>
    let g := (s.tile t).fabric.frontSlot
    if g.st = .empty then 132 else g.depth + 4

/-! ### Outputs (R368, R372) -/

/-- The live loops of a tile in which `a` is an actuator on one side. -/
def Tile.loopsOf (x : Tile) (a : Nat × Nat) (consumer : Bool) : List Loop :=
  ((List.range 16).map fun k => x.loops.get {} k).filter fun l => l.live && l.actuator consumer == some a

/-- Out(a) of R372: the value and whether a clamp acted; none if no live loop has `a`. -/
def Tile.out (x : Tile) (a : Nat × Nat) : Option (Nat × Bool) :=
  let cons := x.loopsOf a true
  let prod := x.loopsOf a false
  match cons ++ prod with
  | [] => none
  | l :: r =>
    let uin := (cons.map (·.u)).headD 0
    let uout := (prod.map (·.u)).headD 0
    let base : Int := match cons with
      | c :: _ => c.basec
      | [] => (prod.map (·.basep)).headD 0
    let lo : Int := (r.map (·.wmin)).foldl max l.wmin
    let hi : Int := (r.map (·.wmax)).foldl min l.wmax
    let v := base + uin - uout
    some ((clampInt v lo hi).toNat, decide (v < lo ∨ hi < v))

/-- The loops of a tile that bind an actuator, FAULTED ones included (R373). -/
def Tile.binders (x : Tile) (a : Nat × Nat) : List Loop :=
  ((List.range 16).map fun k => x.loops.get {} k).filter fun l =>
    l.st != .unbound && (l.actuator true == some a || l.actuator false == some a)

/-- The value an actuator receives: kept in every live slot that names it, and for an engine it is the
rate limit of the next refill (R368). Nothing changes while one of its loops is held (R375). An engine that only a
FAULTED loop binds keeps its rate (R373; DEDUCED, assumption log 85). -/
def Tile.drive (x : Tile) (a : Nat × Nat) : Tile :=
  if (x.binders a).any (·.hold) then x
  else
  let v := (x.out a).map (·.1)
  let loops := x.loops.map fun e =>
    let l := e.2
    let l := if l.actuator false = some a ∧ l.live then { l with vp := v.getD 0 } else l
    let l := if l.actuator true = some a ∧ l.live then { l with vc := v.getD 0 } else l
    (e.1, l)
  match a.1 with
  | 2 => { x with loops := loops, copyRate := v.getD (if (x.binders a).isEmpty then 64 else x.copyRate) }
  | 3 => { x with loops := loops, gathRate := v.getD (if (x.binders a).isEmpty then 64 else x.gathRate) }
  | _ => { x with loops := loops }

/-- Both actuators of a loop recomputed. -/
def Tile.driveBoth (x : Tile) (l : Loop) : Tile :=
  let x := match l.actuator false with
    | some a => x.drive a
    | none => x
  match l.actuator true with
  | some a => x.drive a
  | none => x

/-- The output of the loop that binds strand `n`, if one does (R128, R368). A FAULTED loop binds until it is unbound,
with its last output (R373; DEDUCED, assumption log 85). -/
def State.boundWeight (s : State) (n : Nat) : Option Nat :=
  if isGateway n then none
  else
    let a := (1, coreOf n % 8 * 4 + slotOf n)
    let x := s.tile (tileOf n)
    match x.loopsOf a true with
    | l :: _ => some l.vc
    | [] => match x.loopsOf a false with
      | l :: _ => some l.vp
      | [] => (x.binders a).head?.map fun l => if l.actuator true = some a then l.vc else l.vp

/-- The effective issue weight of strand `n` (R128). -/
def State.effWeight (s : State) (n : Nat) : Nat := (s.boundWeight n).getD (s.strand n).weight.toNat

/-- The system register WEIGHT of strand `n` (R128). -/
def State.weightWord (s : State) (n : Nat) : Word :=
  match s.boundWeight n with
  | some w => BitVec.ofNat 64 (w + 128)
  | none => (s.strand n).weight.setWidth 64

/-! ### Steps of the controller (R371, R374 to R376) -/

/-- The context that owns a tile's loops. -/
def State.loopCtx (s : State) (t : Nat) : Nat := (s.holder t).getD 0

/-- The parameters of R378 read from their two words. -/
def Loop.params (l : Loop) (w1 w2 : Word) : Loop :=
  let v := w1.toNat
  let z := w2.toNat
  let decl := v / 2 ^ 63 % 2 == 1
  { l with
    setpoint := if decl then l.declSet else v % 65536, ilim := v / 65536 % 65536,
    period := v / 2 ^ 32 % 2048, kp := if decl then l.declKp else v / 2 ^ 48 % 16,
    ki := if decl then l.declKi else v / 2 ^ 52 % 16, wmin := z % 128, wmax := z / 256 % 128,
    basep := z / 65536 % 128, basec := z / 2 ^ 24 % 128 }

/-- The loop with a CPLU that waited for its sample in effect (R376, R380). -/
def Loop.settled (l : Loop) : Loop :=
  match l.upd with
  | none => l
  | some (w1, w2, rst) =>
    let l := { l.params w1 w2 with upd := none }
    if rst then { l with integ := 0 } else l

/-- HOLD of every bound loop of a tile made to agree with its cores (R375). -/
def State.updateHold (s : State) (t : Nat) : State :=
  let held := fun (o : Option (Nat × Nat)) => match o with
    | some (1, k) => (s.core (8 * t + k / 4)).frozen
    | some _ => false
    | none => false
  s.modTile t fun x => { x with loops := x.loops.map fun e =>
    let h := held (e.2.actuator false) || held (e.2.actuator true)
    (e.1, if e.2.st = .unbound then e.2 else if h then { e.2.settled with hold := true }
      else { e.2 with hold := false }) }

/-- Whether a loop is due to sample (R371). -/
def Loop.due (l : Loop) : Bool := l.live && !l.hold && l.timer == 0

/-- The sample of R371 with the life cycle of R374. -/
def State.sampleLoop (s : State) (t k : Nat) : State :=
  let l := (s.tile t).loops.get {} k
  let occ := s.bufOcc t l.buffer
  let s := { s with nextId := s.nextId + 1 }
  let err : Int := (occ : Int) - l.setpoint
  let integ := if occ ≠ 0 ∧ !s.bufFull t l.buffer occ then clampInt (l.integ + err) (-(l.ilim : Int)) l.ilim
    else l.integ
  let u := err / 2 ^ l.kp + integ / 2 ^ l.ki
  let l := { l with occ := occ, err := err, integ := integ, u := u, nsmp := l.nsmp + 1, timer := l.period }
  let x := ({ s.tile t with loops := (s.tile t).loops.set k l } : Tile).driveBoth l
  let acted := fun (o : Option (Nat × Nat)) => match o with
    | some a => ((x.out a).map (·.2)).getD false
    | none => false
  let l := x.loops.get {} k
  let clp := acted (l.actuator false)
  let clc := acted (l.actuator true)
  let run := if clp || clc then min (l.run + 1) 16 else 0
  let st : LoopState := match l.st with
    | .bound => if run = 16 then .saturated else .running
    | .running => if run = 16 then .saturated else .running
    | .saturated => if run = 0 then .running else .saturated
    | .unbound => .unbound
    | .faulted => .faulted
  let enters := st == .saturated && l.st != .saturated
  let s := s.setTile t { x with
    loops := x.loops.set k { l with clp := clp, clc := clc, run := run, st := st }.settled }
  if enters then s.event (s.loopCtx t) .couplingGain 1 t 0 0 0 else s

/-- LOOP_SAMPLE: a loop that is due samples. -/
def execLoopSample (t k : Nat) (s : State) : Out :=
  .next (if ((s.tile t).loops.get {} k).due && !(s.tile t).vacated then s.sampleLoop t k else s)

/-- A loop enters FAULTED (R374). -/
def State.faultLoop (s : State) (t k : Nat) : State :=
  let l := ((s.tile t).loops.get {} k).settled
  if l.live then
    let s := s.modTile t fun x =>
      ({ x with loops := x.loops.set k { l with st := .faulted } } : Tile).driveBoth l
    s.event (s.loopCtx t) .couplingGain 2 t 0 0 0
  else s

/-- LOOP_FAULT: an uncorrectable soft error in a slot's state. -/
def execLoopFault (t k : Nat) (s : State) : Out := .next (s.faultLoop t k)

/-- The loops of a tile whose level word no longer admits their set point (R374). -/
def State.levelFaults (s : State) (t : Nat) : State :=
  (List.range 16).foldl (fun s k =>
    let l := (s.tile t).loops.get {} k
    if l.live && l.field 0 3 == 1 && decide (s.bufCap t l.buffer < l.setpoint) then s.faultLoop t k else s) s

/-- A slot unbound: actuators are recomputed without it (R374). -/
def Tile.unbindLoop (x : Tile) (k : Nat) : Tile :=
  let l := x.loops.get {} k
  if l.st = .unbound then x
  else ({ x with loops := x.loops.set k { l with st := .unbound, upd := none } } : Tile).driveBoth l

/-- RATE_CREDIT_REFILL: the credits of a tile's engines set to their rate limits (R368). -/
def State.refillCredits (s : State) (t : Nat) : State :=
  s.modTile t fun x =>
    if x.refillDue then { x with copyCredit := x.copyRate, gathCredit := x.gathRate, refillDue := false }
    else x

/-! ### CPLB, CPLR, CPLU, WGT (R373, R377 to R381) -/

/-- Nodes reached from `n` by one edge of a list. -/
def edgesFrom (es : List (Nat × Nat)) (n : Nat) : List Nat := (es.filter (·.1 == n)).map (·.2)

/-- Nodes that `k` or fewer further edges reach from a list of nodes. -/
def reach (es : List (Nat × Nat)) : Nat → List Nat → List Nat
  | 0, l => l
  | k + 1, l => reach es k ((l ++ l.flatMap (edgesFrom es)).eraseDups)

/-- Whether a directed graph has a cycle. -/
def hasCycle (es : List (Nat × Nat)) : Bool :=
  es.any fun e => (reach es es.length [e.2]).contains e.1

/-- The number of an actuator as a node. -/
def actNode (a : Nat × Nat) : Nat := a.1 * 64 + a.2
/-- The number of a buffer as a node. -/
def bufNode (b : Nat × Nat × Nat) : Nat := 1024 + b.1 * 64 + b.2.1 * 4 + b.2.2
/-- The edges of one loop (R373). -/
def Loop.edges (l : Loop) : List (Nat × Nat) :=
  (match l.actuator false with
    | some a => [(actNode a, bufNode l.buffer)]
    | none => []) ++
  (match l.actuator true with
    | some a => [(bufNode l.buffer, actNode a)]
    | none => [])

/-- Whether an actuator, if present, satisfies a test. -/
def actOk (f : Nat × Nat → Bool) : Option (Nat × Nat) → Bool
  | none => true
  | some a => f a

/-- Whether a weight is in 1..64. -/
def weightOk (w : Nat) : Bool := decide (1 ≤ w ∧ w ≤ 64)

/-- Whether a loop has both actuators absent, or one that its buffer cannot have (R373). -/
def Loop.actsBad (l : Loop) : Bool :=
  let k := l.field 0 3
  let ok := actOk fun a => (a.1 == 1 && decide (k < 4)) || (a.1 == 2 && k == 4) || a.1 == 3
  (l.actuator false).isNone && (l.actuator true).isNone || !ok (l.actuator false) || !ok (l.actuator true)

/-- The checks of R373 on slot `k` of tile `t` with the loop `l` in it; `others` are the other bound
slots. -/
def State.loopCheck (s : State) (t : Nat) (l : Loop) (others : List Loop) : Option Cause :=
  let pa := l.actuator false
  let ca := l.actuator true
  let lims := !weightOk l.wmin || !weightOk l.wmax || decide (l.wmax < l.wmin) ||
    (pa.isSome && !weightOk l.basep) || (ca.isSome && !weightOk l.basec)
  if decide (4 < l.field 0 3) || l.actsBad || decide (s.bufCap t l.buffer < l.setpoint) ||
      decide (32767 < l.ilim) || decide (l.period < 16) || decide (1024 < l.period) || lims ||
      others.any (·.buffer == l.buffer) then some .illegalCombination
  else if (pa.isSome && others.any (·.actuator false == pa)) ||
      (ca.isSome && others.any (·.actuator true == ca)) ||
      hasCycle ((l :: others).flatMap Loop.edges) then some .couplingCycle
  else
    let crossed := fun (o : Option (Nat × Nat)) =>
      o.isSome &&
        (let ls := (if l.st = .faulted then [] else [l]) ++
           others.filter fun x => x.live && (x.actuator false == o || x.actuator true == o)
         ls.any fun x => ls.any fun y => decide (y.wmax < x.wmin))
    if decide (l.kp < 2) || decide (l.ki < l.kp + 3) || decide (l.period < 4 * s.bufRt t l.buffer) ||
        crossed pa || crossed ca then some .couplingGain
    else none

/-- The bound slots of a tile other than `k`. -/
def Tile.otherLoops (x : Tile) (k : Nat) : List Loop :=
  ((List.range 16).filter (· != k)).filterMap fun j =>
    let l := (x.loops.get {} j).settled
    if l.st = .unbound then none else some l

/-- Coupling instructions: the controller accepts one of the tile's cores in a clock, and one that it does not accept is
held (R377). -/
def State.couple (s : State) (body : State → Res) : Res :=
  if (s.tile s.myTile).loopServed then .hold .injection
  else body (s.modTile s.myTile fun x => { x with loopServed := true, loopNext := (s.myCore % 8 + 1) % 8 })

/-- CPLB (R374, R378). -/
def execCplb (a b : GReg) (s : State) : Out :=
  .next (s.issue (.cplb a b) { g := a.val :: (if b = 0 then [] else run b.val 3) }
    (tileOnly (.cplb a b) fun s => s.couple fun s =>
      let st := s.me
      let t := s.myTile
      let v := readG st a
      let k := v.toNat % 16
      if b = 0 then .go (s.modTile t fun x => x.unbindLoop k)
      else
        let r := readRun st b.val 3
        let old := (s.tile t).loops.get {} k
        let l := ({ old with bind := (r.getD 0 0) &&& 0xFFFFFF }).params (r.getD 1 0) (r.getD 2 0)
        if old.st ≠ .unbound then .trap .illegalCombination v
        else
          match s.loopCheck t l ((s.tile t).otherLoops k) with
          | some c => .trap c v
          | none =>
            let l := { l with
              st := .bound, hold := false, occ := 0, err := 0, integ := 0, u := 0, run := 0, nsmp := 0,
              clp := false, clc := false, vp := 0, vc := 0, timer := l.period }
            .go ((s.modTile t fun x =>
              ({ x with loops := x.loops.set k l } : Tile).driveBoth l).updateHold t)))

/-- The code of a loop state (R379). -/
def LoopState.code : LoopState → Nat
  | .unbound => 0 | .bound => 1 | .running => 2 | .saturated => 3 | .faulted => 4

/-- The word CPLR.ST (R379). -/
def Loop.stWord (l : Loop) : Nat :=
  l.nsmp.toNat * 2 ^ 32 + l.occ * 2 ^ 16 + l.run * 2 ^ 8 + l.st.code * 32 + l.clc.toNat * 16 +
    l.clp.toNat * 8 + l.hold.toNat * 4
/-- The word CPLR.IN (R379). -/
def Loop.inWord (l : Loop) : Nat := wrap 32 l.integ * 2 ^ 32 + wrap 32 l.err
/-- The word CPLR.OUT (R379). -/
def Loop.outWord (l : Loop) : Nat := l.vc * 2 ^ 40 + l.vp * 2 ^ 32 + wrap 32 l.u
/-- The word CPLR.PAR (R379). -/
def Loop.parWord (l : Loop) : Nat :=
  l.setpoint + l.ilim * 2 ^ 16 + l.period * 2 ^ 32 + l.kp * 2 ^ 48 + l.ki * 2 ^ 52
/-- Word 2 of the run, with the parameters as they stand. -/
def Loop.weightsWord (l : Loop) : Nat := l.wmin + l.wmax * 256 + l.basep * 65536 + l.basec * 2 ^ 24

/-- CPLR (R379): a word of the slot as it stood at the end of the previous clock. -/
def execCplr (d a : GReg) (sel : BitVec 2) (s : State) : Out :=
  .next (s.issue (.cplr d a sel) { g := [d, a] } (tileOnly (.cplr d a sel) fun s => s.couple fun s =>
    let l := (s.tile s.myTile).loopsSeen.get {} ((readG s.me a).toNat % 16)
    s.putG d (BitVec.ofNat 64 (match sel.toNat with
      | 0 => l.stWord
      | 1 => l.inWord
      | 2 => l.outWord
      | _ => l.parWord))))

/-- CPLU (R380). -/
def execCplu (a b : GReg) (rst : Bool) (s : State) : Out :=
  .next (s.issue (.cplu a b rst) { g := a.val :: run b.val 2 } (tileOnly (.cplu a b rst) fun s => s.couple fun s =>
    let st := s.me
    let t := s.myTile
    let v := readG st a
    let k := v.toNat % 16
    let r := readRun st b.val 2
    let old := (s.tile t).loops.get {} k
    let l := old.settled.params (r.getD 0 0) (r.getD 1 0)
    if old.st = .unbound then .trap .illegalCombination v
    else
      match s.loopCheck t l ((s.tile t).otherLoops k) with
      | some c => .trap c v
      | none =>
        let l := if old.due then { old with upd := some (r.getD 0 0, r.getD 1 0, rst || old.upd.any (·.2.2)) }
          else if rst then { l with integ := 0 } else l
        .go (s.modTile t fun x => { x with loops := x.loops.set k l })))

/-- WGT (R381). -/
def execWgt (a : GReg) (s : State) : Out :=
  .next (s.issue (.wgt a) { g := [a] } (tileOnly (.wgt a) fun s => s.couple fun s =>
    let v := readG s.me a
    if v.toNat = 0 ∨ 64 < v.toNat then .trap .illegalCombination v
    else .go (s.modMe fun st => { st with weight := v.setWidth 7 })))

end Sys2Proof.Machine
end

