-- ==== Sys2Proof/Machine/Queue.lean ====
section
/-! DEFINITION. Handler-queue levels, spill rings, arrival, dispatch and refill, the queue registers,
opcode 0x31 and the FIFO forms of opcode 0x3C (R193, R194, R216, R221 to R223, R235, R243 to R259). -/

namespace Sys2Proof.Machine

/-! ### Packets that have arrived (R214, R218) -/

/-- Whether packet `k` has reached its destination and may be delivered: its release is met and no
earlier packet of its stream is still on its way. -/
def State.deliverable (s : State) (k : Nat) : Bool :=
  match s.net[k]? with
  | none => false
  | some p =>
    p.pos == p.dst && !p.moving && s.released p.after && (s.net.take k).all fun q => !p.sameStream q

/-- The state without packet `k`. -/
def State.takePacket (s : State) (k : Nat) : State := { s with net := s.net.eraseIdx k }

/-- Packet `k` handed to its destination, if it may be delivered. -/
def State.deliverPacket (s : State) (k : Nat) (f : State → Packet → State) : State :=
  match s.net[k]? with
  | some p => if s.deliverable k then f (s.takePacket k) p else s
  | none => s

/-! ### Entries and rings (R244, R248) -/

/-- Bytes [63:48] of a queue entry. -/
def QEntry.snapNat (e : QEntry) : Nat :=
  e.snap.entry.toNat + e.snap.stack.toNat * 2 ^ 33 + e.snap.regs.toNat * 2 ^ 44 +
    e.level.toNat * 2 ^ 46 + e.arrt.toNat * 2 ^ 64

/-- The 64 bytes of a queue entry. -/
def QEntry.bytes (e : QEntry) : List Byte := e.msg.flitBytes ++ leBytes 16 e.snapNat

/-- The entry that 64 bytes and its payload flits hold. -/
def QEntry.ofBytes (bs payload : List Byte) : QEntry :=
  let m := Msg.ofFlit (bs.take 48) []
  let w := leNat ((bs.drop 48).take 16)
  { msg := { m with payload := payload.take m.hdr.len.toNat },
    snap := { entry := BitVec.ofNat 32 w, stack := BitVec.ofNat 11 (w / 2 ^ 33),
              regs := BitVec.ofNat 2 (w / 2 ^ 44) },
    level := BitVec.ofNat 2 (w / 2 ^ 46), arrt := BitVec.ofNat 32 (w / 2 ^ 64) }

/-- Ring entries that a message takes (R249). -/
def Msg.need (m : Msg) : Nat := 1 + m.hdr.lclass.toNat

/-- Whether a message is long. -/
def Msg.long (m : Msg) : Bool := m.hdr.lclass != 0

/-- Bytes padded with zeros to `n`. -/
def padTo (n : Nat) (bs : List Byte) : List Byte := bs ++ List.replicate (n - bs.length) 0

/-- log2 of the entries of a ring of context `c`. -/
def State.spLog (s : State) (c : Nat) : Nat := (s.ctx c).spbase.toNat % 32

/-- Address of entry `i` of the ring of level `l` of a core. -/
def State.ringEntry (s : State) (core l i : Nat) : Nat :=
  let c := (s.holder (core / 8)).getD 0
  let g := s.spLog c
  (s.ctx c).spbase.toNat / 0x200000 % 0x8000000 * 0x200000 + (core * 4 + l) * 2 ^ (g + 6) + i % 2 ^ g * 64

/-- Entries of 64 bytes written to a ring from position `i` on; none if a page does not take them. -/
def State.ringWrite (s : State) (core l : Nat) : Nat → Nat → List Byte → Option State
  | 0, _, _ => some s
  | n + 1, i, bs =>
    match s.vaWrite ((s.holder (core / 8)).getD 0) (s.ringEntry core l i) (bs.take 64) with
    | some s' => State.ringWrite s' core l n (i + 1) (bs.drop 64)
    | none => none

/-- Entries of 64 bytes read from a ring. -/
def State.ringRead (s : State) (core l : Nat) : Nat → Nat → Option (List Byte)
  | 0, _ => some []
  | n + 1, i =>
    match s.vaRead ((s.holder (core / 8)).getD 0) (s.ringEntry core l i) 64,
        State.ringRead s core l n (i + 1) with
    | some a, some b => some (a ++ b)
    | _, _ => none

/-- An entry with its payload written to a ring; nothing is written if some page does not take it. -/
def State.ringPutEntry (s : State) (core l i : Nat) (e : QEntry) : Option State :=
  s.ringWrite core l e.msg.need i (e.bytes ++ padTo (64 * e.msg.hdr.lclass.toNat) e.msg.payload)

/-! ### Payload pools (R222, R223, R385) -/

/-- Physical place of a pool slot of a core. -/
def poolAddr (core i : Nat) : Nat := sliceAddr (core / 8) (0x2D0000 + core % 8 * 0x4000 + i * 256)

/-- The pool slots of a core that are free. -/
def Core.freePools (c : Core) : List Nat := (List.range 64).filter fun i => !c.pool.contains i

/-- A free pool slot taken; which one is a free choice. -/
def State.takePool (s : State) (core : Nat) : Option (Nat × State) :=
  match (s.core core).freePools with
  | [] => none
  | i :: r =>
    let l := i :: r
    let k := l.getD (Config.freeChoice s.nextId % l.length) i
    some (k, { s with nextId := s.nextId + 1 }.modCore core fun c => { c with pool := k :: c.pool })

/-- A payload written to its pool slot. -/
def State.writePool (s : State) (core : Nat) (e : QEntry) : State :=
  match e.pool with
  | some i => s.storeQuiet (poolAddr core i) none e.msg.payload
  | none => s

/-- The payload as the pool slot holds it now. -/
def State.poolPayload (s : State) (core : Nat) (e : QEntry) : QEntry :=
  match e.pool with
  | some i => { e with msg := { e.msg with payload := s.readRaw (poolAddr core i) e.msg.payload.length } }
  | none => e

/-! ### Arrival and spill (R235, R249, R252) -/

/-- SpillFull (R252, R412): the message is recorded and lost. The fault ring is that of the context the message
names in CTX, a partner's included (DESIGN CHOICE, assumption log 72). -/
def State.spillFull (s : State) (t : Nat) (m : Msg) : State :=
  let c := m.hdr.ctx.toNat
  let s := if m.hdr.fpost then s.setFlt c else s
  let s := s.faultRecord c
    { flags := { spill := true }, cause := Cause.spillFull.code, tile := t, lost := m.flitBytes }
  if m.hdr.re then s.sendReply t 0 m.hdr true false zeroArgs else s

/-- Spill (R249). -/
def State.spill (s : State) (core l : Nat) (e : QEntry) : State :=
  let v := s.level core l
  let size := 2 ^ s.spLog ((s.holder (core / 8)).getD 0)
  if size < v.count + e.msg.need + 5 * v.depth.toNat then s.spillFull (core / 8) e.msg
  else
    match s.ringPutEntry core l v.tail e with
    | none => s.spillFull (core / 8) e.msg
    | some s =>
      s.modLevel core l fun v =>
        { v with
          tail := (v.tail + e.msg.need) % size, count := v.count + e.msg.need,
          ring := v.ring ++ [(e.msg.need, e.msg.hdr.ctx.toNat)],
          st := match v.st with
            | .empty => .spilling
            | .filling => .spilling
            | .spilling => .spilling
            | .refilling => .refilling
            | .frozen => .frozen }

/-- Whether a level takes arrivals in queue memory (R249). -/
def Level.open (v : Level) : Bool :=
  (v.st == .empty || v.st == .filling) && decide (v.occ + v.resv < v.depth.toNat)

/-- An entry put at the end of a level in queue memory. -/
def Level.append (v : Level) (e : QEntry) : Level :=
  { v with entries := v.entries ++ [e], st := if v.st = .empty then .filling else v.st }

/-- Arrive (R249). -/
def State.arriveLevel (s : State) (core l : Nat) (e : QEntry) : State :=
  if !(s.level core l).open then s.spill core l e
  else if e.msg.long then
    match s.takePool core with
    | none => s.spill core l e
    | some (i, s) =>
      let e := { e with pool := some i }
      (s.writePool core e).modLevel core l fun v => v.append e
  else s.modLevel core l fun v => v.append e

/-- Whether an index is one no program may name (R235 reason 4). -/
def indexForbidden (h : Hdr) : Bool :=
  decide (0xFF0 ≤ h.hidx.toNat ∧ h.hidx.toNat ≤ 0xFFE) || (h.hidx == 0xFFF) != h.fpost

/-- The reason for which the router of tile `t` finds a message undeliverable (R221, R235). -/
def State.refusal (s : State) (t : Nat) (h : Hdr) : Option Nat :=
  let e := s.handler t h.hidx.toNat
  if s.fuses.contains t then some 2
  else if !s.inPlacement h.ctx.toNat t then some 3
  else if indexForbidden h then some 4
  else if !entryValid e then some 0
  else if !entryAdmits e h.dcore.toNat then some 1
  else if entryLong e != (h.lclass != 0) || entryReply e != (h.kind == 1) then some 5
  else none

/-- The entry a message forms at its destination router (R221, R244). -/
def State.entryFor (s : State) (t : Nat) (m : Msg) : QEntry :=
  let e := s.handler t m.hdr.hidx.toNat
  { msg := m, snap := entrySnap e,
    level := if m.hdr.kind = 1 then 0 else if m.hdr.pset then m.hdr.prio else BitVec.ofNat 2 (entryPrio e),
    arrt := s.time.setWidth 32 }

/-- A handler message accepted by the router of tile `t` (R221, R236, R245). -/
def State.arrive (s : State) (t : Nat) (m : Msg) : State :=
  match s.refusal t m.hdr with
  | some r => s.undeliverable t r m
  | none =>
    let e := s.entryFor t m
    s.arriveLevel (8 * t + m.hdr.dcore.toNat) e.level.toNat e

/-- MESSAGE_ARRIVAL. -/
def execMessageArrival (k : Nat) (s : State) : Out :=
  .next (s.deliverPacket k fun s' p => match p.body with
    | .msg m => s'.arrive p.dst m
    | _ => s)

/-! ### Replies (R216, R217, R236, R253) -/

/-- The save record of a frozen core made to agree with one of its reply slots (R253, R407). -/
def State.recordReply (s : State) (core i : Nat) : State :=
  let c := s.core core
  if !c.frozen then s
  else
    match s.coreSave core 0 with
    | none => s
    | some t =>
      let v := c.replies.get {} i
      let bits := fun (f : ReplySlot → Bool) =>
        ((List.range 64).map fun j => if f (c.replies.get {} j) then 2 ^ j else 0).sum
      let order := (List.range 64).map fun j => (c.replyOrder[j]?).getD 255
      ((s.writeTarget t (8192 + 64 * i) (if v.filled then v.entry.bytes else List.replicate 64 0)).writeTarget t 12304
        (leBytes 8 (bits (·.reserved)) ++ leBytes 8 (bits (·.filled)))).writeTarget t
        12336 (order.map (BitVec.ofNat 8))

/-- A reply accepted by the router of tile `t`: it fills its slot, or the slot is freed. -/
def State.arriveReply (s : State) (t : Nat) (m : Msg) : State :=
  let core := 8 * t + m.hdr.dcore.toNat
  let i := m.hdr.rslot.toNat
  match s.refusal t m.hdr with
  | some r => ((s.undeliverable t r m).modCore core fun c => c.freeReplySlot i).recordReply core i
  | none =>
    let e := s.entryFor t m
    let s := s.modCore core fun c =>
      let v := c.replies.get {} i
      { c with replies := c.replies.set i { v with filled := true, entry := e },
               replyOrder := c.replyOrder ++ [i] }
    s.recordReply core i

/-- REPLY_ARRIVAL. -/
def execReplyArrival (k : Nat) (s : State) : Out :=
  .next (s.deliverPacket k fun s' p => match p.body with
    | .reply m => s'.arriveReply p.dst m
    | _ => s)

/-- COUNTER_INCREMENT (R235, R241). -/
def execCounterIncrement (k : Nat) (s : State) : Out :=
  .next (s.deliverPacket k fun s' p => match p.body with
    | .counter h cnt v =>
      let m : Msg := { hdr := h, args := [v.setWidth 64, 0, 0, 0] }
      if s'.fuses.contains p.dst then s'.undeliverable p.dst 2 m
      else if !s'.inPlacement h.ctx.toNat p.dst then s'.undeliverable p.dst 3 m
      else s'.addCount p.dst cnt v.toNat
    | _ => s)

/-! ### Refill (R250, R254) -/

/-- A level that has nothing left in its ring leaves REFILLING. -/
def Level.settle (v : Level) : Level :=
  if v.st = .refilling ∧ v.count = 0 ∧ v.resv = 0 then
    { v with st := if v.occ = 0 then .empty else .filling }
  else v

/-- SPILLING with fewer landed entries than LWM becomes REFILLING. -/
def Level.latch (v : Level) : Level :=
  if v.st = .spilling ∧ v.occ < v.lwm.toNat then { v with st := .refilling } else v

/-- Ring position of the next unread entry. -/
def Level.nextUnread (v : Level) : Nat := v.head + ((v.ring.take v.unread).map (·.1)).sum

/-- Whether a level wants a ring read in this clock. -/
def State.wantsRead (s : State) (core l : Nat) : Bool :=
  let v := (s.level core l).latch
  match v.ring[v.unread]? with
  | none => false
  | some (need, _) => v.st == .refilling && decide (v.occ + v.resv < v.depth.toNat) &&
      (need == 1 || !(s.core core).freePools.isEmpty)

/-- Whether the tile's one ring read of this clock is this level's: of the levels that want one, the first in the
rotation over the tile's 32 rings. -/
def State.ringTurn (s : State) (core l : Nat) : Bool :=
  let x := s.tile (core / 8)
  let order := (List.range 32).map fun i => (x.ringNext + i) % 32
  !x.ringRead &&
    (order.find? fun r => s.wantsRead (core / 8 * 8 + r / 4) (r % 4)) == some (core % 8 * 4 + l)

/-- The tile's ring read of this clock taken by a level. -/
def Tile.ringTaken (x : Tile) (core l : Nat) : Tile :=
  { x with ringRead := true, ringNext := (core % 8 * 4 + l + 1) % 32 }

/-- REFILL_READ: the level latches REFILLING, and when it is its turn the next unread ring entry is read into a
reserved position. A ring page that cannot be read holds the refill. -/
def State.refillRead (s : State) (core l : Nat) : State :=
  let turn := s.ringTurn core l
  let s := s.modLevel core l fun v => v.latch.settle
  let v := s.level core l
  match v.ring[v.unread]? with
  | none => s
  | some (need, _) =>
    if !turn then s
    else
      let s := s.modTile (core / 8) fun x => x.ringTaken core l
      match s.ringRead core l need v.nextUnread with
      | none => s
      | some bs =>
        let c := (s.holder (core / 8)).getD 0
        let s := (List.range need).foldl (fun s i => s.vaCorrect c 2 (s.ringEntry core l (v.nextUnread + i)) 64) s
        let e := { QEntry.ofBytes (bs.take 64) (bs.drop 64) with landed := false, ringAt := need }
        let put := fun (s : State) (e : QEntry) =>
          s.modLevel core l fun v => { v with entries := v.entries ++ [e], unread := v.unread + 1 }
        if need = 1 then put s e
        else
          match s.takePool core with
          | none => s
          | some (i, s) => put s { e with pool := some i }

/-- REFILL_READ. -/
def execRefillRead (core l : Nat) (s : State) : Out := .next (s.refillRead core l)

/-- The first reserved position of a list of entries filled. -/
def landFirst : List QEntry → List QEntry
  | [] => []
  | e :: r => if e.landed then e :: landFirst r else { e with landed := true } :: r

/-- REFILL_LAND: the oldest ring read lands; HEAD passes it. Reads land in the order they were issued, which R250
leaves open (DESIGN CHOICE, assumption log 73). -/
def State.refillLand (s : State) (core l : Nat) : State :=
  match (s.level core l).entries.find? fun e => !e.landed with
  | none => s
  | some e =>
    let size := 2 ^ s.spLog ((s.holder (core / 8)).getD 0)
    (s.writePool core e).modLevel core l fun v =>
      ({ v with
        entries := landFirst v.entries, head := (v.head + e.ringAt) % size, count := v.count - e.ringAt,
        ring := v.ring.drop 1, unread := v.unread - 1 } : Level).settle

/-- REFILL_LAND. -/
def execRefillLand (core l : Nat) (s : State) : Out := .next (s.refillLand core l)

/-! ### Dispatch (R87, R123, R222, R246, R386) -/

/-- What dispatch takes: a level, or the reply level, and its head. -/
abbrev Head := Option Nat × QEntry

/-- The landed heads of a core in the order reply, 0, 1, 2, 3. -/
def State.heads (s : State) (core : Nat) : List Head :=
  (match (s.core core).replyOrder with
    | i :: _ => [(none, ((s.core core).replies.get {} i).entry)]
    | [] => []) ++
  (List.range 4).filterMap fun l =>
    match (s.level core l).entries with
    | e :: _ => if e.landed then some (some l, e) else none
    | [] => none

/-- How long an entry has waited. -/
def State.waited (s : State) (e : QEntry) : Nat := (s.time.setWidth 32 - e.arrt).toNat

/-- Of two aged heads the one that has waited longer; the first of two that have waited equally. -/
def State.older (s : State) (a b : Head) : Head := if s.waited a.2 < s.waited b.2 then b else a

/-- The head R246 chooses, and whether it is promoted. -/
def State.chooseHead (s : State) (core : Nat) : Option (Head × Bool) :=
  let h := s.heads core
  let lim := max 256 (s.ctx ((s.holder (core / 8)).getD 0)).agelim.toNat
  let aged := h.filter fun x => x.1.isSome && decide (lim < s.waited x.2)
  match aged, (s.core core).lastPromoted with
  | x :: r, false => some (r.foldl s.older x, true)
  | _, _ => h.head?.map fun x => (x, false)

/-- The first IDLE strand of a core. -/
def State.firstIdle (s : State) (core : Nat) : Option Nat :=
  ((List.range 4).map (4 * core + ·)).find? fun n => (s.strand n).phase == .idle

/-- Whether a core makes dispatches: a tile core that is not frozen, has no strand that waits for its
blocks, and whose tile is in service. -/
def State.dispatches (s : State) (core : Nat) : Bool :=
  !isGatewayCore core && !(s.core core).frozen && !(s.tile (core / 8)).vacated && s.mgmt.st != .fatal &&
    (List.range 4).all fun k => (s.strand (4 * core + k)).phase != .savedPre

/-- The entry taken out of its level or reply slot. -/
def State.takeHead (s : State) (core : Nat) : Option Nat → State
  | none => s.modCore core fun c => match c.replyOrder with
    | i :: _ => c.freeReplySlot i
    | [] => c
  | some l => s.modLevel core l fun v =>
    let v := { v with entries := v.entries.drop 1 }
    if v.st = .filling ∧ v.entries = [] then { v with st := .empty } else v

/-- MSGSRC of a message (R415). -/
def Hdr.source (h : Hdr) : BitVec 17 :=
  BitVec.ofNat 17 (h.sx.toNat + h.sy.toNat * 32 + h.score.toNat * 1024 + h.sstr.toNat * 8192 +
    h.posted.toNat * 32768 + h.re.toNat * 65536)

/-- Offset of SBASE of strand slot `k` of core `c` of a tile (R386). -/
def stackTop (stksz c k : Nat) : Nat := 0x2D0000 - (4 * c + k) * (stksz * 4096)
/-- Offset of the message buffer entry of strand slot `k` of core `c` (R385). -/
def bufferOff (c k : Nat) : Nat := 0x2F0000 + c * 0x100 + k * 0x40
/-- An own-tile alias address. -/
def aliasVa (off : Nat) : Nat := 0x7F0000000000 + off

/-- The strand as dispatch loads it (R87, R123, R222, R294). -/
def Strand.dispatched (st : Strand) (n : Nat) (e : QEntry) (lvl : Nat) (pc : BitVec 48) (stksz : Nat) :
    Strand :=
  let c := coreOf n % 8
  let sb : Word := BitVec.ofNat 64 (aliasVa (stackTop stksz c (slotOf n)))
  let mpv : Word := BitVec.ofNat 64 (match e.pool with
    | some i => aliasVa (0x2D0000 + c * 0x4000 + i * 256)
    | none => aliasVa (bufferOff c (slotOf n)))
  { st with
    phase := .running,
    g := Vector.ofFn fun i : Fin 32 =>
      if i.val = 2 then sb else if i.val = 3 then mpv
      else if 4 ≤ i.val ∧ i.val < 8 then e.msg.args.getD (i.val - 4) 0 else 0,
    p := 0, w := Vector.replicate 16 0, m := Vector.replicate 8 0, pc := pc, lc := 0, ls := 0, le := 0,
    sbase := sb, slim := sb - BitVec.ofNat 64 (64 * e.snap.stack.toNat), rm := 0, fz := false, flags := 0,
    stepMode := false, rsmd := false, level := BitVec.ofNat 3 lvl, inl := 0, cause := 0,
    hidx := e.msg.hdr.hidx, msgsrc := e.msg.hdr.source, weight := 16, credit := 64, rngctr := 0,
    rngstream := 0, jc0 := 0, jc1 := 0, jstat := Vector.replicate 16 0, code := e.snap.regs, msg := e.msg,
    owed := e.msg.hdr.kind == 0 && e.msg.hdr.re, replied := false, pool := e.pool, seq := 0,
    run := st.run + 1, pend := [], faults := [], hasImage := false, imageVa := 0, resumeWait := false,
    fetched := none, landing := [], acq := [] }

/-- The strand that dispatch starts, its message buffer entry written; its first instruction issues no earlier
than the second clock after this one (R123). -/
def State.startStrand (s : State) (n : Nat) (e : QEntry) (lvl : Nat) : State :=
  let c := (s.holder (tileOf n)).getD 0
  let pc := s.entryPc c e.snap.entry
  let z := (s.ctx c).stksz
  let s := s.storeQuiet (sliceAddr (tileOf n) (bufferOff (coreOf n % 8) (slotOf n))) none
    (padTo 64 e.msg.flitBytes)
  (s.source c).modStrand n fun st => { st.dispatched n e lvl pc z with startAt := s.time + 2 }

/-- Dispatch (R246): the chosen head is given to the lowest-numbered IDLE strand. -/
def State.dispatch (s : State) (core : Nat) : State :=
  if !s.dispatches core then s
  else
    match s.firstIdle core, s.chooseHead core with
    | some n, some ((l, e), promoted) =>
      if s.freeBlocks core < e.snap.regs.toNat + 1 then s
      else
        let s := (s.takeHead core l).modCore core fun c => { c with lastPromoted := promoted }
        s.startStrand n e (l.getD 4)
    | _, _ => s

/-- DISPATCH. -/
def execDispatch (core : Nat) (s : State) : Out := .next (s.dispatch core)

/-! ### Freezing a core's levels (R253) -/

/-- The landed entries of a level written in front of HEAD, the last one first: where the ring lacks room the oldest
are the ones lost (DESIGN CHOICE, assumption log 74). -/
def State.unqueue (s : State) (core l : Nat) : List QEntry → State
  | [] => s
  | e :: r =>
    let v := s.level core l
    let size := 2 ^ s.spLog ((s.holder (core / 8)).getD 0)
    let head := (v.head + size - e.msg.need % size) % size
    let s :=
      if size < v.count + e.msg.need then s.spillFull (core / 8) e.msg
      else
        match s.ringPutEntry core l head e with
        | none => s.spillFull (core / 8) e.msg
        | some s => s.modLevel core l fun v =>
          { v with head := head, count := v.count + e.msg.need,
                   ring := (e.msg.need, e.msg.hdr.ctx.toNat) :: v.ring }
    State.unqueue s core l r

/-- One level frozen: ring reads in flight are discarded, entries go to the ring, their pool slots and
queue memory are freed. -/
def State.freezeLevel (s : State) (core l : Nat) : State :=
  let es := (s.level core l).entries
  let landed := (es.filter (·.landed)).map (s.poolPayload core)
  let s := s.modLevel core l fun v => { v with entries := [], unread := 0, st := .frozen }
  let s := s.modCore core fun c => es.foldl (fun c e => c.freePool e.pool) c
  s.unqueue core l landed.reverse

/-- The four levels frozen. -/
def State.freezeLevels (s : State) (core : Nat) : State :=
  (List.range 4).foldl (fun s l => s.freezeLevel core l) s

/-- The word of a level (R243). -/
def Level.word (v : Level) : Nat := v.depth.toNat * 65536 + v.lwm.toNat
/-- A level with its level word written. -/
def Level.ofWord (v : Level) (w : Nat) : Level :=
  { v with depth := BitVec.ofNat 9 (w / 65536), lwm := BitVec.ofNat 9 w }

/-- A level of a resumed core (R253, R254). -/
def Level.thaw (v : Level) : Level := { v with st := if v.ring.isEmpty then .empty else .spilling }

/-! ### Queue registers (R255 to R258) -/

/-- Whether the push path of a completion action waits for the inbound queue of a core (R255, R300). -/
def State.pushWaits (s : State) (core : Nat) : Bool :=
  ((s.tile (core / 8)).replays.any fun r => r.core == core % 8) ||
  (List.range 8).any fun c =>
    (s.core (core / 8 * 8 + c)).jobs.any fun e => match e.2.action with
      | .pushing _ => e.2.comp1.toNat % 8 == core % 8
      | _ => false

/-- Whether the entries of a tile's Beryl FIFO are reached by core `c`'s q3 (R194, R353). -/
def Fabric.boundIn (f : Fabric) (c : Nat) : Bool :=
  let w := (f.bind.getD 0 0).toNat
  decide (w % 4 = 1) && !f.inClosed && w / 2 ^ (8 + c) % 2 == 1
/-- Whether they are reached by core `c`'s q2. -/
def Fabric.boundOut (f : Fabric) (c : Nat) : Bool :=
  let w := (f.bind.getD 0 0).toNat
  !f.bind.isEmpty && decide (w / 4 % 4 = 0) && w / 2 ^ (16 + c) % 2 == 1

/-- Depth of the inbound queue. -/
def inqDepth : Nat := 16
/-- Depth of the Beryl FIFOs. -/
def fifoDepth : Nat := 32

/-- The core whose inbound queue q1 of a core reaches. -/
def nextCore (core : Nat) : Nat := core / 8 * 8 + (core % 8 + 1) % 8

/-- Whether an inbound queue takes an entry in this clock: it has room, and it has taken none yet (R255, R256). -/
def Core.inqOpen (c : Core) : Bool := decide (c.inq.length < inqDepth) && c.inqFresh == 0

/-- The core with an entry pushed into its inbound queue in this clock. -/
def Core.inqPush (c : Core) (v : Word) : Core := { c with inq := c.inq ++ [v], inqFresh := c.inqFresh + 1 }

/-- A word pushed by a strand into an inbound queue; none while it is held. -/
def State.pushStrand (s : State) (core : Nat) (v : Word) : Option State :=
  let c := s.core core
  let rival := s.pushWaits core
  if !c.inqOpen ∨ (rival ∧ c.pushCompletionNext) then none
  else some (s.modCore core fun c =>
    { c.inqPush v with pushCompletionNext := if rival then true else c.pushCompletionNext })

/-- An entry pushed into the input FIFO; none while it is held. -/
def State.pushFifo (s : State) (e : List (BitVec 32)) : Option State :=
  let f := (s.tile s.myTile).fabric
  if f.boundIn (s.myCore % 8) ∧ f.inFifo.length < fifoDepth then
    some (s.modTile s.myTile fun t =>
      { t with fabric := { t.fabric with inFifo := t.fabric.inFifo ++ [e], inFresh := t.fabric.inFresh + 1 } })
  else none

/-- A push that issues, or is held because its queue is full. -/
def pushRes : Option State → Res
  | some s => .go s
  | none => .hold .queueFull

/-- QPUSH (R258). -/
def execQpush (a : GReg) (n : BitVec 2) (s : State) : Out :=
  .next (s.issue (.qpush a n) { g := [a] } (tileOnly (.qpush a n) fun s =>
    let v := readG s.me a
    if n = 1 then pushRes (s.pushStrand (nextCore s.myCore) v)
    else
      pushRes (s.pushFifo
        ([v.setWidth 32, (v >>> 32).setWidth 32] ++ List.replicate 62 0))))

/-- The output FIFO's head, for a core whose q2 is bound; an entry pushed in this clock is not seen (R256). -/
def State.outHead (s : State) : Option BEntry :=
  let f := (s.tile s.myTile).fabric
  if f.boundOut (s.myCore % 8) ∧ f.outFresh < f.outFifo.length then f.outFifo.head? else none

/-- The state with the output FIFO's head removed. -/
def State.outPop (s : State) : State :=
  s.modTile s.myTile fun t => { t with fabric := { t.fabric with outFifo := t.fabric.outFifo.drop 1 } }

/-- The word that q0 or q2 gives, and the state with it removed; an entry pushed in this clock is not seen
(R256). -/
def State.popWord (s : State) (n : BitVec 2) : Option (Word × State) :=
  if n = 0 then
    match (s.core s.myCore).inq with
    | v :: _ =>
      if (s.core s.myCore).inqFresh < (s.core s.myCore).inq.length then
        some (v, s.modCore s.myCore fun c => { c with inq := c.inq.drop 1 })
      else none
    | [] => none
  else
    match s.outHead with
    | some e => some ((e.elems.getD 1 0).setWidth 64 <<< 32 ||| (e.elems.getD 0 0).setWidth 64, s.outPop)
    | none => none

/-- QPOP (R258). -/
def execQpop (d : GReg) (n : BitVec 2) (s : State) : Out :=
  .next (s.issue (.qpop d n) { g := [d] } (tileOnly (.qpop d n) fun s =>
    match s.popWord n with
    | some (v, s') => s.putGAnd s' d v
    | none => .hold .queueEmpty))

/-- QPEEK (R258). -/
def execQpeek (d : GReg) (n : BitVec 2) (s : State) : Out :=
  .next (s.issue (.qpeek d n) { g := [d] } (tileOnly (.qpeek d n) fun s =>
    match s.popWord n with
    | some (v, _) => s.putG d v
    | none => .hold .queueEmpty))

/-- Entries a queue register holds (R258). -/
def State.queueCount (s : State) (n : BitVec 2) : Nat :=
  let f := (s.tile s.myTile).fabric
  match n.toNat with
  | 0 => (s.core s.myCore).inq.length
  | 1 => (s.core (nextCore s.myCore)).inq.length
  | 2 => if f.boundOut (s.myCore % 8) then f.outFifo.length else 0
  | _ => if f.boundIn (s.myCore % 8) then f.inFifo.length else fifoDepth

/-- QCNT (R258). -/
def execQcnt (d : GReg) (n : BitVec 2) (s : State) : Out :=
  .next (s.issue (.qcnt d n) { g := [d] } (tileOnly (.qcnt d n) fun s =>
    s.putG d (BitVec.ofNat 64 (s.queueCount n))))

/-- VQPUSH (R193, R194). -/
def execVqpush (a : WReg) (m : MReg) (n : BitVec 2) (s : State) : Out :=
  .next (s.issue (.vqpush a m n) { w := run a.val (n.toNat + 1) } (tileOnly (.vqpush a m n) fun s =>
    let st := s.me
    let l := runLanes st .rns a (n.toNat + 1)
    let l := maskInto (readM st m) (List.replicate l.length 0) l
    pushRes (s.pushFifo ((l ++ List.replicate (64 - l.length) 0).map (BitVec.ofNat 32)))))

/-- VQPOP (R193, R194). -/
def execVqpop (d : WReg) (m : MReg) (t : VType) (n : BitVec 2) (s : State) : Out :=
  .next (s.issue (.vqpop d m t n) { w := run d.val (n.toNat + 1) } (tileOnly (.vqpop d m t n) fun s =>
    let st := s.me
    match s.outHead with
    | none => .hold .queueEmpty
    | some e =>
      let old := runLanes st .rns d (n.toNat + 1)
      let l := maskInto (readM st m) old (e.elems.map (·.toNat))
      .go (s.outPop.modMe fun x => writeRun x .rns d l)))

end Sys2Proof.Machine
end

