-- ==== Sys2Proof/Machine/Barrier.lean ====
section
/-! DEFINITION. Barrier objects, their units, continuations and deadlines, opcode 0x30 from sub-op 3 on
(R266 to R279). -/

namespace Sys2Proof.Machine

/-! ### The object (R266) -/

/-- The fields of a barrier object, reserved ones included. -/
structure BarObj where
  phase : Bool := false
  drop : Nat := 0
  expect : Nat := 0
  arrived : Nat := 0
  res0 : Nat := 0
  ovr : Bool := false
  init : Bool := false
  bovr : Bool := false
  res1 : Nat := 0
  pending : Nat := 0
  res2 : Nat := 0
  nwait : Nat := 0
  head : Nat := 65535
  baseb : Nat := 0
  dbase : Nat := 0
  deriving DecidableEq, Repr

/-- The object that 32 bytes hold. -/
def BarObj.ofBytes (bs : List Byte) : BarObj :=
  let w0 := fieldAt bs 0 8
  let w1 := fieldAt bs 8 8
  let w2 := fieldAt bs 16 8
  let w3 := fieldAt bs 24 8
  { phase := w0 / 2 ^ 63 == 1, drop := w0 / 2 ^ 48 % 2 ^ 15, expect := w0 / 2 ^ 32 % 2 ^ 16,
    arrived := w0 / 2 ^ 16 % 2 ^ 16, res0 := w0 / 4 % 2 ^ 14, ovr := w0 / 2 % 2 == 1, init := w0 % 2 == 1,
    bovr := w1 / 2 ^ 63 == 1, res1 := w1 / 2 ^ 56 % 2 ^ 7, pending := w1 % 2 ^ 56,
    res2 := w2 / 2 ^ 32, nwait := w2 / 2 ^ 16 % 2 ^ 16, head := w2 % 2 ^ 16,
    baseb := w3 / 2 ^ 32, dbase := w3 % 2 ^ 32 }

/-- The 32 bytes of an object. -/
def BarObj.bytes (o : BarObj) : List Byte :=
  leBytes 8 (o.phase.toNat * 2 ^ 63 + o.drop * 2 ^ 48 + o.expect * 2 ^ 32 + o.arrived * 2 ^ 16 + o.res0 * 4 +
    o.ovr.toNat * 2 + o.init.toNat) ++
  leBytes 8 (o.bovr.toNat * 2 ^ 63 + o.res1 * 2 ^ 56 + o.pending) ++
  leBytes 8 (o.res2 * 2 ^ 32 + o.nwait * 2 ^ 16 + o.head) ++ leBytes 8 (o.baseb * 2 ^ 32 + o.dbase)

/-- P(x) of R271: the low 56 bits. -/
def pend56 (i : Int) : Nat := wrap 56 i

/-- Whether PENDING is below zero. -/
def BarObj.negative (o : BarObj) : Bool := decide (2 ^ 55 ≤ o.pending)

/-! ### Units and their pools (R267, R268) -/

/-- The barrier unit of a place: 0..767 the tiles, 768 + k the Spinel layer of stack k; an object in the
buffer of gateway core n counts as unit 784 + n, which holds no continuations. -/
def unitOfPlace (pa : Nat) : Nat :=
  match sliceOf pa with
  | some (t, _) => t
  | none => if isHbm pa then 768 + pa / 65536 % 16 else 784 + (pa - bufferAddr 0 0) / 0x100000

/-- Lowest-numbered tile attached to a stack (R20, R276). -/
def stackTile (k : Nat) : Nat := if k < 8 then 4 * k else 736 + 4 * (k - 8)

/-- The tile from which a unit posts. -/
def unitTile (u : Nat) : Nat :=
  if u < 768 then u else if u < 784 then stackTile (u - 768) else portTile (u - 784)

/-- The pool of a unit; an entry it does not list is free. -/
def State.pool (s : State) (u : Nat) : SMap Cont :=
  if u < 768 then (s.tile u).conts else (s.spinel (u - 768)).conts

/-- The state with a unit's pool replaced. -/
def State.setPool (s : State) (u : Nat) (p : SMap Cont) : State :=
  if u < 768 then s.modTile u fun t => { t with conts := p }
  else s.modSpinel (u - 768) fun k => { k with conts := p }

/-- An entry of a pool. -/
def poolEntry (p : SMap Cont) (i : Nat) : Option Cont := (p.find? fun e => e.1 == i).map (·.2)

/-- The entries for the object at `pa` that are reachable from a link, in list order; a link met twice, or an
entry of another object, ends the list (assumption log 31). -/
def chainFrom (p : SMap Cont) (pa : Nat) : Nat → List Nat → Nat → List Nat
  | 0, _, _ => []
  | fuel + 1, seen, i =>
    match poolEntry p i with
    | none => []
    | some c => if seen.contains i || c.obj != pa then [] else i :: chainFrom p pa fuel (i :: seen) c.next

/-- The list of a barrier. -/
def State.chain (s : State) (u pa : Nat) (o : BarObj) : List Nat := chainFrom (s.pool u) pa 256 [] o.head

/-- The pool with a list of entries linked in this order. -/
def relink (p : SMap Cont) : List Nat → SMap Cont
  | [] => p
  | i :: r =>
    let p := relink p r
    match poolEntry p i with
    | some c => p.set i { c with next := r.headD 65535 }
    | none => p

/-- A continuation message (R276). -/
def Cont.msg (c : Cont) (t : Nat) (tmo : Bool) : Msg :=
  { hdr := { (c.hdr.withSource t 0 0) with posted := true, tmo := tmo, ctx := BitVec.ofNat 8 c.ctx }, args := c.args }

/-- A continuation posted by a unit; one satisfied after the clock in which the kernel of its strand entered DRAINING
is discarded (R276, R394). -/
def State.postCont (s : State) (u : Nat) (c : Cont) (tmo : Bool) : State :=
  if s.pastDrain c.ctx then s else s.post (unitTile u) 3 [] (c.msg (unitTile u) tmo)

/-- PostCont: the entries posted in list order, the rest left linked (R272, R276). -/
def State.postConts (s : State) (u pa : Nat) (o : BarObj) (tmo : Bool) (which : Cont → Bool) : State × BarObj :=
  let l := s.chain u pa o
  let p := s.pool u
  let out := l.filter fun i => match poolEntry p i with
    | some c => which c
    | none => false
  let keep := l.filter fun i => !out.contains i
  let s := s.setPool u (relink (p.filter fun e => !out.contains e.1) keep)
  let s := out.foldl (fun s i => match poolEntry p i with
    | some c => s.postCont u c tmo
    | none => s) s
  if out = [] then (s, o)
  else (s, { o with head := keep.headD 65535, nwait := (o.nwait + 65536 - out.length) % 65536 })

/-! ### The operations (R271 to R275) -/

/-- Complete() of R272; `ctx` is the requester's context, none for a peer's operation. -/
def State.barComplete (s : State) (u pa : Nat) (ctx : Option Nat) (o : BarObj) : State × BarObj × Bool :=
  if o.init && o.arrived == o.expect then
    if o.pending = 0 then
      let (s, o) := s.postConts u pa o false fun c => c.phase == o.phase
      let e := (o.expect + 65536 - o.drop) % 65536
      (s, { o with phase := !o.phase, expect := e, drop := 0, arrived := 0, pending := o.baseb,
                   dbase := s.time.toNat % 2 ^ 32, init := e != 0 }, true)
    else if o.negative then
      let s := match ctx with
        | some c => s.event c .barrierOverrun 0 (unitTile u) 0 0 0
        | none => s
      (s, { o with bovr := true }, false)
    else (s, o, false)
  else (s, o, false)

/-- An arrival (R271): none when it is refused. ARRIVED and DROP keep the widths of their fields (R266; for DROP, whose
field has 15 bits, assumption log 81). -/
def State.barArrive (s : State) (u pa : Nat) (ctx : Option Nat) (add : Word) (drop : Bool) (o : BarObj) :
    State × BarObj × Option Nat :=
  if !o.init || o.arrived == o.expect then (s, { o with ovr := true }, none)
  else
    let r := o.phase
    let o := { o with arrived := (o.arrived + 1) % 65536, pending := pend56 (o.pending + add.toNat % 2 ^ 56),
                      drop := if drop then (o.drop + 1) % 2 ^ 15 else o.drop }
    let (s, o, c) := s.barComplete u pa ctx o
    (s, o, some (c.toNat * 2 + r.toNat))

/-- BINIT at the home (R271). -/
def State.barInit (s : State) (u pa : Nat) (ctx : Option Nat) (e : BitVec 16) (y : BitVec 32) (o : BarObj) :
    State × BarObj :=
  let (s, o) := s.postConts u pa o true fun _ => true
  let o : BarObj :=
    { phase := o.phase, expect := e.toNat, init := true, pending := y.toNat, baseb := y.toNat,
      dbase := s.time.toNat % 2 ^ 32 }
  if e = 0 then
    let (s, o, _) := s.barComplete u pa ctx o
    (s, o)
  else (s, o)

/-- Clocks since the phase began. -/
def State.barAge (s : State) (o : BarObj) : Nat := (s.time.toNat % 2 ^ 32 + 2 ^ 32 - o.dbase) % 2 ^ 32

/-- BWAIT at the home (R275): the entry `c` is posted, registered or refused; one with a deadline is a source (R393). -/
def State.barWait (s : State) (u : Nat) (c : Cont) (o : BarObj) : State × BarObj × Nat :=
  if !o.init then (s, o, 0)
  else if o.phase != c.phase then (s.postCont u c false, o, 2)
  else if c.deadline ≠ 0 ∧ c.deadline.toNat ≤ s.barAge o then
    (s.postCont u c true, o, 3)
  else
    let p := s.pool u
    match (List.range 256).find? fun i => (poolEntry p i).isNone with
    | none => (s, o, 0)
    | some i =>
      let l := s.chain u c.obj o
      let s := s.setPool u (relink (p.set i c) (l ++ [i]))
      let s := if c.deadline = 0 then s else s.source c.ctx
      (s, { o with head := (l ++ [i]).headD 65535, nwait := (o.nwait + 1) % 65536 }, 1)

/-- The continuation a BWAIT of context `c` describes (R275, R276). -/
def State.contFor (s : State) (c : Nat) (phase : Bool) (deadline : BitVec 32) (dest : Word)
    (args : List Word) (pa : Nat) (key : Option Nat) : Cont :=
  let (x0, y0) := s.offsetOf c
  { hdr := ({} : Hdr).withDest dest x0 y0, args := args, ctx := c, phase := phase, deadline := deadline,
    obj := pa, key := key }

/-- Whether the result of an operation can acquire (R278). -/
def BarrierOp.acquires : BarrierOp → Bool
  | .test _ => true
  | _ => false

/-- One barrier operation on the object at a place (R267, R271, R275): its result, or none for a refused
arrival. -/
def State.barrierAt (s : State) (ctx : Option Nat) (pa : Nat) (key : Option Nat) (op : BarrierOp) :
    State × Option Nat :=
  let u := unitOfPlace pa
  let o := BarObj.ofBytes (s.readPlain pa key 32)
  let put := fun (s : State) (o : BarObj) => s.storeAt pa key o.bytes
  match op with
  | .init e y =>
    let (s, o) := s.barInit u pa ctx e y o
    (put s o, some 0)
  | .arrive add drop =>
    let (s, o, r) := s.barArrive u pa ctx add drop o
    (put s o, r)
  | .bytes sub =>
    let o := { o with pending := pend56 ((o.pending : Int) - (sub.toNat % 2 ^ 56 : Nat)) }
    let (s, o, _) := s.barComplete u pa ctx o
    (put s o, some 0)
  | .test ph => (s, some (o.init && o.phase != ph).toNat)
  | .wait ph d dest args =>
    let (s, o, r) := s.barWait u (s.contFor (ctx.getD 0) ph d dest args pa key) o
    (put s o, some r)

/-- A barrier access performed at its home; a home that finds an error returns POISON (R83). -/
def State.performBarrier (s : State) (a : Access) : State × AccStatus :=
  match a.target, a.kind with
  | .mem pa key, .barrier op =>
    if s.poisoned pa 32 then (s, .failed .poison)
    else
      match (s.correct a.ctx pa 32).barrierAt (some a.ctx) pa key op with
      | (s, some r) => (s, .done (leBytes 8 r))
      | (s, none) => (s, .failed .barrierOverrun)
  | _, _ => (s, .sent)

/-- BARRIER_OPERATION: entry `k` of the accesses in flight is performed at its home. -/
def State.barrierOperation (s : State) (k : Nat) : State :=
  match s.acc[k]? with
  | some a =>
    if s.mayPerform a && !a.kind.plain && a.target.local_ then
      let (s', st) := s.performBarrier a
      ({ s' with acc := s'.acc.modify k fun x => { x with status := st } } : State).sendAnswer a [a.id]
    else s
  | none => s

/-- BARRIER_OPERATION. -/
def execBarrierOperation (k : Nat) (s : State) : Out := .next (s.barrierOperation k)

/-- Whether an entry of a unit waits: it is reachable from its barrier (R267). -/
def State.contWaits (s : State) (u i : Nat) (c : Cont) : Bool :=
  (s.chain u c.obj (BarObj.ofBytes (s.readPlain c.obj c.key 32))).contains i

/-- Whether an entry of a unit has passed its deadline in the phase it waits for (R277). -/
def State.contLate (s : State) (u : Nat) (i : Nat) (c : Cont) : Bool :=
  let o := BarObj.ofBytes (s.readPlain c.obj c.key 32)
  c.deadline != 0 && o.init && o.phase == c.phase && s.contWaits u i c &&
    decide (c.deadline.toNat ≤ s.barAge o)

/-- BARRIER_DEADLINE_CHECK (R277): every entry of a unit that has passed its deadline is posted. -/
def State.deadlineCheck (s : State) (u : Nat) : State :=
  ((s.pool u).map (·.1)).foldl (fun s i =>
    match poolEntry (s.pool u) i with
    | none => s
    | some c =>
      if s.contLate u i c then
        let o := BarObj.ofBytes (s.readPlain c.obj c.key 32)
        let keep := (s.chain u c.obj o).filter (· != i)
        let s := s.setPool u (relink ((s.pool u).filter fun e => e.1 != i) keep)
        let s := s.postCont u c true
        s.storeAt c.obj c.key
          { o with head := keep.headD 65535, nwait := (o.nwait + 65535) % 65536 : BarObj }.bytes
      else s) s

/-- BARRIER_DEADLINE_CHECK. -/
def execBarrierDeadlineCheck (u : Nat) (s : State) : Out := .next (s.deadlineCheck u)

/-! ### The instructions (R269, R270) -/

/-- A barrier instruction: the check, then the access. In the issuing tile it is performed in place; a
release waits there for the strand's earlier accesses. Elsewhere the result of a BTEST may acquire, so nothing of the
strand issues before it (R278). -/
def State.barrierAccess (s : State) (d : GReg) (ea : Word) (rel noLease : Bool) (op : BarrierOp) : Res :=
  match s.checkAccess s.cur ea 32 32 needBarrier with
  | .bad c b => .trap c b
  | .ok t p =>
    let after := if rel then s.releaseSet s.cur else []
    let a := { s.accessOf ea 32 (.barrier op) t p (.g d 8 false) with after := after }
    if noLease && !t.local_ then .trap .illegalCombination ea
    else if isOwn s.myCore t && !p then
      if !s.released after then .hold .injection
      else
        let a := { a with id := s.nextId }
        let (s', st) := { s with nextId := s.nextId + 1 }.performBarrier a
        match st with
        | .done bs =>
          let v := loadWord 8 false bs
          if s.me.spBad d v then .trapIn s' .stackLimit v else .go (s'.modMe fun x => writeG x d v)
        | .failed c => .go (s'.raise s.cur (a.lateFault c))
        | .sent => .go s'
    else s.injecting false (.go (s.issueGroup [a] (some { g := some d, acq := op.acquires })))

/-- BINIT (R271). -/
def execBinit (a b : GReg) (s : State) : Out :=
  .next (s.issue (.binit a b) { g := a.val :: run b.val 2 } fun s =>
    let r := readRun s.me b.val 2
    s.barrierAccess 0 (readG s.me a) false false (.init ((r.getD 0 0).setWidth 16) ((r.getD 1 0).setWidth 32)))

/-- BARR (R271). -/
def execBarr (d a : GReg) (s : State) : Out :=
  .next (s.issue (.barr d a) { g := [d, a] } fun s =>
    s.barrierAccess d (readG s.me a) true false (.arrive 0 false))

/-- BARRB (R271). -/
def execBarrb (d a b : GReg) (s : State) : Out :=
  .next (s.issue (.barrb d a b) { g := [d, a, b] } fun s =>
    s.barrierAccess d (readG s.me a) true false (.arrive (readG s.me b) false))

/-- BDROP (R271). -/
def execBdrop (d a : GReg) (s : State) : Out :=
  .next (s.issue (.bdrop d a) { g := [d, a] } fun s =>
    s.barrierAccess d (readG s.me a) true false (.arrive 0 true))

/-- BTEST (R271). -/
def execBtest (d a b : GReg) (s : State) : Out :=
  .next (s.issue (.btest d a b) { g := [d, a, b] } fun s =>
    s.barrierAccess d (readG s.me a) false false (.test ((readG s.me b).getLsbD 0)))

/-- BWAIT (R270, R275). -/
def execBwait (d a b : GReg) (s : State) : Out :=
  .next (s.issue (.bwait d a b) { g := d.val :: a.val :: run b.val 6 } (tileOnly (.bwait d a b) fun s =>
    let r := readRun s.me b.val 6
    let w := (r.getD 0 0).toNat
    s.barrierAccess d (readG s.me a) false true
      (.wait (w % 2 == 1) (BitVec.ofNat 32 (w / 2 ^ 32)) (r.getD 1 0) (r.drop 2))))

/-- BBYTE (R271). -/
def execBbyte (a b : GReg) (s : State) : Out :=
  .next (s.issue (.bbyte a b) { g := [a, b] } fun s =>
    s.barrierAccess 0 (readG s.me a) true false (.bytes (readG s.me b)))

end Sys2Proof.Machine
end

