-- ==== Sys2Proof/Machine/Group.lean ====
section
/-! DEFINITION. Groups on the module and in the UALink domain: MCAST, MCASTL, GRED, the passing stages,
reductions and acknowledgements (R54, R280 to R292). -/

namespace Sys2Proof.Machine

/-! ### Table entries (R281 to R283) -/

/-- An entry of a group table: its two words. -/
abbrev GEntry := Word × Word

/-- The router-table entry of a group at tile `t`. -/
def State.routerEntry (s : State) (t gid : Nat) : GEntry := (s.tile t).groups.get (0, 0) gid
/-- The domain-table entry of a group. -/
def State.domainEntry (s : State) (gid : Nat) : GEntry := s.domains.get (0, 0) gid

/-- A field of word 0. -/
def entryField (e : GEntry) (at_ width : Nat) : Nat := e.1.toNat / 2 ^ at_ % 2 ^ width
/-- STATE: 0 FREE, 1 BUILDING, 2 ACTIVE, 3 REVOKING. -/
def entryState (e : GEntry) : Nat := entryField e 62 2
/-- CTX. -/
def entryCtx (e : GEntry) : Nat := entryField e 54 8
/-- Whether DOWN has a port. -/
def entryDown (e : GEntry) (port : Nat) : Bool := entryField e (48 + port) 1 == 1
/-- UP. -/
def entryUp (e : GEntry) : Nat := entryField e 37 3
/-- NMEM. -/
def entryNmem (e : GEntry) : Nat := entryField e 28 9
/-- MIDX. -/
def entryMidx (e : GEntry) : Nat := entryField e 20 8
/-- RED. -/
def entryRed (e : GEntry) : Bool := entryField e 19 1 == 1
/-- RRED. -/
def entryRred (e : GEntry) : Bool := entryField e 17 1 == 1

/-- An entry with its state replaced. -/
def withState (e : GEntry) (st : Nat) : GEntry :=
  (BitVec.ofNat 64 (e.1.toNat % 2 ^ 62 + st * 2 ^ 62), e.2)

/-- Number of the unit that holds the domain table. -/
def domainUnit : Nat := 768

/-- A group entry of a unit. -/
def State.groupEntry (s : State) (u gid : Nat) : GEntry :=
  if u = domainUnit then s.domainEntry gid else s.routerEntry u gid

/-- The state with a group entry replaced. -/
def State.setGroup (s : State) (u gid : Nat) (e : GEntry) : State :=
  if u = domainUnit then { s with domains := s.domains.set gid e }
  else s.modTile u fun t => { t with groups := t.groups.set gid e }

/-- Whether a unit may activate an entry (R283): a reduction root has at most two. -/
def State.mayCommit (s : State) (u : Nat) (e : GEntry) : Bool :=
  u == domainUnit || !entryRed e ||
    decide ((((List.range 4096).map (s.routerEntry u)).filter fun x =>
      entryState x == 2 && entryRed x && entryUp x == 7).length < 2)

/-- GROUP_BUILD: FREE becomes BUILDING. -/
def State.groupBuild (s : State) (u gid : Nat) : State :=
  let e := s.groupEntry u gid
  if entryState e = 0 then s.setGroup u gid (withState e 1) else s

/-- GROUP_COMMIT: BUILDING becomes ACTIVE, or CERR is set. -/
def State.groupCommit (s : State) (u gid : Nat) : State :=
  let e := s.groupEntry u gid
  if entryState e ≠ 1 then s
  else if s.mayCommit u e then s.setGroup u gid (withState e 2)
  else s.setGroup u gid (e.1 ||| 0x40000, e.2)

/-- GROUP_REVOKE: ACTIVE becomes REVOKING; rounds left open at the root are discarded, with an event for
each (R289). -/
def State.groupRevoke (s : State) (u gid : Nat) : State :=
  let e := s.groupEntry u gid
  if entryState e ≠ 2 then s
  else
    let s := s.setGroup u gid (withState e 3)
    if u = domainUnit then s
    else
      let open_ := (s.tile u).rounds.filter fun r => r.gid == gid
      let s := s.modTile u fun t => { t with rounds := t.rounds.filter fun r => r.gid != gid }
      open_.foldl (fun s _ => s.event (entryCtx e) .illegalCombination 0 u 0 0 0) s

/-- Whether a packet belongs to a group and is held at, or on its way to, a unit. -/
def Packet.ofGroup (p : Packet) (u gid : Nat) : Bool :=
  match p.body with
  | .group _ g _ _ _ => u != domainUnit && g == gid && (p.pos == u || p.dst == u)
  | .domain _ g _ _ _ => u == domainUnit && g == gid
  | _ => false

/-- GROUP_FREED: REVOKING becomes FREE once the unit holds no packet of the group. -/
def State.groupFreed (s : State) (u gid : Nat) : State :=
  let e := s.groupEntry u gid
  if entryState e = 3 ∧ !s.net.any fun p => p.ofGroup u gid then s.setGroup u gid (withState e 0) else s

/-- Whether a step's unit holds a group table. -/
def groupUnit (u gid : Nat) : Bool := decide (u ≤ domainUnit ∧ gid < 4096)

/-- GROUP_BUILD (R283). -/
def execGroupBuild (u gid : Nat) (s : State) : Out := .next (if groupUnit u gid then s.groupBuild u gid else s)
/-- GROUP_COMMIT (R283). -/
def execGroupCommit (u gid : Nat) (s : State) : Out := .next (if groupUnit u gid then s.groupCommit u gid else s)
/-- GROUP_REVOKE (R283). -/
def execGroupRevoke (u gid : Nat) (s : State) : Out := .next (if groupUnit u gid then s.groupRevoke u gid else s)
/-- GROUP_FREED (R283). -/
def execGroupFreed (u gid : Nat) (s : State) : Out := .next (if groupUnit u gid then s.groupFreed u gid else s)

/-- A host write to word `w` of an entry (R281 to R283): fields in FREE and BUILDING, and a change of
state that R283 allows. -/
def State.writeGroup (s : State) (u gid w : Nat) (v : Word) : State :=
  let e := s.groupEntry u gid
  let free := entryState e ≤ 1
  if w = 1 then
    if free then s.setGroup u gid (e.1, if u = domainUnit then e.2 else v &&& 0xF800FFFF) else s
  else
    let mask : Word := if u = domainUnit then 0x3FFF9FFFFFFFFFFF else 0x3FFFFFFFFFFA0000
    let s := if free then s.setGroup u gid ((e.1 &&& ~~~ mask) ||| (v &&& mask), e.2) else s
    match entryState e, v.toNat / 2 ^ 62 with
    | 0, 1 => s.groupBuild u gid
    | 1, 2 => s.groupCommit u gid
    | 2, 3 => s.groupRevoke u gid
    | _, _ => s

/-! ### Filters and members (R286) -/

/-- The field of a packet that FSEL names. -/
def filterField (e : GEntry) (h : Hdr) : Option (BitVec 16) :=
  match e.2.toNat / 2 ^ 30 % 4 with
  | 0 => none
  | 1 => some (BitVec.ofNat 16 (h.sy.toNat * 32 + h.sx.toNat))
  | 2 => some h.seq
  | _ => some (h.hidx.setWidth 16)

/-- Whether an entry's filter drops a packet; a reserved condition is a free choice. -/
def State.filtered (s : State) (e : GEntry) (h : Hdr) : Bool :=
  match filterField e h with
  | none => false
  | some f =>
    let v : BitVec 16 := BitVec.ofNat 16 e.2.toNat
    match e.2.toNat / 2 ^ 27 % 8 with
    | 0 => f == v
    | 1 => f != v
    | 2 => f.slt v
    | 3 => !f.slt v
    | 4 => f.ult v
    | 5 => !f.ult v
    | _ => Config.freeChoice s.nextId % 2 == 1

/-- The routers that copies reach from those of a list, each once; `fuel` bounds the ports that are looked at. -/
def State.routersBelow (s : State) (gid : Nat) : Nat → List Nat → List Nat → List Nat
  | 0, seen, _ => seen
  | _, seen, [] => seen
  | fuel + 1, seen, t :: r =>
    if seen.contains t then State.routersBelow s gid fuel seen r
    else State.routersBelow s gid fuel (seen ++ [t])
      (((List.range 4).filter (entryDown (s.routerEntry t gid))).map (neighbour t) ++ r)

/-- Member indices at and below a router. -/
def State.membersBelow (s : State) (gid t : Nat) : List Nat :=
  ((s.routersBelow gid 4096 [] [t]).filter fun r => entryDown (s.routerEntry r gid) 5).map fun r =>
    entryMidx (s.routerEntry r gid)

/-- A tree climbs through no router twice, so through at most 768 (R281). -/
def treeFuel : Nat := 768

/-- The root that climbing from a router reaches. -/
def State.rootOf (s : State) (gid : Nat) : Nat → Nat → Option Nat
  | 0, _ => none
  | fuel + 1, t =>
    let u := entryUp (s.routerEntry t gid)
    if u = 7 then some t else if u < 4 then State.rootOf s gid fuel (neighbour t u) else none

/-- A message of a group accepted at its member; whether it was queued or spilled (R290 code 0). -/
def State.arriveCounted (s : State) (t : Nat) (m : Msg) : State × Bool :=
  let held := fun (s : State) =>
    ((List.range 4).map fun l =>
      let v := s.level (8 * t + m.hdr.dcore.toNat) l
      v.entries.length + v.ring.length).sum
  let s' := s.arrive t m
  (s', decide (held s < held s'))

/-- The units of a store of a payload: 8 bytes each, the last one perhaps shorter (R63). -/
def payloadUnits (addr : Word) : Nat → List Byte → List (Word × List Byte)
  | 0, _ => []
  | fuel + 1, bs => if bs.isEmpty then [] else (addr, bs.take 8) :: payloadUnits (addr + 8) fuel (bs.drop 8)

/-- The tile a message names as its source. -/
def Hdr.sourceTile (h : Hdr) : Nat := h.sy.toNat * 32 + h.sx.toNat

/-- An address as a member tile resolves it: its own-tile alias is its slice (R59, R286). -/
def memberAddr (t : Nat) (addr : Word) : Word :=
  match aliasOf addr.toNat with
  | some off => BitVec.ofNat 64 (0x700000000000 + t * 0x400000 + off)
  | none => addr

/-- The check of a store that a multicast brings to member tile `t`, in the name of a sender on tile `from_`: as a
store by the sender, on the slice of the member, and against the range locks of the sender's tile alone (R77,
R286). -/
def State.memberCheck (s : State) (c t from_ : Nat) (a : Word) (n : Nat) : Checked :=
  match (if from_ = t then lockHit (s.tile t).locks a.toNat n true else none) with
  | some b => .bad .rangeLock (BitVec.ofNat 64 b)
  | none => s.checkLocks c (8 * t) [] (memberAddr t a) n 1 needW

/-- MCASTL.ST at a member: every unit is checked, then every unit is stored; false if one is refused or
meets an error. -/
def State.memberStore (s : State) (c t from_ : Nat) (addr : Word) (bs : List Byte) : State × Bool :=
  let us := payloadUnits addr 32 bs
  let target := fun (u : Word × List Byte) => match s.memberCheck c t from_ u.1 u.2.length with
    | .bad _ _ => none
    | .ok _ true => none
    | .ok t false => some (t, u.2)
  let ts := us.map target
  if addr.toNat % 8 ≠ 0 ∨ ts.any (·.isNone) then (s, false)
  else
    ts.foldl (fun (acc : State × Bool) x => match x with
      | none => acc
      | some (.mem pa key, b) =>
        if acc.1.partlyPoisoned pa b.length then (acc.1, false) else (acc.1.storeAt pa key b, acc.2)
      | some (.lease i off key, b) => match acc.1.peerStore i off key b with
        | (s, none) => (s, acc.2)
        | (s, some _) => (s, false)) (s, true)

/-- The copy of a group packet at a member tile (R286). -/
def State.memberCopy (s : State) (t : Nat) (e : GEntry) (m : Msg) (work : GroupWork) (mc : Nat) : State :=
  let r := match work with
    | .message =>
      ((List.range 8).filter fun c => entryField e (40 + c) 1 == 1).foldl (fun (acc : State × Bool) c =>
        let h := { m.hdr with
          kind := 0, re := false, rels := false, rslot := 0, rhidx := 0, dcore := BitVec.ofNat 3 c,
          dx := BitVec.ofNat 5 (tileX t), dy := BitVec.ofNat 5 (tileY t) }
        let (s, ok) := acc.1.arriveCounted t { m with hdr := h }
        (s, acc.2 && ok)) (s, true)
    | .store addr => s.memberStore m.hdr.ctx.toNat t m.hdr.sourceTile addr m.payload
    | .reduce _ _ => (s, true)
  r.1.memberCode mc (entryMidx e) (if r.2 then 0 else 3)

/-- A copy of a group packet sent on from router `t` to a neighbour; `lines` are the datelines that the packet has
crossed (R443). -/
def State.forwardGroup (s : State) (t port : Nat) (m : Msg) (gid : Nat) (work : GroupWork) (climb : Bool)
    (mc : Nat) (lines : Bool × Bool) : State :=
  (s.source m.hdr.ctx.toNat).forward t (neighbour t port) m.hdr.ctx.toNat lines (.group m gid work climb mc)

/-- A packet replicated at a passing stage on its way down. -/
def State.replicate (s : State) (t : Nat) (m : Msg) (gid : Nat) (work : GroupWork) (mc : Nat)
    (lines : Bool × Bool) : State :=
  let e := s.routerEntry t gid
  let drop := s.filtered e m.hdr
  let s := { s with nextId := s.nextId + 1 }
  if drop then (s.membersBelow gid t).foldl (fun s i => s.memberCode mc i 3) s
  else
    let s := (List.range 4).foldl (fun s p => if entryDown e p then s.forwardGroup t p m gid work false mc lines else s) s
    if entryDown e 5 then s.memberCopy t e m work mc else s

/-! ### Reduction (R54, R288, R289) -/

/-- The 32 bytes of a contribution as one number. -/
def contribNat (m : Msg) : Nat := argsNat m.args

/-- One lane of a contribution, widened: `w` bits at position `j`. -/
def laneOf (v w j : Nat) : Nat := v / 2 ^ (w * j) % 2 ^ w

/-- RouterReduce of R54 on the values of one lane, in the codes of GRED's type. The result of one contribution is a
result like any other: a NaN is canonical, and so is an RNS24 value (R30, R45). -/
def routerReduce (ty : Nat) (xs : List Nat) : Nat :=
  match xs with
  | [] => 0
  | x :: r =>
    match ty with
    | 0 => (roundFmt .f32 rmRNE false (decodeFp .f32 (r.foldl afaddBits x))).1
    | 1 =>
      let acc := r.foldl (fun a y => afaddBits a (y * 65536)) (x * 65536)
      (roundFmt .bf16 rmRNE false (decodeFp .f32 acc)).1
    | 2 => r.foldl (fun a y => (a + y) % 2 ^ 32) x
    | _ => rnsCanon (r.foldl rnsAdd x)

/-- The result of a complete round: the contributions by increasing member index. -/
def reduceRound (ty : Nat) (ms : List Msg) : List Word :=
  let vs := ms.map contribNat
  let w := if ty = 1 then 16 else 32
  let lanes := (List.range (256 / w)).map fun j => routerReduce ty (vs.map fun v => laneOf v w j)
  argWords ((lanes.mapIdx fun j x => x % 2 ^ w * 2 ^ (w * j)).sum)

/-- A round with the contribution of member `i`. -/
def Round.add (r : Round) (i : Nat) (m : Msg) (ty : BitVec 2) : Round :=
  { r with parts := r.parts ++ [(i, m, ty)] }

/-- A contribution joins the oldest open round of its group that lacks its member. -/
def joinRound (gid i : Nat) (m : Msg) (ty : BitVec 2) : List Round → List Round
  | [] => [{ gid := gid, parts := [(i, m, ty)] }]
  | r :: rs =>
    if r.gid = gid ∧ r.parts.all fun p => p.1 != i then r.add i m ty :: rs else r :: joinRound gid i m ty rs

/-- The message of a complete round (R288). -/
def roundMsg (t : Nat) (e : GEntry) (r : Round) : Msg × Bool :=
  let parts := (List.range (entryNmem e)).filterMap fun i => r.parts.find? fun p => p.1 == i
  match parts with
  | [] => ({}, true)
  | p :: _ =>
    let same := parts.all fun q => q.2.2 == p.2.2
    let h0 := p.2.1.hdr
    let h : Hdr :=
      { hidx := h0.hidx, prio := h0.prio, pset := h0.pset, posted := true, ctx := h0.ctx }
    ({ hdr := h.withSource t 0 0,
       args := if same then reduceRound p.2.2.toNat (parts.map fun q => q.2.1) else zeroArgs }, same)

/-- REDUCTION_ROUND: a complete round of group `gid` at root `t` is summed and its result multicast. -/
def State.finishRound (s : State) (t gid : Nat) : State :=
  let e := s.routerEntry t gid
  match (s.tile t).rounds.find? fun r => r.gid == gid && r.parts.length == entryNmem e with
  | none => s
  | some r =>
    let s := s.modTile t fun x => { x with rounds := x.rounds.erase r }
    let (m, same) := roundMsg t e r
    let s := if same then s else s.event (entryCtx e) .illegalCombination 0 t 0 0 0
    let (q, s) := s.unitSeq t 0
    s.replicate t { m with hdr := { m.hdr with seq := q } } gid .message 0 (false, false)

/-- A contribution at its root (R285, R288). -/
def State.contribute (s : State) (t gid : Nat) (m : Msg) (ty : BitVec 2) (i : Nat) : State :=
  let e := s.routerEntry t gid
  if entryState e ≠ 2 then s
  else if !entryRed e then s.event (entryCtx e) .illegalCombination 0 t 0 0 0
  else
    (s.modTile t fun x => { x with rounds := joinRound gid i m ty x.rounds }).finishRound t gid

/-- Rounds of a group in which tile `t`, member `i` of the tree with this root, has a contribution, counting those
still on their way (R289). -/
def State.openRounds (s : State) (gid t i : Nat) (root : Option Nat) : Nat :=
  (match root with
    | some r => ((s.tile r).rounds.filter fun x => x.gid == gid && x.parts.any fun p => p.1 == i).length
    | none => 0) +
  (s.net.filter fun p => match p.body with
    | .group m g (.reduce _ j) _ _ => g == gid && j == i && m.hdr.sourceTile == t
    | _ => false).length

/-! ### GROUP_PACKET -/

/-- The state with a tracked multicast changed. -/
def State.modMcast (s : State) (id : Nat) (f : MCast → MCast) : State :=
  { s with mcasts := s.mcasts.map fun m => if m.id = id then f m else m }

/-- A group packet at its root (R286, R290). -/
def State.atRoot (s : State) (t : Nat) (m : Msg) (gid : Nat) (work : GroupWork) (mc : Nat)
    (lines : Bool × Bool) : State :=
  let e := s.routerEntry t gid
  match work with
  | .reduce ty i => s.contribute t gid m ty i
  | _ =>
    if entryState e ≠ 2 then s.mcastRefused mc (2 ^ 256 - 1)
    else
      (s.modMcast mc fun x =>
        { x with admitted := true, tile := t,
                 members := (List.range (entryNmem e)).map fun i => { idx := i } }).replicate t m gid work mc lines

/-- A group packet at a passing stage. -/
def State.groupStage (s : State) (t : Nat) (m : Msg) (gid : Nat) (work : GroupWork) (climb : Bool) (mc : Nat)
    (lines : Bool × Bool) : State :=
  let e := s.routerEntry t gid
  if !climb then (s.replicate t m gid work mc lines).mcastFinish mc
  else if entryUp e = 7 then (s.atRoot t m gid work mc lines).mcastFinish mc
  else if entryUp e < 4 ∧ 2 ≤ entryState e then s.forwardGroup t (entryUp e) m gid work true mc lines
  else s.mcastRefused mc (2 ^ 256 - 1)

/-- GROUP_PACKET (R286). -/
def execGroupPacket (k : Nat) (s : State) : Out :=
  .next (s.deliverPacket k fun s' p => match p.body with
    | .group m gid work climb mc => s'.groupStage p.dst m gid work climb mc (p.dlx, p.dly)
    | _ => s)

/-! ### The domain (R282, R290, R292) -/

/-- The port tile through which packets reach the west I/O die. -/
def westTile : Nat := 128

/-- The record of member `i` of a domain group, read from local HBM; none if it cannot be read. -/
def State.memberRecord (s : State) (c : Nat) (e : GEntry) (i : Nat) : Option Member :=
  let va := e.1.toNat % 2 ^ 45 * 16 + 16 * i
  match s.xlate c va needR with
  | .ok (.mem pa key) =>
    if isHbm pa && !s.poisoned pa 16 then
      let w := leNat (s.readPlain pa key 8)
      some { idx := i, peer := w % 1024, first := w / 2 ^ 10 % 16, second := w / 2 ^ 14 % 16,
             lease := w / 2 ^ 18 % 4096, addr := BitVec.ofNat 64 (leNat (s.readPlain (pa + 8) key 8)) }
    else none
  | _ => none

/-- A member whose write takes a port, if it waits for one and one is usable (R447). -/
def State.takePort (s : State) (x : Member) : Member :=
  if x.used.isSome || x.code.isSome then x
  else match s.choosePort x.first x.second with
    | some p => { x with used := some p, sentAt := s.time.toNat }
    | none => x

/-- The writes of a payload to the members that have just taken a port (R292). -/
def portWrites (payload : List Byte) (old new : List Member) : List PeerMsg :=
  (old.zip new).filterMap fun x =>
    if x.1.used.isSome then none
    else x.2.used.map fun p => .access p x.2.peer x.2.lease x.2.addr.toNat (.write payload)

/-- The writes of the admitted UALink multicasts that wait for a port take one and leave (R447 step 4). -/
def State.takePorts (s : State) : State :=
  let new := fun (x : MCast) => if x.domain && x.admitted then x.members.map s.takePort else x.members
  { s with mcasts := s.mcasts.map fun x => { x with members := new x },
           sent := s.sent ++ s.mcasts.flatMap fun x => portWrites x.payload x.members (new x) }

/-- DOMAIN_MULTICAST: the west I/O die admits a multicast and sends the members their writes of the payload to
BASE + `off`, each under its lease. -/
def State.domainMulticast (s : State) (m : Msg) (gid : Nat) (off : Word) (alt : Bool) (mc : Nat) : State :=
  let e := s.domainEntry gid
  let c := m.hdr.ctx.toNat
  if entryState e ≠ 2 ∨ entryCtx e ≠ c then s.mcastRefused mc (2 * ((4 ^ 128 - 1) / 3))
  else
    let n := entryField e 47 7 + 1
    let s := s.vaCorrect c (n / 4096 + 2) (e.1.toNat % 2 ^ 45 * 16) (16 * n)
    let recs := (List.range n).map (s.memberRecord c e)
    let bad := recs.any (·.isNone)
    let members : List Member := recs.mapIdx fun i r => match r with
      | none => { idx := i, code := some 2 }
      | some x =>
        let x : Member := { x with addr := x.addr + off }
        let x : Member := if alt then { x with first := x.second, second := x.first } else x
        if bad then { x with code := some 2 } else s.takePort x
    let s := { s with sent := s.sent ++ portWrites m.payload (List.replicate n {}) members }
    let s := if bad then s.event c .pageAbsent 0 westTile 0 0 0 else s
    (s.modMcast mc fun x =>
      { x with admitted := true, sentAt := s.time.toNat, payload := m.payload, members := members }).mcastFinish mc

/-- DOMAIN_MULTICAST (R292). -/
def execDomainMulticast (k : Nat) (s : State) : Out :=
  .next (s.deliverPacket k fun s' p => match p.body with
    | .domain m gid off alt mc => s'.domainMulticast m gid off alt mc
    | _ => s)

/-- A member of an admitted domain multicast whose outcome is still awaited. -/
def State.awaited (s : State) (m i : Nat) : Option (MCast × Member) :=
  match s.mcasts.find? fun x => x.id == m && x.domain && x.admitted with
  | none => none
  | some x => (x.members.find? fun y => y.idx == i && y.code.isNone).map fun y => (x, y)

/-- Whether a member of multicast `x` can no longer be answered: it has found no port for 2^20 clocks, or it has taken
one and no answer has come for 2^20 clocks, or the link of that port is DOWN or RETIRED (R290, R447). -/
def State.memberLost (s : State) (x : MCast) (y : Member) : Bool :=
  match y.used with
  | none => decide (x.sentAt + portWait ≤ s.time.toNat)
  | some p => s.portState p == .down || s.portState p == .retired || decide (y.sentAt + portWait ≤ s.time.toNat)

/-- UALINK_WRITE_ANSWER: the answer to a member's write, from the accelerator it names (R290). A write that has not
been sent has no answer, and one that comes too late or by a lost link is none; an answer of another accelerator is a
route mismatch. -/
def execUalinkWriteAnswer (m i peer code : Nat) (s : State) : Out :=
  .next (match s.awaited m i with
    | none => s
    | some (x, y) =>
      if s.memberLost x y then (s.memberCode m i 2).mcastFinish m
      else if y.used.isNone then s
      else
        (s.memberCode m i (if peer ≠ y.peer then 3 else if code = 2 ∨ 3 < code then 3 else code)).mcastFinish m)

/-- MULTICAST_TIMEOUT: no port or no answer within 2^20 clocks, or the link of the port used is gone (R290, R447). -/
def execMulticastTimeout (m i : Nat) (s : State) : Out :=
  .next (match s.awaited m i with
    | none => s
    | some (x, y) => if s.memberLost x y then (s.memberCode m i 2).mcastFinish m else s)

/-! ### MCAST, MCASTL, GRED (R284, R285) -/

/-- The header a group word gives a packet. -/
def State.groupHdr (s : State) (w : Word) (re : Bool) (slot len : Nat) : Hdr :=
  let v := w.toNat
  { kind := 6, hidx := BitVec.ofNat 12 (v / 2 ^ 17), pset := v / 2 ^ 16 % 2 == 1, prio := BitVec.ofNat 2 (v / 2 ^ 14),
    re := re, rslot := BitVec.ofNat 6 slot, rhidx := if re then destRhidx w else 0,
    len := BitVec.ofNat 9 len, lclass := BitVec.ofNat 3 (payloadFlits len), ctx := BitVec.ofNat 8 s.myCtx }

/-- The consulted entry's check (R285 step 2). -/
def State.entryUsable (s : State) (e : GEntry) : Bool := entryState e == 2 && entryCtx e == s.myCtx

/-- A group packet sent by the issuing strand; a multicast with RE = 1, and every domain multicast, is
tracked until its members' outcomes are known. -/
def State.groupSend (s : State) (m : Msg) (dom : Bool) (mk : Nat → Body) : State :=
  let mc := s.nextId + 1
  let s := { s with nextId := s.nextId + 2 }
  let track := m.hdr.re || dom
  let s := if track then { s with mcasts := s.mcasts ++
      [{ id := mc, ctx := s.myCtx, hdr := m.hdr, domain := dom, tile := westTile }] } else s
  (s.source s.myCtx).inject s.myTile (if dom then westTile else s.myTile) false s.myCtx []
    (mk (if track then mc else 0))

/-- The header of a group packet with the sender's fields. -/
def State.groupFrom (s : State) (w : Word) (re : Bool) (slot len : Nat) : Hdr :=
  { s.strandHdr s.cur (s.groupHdr w re slot len) with kind := 6 }

/-- MCAST (R284 to R286). -/
def execMcast (d a b : GReg) (re : Bool) (s : State) : Out :=
  .next (s.issue (.mcast d a b re) { g := d.val :: a.val :: run b.val 4 } (noReply re fun s =>
    let st := s.me
    let w := readG st a
    let gid := w.toNat % 4096
    if w.toNat / 2 ^ 12 % 2 = 1 then .trap .illegalCombination w
    else if !s.entryUsable (s.routerEntry s.myTile gid) then .trap .handlerAbsent w
    else
      s.injecting false (s.withReply re d fun s' slot =>
        let m : Msg := { hdr := s.groupFrom w re slot 0, args := readRun st b.val 4 }
        s'.groupSend m false fun mc => .group m gid .message true mc)))

/-- MCASTL (R284 to R286, R292). -/
def execMcastl (d a b : GReg) (alt str re : Bool) (s : State) : Out :=
  .next (s.issue (.mcastl d a b alt str re) { g := d.val :: a.val :: run b.val 5 } (noReply re fun s =>
    let st := s.me
    let w := readG st a
    let gid := w.toNat % 4096
    let dom := w.toNat / 2 ^ 12 % 2 == 1
    let r := readRun st b.val 5
    let e := if dom then s.domainEntry gid else s.routerEntry s.myTile gid
    if (dom && !str) || (alt && !dom) then .trap .illegalCombination w
    else if !s.entryUsable e then .trap .handlerAbsent w
    else
      match s.payloadCheck (r.getD 4 0) with
      | .error (c, v) => .trap c v
      | .ok pa =>
        if str && (r.getD 0 0).toNat % 8 != 0 then .trap .misaligned (r.getD 0 0)
        else
          s.injecting false (s.withPayload (r.getD 4 0) pa re d fun s' slot bs =>
            let m : Msg := { hdr := s.groupFrom w re slot bs.length, args := r.take 4, payload := bs }
            s'.groupSend m dom fun mc =>
              if dom then .domain m gid (r.getD 0 0) alt mc
              else .group m gid (if str then .store (r.getD 0 0) else .message) true mc)))

/-- GRED (R284, R285, R288, R289). -/
def execGred (a b : GReg) (t : BitVec 2) (s : State) : Out :=
  .next (s.issue (.gred a b t) { g := a.val :: run b.val 4 } fun s =>
    let st := s.me
    let w := readG st a
    let gid := w.toNat % 4096
    let e := s.routerEntry s.myTile gid
    if w.toNat / 2 ^ 12 % 2 = 1 ∨ !entryRred e ∨ !entryDown e 5 then .trap .illegalCombination w
    else if !s.entryUsable e then .trap .handlerAbsent w
    else if 2 ≤ s.openRounds gid s.myTile (entryMidx e) (s.rootOf gid treeFuel s.myTile) then .hold .injection
    else
      let m : Msg := { hdr := s.groupFrom w false 0 0, args := readRun st b.val 4 }
      s.injecting false (.go (s.groupSend m false fun _ => .group m gid (.reduce t (entryMidx e)) true 0)))

end Sys2Proof.Machine
end

