-- ==== Sys2Proof/Machine/Job.lean ====
section
/-! DEFINITION. Jobs: slots, completion runs, the copy engine, the gather unit and the Spinel layer, their
translation requests, errors and completion actions, and the instructions that wait for jobs
(R74 to R78, R293 to R316, R430). -/

namespace Sys2Proof.Machine

/-! ### Job slots (R293) -/

/-- The job in a slot of a core. -/
def State.job (s : State) (core slot : Nat) : Job := (s.core core).jobs.get {} slot
/-- The state with a job changed. -/
def State.modJob (s : State) (core slot : Nat) (f : Job → Job) : State :=
  s.modCore core fun c => { c with jobs := c.jobs.set slot (f (c.jobs.get {} slot)) }
/-- The state with one piece of a job changed. -/
def State.modPiece (s : State) (core slot idx : Nat) (f : Piece → Piece) : State :=
  s.modJob core slot fun j => { j with pieces := j.pieces.map fun p => if p.idx = idx then f p else p }
/-- The state with one piece of a job in another state. -/
def State.setPiece (s : State) (core slot idx : Nat) (st : PieceState) : State :=
  s.modPiece core slot idx fun p => { p with st := st }

/-- The lowest-numbered free slot of a core. -/
def Core.freeSlot (c : Core) : Option Nat :=
  (List.range 16).find? fun i => (c.jobs.get {} i).st == .free

/-- Whether the job in a slot is one of the present run of strand `n` (R293). -/
def State.jobOf (s : State) (n slot : Nat) : Bool :=
  let j := s.job (coreOf n) slot
  j.st != .free && j.strand == n && j.run == (s.strand n).run

/-- Whether the strand that issued a job is still in the run that issued it. -/
def State.jobLive (s : State) (j : Job) : Bool :=
  (s.strand j.strand).run == j.run && (s.strand j.strand).phase != .idle

/-- An error of a job found at `time`: the one with the lowest place is kept (R311). -/
def Job.note (j : Job) (idx : Nat) (c : Cause) (addr : Nat) (time : Word) : Job :=
  if j.err.isNone ∨ idx < j.errIdx then
    { j with err := some c.code, errIdx := idx, errAddr := BitVec.ofNat 64 addr, errTime := time }
  else j

/-! ### The completion run (R297) -/

/-- ACT of a completion word. -/
def compAct (w : Word) : Nat := w.toNat % 8
/-- JC of a completion word. -/
def compJc (w : Word) : Nat := w.toNat / 8 % 4

/-- A command with its completion run; the rest of the run is read only when ACT is not 0. -/
def State.withComp (s : State) (i : Instr) (b : GReg) (f : Word → Word → Word → Res) : Res :=
  let w := readG s.me b
  if b = 0 then f 0 0 0
  else if compAct w = 0 then f w 0 0
  else if budget s.me.code ≤ b.val + 2 then .trap .illegalInstruction (wordOf i)
  else if s.me.pend.any fun p => p.blocks { g := run b.val 3 } then .hold .operand
  else
    let r := readRun s.me b.val 3
    f w (r.getD 1 0) (r.getD 2 0)

/-! ### The checks of an engine command (R302) -/

/-- An engine command as it is issued: `limits` lists, in order, whether a limit is passed and the value
that passes it, `aligns` the addresses with their alignment, `strides` the strides with theirs, `ranges`
the ranges of R75 as (destination, first byte, length); `bounds` replaces the check of the ranges. -/
structure Cmd where
  kind : JobKind
  fn : Nat := 0
  desc : List Word := []
  limits : List (Bool × Word) := []
  aligns : List (Word × Nat) := []
  strides : List (Nat × Nat) := []
  ranges : List (Bool × Nat × Nat) := []
  bounds : Option (State → Option (Cause × Nat)) := none
  overlap : Bool := false

/-- The alignment that a completion action asks of its address (R298). -/
def actAlign (comp comp1 : Word) : List (Word × Nat) :=
  match compAct comp with
  | 1 => [(comp1, 8)]
  | 3 => [(comp1, 32)]
  | _ => []

/-- The scratchpad range of a completion action's address. -/
def actRange (comp comp1 : Word) : List (Nat × Nat) :=
  if 0x700000000000 ≤ comp1.toNat ∧ comp1.toNat < 0x800000000000 then
    (actAlign comp comp1).map fun x => (comp1.toNat, x.2)
  else []

/-- The bounds of a command's ranges (step 3 of R302). -/
def State.cmdBounds (s : State) (q : Cmd) : Option (Cause × Nat) :=
  match q.bounds with
  | some f => f s
  | none => (q.ranges.filter fun r => r.2.2 != 0).findSome? fun r => s.boundsCheck s.myCtx r.2.1 r.2.2

/-- The first check of R302 that an engine command fails. -/
def State.cmdFault (s : State) (comp comp1 : Word) (q : Cmd) : Option Res :=
  if compJc comp = 3 ∨ 6 ≤ compAct comp then some (.trap .illegalCombination comp)
  else
    match q.limits.find? (·.1) with
    | some (_, v) => some (.trap .illegalCombination v)
    | none =>
      match (q.aligns ++ actAlign comp comp1).find? fun x => x.1.toNat % x.2 != 0 with
      | some (v, _) => some (.trap .misaligned v)
      | none =>
        if q.strides.any fun x => x.1 % x.2 != 0 then some (.trapOpen .misaligned)
        else
          match (s.cmdBounds q).or
              ((actRange comp comp1).findSome? fun r => s.boundsCheck s.myCtx r.1 r.2) with
          | some (c, a) => some (.trap c (BitVec.ofNat 64 a))
          | none => if q.overlap then some (.trapOpen .illegalCombination) else none

/-- Free entries of a tile's range-lock table (R75). -/
def Tile.freeLocks (t : Tile) : Nat := 64 - t.locks.length

/-- The entries that a command registers (R75). -/
def Cmd.locks (q : Cmd) (t core slot ctx : Nat) : List RangeLock :=
  (q.ranges.filter fun r => r.2.2 != 0).map fun r =>
    { dst := r.1, lo := r.2.1, hi := r.2.1 + r.2.2 - 1, core := core % 8, job := slot, ctx := ctx, origin := t }

/-- A new job in a slot, with its ranges registered (R76, R293, R295). -/
def State.newJob (s : State) (slot : Nat) (comp comp1 comp2 : Word) (q : Cmd) : State :=
  let j : Job :=
    { st := .issued, kind := q.kind, strand := s.cur, run := s.me.run, ctx := s.myCtx, fn := q.fn,
      desc := q.desc, comp := comp, comp1 := comp1, comp2 := comp2, hidx := s.me.hidx,
      errTile := s.myTile, after := s.releaseSet s.cur }
  let s' := s.modTile s.myTile fun t =>
    { t with locks := t.locks ++ q.locks s.myTile s.myCore slot s.myCtx }
  (s'.modJob s.myCore slot fun _ => j).source s.myCtx

/-- An engine command issued: it is checked, it waits for a slot, for range-lock entries and for what
`room` asks, and then takes its slot; `enter` does what else its issue does (R293, R302). -/
def State.command (s : State) (d : GReg) (comp comp1 comp2 : Word) (q : Cmd)
    (room : State → Bool) (enter : State → Nat → State) : Res :=
  match s.cmdFault comp comp1 q with
  | some r => r
  | none =>
    match (s.core s.myCore).freeSlot with
    | none => .hold .jobSlots
    | some slot =>
      if (s.tile s.myTile).freeLocks < (q.locks 0 0 0 0).length then .hold .lockTable
      else if !room s then .hold .injection
      else s.putGAnd (enter (s.newJob slot comp comp1 comp2 q) slot) d (BitVec.ofNat 64 slot)

/-! ### Translation for engines (R309, R428, R431) -/

/-- What an engine's access finds at an address. -/
inductive EngX where
  | absent
  | fail (c : Cause) (addr : Nat)
  | ok (t : Target)
  deriving DecidableEq, Repr

/-- The checks and the translation of `n` bytes within one granule for a job of context `c` on core
`core`. -/
def State.engX (s : State) (c core va n : Nat) (need : Need) : EngX :=
  match s.boundsCheck c va n with
  | some (k, a) => .fail k a
  | none =>
    match s.resolve c core va need with
    | .absent => .absent
    | .denied => .fail .pagePermission va
    | .revoked => .fail .leaseRevoked va
    | .poisoned _ => .fail .poison va
    | .ok t => .ok t

/-! ### Reads and writes of engines (R83, R163, R311) -/

/-- Bytes an engine read: what could not be read, the bytes, and the positions whose unit held an
uncorrectable error. The bytes of such a unit are free values. -/
structure EngRead where
  cause : Option Cause := none
  bytes : List Byte := []
  bad : List Nat := []

/-- `n` bytes read by an engine. -/
def State.engineRead (s : State) (c : Nat) (t : Target) (n : Nat) : State × EngRead :=
  match t with
  | .mem pa key =>
    let s := s.correct c pa n
    let bs := s.readPlain pa key n
    let bad := (List.range n).filter fun i => s.poison.contains ((pa + i) / 8 * 8)
    if bad.isEmpty then (s, { bytes := bs })
    else
      let (s, fr) := s.freeBytes n
      (s, { bytes := (List.range n).map fun i => if bad.contains i then fr.getD i 0 else bs.getD i 0,
            bad := bad })
  | .lease i off key =>
    match s.peerRead i off key n with
    | (s, none) =>
      let (s, fr) := s.freeBytes n
      (s, { bytes := fr })
    | (s, some .poison) =>
      let (s, fr) := s.freeBytes n
      (s, { bytes := fr, bad := List.range n })
    | (s, some k) => (s, { cause := some k })

/-- Bytes written by an engine; positions in `bad` make their units poisoned. A unit that holds an
error and is covered only in part is not written. The result is the first failure with its position,
and the number of bytes written. -/
def State.engineWrite (s : State) (t : Target) (bs : List Byte) (bad : List Nat) :
    State × Option (Cause × Nat) × Nat :=
  match t with
  | .mem pa key =>
    let part := (unitsOf pa bs.length).filter fun u =>
      s.poison.contains u && !(coveredUnits pa bs.length).contains u
    let keep := (List.range bs.length).filter fun i => !part.contains ((pa + i) / 8 * 8)
    let lo := keep.headD 0
    let s := if keep.isEmpty then s else s.storeAt (pa + lo) key ((bs.drop lo).take keep.length)
    let us := ((bad.filter keep.contains).map fun i => (pa + i) / 8 * 8).eraseDups
    let s := if us.isEmpty then s else s.poisonUnits us
    let first := (List.range bs.length).find? fun i => part.contains ((pa + i) / 8 * 8)
    (s, first.map fun i => (.poison, i), keep.length)
  | .lease i off key =>
    match s.peerStore i off key bs with
    | (s, none) => (s, none, bs.length)
    | (s, some k) => (s, some (k, 0), 0)

/-! ### Translation service requests (R309, R430) -/

/-- The record of a request. -/
def TsrReq.record (r : TsrReq) : List Byte :=
  leBytes 8 r.va.toNat ++
  leBytes 8 (r.ctx % 256 + r.write.toNat * 2 ^ 8 + r.tile % 1024 * 2 ^ 9 + r.spinel.toNat * 2 ^ 19 +
    r.stack % 16 * 2 ^ 20) ++
  leBytes 8 (r.tag % 2 ^ 32) ++ leBytes 8 0

/-- Entries of a request ring. -/
def Tsr.entries (t : Tsr) : Nat := 2 ^ (t.base.toNat / 16 % 16)

/-- The oldest waiting request of an instance written to its ring, if there is room. -/
def State.writeTsr (s : State) (u : Nat) : State :=
  match s.tsrReqs.find? fun r => r.unit == u && !r.sent with
  | none => s
  | some r =>
    let t := s.tsr u
    if (t.tail - t.head).toNat < t.entries then
      let a := hostAddr (t.base.toNat / 4096 * 4096 + 32 * (t.tail.toNat % t.entries))
      let s := (s.writeRaw a r.record).modTsr u fun t => { t with tail := t.tail + 1 }
      { s with tsrReqs := s.tsrReqs.map fun x => if x.tag = r.tag then { x with sent := true } else x,
               msix := s.msix ++ [t.vec] }
    else s

/-- Waiting requests of an instance written while its ring has room. -/
def State.flushTsr (s : State) (u : Nat) : State := s.tsrReqs.foldl (fun s _ => s.writeTsr u) s

/-- A request made; the result is its tag. `stack` is the stack whose generator makes it. -/
def State.request (s : State) (who : TsrFor) (ctx t va : Nat) (write : Bool) (stack : Option Nat) :
    State × Nat :=
  let tag := s.nextId % 2 ^ 32
  let u := match stack with
    | some k => halfOf (stackTile k)
    | none => halfOf t
  let r : TsrReq :=
    { tag := tag, unit := u, who := who, va := BitVec.ofNat 64 va, ctx := ctx, write := write, tile := t,
      spinel := stack.isSome, stack := stack.getD 0 }
  ({ s with nextId := s.nextId + 1, tsrReqs := s.tsrReqs ++ [r] }.flushTsr u, tag)

/-! ### Pieces (R304, R308) -/

/-- Runs of bytes cut where the source or the destination enters another 64 KiB granule. -/
def cutAt : Nat → Nat → Nat → Nat → List (Nat × Nat × Nat)
  | 0, _, _, _ => []
  | fuel + 1, src, dst, n =>
    if n = 0 then []
    else
      let k := min n (min (65536 - src % 65536) (65536 - dst % 65536))
      (src, dst, k) :: cutAt fuel (src + k) (dst + k) (n - k)

/-- The runs of a copy of `n` bytes. -/
def cuts (src dst n : Nat) : List (Nat × Nat × Nat) := cutAt (2 * (n / 65536) + 4) src dst n

/-- Pieces numbered in order. -/
def numberPieces (l : List (Nat × Nat × Nat)) : List Piece :=
  l.mapIdx fun i x => { idx := i, src := BitVec.ofNat 64 x.1, dst := BitVec.ofNat 64 x.2.1, len := x.2.2 }

/-- A descriptor word of a job. -/
def Job.d (j : Job) (k : Nat) : Word := j.desc.getD k 0

/-- Row length and row count of CPY2. -/
def Job.rowsOf (j : Job) : Nat × Nat := ((j.d 2).toNat % 2 ^ 32, (j.d 2).toNat / 2 ^ 32)
/-- Source and destination strides of CPY2. -/
def Job.strides (j : Job) : Int × Int :=
  (sextNat 32 ((j.d 3).toNat % 2 ^ 32), sextNat 32 ((j.d 3).toNat / 2 ^ 32))

/-- An address moved by a signed distance, modulo 2^64. -/
def moveAddr (a : Word) (d : Int) : Nat := (a + BitVec.ofInt 64 d).toNat

/-- Row bytes and count of CPYF, GATH and SCAT. -/
def Job.table (j : Job) : Nat × Nat :=
  let v := (if j.kind = .cpyf then j.d 2 else j.d 3).toNat
  (v % 2 ^ 16, v / 2 ^ 16 % 2 ^ 32)

/-- Row pieces of a gather or scatter from its indices; an index that could not be read forms no row. -/
def Job.rowPieces (j : Job) (idx : List (Option Nat)) : List Piece :=
  let w := j.table.1
  (idx.mapIdx fun i o => o.map fun v =>
    let row : Word := j.d 1 + BitVec.ofNat 64 v * j.d 4
    let slot : Word := j.d 2 + BitVec.ofNat 64 (i * w)
    let p : Piece := if j.kind = .gath then { idx := i, src := row, dst := slot, len := w }
      else { idx := i, src := slot, dst := row, len := w }
    p).filterMap id

/-- The pieces of a job that starts, and what its index vector met (R308). -/
def State.startPieces (s : State) (core : Nat) (j : Job) : State × List Piece × List (Nat × Cause × Nat) :=
  let S := (j.d 0).toNat
  let D := (j.d 1).toNat
  let copy := fun (l : List (Nat × Nat × Nat)) => (s, numberPieces l, ([] : List (Nat × Cause × Nat)))
  let gather :=
    let esz := if j.fn % 2 = 1 then 8 else 4
    let n := j.table.2
    match s.engX j.ctx core S (n * esz) needR with
    | .ok (.mem pa key) =>
      let s := s.correct j.ctx pa (n * esz)
      let bs := s.readPlain pa key (n * esz)
      let bad := (List.range n).filter fun i => s.poisoned (pa + i * esz) esz
      let idx := (List.range n).map fun i =>
        if bad.contains i then none else some (leNat ((bs.drop (i * esz)).take esz))
      (s, j.rowPieces idx, bad.map fun i => (i, .poison, S + i * esz))
    | .ok (.lease _ _ _) => (s, [], [])
    | .absent => (s, [], [(0, .pageAbsent, S)])
    | .fail c a => (s, [], [(0, c, a)])
  match j.kind with
  | .cpy => copy (cuts S D (j.d 2).toNat)
  | .cpy2 =>
    let (n, rows) := j.rowsOf
    let (ss, ds) := j.strides
    copy ((List.range rows).flatMap fun (r : Nat) =>
      cuts (moveAddr (j.d 0) (ss * r)) (moveAddr (j.d 1) (ds * r)) n)
  | .cpyf => copy (cuts S S (j.table.1 * j.table.2))
  | .gath => gather
  | .scat => gather
  | .mma => copy []
  | .mmag => copy []
  | .mst => copy []
  | .gload => copy []

/-! ### Forming and performing a piece -/

/-- What a piece finds when its addresses are translated: an absent page with the access that met it,
a failure, or the runs to copy as (source, destination, their addresses, bytes). -/
inductive PieceX where
  | absent (va : Nat) (write : Bool)
  | fail (c : Cause) (addr : Nat)
  | ok (l : List (Target × Target × Nat × Nat × Nat))
  deriving DecidableEq, Repr

/-- The runs of a piece translated in order. -/
def State.runsX (s : State) (core : Nat) (j : Job) : List (Nat × Nat × Nat) → PieceX
  | [] => .ok []
  | (a, b, n) :: r =>
    match s.engX j.ctx core a n needR with
    | .absent => .absent a false
    | .fail c x => .fail c x
    | .ok t =>
      -- a filtered copy forms its destinations later, a graph load has none
      match (if j.kind = .cpyf ∨ j.kind = .gload then .ok t else s.engX j.ctx core b n needW) with
      | .absent => .absent b true
      | .fail c x => .fail c x
      | .ok u =>
        match s.runsX core j r with
        | .absent v w => .absent v w
        | .fail c x => .fail c x
        | .ok l => .ok ((t, u, a, b, n) :: l)

/-- A piece translated; a row is checked as a whole before it is (R309). -/
def State.pieceX (s : State) (core : Nat) (j : Job) (p : Piece) : PieceX :=
  match s.boundsCheck j.ctx p.src.toNat p.len with
  | some (c, a) => .fail c a
  | none =>
    match s.boundsCheck j.ctx p.dst.toNat p.len with
    | some (c, a) => .fail c a
    | none => s.runsX core j (cuts p.src.toNat p.dst.toNat p.len)

/-- The stack of a local HBM target (R421). -/
def Target.stack : Target → Option Nat
  | .mem pa _ => if isHbm pa then some (pa / 65536 % 16) else none
  | .lease _ _ _ => none

/-- Whether destination rows of a CPY2 overlap, so that its rows are written in order (R304). -/
def Job.rowsOverlap (j : Job) : Bool :=
  j.kind == .cpy2 && decide (1 < j.rowsOf.2 ∧ j.strides.2.natAbs < j.rowsOf.1)

/-- The stack whose Spinel layer takes a piece, if any (R310): of a copy one that holds its source or destination, of a
gather or scatter the one that holds its row. -/
def Job.spinelOf (j : Job) (l : List (Target × Target × Nat × Nat × Nat)) : Option Nat :=
  if j.kind.copies then
    l.findSome? fun x => match x.1.stack with
      | some k => some k
      | none => x.2.1.stack
  else if j.kind = .gath then l.findSome? fun x => x.1.stack
  else if j.kind = .scat then l.findSome? fun x => x.2.1.stack
  else none

/-- Address generators of a Spinel layer (R310). -/
def generators : Nat := 8
/-- Tokens that a gather sorter holds (R310). -/
def sorterDepth : Nat := 8192
/-- Row requests that a gather unit has outstanding at most (R310). -/
def gatherDepth : Nat := 128
/-- Lines of the copy staging buffer (R367). -/
def stagingLines : Nat := 64

/-- The 64-byte tokens into which the sorter cuts a row of `n` bytes at `a` (R310). -/
def rowTokens (a n : Nat) : Nat := (a % 64 + n + 63) / 64

/-- A piece taken out of the Spinel layer of a stack: its generator and its tokens are free again. -/
def State.freeSpinel (s : State) (core slot idx : Nat) : PieceState → State
  | .spinel k => s.modSpinel k fun x =>
      { x with waiting := x.waiting.filter (· != (core, slot, idx)),
               sorter := x.sorter.filter fun e => e.1 != (core, slot, idx) }
  | .gen k => s.modSpinel k fun x => { x with gens := x.gens.filter (· != (core, slot, idx)) }
  | .todo => s
  | .ready => s
  | .held _ => s
  | .failed => s
  | .done => s

/-- The stack whose generator has a piece. -/
def PieceState.generator : PieceState → Option Nat
  | .gen k => some k
  | .todo => none
  | .ready => none
  | .spinel _ => none
  | .held _ => none
  | .failed => none
  | .done => none

/-- A piece held by a translation service request; a generator keeps its piece meanwhile, the sorter does not (R310). -/
def State.holdPiece (s : State) (core slot : Nat) (p : Piece) (va : Nat) (write : Bool) : State :=
  let s := if p.st.generator.isSome then s else s.freeSpinel core slot p.idx p.st
  let (s, tag) := s.request (.piece core slot p.idx) (s.job core slot).ctx (core / 8) va write p.st.generator
  s.setPiece core slot p.idx (.held tag)

/-- A piece that ends. -/
def State.endPiece (s : State) (core slot : Nat) (p : Piece) (st : PieceState) : State :=
  (s.freeSpinel core slot p.idx p.st).setPiece core slot p.idx st

/-- A piece that ends with a failure. -/
def State.failPiece (s : State) (core slot : Nat) (p : Piece) (c : Cause) (a : Nat) : State :=
  (s.modJob core slot fun j => j.note p.idx c a s.time).endPiece core slot p .failed

/-- A piece whose first request has had its credit is formed: it is translated, and the engine or a
stack has it (R309, R310). A row waits outside a sorter that is full. -/
def State.formPiece (s : State) (core slot : Nat) (p : Piece) : State :=
  let j := s.job core slot
  match s.pieceX core j p with
  | .absent va w => s.holdPiece core slot p va w
  | .fail c a => s.failPiece core slot p c a
  | .ok l =>
    match j.spinelOf l with
    | none => s.setPiece core slot p.idx .ready
    | some k =>
      let me := (core, slot, p.idx)
      if j.kind.copies then
        (s.modSpinel k fun x => { x with waiting := x.waiting ++ [me] }).setPiece core slot p.idx (.spinel k)
      else
        let n := rowTokens (if j.kind = .gath then p.src.toNat else p.dst.toNat) p.len
        if sorterDepth < ((s.spinel k).sorter.map (·.2)).sum + n then s.setPiece core slot p.idx .todo
        else (s.modSpinel k fun x => { x with sorter := x.sorter ++ [(me, n)] }).setPiece core slot p.idx (.spinel k)

/-- One run copied: failures with their address are noted, and the bytes written are counted. -/
def State.copyRun (s : State) (core slot idx : Nat) (x : Target × Target × Nat × Nat × Nat) :
    State × Bool :=
  let (t, u, a, b, n) := x
  let (s, r) := s.engineRead (s.job core slot).ctx t n
  match r.cause with
  | some c => (s.modJob core slot fun j => j.note idx c a s.time, false)
  | none =>
    let s := match r.bad with
      | [] => s
      | i :: _ => s.modJob core slot fun j => j.note idx .poison (a + i) s.time
    match s.engineWrite u r.bytes r.bad with
    | (s, e, k) =>
      let s := s.modJob core slot fun j => { j with bytes := j.bytes + k }
      match e with
      | some (c, i) => (s.modJob core slot fun j => j.note idx c (b + i) s.time, false)
      | none => (s, true)

/-- Runs copied in order; the result says whether every byte was written. -/
def State.copyRuns (s : State) (core slot idx : Nat) :
    List (Target × Target × Nat × Nat × Nat) → State × Bool
  | [] => (s, true)
  | x :: r =>
    let (s, a) := s.copyRun core slot idx x
    let (s, b) := State.copyRuns s core slot idx r
    (s, a && b)

/-- Requests of a piece: one for a row, one for every line of 256 bytes of a copy. -/
def Job.requests (j : Job) (p : Piece) : Nat := if j.kind.copies then (p.len + 255) / 256 else 1

/-- The part of a piece whose requests have had their credit and have not been performed. -/
def Job.asked (j : Job) (p : Piece) : Piece :=
  if j.kind.copies then
    let from_ := 256 * p.wrote
    { p with src := BitVec.ofNat 64 (moveAddr p.src from_), dst := BitVec.ofNat 64 (moveAddr p.dst from_),
             len := min p.len (256 * p.asked) - from_ }
  else p

/-- The requests of a piece that have had their credit performed: it is over once it has no others. A filtered copy's
pieces only take their place here, its rows are read when the last of them is known. -/
def State.performPiece (s : State) (core slot : Nat) (p : Piece) : State :=
  let j := s.job core slot
  let over_ := decide (j.requests p ≤ p.asked)
  match s.pieceX core j (j.asked p) with
  | .absent va w => s.holdPiece core slot p va w
  | .fail c a => s.failPiece core slot p c a
  | .ok l =>
    let (s, all) := if j.kind = .cpyf then (s, true) else s.copyRuns core slot p.idx l
    let s := s.modPiece core slot p.idx fun q => { q with wrote := p.asked }
    let s := if over_ then s.endPiece core slot p .done else s
    if over_ && all then s.modJob core slot fun j => { j with rows := j.rows + 1 } else s

/-- Whether the engine, a sorter or a generator works on a piece of a job; one that waits for a generator is not worked
on. -/
def PieceState.works (st : PieceState) (copies : Bool) : Bool :=
  match st with
  | .ready => true
  | .gen _ => true
  | .spinel _ => !copies
  | .todo => false
  | .held _ => false
  | .failed => false
  | .done => false

/-- Whether the writes of a piece come in their order now: of rows of a CPY2 that overlap, and of rows of a SCAT to the
same bytes, the earlier ones are over (R81, R304). -/
def Job.mayWrite (j : Job) (p : Piece) : Bool :=
  !(j.rowsOverlap || j.kind == .scat) ||
    j.pieces.all fun q => decide (p.idx ≤ q.idx) || q.st.ended ||
      !decide (q.dst.toNat < p.dst.toNat + p.len ∧ p.dst.toNat < q.dst.toNat + q.len)

/-- TRANSLATING while some stream of the job is held, RUNNING otherwise (R295). -/
def State.settleJob (s : State) (core slot : Nat) : State :=
  s.modJob core slot fun j =>
    if j.st = .running ∨ j.st = .translating then
      { j with st := if j.pieces.any fun p => p.st.isHeld then .translating else .running }
    else j

/-! ### Rates (R310, R368) -/

/-- Whether a job's requests spend the copy engine's or the gather unit's credit. -/
def JobKind.moves (k : JobKind) : Bool := k.copies || k == .gath || k == .scat

/-- Credit of the unit that serves a job. -/
def Tile.credit (t : Tile) (k : JobKind) : Nat := if k.copies then t.copyCredit else t.gathCredit
/-- That credit set. -/
def Tile.setCredit (t : Tile) (k : JobKind) (n : Nat) : Tile :=
  if k.copies then { t with copyCredit := n } else { t with gathCredit := n }

/-- How many requests a tile's copy engine or gather unit can still have under way. -/
def State.engineRoom (s : State) (t : Nat) (copies : Bool) : Nat :=
  (if copies then stagingLines else gatherDepth) - s.staged t copies

/-- The requests of one piece given what credit and room there is; with its first request a piece is formed. -/
def State.grantPiece (s : State) (core slot idx : Nat) : State :=
  let j := s.job core slot
  match j.pieces.find? fun p => p.idx == idx with
  | none => s
  | some p =>
    if p.st.ended || p.st.isHeld || !j.mayWrite p then s
    else
      let t := core / 8
      let have_ := (s.tile t).credit j.kind
      let n := min (j.requests p - p.asked) (min have_ (s.engineRoom t j.kind.copies))
      let q := { p with asked := p.asked + n }
      let s := (s.modTile t fun x => x.setCredit j.kind (have_ - n)).modPiece core slot idx fun _ => q
      if p.st = .todo ∧ 0 < q.asked then s.formPiece core slot q else s

/-- The waiting pieces of a job given credit, in order. -/
def State.grant (s : State) (core slot : Nat) : State :=
  let j := s.job core slot
  if j.kind.moves ∧ (j.st = .running ∨ j.st = .translating) then
    (j.pieces.foldl (fun s p => s.grantPiece core slot p.idx) s).settleJob core slot
  else s

/-- RATE_CREDIT_REFILL (R368): the credits of a tile's engines are set, and waiting requests go on. -/
def State.rateRefill (s : State) (t : Nat) : State :=
  if (s.tile t).refillDue then
    (List.range 128).foldl (fun s i => s.grant (8 * t + i / 16) (i % 16)) (s.refillCredits t)
  else s

/-- RATE_CREDIT_REFILL. -/
def execRateCreditRefill (t : Nat) (s : State) : Out := .next (s.rateRefill t)

/-! ### JOB_START (R74, R78, R295) -/

/-- Where the bytes of `n` addresses from `va` lie, run by run: the place of a byte of the module or the host, with 0,
or an offset within borrowed lease i, with i + 1. Addresses without a place have none. -/
def State.placesOf (s : State) (c t : Nat) : Nat → Nat → Nat → List (Nat × Nat × Nat)
  | 0, _, _ => []
  | fuel + 1, va, n =>
    if n = 0 then []
    else
      let k := min n (65536 - va % 65536)
      let here := match s.resolve c (8 * t) va {} with
        | .ok (.mem pa _) => [(0, pa, k)]
        | .ok (.lease i off _) => [(i + 1, off, k)]
        | .poisoned (.mem pa _) => [(0, pa, k)]
        | .poisoned (.lease i off _) => [(i + 1, off, k)]
        | .absent => []
        | .denied => []
        | .revoked => []
      here ++ State.placesOf s c t fuel (va + k) (n - k)

/-- Where the bytes of an entry of tile `t` lie. -/
def State.lockPlaces (s : State) (t : Nat) (l : RangeLock) : List (Nat × Nat × Nat) :=
  s.placesOf l.ctx t ((l.hi + 1 - l.lo) / 65536 + 2) l.lo (l.hi + 1 - l.lo)

/-- Whether two entries of tile `t` conflict: they share bytes, by whatever addresses, and one of them is written
(R78). -/
def State.conflicts (s : State) (t : Nat) (a b : RangeLock) : Bool :=
  (a.dst || b.dst) && (decide (a.lo ≤ b.hi ∧ b.lo ≤ a.hi) ||
    (s.lockPlaces t a).any fun x => (s.lockPlaces t b).any fun y =>
      x.1 == y.1 && decide (x.2.1 < y.2.1 + y.2.2 ∧ y.2.1 < x.2.1 + x.2.2))

/-- Whether an entry belongs to a job of tile `t`. -/
def RangeLock.ofJob (l : RangeLock) (t core slot : Nat) : Bool :=
  l.origin == t && l.core == core % 8 && l.job == slot

/-- Whether no entry registered before the job's own conflicts with one of them (R78). -/
def State.inOrder (s : State) (t origin core slot : Nat) : Bool :=
  let l := (s.tile t).locks
  let mine := l.filter fun x => x.ofJob origin core slot
  (l.takeWhile fun x => !x.ofJob origin core slot).all fun x => !(mine.any fun y => s.conflicts t x y)

/-- The entry of a gather's or scatter's index vector freed: it is the first that the job has registered, and it has
been read (R76, R308). -/
def State.freeIndex (s : State) (core slot : Nat) : State :=
  s.modTile (core / 8) fun x => { x with locks := x.locks.eraseP fun l => l.ofJob (core / 8) core slot }

/-! ### SPINEL_PIECE (R310) -/

/-- SPINEL_PIECE: a free generator of a stack takes the piece that has waited longest. -/
def State.spinelPiece (s : State) (k : Nat) : State :=
  match (s.spinel k).waiting with
  | [] => s
  | (core, slot, idx) :: r =>
    if generators ≤ (s.spinel k).gens.length then s
    else
      let s := s.modSpinel k fun x => { x with waiting := r }
      if (s.job core slot).pieces.any fun p => p.idx == idx && p.st == .spinel k then
        (s.modSpinel k fun x => { x with gens := x.gens ++ [(core, slot, idx)] }).setPiece core slot idx (.gen k)
      else s

/-- SPINEL_PIECE. -/
def execSpinelPiece (k : Nat) (s : State) : Out := .next (s.spinelPiece k)

/-! ### Completion (R297 to R300, R311) -/

/-- The fault record of a job's error (R311, R410). -/
def State.jobRecord (s : State) (core slot : Nat) : State :=
  let j := s.job core slot
  match j.err with
  | none => s
  | some c =>
    let st := s.strand j.strand
    let image := if s.jobLive j && st.hasImage then st.imageVa else 0
    s.faultRecord j.ctx
      { flags := { job := true }, cause := c, job := slot, tile := j.errTile, strand := j.strand,
        badva := j.errAddr, hidx := j.hidx, image := image, found := some j.errTime }

/-- The job status word of R299. -/
def Job.statusWord (j : Job) (slot : Nat) : Word :=
  BitVec.ofNat 64 ((j.err.getD 0).toNat + slot % 16 * 2 ^ 8 + coreOf j.strand % 8 * 2 ^ 12 +
    slotOf j.strand * 2 ^ 15)

/-- The first destination byte of a job, for SCAT its first source-row byte (R300). -/
def Job.firstByte (j : Job) : Word :=
  match j.kind with
  | .cpy => j.d 1
  | .cpy2 => j.d 1
  | .cpyf => j.d 1
  | .gath => j.d 2
  | .scat => j.d 2
  | .mst => j.d 0
  | .mma => j.d 0
  | .mmag => j.d 0
  | .gload => j.d 0

/-- The tile handle of R300. -/
def Job.handle (j : Job) (t slot : Nat) : Word :=
  let a := j.firstByte.toNat
  let a := match aliasOf a with
    | some off => 0x700000000000 + t * 0x400000 + off
    | none => a
  BitVec.ofNat 64 (j.err.isSome.toNat * 2 ^ 63 + slot % 16 * 2 ^ 52 + coreOf j.strand % 8 * 2 ^ 49 +
    a % 2 ^ 48)

/-- The completion action is over. -/
def State.actDone (s : State) (core slot : Nat) : State :=
  s.modJob core slot fun j => { j with action := .done }

/-- The target of the completion action cannot be reached: the job ends with that error (R298). -/
def State.actFail (s : State) (core slot : Nat) (c : Cause) (a : Nat) : State :=
  ((s.modJob core slot fun j =>
    { j with err := some c.code, errAddr := BitVec.ofNat 64 a, errTile := core / 8, errTime := s.time }).jobRecord
      core slot).actDone core slot

/-- An action on memory: its target is translated, an absent page is asked for once, and `f` performs
it. -/
def State.actAt (s : State) (core slot n : Nat) (need : Need) (final : Bool)
    (f : State → Target → State × Option Cause) : State :=
  let j := s.job core slot
  let va := j.comp1.toNat
  match s.engX j.ctx core va n need with
  | .fail c a => s.actFail core slot c a
  | .absent =>
    if final then s.actFail core slot .pageAbsent va
    else
      let (s, tag) := s.request (.action core slot) j.ctx (core / 8) va true none
      s.modJob core slot fun j => { j with action := .held tag }
  | .ok t =>
    match f s t with
    | (s, none) => s.actDone core slot
    | (s, some c) => s.actFail core slot c va

/-- The header of what a completion action posts: its source is the issuing tile and core (R298). -/
def Job.actHdr (j : Job) (core : Nat) (h : Hdr) : Hdr :=
  { h.withSource (core / 8) (core % 8) 0 with ctx := BitVec.ofNat 8 j.ctx }

/-- The barrier bytes of a completion action at their home. -/
def State.actBytes (s : State) (j : Job) (t : Target) : State × Option Cause :=
  let n : Word := if j.comp2.getLsbD 63 then BitVec.ofNat 64 j.bytes else j.comp2
  match t with
  | .mem pa key =>
    if s.poisoned pa 32 then (s, some .poison)
    else
      (((s.correct j.ctx pa 32).barrierAt (some j.ctx) pa key (.bytes n)).1, none)
  | .lease i off _ => match s.leasePort i with
    | none => s.peerVerdict i
    | some p => (s.sendLease p i off (.barrier 4 n 0)).peerVerdict i

/-- The row count of g7: the rows written by CPYF, GATH or SCAT, 0 for other jobs (R299). -/
def Job.rowCount (j : Job) : Nat :=
  if j.kind = .cpyf ∨ j.kind = .gath ∨ j.kind = .scat then j.rows else 0

/-- The completion action of a job (R298, R299). After an error actions 1 to 3 are skipped (R311). -/
def State.act (s : State) (core slot : Nat) (final : Bool) : State :=
  let j := s.job core slot
  let t := core / 8
  let skip := j.err.isSome
  match compAct j.comp with
  | 1 =>
    if skip then s.actDone core slot
    else s.actAt core slot 8 needW final fun s t =>
      match s.engineWrite t (leBytes 8 j.comp2.toNat) [] with
      | (s, e, _) => (s, e.map (·.1))
  | 2 =>
    if skip then s.actDone core slot
    else
      let (q, s) := s.unitSeq t 4
      (s.sendCount t [] { j.actHdr core { rels := true } with seq := q } j.comp1
        (j.comp2.setWidth 32)).actDone core slot
  | 3 =>
    if skip then s.actDone core slot
    else s.actAt core slot 32 needBarrier final fun s t => s.actBytes j t
  | 4 =>
    let (x0, y0) := s.offsetOf j.ctx
    let h := (j.actHdr core { posted := true, rels := true }).withDest j.comp1 x0 y0
    (s.post t 4 []
      { hdr := h, args := [j.comp2, j.statusWord slot, BitVec.ofNat 64 j.bytes, BitVec.ofNat 64 j.rowCount] }).actDone
        core slot
  | 5 => s.modJob core slot fun j => { j with action := .pushing (j.handle t slot) }
  | _ => s.actDone core slot

/-- A job's last access has been performed: its range entries are freed, its error is recorded, and its
completion action begins (R76, R295, R311). -/
def State.finishJob (s : State) (core slot : Nat) : State :=
  let t := core / 8
  let s := s.modTile t fun x => { x with locks := x.locks.filter fun l => !l.ofJob t core slot }
  ((s.modJob core slot fun j => { j with st := .completing, pieces := [] }).jobRecord core slot).act
    core slot false

/-! ### Filtered copy (R305 to R307) -/

/-- The key condition of a filtered copy, operands of `n` bits (R306). -/
def filterHolds (cond n k c : Nat) : Bool :=
  let k := k % 2 ^ n
  let c := c % 2 ^ n
  match cond with
  | 0 => k == c
  | 1 => k != c
  | 2 => decide (sextNat n k < sextNat n c)
  | 3 => decide (sextNat n c ≤ sextNat n k)
  | 4 => decide (k < c)
  | _ => decide (c ≤ k)

/-- The elements of `w` bytes of a row. -/
def rowLanes (w : Nat) (row : List Byte) : List Nat :=
  (List.range (row.length / w)).map fun i => leNat ((row.drop (i * w)).take w)

/-- FP32 sum of a non-empty list in order, not flushed. -/
def sum32 (l : List Nat) : Nat :=
  match l with
  | [] => 0
  | [x] => (roundFmt .f32 rmRNE false (decodeFp .f32 x)).1
  | x :: r => r.foldl afaddBits x

/-- One lane of a reduced group (R306). -/
def reduceLane (ty : Nat) (l : List Nat) : Nat :=
  match ty with
  | 0 => sum32 l
  | 1 => (roundFmt .bf16 rmRNE false (decodeFp .f32 (sum32 (l.map (· * 65536))))).1
  | 2 => l.sum % 2 ^ 32
  | _ => match l with
    | [] => 0
    | x :: r => r.foldl (fun a b => if sextNat 32 a < sextNat 32 b then b else a) x

/-- The result row of a group. -/
def reduceRows (ty : Nat) (rows : List (List Byte)) : List Byte :=
  let w := if ty = 1 then 2 else 4
  let ls := rows.map (rowLanes w)
  ((List.range ((rows.headD []).length / w)).map fun i =>
    leBytes w (reduceLane ty (ls.map fun l => l.getD i 0))).flatten

/-- A row of a filtered copy's source: none if it could not be read; its bytes and bad positions. -/
abbrev FilterRow := Option (List Byte × List Nat)

/-- The source bytes of a filtered copy, piece by piece: none for a byte that could not be read, and
whether its unit held an error. -/
def State.filterSource (s : State) (core slot : Nat) : List Piece → State × List (Option (Byte × Bool))
  | [] => (s, [])
  | p :: r =>
    let j := s.job core slot
    let lost := List.replicate p.len (none : Option (Byte × Bool))
    let (s, bs) :=
      if p.st ≠ .done then (s, lost)
      else
        match s.engX j.ctx core p.src.toNat p.len needR with
        | .absent => (s.modJob core slot fun j => j.note p.idx .pageAbsent p.src.toNat s.time, lost)
        | .fail c a => (s.modJob core slot fun j => j.note p.idx c a s.time, lost)
        | .ok t =>
          let (s, x) := s.engineRead j.ctx t p.len
          match x.cause with
          | some c => (s.modJob core slot fun j => j.note p.idx c p.src.toNat s.time, lost)
          | none =>
            let s := match x.bad with
              | [] => s
              | i :: _ => s.modJob core slot fun j => j.note p.idx .poison (p.src.toNat + i) s.time
            (s, x.bytes.mapIdx fun i b => some (b, x.bad.contains i))
    let (s, rest) := State.filterSource s core slot r
    (s, bs ++ rest)

/-- The rows of a filtered copy's source. -/
def filterRows (w n : Nat) (bs : List (Option (Byte × Bool))) : List FilterRow :=
  (List.range n).map fun i =>
    let row := (bs.drop (i * w)).take w
    if row.any (·.isNone) ∨ row.length < w then none
    else
      some (row.map fun x => (x.getD (0, false)).1,
        (List.range w).filter fun k => ((row.getD k none).getD (0, false)).2)

/-- Groups of at most `k` rows in order. -/
def groupsOf {α : Type} (k : Nat) : Nat → List α → List (List α)
  | 0, _ => []
  | fuel + 1, l => if l.isEmpty then [] else l.take k :: groupsOf k fuel (l.drop k)

/-- Positions of a result row whose lane has a bad input: all bytes of the lane. -/
def badLanes (w : Nat) (bads : List (List Nat)) (n : Nat) : List Nat :=
  (List.range n).filter fun i => bads.any fun b => b.any fun k => k / w == i / w

/-- The output rows of a filtered copy in order (R306); none keeps its place and is not written. -/
def Job.filter (j : Job) (rows : List FilterRow) : List FilterRow :=
  let v := (j.d 3).toNat
  let bits := 8 * 2 ^ (v / 32 % 4)
  let koff := v / 256 % 2048
  let ty := v / 2 ^ 20 % 4
  if v % 4 = 0 then
    rows.filter fun r => match r with
      | none => false
      | some (bs, _) => filterHolds (v / 4 % 8) bits (leNat ((bs.drop koff).take (bits / 8))) (j.d 4).toNat
  else
    (groupsOf (v / 2 ^ 24 % 256 + 1) rows.length rows).map fun g =>
      if g.any (·.isNone) then none
      else
        let rs := g.filterMap id
        some (reduceRows ty (rs.map (·.1)),
          badLanes (if ty = 1 then 2 else 4) (rs.map (·.2)) (j.table.1))

/-- Places of output runs come after those of the source pieces. -/
def outIdx (n : Nat) : Nat := 2 ^ 33 + n

/-- A run of an output row: its place among the runs, its row, its position in the row, its address, its bytes. -/
abbrev OutRun := Nat × Nat × Nat × Nat × Nat

/-- The runs of output rows in order; row `o` lies at `base o`. -/
def outRuns (base : Nat → Nat) (w : Nat) (out : List FilterRow) : List OutRun :=
  (out.mapIdx fun o r => match r with
    | none => []
    | some _ => (cuts (base o) (base o) w).map fun x => (o, x.1 - base o, x.1, x.2.2)).flatten.mapIdx fun k x => (k, x)

/-- Output runs whose page is absent and has not been asked for in vain. -/
def State.outAbsent (s : State) (core : Nat) (j : Job) (rs : List OutRun) : List (Nat × Nat) :=
  rs.filterMap fun (k, _, _, va, n) =>
    if s.engX j.ctx core va n needW = .absent ∧
        !(j.pieces.any fun p => p.idx == outIdx k && p.st == .failed) then some (k, va) else none

/-- One output run written; the row is complete only if all its runs are. -/
def State.writeOut (s : State) (core slot : Nat) (x : OutRun) (r : List Byte × List Nat) :
    State × Bool :=
  let j := s.job core slot
  let (k, _, at_, va, n) := x
  match s.engX j.ctx core va n needW with
  | .absent => (s.modJob core slot fun j => j.note (outIdx k) .pageAbsent va s.time, false)
  | .fail c a => (s.modJob core slot fun j => j.note (outIdx k) c a s.time, false)
  | .ok t =>
    let bad := (List.range n).filter fun i => r.2.contains (at_ + i)
    match s.engineWrite t ((r.1.drop at_).take n) bad with
    | (s, e, m) =>
      let s := s.modJob core slot fun j => { j with bytes := j.bytes + m }
      match e with
      | some (c, i) => (s.modJob core slot fun j => j.note (outIdx k) c (va + i) s.time, false)
      | none => (s, true)

/-- The output rows of a job written in order; its row count is that of the rows written whole. -/
def State.writeRows (s : State) (core slot : Nat) (out : List FilterRow) (rs : List OutRun) : State :=
  let (s, lost) := rs.foldl (fun (acc : State × List Nat) x =>
    let (s, lost) := acc
    match out.getD x.2.1 none with
    | none => (s, lost)
    | some r =>
      let (s, ok) := s.writeOut core slot x r
      (s, if ok then lost else x.2.1 :: lost)) (s, [])
  let n := ((List.range out.length).filter fun o => (out.getD o none).isSome && !lost.contains o).length
  s.modJob core slot fun j => { j with rows := n }

/-- The stream of output rows held at its first absent page, if there is one. -/
def State.holdOut (s : State) (core slot : Nat) (rs : List OutRun) : Option State :=
  match s.outAbsent core (s.job core slot) rs with
  | (k, va) :: _ =>
    let p : Piece := { idx := outIdx k, dst := BitVec.ofNat 64 va }
    let s := s.modJob core slot fun j => { j with pieces := (j.pieces.filter fun q => q.idx != p.idx) ++ [p] }
    some ((s.holdPiece core slot p va true).settleJob core slot)
  | [] => none

/-- The streams among `src` that meet an absent page when they are read, held at it (R309). -/
def State.holdSource (s : State) (core slot : Nat) (src : List Piece) : Option State :=
  let j := s.job core slot
  let gone := src.filter fun p => s.engX j.ctx core p.src.toNat p.len needR == .absent
  if gone.isEmpty then none
  else some ((gone.foldl (fun s p => s.holdPiece core slot p p.src.toNat false) s).settleJob core slot)

/-- The last part of a filtered copy: its rows are read, filtered and written; an absent source or destination
page holds it first. -/
def State.filterFinish (s : State) (core slot : Nat) : State :=
  let j := s.job core slot
  let src := j.pieces.filter fun p => decide (p.idx < outIdx 0)
  match s.holdSource core slot (src.filter fun p => p.st == .done) with
  | some s => s
  | none =>
    let (s', bs) := s.filterSource core slot src
    let out := j.filter (filterRows j.table.1 j.table.2 bs)
    let rs := outRuns (fun o => (j.d 1).toNat + o * j.table.1) j.table.1 out
    match s.holdOut core slot rs with
    | some s => s
    | none => (s'.writeRows core slot out rs).finishJob core slot

/-! ### JOB_START, JOB_COMPLETE, COMPLETION_PUSH, JOB_FREE -/

/-- JOB_START: the engine takes the first piece of an issued copy or gather. A CPY of no bytes goes straight to
COMPLETING (R304); an index vector that has been read holds no entry any more (R76). -/
def State.jobStart (s : State) (core slot : Nat) : State :=
  let j := s.job core slot
  let t := core / 8
  if j.st = .issued ∧ j.kind.moves ∧ s.released j.after ∧ s.inOrder t t core slot then
    if j.kind = .cpy ∧ j.d 2 = 0 then s.finishJob core slot
    else
      let (s, ps, es) := s.startPieces core j
      let s := if j.kind.copies then s else s.freeIndex core slot
      (s.modJob core slot fun j =>
        es.foldl (fun j e => j.note e.1 e.2.1 e.2.2 s.time) { j with st := .running, pieces := ps }).grant core slot
  else s

/-- One piece of a job whose requests are under way performed, if its writes come in their order now. -/
def State.workPiece (s : State) (core slot idx : Nat) : State :=
  let j := s.job core slot
  match j.pieces.find? fun p => p.idx == idx with
  | none => s
  | some p => if p.st.works j.kind.copies && decide (p.wrote < p.asked) && j.mayWrite p then s.performPiece core slot p else s

/-- JOB_COMPLETE for a copy or a gather: the accesses whose requests are under way are performed, those of a held stream
apart; when every piece is over the job completes, and otherwise it sends the requests it can (R295, R309, R367). -/
def State.jobComplete (s : State) (core slot : Nat) : State :=
  let j := s.job core slot
  if (j.st = .running ∨ j.st = .translating) ∧ j.kind.moves then
    let s := j.pieces.foldl (fun s p => s.workPiece core slot p.idx) s
    if !(s.job core slot).pieces.all fun p => p.st.ended then (s.grant core slot).settleJob core slot
    else if j.kind = .cpyf then s.filterFinish core slot
    else s.finishJob core slot
  else s

/-- Whether a strand of the core before `core` waits with a push into its inbound queue (R255). -/
def State.strandPushes (s : State) (core : Nat) : Bool :=
  let prev := core / 8 * 8 + (core % 8 + 7) % 8
  (List.range 4).any fun k =>
    let n := 4 * prev + k
    (s.strand n).phase == .stalled .queueFull &&
      match s.fetch n with
      | .word w => match decode w with
        | some (.qpush _ m) => m == 1
        | _ => false
      | .bad _ _ => false
      | .far _ => false

/-- COMPLETION_PUSH (R255, R298): the tile handle enters the inbound queue once it has room and the
rotation does not name a waiting strand. -/
def State.completionPush (s : State) (core slot : Nat) : State :=
  let j := s.job core slot
  let dst := core / 8 * 8 + j.comp1.toNat % 8
  let c := s.core dst
  let rival := s.strandPushes dst
  let waits := (s.tile (core / 8)).replays.any fun r => r.core == dst % 8
  match j.action with
  | .pushing w =>
    if j.st = .completing ∧ !(s.tile (core / 8)).vacated ∧ !waits ∧ c.inqOpen ∧ (!rival || c.pushCompletionNext) then
      (s.modCore dst fun c =>
        { c.inqPush w with pushCompletionNext := if rival then false else c.pushCompletionNext }).actDone core slot
    else s
  | .waiting => s
  | .held _ => s
  | .done => s

/-- The first of the pushes that a restored tile replays, where its queue takes it (R404). -/
def State.replayOne (s : State) (t : Nat) (r : Replay) : State :=
  let dst := 8 * t + r.core
  let first := ((s.tile t).replays.find? fun x => x.core == r.core) == some r
  if !first || !(s.core dst).inqOpen then s
  else
    let s := (s.modTile t fun x => { x with replays := x.replays.erase r }).modCore dst fun c => c.inqPush r.word
    match r.job with
    | some (core, slot) => s.actDone core slot
    | none => s

/-- Pushes of a restored tile replayed in saved order, each into its queue as that takes it (R404). -/
def State.replay (s : State) (t : Nat) : State := (s.tile t).replays.foldl (fun s r => s.replayOne t r) s

/-- COMPLETION_PUSH. -/
def execCompletionPush (core slot : Nat) (s : State) : Out := .next (s.completionPush core slot)

/-- A counter of completed jobs, which saturates (R294). -/
def countUp (v : BitVec 32) : BitVec 32 := if v = BitVec.allOnes 32 then v else v + 1

/-- What a strand keeps of a job that has ended (R294). -/
def Strand.jobEnded (st : Strand) (slot : Nat) (j : Job) : Strand :=
  { st with
    jstat := st.jstat.set! slot (j.err.getD 0),
    jc0 := if compJc j.comp = 1 then countUp st.jc0 else st.jc0,
    jc1 := if compJc j.comp = 2 then countUp st.jc1 else st.jc1 }

/-- The end of a job in the saved image of strand `n`: the image's own counter goes up, and one byte of jstat is
written (R294, R407). -/
def State.imageEnded (s : State) (n slot : Nat) (j : Job) : State :=
  match s.savedImage n with
  | none => s
  | some t =>
    let up := fun (s : State) (off : Nat) =>
      s.imageField n off (leBytes 4 (countUp (BitVec.ofNat 32 (leNat (s.readTarget t off 4)))).toNat)
    let s := if compJc j.comp = 1 then up s 1400 else if compJc j.comp = 2 then up s 1404 else s
    s.imageField n (1408 + slot) [j.err.getD 0]

/-- A posted message of a job watch (R316). -/
def State.postWatch (s : State) (core : Nat) (w : JobWatch) : State :=
  s.post (core / 8) 4 [] w.msg

/-- The watches of a core after the job of a slot is FREE (R316). -/
def State.freeWatches (s : State) (core slot : Nat) : State :=
  let ws := (s.core core).jwatches.map fun w => { w with slots := w.slots.filter (· != slot) }
  (ws.filter fun w => w.slots.isEmpty).foldl (fun s w => s.postWatch core w)
    (s.modCore core fun c => { c with jwatches := ws.filter fun w => !w.slots.isEmpty })

/-- JOB_FREE: the effect of the action has been performed; status and counter are written, the slot is
freed and watches that waited for it post (R294, R295, R316). -/
def State.jobFree (s : State) (core slot : Nat) : State :=
  let j := s.job core slot
  if j.st = .completing ∧ j.action = .done then
    let s :=
      if s.jobLive j then
        (s.modStrand j.strand fun st => st.jobEnded slot j).imageEnded j.strand slot j
      else s
    (s.modJob core slot fun _ => {}).freeWatches core slot
  else s

/-- JOB_FREE. -/
def execJobFree (core slot : Nat) (s : State) : Out := .next (s.jobFree core slot)

/-! ### TRANSLATION_RESPONSE (R309, R430) -/

/-- A piece whose page has been answered: the unit that met it translates it again and goes on, or the piece ends with
PAGE_ABSENT (R309, R430). -/
def State.pieceAnswered (s : State) (r : TsrReq) (core slot idx : Nat) (ok : Bool) : State :=
  match (s.job core slot).pieces.find? fun p => p.idx == idx && p.st == .held r.tag with
  | none => s
  | some p =>
    let p := if r.spinel then { p with st := .gen r.stack } else p
    let fail := s.failPiece core slot p .pageAbsent r.va.toNat
    let on := if r.spinel then s.setPiece core slot idx (.gen r.stack) else s.formPiece core slot p
    let s :=
      if !ok then fail
      else if outIdx 0 ≤ idx then
        if s.engX r.ctx core r.va.toNat 1 needW = .absent then fail else s.setPiece core slot idx .done
      else
        match s.pieceX core (s.job core slot) p with
        | .absent va _ => if va = r.va.toNat then fail else on
        | .fail _ _ => on
        | .ok _ => on
    s.settleJob core slot

/-- A completion action whose page has been answered. -/
def State.actAnswered (s : State) (r : TsrReq) (core slot : Nat) (ok : Bool) : State :=
  if (s.job core slot).action = .held r.tag then
    if ok then s.act core slot true else s.actFail core slot .pageAbsent r.va.toNat
  else s

/-- A reload whose page has been answered: it goes on, or finds the page absent (R311, R363). -/
def State.reloadAnswered (s : State) (r : TsrReq) (t slot : Nat) (ok : Bool) : State :=
  let absent := !ok || s.engX r.ctx (8 * t) r.va.toNat 1 needR == .absent
  s.modFabric t fun f => f.modSlot (slot == 1) fun g =>
    if g.tag = some r.tag then { g with tag := none, absent := absent } else g

/-- TRANSLATION_RESPONSE: a host write of TSRRESP. -/
def State.translationResponse (s : State) (u : Nat) (v : Word) : State :=
  let tag := v.toNat % 2 ^ 32
  let ok := v.getLsbD 32
  match s.tsrReqs.find? fun r => r.tag == tag && r.unit == u && r.sent with
  | none => s
  | some r =>
    let s := { s with tsrReqs := s.tsrReqs.filter fun x => x.tag != r.tag }
    match r.who with
    | .piece core slot idx => s.pieceAnswered r core slot idx ok
    | .action core slot => s.actAnswered r core slot ok
    | .reload t slot => s.reloadAnswered r t slot ok

/-- TRANSLATION_RESPONSE. -/
def execTranslationResponse (u : Nat) (v : Word) (s : State) : Out := .next (s.translationResponse u v)

/-! ### CPY, CPY2, CPYQ, CPYF, GATH, SCAT (R301 to R308) -/

/-- Whether two ranges of bytes share one. -/
def sharesByte (a n b m : Nat) : Bool := decide (0 < n ∧ 0 < m ∧ a < b + m ∧ b < a + n)

/-- The command of CPY. -/
def cpyCmd (r : List Word) : Cmd :=
  let S := (r.getD 0 0).toNat
  let D := (r.getD 1 0).toNat
  let L := (r.getD 2 0).toNat
  { kind := .cpy, desc := r, limits := [(decide (2 ^ 32 < L), r.getD 2 0)],
    ranges := [(false, S, L), (true, D, L)], overlap := sharesByte S L D L }

/-- First byte and length of the bounding range of rows (R75). -/
def bounding (a : Word) (stride : Int) (n rows : Nat) : Nat × Nat :=
  let far := stride * ((rows : Int) - 1)
  (moveAddr a (min 0 far), far.natAbs + n)

/-- The command of CPY2. -/
def cpy2Cmd (r : List Word) : Cmd :=
  let j : Job := { kind := .cpy2, desc := r }
  let (n, rows) := j.rowsOf
  let (ss, ds) := j.strides
  let s := bounding (r.getD 0 0) ss n rows
  let d := bounding (r.getD 1 0) ds n rows
  { kind := .cpy2, desc := r,
    limits := [(n == 0 || rows == 0 || decide (2 ^ 32 < n * rows), r.getD 2 0)],
    ranges := [(false, s.1, s.2), (true, d.1, d.2)], overlap := sharesByte s.1 s.2 d.1 d.2 }

/-- The command of CPYF. -/
def cpyfCmd (r : List Word) : Cmd :=
  let j : Job := { kind := .cpyf, desc := r }
  let (w, n) := j.table
  let v := (r.getD 3 0).toNat
  let kw := 2 ^ (v / 32 % 4)
  let koff := v / 256 % 2048
  let S := (r.getD 0 0).toNat
  let D := (r.getD 1 0).toNat
  { kind := .cpyf, desc := r,
    limits :=
      [(decide (w < 8 ∨ 2048 < w ∨ w % 8 ≠ 0 ∨ n = 0 ∨ 2 ^ 32 < n * w), r.getD 2 0),
       (decide (1 < v % 4 ∨ (v % 4 = 0 ∧ (5 < v / 4 % 8 ∨ koff % kw ≠ 0 ∨ w < koff + kw))), r.getD 3 0)],
    ranges := [(false, S, n * w), (true, D, n * w)], overlap := sharesByte S (n * w) D (n * w) }

/-- The command of GATH and SCAT. -/
def rowsCmd (k : JobKind) (wide : Bool) (r : List Word) : Cmd :=
  let j : Job := { kind := k, desc := r }
  let (w, n) := j.table
  let esz := if wide then 8 else 4
  let low := fun (v : Word) => (decide (v.toNat < 0x700000000000), v)
  { kind := k, fn := wide.toNat, desc := r,
    limits :=
      [low (r.getD 0 0), low (r.getD 2 0),
       (decide (w < 32 ∨ 2048 < w ∨ w % 32 ≠ 0 ∨ n = 0 ∨ 65536 < n), r.getD 3 0),
       (decide ((r.getD 4 0).toNat % 32 ≠ 0), r.getD 4 0)],
    aligns := [(r.getD 0 0, esz), (r.getD 1 0, 32), (r.getD 2 0, 32)],
    ranges := [(false, (r.getD 0 0).toNat, n * esz), (k == .gath, (r.getD 2 0).toNat, n * w)] }

/-- A copy or gather command with nothing more to do at its issue. -/
def State.plainCommand (s : State) (d : GReg) (comp comp1 comp2 : Word) (q : Cmd) : Res :=
  s.command d comp comp1 comp2 q (fun _ => true) (fun s _ => s)

/-- CPY (R304). -/
def execCpy (d a b : GReg) (s : State) : Out :=
  .next (s.issue (.cpy d a b) { g := d.val :: b.val :: run a.val 3 } (tileOnly (.cpy d a b) fun s =>
    s.withComp (.cpy d a b) b fun w w1 w2 => s.plainCommand d w w1 w2 (cpyCmd (readRun s.me a.val 3))))

/-- CPY2 (R304). -/
def execCpy2 (d a b : GReg) (s : State) : Out :=
  .next (s.issue (.cpy2 d a b) { g := d.val :: b.val :: run a.val 4 } (tileOnly (.cpy2 d a b) fun s =>
    s.withComp (.cpy2 d a b) b fun w w1 w2 => s.plainCommand d w w1 w2 (cpy2Cmd (readRun s.me a.val 4))))

/-- CPYQ (R301): CPY with the completion action 5. -/
def execCpyq (d a : GReg) (j : BitVec 2) (c : BitVec 3) (s : State) : Out :=
  .next (s.issue (.cpyq d a j c) { g := d.val :: run a.val 3 } (tileOnly (.cpyq d a j c) fun s =>
    if j = 3 then .trapOpen .illegalCombination
    else
      s.plainCommand d (BitVec.ofNat 64 (j.toNat * 8 + 5)) (c.setWidth 64) 0 (cpyCmd (readRun s.me a.val 3))))

/-- CPYF (R305). -/
def execCpyf (d a b : GReg) (s : State) : Out :=
  .next (s.issue (.cpyf d a b) { g := d.val :: b.val :: run a.val 5 } (tileOnly (.cpyf d a b) fun s =>
    s.withComp (.cpyf d a b) b fun w w1 w2 => s.plainCommand d w w1 w2 (cpyfCmd (readRun s.me a.val 5))))

/-- GATH (R308). -/
def execGath (d a b : GReg) (w : Bool) (s : State) : Out :=
  .next (s.issue (.gath d a b w) { g := d.val :: b.val :: run a.val 5 } (tileOnly (.gath d a b w) fun s =>
    s.withComp (.gath d a b w) b fun c c1 c2 =>
      s.plainCommand d c c1 c2 (rowsCmd .gath w (readRun s.me a.val 5))))

/-- SCAT (R308). -/
def execScat (d a b : GReg) (w : Bool) (s : State) : Out :=
  .next (s.issue (.scat d a b w) { g := d.val :: b.val :: run a.val 5 } (tileOnly (.scat d a b w) fun s =>
    s.withComp (.scat d a b w) b fun c c1 c2 =>
      s.plainCommand d c c1 c2 (rowsCmd .scat w (readRun s.me a.val 5))))

/-! ### JPOLL, JWAIT, JCWAIT, ARMJ (R313 to R316) -/

/-- JPOLL (R313). -/
def execJpoll (p : PReg) (a : GReg) (s : State) : Out :=
  .next (s.issue (.jpoll p a) { g := [a] } fun s =>
    let v := !s.jobOf s.cur ((readG s.me a).toNat % 16)
    .go (s.modMe fun st => writeP st p v))

/-- JWAIT (R314). -/
def execJwait (d a : GReg) (s : State) : Out :=
  .next (s.issue (.jwait d a) { g := [d, a] } fun s =>
    let slot := (readG s.me a).toNat % 16
    if s.jobOf s.cur slot then .hold .jobWait
    else s.putG d ((s.me.jstat.toList.getD slot 0).setWidth 64))

/-- JWAIT.ALL (R314). -/
def execJwaitAll (d : GReg) (s : State) : Out :=
  .next (s.issue (.jwaitAll d) { g := [d] } fun s =>
    if (List.range 16).any fun k => s.jobOf s.cur k then .hold .jobWait
    else s.putG d (((s.me.jstat.toList.find? (· != 0)).getD 0).setWidth 64))

/-- JCWAIT (R315). -/
def execJcwait (d a : GReg) (u j : Bool) (s : State) : Out :=
  .next (s.issue (.jcwait d a u j) { g := [d, a] } fun s =>
    let c := if j then s.me.jc1 else s.me.jc0
    let n := (readG s.me a).setWidth 32
    if c.ult n then .hold .jobWait
    else
      let s' := if !u then s
        else s.modMe fun st => if j then { st with jc1 := c - n } else { st with jc0 := c - n }
      s.putGAnd s' d (c.setWidth 64))

/-- Job-watch entries of a core (R316). -/
def jobWatchDepth : Nat := 16

/-- ARMJ (R316). -/
def execArmj (a b : GReg) (s : State) : Out :=
  .next (s.issue (.armj a b) { g := a.val :: run b.val 5 } (tileOnly (.armj a b) fun s =>
    if jobWatchDepth ≤ (s.core s.myCore).jwatches.length then .hold .jobWait
    else
      let r := readRun s.me b.val 5
      let mask := readG s.me a
      let slots := (List.range 16).filter fun k => mask.getLsbD k && s.jobOf s.cur k
      let (x0, y0) := s.offsetOf s.myCtx
      let h : Hdr := { posted := true, ctx := BitVec.ofNat 8 s.myCtx }
      let w : JobWatch :=
        { slots := slots, ctx := s.myCtx,
          msg := { hdr := (h.withDest (r.getD 0 0) x0 y0).withSource s.myTile (s.myCore % 8) 0, args := r.drop 1 } }
      if slots.isEmpty then .go (s.postWatch s.myCore w)
      else .go ((s.modCore s.myCore fun c => { c with jwatches := c.jwatches ++ [w] }).source s.myCtx)))

end Sys2Proof.Machine
end

