-- ==== Sys2Proof/Machine/Matrix.lean ====
section
/-! DEFINITION. The outer-product array: slots, the command queue, MMA, MST, MZR, MSCL, and the
co-operative product MMAG with its offers, starts, credits, steps and reports (R50 to R52, R317 to R338). -/

namespace Sys2Proof.Machine

/-! ### Operand types (R50, R322) -/

/-- Bits of an operand element. -/
def opBits (t : Nat) : Nat :=
  match t with
  | 0 => 32
  | 1 => 16
  | 2 => 16
  | 3 => 8
  | 4 => 8
  | _ => 4

/-- The accumulator of a pair of types: none if R50 does not list it, true for INT32. -/
def pairAcc (a b : Nat) : Option Bool :=
  if a = b ∧ a < 4 then some false
  else if (a = 4 ∨ a = 5) ∧ b = 5 ∨ a = 4 ∧ b = 4 then some true
  else none

/-- Whether steps are taken two at a time (R51). -/
def pairedType (a : Nat) : Bool := decide (3 ≤ a)

/-- The datum of a floating-point operand code. -/
def opNum (t c : Nat) : FNum :=
  match t with
  | 0 => decodeFp .f32 c
  | 1 => decodeFp .bf16 c
  | 2 => decodeFp .f16 c
  | _ => decodeDf8 c

/-- The value of an integer operand code. -/
def opInt (t c : Nat) : Int := sextNat (opBits t) c

/-- Element `i` of a vector of operand bytes (R323, R41). -/
def opElem (t : Nat) (bs : List Byte) (i : Nat) : Nat :=
  if t = 5 then (bs.getD (i / 2) 0).toNat / (if i % 2 = 0 then 1 else 16) % 16
  else leNat ((bs.drop (i * (opBits t / 8))).take (opBits t / 8))

/-- Bytes of a vector of `n` elements. -/
def opBytes (t n : Nat) : Nat := (n * opBits t + 7) / 8

/-! ### Descriptors (R322) -/

/-- The descriptor run of MMA and MMAG. -/
structure MmaDesc where
  a : Nat := 0
  b : Nat := 0
  k : Nat := 0
  ta : Nat := 0
  tb : Nat := 0
  m : Nat := 0
  n : Nat := 0
  sa : Nat := 0
  sb : Nat := 0
  deriving DecidableEq, Repr

/-- The fields of a descriptor run. -/
def MmaDesc.of (r : List Word) : MmaDesc :=
  let v := (r.getD 2 0).toNat
  let w := (r.getD 3 0).toNat
  { a := (r.getD 0 0).toNat, b := (r.getD 1 0).toNat, k := v / 2 ^ 32, tb := v / 2 ^ 22 % 8,
    ta := v / 2 ^ 19 % 8, m := v / 2 ^ 10 % 512 + 1, n := v % 1024 + 1, sa := w % 2 ^ 32, sb := w / 2 ^ 32 }

/-- The descriptor of a job. -/
def Job.mma (j : Job) : MmaDesc := MmaDesc.of j.desc
/-- Slot of a matrix job. -/
def Job.accNo (j : Job) : Nat := j.fn % 4
/-- Z of MMA and MMAG. -/
def Job.zero (j : Job) : Bool := j.fn / 4 % 2 == 1

/-- Length of the range of an operand whose vectors have `c` elements (R323). -/
def opRange (t stride k c : Nat) : Nat := (k - 1) * stride + opBytes t c

/-! ### Slots (R317 to R319) -/

/-- An accumulator slot. -/
def State.acc4 (s : State) (t n : Nat) : AccSlot := (s.tile t).slots.get {} n
/-- The state with a slot changed. -/
def State.modAcc (s : State) (t n : Nat) (f : AccSlot → AccSlot) : State :=
  s.modTile t fun x => { x with slots := x.slots.set n (f (x.slots.get {} n)) }

/-- The status word of R318. -/
def AccSlot.statusWord (a : AccSlot) : Word :=
  BitVec.ofNat 64 (a.int32.toNat + a.ovf.toNat * 2 + a.perr.toNat * 4)

/-- A slot zeroed, with its scales kept. -/
def AccSlot.zeroed (a : AccSlot) (int32 : Bool) : AccSlot :=
  { a with elems := [], int32 := int32, ovf := false, perr := false, parity := [] }

/-- An element as a code. -/
def AccSlot.elem (a : AccSlot) (i j : Nat) : Nat := (a.elems.get 0 (128 * i + j)).toNat
/-- A scale; one that has not been loaded is 1.0. -/
def scaleOf (l : SMap (BitVec 32)) (i : Nat) : Nat := (l.get 0x3F800000 i).toNat

/-- Parity errors within the block of `m` rows and `n` columns from (r0, c0). -/
def AccSlot.parityIn (a : AccSlot) (r0 c0 m n : Nat) : Bool :=
  a.parity.any fun e => decide (r0 ≤ e / 128 ∧ e / 128 < r0 + m ∧ c0 ≤ e % 128 ∧ e % 128 < c0 + n)

/-- One element after steps with these operand codes (R51, R319): its code and whether a prefix left the
INT32 range. -/
def stepElem (int32 : Bool) (ta tb : Nat) (c : Nat) (xs : List (Nat × Nat)) : Nat × Bool :=
  if int32 then
    let (v, ovf) := xs.foldl (fun (acc : Int × Bool) x =>
      let v := acc.1 + opInt ta x.1 * opInt tb x.2
      (v, acc.2 || decide (v < -2147483648 ∨ 2147483647 < v))) (sextNat 32 c, false)
    (wrap 32 v, ovf)
  else
    let round := fun (x : FNum) => (roundFmt .f32 rmRNE false x).1
    if pairedType ta then
      let p := fun (x : Nat × Nat) => ((opNum ta x.1).mul (opNum tb x.2)).1
      let s := match xs with
        | [] => FNum.fin false 0 0
        | [x] => ((p x).add false (.fin false 0 0)).1
        | x :: y :: _ => ((p x).add false (p y)).1
      (round ((decodeFp .f32 c).add false s).1, false)
    else
      (xs.foldl (fun c x => round (FNum.fma false (decodeFp .f32 c) (opNum ta x.1) (opNum tb x.2)).1) c, false)

/-- The block of `m` rows and `n` columns after steps, each a column of A and a row of B (R325). -/
def AccSlot.step (a : AccSlot) (d : MmaDesc) (m n : Nat) (xs : List (List Nat × List Nat)) : AccSlot :=
  let out := (List.range m).flatMap fun i => (List.range n).map fun j =>
    (128 * i + j, stepElem a.int32 d.ta d.tb (a.elem i j) (xs.map fun x => (x.1.getD i 0, x.2.getD j 0)))
  let rest := a.elems.filter fun e => !decide (e.1 / 128 < m ∧ e.1 % 128 < n)
  { a with elems := (out.filterMap fun e => if e.2.1 = 0 then none else some (e.1, BitVec.ofNat 32 e.2.1)) ++ rest,
           ovf := a.ovf || out.any fun e => e.2.2 }

/-! ### Operand reads (R323, R331) -/

/-- Offset of an operand address in a tile's own slice. -/
def ownOff (t va : Nat) : Option Nat :=
  match aliasOf va with
  | some off => some off
  | none => match windowOf va with
    | some (w, off) => if w = t then some off else none
    | none => none

/-- The codes of an operand vector, and the address of its first unit that could not be read; such a
unit is used as zeros. -/
def State.operandVec (s : State) (ctx t va ty n : Nat) : State × List Nat × Option Nat :=
  let pa := sliceAddr t ((ownOff t va).getD 0)
  let len := opBytes ty n
  let s := s.correct ctx pa len
  let bad := (unitsOf pa len).filter s.poison.contains
  let bs := (s.readRaw pa len).mapIdx fun i b => if bad.contains ((pa + i) / 8 * 8) then 0 else b
  (s, (List.range n).map (opElem ty bs), bad.head?.map fun u => va + (u - pa))

/-! ### The command queue (R320) -/

/-- Entries of the array's command queue. -/
def arrayDepth : Nat := 16
/-- Whether the command queue of a tile has a free entry. -/
def State.arrayRoom (s : State) (t : Nat) : Bool := decide ((s.tile t).queue.length < arrayDepth)
/-- An operation put into the queue of a tile. -/
def State.enqueue (s : State) (t : Nat) (o : ArrayOp) : State :=
  s.modTile t fun x => { x with queue := x.queue ++ [o] }

/-- The job of an operation of tile `t`. -/
def State.opJob (s : State) (t : Nat) : ArrayOp → Job
  | .mma c k => s.job (8 * t + c) k
  | .mst c k => s.job (8 * t + c) k
  | .mzr _ _ _ _ => {}
  | .mscl _ _ => {}
  | .part p => s.job (8 * p.origin + p.core) p.job

/-- The slot an operation acts on. -/
def State.opSlot (s : State) (t : Nat) (o : ArrayOp) : Nat :=
  match o with
  | .mma _ _ => (s.opJob t o).accNo
  | .mst _ _ => (s.opJob t o).accNo
  | .mzr _ n _ _ => n
  | .mscl n _ => n
  | .part _ => (s.opJob t o).accNo

/-- The content type an operation leaves, if it sets one. -/
def State.opSets (s : State) (t : Nat) (o : ArrayOp) : Option Bool :=
  let z := fun (j : Job) => if j.zero then pairAcc j.mma.ta j.mma.tb else none
  match o with
  | .mma _ _ => z (s.opJob t o)
  | .part p => if p.cause.isSome then none else z (s.opJob t o)
  | .mzr _ _ i st => if st then none else some i
  | .mst _ _ => none
  | .mscl _ _ => none

/-- CT of a slot as every entry in the queue leaves it (R324). -/
def State.ctAfter (s : State) (t n : Nat) : Bool :=
  (s.tile t).queue.foldl (fun ct o => if s.opSlot t o = n then (s.opSets t o).getD ct else ct) (s.acc4 t n).int32

/-! ### MMA (R324, R325) -/

/-- The bounds of an operand that must lie in the issuing tile's own slice (R324). -/
def ownBounds (t : Nat) (window : Bool) (lo n : Nat) : Option (Cause × Nat) :=
  match r58 lo with
  | some c => some (c, lo)
  | none =>
    match aliasOf lo with
    | some off => if 0x300000 < off + n then some (.scratchBounds, lo - off + 0x300000) else none
    | none =>
      match windowOf lo with
      | some (w, off) =>
        if !window ∨ w ≠ t then some (.scratchBounds, lo)
        else if 0x300000 < off + n then some (.scratchBounds, lo - off + 0x300000) else none
      | none => some (.scratchBounds, lo)

/-- The checks that MMA and MMAG share: `big` is MMAG. -/
def State.mmaCmd (s : State) (big : Bool) (n : BitVec 2) (z : Bool) (r : List Word) : Cmd :=
  let d := MmaDesc.of r
  let pair := pairAcc d.ta d.tb
  let ct := s.ctAfter s.myTile n.toNat
  let la := opRange d.ta d.sa d.k (min 128 d.m)
  let lb := opRange d.tb d.sb d.k (min 128 d.n)
  { kind := if big then .mmag else .mma, fn := n.toNat + z.toNat * 4, desc := r,
    limits :=
      [(decide (6 ≤ d.ta ∨ 6 ≤ d.tb) || pair.isNone || decide (d.k = 0) ||
          (if big then decide (384 < d.m ∨ 640 < d.n) else decide (128 < d.m ∨ 128 < d.n)) ||
          (!big && !z && pair != some ct), r.getD 2 0)],
    aligns := [(r.getD 0 0, 8), (r.getD 1 0, 8)],
    strides := [(d.sa, 8), (d.sb, 8)],
    ranges := [(false, d.a, la), (false, d.b, lb)],
    bounds := some fun s =>
      (ownBounds s.myTile (!big) d.a la).or (ownBounds s.myTile (!big) d.b lb) }

/-- MMA (R324, R325). -/
def execMma (d a b : GReg) (z : Bool) (n : BitVec 2) (s : State) : Out :=
  .next (s.issue (.mma d a b z n) { g := d.val :: b.val :: run a.val 4 } (tileOnly (.mma d a b z n) fun s =>
    s.withComp (.mma d a b z n) b fun w w1 w2 =>
      s.command d w w1 w2 (s.mmaCmd false n z (readRun s.me a.val 4)) (fun s => s.arrayRoom s.myTile)
        fun s' slot => s'.enqueue s.myTile (.mma (s.myCore % 8) slot)))

/-- Numbers of the steps that a product takes next, `k` of them being done: one, or the two of a pair (R51). -/
def stepsAt (d : MmaDesc) (k : Nat) : List Nat :=
  if d.k ≤ k then []
  else if pairedType d.ta ∧ k + 1 < d.k then [k, k + 1]
  else [k]

/-- A free value where the manual names no address. -/
def State.freeAddr (s : State) : State × Nat := ({ s with nextId := s.nextId + 1 }, (Config.freeWord s.nextId).toNat)

/-- The elements of a block read: a parity error among them sets PERR (R331, R335). -/
def State.parityCheck (s : State) (t n r0 c0 m c : Nat) : State × Bool :=
  let hit := fun (e : Nat) => decide (r0 ≤ e / 128 ∧ e / 128 < r0 + m ∧ c0 ≤ e % 128 ∧ e % 128 < c0 + c)
  if (s.acc4 t n).parityIn r0 c0 m c then
    (s.modAcc t n fun a => { a with perr := true, parity := a.parity.filter fun e => !hit e }, true)
  else (s, false)

/-- POISON noted for a job at an address that the manual does not name: a free value (R331). -/
def State.notePoison (s : State) (core slot idx : Nat) : State :=
  let (s, a) := s.freeAddr
  s.modJob core slot fun j => j.note idx .poison a s.time

/-- The operands of steps read, with the first failures noted at places 2k and 2k + 1. -/
def State.readSteps (s : State) (t core slot : Nat) (d : MmaDesc) : List Nat → State × List (List Nat × List Nat) × Bool
  | [] => (s, [], false)
  | k :: r =>
    let ctx := (s.job core slot).ctx
    let (s, a, ea) := s.operandVec ctx t (d.a + k * d.sa) d.ta d.m
    let (s, b, eb) := s.operandVec ctx t (d.b + k * d.sb) d.tb d.n
    let s := match ea with
      | some x => s.modJob core slot fun j => j.note (2 * k) .poison x s.time
      | none => s
    let s := match eb with
      | some x => s.modJob core slot fun j => j.note (2 * k + 1) .poison x s.time
      | none => s
    let (s, l, bad) := State.readSteps s t core slot d r
    (s, (a, b) :: l, bad || ea.isSome || eb.isSome)

/-- An operation taken off the queue. -/
def State.dequeue (s : State) (t : Nat) (o : ArrayOp) : State :=
  s.modTile t fun x => { x with queue := x.queue.erase o }

/-- An MMA begun: with Z its slot is zeroed (R325). -/
def State.beginMma (s : State) (t core slot : Nat) : State :=
  let j := s.job core slot
  let d := j.mma
  let s := if j.zero then s.modAcc t j.accNo fun a => a.zeroed ((pairAcc d.ta d.tb).getD false) else s
  s.modJob core slot fun j => { j with st := .running }

/-- The next step of an MMA under way, or the next pair of steps: it enters the slot; after the last one the operation
leaves the queue (R325, R331, R336). -/
def State.stepMma (s : State) (t core slot : Nat) : State :=
  let j := s.job core slot
  let d := j.mma
  let n := j.accNo
  let ks := stepsAt d j.k
  let (s, odd) := s.parityCheck t n 0 0 d.m d.n
  let s := if odd then s.notePoison core slot (2 ^ 34) else s
  let (s, xs, bad) := s.readSteps t core slot d ks
  let s := s.modAcc t n fun a => { a.step d d.m d.n xs with perr := a.perr || bad }
  let s := s.modJob core slot fun j => { j with k := j.k + ks.length }
  if d.k ≤ j.k + ks.length then s.dequeue t (.mma (core % 8) slot) else s

/-! ### MST (R329, R330) -/

/-- Element size of a store format; codes 6 and 7 are not encodings. -/
def mstSize (f : Nat) : Nat :=
  match f with
  | 0 => 4
  | 1 => 2
  | 2 => 2
  | 3 => 1
  | 4 => 4
  | _ => 1

/-- Round(x, fmt) of R330 for a store format. -/
def mstRound (f : Nat) (x : FNum) : Nat :=
  let int := fun (n : Nat) => if x.isNan then 0 else wrap n (toInt x n rmRNE).1
  match f with
  | 0 => (roundFmt .f32 rmRNE false x).1
  | 1 => (roundFmt .bf16 rmRNE false x).1
  | 2 => (roundFmt .f16 rmRNE false x).1
  | 3 => (toDf8 x).1
  | 4 => int 32
  | _ => int 8

/-- An element as MST stores it: `c` is the exact value, the scales are FP32 codes. -/
def mstValue (f : Nat) (sc : Option (Nat × Nat)) (x : FNum) : Nat :=
  match sc with
  | none => mstRound f x
  | some (a, b) =>
    let y := (roundFmt .f32 rmRNE false (x.mul (decodeFp .f32 a)).1).1
    mstRound f ((decodeFp .f32 y).mul (decodeFp .f32 b)).1

/-- Fields of the second descriptor word of MST: DSTR, N, M, col0, row0. -/
def mstFields (v : Nat) : Nat × Nat × Nat × Nat × Nat :=
  (v / 2 ^ 32, v / 2 ^ 24 % 128 + 1, v / 2 ^ 16 % 128 + 1, v / 2 ^ 8 % 128, v % 128)

/-- Store format of an MST job. -/
def Job.mstFmt (j : Job) : Nat := j.fn / 4 % 8
/-- SC of an MST job. -/
def Job.mstScaled (j : Job) : Bool := j.fn / 32 % 2 == 1

/-- The command of MST. -/
def mstCmd (sc : Bool) (f : BitVec 3) (n : BitVec 2) (r : List Word) : Cmd :=
  let (ds, c, m, col, row) := mstFields (r.getD 1 0).toNat
  let size := mstSize f.toNat
  { kind := .mst, fn := n.toNat + f.toNat * 4 + sc.toNat * 32, desc := r,
    limits := [(decide (128 < col + c ∨ 128 < row + m), r.getD 1 0)],
    aligns := [(r.getD 0 0, size)], strides := [(ds, size)],
    ranges := [(true, (r.getD 0 0).toNat, (m - 1) * ds + c * size)] }

/-- MST (R329). -/
def execMst (d a b : GReg) (sc : Bool) (f : BitVec 3) (n : BitVec 2) (s : State) : Out :=
  .next (s.issue (.mst d a b sc f n) { g := d.val :: b.val :: run a.val 2 } (tileOnly (.mst d a b sc f n) fun s =>
    s.withComp (.mst d a b sc f n) b fun w w1 w2 =>
      s.command d w w1 w2 (mstCmd sc f n (readRun s.me a.val 2)) (fun s => s.arrayRoom s.myTile)
        fun s' slot => s'.enqueue s.myTile (.mst (s.myCore % 8) slot)))

/-- The rows MST writes; with PERR every byte of them is bad (R331). -/
def Job.mstRows (j : Job) (a : AccSlot) : List FilterRow :=
  let (_, c, m, col, row) := mstFields (j.d 1).toNat
  let f := j.mstFmt
  let size := mstSize f
  (List.range m).map fun i =>
    some (((List.range c).map fun k =>
        let v := a.elem (row + i) (col + k)
        let x := if a.int32 then FNum.ofInt (sextNat 32 v) else decodeFp .f32 v
        let sc := if j.mstScaled then some (scaleOf a.sa (row + i), scaleOf a.sb (col + k)) else none
        leBytes size (mstValue f sc x)).flatten,
      if a.perr then List.range (c * size) else [])

/-- The next row of an MST under way: an absent page holds it, otherwise the row is written; after the last one the
operation leaves the queue (R330, R331, R336). A parity error that the row meets sets PERR first. -/
def State.rowMst (s : State) (t core slot : Nat) : State :=
  let j := s.job core slot
  let n := j.accNo
  let (ds, c, m, col, row) := mstFields (j.d 1).toNat
  let runs := fun (a : AccSlot) =>
    (outRuns (fun i => (j.d 0).toNat + i * ds) (c * mstSize j.mstFmt) (j.mstRows a)).filter fun x => x.2.1 == j.k
  let rs := runs (s.acc4 t n)
  match s.holdOut core slot rs with
  | some s => s
  | none =>
    let (s, _) := s.parityCheck t n (row + j.k) col 1 c
    let s := if (s.acc4 t n).perr then s.notePoison core slot (outIdx ((rs.map (·.1)).headD 0)) else s
    let s := (s.writeRows core slot (j.mstRows (s.acc4 t n)) rs).modJob core slot fun j => { j with rows := 0, k := j.k + 1 }
    if m ≤ j.k + 1 then s.dequeue t (.mst (core % 8) slot) else s

/-! ### MZR and MSCL (R327, R328) -/

/-- MZR in both forms: its status word is pending until it is performed. -/
def State.mzrForm (s : State) (d : GReg) (n : Nat) (int32 status : Bool) : Res :=
  if !s.arrayRoom s.myTile then .hold .injection
  else
    let id := s.nextId
    let a := { s.accessOf 0 8 .load (.mem 0 none) false (.g d 8 false) with id := id, grp := id }
    let s' := { s with nextId := id + 1 }.enqueue s.myTile (.mzr a n int32 status)
    .go (s'.modMe fun st => { st with pend := st.pend ++ [{ id := id, g := some d, lc := st.lc }] })

/-- MZR without ST (R327). -/
def execMzr (d : GReg) (c : Bool) (n : BitVec 2) (s : State) : Out :=
  .next (s.issue (.mzr d c n) { g := [d] } (tileOnly (.mzr d c n) fun s => s.mzrForm d n.toNat c false))

/-- MZR.ST (R327). -/
def execMzrSt (d : GReg) (n : BitVec 2) (s : State) : Out :=
  .next (s.issue (.mzrSt d n) { g := [d] } (tileOnly (.mzrSt d n) fun s => s.mzrForm d n.toNat false true))

/-- A scale vector of 512 bytes. -/
def scaleMap (bs : List Byte) : SMap (BitVec 32) :=
  (List.range 128).map fun i => (i, BitVec.ofNat 32 (leNat ((bs.drop (4 * i)).take 4)))

/-- MSCL once its loads have returned: the values wait in the staging buffer. -/
def State.stage (s : State) (n : Nat) (bs : List Byte) : State :=
  (s.modAcc s.myTile n fun a =>
    { a with staged := some (scaleMap (bs.take 512), scaleMap (bs.drop 512)) }).enqueue s.myTile (.mscl n (s.myCore % 8))

/-- The lines of a range of 512 bytes that MSCL loads. -/
def msclLines (a : Word) : List Elem := (List.range 8).map fun i => (i, a + BitVec.ofNat 64 (64 * i))

/-- Bytes of a range that MSCL loads. -/
def msclBytes : Nat := 512

/-- CheckAccess of R162 on a range of 512 bytes that MSCL loads: the first cause over the whole range, with the range's
address, for RANGE_LOCK with the lowest overlapping byte; else the targets of its lines. -/
def State.checkScale (s : State) (a : Word) : Except (Cause × Word) (List (Elem × Target × Bool)) :=
  let cs := (msclLines a).map fun e => s.checkAccess s.cur e.2 64 64 needR
  let first := fun (k : Cause) => cs.findSome? fun c => match c with
    | .bad k' b => if k' = k then some b else none
    | .ok _ _ => none
  match r58Range a.toNat msclBytes with
  | some k => .error (k, a)
  | none =>
    match first .scratchBounds with
    | some b => .error (.scratchBounds, b)
    | none =>
      match [Cause.pageAbsent, .pagePermission, .leaseRevoked].find? fun k => (first k).isSome with
      | some k => .error (k, a)
      | none => s.checkElems 64 needR (msclLines a)

/-- MSCL (R328). -/
def execMscl (a b : GReg) (n : BitVec 2) (s : State) : Out :=
  .next (s.issue (.mscl a b n) { g := [a, b] } (tileOnly (.mscl a b n) fun s =>
    if (s.acc4 s.myTile n.toNat).staged.isSome || !s.arrayRoom s.myTile then .hold .injection
    else if s.me.landing.length = 1024 then .go (s.stage n.toNat s.me.landing)
    else if s.me.pend.any fun p => p.g.isNone && p.w.isNone then .hold .injection
    else
      let va := readG s.me a
      let vb := readG s.me b
      if va.toNat % 64 ≠ 0 then .trap .misaligned va
      else if vb.toNat % 64 ≠ 0 then .trap .misaligned vb
      else match s.checkScale va, s.checkScale vb with
      | .error (c, x), _ => .trap c x
      | .ok _, .error (c, x) => .trap c x
      | .ok l, .ok l' =>
          let s' := s.issueGroup ((l ++ l').map fun (e, t, p) => s.accessOf e.2 64 .load t p .landing) (some {})
          if s'.me.landing.length = 1024 then .go (s'.stage n.toNat s'.me.landing) else .wait s' .injection))

/-! ### MMAG: members and parts (R332, R333) -/

/-- Rows and columns of the rectangle of members. -/
def MmaDesc.shape (d : MmaDesc) : Nat × Nat := ((d.m + 127) / 128, (d.n + 127) / 128)

/-- The tile of a member. -/
def MmaDesc.memberTile (d : MmaDesc) (origin i : Nat) : Nat :=
  let w := d.shape.2
  (tileY origin + i / w) % 24 * 32 + (tileX origin + i % w) % 32

/-- Rows of a member's block. -/
def MmaDesc.rows (d : MmaDesc) (r : Nat) : Nat := min 128 (d.m - 128 * r)
/-- Columns of a member's block. -/
def MmaDesc.cols (d : MmaDesc) (c : Nat) : Nat := min 128 (d.n - 128 * c)

/-- Members in increasing tile number (R334). -/
def MmaDesc.order (d : MmaDesc) (origin : Nat) : List Nat :=
  let n := d.shape.1 * d.shape.2
  (List.range n).insertionSort fun i j => d.memberTile origin i ≤ d.memberTile origin j

/-- A part put into its member's queue, with the CT check of R324 there. -/
def State.enterPart (s : State) (t origin core slot member : Nat) : State :=
  let j := s.job (8 * origin + core) slot
  let ok := j.zero || pairAcc j.mma.ta j.mma.tb == some (s.ctAfter t j.accNo)
  s.enqueue t (.part
    { origin := origin, core := core, job := slot, member := member,
      cause := if ok then none else some Cause.illegalCombination.code })

/-- The operands a member supplies: block r of A from column 0, block c of B from row 0 (R332). -/
def MmaDesc.supplies (d : MmaDesc) (origin core slot member : Nat) : List Supply :=
  let (h, w) := d.shape
  let r := member / w
  let c := member % w
  (if c = 0 then
    [{ origin := origin, core := core, job := slot, isA := true, addr := BitVec.ofNat 64 d.a, stride := d.sa,
       ty := d.ta, count := d.rows r, steps := d.k, credits := (List.range w).map fun x => (r * w + x, 0) : Supply }]
   else []) ++
  (if r = 0 then
    [{ origin := origin, core := core, job := slot, isA := false, addr := BitVec.ofNat 64 d.b, stride := d.sb,
       ty := d.tb, count := d.cols c, steps := d.k, credits := (List.range h).map fun x => (x * w + c, 0) : Supply }]
   else [])

/-- The range entry of a supply. -/
def Supply.lock (p : Supply) (ctx : Nat) : RangeLock :=
  { lo := p.addr.toNat, hi := p.addr.toNat + opRange p.ty p.stride p.steps p.count - 1, core := p.core,
    job := p.job, ctx := ctx, origin := p.origin }

/-- Supplies whose range is not registered yet are registered while the table has room (R333). -/
def State.lockSupplies (s : State) (t : Nat) : State :=
  (s.tile t).supplies.foldl (fun s p =>
    if p.locked ∨ (s.tile t).freeLocks = 0 then s
    else
      s.modTile t fun x =>
        { x with locks := x.locks ++ [p.lock p.ctx],
                 supplies := x.supplies.map fun q => if q = p then { q with locked := true } else q }) s

/-- One step of a supply read and sent to the members it serves (R333, R334). -/
def State.sendStep (s : State) (t : Nat) (p : Supply) : State :=
  let j := s.job (8 * p.origin + p.core) p.job
  let (s, vals, bad) := s.operandVec j.ctx t (p.addr.toNat + p.k * p.stride) p.ty p.count
  let s := s.modTile t fun x =>
    { x with supplies := x.supplies.map fun q =>
        if q = p then { q with k := q.k + 1, credits := q.credits.map fun c => (c.1, c.2 - 1) } else q }
  p.credits.foldl (fun s c =>
    (s.source j.ctx).inject t (j.mma.memberTile p.origin c.1) false j.ctx []
      (.mmagStep p.origin p.core p.job c.1 p.isA p.k vals (bad.map (BitVec.ofNat 64)))) s

/-- Whether a supply may send its next step. -/
def State.maySend (s : State) (t : Nat) (p : Supply) : Bool :=
  let j := s.job (8 * p.origin + p.core) p.job
  p.locked && decide (p.k < p.steps) && p.credits.all (fun c => c.2 != 0) && s.released j.after &&
    s.inOrder t p.origin p.core p.job

/-- Whether every member a supply serves has taken its last step. -/
def Supply.over (p : Supply) : Bool := p.k == p.steps && p.credits.all fun c => c.2 == 8

/-- A supply that is over frees its range entry (R333). -/
def State.endSupply (s : State) (t : Nat) (p : Supply) : State :=
  s.modTile t fun x =>
    { x with supplies := x.supplies.filter (· != p), locks := x.locks.erase (p.lock p.ctx) }

/-- One thing the supplies of a tile can do, in order. -/
def State.supplyStep (s : State) (t : Nat) : State :=
  let s := s.lockSupplies t
  match (s.tile t).supplies.find? fun p => s.maySend t p with
  | some p => s.sendStep t p
  | none =>
    match (s.tile t).supplies.find? Supply.over with
    | some p => s.endSupply t p
    | none => s

/-- The supplies of a tile advance as far as their credits go. -/
def State.supply (s : State) (t : Nat) : State :=
  if (s.tile t).vacated then s
  else (List.range (9 * (s.tile t).supplies.length)).foldl (fun s _ => s.supplyStep t) s

/-- A member tile takes a part: it enters the queue, and the tile supplies what it holds. The origin's own
ranges have been registered at the issue. -/
def State.takePart (s : State) (t origin core slot member : Nat) : State :=
  let j := s.job (8 * origin + core) slot
  let ps := (j.mma.supplies origin core slot member).map fun p => { p with locked := t == origin, ctx := j.ctx }
  ((s.enterPart t origin core slot member).modTile t fun x => { x with supplies := x.supplies ++ ps }).lockSupplies t

/-! ### Offers and starts (R334) -/

/-- The origin's record of an MMAG job changed. -/
def State.modMmag (s : State) (origin core slot : Nat) (f : MmagOrigin → MmagOrigin) : State :=
  s.modJob (8 * origin + core) slot fun j => { j with mmag := f j.mmag }

/-- Every member has accepted: a start is sent to each, the origin itself among them. -/
def State.sendStarts (s : State) (origin core slot : Nat) : State :=
  let j := s.job (8 * origin + core) slot
  let s := s.modMmag origin core slot fun m => { m with started := true, offering := none }
  (j.mma.order origin).foldl (fun s i =>
    (s.source j.ctx).inject origin (j.mma.memberTile origin i) true j.ctx [] (.mmagStart origin core slot i)) s

/-- The next part offered, in increasing tile number; the origin's own part enters its own queue. -/
def State.offerNext (s : State) (origin core slot : Nat) : Nat → State
  | 0 => s
  | fuel + 1 =>
    let j := s.job (8 * origin + core) slot
    match (j.mma.order origin).find? fun i => !j.mmag.accepted.contains i with
    | none => if j.mmag.started then s else s.sendStarts origin core slot
    | some i =>
      let t := j.mma.memberTile origin i
      if t ≠ origin then
        ((s.modMmag origin core slot fun m => { m with offering := some i, refusedAt := none }).source j.ctx).inject
          origin t false j.ctx [] (.mmagOffer origin core slot i)
      else if s.arrayRoom origin then
        State.offerNext ((s.takePart origin origin core slot i).modMmag origin core slot fun m =>
          { m with accepted := i :: m.accepted, refusedAt := none }) origin core slot fuel
      else s.modMmag origin core slot fun m => { m with refusedAt := some s.time.toNat }

/-- The checks of MMAG beside those of its command: every member tile is in the placement. -/
def State.mmagBounds (s : State) (d : MmaDesc) : Option (Cause × Nat) :=
  let n := d.shape.1 * d.shape.2
  (((List.range n).map fun i => d.memberTile s.myTile i).find? fun t => !s.inPlacement s.myCtx t).map fun t =>
    (.scratchBounds, 0x700000000000 + t * 0x400000)

/-- MMAG (R324, R332 to R334). -/
def execMmag (d a b : GReg) (z : Bool) (n : BitVec 2) (s : State) : Out :=
  .next (s.issue (.mmag d a b z n) { g := d.val :: b.val :: run a.val 4 } (tileOnly (.mmag d a b z n) fun s =>
    s.withComp (.mmag d a b z n) b fun w w1 w2 =>
      let q := s.mmaCmd true n z (readRun s.me a.val 4)
      let q := { q with bounds := some fun s => (s.cmdBounds q).or (s.mmagBounds (MmaDesc.of q.desc)) }
      s.command d w w1 w2 q (fun s => s.arrayRoom s.myTile)
        fun s' slot => s'.offerNext s.myTile (s.myCore % 8) slot 16))

/-- MMAG_OFFER: a part reaches its member, which takes or refuses it in that clock. -/
def execMmagOffer (k : Nat) (s : State) : Out :=
  .next (s.deliverPacket k fun s p => match p.body with
    | .mmagOffer origin core slot member =>
      let ok := s.arrayRoom p.dst && !(s.tile p.dst).vacated
      let s := if ok then s.takePart p.dst origin core slot member else s
      (s.source p.ctx).inject p.dst origin true p.ctx [] (.mmagAnswer core slot member ok)
    | _ => s)

/-- MMAG_ACCEPTANCE: the origin learns a member's answer. -/
def execMmagAcceptance (k : Nat) (s : State) : Out :=
  .next (s.deliverPacket k fun s p => match p.body with
    | .mmagAnswer core slot member ok =>
      if ok then
        (s.modMmag p.dst core slot fun m => { m with accepted := member :: m.accepted, offering := none }).offerNext
          p.dst core slot 16
      else s.modMmag p.dst core slot fun m => { m with refusedAt := some s.time.toNat, offering := none }
    | _ => s)

/-- Clocks before a refused part is offered again. -/
def reofferWait : Nat := 64

/-- MMAG_REOFFER: 64 clocks after a refusal the part is offered again. -/
def execMmagReoffer (core slot : Nat) (s : State) : Out :=
  let j := s.job core slot
  .next (match j.mmag.refusedAt with
    | some at_ =>
      if j.kind = .mmag ∧ !(s.tile (core / 8)).vacated ∧ at_ + reofferWait ≤ s.time.toNat then s.offerNext (core / 8) (core % 8) slot 16 else s
    | none => s)

/-- The part of a member changed in its queue. -/
def State.modPart (s : State) (t origin core slot : Nat) (f : Part → Part) : State :=
  s.modTile t fun x => { x with queue := x.queue.map fun o => match o with
    | .part p => if p.origin = origin ∧ p.core = core ∧ p.job = slot then .part (f p) else .part p
    | .mma c k => .mma c k
    | .mst c k => .mst c k
    | .mzr a n i st => .mzr a n i st
    | .mscl n c => .mscl n c }

/-- MMAG_START: an accepted part may begin. -/
def execMmagStart (k : Nat) (s : State) : Out :=
  .next (s.deliverPacket k fun s p => match p.body with
    | .mmagStart origin core slot _ =>
      (s.modPart p.dst origin core slot fun x => { x with started := true }).modJob (8 * origin + core) slot fun j =>
        { j with st := .running }
    | _ => s)

/-! ### Credits, steps and reports (R333 to R335) -/

/-- Credits sent by a member to the supplier of one operand. -/
def State.sendCredit (s : State) (t : Nat) (p : Part) (forA : Bool) (n : Nat) : State :=
  let j := s.job (8 * p.origin + p.core) p.job
  let w := j.mma.shape.2
  let supplier := j.mma.memberTile p.origin (if forA then p.member / w * w else p.member % w)
  (s.source j.ctx).inject t supplier true j.ctx [] (.mmagCredit p.origin p.core p.job p.member forA n)

/-- Credits of a member added to the first supply of an operand of a job. -/
def creditFirst (origin core slot member : Nat) (forA : Bool) (n : Nat) : List Supply → List Supply
  | [] => []
  | q :: r =>
    if q.origin = origin ∧ q.core = core ∧ q.job = slot ∧ q.isA = forA then
      { q with credits := q.credits.map fun c => if c.1 = member then (c.1, c.2 + n) else c } :: r
    else q :: creditFirst origin core slot member forA n r

/-- MMAG_CREDIT: a supplier receives step credits, and sends what they allow. -/
def execMmagCredit (k : Nat) (s : State) : Out :=
  .next (s.deliverPacket k fun s p => match p.body with
    | .mmagCredit origin core slot member forA n =>
      (s.modTile p.dst fun x =>
        { x with supplies := creditFirst origin core slot member forA n x.supplies }).supply p.dst
    | _ => s)

/-- The steps a part can consume now, none if it must wait: one, or the two of a pair (R51). -/
def Part.next (p : Part) (d : MmaDesc) : Option (List (MStep × MStep)) :=
  let n := if pairedType d.ta ∧ p.k + 1 < d.k then 2 else 1
  let l := (List.range n).map fun i =>
    match p.stepsA.find? (fun x => x.k == p.k + i), p.stepsB.find? (fun x => x.k == p.k + i) with
    | some a, some b => some (a, b)
    | _, _ => none
  if p.k < d.k ∧ l.all (·.isSome) then some (l.filterMap id) else none

/-- A part's failure: the first one stands. -/
def Part.fail (p : Part) (c : Cause) (a : Word) : Part :=
  if p.cause.isNone then { p with cause := some c.code, addr := a } else p

/-- A parity error that a part meets in its block (R335). -/
def State.partParity (s : State) (t : Nat) (p : Part) : State × Part :=
  let j := s.job (8 * p.origin + p.core) p.job
  let d := j.mma
  match s.parityCheck t j.accNo 0 0 (d.rows (p.member / d.shape.2)) (d.cols (p.member % d.shape.2)) with
  | (s, false) => (s, p)
  | (s, true) =>
    let (s, x) := s.freeAddr
    (s, p.fail .poison (BitVec.ofNat 64 x))

/-- A part consumes its next steps: they enter the slot unless the part failed at its queue entry, poisoned
units count as zeros, and a credit goes back for each step. The result says whether steps were there. -/
def State.consume (s : State) (t : Nat) (p : Part) : State × Part × Bool :=
  let j := s.job (8 * p.origin + p.core) p.job
  let d := j.mma
  match p.next d with
  | none => (s, p, false)
  | some xs =>
    let m := d.rows (p.member / d.shape.2)
    let n := d.cols (p.member % d.shape.2)
    let bad := xs.findSome? fun x => x.1.bad.or x.2.bad
    let off := decide (p.cause = some Cause.illegalCombination.code)
    let (s, p) := if off then (s, p) else s.partParity t p
    let s := if off then s
      else s.modAcc t j.accNo fun a =>
        { a.step d m n (xs.map fun x => (x.1.vals, x.2.vals)) with perr := a.perr || bad.isSome }
    let p := match bad with
      | some a => p.fail .poison a
      | none => p
    let k := p.k + xs.length
    let p := { p with k := k, stepsA := p.stepsA.filter fun x => decide (k ≤ x.k),
                      stepsB := p.stepsB.filter fun x => decide (k ≤ x.k) }
    ((s.sendCredit t p true xs.length).sendCredit t p false xs.length, p, true)

/-- A part consumes every step it has. -/
def State.consumeAll (s : State) (t : Nat) (p : Part) : Nat → State × Part
  | 0 => (s, p)
  | fuel + 1 =>
    match s.consume t p with
    | (s, p, true) => State.consumeAll s t p fuel
    | (s, p, false) => (s, p)

/-- The part of a job in a member's queue. -/
def State.partOf (s : State) (t origin core slot : Nat) : Option Part :=
  (s.tile t).queue.findSome? fun o => match o with
    | .part p => if p.origin = origin ∧ p.core = core ∧ p.job = slot then some p else none
    | .mma _ _ => none
    | .mst _ _ => none
    | .mzr _ _ _ _ => none
    | .mscl _ _ => none

/-- A part advanced: it consumes what has arrived, and reports when its last step is in its slot. -/
def State.advancePart (s : State) (t origin core slot : Nat) : State :=
  match s.partOf t origin core slot with
  | none => s
  | some p =>
    if !p.begun || (s.tile t).vacated then s
    else
      let j := s.job (8 * origin + core) slot
      let (s, p) := s.consumeAll t p 8
      let s := s.modPart t origin core slot fun _ => p
      if p.k < j.mma.k then s
      else
        let s := s.modTile t fun x => { x with queue := x.queue.erase (.part p) }
        (s.source j.ctx).inject t origin true j.ctx [] (.mmagReport core slot p.member p.cause p.addr)

/-- MMAG_STEP: an operand step reaches a member; one below the member's own KDONE is discarded, and its credit goes back
(R334, R338). -/
def execMmagStep (k : Nat) (s : State) : Out :=
  .next (s.deliverPacket k fun s p => match p.body with
    | .mmagStep origin core slot member isA n vals bad =>
      let x : MStep := { k := n, vals := vals, bad := bad }
      let old := match s.partOf p.dst origin core slot with
        | some q => decide (n < q.k)
        | none => true
      if old then s.sendCredit p.dst { origin := origin, core := core, job := slot, member := member } isA 1
      else (s.modPart p.dst origin core slot fun q =>
        if isA then { q with stepsA := q.stepsA ++ [x] } else { q with stepsB := q.stepsB ++ [x] }).advancePart
          p.dst origin core slot
    | _ => s)

/-- MMAG_REPORT: the origin receives a member's report; the failure of the lowest member index is the
job's (R335). It is found for TSTAMP (R410) in the clock of the report: DESIGN CHOICE, assumption log 39. -/
def execMmagReport (k : Nat) (s : State) : Out :=
  .next (s.deliverPacket k fun s p => match p.body with
    | .mmagReport core slot member cause addr =>
      let t := (s.job (8 * p.dst + core) slot).mma.memberTile p.dst member
      (s.modMmag p.dst core slot fun m => { m with reported := member :: m.reported }).modJob (8 * p.dst + core) slot
        fun j => match cause with
          | some c =>
            if j.err.isNone ∨ member < j.errIdx then
              { j with err := some c, errIdx := member, errAddr := addr, errTile := t, errTime := s.time }
            else j
          | none => j
    | _ => s)

/-! ### ARRAY_OPERATION (R320) -/

/-- Whether an operation may begin now: a job of the tile waits for the accesses before it and for
its turn on its ranges. -/
def State.opReady (s : State) (t : Nat) (o : ArrayOp) : Bool :=
  let ready := fun (c k : Nat) =>
    let j := s.job (8 * t + c) k
    j.st == .issued && s.released j.after && s.inOrder t t (8 * t + c) k
  match o with
  | .mma c k => ready c k
  | .mst c k => ready c k
  | .mzr _ _ _ _ => true
  | .mscl _ _ => true
  | .part p => p.started && !p.begun

/-- Whether an operation uses the cells: one product runs at a time (R326). -/
def ArrayOp.multiplies : ArrayOp → Bool
  | .mma _ _ => true
  | .part _ => true
  | .mst _ _ => false
  | .mzr _ _ _ _ => false
  | .mscl _ _ => false

/-- Whether everything behind an operation waits: a part without its start (R334). -/
def ArrayOp.stops : ArrayOp → Bool
  | .part p => !p.started
  | .mma _ _ => false
  | .mst _ _ => false
  | .mzr _ _ _ _ => false
  | .mscl _ _ => false

/-- The first operation that may begin: none earlier acts on its slot, and products keep their
order; `busy` says that a product comes before it. -/
def State.pickOp (s : State) (t : Nat) (slots : List Nat) (busy : Bool) : List ArrayOp → Option ArrayOp
  | [] => none
  | o :: r =>
    let n := s.opSlot t o
    if !slots.contains n && !(o.multiplies && busy) && s.opReady t o then some o
    else if o.stops then none
    else State.pickOp s t (n :: slots) (busy || o.multiplies) r

/-- The next operation of a tile's array to begin. -/
def State.nextOp (s : State) (t : Nat) : Option ArrayOp := s.pickOp t [] false (s.tile t).queue

/-- A part begins: with Z its slot is zeroed, and credits go to its suppliers. -/
def State.beginPart (s : State) (t : Nat) (p : Part) : State :=
  let j := s.job (8 * p.origin + p.core) p.job
  let d := j.mma
  let s := if j.zero then s.modAcc t j.accNo fun a => a.zeroed ((pairAcc d.ta d.tb).getD false) else s
  let p' := { p with begun := true }
  let s := s.modPart t p.origin p.core p.job fun _ => p'
  (s.sendCredit t p' true 8).sendCredit t p' false 8

/-- One operation of the array begun, or performed where it is one step. -/
def State.runOp (s : State) (t : Nat) (o : ArrayOp) : State :=
  match o with
  | .mma c k => s.beginMma t (8 * t + c) k
  | .mst c k => s.modJob (8 * t + c) k fun j => { j with st := .running }
  | .mzr a n i st =>
    let w := (s.acc4 t n).statusWord
    let s := s.dequeue t o
    let s := if st then s else s.modAcc t n fun x => x.zeroed i
    s.answer [{ a with status := .done (leBytes 8 w.toNat) }]
  | .mscl n _ =>
    (s.dequeue t o).modAcc t n fun x => match x.staged with
      | some (sa, sb) => { x with sa := sa, sb := sb, staged := none }
      | none => x
  | .part p => s.beginPart t p

/-- One step of an operation under way: a step of an MMA, a row of an MST; a part goes on as its operands arrive. -/
def State.workOp (s : State) (t : Nat) (o : ArrayOp) : State :=
  match o with
  | .mma c k => if (s.job (8 * t + c) k).st = .running then s.stepMma t (8 * t + c) k else s
  | .mst c k => if (s.job (8 * t + c) k).st = .running then s.rowMst t (8 * t + c) k else s
  | .mzr _ _ _ _ => s
  | .mscl _ _ => s
  | .part _ => s

/-- ARRAY_OPERATION: the supplies of a tile go on where they can, what is under way in its array takes one step, and the
next operation of its queue begins. -/
def execArrayOperation (t : Nat) (s : State) : Out :=
  let s := s.supply t
  .next (if (s.tile t).vacated then s
    else
      let s := (s.tile t).queue.foldl (fun s o => s.workOp t o) s
      match s.nextOp t with
      | some o => s.runOp t o
      | none => s)

/-! ### Completion of matrix jobs -/

/-- Whether a job still has its operation in its tile's queue. -/
def State.queued (s : State) (core slot : Nat) : Bool :=
  (s.tile (core / 8)).queue.any fun o => match o with
    | .mma c k => c == core % 8 && k == slot
    | .mst c k => c == core % 8 && k == slot
    | .mzr _ _ _ _ => false
    | .mscl _ _ => false
    | .part _ => false

/-- JOB_COMPLETE for the jobs of the array: the last step has entered the slot, the last row is written,
or every member has reported (R325, R333). -/
def State.matrixComplete (s : State) (core slot : Nat) : State :=
  let j := s.job core slot
  let d := j.mma
  let all := d.shape.1 * d.shape.2
  let full := if j.kind = .mmag then decide ((j.mmag.reported.eraseDups).length = all)
    else !s.queued core slot
  if j.st = .running ∧ (j.kind = .mma ∨ j.kind = .mst ∨ j.kind = .mmag) ∧ full then s.finishJob core slot else s

end Sys2Proof.Machine
end

