-- ==== Sys2Proof/Machine/Graph.lean ====
section
/-! DEFINITION. The Beryl fabric: graph images, the two slots, the command queue, streams and chains, the
fabric's advance, its configuration protection, and the start and completion of every job (R339 to R366). -/

namespace Sys2Proof.Machine

/-! ### The fabric of a tile -/

/-- Whether a slot holds the pipeline: ACTIVE, DRAINING or FROZEN. -/
def GSlot.live (g : GSlot) : Bool := g.st == .active || g.st == .draining || g.st == .frozen

/-- Codes of the slot states in the status word (R357). -/
def SlotState.code : SlotState → Nat
  | .empty => 0
  | .loading => 1
  | .ready => 2
  | .active => 3
  | .draining => 4
  | .frozen => 5
  | .reloading => 6

/-- The status word of R357. -/
def Fabric.statusWord (f : Fabric) : Word :=
  BitVec.ofNat 64 (f.rcnt.toNat * 2 ^ 48 + f.scnt.toNat * 2 ^ 32 + f.rld.toNat * 2 ^ 24 +
    f.range.toNat * 2 ^ 23 + f.sigf.toNat * 2 ^ 22 + f.reason.toNat * 2 ^ 16 + f.front.toNat * 2 ^ 7 +
    f.b.st.code * 16 + f.a.st.code)

/-- The counts of GSTAT.CNT. -/
def Fabric.countWord (f : Fabric) : Word :=
  BitVec.ofNat 64 (f.taken.toNat * 2 ^ 32 + f.delivered.toNat)

/-! ### The binding (R353) -/

/-- Word 0 of the binding. -/
def Fabric.bindWord (f : Fabric) : Nat := (f.bind.getD 0 0).toNat
/-- IN of a binding word. -/
def bindIn (w : Nat) : Nat := w % 4
/-- OUT of a binding word. -/
def bindOut (w : Nat) : Nat := w / 4 % 4
/-- CHIN of a binding word. -/
def bindChin (w : Nat) : Bool := w / 16 % 2 == 1
/-- CNT of a binding word. -/
def bindCnt (w : Nat) : Bool := w / 32 % 2 == 1
/-- NEXT of a binding word. -/
def bindNext (w : Nat) : Nat := w / 2 ^ 24 % 1024
/-- Vectors per stream. -/
def Fabric.vectors (f : Fabric) : Nat := (f.bind.getD 3 0).toNat / 2 ^ 32

/-- Whether an input stream has entries left to move (R354). -/
def Fabric.inStream (f : Fabric) : Bool := bindIn f.bindWord == 2 && !f.inClosed
/-- Whether an output stream has entries left to move. -/
def Fabric.outStream (f : Fabric) : Bool := bindOut f.bindWord == 1 && decide (f.outNext < f.vectors)

/-! ### The graph image (R358 to R360) -/

/-- A field of `n` bytes of an image. -/
def imageField (bs : List Byte) (off n : Nat) : Nat := leNat ((bs.drop off).take n)

/-- A rectangle: first stage or channel, first row, counts. -/
structure Rect where
  c : Nat
  r : Nat
  nc : Nat
  nr : Nat
  reserved : Bool

/-- The fields of a rectangle. -/
def Rect.of (v : Nat) : Rect :=
  { c := v % 256, r := v / 2 ^ 8 % 64, nc := v / 2 ^ 14 % 256 + 1, nr := v / 2 ^ 22 % 64 + 1,
    reserved := v / 2 ^ 28 != 0 }

/-- The places of a rectangle. -/
def Rect.places (q : Rect) : List (Nat × Nat) :=
  (List.range q.nc).flatMap fun i => (List.range q.nr).map fun k => (q.c + i, q.r + k)

/-- Header values an image is read with. -/
structure ImageHead where
  inputs : Nat := 0
  outputs : Nat := 0
  depth : Nat := 0
  nconst : Nat := 0
  nodes : Nat := 0
  switches : Nat := 0

/-- Whether a switch word is allowed in a channel (R341, reason 6). -/
def switchOk (h : ImageHead) (c w : Nat) : Bool :=
  let row := w / 2 ^ 8 % 64
  match w / 2 ^ 14 with
  | 0 => w == 0
  | 1 => decide (1 ≤ c ∧ w % 16 = 0)
  | 2 => decide (1 ≤ c ∧ w % 256 = 0)
  | _ =>
    if w / 128 % 2 = 1 then decide (c = 0 ∧ row < h.inputs ∧ w % 128 = 0)
    else decide (row = 0 ∧ w / 16 % 8 = 0 ∧ w % 16 < h.nconst)

/-- Reserved bits of a node record's head. -/
def nodeReserved (head : Nat) : Bool := head / 2 ^ 33 % 2 ^ 15 != 0 || head % 2 ^ 14 != 0

/-- What the records of an image give: words by place, and the rejection reasons met. -/
structure Records where
  nodes : SMap (BitVec 48) := []
  switches : SMap (BitVec 16) := []
  reasons : List Nat := []

/-- One place of a record. -/
def Records.put (x : Records) (h : ImageHead) (node : Bool) (head : Nat) (p : Nat × Nat) : Records :=
  let (c, r) := p
  if node then
    let k := 64 * c + r
    if x.nodes.any fun e => e.1 == k then { x with reasons := 4 :: x.reasons }
    else { x with nodes := x.nodes ++ [(k, BitVec.ofNat 48 head)] }
  else
    let k := 1024 * c + 16 * r + head / 2 ^ 16 % 16
    let rs := if switchOk h c (head % 2 ^ 16) then x.reasons else 6 :: x.reasons
    if x.switches.any fun e => e.1 == k then { x with reasons := 5 :: rs }
    else { x with switches := x.switches ++ [(k, BitVec.ofNat 16 head)], reasons := rs }

/-- One rectangle of a record. -/
def Records.rect (x : Records) (h : ImageHead) (node : Bool) (head v : Nat) : Records :=
  let q := Rect.of v
  let x := if q.reserved then { x with reasons := 6 :: x.reasons } else x
  let last := if node then h.depth else h.depth + 1
  if last < q.c + q.nc ∨ 64 < q.r + q.nr then { x with reasons := (if node then 4 else 5) :: x.reasons }
  else q.places.foldl (fun x p => x.put h node head p) x

/-- Records read from position `pos` on: `n` of nodes, then of switches. Of a record that runs past the end, what lies
before the end is read. -/
def readRecords (h : ImageHead) (bs : List Byte) : Nat → Nat → Records → Records
  | 0, _, x => x
  | n + 1, pos, x =>
    if bs.length < pos + 8 then { x with reasons := 8 :: x.reasons }
    else
      let node := decide (h.switches < n + 1)
      let head := imageField bs pos 8
      let count := head / 2 ^ 48
      let size := 8 + (count + 1) / 2 * 8
      let x := if count = 0 then { x with reasons := (if node then 4 else 5) :: x.reasons } else x
      let bad := if node then nodeReserved head else head / 2 ^ 20 % 2 ^ 28 != 0
      let x := if bad then { x with reasons := 6 :: x.reasons } else x
      let x := (List.range (min count ((bs.length - (pos + 8)) / 4))).foldl (fun x i =>
        x.rect h node (head % 2 ^ 48) (imageField bs (pos + 8 + 4 * i) 4)) x
      if bs.length < pos + size then { x with reasons := 8 :: x.reasons } else readRecords h bs n (pos + size) x

/-- An image of `bs.length` bytes read: the configuration, or the first reason of R360 to reject it. -/
def parseImage (bs : List Byte) : Except Nat GSlot :=
  let w := fun i => imageField bs (8 * i) 8
  if w 0 ≠ 0x14C595242 ∨ w 3 ≠ bs.length ∨ (List.range 4).any (fun i => w (4 + i) != 0) then .error 1
  else
    let h : ImageHead :=
      { inputs := w 1 % 2 ^ 16, outputs := w 1 / 2 ^ 16 % 2 ^ 16, depth := w 1 / 2 ^ 32 % 2 ^ 16,
        nconst := w 1 / 2 ^ 48, nodes := w 2 % 2 ^ 32, switches := w 2 / 2 ^ 32 }
    if h.inputs = 0 ∨ 64 < h.inputs ∨ h.outputs = 0 ∨ 64 < h.outputs ∨ h.depth = 0 ∨ 128 < h.depth then .error 2
    else if 16 < h.nconst then .error 3
    else
      let outAt := 64 + (h.nconst + 1) / 2 * 8
      let recAt := outAt + 8 * h.outputs
      let outs := (List.range (min h.outputs ((bs.length - outAt) / 8))).map fun j => imageField bs (outAt + 8 * j) 8
      let x := if bs.length < recAt then { reasons := [8] } else readRecords h bs (h.nodes + h.switches) recAt {}
      let rs := if outs.any fun e => e / 2 ^ 12 % 2 ^ 20 != 0 then 7 :: x.reasons else x.reasons
      match rs.min? with
      | some r => .error r
      | none =>
        .ok
          { inputs := h.inputs, outputs := h.outputs, depth := h.depth, nodes := x.nodes,
            switches := x.switches, outs := outs.map (BitVec.ofNat 64),
            consts := (List.range h.nconst).map fun i => BitVec.ofNat 32 (imageField bs (64 + 4 * i) 4) }

/-! ### One vector (R340 to R342) -/

/-- A term of a node. -/
def nodeTerm (neg : Bool) (shift v : Nat) : Nat :=
  let x := rnsShift (rnsCanon v) shift
  if neg then rnsNeg x else x

/-- The output of a node from the values of its channel, listed by 16 r + k (R340). -/
def GSlot.node (g : GSlot) (prev : SMap Nat) (st r : Nat) : Nat :=
  let w := (g.nodes.get 0 (64 * st + r)).toNat
  if w / 2 ^ 32 % 2 = 0 then 0
  else
    rnsAdd (nodeTerm (w / 2 ^ 31 % 2 == 1) (w / 2 ^ 27 % 16) (prev.get 0 (16 * r + w / 2 ^ 23 % 16)))
      (nodeTerm (w / 2 ^ 22 % 2 == 1) (w / 2 ^ 18 % 16) (prev.get 0 (16 * r + w / 2 ^ 14 % 16)))

/-- The value of a track of channel `c` from its switch word (R341). -/
def GSlot.track (g : GSlot) (vec : List (BitVec 32)) (prev : SMap Nat) (c w : Nat) : Nat :=
  let row := w / 2 ^ 8 % 64
  match w / 2 ^ 14 with
  | 0 => 0
  | 1 => prev.get 0 (16 * row + w / 16 % 16)
  | 2 => g.node prev (c - 1) row
  | _ => if w / 128 % 2 = 1 then rnsCanon (vec.getD row 0).toNat else rnsCanon (g.consts.getD (w % 16) 0).toNat

/-- The tracks of a channel that are configured, with their values. -/
def GSlot.channel (g : GSlot) (vec : List (BitVec 32)) : Nat → SMap Nat
  | 0 => (g.switches.filter fun e => e.1 / 1024 == 0).map fun e => (e.1, g.track vec [] 0 e.2.toNat)
  | c + 1 =>
    let prev := GSlot.channel g vec c
    (g.switches.filter fun e => e.1 / 1024 == c + 1).map fun e => (e.1 % 1024, g.track vec prev (c + 1) e.2.toNat)

/-- The raw outputs for a vector. -/
def GSlot.outputsOf (g : GSlot) (vec : List (BitVec 32)) : List (BitVec 32) :=
  let v := g.channel vec g.depth
  g.outs.map fun e => BitVec.ofNat 32 (v.get 0 (16 * (e.toNat % 64) + e.toNat / 64 % 16))

/-! ### The output stage (R344 to R346, R354, R355) -/

/-- An output element in its format: 32 bits, a failed check, a saturation. -/
def exitElem (fmt v scale : Nat) : Nat × Bool × Bool :=
  match fmt with
  | 0 => let r := exitConvert v scale .f32; (r.code, r.poisoned, r.saturated)
  | 1 => let r := exitConvert v scale .bf16; (r.code, r.poisoned, r.saturated)
  | 2 => let r := exitConvert v scale .i8; (wrap 32 (sextNat 8 r.code), r.poisoned, r.saturated)
  | _ => (rnsCanon v, false, false)

/-- Whether the output stage can take an entry (R344). -/
def Fabric.canTake (f : Fabric) : Bool :=
  let w := f.bindWord
  (!bindChin w || !f.chain.isEmpty) &&
    match bindOut w with
    | 0 => decide (f.outFifo.length < 32)
    | 1 => f.outStream
    | _ => f.credits != 0

/-- A value saturating at `hi`. -/
def satAdd (hi a b : Nat) : Nat := min hi (a + b)

/-- The kernel's context of a tile. -/
def State.tileCtx (s : State) (t : Nat) : Nat := (s.holder t).getD 0

/-- An entry handed to the output stream of a tile (R345, R354). -/
def State.streamOut (s : State) (t : Nat) (e : BEntry) : State :=
  let f := s.fabric t
  let w := f.bindWord
  let pa := sliceAddr t ((ownOff t (f.bind.getD 2 0).toNat).getD 0 + 256 * f.outNext)
  let s := s.storeAt pa none (e.elems.map fun x => leBytes 4 x.toNat).flatten
  let us := ((List.range 64).filter fun j => e.marks.getLsbD j).map fun j => pa + j / 2 * 8
  let s := if us.isEmpty then s else s.poisonUnits us.eraseDups
  let s := s.modFabric t fun f => { f with outNext := f.outNext + 1 }
  if f.outNext + 1 = f.vectors ∧ bindCnt w then
    let c := s.tileCtx t
    let (q, s) := s.unitSeq t 5
    s.sendCount t [] { (({ rels := true, ctx := BitVec.ofNat 8 c } : Hdr).withSource t 0 0) with seq := q }
      (BitVec.ofNat 64 ((f.bind.getD 3 0).toNat % 2 ^ 25)) 1
  else s

/-- The raw values of an entry through the output stage: chain addition, exit conversion, delivery. -/
def State.outputEntry (s : State) (t : Nat) (g : GSlot) (raw : BEntry) : State :=
  let f := s.fabric t
  let w := f.bindWord
  let part := if bindChin w then f.chain.headD {} else {}
  let vals := raw.elems.mapIdx fun j v =>
    if bindChin w then rnsAdd v.toNat (part.elems.getD j 0).toNat else v.toNat
  let marks := raw.marks ||| part.marks
  let sent := bindOut w == 2
  let outs := vals.mapIdx fun j v =>
    let e := (g.outs.getD j 0).toNat
    if sent then (v, false, false) else exitElem (e / 2 ^ 10 % 4) v (e / 2 ^ 32)
  let bad := (List.range outs.length).filter fun j => (outs.getD j (0, false, false)).2.1
  let sat := (outs.filter fun o => o.2.2).length
  let elems := (List.range 64).map fun j => BitVec.ofNat 32 (outs.getD j (0, false, false)).1
  let e : BEntry := { elems := elems, marks := marks ||| BitVec.ofNat 64 (bad.map fun j => 2 ^ j).sum }
  let s := match bad with
    | [] => s
    | j :: _ =>
      if f.range then s
      else s.event (s.tileCtx t) .graphRange 0 t 0 (BitVec.ofNat 64 j) (f.delivered.setWidth 64)
  let s := if bindChin w then
      let s := s.modFabric t fun f => { f with chain := f.chain.drop 1 }
      match f.chainSender with
      | some x => (s.source (s.tileCtx t)).inject t x true (s.tileCtx t) [] .chainCredit
      | none => s
    else s
  let s := s.modFabric t fun f =>
    { f with rcnt := BitVec.ofNat 16 (satAdd 65535 f.rcnt.toNat bad.length), range := f.range || !bad.isEmpty,
             scnt := BitVec.ofNat 16 (satAdd 65535 f.scnt.toNat sat), delivered := f.delivered + 1 }
  match bindOut w with
  | 0 => s.modFabric t fun f => { f with outFifo := f.outFifo ++ [e] }
  | 1 => s.streamOut t e
  | _ =>
    ((s.modFabric t fun f => { f with credits := f.credits - 1 }).source (s.tileCtx t)).inject t (bindNext w) false
      (s.tileCtx t) [] (.chainEntry t e.elems e.marks)

/-! ### FABRIC_ADVANCE (R343) -/

/-- An input stream moves one entry (R354). Elements in a unit that holds an uncorrectable error are free values, and
POISON is recorded for the first such unit (R83; the record is the model's, assumption log 90). -/
def State.streamIn (s : State) (t : Nat) : State :=
  let f := s.fabric t
  if f.inStream ∧ f.inFifo.length < 32 ∧ s.released f.inAfter then
    let pa := sliceAddr t ((ownOff t (f.bind.getD 1 0).toNat).getD 0 + 256 * f.inNext)
    let s := s.correct (s.tileCtx t) pa 256
    let bad := (List.range 64).filter fun j => s.poisoned (pa + 4 * j) 4
    let fr := (s.freeBytes 256).2
    let e := (List.range 64).map fun j =>
      BitVec.ofNat 32 (leNat (if bad.contains j then (fr.drop (4 * j)).take 4 else s.readRaw (pa + 4 * j) 4))
    let s := match bad with
      | [] => s
      | j :: _ => (s.freeBytes 256).1.faultRecord (s.tileCtx t)
          { flags := { fabric := true }, cause := Cause.poison.code, tile := t,
            badva := f.bind.getD 1 0 + BitVec.ofNat 64 (256 * f.inNext + 4 * j / 8 * 8) }
    s.modFabric t fun f =>
      { f with inFifo := f.inFifo ++ [e], inNext := f.inNext + 1, inClosed := decide (f.inNext + 1 = f.vectors) }
  else s

/-- Whether the slot that holds the pipeline takes the head of the input FIFO. -/
def Fabric.takes (f : Fabric) : Bool :=
  !f.inFifo.isEmpty &&
    match f.frontSlot.st with
    | .active => true
    | .draining => f.drainLeft != 0
    | .empty => false
    | .loading => false
    | .ready => false
    | .frozen => false
    | .reloading => false

/-- Whether the fabric runs: a slot is ACTIVE or DRAINING. -/
def Fabric.runs (f : Fabric) : Bool := f.frontSlot.st == .active || f.frontSlot.st == .draining

/-- Every stage moved on by one. -/
def Fabric.shift (f : Fabric) : Fabric :=
  let stages := fun (x : Option (List (BitVec 32))) => x :: f.stages.dropLast
  if f.takes then
    { f with inFifo := f.inFifo.drop 1, stages := stages f.inFifo.head?, taken := f.taken + 1,
             activeTaken := f.activeTaken + 1, drainLeft := f.drainLeft - 1 }
  else { f with stages := stages none }

/-- FABRIC_ADVANCE: one clock of the fabric. -/
def State.fabricAdvance (s : State) (t : Nat) : State :=
  let s := if (s.tile t).vacated then s else s.streamIn t
  let f := s.fabric t
  let g := f.frontSlot
  if !f.runs || (s.tile t).vacated then s
  else
    match f.held with
    | h :: r =>
      if f.canTake then (s.modFabric t fun f => { f with held := r }).outputEntry t g h else s
    | [] =>
      match f.stages.getLast? with
      | some (some vec) =>
        if f.canTake then (s.modFabric t Fabric.shift).outputEntry t g { elems := g.outputsOf vec } else s
      | some none => s.modFabric t Fabric.shift
      | none => s

/-- FABRIC_ADVANCE. -/
def execFabricAdvance (t : Nat) (s : State) : Out := .next (s.fabricAdvance t)

/-! ### The command queue (R349) -/

/-- Entries of the graph command queue. -/
def graphDepth : Nat := 8

/-- The result of a command written. -/
def State.give (s : State) (a : Access) (v : Word) : State :=
  s.answer [{ a with status := .done (leBytes 8 v.toNat) }]

/-- The first command taken off. -/
def State.popCmd (s : State) (t : Nat) : State := s.modFabric t fun f => { f with cmds := f.cmds.drop 1 }

/-- A slot becomes ACTIVE with empty stages. -/
def Fabric.activate (f : Fabric) : Fabric :=
  { f.modFront fun g => { g with st := .active } with
    stages := List.replicate f.frontSlot.depth none, activeTaken := 0 }

/-- The front slot becomes DRAINING (R343). -/
def Fabric.drain (f : Fabric) : Fabric :=
  { f.modFront fun g => { g with st := .draining } with drainLeft := f.inFifo.length }

/-- The binding's IN closed (R356). -/
def Fabric.closed (f : Fabric) : Fabric :=
  { f with inClosed := true, bind := f.bind.mapIdx fun i w => if i = 0 then w &&& ~~~3#64 else w }

/-- The swap itself: the back slot becomes the front slot, ACTIVE. -/
def Fabric.swap (f : Fabric) : Fabric := { f with front := !f.front }.activate

/-- The binding replaced (R353). -/
def Fabric.rebind (f : Fabric) (r : List Word) (after : List Nat) (credits : Nat) : Fabric :=
  { f with bind := r, inClosed := bindIn (r.getD 0 0).toNat == 0, inAfter := after, inNext := 0, outNext := 0,
           credits := credits, chain := [], chainSender := none }

/-- What becomes of the head of a command queue: it waits, or it is performed with a result. -/
def State.runCmd (s : State) (t : Nat) (c : GCmd) : Option State :=
  let f := s.fabric t
  let fs := f.frontSlot
  let bs := f.backSlot
  match c with
  | .gload _ _ => none
  | .gswap a keep begun =>
    if begun ∨ bs.st = .loading ∨ bs.st = .reloading ∨ fs.st = .frozen ∨ fs.st = .reloading then none
    else if keep then
      if fs.st = .ready ∧ !bs.live then some (((s.modFabric t Fabric.activate).popCmd t).give a 1)
      else some ((s.popCmd t).give a 0)
    else if bs.st ≠ .ready then some ((s.popCmd t).give a 0)
    else if fs.st = .active then
      some (s.modFabric t fun f => { f.drain with cmds := .gswap a keep true :: f.cmds.drop 1 })
    else some (((s.modFabric t Fabric.swap).popCmd t).give a 1)
  | .gbind a r waiting =>
    let w := (r.getD 0 0).toNat
    if waiting then none
    else if fs.live || bs.live then some ((s.popCmd t).give a 0)
    else if bindOut w = 2 then
      let c := s.tileCtx t
      if s.inPlacement c (bindNext w) then
        some (((s.modFabric t fun f => { f with cmds := .gbind a r true :: f.cmds.drop 1 }).source c).inject t
          (bindNext w) false c [] (.chainBind t))
      else some ((s.popCmd t).give a 2)
    else some (((s.modFabric t fun f => f.rebind r a.after 0).popCmd t).give a 1)
  | .gdrain a begun =>
    if begun then none
    else if fs.st = .active then
      some (s.modFabric t fun f => { f.drain.closed with cmds := .gdrain a true :: f.cmds.drop 1 })
    else if fs.st = .frozen then
      let n := (f.stages.filter (·.isSome)).length + f.held.length
      some (((s.modFabric t fun f =>
        { f.modFront fun _ => {} with stages := [], held := [], drainLeft := 0 }).popCmd t).give a (BitVec.ofNat 64 (n + 2 ^ 63)))
    else some ((s.popCmd t).give a 0)

/-- Commands performed one after the other, as far as they do not wait. -/
def State.runCmds (s : State) (t : Nat) : Nat → State
  | 0 => s
  | fuel + 1 =>
    match (s.fabric t).cmds with
    | [] => s
    | c :: _ =>
      match s.runCmd t c with
      | none => s
      | some s => State.runCmds s t fuel

/-- The command queue of a tile goes on. -/
def State.graphRun (s : State) (t : Nat) : State :=
  if (s.tile t).vacated then s else s.runCmds t (2 * graphDepth)

/-- A command issued: its result is pending until it is performed. One performed at once whose result sp does not
take is the fault at its own address (R171, R172). -/
def State.graphCmd (s : State) (d : GReg) (mk : Access → GCmd) : Res :=
  if graphDepth ≤ (s.fabric s.myTile).cmds.length then .hold .injection
  else
    let id := s.nextId
    let a := { s.accessOf 0 8 .load (.mem 0 none) false (.g d 8 false) with
      id := id, grp := id, after := s.releaseSet s.cur }
    let s' := { s with nextId := id + 1 }.modFabric s.myTile fun f => { f with cmds := f.cmds ++ [mk a] }
    let s' : State := (s'.modMe fun st => { st with pend := st.pend ++ [{ id := id, g := some d, lc := st.lc }] }).graphRun s.myTile
    if (s'.strand s.cur).phase = .faulted then .ended s' else .go s'

/-- GSWAP (R352). -/
def execGswap (d : GReg) (s : State) : Out :=
  .next (s.issue (.gswap d) { g := [d] } (tileOnly (.gswap d) fun s => s.graphCmd d fun a => .gswap a false false))

/-- GSWAP.KEEP (R352). -/
def execGswapKeep (d : GReg) (s : State) : Out :=
  .next (s.issue (.gswapKeep d) { g := [d] } (tileOnly (.gswapKeep d) fun s =>
    s.graphCmd d fun a => .gswap a true false))

/-- GDRAIN (R356). -/
def execGdrain (d : GReg) (s : State) : Out :=
  .next (s.issue (.gdrain d) { g := [d] } (tileOnly (.gdrain d) fun s => s.graphCmd d fun a => .gdrain a false))

/-- The streams a binding run uses, with their base. -/
def bindStreams (r : List Word) : List Word :=
  let w := (r.getD 0 0).toNat
  (if bindIn w = 2 then [r.getD 1 0] else []) ++ (if bindOut w = 1 then [r.getD 2 0] else [])

/-- GBIND (R353). -/
def execGbind (d a : GReg) (s : State) : Out :=
  .next (s.issue (.gbind d a) { g := d.val :: run a.val 4 } (tileOnly (.gbind d a) fun s =>
    let r := readRun s.me a.val 4
    let w := (r.getD 0 0).toNat
    let n := (r.getD 3 0).toNat / 2 ^ 32
    let bases := bindStreams r
    if bindIn w = 3 ∨ bindOut w = 3 ∨ (bases ≠ [] ∧ (n = 0 ∨ 12288 < n)) then .trap .illegalCombination (r.getD 0 0)
    else
      match bases.find? fun b => b.toNat % 64 != 0 with
      | some b => .trap .misaligned b
      | none =>
        match bases.findSome? fun b => ownBounds s.myTile true b.toNat (256 * n) with
        | some (_, x) => .trap .scratchBounds (BitVec.ofNat 64 x)
        | none => s.graphCmd d fun acc => .gbind acc r false))

/-- GSTAT (R357). -/
def execGstat (d : GReg) (x c : Bool) (s : State) : Out :=
  .next (s.issue (.gstat d x c) { g := [d] } (tileOnly (.gstat d x c) fun s =>
    let f := s.fabric s.myTile
    -- bit 0 is CLR, bit 1 CNT
    let v := if x then f.countWord else f.statusWord
    let s' := if !c then s
      else s.modFabric s.myTile fun f =>
        { f with rcnt := 0, scnt := 0, rld := 0, range := false, sigf := false, reason := 0 }
    s.putGAnd s' d v))

/-! ### GLOAD (R351) -/

/-- The command of GLOAD. -/
def gloadCmd (r : List Word) : Cmd :=
  let a := r.getD 0 0
  let n := (r.getD 1 0).toNat % 2 ^ 32
  { kind := .gload, desc := r,
    limits := [((windowOf a.toNat).isSome || (aliasOf a.toNat).isSome, a),
      (decide (n < 64 ∨ 16777216 < n ∨ n % 8 ≠ 0), r.getD 1 0)],
    aligns := [(a, 64)], ranges := [(false, a.toNat, n)] }

/-- GLOAD (R351). -/
def execGload (d a b : GReg) (s : State) : Out :=
  .next (s.issue (.gload d a b) { g := d.val :: b.val :: run a.val 2 } (tileOnly (.gload d a b) fun s =>
    s.withComp (.gload d a b) b fun w w1 w2 =>
      s.command d w w1 w2 (gloadCmd (readRun s.me a.val 2))
        (fun s => decide ((s.fabric s.myTile).cmds.length < graphDepth))
        fun s' slot => s'.modFabric s.myTile fun f => { f with cmds := f.cmds ++ [.gload (s.myCore % 8) slot] }))

/-- Image length of a GLOAD job. -/
def Job.imageLen (j : Job) : Nat := (j.d 1).toNat % 2 ^ 32

/-- A GLOAD at the head of its queue takes its first piece: the back slot is LOADING. -/
def State.gloadStart (s : State) (core slot : Nat) : State :=
  let j := s.job core slot
  let t := core / 8
  let f := s.fabric t
  if j.st = .issued ∧ j.kind = .gload ∧ f.cmds.head? = some (.gload (core % 8) slot) ∧
      f.backSlot.st ≠ .reloading ∧ !(s.tile t).vacated ∧ s.released j.after ∧ s.inOrder t t core slot then
    let a := (j.d 0).toNat
    let ps := numberPieces (cuts a a j.imageLen)
    let s := (s.modFabric t fun f => f.modBack fun _ => { st := .loading }).modJob core slot fun j =>
      { j with st := .running, pieces := ps }
    (ps.foldl (fun s p => s.formPiece core slot p) s).settleJob core slot
  else s

/-- The bytes of an image piece by piece; what cannot be read is noted as the job's error. -/
def State.readImage (s : State) (core slot : Nat) : List Piece → State × List Byte
  | [] => (s, [])
  | p :: r =>
    let j := s.job core slot
    let (s, bs) :=
      match s.engX j.ctx core p.src.toNat p.len needR with
      | .absent => (s.modJob core slot fun j => j.note p.idx .pageAbsent p.src.toNat s.time, [])
      | .fail c a => (s.modJob core slot fun j => j.note p.idx c a s.time, [])
      | .ok t =>
        let (s, x) := s.engineRead j.ctx t p.len
        match x.cause, x.bad with
        | some c, _ => (s.modJob core slot fun j => j.note p.idx c p.src.toNat s.time, [])
        | none, i :: _ => (s.modJob core slot fun j => j.note p.idx .poison (p.src.toNat + i) s.time, [])
        | none, [] => (s, x.bytes)
    let (s, rest) := State.readImage s core slot r
    (s, bs ++ rest)

/-- Whether a piece of an image can be read, or never will be. -/
def PieceState.settled (st : PieceState) : Bool := st == .ready || st.ended

/-- Regions written again: each counts in RLD and writes CONFIG_UNCORRECTABLE (R363, R364). -/
def State.rewritten (s : State) (t : Nat) (regions : List Nat) (bySig : Bool) (foundAt : BitVec 32) : State :=
  let c := s.tileCtx t
  regions.foldl (fun s _ =>
    let f := s.fabric t
    let s := s.modFabric t fun f => { f with rld := BitVec.ofNat 8 (satAdd 255 f.rld.toNat 1) }
    if bySig then s.event c .configUncorrectable 2 t 0 (f.cleanAt.setWidth 64) (foundAt.setWidth 64)
    else s.event c .configUncorrectable 1 t 0 0 0) s

/-- The end of a GLOAD: the image is read, checked and written to the back slot. -/
def State.gloadComplete (s : State) (core slot : Nat) : State :=
  let j := s.job core slot
  let t := core / 8
  if j.st = .running ∧ j.kind = .gload ∧ !(s.tile t).vacated ∧ j.pieces.all fun p => p.st.settled then
    let src := j.pieces.filter fun p => p.st == .ready
    match s.holdSource core slot src with
    | some s => s
    | none =>
    let (s, bs) := s.readImage core slot src
    let damaged := (s.fabric t).backSlot.damaged
    let s :=
      if (s.job core slot).err.isSome then
        s.modFabric t fun f => { f.modBack fun _ => {} with reason := 0 }
      else
        match parseImage bs with
        | .error r =>
          let (s, a) := s.freeAddr
          (s.modFabric t fun f => { f.modBack fun _ => {} with reason := BitVec.ofNat 4 r }).modJob core slot fun j =>
            j.note 0 .graphCapacity a s.time
        | .ok g =>
          (s.modFabric t fun f => f.modBack fun _ =>
            { g with st := .ready, addr := j.d 0, len := j.imageLen, ctx := j.ctx }).rewritten t damaged false 0
    ((s.finishJob core slot).popCmd t).graphRun t
  else s

/-! ### JOB_START and JOB_COMPLETE of every kind -/

/-- JOB_START (R295). -/
def execJobStart (core slot : Nat) (s : State) : Out :=
  .next (if (s.job core slot).kind = .gload then s.gloadStart core slot else s.jobStart core slot)

/-- JOB_COMPLETE (R295). -/
def execJobComplete (core slot : Nat) (s : State) : Out :=
  let j := s.job core slot
  .next (if j.kind.moves then s.jobComplete core slot
    else if j.kind = .gload then s.gloadComplete core slot
    else s.matrixComplete core slot)

/-! ### GRAPH_DRAIN_DONE (R352, R356) -/

/-- Whether the last vector of a draining slot has left. -/
def Fabric.drained (f : Fabric) : Bool :=
  f.frontSlot.st == .draining && f.drainLeft == 0 && f.stages.all (·.isNone) && f.held.isEmpty

/-- GRAPH_DRAIN_DONE: the slot becomes READY, and the command that waited for it is performed. -/
def State.drainDone (s : State) (t : Nat) : State :=
  let f := s.fabric t
  if !f.drained || (s.tile t).vacated then s
  else
    let s := s.modFabric t fun f => f.modFront fun g => { g with st := .ready }
    (match f.cmds with
      | .gswap a _ true :: _ => ((s.modFabric t Fabric.swap).popCmd t).give a 1
      | .gdrain a true :: _ => (s.popCmd t).give a (BitVec.ofNat 64 f.activeTaken)
      | _ => s).graphRun t

/-- GRAPH_DRAIN_DONE. -/
def execGraphDrainDone (t : Nat) (s : State) : Out := .next (s.drainDone t)

/-! ### Chains (R355) -/

/-- Chain entries that a passing stage holds (R355). -/
def chainDepth : Nat := 32

/-- Free entries of a passing stage: the credits that a binding grants (R355). -/
def Fabric.chainRoom (f : Fabric) : Nat := chainDepth - f.chain.length

/-- The chain sender of a tile: the one accepted last, while its own binding sends to this tile (R355). -/
def State.chainFrom (s : State) (t : Nat) : Option Nat :=
  (s.fabric t).chainSender.filter fun x =>
    let w := (s.fabric x).bindWord
    bindOut w == 2 && bindNext w == t || (s.fabric x).cmds.any fun c => match c with
      | .gbind _ r true => bindNext (r.getD 0 0).toNat == t
      | .gbind _ _ false => false
      | .gload _ _ => false
      | .gswap _ _ _ => false
      | .gdrain _ _ => false

/-- CHAIN_BIND_REQUEST: the receiver answers whether the chain can be formed. -/
def execChainBindRequest (k : Nat) (s : State) : Out :=
  .next (s.deliverPacket k fun s p => match p.body with
    | .chainBind sender =>
      let f := s.fabric p.dst
      let ok := bindChin f.bindWord && ((s.chainFrom p.dst).isNone || s.chainFrom p.dst == some sender)
      let s := if ok then s.modFabric p.dst fun f => { f with chainSender := some sender } else s
      (s.source p.ctx).inject p.dst sender true p.ctx [] (.chainAnswer ok f.chainRoom)
    | _ => s)

/-- CHAIN_BIND_ANSWER: the waiting GBIND gets its result, and the sender the credits granted. -/
def execChainBindAnswer (k : Nat) (s : State) : Out :=
  .next (s.deliverPacket k fun s p => match p.body with
    | .chainAnswer ok n =>
      let f := s.fabric p.dst
      match f.cmds with
      | .gbind a r true :: _ =>
        let s := s.popCmd p.dst
        (if ok then (s.modFabric p.dst fun f => f.rebind r a.after n).give a 1
          else s.give a 2).graphRun p.dst
      | _ => s
    | _ => s)

/-- CHAIN_ENTRY: a partial reaches the receiver's passing stage. -/
def execChainEntry (k : Nat) (s : State) : Out :=
  .next (s.deliverPacket k fun s p => match p.body with
    | .chainEntry sender elems marks =>
      s.modFabric p.dst fun f =>
        if f.chainSender = some sender then { f with chain := f.chain ++ [{ elems := elems, marks := marks }] } else f
    | _ => s)

/-- CHAIN_CREDIT: a credit returns to the sender of a chain. -/
def execChainCredit (k : Nat) (s : State) : Out :=
  .next (s.deliverPacket k fun s p => match p.body with
    | .chainCredit => s.modFabric p.dst fun f => { f with credits := f.credits + 1 }
    | _ => s)

/-! ### Configuration protection (R363, R364) -/

/-- A double-bit error, or a signature mismatch found when `n` entries had been delivered, in a region of a slot. -/
def GSlot.damage (g : GSlot) (region : Nat) (bySig : Bool) (n : BitVec 32) : GSlot :=
  let hit := { g with damaged := if g.damaged.contains region then g.damaged else g.damaged ++ [region],
                      bySignature := g.bySignature || bySig, foundAt := if bySig then n else g.foundAt }
  match g.st with
  | .empty => g
  | .loading => hit
  | .ready => { hit with st := .reloading }
  | .active => { hit with st := .frozen, wasDraining := false }
  | .draining => { hit with st := .frozen, wasDraining := true }
  | .frozen => hit
  | .reloading => hit

/-- CONFIG_ERROR: an error in a configuration word, corrected when it is a single bit. -/
def execConfigError (t slot region : Nat) (double : Bool) (s : State) : Out :=
  .next (if 768 ≤ t ∨ 1 < slot ∨ 7 < region then s
    else if double then s.modFabric t fun f => f.modSlot (slot == 1) fun g => g.damage region false 0
    else if ((s.fabric t).slot (slot == 1)).st = .empty then s
    else
      let (s, a) := s.freeAddr
      s.event (s.tileCtx t) .softCorrected 0 t 0 (BitVec.ofNat 64 a) 0)

/-- The words of a region: its nodes, and the channels before them (the last channel with region 7). -/
def GSlot.region (g : GSlot) (k : Nat) : SMap (BitVec 48) × SMap (BitVec 16) :=
  (g.nodes.filter fun e => e.1 / 64 / 16 == k, g.switches.filter fun e => min 7 (e.1 / 1024 / 16) == k)

/-- The bytes of a recorded image, none if a read meets an error (R311, R363). -/
def State.imageBytes (s : State) (t : Nat) (g : GSlot) : State × Option (List Byte) :=
  (cuts g.addr.toNat g.addr.toNat g.len).foldl (fun acc x =>
    match acc with
    | (s, none) => (s, none)
    | (s, some bs) =>
      match s.engX g.ctx (8 * t) x.1 x.2.2 needR with
      | .absent => (s, none)
      | .fail _ _ => (s, none)
      | .ok u =>
        let (s, r) := s.engineRead g.ctx u x.2.2
        (s, if r.cause.isNone && r.bad.isEmpty then some (bs ++ r.bytes) else none)) (s, some [])

/-- The first address of a recorded image whose page is absent. -/
def State.imageGap (s : State) (t : Nat) (g : GSlot) : Option Nat :=
  ((cuts g.addr.toNat g.addr.toNat g.len).find? fun x => s.engX g.ctx (8 * t) x.1 x.2.2 needR == .absent).map (·.1)

/-- Whether the bytes of an image give every damaged region the words it was loaded with. -/
def GSlot.signed (g : GSlot) (bs : List Byte) : Bool :=
  match parseImage bs with
  | .error _ => false
  | .ok x => g.damaged.all fun k => x.region k == g.region k

/-- A reload of a slot's damaged regions that succeeds (R347, R363). -/
def State.reloadGood (s : State) (t : Nat) (b : Bool) : State :=
  let g := (s.fabric t).slot b
  let st : SlotState := if g.st = .reloading then .ready else if g.wasDraining then .draining else .active
  ((s.rewritten t g.damaged g.bySignature g.foundAt).modFabric t fun f => f.modSlot b fun g =>
    { g with st := st, damaged := [], bySignature := false, wasDraining := false }).graphRun t

/-- A reload that fails (R347, R363). -/
def State.reloadBad (s : State) (t : Nat) (b : Bool) : State :=
  let s := s.modFabric t fun f => f.modSlot b fun g =>
    if g.st = .reloading then {} else { g with lost := true, absent := false }
  (s.faultRecord (s.tileCtx t) { flags := { fabric := true }, cause := Cause.configUncorrectable.code, tile := t }).graphRun t

/-- GRAPH_RELOAD_COMPLETE: the reload of a slot's damaged regions succeeds or fails; an absent page of the image is asked
for first (R309, R311, R363). -/
def State.reloadComplete (s : State) (t slot : Nat) : State :=
  let b := slot == 1
  let g := (s.fabric t).slot b
  if 768 ≤ t ∨ 1 < slot ∨ g.lost ∨ g.tag.isSome ∨ (g.st ≠ .frozen ∧ g.st ≠ .reloading) then s
  else if g.absent then s.reloadBad t b
  else
    match s.imageGap t g with
    | some va =>
      let (s, tag) := s.request (.reload t slot) g.ctx t va false none
      s.modFabric t fun f => f.modSlot b fun g => { g with tag := some tag }
    | none =>
      match s.imageBytes t g with
      | (s, some bs) => if g.signed bs then s.reloadGood t b else s.reloadBad t b
      | (s, none) => s.reloadBad t b

/-- GRAPH_RELOAD_COMPLETE. -/
def execGraphReloadComplete (t slot : Nat) (s : State) : Out := .next (s.reloadComplete t slot)

/-- SIGNATURE_PASS: the background pass ends; `bad` lists the regions whose signature does not match, 0..7
of slot A and 8..15 of slot B. -/
def execSignaturePass (t : Nat) (bad : List Nat) (s : State) : Out :=
  let bad := bad.filter fun k => decide (k < 16) && ((s.fabric t).slot (decide (8 ≤ k))).st != .empty
  .next (if 768 ≤ t then s
    else if bad.isEmpty then s.modFabric t fun f => { f with cleanAt := f.delivered }
    else s.modFabric t fun f =>
      bad.foldl (fun f k => f.modSlot (decide (8 ≤ k)) fun g => g.damage (k % 8) true f.delivered) { f with sigf := true })

end Sys2Proof.Machine
end

