-- ==== Sys2Proof/Machine/HostQueue.lean ====
section
/-! DEFINITION. The host command queues: doorbells, ENABLE, and the packets NOP, COPY, SIGNAL and COND
(R23, R260 to R265). LAUNCH is in Kernel.lean. -/

namespace Sys2Proof.Machine

/-! ### Registers (R260, R265) -/

/-- Packets of a queue's ring. -/
def HostQ.size (k : HostQ) : Nat := 2 ^ k.szlog2.toNat
/-- The index HEAD names. -/
def HostQ.at_ (k : HostQ) : Nat := k.head.toNat % k.size
/-- Packets from HEAD to TAIL. -/
def HostQ.avail (k : HostQ) : Nat := (k.tail.toNat % k.size + k.size - k.at_) % k.size

/-- Codes of queue states. -/
def QueueState.code : QueueState → Nat
  | .idle => 0 | .running => 1 | .waiting => 2 | .stopped => 3 | .error => 4

/-- QSTAT. -/
def HostQ.qstat (k : HostQ) : Word :=
  BitVec.ofNat 64 (k.erridx.toNat * 65536 + k.errcode.toNat * 256 + k.st.code)
/-- QCFG. -/
def HostQ.qcfg (k : HostQ) : Word :=
  BitVec.ofNat 64 (k.ctx.toNat * 2 ^ 40 + k.szlog2.toNat * 2 ^ 32 + k.vec.toNat * 65536 + k.loc.toNat * 2 +
    k.enable.toNat)

/-- Whether register windows answer: not while the firmware boots or has stopped at RECOVERY (R460, R464). -/
def State.windows (s : State) : Bool :=
  match s.mgmt.st with
  | .ready => true
  | .fatal => true
  | .booting => false
  | .updating => false
  | .recovery => false

/-- An MSI-X message sent (R450). -/
def State.interrupt (s : State) (v : BitVec 16) : State := { s with msix := s.msix ++ [v] }

/-- The state of a queue that runs (R265); a LAUNCH that waits for its rectangle and a COND that tests itself again
wait on. -/
def HostQ.settled (k : HostQ) : HostQ :=
  match k.st with
  | .idle => { k with st := if k.avail = 0 then .idle else .running }
  | .running => { k with st := if k.avail = 0 ∧ k.started = [] then .idle else .running }
  | .waiting =>
    if k.pending.isSome || k.condAt.isSome then k
    else { k with st := if k.avail = 0 ∧ k.started = [] then .idle else .running }
  | .stopped => k
  | .error => k

/-- The fields of QCFG that a write changes: VEC always, the others only while ENABLE = 0. -/
def HostQ.writeCfg (k : HostQ) (v : Word) : HostQ :=
  let k := { k with vec := BitVec.ofNat 16 (v.toNat / 65536) }
  if k.enable then k
  else { k with ctx := BitVec.ofNat 8 (v.toNat / 2 ^ 40), szlog2 := BitVec.ofNat 4 (v.toNat / 2 ^ 32),
                loc := v.toNat / 2 % 2 == 1 }

/-- DOORBELL: a host write of TAIL (R260, R263). -/
def State.doorbell (s : State) (q : Nat) (v : Word) : State :=
  if !s.windows || decide (64 ≤ q) then s
  else s.modQueue q fun k =>
    let k := { k with tail := BitVec.ofNat 16 v.toNat }
    if k.st = .idle then k.settled else k

/-- DOORBELL. -/
def execDoorbell (q : Nat) (v : Word) (s : State) : Out := .next (s.doorbell q v)

/-- QUEUE_ENABLE: a write of QCFG with ENABLE = 1 (R265). -/
def State.queueEnable (s : State) (q : Nat) (v : Word) : State :=
  if !s.windows || decide (64 ≤ q) || v.toNat % 2 == 0 then s
  else s.modQueue q fun k =>
    let was := k.enable
    let k := k.writeCfg v
    if was then k
    else { k with enable := true, erridx := 0, errcode := 0, st := if k.avail = 0 then .idle else .running }

/-- QUEUE_ENABLE. -/
def execQueueEnable (q : Nat) (v : Word) (s : State) : Out := .next (s.queueEnable q v)

/-- A LAUNCH that waits for its rectangle withdrawn: its kernel record is FREE again. -/
def State.withdraw (s : State) (q : Nat) : State :=
  match (s.queue q).pending with
  | none => s
  | some _ =>
    let c := (s.queue q).ctx.toNat
    (s.modCtx c fun k => if k.kst = .placing then { k with kst := .free, stop := false } else k).modQueue q fun k =>
      { k with pending := none }

/-- QUEUE_DISABLE: a write of QCFG with ENABLE = 0; packets that have started go on (R265). -/
def State.queueDisable (s : State) (q : Nat) (v : Word) : State :=
  if !s.windows || decide (64 ≤ q) || v.toNat % 2 == 1 then s
  else (s.withdraw q).modQueue q fun k => { k.writeCfg v with enable := false, st := .stopped }

/-- QUEUE_DISABLE. -/
def execQueueDisable (q : Nat) (v : Word) (s : State) : Out := .next (s.queueDisable q v)

/-! ### Agate's accesses (R57, R428) -/

/-- The target of an address for Agate: translated memory, or a slice of the context's placement. The
own-tile alias names no tile of Agate's. -/
def State.agateX (s : State) (c va n : Nat) (need : Need) : Option Target :=
  if (aliasOf va).isSome || (s.boundsCheck c va n).isSome then none
  else
    match s.resolve c 0 va need with
    | .ok t => some t
    | .poisoned _ => none
    | .absent => none
    | .denied => none
    | .revoked => none

/-- Bytes read by Agate; none if they cannot be read. -/
def State.agateRead (s : State) (c va n : Nat) : State × Option (List Byte) :=
  match s.agateX c va n needR with
  | none => (s, none)
  | some t =>
    let (s, r) := s.engineRead c t n
    (s, if r.cause.isSome || !r.bad.isEmpty then none else some r.bytes)

/-- Bytes written by Agate; none if they cannot be written. -/
def State.agateWrite (s : State) (c va : Nat) (bs : List Byte) : Option State :=
  match s.agateX c va bs.length needW with
  | none => none
  | some t =>
    match s.engineWrite t bs [] with
    | (s, none, _) => some s
    | (_, some _, _) => none

/-! ### Packets (R261, R263, R264) -/

/-- A packet's failure (R264): HEAD names it, and so does ERRIDX. A queue that has been stopped stays STOPPED. -/
def State.queueError (s : State) (q idx code : Nat) : State :=
  let s := s.modQueue q fun k =>
    { k with erridx := BitVec.ofNat 16 idx, errcode := BitVec.ofNat 8 code,
             head := if k.st = .stopped then k.head else BitVec.ofNat 16 idx,
             st := if k.st = .stopped then .stopped else .error }
  s.interrupt (s.queue q).vec

/-- A word of a packet. -/
def pw (ws : List Word) (i : Nat) : Nat := (ws.getD i 0).toNat

/-- The eight words of the packet at HEAD; none if the ring address cannot be read. A ring of
LOC = 1 may lie in a slice of the context's placement (R57). -/
def State.headPacket (s : State) (q : Nat) : Option (List Word) :=
  let k := s.queue q
  let a := k.qbase.toNat / 4096 * 4096 + 64 * k.at_
  let bs :=
    if !k.loc then some (s.readRaw (hostAddr a) 64)
    else (s.agateRead k.ctx.toNat a 64).2
  bs.map fun bs => (List.range 8).map fun i => BitVec.ofNat 64 (fieldAt bs (8 * i) 8)

/-- The words of a packet that may be nonzero, as masks of w1 to w7 (R261, R262). -/
def packetMasks : Nat → List Nat
  | 1 => [2 ^ 64 - 1, 0x1F1F01, 3]
  | 2 => [2 ^ 64 - 1, 2 ^ 64 - 1, 2 ^ 64 - 1]
  | 3 => [2 ^ 64 - 1, 2 ^ 64 - 1, 3]
  | 4 => [2 ^ 64 - 1, 2 ^ 64 - 1, 0xFFFF0037]
  | _ => []

/-- A reserved OPC, or a nonzero reserved bit (R264 code 1). -/
def packetReserved (ws : List Word) : Bool :=
  let m := packetMasks (pw ws 0 % 256)
  decide (4 < pw ws 0 % 256) || pw ws 0 / 256 % 2 == 1 || pw ws 0 / 2 ^ 11 % 2 ^ 21 != 0 ||
    (List.range 7).any fun i => (ws.getD (i + 1) 0 &&& ~~~(BitVec.ofNat 64 (m.getD i 0))) != 0

/-- Whether a packet starts only after every earlier one of its queue has completed (R263). -/
def packetFenced (ws : List Word) : Bool :=
  let o := pw ws 0 % 256
  pw ws 0 / 512 % 2 == 1 || o == 3 || o == 4

/-- The packet at HEAD considered for its start: it waits, fails, or `body` performs it. Nothing happens
unless the queue runs and the packet has OPC `opc`. -/
def State.startPacket (s : State) (q opc : Nat) (body : State → List Word → State) : State :=
  let k := s.queue q
  if decide (64 ≤ q) || !s.windows || s.mgmt.updating || !k.enable ||
      !(k.st == .running || k.st == .waiting) || k.avail == 0 || k.pending.isSome then s
  else
    match s.headPacket q with
    | none => s.queueError q k.at_ 3
    | some ws =>
      if pw ws 0 % 256 ≠ opc ∧ pw ws 0 % 256 ≤ 4 then s
      else if packetFenced ws ∧ k.started ≠ [] then s.modQueue q fun k => { k with st := .waiting }
      else if packetReserved ws then s.queueError q k.at_ 1
      else body s ws

/-- HEAD moved past the packet. -/
def HostQ.pass (k : HostQ) : HostQ := { k with head := BitVec.ofNat 16 ((k.at_ + 1) % k.size), condAt := none }

/-- The VEC of a completed packet sent if it asks for it. -/
def State.packetDone (s : State) (q : Nat) (ws : List Word) : State :=
  if pw ws 0 / 1024 % 2 = 1 then s.interrupt (s.queue q).vec else s

/-- A packet performed whole at its start. -/
def State.passPacket (s : State) (q : Nat) (ws : List Word) : State :=
  (s.modQueue q fun k => k.pass.settled).packetDone q ws

/-- A packet that has started. -/
def State.runPacket (s : State) (q : Nat) (r : PktRun) : State :=
  s.modQueue q fun k => ({ k.pass with started := k.started ++ [r] } : HostQ).settled

/-- NOP completes at once. -/
def execNop (q : Nat) (s : State) : Out := .next (s.startPacket q 0 fun s ws => s.passPacket q ws)

/-! ### COPY (R261) -/

/-- COPY starts: its length and its ranges are checked, and its pieces are formed. -/
def execCopy (q : Nat) (s : State) : Out :=
  .next (s.startPacket q 2 fun s ws =>
    let n := pw ws 3
    if n = 0 ∨ 2 ^ 32 < n ∨ sharesByte (pw ws 1) n (pw ws 2) n then s.queueError q (s.queue q).at_ 1
    else
      s.runPacket q { idx := (s.queue q).at_, words := ws, pieces := numberPieces (cuts (pw ws 1) (pw ws 2) n) })

/-- One piece of a COPY performed; none if it meets a translation fault. -/
def State.copyPiece (s : State) (q : Nat) (p : Piece) : State × Bool :=
  let c := (s.queue q).ctx.toNat
  match s.agateX c p.dst.toNat p.len needW, s.agateRead c p.src.toNat p.len with
  | some _, (s, some bs) =>
    match s.agateWrite c p.dst.toNat bs with
    | some s => (s, true)
    | none => (s, false)
  | _, (s, _) => (s, false)

/-- PACKET_COMPLETE of the packet at place `k` of those that have started: the work that is left of it is
performed, one piece of a COPY at a time in a free order, and with nothing left it is complete. -/
def State.packetComplete (s : State) (q k : Nat) : State :=
  match (s.queue q).started[k]? with
  | none => s
  | some r =>
    let drop := fun (s : State) => s.modQueue q fun x => ({ x with started := x.started.eraseIdx k } : HostQ).settled
    if r.pieces.isEmpty then
      if r.done then (drop s).packetDone q r.words else s
    else
      let i := Config.freeChoice s.nextId % r.pieces.length
      let (s, ok) := { s with nextId := s.nextId + 1 }.copyPiece q (r.pieces.getD i {})
      if !ok then (drop s).queueError q r.idx 3
      else
        let ps := r.pieces.eraseIdx i
        if ps.isEmpty then (drop s).packetDone q r.words
        else s.modQueue q fun x => { x with started := x.started.set k { r with pieces := ps } }

/-- PACKET_COMPLETE. -/
def execPacketComplete (q k : Nat) (s : State) : Out := .next (s.packetComplete q k)

/-! ### SIGNAL (R261, R263) -/

/-- SIGNAL: an 8 B write or add. -/
def execSignal (q : Nat) (s : State) : Out :=
  .next (s.startPacket q 3 fun s ws =>
    let i := (s.queue q).at_
    let c := (s.queue q).ctx.toNat
    let a := pw ws 1
    if 1 < pw ws 3 % 4 then s.queueError q i 1
    else if a % 8 ≠ 0 then s.queueError q i 2
    else
      let (s', old) := if pw ws 3 % 4 = 1 then s.agateRead c a 8 else (s, some (leBytes 8 0))
      match old with
      | none => s.queueError q i 3
      | some bs =>
        match s'.agateWrite c a (leBytes 8 (leNat bs + pw ws 2)) with
        | some s => s.passPacket q ws
        | none => s.queueError q i 3)

/-! ### COND (R262) -/

/-- COND performed: its test is made, and HEAD is moved. -/
def State.cond (s : State) (q : Nat) (ws : List Word) : State :=
  let k := s.queue q
  let w := pw ws 3
  let n := w / 65536
  let act := w / 16 % 4
  if 5 < w % 8 then s.queueError q k.at_ 1
  else if pw ws 1 % 8 ≠ 0 then s.queueError q k.at_ 2
  else
    match s.agateRead k.ctx.toNat (pw ws 1) 8 with
    | (s, none) => s.queueError q k.at_ 3
    | (s, some bs) =>
      let size := k.size
      let next : Except Nat Nat :=
        if !armCond (w % 8) (BitVec.ofNat 64 (leNat bs)) (ws.getD 2 0) then .ok (k.at_ + 1)
        else if act = 0 then (if k.avail < n + 1 then .error 6 else .ok (k.at_ + 1 + n))
        else if act = 1 then .ok (k.at_ + size - n % size)
        else if act = 2 then .ok n
        else .error 1
      match next with
      | .error e => s.queueError q k.at_ e
      | .ok h =>
        if h % size = k.at_ then s.modQueue q fun k => { k with st := .waiting, condAt := some s.time }
        else (s.modQueue q fun k =>
          ({ k with head := BitVec.ofNat 16 (h % size), condAt := none } : HostQ).settled).packetDone q ws

/-- COND. -/
def execCond (q : Nat) (s : State) : Out :=
  .next (if (s.queue q).condAt.isSome then s else s.startPacket q 4 fun s ws => s.cond q ws)

/-- Clocks before a COND that tests itself again reads its word. -/
def condWait : Nat := 256

/-- COND_RETEST: the word is read again once the wait has passed. -/
def execCondRetest (q : Nat) (s : State) : Out :=
  .next (match (s.queue q).condAt with
    | none => s
    | some t =>
      if (s.time - t).toNat < condWait then s
      else s.startPacket q 4 fun s ws => s.cond q ws)

end Sys2Proof.Machine
end

