-- ==== Sys2Proof/Machine/Kernel.lean ====
section
/-! DEFINITION. The kernel: its image and the checks of LAUNCH, placement, loading, quiescence, STOP and
retirement (R261, R279, R382 to R395). -/

namespace Sys2Proof.Machine

/-! ### Reading an image (R382 to R384) -/

/-- The first address of each granule that `n` bytes from `va` touch, with the bytes of it they cover. -/
def granules (va n : Nat) : List (Nat × Nat) :=
  if n = 0 then []
  else (List.range ((va + n - 1) / 65536 - va / 65536 + 1)).map fun i =>
    let a := max va ((va / 65536 + i) * 65536)
    (a, min (va + n) ((va / 65536 + i + 1) * 65536) - a)

/-- Whether every page of a range of translated memory has a translation with the given permission. -/
def State.mapped (s : State) (c va n : Nat) (need : Need) : Bool :=
  n == 0 || (decide (va + n ≤ 0x700000000000) &&
    (granules va n).all fun g => match s.xlate c g.1 need with
      | .ok _ => true
      | .absent => false
      | .denied => false
      | .revoked => false
      | .poisoned _ => false)

/-- Whether a range of translated memory can be read. -/
def State.readable (s : State) (c va n : Nat) : Bool :=
  s.mapped c va n needR &&
    (granules va n).all fun g => match s.xlate c g.1 needR with
      | .ok (.mem pa _) => !s.poisoned pa g.2
      | _ => true

/-- A section of an image. -/
structure Sec where
  kind : Nat := 0
  count : Nat := 0
  off : Nat := 0
  len : Nat := 0
  deriving DecidableEq, Repr

/-- What LAUNCH and LOADING take from an image. -/
structure KImage where
  w : Nat := 1
  h : Nat := 1
  stksz : Nat := 1
  handlers : List (Nat × Word) := []
  counters : List (List Word) := []
  graphs : List (List Word) := []
  inits : List (List Word) := []
  loops : List Nat := []
  levels : List Nat := []
  scratch : Sec := {}
  deriving DecidableEq, Repr

/-- Bytes of a record of a section, 0 for the sections that hold bytes. -/
def recordSize : Nat → Nat
  | 4 => 16 | 5 => 48 | 6 => 16 | 7 => 48 | 8 => 8 | 9 => 4 | _ => 0

/-- The section that a directory entry names. -/
def Sec.ofWords (w0 w1 : Nat) : Sec :=
  { kind := w0 % 256, count := w0 / 2 ^ 32, off := w1 % 2 ^ 32, len := w1 / 2 ^ 32 }

/-- Whether a section breaks reason 3, given those before it and the image's length. -/
def Sec.bad (x : Sec) (before : List Sec) (total : Nat) : Bool :=
  x.kind == 0 || decide (9 < x.kind) || (before.any fun y => y.kind == x.kind) || decide (total < x.off + x.len) ||
    (decide (x.kind ≤ 2) && x.off % 65536 != 0) ||
    (decide (4 ≤ x.kind) && x.len != x.count * recordSize x.kind) || (x.kind == 9 && x.count != 4)

/-- `n` bytes of an image from offset `off`. -/
def State.imageRead (s : State) (c base off n : Nat) : Option (List Byte) :=
  if s.readable c (base + off) n then s.vaReadAll c (n / 64 + 2) (base + off) n else none

/-- The records of a section as words of 64 bits (level words as one word each). -/
def State.records (s : State) (c base kind : Nat) (secs : List Sec) : List (List Word) :=
  match secs.find? fun x => x.kind == kind with
  | none => []
  | some x =>
    let bs := (s.imageRead c base x.off x.len).getD []
    let n := recordSize kind
    (List.range x.count).map fun i => (List.range ((n + 7) / 8)).map fun k =>
      BitVec.ofNat 64 (fieldAt bs (n * i + 8 * k) (min n 8))

/-- The section of a kind, an empty one when it is absent. -/
def secOf (secs : List Sec) (kind : Nat) : Sec := (secs.find? fun x => x.kind == kind).getD {}

/-- A bit of a record outside the fields it has: reserved bits (R383). -/
def recordReserved (kind : Nat) (r : List Word) : Bool :=
  match kind with
  | 4 => pw r 0 / 4096 != 0 || pw r 1 / 2 ^ 59 % 4 != 0 || pw r 1 / 2 ^ 32 % 16 != 0
  | 5 => pw r 0 / 2 ^ 20 % 2 ^ 12 != 0 || pw r 0 / 2 ^ 33 != 0 || pw r 1 / 2 ^ 32 != 0
  | 6 => (r.getD 1 0 &&& ~~~0x1F1F1F1F01#64) != 0
  | 7 => pw r 5 != 0
  | 8 => (r.getD 0 0 &&& ~~~0xFFFF0FFF#64) != 0
  | 9 => (r.getD 0 0 &&& 0xFE00FE00#64) != 0
  | _ => false

/-- Whether a handler index occurs among the records before. -/
def repeated {α : Type} [DecidableEq α] : List α → Bool
  | [] => false
  | x :: r => r.contains x || repeated r

/-- The VALID entry word of an index. -/
def validEntry (hs : List (Nat × Word)) (i : Nat) : Option Nat :=
  match hs.find? fun e => e.1 == i with
  | some e => if entryValid e.2.toNat then some e.2.toNat else none
  | none => none

/-- Level words: the four of the image, or the defaults of R243. -/
def levelWords (l : List (List Word)) : List Nat :=
  if l.isEmpty then List.replicate 4 0x400010 else l.map fun r => pw r 0

/-- Whether level words break R243. -/
def levelsBad (l : List Nat) : Bool :=
  decide (256 < (l.map fun w => w / 65536 % 512).sum) ||
    l.any fun w => decide (w / 65536 % 512 = 0 ∨ 256 < w / 65536 % 512 ∨ w % 512 = 0 ∨
      w / 65536 % 512 < w % 512)

/-- The rectangle of a GRAPHS record: x, y, w, h. -/
def graphRect (r : List Word) : Nat × Nat × Nat × Nat :=
  let v := pw r 1
  (v / 2 ^ 8 % 32, v / 2 ^ 16 % 32, v / 2 ^ 24 % 32 + 1, v / 2 ^ 32 % 32 + 1)

/-- Whether a GRAPHS record is preloaded. -/
def graphPreload (r : List Word) : Bool := pw r 1 % 2 == 1

/-- The configuration a preloaded graph image gives; none if it cannot be read or is rejected. -/
def State.preloadImage (s : State) (c base : Nat) (r : List Word) : Option GSlot :=
  let off := pw r 0 % 2 ^ 32
  let len := pw r 0 / 2 ^ 32
  match s.imageRead c base off len with
  | none => none
  | some bs => match parseImage bs with
    | .ok g => some { g with st := .ready, addr := BitVec.ofNat 64 (base + off), len := len, ctx := c }
    | .error _ => none

/-- The entry word of an index, VALID or not. -/
def anyEntry (hs : List (Nat × Word)) (i : Nat) : Option Nat :=
  (hs.find? fun e => e.1 == i).map fun e => e.2.toNat

/-- The reasons of R384 from 4 on that the sections of an image give. -/
def KImage.reasons (k : KImage) (text : Sec) (preloads : Bool) : List Nat :=
  let z := k.stksz * 4096
  (if repeated (k.handlers.map (·.1)) || k.handlers.any fun e =>
      decide (0xFF0 ≤ e.1 ∧ e.1 ≤ 0xFFD) ||
      !decide (text.off ≤ e.2.toNat % 2 ^ 32 ∧ e.2.toNat % 2 ^ 32 < text.off + text.len) ||
      e.2.toNat % 4 != 0 || decide (z < e.2.toNat / 2 ^ 48 % 2048 * 64)
    then [4] else []) ++
  (if repeated (k.counters.map fun r => pw r 0 % 256) || k.counters.any fun r =>
      (validEntry k.handlers (pw r 0 / 256 % 4096)).isNone then [5] else []) ++
  (if k.inits.any fun r =>
      decide (k.w ≤ pw r 0 % 32 ∨ k.h ≤ pw r 0 / 32 % 32) ||
      (match anyEntry k.handlers (pw r 0 / 2 ^ 17 % 4096) with
        | some e => !entryAdmits e (pw r 0 / 2 ^ 11 % 8)
        | none => true) then [6] else []) ++
  (if levelsBad k.levels then [7] else []) ++
  (if 0x2D0000 - 32 * z < k.scratch.len then [8] else []) ++
  (if !preloads || k.graphs.any fun r => graphPreload r &&
      (let (x, y, w, h) := graphRect r
       decide (k.w < x + w ∨ k.h < y + h)) then [9] else []) ++
  (if repeated (k.loops.map (· % 16)) || k.loops.any fun v =>
      decide (v / 16 % 16 < 2 ∨ v / 256 % 16 < v / 16 % 16 + 3) then [10] else [])

/-- An image read and checked under R384: what it holds, or the first reason to reject it. -/
def State.parseKernel (s : State) (c : Nat) (va : Word) : Except Nat KImage :=
  let base := va.toNat
  if base % 65536 ≠ 0 then .error 1
  else
    match s.imageRead c base 0 64 with
    | none => .error 1
    | some hd =>
      let w := fun i => fieldAt hd (8 * i) 8
      let total := w 1 / 2 ^ 32
      let nsec := w 1 / 65536 % 65536
      if w 0 ≠ 0x14B4C4F4C ∨ w 1 / 32 % 8 ≠ 0 ∨ w 1 / 2 ^ 13 % 8 ≠ 0 ∨ w 2 / 256 ≠ 0 ∨
          ((List.range 5).any fun i => w (3 + i) != 0) ∨ !s.mapped c base total needR then .error 1
      else
        match s.imageRead c base 64 (16 * min nsec 9) with
        | none => .error 1
        | some dir =>
          let ent := (List.range (min nsec 9)).map fun i => (fieldAt dir (16 * i) 8, fieldAt dir (16 * i + 8) 8)
          let all := ent.map fun e => Sec.ofWords e.1 e.2
          let secs := (all.zipIdx.filter fun x => !x.1.bad (all.take x.2) total).map (·.1)
          let recs := fun kind => s.records c base kind secs
          let k : KImage :=
            { w := w 1 % 32 + 1, h := w 1 / 256 % 32 + 1, stksz := w 2 % 256,
              handlers := (recs 4).map fun r => (pw r 0 % 4096, r.getD 1 0), counters := recs 5,
              graphs := recs 6, inits := recs 7, loops := (recs 8).map fun r => pw r 0,
              levels := levelWords (recs 9), scratch := secOf secs 3 }
          let one := (ent.any fun e => e.1 / 256 % 2 ^ 24 != 0) ||
            (all.any fun x => !s.readable c (base + x.off) x.len) ||
            [4, 5, 6, 7, 8, 9].any fun kind => (recs kind).any fun r => recordReserved kind r
          let rs := (if one then [1] else []) ++
            (if 24 < k.h ∨ nsec = 0 ∨ 9 < nsec ∨ k.stksz = 0 ∨ 16 < k.stksz then [2] else []) ++
            (if secs.length ≠ all.length then [3] else []) ++
            k.reasons (secOf secs 1) ((k.graphs.filter graphPreload).all fun r =>
              (s.preloadImage c base r).isSome)
          match rs.min? with
          | some r => .error r
          | none => .ok k

/-- Corrected soft errors corrected in what the load of an image reads: its header and directory, its sections but the
code and the stacks, and the preloaded graphs (R83, R384). -/
def State.imageCorrect (s : State) (c base : Nat) (i : KImage) : State :=
  let nsec := min 9 (fieldAt ((s.imageRead c base 0 64).getD []) 10 2)
  let dir := (s.imageRead c base 64 (16 * nsec)).getD []
  let secs := (List.range nsec).map fun n => Sec.ofWords (fieldAt dir (16 * n) 8) (fieldAt dir (16 * n + 8) 8)
  let reads := (0, 64 + 16 * nsec) :: ((secs.filter fun x => decide (3 ≤ x.kind)).map fun x => (x.off, x.len)) ++
    (i.graphs.filter graphPreload).map fun r => (pw r 0 % 2 ^ 32, pw r 0 / 2 ^ 32)
  reads.foldl (fun s x => s.vaCorrect c (x.2 / 65536 + 2) (base + x.1) x.2) s

/-! ### LAUNCH and placement (R261, R388) -/

/-- The tiles of a kernel record's rectangle with its origin at `(x0, y0)`, row by row. -/
def Ctx.tilesAt (k : Ctx) (x0 y0 : Nat) : List Nat :=
  (List.range (k.h1.toNat + 1)).flatMap fun j => (List.range (k.w1k.toNat + 1)).map fun i =>
    (y0 + j) % 24 * 32 + (x0 + i) % 32

/-- The tiles of a kernel record. -/
def Ctx.tiles (k : Ctx) : List Nat := k.tilesAt k.x0.toNat k.y0.toNat

/-- The origins a LAUNCH may take: the fixed one, or all in order. -/
def launchOrigins (ws : List Word) : List (Nat × Nat) :=
  if pw ws 2 % 2 = 1 then [(pw ws 2 / 256 % 32, pw ws 2 / 65536 % 32)]
  else (List.range 24).flatMap fun y => (List.range 32).map fun x => (x, y)

/-- The origins of a LAUNCH whose tiles are all sound. -/
def State.soundOrigins (s : State) (c : Nat) (ws : List Word) : List (Nat × Nat) :=
  (launchOrigins ws).filter fun o => ((s.ctx c).tilesAt o.1 o.2).all fun t => !s.fuses.contains t

/-- The first origin of a LAUNCH whose tiles no kernel holds. -/
def State.freeOrigin (s : State) (c : Nat) (ws : List Word) : Option (Nat × Nat) :=
  (s.soundOrigins c ws).find? fun o => ((s.ctx c).tilesAt o.1 o.2).all fun t => (s.holder t).isNone

/-- Whether the waiting LAUNCH of a queue would be placed, or considered again, if it were tried now. -/
def State.launchDue (s : State) (q : Nat) : Bool :=
  let k := s.queue q
  if k.st ≠ .waiting then false
  else
    match k.pending with
    | some p => (s.freeOrigin k.ctx.toNat p.words).isSome
    | none => match s.headPacket q with
      | some ws => pw ws 0 % 256 == 1 && !(packetFenced ws && !k.started.isEmpty) &&
          (s.ctx k.ctx.toNat).kst == .free
      | none => false

/-- LAUNCH: the context and the image are checked, and the kernel is PLACING. While the context's kernel
record is not FREE the packet waits, and of several that wait the lowest queue number goes first. -/
def State.launch (s : State) (q : Nat) (ws : List Word) : State :=
  let k := s.queue q
  let c := k.ctx.toNat
  let x := s.ctx c
  if pw ws 2 % 2 = 1 ∧ 24 ≤ pw ws 2 / 65536 % 32 then s.queueError q k.at_ 1
  else if x.st = .free ∨ x.st = .destroying then s.queueError q k.at_ 7
  else if x.kst ≠ .free ∨ (List.range q).any fun q' => (s.queue q').ctx.toNat == c && s.launchDue q' then
    s.modQueue q fun k => { k with st := .waiting }
  else
    match s.parseKernel c (ws.getD 1 0) with
    | .error r => (s.modCtx c fun x => { x with reason := BitVec.ofNat 8 r }).queueError q k.at_ 5
    | .ok i =>
      (s.modCtx c fun x =>
        { x with kst := .placing, w1k := BitVec.ofNat 5 (i.w - 1), h1 := BitVec.ofNat 5 (i.h - 1),
                 stksz := i.stksz, imageBase := ws.getD 1 0, launchQ := q, launchIdx := k.at_,
                 qui := false, wave := none }).modQueue q fun k =>
        { k with st := .waiting, pending := some { idx := k.at_, words := ws } }

/-- LAUNCH. -/
def execLaunch (q : Nat) (s : State) : Out := .next (s.startPacket q 1 fun s ws => s.launch q ws)

/-- PLACEMENT of the kernel of context `c`: its origin is chosen and its tiles are held, or the LAUNCH fails.
Waiting LAUNCHes take their turn in increasing queue number. -/
def State.place (s : State) (c : Nat) : State :=
  let k := s.ctx c
  let q := k.launchQ
  match (s.queue q).pending with
  | none => s
  | some p =>
    if k.kst ≠ .placing ∨ (s.queue q).ctx.toNat ≠ c ∨ (List.range q).any s.launchDue then s
    else
      let fail := ((s.modCtx c fun k => { k with kst := .free, stop := false }).modQueue q fun x =>
        { x with pending := none }).queueError q p.idx 4
      if (s.soundOrigins c p.words).isEmpty then fail
      else
        match s.freeOrigin c p.words with
        | none => if pw p.words 3 / 2 % 2 = 1 then fail else s
        | some (x0, y0) =>
          ((s.modCtx c fun k =>
            { k with kst := .loading, x0 := BitVec.ofNat 5 x0, y0 := BitVec.ofNat 5 y0,
                     st := if k.st = .created then .active else k.st }).modQueue q fun x =>
            { x with pending := none }).runPacket q p

/-- PLACEMENT. -/
def execPlacement (c : Nat) (s : State) : Out := .next (s.place c)

/-! ### Loading (R389, R390) -/

/-- The state with the slices of some tiles zeroed: errors in them are cleared too (R163). -/
def State.zeroSlices (s : State) (ts : List Nat) : State :=
  let inside := fun pa => match sliceOf pa with
    | some (t, _) => ts.contains t
    | none => false
  { s with mem := s.mem.filter fun e => !inside e.1, poison := s.poison.filter fun u => !inside u,
           soft := s.soft.filter fun u => !inside u }

/-- The counter that a COUNTERS record arms on tile `t`. -/
def declaredCounter (t : Nat) (hs : List (Nat × Word)) (r : List Word) : Nat × Counter :=
  let h := pw r 0 / 256 % 4096
  let e := (validEntry hs h).getD 0
  let core := ((List.range 8).find? fun c => entryAdmits e c).getD 0
  let dest := tileX t + tileY t * 32 + core * 2 ^ 11 + h * 2 ^ 17
  (pw r 0 % 256,
    ({} : Counter).init ([BitVec.ofNat 64 (pw r 1 % 2 ^ 32 + pw r 0 / 2 ^ 32 % 2 * 2 ^ 32),
      BitVec.ofNat 64 dest] ++ (r.drop 2)) false)

/-- A loop slot of a loaded tile: UNBOUND, with its declared values (R370). -/
def declaredLoop (loops : List Nat) (k : Nat) : Loop :=
  match loops.find? fun v => v % 16 == k with
  | some v => { declKp := v / 16 % 16, declKi := v / 256 % 16, declSet := v / 65536 % 65536 }
  | none => { declKp := 2, declKi := 5 }

/-- The graph preloaded at the tile `(i, j)` of the placement, if one is; the later record counts. -/
def preloadAt (gs : List (List Word × GSlot)) (i j : Nat) : GSlot :=
  ((gs.reverse.find? fun g =>
    let (x, y, w, h) := graphRect g.1
    decide (x ≤ i ∧ i < x + w ∧ y ≤ j ∧ j < y + h)).map (·.2)).getD {}

/-- A tile as LOADING leaves it (R389 steps 2 and 4 to 7). What its router keeps for its groups stays. -/
def Tile.loaded (x : Tile) (t : Nat) (k : KImage) (a : GSlot) : Tile :=
  { groups := x.groups, rounds := x.rounds, seqs := x.seqs, fenced := x.fenced, ringRead := x.ringRead,
    loopServed := x.loopServed, loopNext := x.loopNext,
    handlers := k.handlers.map fun e => (e.1, entryWord e.2),
    counters := k.counters.map fun r => declaredCounter t k.handlers r,
    loops := (List.range 16).map fun i => (i, declaredLoop k.loops i),
    loopsSeen := (List.range 16).map fun i => (i, declaredLoop k.loops i),
    fabric := { a := a, front := true } }

/-- A core as LOADING leaves it: level words, empty levels and queue registers. A core that a freeze has reached
stays frozen, its levels with it (R401). -/
def Core.loaded (c : Core) (words : List Nat) : Core :=
  { ptr := c.ptr, jobs := c.jobs, jwatches := c.jwatches, sfq := c.sfq, divUntil := c.divUntil,
    frozen := c.frozen, freezeTime := c.freezeTime, record := c.record, recordVa := c.recordVa,
    levels := (List.range 4).map fun l =>
      (l, { ({} : Level).ofWord (words.getD l 0) with st := if c.frozen then .frozen else .empty }) }

/-- Bits of a core's reply slots. -/
def replyBits (l : SMap ReplySlot) (f : ReplySlot → Bool) : Nat :=
  ((List.range 64).map fun i => if f (l.get {} i) then 2 ^ i else 0).sum

/-- The core state of a core record, from byte 8,192 on (R407). -/
def Core.recordBytes (c : Core) : List Byte :=
  ((List.range 64).flatMap fun i =>
    let r := c.replies.get {} i
    if r.filled then r.entry.bytes else List.replicate 64 0) ++
  ((List.range 4).flatMap fun l => leBytes 4 (c.levels.get {} l).word) ++
  leBytes 8 (replyBits c.replies (·.reserved)) ++ leBytes 8 (replyBits c.replies (·.filled)) ++
  leBytes 8 c.lastPromoted.toNat ++ leBytes 8 c.freezeTime.toNat ++
  ((List.range 64).map fun i => BitVec.ofNat 8 ((c.replyOrder[i]?).getD 255)) ++ List.replicate 3984 0

/-- The core state of a frozen core written to its record (R401, R407). -/
def State.writeRecord (s : State) (core : Nat) : State :=
  if !(s.core core).frozen then s
  else
    match s.coreSave core 8192 with
    | some t => s.writeTarget t 0 (s.core core).recordBytes
    | none => s

/-- The level words of a frozen core's record made to agree with its levels (R243, R403). -/
def State.recordLevels (s : State) (core : Nat) : State :=
  if !(s.core core).frozen then s
  else
    match s.coreSave core 12288 with
    | some t => s.writeTarget t 0 ((List.range 4).flatMap fun l => leBytes 4 (s.level core l).word)
    | none => s

/-- R389 on one tile, `(i, j)` of the placement. -/
def State.loadTile (s : State) (t i j : Nat) (k : KImage) (scratch : List Byte)
    (gs : List (List Word × GSlot)) : State :=
  let s := s.writeRaw (sliceAddr t 0) scratch
  let s := s.modTile t fun x => x.loaded t k (preloadAt gs i j)
  (List.range 8).foldl (fun s c => (s.modCore (8 * t + c) fun x => x.loaded k.levels).writeRecord (8 * t + c)) s

/-- R395 on one tile. -/
def State.clearTile (s : State) (t : Nat) : State :=
  let s := s.modTile t fun x =>
    let x := (List.range 16).foldl (fun x k => x.unbindLoop k) x
    { x with handlers := [], sets := [], counters := [], watches := [], conts := [], vacated := false, replays := [],
             fabric := { x.fabric with a := {}, b := {}, bind := [], inClosed := true, inFifo := [], outFifo := [],
                                       stages := [], held := [], drainLeft := 0, chain := [], chainSender := none, inFresh := 0,
                                       outFresh := 0 } }
  (List.range 8).foldl (fun s c => s.modCore (8 * t + c) fun x =>
    { x with inq := [], inqFresh := 0, frozen := false, record := none }) s

/-- KBASE of a context. -/
def Ctx.kbase (k : Ctx) : Nat := k.keyslot.toNat % 2048
/-- KCOUNT of a context. -/
def Ctx.kcount (k : Ctx) : Nat := k.keyslot.toNat / 65536 % 128

/-- Zeros written to the key slots of a context (R400, R405). -/
def State.zeroKeys (s : State) (c : Nat) : State :=
  let k := s.ctx c
  { s with keys := s.keys.filter fun e => !decide (k.kbase ≤ e.1 ∧ e.1 < k.kbase + k.kcount) }

/-- The kernel of context `c` releases its tiles and its record becomes FREE; the context becomes CREATED, or
FREE with its keys zeroised (R395, R398, R400, R405). -/
def State.releaseKernel (s : State) (c : Nat) : State :=
  let s := (s.ctx c).tiles.foldl (fun s t => s.clearTile t) s
  let s := if (s.ctx c).st = .destroying then s.zeroKeys c else s
  s.modCtx c fun k =>
    { k with kst := .free, stop := false, qui := false, wave := none,
             st := if k.st = .destroying then .free else .created }

/-- The packet of context `c`'s LAUNCH changed or taken off, where it is still among those started. -/
def State.modLaunch (s : State) (c : Nat) (f : PktRun → Option PktRun) : State :=
  let k := s.ctx c
  s.modQueue k.launchQ fun q =>
    { q with started := q.started.filterMap fun r =>
        if r.idx = k.launchIdx ∧ pw r.words 0 % 256 = 1 then f r else some r }

/-- The words of context `c`'s LAUNCH. -/
def State.launchWords (s : State) (c : Nat) : List Word :=
  let k := s.ctx c
  (((s.queue k.launchQ).started.find? fun r => r.idx == k.launchIdx && pw r.words 0 % 256 == 1).map
    (·.words)).getD []

/-- The port tile through which Agate instance `i` injects (R390). -/
def agateTile (west : Bool) : Nat := if west then 128 else 159

/-- The continuations of the strands of context `c`: the unit that holds each, and its entry. -/
def State.contsOf (s : State) (c : Nat) : List (Nat × Nat × Cont) :=
  (s.tiles.flatMap fun t => (t.2.conts.filter fun e => e.2.ctx == c).map fun e => (t.1, e)) ++
    s.spinels.flatMap fun k => (k.2.conts.filter fun e => e.2.ctx == c).map fun e => (768 + k.1, e)

/-- A continuation discarded without posting: it leaves its barrier's list (R279). An entry of a tile that is no longer
reachable from its barrier stays until the kernel that owns the tile retires (R267). -/
def State.dropCont (s : State) (u i : Nat) (x : Cont) : State :=
  let o := BarObj.ofBytes (s.readPlain x.obj x.key 32)
  let l := s.chain u x.obj o
  if l.contains i then
    let keep := l.filter (· != i)
    (s.setPool u (relink ((s.pool u).filter fun e => e.1 != i) keep)).storeAt x.obj x.key
      { o with head := keep.headD 65535, nwait := (o.nwait + 65535) % 65536 : BarObj }.bytes
  else if u < 768 then s
  else s.setPool u ((s.pool u).filter fun e => e.1 != i)

/-- The watches on the tiles of a kernel and the continuations of its strands discarded (R394). -/
def State.discardWaits (s : State) (c : Nat) : State :=
  let s := (s.ctx c).tiles.foldl (fun s t => s.modTile t fun x => { x with watches := [] }) s
  (s.contsOf c).foldl (fun s e => s.dropCont e.1 e.2.1 e.2.2) s

/-- Entry to DRAINING. What is satisfied in the clock of the entry still posts, so the watches and continuations are
discarded at the clock's end (R394). -/
def State.drainKernel (s : State) (c : Nat) : State :=
  s.modCtx c fun k => { k with kst := .draining, drainAt := s.time }

/-- The watches and continuations of the kernels that entered DRAINING in this clock discarded (R394). -/
def State.drained (s : State) : State :=
  (s.ctxs.filter fun e => e.2.kst == .draining && e.2.drainAt == s.time).foldl (fun s e => s.discardWaits e.1) s

/-- An initial message (R390). -/
def State.initMsg (s : State) (c : Nat) (west : Bool) (r : List Word) : State :=
  let (x0, y0) := s.offsetOf c
  let t := agateTile west
  let h : Hdr := { posted := true, ctx := BitVec.ofNat 8 c }
  s.post t 0 [] { hdr := (h.withDest (r.getD 0 0) x0 y0).withSource t 0 0, args := (r.drop 1).take 4 }

/-- A read of LOADING has failed: ERRCODE 5, and the tiles are released (R384). -/
def State.loadFailed (s : State) (c reason : Nat) : State :=
  let q := (s.ctx c).launchQ
  let i := (s.ctx c).launchIdx
  let s := s.modLaunch c fun _ => none
  ((s.modCtx c fun k => { k with reason := BitVec.ofNat 8 reason }).releaseKernel c).queueError q i 5

/-- KERNEL_LOADED: the tiles are loaded, the kernel is RUNNING and its initial messages are injected. -/
def State.kernelLoaded (s : State) (c : Nat) : State :=
  let k := s.ctx c
  if k.kst ≠ .loading then s
  else
    match s.parseKernel c k.imageBase with
    | .error r => s.loadFailed c (if r = 9 then 9 else 1)
    | .ok i =>
      let base := k.imageBase.toNat
      let scratch := (s.imageRead c base i.scratch.off i.scratch.len).getD []
      let gs := (i.graphs.filter graphPreload).filterMap fun r => (s.preloadImage c base r).map fun g => (r, g)
      let s := (s.imageCorrect c base i).zeroSlices k.tiles
      let s := k.tiles.foldl (fun s t =>
        s.loadTile t ((tileX t + 32 - k.x0.toNat) % 32) ((tileY t + 24 - k.y0.toNat) % 24) i scratch gs) s
      let s := s.modCtx c fun k => { k with kst := .running, stksz := i.stksz }
      let s := i.inits.foldl (fun s r => s.initMsg c (decide (k.launchQ < 32)) r) s
      let s := if pw (s.launchWords c) 3 % 2 = 1 then s else s.modLaunch c fun r => some { r with done := true }
      if k.stop then s.drainKernel c else s

/-- KERNEL_LOADED. -/
def execKernelLoaded (c : Nat) (s : State) : Out := .next (s.kernelLoaded c)

/-! ### Quiescence, STOP and retirement (R393 to R395) -/

/-- How many things of the kernel of context `c` have not been sunk (R393). -/
def State.unsunk (s : State) (c : Nat) : Nat :=
  let mine := fun (n : Nat) => n == c
  let core := fun (x : Core) =>
    (x.levels.map fun l => (l.2.ring.filter fun e => mine e.2).length +
      (l.2.entries.filter fun e => e.landed && mine e.msg.hdr.ctx.toNat).length).sum +
    (x.replies.filter fun r => r.2.reserved && mine r.2.ctx).length +
    (x.jobs.filter fun j => j.2.st != .free && mine j.2.ctx).length +
    (x.jwatches.filter fun w => mine w.ctx).length
  let tile := fun (t : Nat) (x : Tile) =>
    if s.holder t = some c then
      x.queue.length + x.supplies.length + x.fabric.cmds.length + x.fabric.inStream.toNat + x.fabric.outStream.toNat
    else 0
  (s.net.filter fun p => mine p.ctx).length + (s.acc.filter fun a => mine a.ctx).length +
  (s.cores.map fun e => core e.2).sum + (s.tiles.map fun e => tile e.1 e.2).sum +
  ((s.contsOf c).filter fun e => e.2.2.deadline != 0 && s.contWaits e.1 e.2.1 e.2.2).length +
  (s.mcasts.filter fun m => mine m.ctx).length +
  (s.strands.filter fun e => !isGateway e.1 && e.2.phase != .idle && s.holder (tileOf e.1) == some c).length

/-- Whether nothing keeps a quiescent RUNNING kernel from retiring: no armed watch on its tiles and no
continuation of its strands (R394). -/
def State.noWaits (s : State) (c : Nat) : Bool :=
  ((s.ctx c).tiles.all fun t => (s.tile t).watches.isEmpty) &&
    (s.contsOf c).all fun e => !s.contWaits e.1 e.2.1 e.2.2

/-- QUIESCENCE_WAVE: one wave; the second of two sets QUI, and with QUI = 1 the kernel may be RETIRING. -/
def State.quiescenceWave (s : State) (c : Nat) : State :=
  let k := s.ctx c
  if !k.delivers then s
  else
    let n := s.unsunk c
    match k.wave with
    | none => s.modCtx c fun k => { k with wave := some (k.src, n) }
    | some w =>
      let qui := decide (w = (k.src, n) ∧ n = 0)
      let retire := qui && (k.kst == .draining || s.noWaits c)
      s.modCtx c fun k =>
        { k with qui := qui, wave := none, kst := if retire then .retiring else k.kst }

/-- RETIREMENT_COMPLETE: the tiles are cleared and released, and a LAUNCH with RETIRE = 1 completes. -/
def State.retirementComplete (s : State) (c : Nat) : State :=
  if (s.ctx c).kst ≠ .retiring then s
  else
    ((s.discardWaits c).modLaunch c fun r =>
      some (if pw r.words 3 % 2 = 1 then { r with done := true } else r)).releaseKernel c

/-- RETIREMENT_COMPLETE. -/
def execRetirementComplete (c : Nat) (s : State) : Out := .next (s.retirementComplete c)

/-- STOP written to a kernel record (R387, R394). -/
def State.kernelStop (s : State) (c : Nat) : State :=
  if (s.ctx c).kst = .free then s
  else
    let s := s.modCtx c fun k => { k with stop := true }
    if (s.ctx c).kst = .running then s.drainKernel c else s

/-- KERNEL_STOP. -/
def execKernelStop (c : Nat) (s : State) : Out :=
  .next (if s.windows && decide (c < 256) then s.kernelStop c else s)

end Sys2Proof.Machine
end

