-- ==== Sys2Proof/Machine/Context.lean ====
section
/-! DEFINITION. The context: its descriptor, its commands, keys, pre-emption of cores, saved tiles and
destruction (R396 to R408, R336 to R338, R365, R366, R375, R420). -/

namespace Sys2Proof.Machine

/-! ### The descriptor (R396, R397) -/

/-- Codes of context states. -/
def CtxState.code : CtxState → Nat
  | .free => 0 | .created => 1 | .active => 2 | .suspended => 3 | .vacated => 4 | .destroying => 5

/-- Codes of kernel states (R387). -/
def KernelState.code : KernelState → Nat
  | .free => 0 | .placing => 1 | .loading => 2 | .running => 3 | .draining => 4 | .retiring => 5

/-- A count register: the count, with the losses above it (R409). -/
def countWord (lost n : BitVec 32) : Word := BitVec.ofNat 64 (lost.toNat * 2 ^ 32 + n.toNat)

/-- Word `i` of a descriptor. -/
def Ctx.word (k : Ctx) (i : Nat) : Word :=
  match i with
  | 0 => BitVec.ofNat 64 (k.vec.toNat * 2 ^ 48 + k.err.toNat * 2 ^ 32 + k.busy.toNat * 2 ^ 24 + k.flt.toNat * 8 +
      k.st.code)
  | 1 => k.w1
  | 2 => k.ptroot
  | 3 => k.keyslot
  | 4 => k.savebase
  | 5 => k.spbase
  | 6 => k.frbase
  | 7 => countWord 0 k.frhead
  | 8 => countWord k.frlost k.frtail
  | 9 => k.udbase
  | 10 => countWord 0 k.udhead
  | 11 => countWord k.udlost k.udtail
  | 12 => k.evbase
  | 13 => countWord 0 k.evhead
  | 14 => countWord k.evlost k.evtail
  | _ => BitVec.ofNat 64 (k.fcore.toNat * 2 ^ 32 + k.agelim.toNat)

/-- Word 0 of a kernel record (R387). -/
def Ctx.kernelWord (k : Ctx) : Word :=
  BitVec.ofNat 64 (k.h1.toNat * 2 ^ 35 + k.w1k.toNat * 2 ^ 30 + k.y0.toNat * 2 ^ 25 + k.x0.toNat * 2 ^ 20 +
    k.reason.toNat * 256 + k.stop.toNat * 32 + k.qui.toNat * 16 + k.kst.code)

/-- A write of a HEAD: ignored if it would move HEAD backwards or past TAIL (R409). -/
def headWrite (head tail : BitVec 32) (v : Word) : BitVec 32 :=
  let h : BitVec 32 := BitVec.ofNat 32 v.toNat
  if (h - head).toNat ≤ (tail - head).toNat then h else head

/-- The descriptor with it noted whether the base written to word `i` is unaligned: the low bits themselves are
reserved and read 0 (R4, R399). -/
def Ctx.skewed (k : Ctx) (i : Nat) (v low : Word) : Ctx :=
  { k with skew := if v &&& low = 0 then k.skew.filter (· != i) else i :: k.skew.filter (· != i) }

/-- A write of word `i` of a descriptor: words 2 to 15 are open while the context is FREE or CREATED, the
HEAD words, VEC and word 1 always. Reserved bits are not stored (R4, R415, R422). That words are open in FREE is
DEDUCED: CREATE, which leaves FREE, fails unless they hold valid fields (assumption log 75). -/
def Ctx.writeWord (k : Ctx) (i : Nat) (v : Word) : Ctx :=
  let opn := k.st == .free || k.st == .created
  let lo : BitVec 32 := BitVec.ofNat 32 v.toNat
  let hi : BitVec 32 := BitVec.ofNat 32 (v.toNat / 2 ^ 32)
  match i with
  | 0 => { k with vec := BitVec.ofNat 16 (v.toNat / 2 ^ 48) }
  | 1 => { k with w1 := v &&& 0x7FFFF }
  | 7 => { k with frhead := headWrite k.frhead k.frtail v }
  | 10 => { k with udhead := headWrite k.udhead k.udtail v }
  | 13 => { k with evhead := headWrite k.evhead k.evtail v }
  | 2 => if opn then { k with ptroot := v &&& 0xFFFFE00000 } else k
  | 3 => if opn then { k with keyslot := v &&& 0x7F07FF } else k
  | 4 => if opn then { k.skewed 4 v 0x1FFFFF with savebase := v &&& 0xFFFFFFE00000 } else k
  | 5 => if opn then { k.skewed 5 v 0x1FFFE0 with spbase := v &&& 0xFFFFFFE0001F } else k
  | 6 => if opn then { k.skewed 6 v 0xFE0 with frbase := v &&& 0xFFFFFFFFF01F } else k
  | 8 => if opn then { k with frtail := lo, frlost := hi } else k
  | 9 => if opn then { k.skewed 9 v 0xFE0 with udbase := v &&& 0xFFFFFFFFF01F } else k
  | 11 => if opn then { k with udtail := lo, udlost := hi } else k
  | 12 => if opn then { k.skewed 12 v 0xFE0 with evbase := v &&& 0xFFFFFFFFF01F } else k
  | 14 => if opn then { k with evtail := lo, evlost := hi } else k
  | 15 => if opn then { k with agelim := lo, fcore := BitVec.ofNat 13 hi.toNat } else k
  | _ => k

/-! ### Commands (R397 to R399) -/

/-- A command accepted: BUSY is set, with its result; CONTEXT_COMMAND_COMPLETE ends it. -/
def State.startCommand (s : State) (c err : Nat) (cmd : CtxCmd) : State :=
  s.modCtx c fun k => { k with busy := true, err := BitVec.ofNat 8 err, cmd := cmd }

/-- A command written to the descriptor of context `c`: ignored while BUSY = 1, and not allowed unless
`allowed` (ERR 1). -/
def State.ctxCommand (s : State) (c : Nat) (allowed : CtxState → Bool) (body : State → State) : State :=
  if !s.windows || decide (256 ≤ c) || (s.ctx c).busy then s
  else if allowed (s.ctx c).st then body s
  else s.startCommand c 1 .none

/-- Records of a ring (R409) lie outside its limits: SZ outside 4..16. -/
def ringBad (b : Word) : Bool := decide (b.toNat % 32 < 4 ∨ 16 < b.toNat % 32)

/-- Whether the key ranges of two contexts overlap. -/
def keysOverlap (a b : Ctx) : Bool :=
  decide (0 < a.kcount ∧ 0 < b.kcount ∧ a.kbase < b.kbase + b.kcount ∧ b.kbase < a.kbase + a.kcount)

/-- The ERR of a CREATE, 0 if its fields are valid (R399); `skew` names the bases that are not aligned. -/
def State.createErr (s : State) (c : Nat) : Nat :=
  let k := s.ctx c
  if k.skew ≠ [] ∨ k.spbase.toNat % 32 < 11 ∨
      20 < k.spbase.toNat % 32 ∨ 64 < k.kcount ∨ 2048 < k.kbase + k.kcount ∨
      ringBad k.frbase ∨ ringBad k.udbase ∨ ringBad k.evbase then 2
  else if s.ctxs.any fun e => e.1 != c && e.2.st != .free && keysOverlap k e.2 then 3
  else if [Ring.fault, Ring.undeliverable, Ring.event].all fun r =>
      let (base, _, _, size) := k.ring r
      s.mapped c (ringAddr base 0 size) (2 ^ (base.toNat % 32) * size) needW then 0
  else 4

/-- CREATE. -/
def execCreate (c : Nat) (s : State) : Out :=
  .next (s.ctxCommand c (· == .free) fun s =>
    let e := s.createErr c
    if e ≠ 0 then s.startCommand c e .none
    else (s.modCtx c fun k =>
      { k with st := .created, rngkey0 := 0, rngkey1 := 0, frhead := 0, frtail := 0, frlost := 0, udhead := 0,
               udtail := 0, udlost := 0, evhead := 0, evtail := 0, evlost := 0, flt := false }).startCommand c 0 .none)

/-- CLEARF. -/
def execClearf (c : Nat) (s : State) : Out :=
  .next (s.ctxCommand c (· != .free) fun s => (s.modCtx c fun k => { k with flt := false }).startCommand c 0 .none)

/-- KEY_WRITE: a key slot replaced in one step (R400). -/
def execKeyWrite (slot : Nat) (key : BitVec 512) (s : State) : Out :=
  .next (if s.windows && decide (slot < 2048) then { s with keys := s.keys.set slot key } else s)

/-! ### The save area (R406, R407) -/

/-- Address of the tile record of tile `t`. -/
def Ctx.tileRecord (k : Ctx) (t : Nat) : Nat :=
  k.savebase.toNat / 0x200000 % 0x8000000 * 0x200000 + 96 * 0x100000 + k.relTile t * 0x80000

/-- The translations of the tile records of a context's tiles, granule by granule; none if a page does not
take writes. -/
def State.tileTargets (s : State) (c : Nat) : Option (List (Nat × Target)) :=
  let vas := (s.ctx c).tiles.flatMap fun t =>
    (List.range 8).map fun i => (s.ctx c).tileRecord t + 65536 * i
  vas.mapM fun va => (s.saveTarget c va).map fun t => (va, t)

/-- Bytes written to the save area through kept translations; `fuel` bounds the granules. -/
def State.putSaved (s : State) (l : List (Nat × Target)) : Nat → Nat → List Byte → State
  | 0, _, _ => s
  | fuel + 1, va, bs =>
    if bs.isEmpty then s
    else
      let room := 65536 - va % 65536
      let s := match l.find? fun e => e.1 == va - va % 65536 with
        | some e => s.writeTarget e.2 (va % 65536) (bs.take room)
        | none => s
      State.putSaved s l fuel (va + room) (bs.drop room)

/-- Bytes read from the save area through kept translations. -/
def State.getSaved (s : State) (l : List (Nat × Target)) : Nat → Nat → Nat → List Byte
  | 0, _, _ => []
  | fuel + 1, va, n =>
    if n = 0 then []
    else
      let k := min n (65536 - va % 65536)
      (match l.find? fun e => e.1 == va - va % 65536 with
        | some e => s.readTarget e.2 (va % 65536) k
        | none => List.replicate k 0) ++ State.getSaved s l fuel (va + k) (n - k)

/-! ### Pre-emption (R401 to R403) -/

/-- The cores that word 1 of a descriptor names; none if its tile lies outside the placement. -/
def Ctx.named (k : Ctx) : Option (List Nat) :=
  let v := k.w1.toNat
  if v / 2 ^ 18 % 2 = 1 then some (k.tiles.flatMap fun t => (List.range 8).map (8 * t + ·))
  else match k.tiles[v % 1024]? with
    | some t => some (((List.range 8).filter fun c => v / 2 ^ (10 + c) % 2 == 1).map (8 * t + ·))
    | none => none

/-- A control packet sent to each of some cores by the Agate instance of their half. -/
def State.control (s : State) (c : Nat) (cores : List Nat) (b : Nat → Body) : State :=
  cores.foldl (fun s x =>
    (s.source c).inject (agateTile (halfOf (x / 8) == 0)) (x / 8) true c [] (b x)) s

/-- A core's record looked up, where it does not hold one yet. -/
def State.keepRecords (s : State) (c : Nat) (cores : List Nat) : State :=
  cores.foldl (fun s x =>
    if (s.core x).frozen then s
    else
      let va := (s.ctx c).coreRecord x
      s.modCore x fun k => { k with record := s.saveTarget c va, recordVa := BitVec.ofNat 64 va }) s

/-- PREEMPT: the save records of the named cores are checked, then each is sent its packet. -/
def execPreempt (c : Nat) (s : State) : Out :=
  .next (s.ctxCommand c (· == .active) fun s =>
    match (s.ctx c).named with
    | none => s.startCommand c 2 .none
    | some cores =>
      if cores.any fun x => (s.saveTarget c ((s.ctx c).coreRecord x)).isNone then s.startCommand c 4 .none
      else (((s.keepRecords c cores).startCommand c 0 .preempt).modCtx c fun k =>
        { k with waiting := cores }).control c cores fun x => .freeze (x % 8) c)

/-- UNFREEZE: each named core is sent its packet. -/
def execUnfreeze (c : Nat) (s : State) : Out :=
  .next (s.ctxCommand c (fun st => st == .active || st == .suspended) fun s =>
    match (s.ctx c).named with
    | none => s.startCommand c 2 .none
    | some cores =>
      ((s.startCommand c 0 .unfreeze).modCtx c fun k =>
        { k with waiting := cores, st := if cores.isEmpty then k.st else .active }).control c cores
          fun x => .unfreeze (x % 8) c)

/-- The address of the image of a strand of a core whose record is kept. -/
def Core.imageVa (c : Core) (k : Nat) : Nat := c.recordVa.toNat + 2048 * k

/-- One strand captured by a freeze (R401 step 2). A RESUME that still waits for results of the strand then waits
for the core to unfreeze (R402). -/
def State.captureStrand (s : State) (n : Nat) : State :=
  let core := s.core (coreOf n)
  let save := fun (s : State) =>
    (s.modStrand n fun st => { st with epc := pcWord st }).saveImage n 1 (s.coreSave (coreOf n) 0) core.recordVa.toNat
  match (s.strand n).phase with
  | .running => (save s).modStrand n fun st => { st with phase := .savedPre, fetched := none, landing := [] }
  | .stalled _ => (save s).modStrand n fun st => { st with phase := .savedPre, fetched := none, landing := [] }
  | .faulted => s.capture n
  | .savedFault _ =>
    if (s.strand n).resumeWait then
      (s.imageSst n 3).modStrand n fun st => { st with phase := .savedFault .resume, resumeWait := false }
    else s
  | .savedPre => s
  | .idle =>
    match s.coreSave (coreOf n) 0 with
    | some t => s.writeTarget t (2048 * slotOf n) idleImage
    | none => s

/-- Whether every core of a context's placement is frozen. -/
def State.allFrozen (s : State) (c : Nat) : Bool :=
  (s.ctx c).tiles.all fun t => (List.range 8).all fun k => (s.core (8 * t + k)).frozen

/-- A core frozen (R401). -/
def State.freezeCore (s : State) (core : Nat) : State :=
  if (s.core core).frozen then s
  else
    let s := (List.range 4).foldl (fun s k => s.captureStrand (4 * core + k)) s
    let s := s.freezeLevels core
    let s := s.modCore core fun c => { c with frozen := true, freezeTime := s.time }
    (s.writeRecord core).updateHold (core / 8)

/-- The messages of a core removed: each is answered if it asks for it (R405 step 3). -/
def State.purgeLevel (s : State) (core l : Nat) : State :=
  let v := s.level core l
  let size := 2 ^ s.spLog ((s.holder (core / 8)).getD 0)
  let ring := (v.ring.foldl (fun (acc : List (Option Msg) × Nat) e =>
    let m := (s.ringRead core l 1 acc.2).map fun bs => (QEntry.ofBytes bs []).msg
    (acc.1 ++ [m], (acc.2 + e.1) % size)) ([], v.head)).1
  let queued := (v.entries.filter (·.landed)).map (·.msg)
  let c := (s.holder (core / 8)).getD 0
  let s := (v.ring.foldl (fun (acc : State × Nat) e =>
    (acc.1.vaCorrect c 2 (s.ringEntry core l acc.2) 64, (acc.2 + e.1) % size)) (s, v.head)).1
  let s := v.entries.foldl (fun s e => s.modCore core fun c => c.freePool e.pool) s
  let s := s.modLevel core l fun v =>
    { v with entries := [], ring := [], unread := 0, head := 0, tail := 0, count := 0 }
  (queued ++ ring.filterMap id).foldl (fun s m =>
    if m.hdr.re && m.hdr.kind == 0 then s.sendReply (core / 8) 0 m.hdr true false zeroArgs else s) s

/-- Every queued and spilled message, and every reply that has arrived, removed from a core. -/
def State.purgeCore (s : State) (core : Nat) : State :=
  let s := (List.range 4).foldl (fun s l => s.purgeLevel core l) s
  (s.core core).replyOrder.foldl (fun s i => s.modCore core fun c => c.freeReplySlot i) s

/-- The cores of a context's placement. -/
def Ctx.cores (k : Ctx) : List Nat := k.tiles.flatMap fun t => (List.range 8).map (8 * t + ·)

/-- Steps 2 to 5 of R405, once every core is frozen: strands are discarded, messages removed, tile records
dropped with the jobs that wait in them, and STOP is written. -/
def State.destroyCores (s : State) (c : Nat) : State :=
  let cores := (s.ctx c).cores
  let s := cores.foldl (fun s x => (List.range 4).foldl (fun s k =>
    if (s.strand (4 * x + k)).phase = .idle then s else s.release (4 * x + k)) s) s
  let s := cores.foldl (fun s x => s.purgeCore x) s
  let s := (s.ctx c).tiles.foldl (fun s t =>
    if (s.tile t).vacated then
      let s := s.modTile t fun x =>
        { x with vacated := false, queue := [], supplies := [], locks := [],
                 fabric := { x.fabric with cmds := [], inClosed := true, bind := [] } }
      (List.range 8).foldl (fun s k => s.modCore (8 * t + k) fun x => { x with jobs := [] }) s
    else s) s
  s.kernelStop c

/-- A core's answer to Agate: the command it was awaited by goes on (R398, R401, R405). -/
def State.acknowledge (s : State) (c core : Nat) : State :=
  let s := s.modCtx c fun k => { k with waiting := k.waiting.filter (· != core) }
  let k := s.ctx c
  if k.cmd = .destroy ∧ k.waiting = [] then s.destroyCores c
  else if k.cmd = .preempt ∧ k.st = .active ∧ s.allFrozen c then s.modCtx c fun k => { k with st := .suspended }
  else s

/-- CORE_FREEZE: the packet reaches the core, which freezes and answers. A core that the context no longer holds
only answers. -/
def execCoreFreeze (k : Nat) (s : State) : Out :=
  .next (s.deliverPacket k fun s' p => match p.body with
    | .freeze core c =>
      (if s'.holder p.dst = some c then s'.freezeCore (8 * p.dst + core) else s').acknowledge c (8 * p.dst + core)
    | _ => s)

/-- SST of the image of strand slot `k` of a core (R407); a record that cannot be kept reads as the strand
stands. -/
def State.recordSst (s : State) (core k : Nat) : Nat :=
  match s.coreSave core (2048 * k) with
  | some t => leNat (s.readTarget t 1296 1) % 8
  | none => match (s.strand (4 * core + k)).phase with
    | .savedPre => 1
    | .savedFault .none => 2
    | .savedFault .resume => 3
    | .savedFault .discard => 4
    | .idle => 0
    | .running => 0
    | .stalled _ => 0
    | .faulted => 0

/-- A strand of a resumed core: SST 1 and 3 wait for their blocks, 2 stays SAVED, 0 and 4 are IDLE. -/
def State.unfreezeStrand (s : State) (core k : Nat) : State :=
  let n := 4 * core + k
  let img := (s.coreSave core (2048 * k)).isSome
  let va : Word := BitVec.ofNat 64 ((s.core core).imageVa k)
  match s.recordSst core k with
  | 1 => s.modStrand n fun st => { st with phase := .savedPre, hasImage := img, imageVa := va }
  | 3 => s.modStrand n fun st => { st with phase := .savedPre, hasImage := img, imageVa := va }
  | 2 => s.modStrand n fun st => { st with phase := .savedFault .none, hasImage := img, imageVa := va }
  | _ => (s.modCore core fun c => c.freePool (s.strand n).pool).modStrand n Strand.idled

/-- The core state of a core record read back (R403 step 1, R408); lastPromoted is 0 after resumption (R246). -/
def State.reloadCore (s : State) (core : Nat) : State :=
  match s.coreSave core 0 with
  | none => s
  | some t =>
    let f := fun off n => leNat (s.readTarget t off n)
    let reserved := f 12304 8
    let filled := f 12312 8
    let order := ((s.readTarget t 12336 64).map BitVec.toNat).takeWhile fun i => decide (i < 64)
    let ctx := (s.holder (core / 8)).getD 0
    let s := s.targetCorrect ctx t 8192 4208
    let slot := fun i =>
      let old := (s.core core).replies.get {} i
      (i, ({ reserved := reserved / 2 ^ i % 2 == 1, ctx := if old.reserved then old.ctx else ctx,
             filled := filled / 2 ^ i % 2 == 1,
             entry := if filled / 2 ^ i % 2 = 1 then QEntry.ofBytes (s.readTarget t (8192 + 64 * i) 64) [] else {} } : ReplySlot))
    let s' := s.modCore core fun c =>
      { c with lastPromoted := false,
               replies := ((List.range 64).map slot).filter fun e => e.2.reserved,
               replyOrder := order.filter fun i => filled / 2 ^ i % 2 == 1 }
    (List.range 4).foldl (fun s'' l => s''.modLevel core l fun v => v.ofWord (f (12288 + 4 * l) 4)) s'

/-- The resume hook: a message to handler 0xFFE at the head of level 0 (R403 step 3). -/
def State.resumeHook (s : State) (core back : Nat) : State :=
  let t := core / 8
  let e := s.handler t 0xFFE
  if !entryValid e || !entryAdmits e (core % 8) then s
  else
    let c := (s.holder t).getD 0
    let h : Hdr := { posted := true, ctx := BitVec.ofNat 8 c, hidx := 0xFFE, pset := true,
                     dx := BitVec.ofNat 5 (tileX t), dy := BitVec.ofNat 5 (tileY t), dcore := BitVec.ofNat 3 core }
    let m : Msg :=
      { hdr := h.withSource t core 0,
        args := [BitVec.ofNat 64 back, (s.core core).freezeTime &&& 0xFFFFFFFF, s.time &&& 0xFFFFFFFF, 0] }
    let q : QEntry := { msg := m, snap := entrySnap e, level := 0, arrt := s.time.setWidth 32 }
    (s.source c).modLevel core 0 fun v =>
      { v with entries := q :: v.entries, st := if v.st = .empty then .filling else v.st }

/-- A core resumed (R403). -/
def State.unfreezeCore (s : State) (core : Nat) : State :=
  let s := s.reloadCore core
  let s := (List.range 4).foldl (fun s l => s.modLevel core l Level.thaw) s
  let s := s.levelFaults (core / 8)
  let s := (List.range 4).foldl (fun s k => s.unfreezeStrand core k) s
  let back := ((List.range 4).filter fun k => (s.strand (4 * core + k)).phase == .savedPre).length
  let s := s.resumeHook core back
  let s := s.modCore core fun c => { c with frozen := false, record := none }
  (s.regain core).updateHold (core / 8)

/-- CORE_UNFREEZE: the packet reaches the core; it waits until the special-function queue is empty (R202). -/
def execCoreUnfreeze (k : Nat) (s : State) : Out :=
  .next (s.deliverPacket k fun s' p => match p.body with
    | .unfreeze core c =>
      let x := 8 * p.dst + core
      if !(s'.core x).frozen then s'.acknowledge c x
      else if !(s'.core x).sfq.isEmpty then s
      else (s'.unfreezeCore x).acknowledge c x
    | _ => s)

/-! ### RESUME at the strand's core (R402, R420) -/

/-- SST of a strand SAVED after a fault, as its image holds it. -/
def State.savedSst (s : State) (n : Nat) : Nat :=
  match (s.strand n).phase, s.savedImage n with
  | .savedFault .discard, _ => 4
  | .savedFault .resume, _ => 3
  | .savedFault .none, some t => leNat (s.readTarget t 1296 1) % 8
  | .savedFault .none, none => 2
  | _, _ => 0

/-- What a RESUME does at the core of strand `n`. One that waits for PEND = 0 leaves SST as it is. -/
def State.resumeAt (s : State) (n c : Nat) (v : Word) : State :=
  let discard := v.toNat / 2 ^ 16 % 2 == 1
  if s.savedSst n ≠ 2 then s.event c .illegalCombination 0 (tileOf n) n v 0
  else if (s.core (coreOf n)).frozen then
    if discard then
      let st := s.strand n
      let s := if st.owed && !st.replied then s.strandReply n true zeroArgs else s
      (s.imageSst n 4).modStrand n fun st => { st with phase := .savedFault .discard, replied := true }
    else (s.imageSst n 3).modStrand n fun st => { st with phase := .savedFault .resume }
  else if discard then s.release n
  else if (s.strand n).pend.isEmpty then s.loadFrom n Strand.resumed
  else s.modStrand n fun st => { st with resumeWait := true }

/-- RESUME_PACKET. -/
def execResumePacket (k : Nat) (s : State) : Out :=
  .next (s.deliverPacket k fun s' p => match p.body with
    | .resume v c => s'.resumeAt (v.toNat % 2 ^ 15) c v
    | _ => s)

/-- CAPTURE_COMPLETE: the capture of a FAULTED strand completes (R121). -/
def execCaptureComplete (n : Nat) (s : State) : Out :=
  .next (if (s.strand n).phase = .faulted then s.capture n else s)

/-! ### Tile records (R337, R366, R375, R408) -/

/-- A scale vector's bytes. -/
def scaleBytes (l : SMap (BitVec 32)) : List Byte := (List.range 128).flatMap fun i => leBytes 4 (scaleOf l i)

/-- The control word of a queue record. -/
def queueControl (member origin fn slot kind core job kdone : Nat) : Nat :=
  member * 2 ^ 60 + origin * 2 ^ 50 + fn % 64 * 2 ^ 44 + slot * 2 ^ 42 + kind * 2 ^ 39 + core % 8 * 2 ^ 36 +
    job * 2 ^ 32 + kdone

/-- The eight words of a queue record of a job. -/
def Job.queueRecord (j : Job) (control : Nat) : List Nat :=
  ((List.range 4).map fun i => (j.d i).toNat) ++ [j.comp.toNat, j.comp1.toNat, j.comp2.toNat, control]

/-- The register an access's result goes to. -/
def Dest.reg : Dest → Nat
  | .g r _ _ => r.val
  | .none => 0
  | .lane _ _ _ => 0
  | .code => 0
  | .landing => 0

/-- The queue record of an operation of tile `t`. -/
def State.opRecord (s : State) (t : Nat) : ArrayOp → List Nat
  | .mma c k =>
    let j := s.job (8 * t + c) k
    j.queueRecord (queueControl 0 0 j.fn j.accNo 0 c k j.k)
  | .mst c k =>
    let j := s.job (8 * t + c) k
    j.queueRecord (queueControl 0 0 j.fn j.accNo 2 c k j.k)
  | .mzr a n i st =>
    let fn := if st then encode (.mzrSt 0 (BitVec.ofNat 2 n)) else encode (.mzr 0 i (BitVec.ofNat 2 n))
    [a.strand + a.dest.reg * 2 ^ 15, 0, 0, 0, 0, 0, 0, queueControl 0 0 fn n 3 (coreOf a.strand) 0 0]
  | .mscl n c => [0, 0, 0, 0, 0, 0, 0, queueControl 0 0 (encode (.mscl 0 0 (BitVec.ofNat 2 n))) n 4 c 0 0]
  | .part p =>
    let j := s.job (8 * p.origin + p.core) p.job
    j.queueRecord (queueControl p.member p.origin j.fn j.accNo 1 p.core p.job p.k)

/-- The queue record of a supply. -/
def State.supplyRecord (s : State) (p : Supply) : List Nat :=
  let j := s.job (8 * p.origin + p.core) p.job
  j.queueRecord (queueControl ((p.credits.map (·.1)).headD 0) p.origin j.fn j.accNo 5 p.core p.job p.k)

/-- The queue records of a tile, at most 16. -/
def State.queueRecords (s : State) (t : Nat) : List (List Nat) :=
  let x := s.tile t
  (x.queue.map (s.opRecord t) ++ x.supplies.map s.supplyRecord).take 16

/-- The array record of a tile (R337). -/
def State.arrayBytes (s : State) (t : Nat) : List Byte :=
  let x := s.tile t
  let rs := s.queueRecords t
  let slot := fun n => x.slots.get {} n
  ((List.range 4).flatMap fun n => (List.range 16384).flatMap fun i => leBytes 4 ((slot n).elems.get 0 i).toNat) ++
  ((List.range 4).flatMap fun n => scaleBytes (slot n).sa ++ scaleBytes (slot n).sb) ++
  ((List.range 4).flatMap fun n => match (slot n).staged with
    | some (a, b) => scaleBytes a ++ scaleBytes b
    | none => List.replicate 1024 0) ++
  ((List.range 4).flatMap fun n => leBytes 8 (slot n).statusWord.toNat) ++
  leBytes 8 (((List.range 4).map fun n => (slot n).staged.isSome.toNat * 2 ^ n).sum + rs.length * 65536) ++
  List.replicate 24 0 ++ padTo 1024 (rs.flatMap fun r => r.flatMap fun w => leBytes 8 w)

/-- The 256 bytes of a FIFO entry. -/
def entryBytes (e : List (BitVec 32)) : List Byte := padTo 256 ((e.take 64).flatMap fun x => leBytes 4 x.toNat)

/-- Vectors of a stream that have moved: those of the input stream where there is one. -/
def Fabric.moved (f : Fabric) : Nat := if bindIn f.bindWord = 2 then f.inNext else f.outNext

/-- The binding run with N reduced to the vectors still to move. -/
def Fabric.bindRecord (f : Fabric) : List Nat :=
  let w3 := (f.bind.getD 3 0).toNat
  [f.bindWord, (f.bind.getD 1 0).toNat, (f.bind.getD 2 0).toNat, (w3 / 2 ^ 32 - f.moved) * 2 ^ 32 + w3 % 2 ^ 32]

/-- The fabric record of a tile (R366). -/
def Fabric.bytes (f : Fabric) : List Byte :=
  let marked := f.outFifo ++ f.held ++ f.chain
  leBytes 8 f.statusWord.toNat ++ (f.bindRecord.flatMap fun w => leBytes 8 w) ++
  ([f.a, f.b].flatMap fun g => leBytes 8 g.addr.toNat ++ leBytes 8 g.len) ++ leBytes 8 f.countWord.toNat ++
  leBytes 8 (f.inFifo.length + f.outFifo.length * 256 + f.held.length * 65536 + f.chain.length * 2 ^ 24 +
    f.chainSender.getD 0 * 2 ^ 32 + f.chainSender.isSome.toNat * 2 ^ 42) ++ List.replicate 168 0 ++
  padTo 8192 (f.inFifo.flatMap entryBytes) ++ padTo 8192 (f.outFifo.flatMap fun e => entryBytes e.elems) ++
  padTo 32768 (f.held.flatMap fun e => entryBytes e.elems) ++
  padTo 8192 (f.chain.flatMap fun e => entryBytes e.elems) ++
  padTo 1536 (marked.flatMap fun e => leBytes 8 e.marks.toNat)

/-- The record of a loop slot (R375). -/
def Loop.recordBytes (l : Loop) : List Byte :=
  [l.bind.toNat, l.parWord, l.weightsWord, l.stWord, l.inWord, l.outWord,
    l.timer % 2048 + l.declSet * 65536 + l.declKp * 2 ^ 48 + l.declKi * 2 ^ 52, 0].flatMap fun w => leBytes 8 w

/-- Jobs of a tile whose push waits for room in an inbound queue, in order of core and slot (R404). -/
def State.pendingPushes (s : State) (t : Nat) : List (Nat × Nat × Word × Nat) :=
  (List.range 8).flatMap fun c => (List.range 16).filterMap fun k =>
    let j := s.job (8 * t + c) k
    match j.action with
    | .pushing w => if j.st = .completing then some (8 * t + c, k, w, j.comp1.toNat % 8) else none
    | .waiting => none
    | .held _ => none
    | .done => none

/-- The 512 KiB record of a tile (R408). -/
def State.tileRecordBytes (s : State) (t : Nat) : List Byte :=
  let x := s.tile t
  let at_ := fun (n : Nat) (bs : List Byte) => padTo n bs
  let b := at_ 278528 (s.arrayBytes t) ++ x.fabric.bytes
  let b := at_ 337920 b ++ ((List.range 16).flatMap fun k => (x.loops.get {} k).recordBytes)
  let b := at_ 339968 b ++ ((List.range 8).flatMap fun c =>
    let q := (s.core (8 * t + c)).inq
    padTo 256 (padTo 128 (q.flatMap fun w => leBytes 8 w.toNat) ++ leBytes 8 q.length))
  let b := at_ 342016 b ++ padTo 2048 (x.locks.flatMap fun l =>
    leBytes 8 l.lo ++ leBytes 8 l.hi ++ leBytes 8 (l.dst.toNat + l.job * 2 + l.core % 8 * 32) ++ leBytes 8 0)
  padTo 524288 (b ++ (s.pendingPushes t).flatMap fun p => leBytes 8 p.2.2.1.toNat ++ leBytes 8 p.2.2.2)

/-! ### Vacating a tile (R365, R404) -/

/-- One vector moved out of the stages behind a drain marker: completed where the output stage can take it,
else held raw (R365). -/
def State.drainStage (s : State) (t : Nat) : State :=
  let f := s.fabric t
  let g := f.frontSlot
  let shift := fun (f : Fabric) => { f with stages := none :: f.stages.dropLast }
  match f.held, f.canTake with
  | h :: r, true => (s.modFabric t fun f => { f with held := r }).outputEntry t g h
  | _, _ =>
    match f.stages.getLast? with
    | some (some vec) =>
      let e : BEntry := { elems := g.outputsOf vec }
      if f.held.isEmpty && f.canTake then (s.modFabric t shift).outputEntry t g e
      else s.modFabric t fun f => { shift f with held := f.held ++ [e] }
    | some none => s.modFabric t shift
    | none => s

/-- The vectors of a slot that stays FROZEN held raw, the oldest first: what the damaged words make of them is not known
(assumption log 91). -/
def State.drainFrozen (s : State) (t : Nat) : State :=
  ((s.fabric t).stages.reverse.filterMap id).foldl (fun s _ =>
    let (s, bs) := s.freeBytes 256
    let e := (List.range 64).map fun j => BitVec.ofNat 32 (leNat ((bs.drop (4 * j)).take 4))
    s.modFabric t fun f => { f with held := f.held ++ [{ elems := e }] })
    (s.modFabric t fun f => { f with stages := f.stages.map fun _ => none })

/-- The stages of a fabric emptied. -/
def State.drainFabric (s : State) (t : Nat) : State :=
  if (s.fabric t).frontSlot.st = .frozen then s.drainFrozen t
  else if (s.fabric t).runs then
    (List.range ((s.fabric t).stages.length + (s.fabric t).held.length)).foldl (fun s _ => s.drainStage t) s
  else s

/-- Whether no command of a fabric's queue is under way: the first, if there is one, waits on the state of a slot or for a
drain that a vacated fabric leaves as it stands (R349, R365). -/
def Fabric.cmdsWait (f : Fabric) : Bool :=
  match f.cmds with
  | [] => true
  | .gswap _ _ _ :: _ => true
  | .gdrain _ _ :: _ => true
  | .gload _ _ :: _ => false
  | .gbind _ _ _ :: _ => false

/-- Whether a job of a vacating tile has come to where it is saved: it waits in the array's queue, or its
push waits for room; the jobs of the engines have ended (R404). -/
def State.jobSaved (s : State) (core slot : Nat) : Bool :=
  let j := s.job core slot
  match j.kind with
  | .mma => j.st == .free || s.queued core slot || pushes j
  | .mst => j.st == .free || s.queued core slot || pushes j
  | .mmag => j.st != .completing || pushes j
  | .gload => j.st == .free || j.st == .issued && (s.fabric (core / 8)).cmdsWait || pushes j
  | .cpy => j.st == .free || pushes j
  | .cpy2 => j.st == .free || pushes j
  | .cpyf => j.st == .free || pushes j
  | .gath => j.st == .free || pushes j
  | .scat => j.st == .free || pushes j
where
  /-- the job's push waits for room -/
  pushes (j : Job) : Bool := match j.action with
    | .pushing _ => decide (inqDepth ≤ (s.core (core / 8 * 8 + j.comp1.toNat % 8)).inq.length)
    | .waiting => false
    | .held _ => false
    | .done => false

/-- Whether a packet brings operand steps, or credits for them, to a tile. -/
def Packet.feedsArray (p : Packet) (t : Nat) : Bool :=
  p.dst == t && match p.body with
    | .mmagStep _ _ _ _ _ _ _ _ => true
    | .mmagCredit _ _ _ _ _ _ => true
    | _ => false

/-- The operand buffers of a member's part emptied: the record of a tile does not hold them (R337, R338). -/
def ArrayOp.unbuffered : ArrayOp → ArrayOp
  | .part p => .part { p with stepsA := [], stepsB := [] }
  | .mma c k => .mma c k
  | .mst c k => .mst c k
  | .mzr a n i st => .mzr a n i st
  | .mscl n c => .mscl n c

/-- Whether a tile can be saved now; operand steps and credits on their way are sunk first. -/
def State.tileQuiet (s : State) (t : Nat) : Bool :=
  let f := s.fabric t
  ((List.range 8).all fun c => (List.range 16).all fun k => s.jobSaved (8 * t + c) k) && f.cmdsWait &&
    (f.a.st != .frozen || f.a.lost) && (f.b.st != .frozen || f.b.lost) &&
    f.a.st != .reloading && f.b.st != .reloading && !s.net.any fun p => p.feedsArray t

/-- A tile saved and powered down. -/
def State.vacateTile (s : State) (c t : Nat) : State :=
  let s := s.drainFabric t
  (s.putSaved (s.ctx c).saved 10 ((s.ctx c).tileRecord t) (s.tileRecordBytes t)).modTile t fun x =>
    { x with vacated := true, queue := x.queue.map ArrayOp.unbuffered }

/-- VACATE: the records are checked, and the drain begins. -/
def execVacate (c : Nat) (s : State) : Out :=
  .next (s.ctxCommand c (· == .suspended) fun s =>
    match s.tileTargets c with
    | some l =>
      if (s.ctx c).cores.any fun x => (s.saveTarget c ((s.ctx c).coreRecord x)).isNone then s.startCommand c 4 .none
      else (s.startCommand c 0 .vacate).modCtx c fun k => { k with saved := l }
    | none => s.startCommand c 4 .none)

/-! ### Restoring a tile (R338, R365, R375, R404, R408) -/

/-- A signed 32-bit field. -/
def signed32 (v : Nat) : Int := sextNat 32 (v % 2 ^ 32)

/-- A loop slot with its record read back. -/
def Loop.restored (l : Loop) (bs : List Byte) : Loop :=
  let f := fun i => fieldAt bs (8 * i) 8
  let l := l.params (BitVec.ofNat 64 (f 1 % 2 ^ 63)) (BitVec.ofNat 64 (f 2))
  let st : LoopState := match f 3 / 32 % 8 with
    | 0 => .unbound
    | 1 => .bound
    | 2 => .running
    | 3 => .saturated
    | _ => .faulted
  { l with
    bind := BitVec.ofNat 64 (f 0), st := st, nsmp := BitVec.ofNat 32 (f 3 / 2 ^ 32), occ := f 3 / 65536 % 65536,
    run := f 3 / 256 % 32, clc := f 3 / 16 % 2 == 1, clp := f 3 / 8 % 2 == 1, hold := f 3 / 4 % 2 == 1,
    err := signed32 (f 4), integ := signed32 (f 4 / 2 ^ 32), u := signed32 (f 5), vp := f 5 / 2 ^ 32 % 128,
    vc := f 5 / 2 ^ 40 % 128, timer := f 6 % 2048, declSet := f 6 / 65536 % 65536, declKp := f 6 / 2 ^ 48 % 16,
    declKi := f 6 / 2 ^ 52 % 16 }

/-- Whether a loop's record keeps to the limits of R369. -/
def Loop.inLimits (l : Loop) (code : Nat) : Bool :=
  decide (code ≤ 4 ∧ l.run ≤ 16) && (l.st == .unbound ||
    (decide (2 ≤ l.kp ∧ l.kp + 3 ≤ l.ki ∧ l.ilim ≤ 32767 ∧ 16 ≤ l.period ∧ l.period ≤ 1024 ∧ l.wmin ≤ l.wmax ∧
      l.timer ≤ l.period) && [l.wmin, l.wmax, l.basep, l.basec].all fun w => decide (1 ≤ w ∧ w ≤ 64)))

/-- A slot state from its code. -/
def SlotState.ofCode : Nat → SlotState
  | 1 => .loading | 2 => .ready | 3 => .active | 4 => .draining | 5 => .frozen | 6 => .reloading | _ => .empty

/-- Entries of 256 bytes read from a fabric record. -/
def readEntries (bs : List Byte) (off n : Nat) : List (List (BitVec 32)) :=
  (List.range n).map fun i => (List.range 64).map fun j => BitVec.ofNat 32 (fieldAt bs (off + 256 * i + 4 * j) 4)

/-- Whether a fabric record keeps to its limits. -/
def fabricOk (bs : List Byte) : Bool :=
  let n := fieldAt bs 80 8
  let b := fieldAt bs 8 8
  decide (fieldAt bs 0 1 % 8 ≤ 6 ∧ fieldAt bs 0 1 / 16 % 8 ≤ 6 ∧ n % 256 ≤ 32 ∧ n / 256 % 256 ≤ 32 ∧
    n / 65536 % 256 ≤ 128 ∧ n / 2 ^ 24 % 256 ≤ 32 ∧ n / 2 ^ 32 % 1024 < 768 ∧ bindIn b < 3 ∧ bindOut b < 3)

/-- The fabric with its record read back; the configuration is reloaded by `reloadSlot`. -/
def Fabric.restored (f : Fabric) (bs : List Byte) : Fabric :=
  let w := fieldAt bs 0 8
  let n := fieldAt bs 80 8
  let out := n / 256 % 256
  let held := n / 65536 % 256
  let chain := n / 2 ^ 24 % 256
  let mark := fun i => BitVec.ofNat 64 (fieldAt bs (57600 + 8 * i) 8)
  let slot := fun (g : GSlot) (code i : Nat) =>
    { g with st := SlotState.ofCode code, addr := BitVec.ofNat 64 (fieldAt bs (40 + 16 * i) 8),
             len := fieldAt bs (48 + 16 * i) 8 }
  let entries := fun off k first => (readEntries bs off k).mapIdx fun i e => ({ elems := e, marks := mark (first + i) } : BEntry)
  let bind := (List.range 4).map fun i => BitVec.ofNat 64 (fieldAt bs (8 + 8 * i) 8 + if i = 3 then f.moved * 2 ^ 32 else 0)
  { f with
    rcnt := BitVec.ofNat 16 (w / 2 ^ 48), scnt := BitVec.ofNat 16 (w / 2 ^ 32), rld := BitVec.ofNat 8 (w / 2 ^ 24),
    range := w / 2 ^ 23 % 2 == 1, sigf := w / 2 ^ 22 % 2 == 1, reason := BitVec.ofNat 4 (w / 2 ^ 16),
    front := w / 2 ^ 7 % 2 == 1, a := slot f.a (w % 8) 0, b := slot f.b (w / 16 % 8) 1,
    bind := bind, inClosed := decide (bindIn (fieldAt bs 8 8) = 0) ||
      decide (bindIn (fieldAt bs 8 8) = 2 ∧ fieldAt bs 36 4 = 0), drainLeft := min f.drainLeft (n % 256), taken := BitVec.ofNat 32 (fieldAt bs 76 4),
    delivered := BitVec.ofNat 32 (fieldAt bs 72 4), inFifo := readEntries bs 256 (n % 256),
    outFifo := entries 8448 out 0, held := entries 16640 held out, chain := entries 49408 chain (out + held),
    chainSender := if n / 2 ^ 42 % 2 = 1 then some (n / 2 ^ 32 % 1024) else none }

/-- A slot whose reload waits for a page: READY goes to RELOADING, the others freeze (R347, R365). -/
def GSlot.stopped (g : GSlot) : GSlot :=
  match g.st with
  | .ready => { g with st := .reloading }
  | .active => { g with st := .frozen, wasDraining := false }
  | .draining => { g with st := .frozen, wasDraining := true }
  | .empty => g
  | .loading => g
  | .frozen => { g with lost := false }
  | .reloading => g

/-- A slot of a restored fabric reloaded from its recorded image; an absent page of the image is asked for, and a slot
whose image cannot be read is EMPTY, with a FABRIC record. -/
def State.reloadSlot (s : State) (t : Nat) (b : Bool) : State :=
  let g := (s.fabric t).slot b
  if g.st = .empty ∨ g.st = .loading then s
  else if (s.imageGap t g).isSome then s.modFabric t fun f => f.modSlot b GSlot.stopped
  else
    let (s, bs) := s.imageBytes t g
    match bs.map parseImage with
    | some (.ok x) => s.modFabric t fun f =>
        let f := f.modSlot b fun g =>
          { g with inputs := x.inputs, outputs := x.outputs, depth := x.depth, consts := x.consts, outs := x.outs,
                   nodes := x.nodes, switches := x.switches, damaged := [], bySignature := false, tag := none,
                   absent := false, lost := false,
                   st := if g.st = .frozen then (if g.wasDraining then .draining else .active)
                     else if g.st = .reloading then .ready else g.st }
        if b = f.front then { f with stages := List.replicate x.depth none } else f
    | _ =>
      (s.modFabric t fun f => f.modSlot b fun _ => {}).faultRecord (s.tileCtx t)
        { flags := { fabric := true }, cause := Cause.configUncorrectable.code, tile := t }

/-- An accumulator slot with the array record read back. -/
def AccSlot.restored (a : AccSlot) (bs : List Byte) (n : Nat) : AccSlot :=
  let st := fieldAt bs (270336 + 8 * n) 8
  let scale := fun off => scaleMap ((bs.drop off).take 512)
  { a with
    elems := ((List.range 16384).map fun i => (i, BitVec.ofNat 32 (fieldAt bs (65536 * n + 4 * i) 4))).filter
      fun e => e.2 != 0,
    int32 := st % 2 == 1, ovf := st / 2 % 2 == 1, perr := st / 4 % 2 == 1,
    sa := scale (262144 + 1024 * n), sb := scale (262144 + 1024 * n + 512),
    staged := if fieldAt bs 270368 8 / 2 ^ n % 2 = 1 then
        some (scale (266240 + 1024 * n), scale (266240 + 1024 * n + 512)) else none }

/-- The record of queue entry `i` of a tile record. -/
def queueRecordAt (bs : List Byte) (i : Nat) : List Nat :=
  (List.range 8).map fun k => fieldAt bs (270400 + 64 * i + 8 * k) 8

/-- The queue records of a tile record, in queue order. -/
def queueRecordsOf (bs : List Byte) : List (List Nat) :=
  (List.range (fieldAt bs 270368 8 / 65536 % 32)).map (queueRecordAt bs)

/-- KIND of a queue record. -/
def recKind (r : List Nat) : Nat := r.getD 7 0 / 2 ^ 39 % 8
/-- CORE of a queue record. -/
def recCore (r : List Nat) : Nat := r.getD 7 0 / 2 ^ 36 % 8
/-- JOB of a queue record. -/
def recJob (r : List Nat) : Nat := r.getD 7 0 / 2 ^ 32 % 16
/-- KDONE of a queue record. -/
def recDone (r : List Nat) : Nat := r.getD 7 0 % 2 ^ 32
/-- ORIGIN of a queue record. -/
def recOrigin (r : List Nat) : Nat := r.getD 7 0 / 2 ^ 50 % 1024
/-- MEMBER of a queue record. -/
def recMember (r : List Nat) : Nat := r.getD 7 0 / 2 ^ 60
/-- FN of a queue record. -/
def recFn (r : List Nat) : Nat := r.getD 7 0 / 2 ^ 44 % 64
/-- SLOT of a queue record. -/
def recSlot (r : List Nat) : Nat := r.getD 7 0 / 2 ^ 42 % 4

/-- Whether a queue record keeps to the limits of its fields: those of R322 and R329 for the descriptor, and KDONE within
the steps or rows of the operation, at a step boundary (R336, R337). -/
def recordInLimits (r : List Nat) : Bool :=
  let run := (r.take 4).map (BitVec.ofNat 64)
  let d := MmaDesc.of run
  let product := fun (m n : Nat) => (pairAcc d.ta d.tb).isSome && decide (d.k ≠ 0 ∧ d.m ≤ m ∧ d.n ≤ n ∧ recDone r ≤ d.k) &&
    (!pairedType d.ta || recDone r % 2 == 0 || recDone r == d.k)
  match recKind r with
  | 0 => product 128 128
  | 1 => product 384 640 && decide (recOrigin r < 768 ∧ recMember r < d.shape.1 * d.shape.2)
  | 2 =>
    let (_, cols, m, col, row) := mstFields (r.getD 1 0)
    decide (col + cols ≤ 128 ∧ row + m ≤ 128 ∧ recFn r / 4 % 8 < 6 ∧ recDone r ≤ m)
  | 3 => true
  | 4 => true
  | 5 => (pairAcc d.ta d.tb).isSome && decide (d.k ≠ 0 ∧ recOrigin r < 768 ∧ recDone r ≤ d.k)
  | _ => false

/-- Whether a tile record keeps to the limits of its fields (R408). -/
def State.recordOk (s : State) (t : Nat) (bs : List Byte) : Bool :=
  let rs := queueRecordsOf bs
  decide (rs.length ≤ 16) && rs.all recordInLimits && fabricOk (bs.drop 278528) &&
    ((List.range 16).all fun k =>
      let r := (bs.drop (337920 + 64 * k)).take 64
      (((s.tile t).loops.get {} k).restored r).inLimits (fieldAt r 24 8 / 32 % 8)) &&
    (List.range 8).all fun c => decide (fieldAt bs (339968 + 256 * c + 128) 8 ≤ 16)

/-- A job with the words of its queue record. -/
def Job.withRecord (j : Job) (r : List Nat) : Job :=
  { j with desc := (r.take 4).map (BitVec.ofNat 64), comp := BitVec.ofNat 64 (r.getD 4 0),
           comp1 := BitVec.ofNat 64 (r.getD 5 0), comp2 := BitVec.ofNat 64 (r.getD 6 0), fn := recFn r, k := recDone r }

/-- The job of a queue record in a slot: the one that the slot holds, or a new one of the issuing core when a record names a
slot that holds none. -/
def State.recordJob (s : State) (c core : Nat) (kind : JobKind) (r : List Nat) : Job :=
  let j := s.job core (recJob r)
  (if j.st = .free then
    ({ st := if kind = .mmag then .running else .issued, kind := kind, strand := 4 * core, run := (s.strand (4 * core)).run, ctx := c,
       errTile := core / 8 } : Job)
  else j).withRecord r

/-- A queue record read back: its job has the record's words, and the operation takes its place in the queue, an MZR with
the access whose result it owes. -/
def State.takeRecord (s : State) (c t : Nat) (old : List ArrayOp) (r : List Nat) : State :=
  let core := 8 * t + recCore r
  match recKind r with
  | 0 => (s.modJob core (recJob r) fun _ => s.recordJob c core .mma r).enqueue t (.mma (recCore r) (recJob r))
  | 2 => (s.modJob core (recJob r) fun _ => s.recordJob c core .mst r).enqueue t (.mst (recCore r) (recJob r))
  | 1 =>
    let at_ := 8 * recOrigin r + recCore r
    let s := s.modJob at_ (recJob r) fun _ => { s.recordJob c at_ .mmag r with k := (s.job at_ (recJob r)).k }
    let p := (old.findSome? fun o => match o with
      | .part p => if p.origin = recOrigin r ∧ p.core = recCore r ∧ p.job = recJob r ∧ p.member = recMember r then some p
          else none
      | .mma _ _ => none
      | .mst _ _ => none
      | .mzr _ _ _ _ => none
      | .mscl _ _ => none).getD
        { origin := recOrigin r, core := recCore r, job := recJob r, member := recMember r, started := true }
    s.enqueue t (.part { p with k := recDone r })
  | 3 =>
    let n := r.getD 0 0 % 32768
    let d : GReg := Fin.ofNat 32 (r.getD 0 0 / 2 ^ 15)
    let a := (old.findSome? fun o => match o with
      | .mzr a _ _ _ => if a.strand = n ∧ a.dest.reg = d.val then some a else none
      | .mma _ _ => none
      | .mst _ _ => none
      | .part _ => none
      | .mscl _ _ => none).getD
        { id := s.nextId, grp := s.nextId, strand := n, run := (s.strand n).run, ctx := c, tile := t, size := 8,
          dest := .g d 8 false, hidx := (s.strand n).hidx }
    { s with nextId := s.nextId + 1 }.enqueue t (.mzr a (recSlot r) (recFn r / 8 % 2 == 1) (recFn r / 4 % 2 == 1))
  | 4 => s.enqueue t (.mscl (recSlot r) (recCore r))
  | _ => s

/-- Jobs of the array whose operation a record no longer holds have no more steps to take. -/
def State.endUnrecorded (s : State) (t : Nat) (old : List ArrayOp) : State :=
  old.foldl (fun s o =>
    let gone := fun (core slot : Nat) =>
      if s.queued core slot then s else s.modJob core slot fun j => if j.st = .issued then { j with st := .running } else j
    match o with
    | .mma c k => gone (8 * t + c) k
    | .mst c k => gone (8 * t + c) k
    | .mzr _ _ _ _ => s
    | .mscl _ _ => s
    | .part _ => s) s

/-- The command queue of the array read back from the queue records, in their order; a supply goes on if a record names it
(R337, R338). -/
def State.restoreQueue (s : State) (c t : Nat) (rs : List (List Nat)) : State :=
  let old := (s.tile t).queue
  let named := fun (p : Supply) => rs.any fun r => recKind r == 5 && recOrigin r == p.origin && recCore r == p.core &&
    recJob r == p.job && recMember r == (p.credits.map (·.1)).headD 0
  let s := s.modTile t fun x => { x with queue := [], supplies := x.supplies.filter named }
  (rs.foldl (fun s r => s.takeRecord c t old r) s).endUnrecorded t old

/-- A supply of a restored tile: it resumes at the lowest KDONE among the members it serves, whose buffers are empty
(R338). A member without a part has had every step, or has not accepted its part. -/
def State.resumeSupply (s : State) (p : Supply) : Supply :=
  let d := (s.job (8 * p.origin + p.core) p.job).mma
  let parts := p.credits.map fun c => (c.1, s.partOf (d.memberTile p.origin c.1) p.origin p.core p.job)
  { p with k := (parts.filterMap fun x => x.2.map (·.k)).foldl min p.k,
           credits := parts.map fun x => (x.1, match x.2 with
             | some q => if q.begun then 8 else 0
             | none => if p.k = p.steps then 8 else 0) }

/-- The range-lock entries of a tile record: unused ones are 0. The context and the origin, which a record does not
hold, are those of the saved entry of the same place, else the context and the tile restored. -/
def restoredLocks (bs : List Byte) (c t : Nat) (old : List RangeLock) : List RangeLock :=
  (List.range 64).filterMap fun i =>
    let f := fun k => fieldAt bs (342016 + 32 * i + 8 * k) 8
    let o := (old[i]?).getD { ctx := c, origin := t }
    if f 0 = 0 ∧ f 1 = 0 ∧ f 2 = 0 then none
    else some { o with lo := f 0, hi := f 1, dst := f 2 % 2 == 1, job := f 2 / 2 % 16, core := f 2 / 32 % 8 }

/-- The pending pushes of a tile record, in saved order; an unused record is 0. A push is its job's when the job
that the handle names still has one to make (R300, R408). -/
def State.restoredPushes (s : State) (t : Nat) (bs : List Byte) : List Replay :=
  let mine := (s.pendingPushes t).map fun p => (p.1, p.2.1)
  (List.range 128).filterMap fun i =>
    let w := fieldAt bs (344064 + 16 * i) 8
    let job := (8 * t + w / 2 ^ 49 % 8, w / 2 ^ 52 % 16)
    if w = 0 then none
    else some { word := BitVec.ofNat 64 w, core := fieldAt bs (344072 + 16 * i) 8 % 8,
                job := if mine.contains job then some job else none }

/-- Jobs whose push a record no longer holds: nothing is pushed, and their action is over. -/
def State.dropPushes (s : State) (t : Nat) (l : List Replay) : State :=
  (s.pendingPushes t).foldl (fun s p =>
    if l.any fun r => r.job == some (p.1, p.2.1) then s else s.actDone p.1 p.2.1) s

/-- The reload of one tile record. -/
def State.restoreTile (s : State) (c t : Nat) (bs : List Byte) : State :=
  let pushes := s.restoredPushes t bs
  let s := s.dropPushes t pushes
  let s := s.modTile t fun x =>
    { x with
      slots := (List.range 4).map fun n => (n, (x.slots.get {} n).restored bs n),
      loops := (List.range 16).map fun k => (k, (x.loops.get {} k).restored ((bs.drop (337920 + 64 * k)).take 64)),
      locks := restoredLocks bs c t x.locks, replays := pushes,
      fabric := x.fabric.restored ((bs.drop 278528).take 59136) }
  let s := (List.range 8).foldl (fun s c => s.modCore (8 * t + c) fun x =>
    let off := 339968 + 256 * c
    { x with inq := (List.range (fieldAt bs (off + 128) 8)).map fun i => BitVec.ofNat 64 (fieldAt bs (off + 8 * i) 8) }) s
  s.restoreQueue c t (queueRecordsOf bs)

/-- The array and the fabric of a restored tile go on, and its pending pushes are replayed. -/
def State.wakeTile (s : State) (t : Nat) : State :=
  let s := s.modTile t fun x => { x with vacated := false, supplies := x.supplies.map s.resumeSupply }
  let s := (s.reloadSlot t false).reloadSlot t true
  let s := (s.tile t).queue.foldl (fun s o => match o with
    | .part p => s.advancePart t p.origin p.core p.job
    | .mma _ _ => s
    | .mst _ _ => s
    | .mzr _ _ _ _ => s
    | .mscl _ _ => s) s
  ((s.supply t).graphRun t).replay t

/-- RESTORE: every tile record is checked and reloaded; with one outside its limits nothing changes. -/
def execRestore (c : Nat) (s : State) : Out :=
  .next (s.ctxCommand c (· == .vacated) fun s =>
    match s.tileTargets c with
    | none => s.startCommand c 4 .none
    | some l =>
      let k := s.ctx c
      let recs := k.tiles.map fun t => (t, s.getSaved l 10 (k.tileRecord t) 524288)
      let s := l.foldl (fun s e => s.targetCorrect c e.2 0 65536) s
      if recs.all fun r => s.recordOk r.1 r.2 then
        let s := recs.foldl (fun s r => s.restoreTile c r.1 r.2) s
        let s := k.tiles.foldl (fun s t => s.wakeTile t) s
        (s.modCtx c fun k => { k with st := .suspended }).startCommand c 0 .restore
      else s.startCommand c 2 .none)

/-! ### Destruction and the end of commands (R397, R398, R405) -/

/-- A LAUNCH of the context that waits for its rectangle fails (R388). -/
def State.failWaiting (s : State) (c : Nat) : State :=
  let k := s.ctx c
  if k.kst = .placing then
    match (s.queue k.launchQ).pending with
    | some p => ((s.modCtx c fun k => { k with kst := .free, stop := false }).modQueue k.launchQ fun q =>
        { q with pending := none }).queueError k.launchQ p.idx 7
    | none => s
  else s

/-- DESTROY: every core of the placement is sent its freeze packet. -/
def execDestroy (c : Nat) (s : State) : Out :=
  .next (s.ctxCommand c (fun st => st != .free && st != .destroying) fun s =>
    let s := (s.startCommand c 0 .destroy).modCtx c fun k => { k with st := .destroying }
    let s := s.failWaiting c
    if (s.ctx c).holds && (s.ctx c).kst != .retiring then
      let cores := (s.ctx c).cores
      ((s.keepRecords c cores).modCtx c fun k => { k with waiting := cores }).control c cores fun x => .freeze (x % 8) c
    else s)

/-- Whether the command of a context can end. -/
def State.commandOver (s : State) (c : Nat) : Bool :=
  let k := s.ctx c
  match k.cmd with
  | .none => true
  | .preempt => k.waiting.isEmpty
  | .unfreeze => k.waiting.isEmpty
  | .vacate => k.tiles.all fun t => s.tileQuiet t
  | .restore => true
  | .destroy => k.waiting.isEmpty

/-- The translations kept for the core records of a context dropped (R406). -/
def State.dropRecords (s : State) (c : Nat) : State :=
  (s.ctx c).cores.foldl (fun s x => s.modCore x fun k => { k with record := none }) s

/-- CONTEXT_COMMAND_COMPLETE: a command finishes, BUSY clears and VEC is sent. A DESTROY finishes with its
steps; the slot becomes FREE once no kernel is left (R398, R405). -/
def State.commandComplete (s : State) (c : Nat) : State :=
  let k := s.ctx c
  if !k.busy || !s.commandOver c then s
  else
    let s := match k.cmd with
      | .vacate => (k.tiles.foldl (fun (s : State) t => s.vacateTile c t) s).modCtx c fun k =>
          { k with st := .vacated, saved := [] }
      | .destroy => if k.kst == KernelState.free then (s.zeroKeys c).modCtx c fun k => { k with st := CtxState.free } else s
      | .none => s
      | .preempt => s
      | .unfreeze => s
      | .restore => s
    let s := match k.cmd with
      | .preempt => s.dropRecords c
      | .destroy => s.dropRecords c
      | .none => s
      | .unfreeze => s
      | .vacate => s
      | .restore => s
    (s.modCtx c fun k => { k with busy := false, cmd := .none }).interrupt k.vec

/-- CONTEXT_COMMAND_COMPLETE. -/
def execContextCommandComplete (c : Nat) (s : State) : Out := .next (s.commandComplete c)

/-! ### Waves of a context that is DESTROYING (R405) -/

/-- QUIESCENCE_WAVE: messages that have reached a context that is DESTROYING are removed first. -/
def State.wave (s : State) (c : Nat) : State :=
  let s := if (s.ctx c).st = .destroying ∧ (s.ctx c).waiting = [] ∧ (s.ctx c).delivers then
      (s.ctx c).cores.foldl (fun s x => s.purgeCore x) s
    else s
  s.quiescenceWave c

/-- QUIESCENCE_WAVE. -/
def execQuiescenceWave (c : Nat) (s : State) : Out := .next (s.wave c)

end Sys2Proof.Machine
end

