-- ==== Sys2Proof/Machine/System.lean ====
section
/-! DEFINITION. System registers, software traps and RESUME (R108, R133, R157, R172, R209, R391, R409,
R415 to R420). -/

namespace Sys2Proof.Machine

/-! ### Reading a system register (R415 to R417) -/

/-- PLACE of a kernel record (R391). -/
def Ctx.placeWord (k : Ctx) : Word :=
  BitVec.ofNat 64 (k.x0.toNat + k.y0.toNat * 2 ^ 5 + k.w1k.toNat * 2 ^ 10 + k.h1.toNat * 2 ^ 15)

/-- A context register (R415); a field that the register does not have reads 0. -/
def Ctx.sysReg (k : Ctx) (c : Nat) (r : Nat) : Word :=
  match r with
  | 0x031 => k.placeWord
  | 0x032 => BitVec.ofNat 64 (c % 256)
  | 0x040 => k.rngkey0
  | 0x041 => k.rngkey1
  | 0x100 => k.agelim.setWidth 64
  | 0x101 => k.fcore.setWidth 64
  | 0x102 => k.savebase &&& 0xFFFFFFE00000
  | 0x103 => k.keyslot &&& 0x7F07FF
  | 0x104 => k.spbase &&& 0xFFFFFFE0001F
  | 0x105 => k.frbase &&& 0xFFFFFFFFF01F
  | 0x106 => countWord 0 k.frhead
  | 0x107 => countWord k.frlost k.frtail
  | 0x108 => k.udbase &&& 0xFFFFFFFFF01F
  | 0x109 => countWord 0 k.udhead
  | 0x10A => countWord k.udlost k.udtail
  | 0x10B => k.evbase &&& 0xFFFFFFFFF01F
  | 0x10C => countWord 0 k.evhead
  | 0x10D => countWord k.evlost k.evtail
  | _ => 0

/-- System register `r` as the issuing strand reads it (R415). -/
def State.sysReg (s : State) (r : Nat) : Word :=
  let st := s.me
  match r with
  | 0x000 => statusWord st
  | 0x001 => st.cause.setWidth 64
  | 0x002 => st.epc
  | 0x003 => st.badva
  | 0x010 => st.slim
  | 0x011 => st.sbase
  | 0x012 => st.lc
  | 0x013 => st.ls
  | 0x014 => st.le
  | 0x020 => fpctlWord st
  | 0x021 => st.flags.setWidth 64
  | 0x030 => BitVec.ofNat 64 s.cur
  | 0x033 => s.time
  | 0x034 => s.weightWord s.cur
  | 0x035 => st.hidx.setWidth 64
  | 0x036 => st.msgsrc.setWidth 64
  | 0x037 => st.jc0.setWidth 64
  | 0x038 => st.jc1.setWidth 64
  | 0x042 => st.rngctr
  | 0x043 => st.rngstream
  | _ => (s.ctx s.myCtx).sysReg s.myCtx r

/-- Whether an earlier floating-point instruction of the strand is incomplete: a request of its present
run is in the special-function queue (R124, R201). -/
def State.fpBusy (s : State) : Bool :=
  (s.core s.myCore).sfq.any fun e => e.strand == s.cur && e.run == s.me.run

/-- Whether an access to register `r` is held for floating-point serialisation (R124, R133). -/
def State.fpHeld (s : State) (r : Nat) : Bool := (r == 0x020 || r == 0x021) && s.fpBusy

/-- SYSR (R417); an unassigned number is no instruction (R108). -/
def execSysr (d : GReg) (r : BitVec 12) (s : State) : Out :=
  .next (s.issue (.sysr d r) { g := [d] } fun s =>
    if sysAccess r = none then .trap .illegalInstruction (wordOf (.sysr d r))
    else if s.fpHeld r.toNat then .hold .fpSerial
    else s.putG d (s.sysReg r.toNat))

/-! ### Writing a system register (R418) -/

/-- STATUS written: STEP takes bit 15, and a 1 in bit 8 clears RSMD (R416, R418). -/
def Strand.writeStatus (st : Strand) (v : Word) : Strand :=
  { st with stepMode := v.getLsbD 15, rsmd := st.rsmd && !v.getLsbD 8 }

/-- A strand register written; LS and LE keep bits [47:2] of the operand (R157), FPCTL and FPFLAGS
their fields (R131, R132). -/
def Strand.writeSys (st : Strand) (r : Nat) (v : Word) : Strand :=
  match r with
  | 0x000 => st.writeStatus v
  | 0x010 => { st with slim := v }
  | 0x011 => { st with sbase := v }
  | 0x012 => { st with lc := v }
  | 0x013 => { st with ls := v &&& 0xFFFFFFFFFFFC }
  | 0x014 => { st with le := v &&& 0xFFFFFFFFFFFC }
  | 0x020 => { st with rm := v.setWidth 2, fz := v.getLsbD 2 }
  | 0x021 => { st with flags := v.setWidth 5 }
  | 0x042 => { st with rngctr := v }
  | 0x043 => { st with rngstream := v }
  | _ => st

/-- A context register written (R209, R409, R418). -/
def Ctx.writeSys (k : Ctx) (r : Nat) (v : Word) : Ctx :=
  match r with
  | 0x040 => { k with rngkey0 := (v.setWidth 32).setWidth 64 }
  | 0x041 => { k with rngkey1 := (v.setWidth 32).setWidth 64 }
  | 0x106 => { k with frhead := headWrite k.frhead k.frtail v }
  | 0x109 => { k with udhead := headWrite k.udhead k.udtail v }
  | 0x10C => { k with evhead := headWrite k.evhead k.evtail v }
  | _ => k

/-- Whether a register is one of the HEADs. -/
def isHead (r : Nat) : Bool := r == 0x106 || r == 0x109 || r == 0x10C
/-- Whether a writable register belongs to the context (R415). -/
def isCtxReg (r : Nat) : Bool := r == 0x040 || r == 0x041 || isHead r

/-- Whether an earlier load of the issuing strand has not returned (R418). -/
def State.loadsOut (s : State) : Bool := (s.outstanding s.cur).any fun a => a.kind.returns

/-- SYSW (R418): the write of LC replaces the loop-back's (R157). -/
def execSysw (a : GReg) (r : BitVec 12) (s : State) : Out :=
  .next (s.issue (.sysw a r) { g := [a] } fun s =>
    let v := readG s.me a
    let k := r.toNat
    if sysAccess r ≠ some true then .trap .illegalInstruction (wordOf (.sysw a r))
    else if s.fpHeld k then .hold .fpSerial
    else if isHead k && s.loadsOut then .hold .operand
    else if isCtxReg k then .go (s.modCtx s.myCtx fun x => x.writeSys k v)
    else if k = 0x012 then .goLc (s.modMe fun st => st.writeSys k v)
    else .go (s.modMe fun st => st.writeSys k v))

/-! ### TRAP, BRK (R419) -/

/-- TRAP (R419). -/
def execTrap (c : BitVec 12) (s : State) : Out :=
  .next (s.issue (.trap c) {} fun s => .stop s .userTrap (c.setWidth 64))
/-- BRK (R419). -/
def execBrk (c : BitVec 12) (s : State) : Out :=
  .next (s.issue (.brk c) {} fun s => .stop s .breakpoint (c.setWidth 64))

/-! ### RESUME (R82, R420) -/

/-- Whether strand `n` lies on a tile of the placement of context `c`. -/
def State.strandPlaced (s : State) (c n : Nat) : Bool :=
  !isGateway n && (s.ctx c).delivers && (s.ctx c).covers (tileOf n)

/-- RESUME (R420): a control packet to the strand's core, released after the strand's earlier accesses. -/
def execResume (a : GReg) (s : State) : Out :=
  .next (s.issue (.resume a) { g := [a] } fun s =>
    let v := readG s.me a
    let n := v.toNat % 2 ^ 15
    if !s.strandPlaced s.myCtx n then .trap .illegalCombination v
    else
      s.injecting true (.go ((s.source s.myCtx).inject s.myTile (tileOf n) true s.myCtx (s.releaseSet s.cur)
        (.resume v s.myCtx))))

end Sys2Proof.Machine
end

