-- ==== Sys2Proof/Machine/Page.lean ====
section
/-! DEFINITION. PROBE, invalidation of translations, leases at the borrower and the lender, and refresh
management (R57 to R60, R88, R171, R429, R431, R433 to R439). -/

namespace Sys2Proof.Machine

/-! ### PROBE (R431, R438) -/

/-- Codes of the page states. -/
def pageAbsent : Nat := 0
/-- STATE of a byte of the scratchpad. -/
def pageScratch : Nat := 5
/-- STATE of a byte outside the map or the placement. -/
def pageOutside : Nat := 6

/-- STATE of a page that a walk finds (R431); a POISONED page is no other. -/
def State.pageState (s : State) (l : Leaf) : Nat :=
  if l.pois then 4
  else if l.tier = 1 then (if (s.borrower l.lease).st = .active then 2 else 3)
  else 1

/-- The attribute word of a page. -/
def State.pageWord (s : State) (l : Leaf) : Word :=
  BitVec.ofNat 64 (s.pageState l + l.r.toNat * 2 ^ 17 + l.w.toNat * 2 ^ 18 + l.x.toNat * 2 ^ 19 +
    l.tier * 2 ^ 20 + l.gran * 2 ^ 22 + l.region.toNat * 2 ^ 24 + l.enc.toNat * 2 ^ 25 + l.key * 2 ^ 26 +
    l.lease * 2 ^ 32)

/-- What PROBE finds: the address word, none where the manual gives a byte no window address, and
the attribute word. -/
def State.probeAt (s : State) (c core va : Nat) : Option Word × Word :=
  if (r58 va).isSome then (some 0, BitVec.ofNat 64 pageOutside)
  else
    match windowOf va with
    | some (w, _) =>
      if s.inPlacement c w then (some (BitVec.ofNat 64 va), BitVec.ofNat 64 pageScratch)
      else (some 0, BitVec.ofNat 64 pageOutside)
    | none =>
      match aliasOf va with
      | some off =>
        if !isGatewayCore core then
          (some (BitVec.ofNat 64 (0x700000000000 + core / 8 * 0x400000 + off)), BitVec.ofNat 64 pageScratch)
        else if off < 0x100000 then (none, BitVec.ofNat 64 pageScratch)
        else (some 0, BitVec.ofNat 64 pageOutside)
      | none =>
        match s.walk c va with
        | none => (some 0, BitVec.ofNat 64 pageAbsent)
        | some l => (some (BitVec.ofNat 64 l.val), s.pageWord l)

/-- PROBE (R438): its result is pending as a load's is; it is the translation at its issue. -/
def execProbe (d a : GReg) (s : State) : Out :=
  .next (s.issue (.probe d a) { g := a.val :: run d.val 2 } fun s =>
    let (v, w) := s.probeAt s.myCtx s.myCore (readG s.me a).toNat
    let s' := if v.isNone then { s with nextId := s.nextId + 1 } else s
    let v := v.getD (Config.freeWord s.nextId)
    let d' : GReg := Fin.ofNat 32 (d.val + 1)
    let id := s'.nextId
    let a : Access := { s'.accessOf (readG s.me a) 8 (.probe v w) (.mem 0 none) false (.g d 8 false) with
      id := id, grp := id, status := .done [] }
    let owed := [{ id := id, g := some d, lc := s.me.lc : Pend }, { id := id, g := some d', lc := s.me.lc }]
    .go (({ s'.source s.myCtx with nextId := id + 1, acc := s'.acc ++ [a] } : State).modMe fun st =>
      { st with pend := st.pend ++ owed }))

/-! ### Invalidation (R429) -/

/-- The fields of TINV that are kept; GO reads 0. -/
def tinvMask : Word := 0xFF00FFFFFFFF0006

/-- TINV: a write of the register, which starts an invalidation if GO is written 1; ignored while BUSY. -/
def execTinv (v : Word) (s : State) : Out :=
  .next (if !s.windows || s.tinvBusy then s
    else { s with tinv := v &&& tinvMask, tinvBusy := v.getLsbD 0 })

/-- Whether an address lies in the range that TINV covers. -/
def tinvCovers (v : Word) (ctx va : Nat) : Bool :=
  let a := v.toNat / 2 ^ 16 % 2 ^ 32
  ctx == v.toNat / 2 ^ 56 &&
    (match v.toNat / 2 % 4 with
      | 0 => va / 2 ^ 16 == a
      | 1 => va / 2 ^ 21 == a / 2 ^ 5
      | 2 => va / 2 ^ 30 == a / 2 ^ 14
      | _ => true)

/-- Whether an access translated under a covered entry is still on its way. -/
def State.tinvWaits (s : State) : Bool :=
  s.acc.any fun a => a.status.open && (windowOf a.va.toNat).isNone && (aliasOf a.va.toNat).isNone &&
    tinvCovers s.tinv a.ctx a.va.toNat

/-- INVALIDATION_COMPLETE: BUSY clears. No unit of this model holds a translation beyond the step
that walks it. -/
def execInvalidationComplete (s : State) : Out :=
  .next (if s.tinvBusy && !s.tinvWaits then { s with tinvBusy := false } else s)

/-! ### Leases (R433 to R435) -/

/-- Entries of a lease table. -/
def leaseCount : Nat := 4096
/-- Clocks a side waits for the other (R435). -/
def leaseWait : Nat := 2 ^ 20

/-- LEASE_OFFER: the lender's software writes STATE = 1. -/
def execLeaseOffer (i : Nat) (s : State) : Out :=
  .next (if !s.windows || decide (leaseCount ≤ i) then s
    else s.modLender i fun l => if l.st = .revoked then { l with st := .offered } else l)

/-- LEASE_GRANT: the borrower's software writes STATE = 2; the activation request goes to PEER. -/
def execLeaseGrant (i : Nat) (s : State) : Out :=
  .next (if !s.windows || decide (leaseCount ≤ i) then s
    else
      let b := s.borrower i
      if b.st ≠ .revoked then s
      else { s.modBorrower i fun b => { b with st := .granted, since := s.time.toNat } with
        sent := s.sent ++ [.activation b.peer.toNat b.lidx.toNat b.size.toNat] })

/-- LEASE_ACTIVATION: a request with SIZE `size` arrives from accelerator `peer`; the answer carries BASE. -/
def execLeaseActivation (i peer size : Nat) (s : State) : Out :=
  let l := s.lender i
  let ok := decide (l.st = .offered ∧ l.peer.toNat = peer ∧ size ≤ l.size.toNat)
  .next { s.modLender i fun l => if ok then { l with st := .active } else l with
    sent := s.sent ++ [.activated peer i (if ok then some l.base.toNat else none)] }

/-- LEASE_ANSWER: the lender's answer to an activation request. -/
def execLeaseAnswer (i : Nat) (ok : Bool) (base : Nat) (s : State) : Out :=
  .next (s.modBorrower i fun b =>
    if b.st ≠ .granted then b
    else if ok then { b with st := .active, lbase := BitVec.ofNat 19 base }
    else { b with st := .revoked })

/-- LEASE_ACTIVATION_TIMEOUT. -/
def execLeaseActivationTimeout (i : Nat) (s : State) : Out :=
  .next (s.modBorrower i fun b =>
    if b.st = .granted ∧ b.since + leaseWait ≤ s.time.toNat then { b with st := .revoked } else b)

/-- An ACTIVE entry of one side becomes REVOKING. -/
def State.revoking (s : State) (side : LeaseSide) (i : Nat) : State :=
  match side with
  | .lender => s.modLender i fun l => { l with st := .revoking, since := s.time.toNat }
  | .borrower => s.modBorrower i fun b => { b with st := .revoking, since := s.time.toNat }

/-- The state of an entry of one side. -/
def State.leaseState (s : State) (side : LeaseSide) (i : Nat) : LeaseState :=
  match side with
  | .lender => (s.lender i).st
  | .borrower => (s.borrower i).st

/-- LEASE_REVOKE: software writes STATE = 4; a notice goes to the other side. -/
def execLeaseRevoke (side : LeaseSide) (i : Nat) (s : State) : Out :=
  .next (if !s.windows || decide (leaseCount ≤ i) || s.leaseState side i != .active then s
    else { s.revoking side i with notices := s.notices ++ [(side, i)] })

/-- REVOCATION_NOTICE: the other side's notice arrives at entry `i` of `side`. -/
def execRevocationNotice (side : LeaseSide) (i : Nat) (s : State) : Out :=
  .next (if s.leaseState side i = .active then s.revoking side i else s)

/-- Whether an access sent under a borrowed lease is unanswered and younger than 2^20 clocks. -/
def State.leaseBusy (s : State) (i : Nat) : Bool :=
  s.acc.any fun a => a.status.open && decide (s.time.toNat < a.sentAt + leaseWait) &&
    (match a.target with
      | .lease k _ _ => k == i
      | .mem _ _ => false)

/-- BORROWER_REVOKED: the borrower's entry is over, and the acknowledgement is sent. -/
def execBorrowerRevoked (i : Nat) (s : State) : Out :=
  let b := s.borrower i
  .next (if b.st = .revoking ∧ !s.leaseBusy i then
      { s.modBorrower i fun b => { b with st := .revoked } with
        sent := s.sent ++ [.acknowledgement b.peer.toNat b.lidx.toNat] }
    else s)

/-- LENDER_REVOKED; `ack` says that the acknowledgement has arrived. -/
def execLenderRevoked (i : Nat) (ack : Bool) (s : State) : Out :=
  .next (s.modLender i fun l =>
    if l.st = .revoking ∧ l.adm = 0 ∧ (ack ∨ l.since + leaseWait ≤ s.time.toNat) then
      { l with st := .revoked }
    else l)

/-! ### Access by a peer (R436) -/

/-- The verdict on a request when it is admitted. -/
inductive Admission where
  | revoked
  | permission
  | admitted (pa : Nat)
  deriving DecidableEq, Repr

/-- Whether the permission bits of a lender entry allow an operation (R433). -/
def Lender.allows (l : Lender) : PeerOp → Bool
  | .read _ => l.r
  | .write _ => l.w
  | .atomic _ _ _ _ => l.w
  | .barrier _ _ _ => l.w

/-- The check of a request at the lender. -/
def State.admission (s : State) (i peer off : Nat) (op : PeerOp) : Admission :=
  let l := s.lender i
  if l.st ≠ .active ∨ l.peer.toNat ≠ peer then .revoked
  else if l.size.toNat * 0x200000 ≤ off ∨ !l.allows op then .permission
  else .admitted (l.base.toNat * 0x200000 + off)

/-- A barrier operation that a peer requests: 0 BINIT, 1 an arrival, 2 BDROP, 3 BTEST, 4 BBYTE (R267). -/
def peerBarrier (op : Nat) (x y : Word) : BarrierOp :=
  match op with
  | 0 => .init (x.setWidth 16) (y.setWidth 32)
  | 1 => .arrive x false
  | 2 => .arrive x true
  | 3 => .test (x.getLsbD 0)
  | _ => .bytes x

/-- An admitted request performed whole at its home, with its answer; the lender applies no key (R437). -/
def State.peerPerform (s : State) (pa : Nat) (op : PeerOp) : State × PeerAnswer :=
  match op with
  | .read n => if s.poisoned pa n then (s, .poison) else (s, .data (s.readRaw pa n))
  | .write bs => if s.partlyPoisoned pa bs.length then (s, .poison) else (s.storeAt pa none bs, .data [])
  | .atomic k wide x y =>
    let n := if wide then 8 else 4
    if s.poisoned pa n then (s, .poison)
    else
      let old := s.readRaw pa n
      match atomicNew k (8 * n) (leNat old) (x.toNat % 2 ^ (8 * n)) (y.toNat % 2 ^ (8 * n)) with
      | some v => (s.storeAt pa none (leBytes n v), .data old)
      | none => (s, .data old)
  | .barrier k x y =>
    if s.poisoned pa 32 then (s, .poison)
    else
      match s.barrierAt none pa none (peerBarrier k x y) with
      | (s, some r) => (s, .data (leBytes 8 r))
      | (s, none) => (s, .overrun)

/-- LEASE_ACCESS: a request of accelerator `peer` for offset `off` of lender entry `i`; it is answered, and a refused one
performs nothing. -/
def execLeaseAccess (i peer off : Nat) (op : PeerOp) (s : State) : Out :=
  let (s', a) := match s.admission i peer off op with
    | .revoked => (s, PeerAnswer.revoked)
    | .permission => (s, .permission)
    | .admitted pa => s.peerPerform pa op
  .next { s' with sent := s'.sent ++ [.answer peer i a] }

/-! ### Refresh management (R439) -/

/-- LEVEL of RFMCTL of a stack. -/
def State.rfmLevel (s : State) (k : Nat) : Nat := ((s.spinel k).rfmLevel.getD (Config.rfmLevel k)).toNat

/-- HOLD of RFMCTL of a stack. -/
def State.rfmHold (s : State) (k : Nat) : Nat := ((s.spinel k).rfmHold.getD (Config.rfmHold k)).toNat

/-- The count of a bank after `n` more activations: at HOLD further ones wait, and a count that has reached LEVEL is
lowered by LEVEL with the command (R439). -/
def rfmCount (en : Bool) (level hold old n : Nat) : Nat :=
  if !en then old + n
  else
    let c := min (old + n) (max old hold)
    if level ≤ c then c - level else c

/-- REFRESH_MANAGEMENT: the activations of a bank since the step before are counted, and the command is issued if the
count has reached LEVEL. Which accesses activate which bank is not stated: their number is a free choice. -/
def execRefreshManagement (stack bank : Nat) (s : State) : Out :=
  .next (if 16 ≤ stack then s
    else
      let x := s.spinel stack
      let n := rfmCount x.rfmEn (s.rfmLevel stack) (s.rfmHold stack) (x.acts.get 0 bank) (Config.freeChoice s.nextId)
      { s with nextId := s.nextId + 1 }.modSpinel stack fun x => { x with acts := x.acts.set bank n })

end Sys2Proof.Machine
end

