-- ==== Sys2Proof/Machine/Link.lean ====
section
/-! DEFINITION. Links: flits with retry, training, failure and retirement, the link log, and fatal
errors (R440 to R443, R445, R446, R448, R449, R466). Links 0 to 3,071 are torus ports (4 t + port), 3,072
to 3,087 UALink ports, 3,088 the PCI Express port. -/

namespace Sys2Proof.Machine

/-- Whether a link number is a torus port's. -/
def isTorus (l : Nat) : Bool := decide (l < 3072)
/-- Whether a link number names a link. -/
def isLink (l : Nat) : Bool := decide (l ≤ 3088)
/-- Lanes of a link at full width (R446). -/
def fullWidth (l : Nat) : Nat := if l = 3088 then 16 else 4

/-- The other end of a torus link. -/
def partnerPort (l : Nat) : Nat := 4 * neighbour (l / 4) (l % 4) + (l % 4 + 2) % 4
/-- The registers that name one link: both ends of a torus link. -/
def endsOf (l : Nat) : List Nat := if isTorus l then [l, partnerPort l] else [l]

/-- Codes of link states (R448). -/
def LinkState.code : LinkState → Nat
  | .down => 0 | .training => 1 | .up => 2 | .degraded => 3 | .retired => 4

/-! ### Fatal errors and the link log (R466) -/

/-- A fatal error: FATAL, STATE and the interrupt. -/
def State.fatal (s : State) (code : Nat) : State :=
  { s with mgmt := { s.mgmt with st := .fatal, fatal := BitVec.ofNat 8 code } }.interrupt s.mgmt.vec

/-- FATAL_ERROR. -/
def execFatalError (code : Nat) (s : State) : Out := .next (s.fatal code)

/-- A link state change logged. -/
def State.logLink (s : State) (l : Nat) (st : LinkState) : State :=
  { s with mgmt :=
      { s.mgmt with logCount := s.mgmt.logCount + 1, logNew := BitVec.ofNat 3 st.code,
                    logLink := BitVec.ofNat 12 l } }.interrupt s.mgmt.vec

/-- A link in a new state with `lanes` active lanes: both directions change, flits not acknowledged are
kept and will be sent again (R446), and a torus link DOWN is fatal. -/
def State.setLink (s : State) (l : Nat) (st : LinkState) (lanes : Nat) : State :=
  let s := (endsOf l).foldl (fun s e => s.modLink e fun k =>
    { k with st := st, width := BitVec.ofNat 5 lanes, since := s.time.toNat, nak := none, repeats := 0 }) s
  let s := s.logLink l st
  if isTorus l && st == .down then s.fatal 1 else s

/-! ### Flits and retry (R441) -/

/-- Whether a link carries flits. -/
def Link.carries (k : Link) : Bool := k.st == .up || k.st == .degraded

/-- A count field that stays at its largest value. -/
def satInc {n : Nat} (x : BitVec n) : BitVec n := if x = BitVec.allOnes n then x else x + 1

/-- A packet whose last flit has crossed link `l`: it is at the next router, and goes on from there. Its
place among the packets of its stream is kept (R214). -/
def State.hop (s : State) (l pid : Nat) : State :=
  match s.net.find? fun p => p.id == pid with
  | none => s
  | some p =>
    let q := { p with pos := neighbour (l / 4) (l % 4), moving := false }
    ({ s with net := s.net.map fun x => if x.id = pid then q else x } : State).sendOn q

/-- A flit as it is sent: 64 bytes of data and the sideband with FIRST, LAST, LSEQ and the CRC, as one number (R440). -/
def Flit.wire (f : Flit) (seq : BitVec 8) : Nat :=
  let hi := f.last.toNat * 2 ^ 25 + f.first.toNat * 2 ^ 24 + seq.toNat * 2 ^ 16
  leNat f.data + (hi + flitCrc (f.data.map BitVec.toNat) hi) * 2 ^ 512

/-- The check of a received flit: its CRC, and LSEQ as the receiver expects it (R441). -/
def flitGood (wire : Nat) (expect : BitVec 8) : Bool :=
  let side := wire / 2 ^ 512
  side % 2 ^ 16 == flitCrc (natBytes 64 (wire % 2 ^ 512)) side && side / 2 ^ 16 % 2 ^ 8 == expect.toNat

/-- A good flit taken in order; the acknowledgement goes back with the next flit or idle flit of the other way. -/
def State.flitTaken (s : State) (l : Nat) (f : Flit) : State :=
  let s := s.modLink l fun k => { k with taken := k.taken + 1, expect := k.expect + 1, repeats := 0 }
  if f.last then s.hop l f.pid else s

/-- The acknowledgement of the flits taken reaches the sender, which drops them from its retry buffer. -/
def Link.acknowledged (k : Link) : Link :=
  { k with flits := k.flits.drop k.taken, lseq := k.lseq + BitVec.ofNat 8 k.taken, taken := 0 }

/-- A flit that failed its check: it and every later one are discarded, and a negative acknowledgement
names the expected LSEQ. The count is kept at the receiving end. -/
def State.flitBad (s : State) (l : Nat) : State :=
  (s.modLink l fun k => { k with nak := some k.expect }).modLink ((endsOf l).getLastD l) fun k =>
    { k with crcerr := satInc k.crcerr }

/-- FLIT_RECEIVE: the next flit of link `l` reaches its receiver with the bits of `noise` changed on the way. An
error that the CRC misses changes nothing of the packet here (assumption log 86). A port's beats have their own check,
which finds every change (R449, R450). -/
def execFlitReceive (l noise : Nat) (s : State) : Out :=
  .next (let k := s.link l
    if !isLink l || !k.carries || k.nak.isSome then s
    else
      match k.flits.drop k.taken with
      | f :: _ =>
        if flitGood (f.wire (k.lseq + BitVec.ofNat 8 k.taken) ^^^ noise) k.expect then s.flitTaken l f else s.flitBad l
      | [] =>
        if isTorus l then s
        else if noise = 0 then s.modLink l fun k => { k with repeats := 0 }
        else s.flitBad l)

/-- Consecutive retries of one flit that count as a lane failure (R445). -/
def retryLimit : Nat := 8

/-- LINK_NAK: the negative acknowledgement arrives, and the sender sends again from the named LSEQ; the
eighth retry in a row of one flit is a lane failure. -/
def execLinkNak (l : Nat) (s : State) : Out :=
  .next (let k := s.link l
    if k.nak.isNone then s
    else
      let s := s.modLink l fun k =>
        { k.acknowledged with nak := none, retry := satInc k.retry, repeats := k.repeats + 1 }
      if k.st = .up ∧ retryLimit ≤ k.repeats + 1 then s.setLink l .training 0 else s)

/-! ### States (R445) -/

/-- Lanes a port can run with: a UALink port falls back to 2 or 1 (R449). -/
def usableLanes (l lanes : Nat) : Nat :=
  if 3072 ≤ l ∧ l < 3088 ∧ lanes = 3 then 2 else min lanes (fullWidth l)

/-- LINK_TRAINED: training ends with `lanes` lanes. -/
def execLinkTrained (l lanes : Nat) (s : State) : Out :=
  .next (if !isLink l || (s.link l).st != .training || lanes == 0 then s
    else
      let n := usableLanes l lanes
      s.setLink l (if n = fullWidth l then .up else .degraded) n)

/-- Clocks after which training is given up. -/
def trainWait : Nat := 2 ^ 20

/-- TRAINING_TIMEOUT. -/
def execTrainingTimeout (l : Nat) (s : State) : Out :=
  .next (let k := s.link l
    if !isLink l || k.st != .training || decide (s.time.toNat < k.since + trainWait) then s
    else s.setLink l .down 0)

/-- LANE_FAILURE: a lane of a link that is UP loses lock. -/
def execLaneFailure (l : Nat) (s : State) : Out :=
  .next (if isLink l && (s.link l).st == .up then s.setLink l .training 0 else s)

/-- PARTNER_LOST, on a UALink or PCI Express port. -/
def execPartnerLost (l : Nat) (s : State) : Out :=
  .next (if !isLink l || isTorus l || (s.link l).st == .down then s else s.setLink l .down 0)

/-- LINK_RETRAIN: software writes 1 to STATE. -/
def execLinkRetrain (l : Nat) (s : State) : Out :=
  .next (if !s.windows || !isLink l || (s.link l).st == .training then s else s.setLink l .training 0)

/-- Whether a port may be retired from a state. -/
def LinkState.retires : LinkState → Bool
  | .up => true | .degraded => true | .down => true | .training => false | .retired => false

/-- LINK_RETIRE: software writes 4 to STATE of a UALink or PCI Express port. -/
def execLinkRetire (l : Nat) (s : State) : Out :=
  .next (if !s.windows || !isLink l || isTorus l || !(s.link l).st.retires then s else s.setLink l .retired 0)

end Sys2Proof.Machine
end

