-- ==== Sys2Proof/Machine/Gateway.lean ====
section
/-! DEFINITION. Gateway cores: their start, RESTART, and the assignment ring (R451 to R455). -/

namespace Sys2Proof.Machine

/-! ### Starting and discarding strands (R452) -/

/-- The global core numbers of the gateway cores of a die. -/
def gatewayCores (i : Nat) : List Nat := (List.range 16).map fun k => 6144 + 16 * i + k

/-- SBASE of strand slot `k` of a gateway core, an address of the own-tile alias. -/
def gatewayBase (k : Nat) : Word := BitVec.ofNat 64 (0x7F0000100000 - k * 0x40000)

/-- A gateway strand at its start: budget 32, g4 the gateway core, g5 the strand slot, the rest as a
dispatched strand has it (R87). -/
def Strand.gatewayStart (st : Strand) (core k : Nat) (entry : Word) : Strand :=
  let sb := gatewayBase k
  { run := st.run + 1, phase := .running, code := 3,
    g := ((((Vector.replicate 32 0).set 2 sb).set 4 (BitVec.ofNat 64 core)).set 5 (BitVec.ofNat 64 k)),
    sbase := sb, slim := sb - 0x40000, pc := (entry.setWidth 48) &&& ~~~3#48, level := 0 }

/-- A gateway strand discarded. -/
def State.gatewayDrop (s : State) (n : Nat) : State :=
  s.modStrand n fun st => { st.idled with taken := [] }

/-- Every strand of a gateway core discarded and started again at GWENTRY. -/
def State.gatewayRun (s : State) (core : Nat) : State :=
  let e := (s.gateway (dieOfGateway (gatewayNo core))).entry
  (List.range 4).foldl (fun s k =>
    s.modStrand (4 * core + k) fun st => st.gatewayStart (gatewayNo core) k e) s

/-- GATEWAY_ENABLE: ENABLE goes from 0 to 1. -/
def execGatewayEnable (i : Nat) (s : State) : Out :=
  .next (if !s.windows || decide (2 ≤ i) || (s.gateway i).enable then s
    else (gatewayCores i).foldl (fun s c => s.gatewayRun c) (s.modGateway i fun g => { g with enable := true }))

/-- GATEWAY_DISABLE: ENABLE is cleared, and every gateway strand of the die is discarded. -/
def execGatewayDisable (i : Nat) (s : State) : Out :=
  .next (if !s.windows || decide (2 ≤ i) || !(s.gateway i).enable then s
    else
      (gatewayCores i).foldl (fun s c =>
        (List.range 4).foldl (fun s k => s.gatewayDrop (4 * c + k)) s)
        (s.modGateway i fun g => { g with enable := false }))

/-- GATEWAY_RESTART: bits of RESTART written 1. -/
def execGatewayRestart (i : Nat) (mask : BitVec 16) (s : State) : Out :=
  .next (if !s.windows || decide (2 ≤ i) || !(s.gateway i).enable then s
    else ((List.range 16).filter fun k => mask.getLsbD k).foldl (fun s k => s.gatewayRun (6144 + 16 * i + k)) s)

/-! ### The assignment ring (R453 to R455) -/

/-- Blocks a gateway core may hold. -/
def takenMax : Nat := 16

/-- Blocks taken by the strands of a core and not retired. -/
def State.takenCount (s : State) (core : Nat) : Nat :=
  ((List.range 4).map fun k => (s.strand (4 * core + k)).taken.length).sum

/-- Address of the descriptor GWQHEAD names. -/
def Gateway.headAddr (g : Gateway) : Word :=
  BitVec.ofNat 64 (g.qbase.toNat / 4096 % 2 ^ 36 * 4096 + 64 * (g.head.toNat % 2 ^ g.szlog2.toNat))

/-- Bytes read at a checked target: what leased memory holds comes from outside. -/
def State.peek (s : State) (t : Target) (off n : Nat) : State × List Byte :=
  match t with
  | .mem pa key => (s, s.readPlain (pa + off) key n)
  | .lease _ _ _ => s.freeBytes n

/-- Whether a checked target holds poison. -/
def State.badTarget (s : State) (t : Target) (n : Nat) (p : Bool) : Bool :=
  p || (match t with
    | .mem pa _ => s.poisoned pa n
    | .lease _ _ _ => false)

/-- A POISON found on the descriptor, as of a load of the instruction (R163). -/
def State.descPoison (s : State) (ea : Word) : State :=
  { s with nextId := s.nextId + 1 }.raise s.cur
    { cause := .poison, ord := s.nextId, deferred := true, epc := pcWord s.me, badva := ea }

/-- GWTAKE (R454). -/
def execGwtake (d : GReg) (s : State) : Out :=
  .next (s.issue (.gwtake d) { g := [d] } fun s =>
    if !isGateway s.cur then .trap .illegalInstruction (wordOf (.gwtake d))
    else
      let i := dieOfGateway (gatewayNo s.myCore)
      let g := s.gateway i
      let ea := g.headAddr
      if !g.enable || decide (takenMax ≤ s.takenCount s.myCore) then .hold .jobWait
      else
        match s.checkAccess s.cur ea 8 8 needR with
        | .bad c b => .trap c b
        | .ok t p =>
          if s.badTarget t 8 p then .wait (s.descPoison ea) .jobWait
          else
            let (s', bs) := s.peek t 0 8
            if leNat bs % 2 = 0 then .wait s' .jobWait
            else
              s.putGAnd ((s'.modGateway i fun g => { g with head := g.head + 1 }).modMe fun st =>
                { st with taken := ea :: st.taken }) d ea)

/-- The counter increment of a descriptor with CEN = 1 (R239, R453, R455). -/
def State.gwCount (s : State) (w6 w7 : Nat) : State :=
  if w6 / 2 ^ 63 % 2 = 0 then s
  else
    (s.countSent s.cur).sendCount s.myTile (s.releaseSet s.cur) (s.strandHdr s.cur { rels := true })
      (BitVec.ofNat 64 (w6 % 2 ^ 25)) (BitVec.ofNat 32 w7)

/-- GWDONE (R455). -/
def execGwdone (a : GReg) (s : State) : Out :=
  .next (s.issue (.gwdone a) { g := [a] } fun s =>
    let ea := readG s.me a
    if !isGateway s.cur then .trap .illegalInstruction (wordOf (.gwdone a))
    else if !s.me.taken.contains ea then .trap .illegalCombination ea
    else if s.fenceWaits s.cur .release .domain then .hold .fence
    else
      match s.checkAccess s.cur ea 64 8 { r := true, w := true } with
      | .bad c b => .trap c b
      | .ok t p =>
        if s.badTarget t 64 p then .wait (s.descPoison ea) .jobWait
        else
          let (s, bs) := s.peek t 48 16
          let s := s.gwCount (fieldAt bs 0 8) (fieldAt bs 8 8)
          .go ((s.issueGroup [s.accessOf ea 8 (.store (leBytes 8 0)) t false .none] none).modMe fun st =>
            { st with taken := st.taken.erase ea }))

end Sys2Proof.Machine
end

