-- ==== Sys2Proof/Machine/Device.lean ====
section
/-! DEFINITION. Resets and boot, the management window, firmware update, power, attestation, plain register
writes of the host, and soft errors (R3, R17, R83, R163, R331, R374, R439, R457, R459 to R468). -/

namespace Sys2Proof.Machine

/-! ### Firmware image (R460, R463) -/

/-- The firmware image in the flash. -/
def Mgmt.image (m : Mgmt) : List Byte := m.flash.getD Config.factoryImage

/-- Bytes of host memory. -/
def State.hostRead (s : State) (bus n : Nat) : List Byte := s.readRaw (hostAddr bus) n
/-- Bytes written to host memory. -/
def State.hostWrite (s : State) (bus : Nat) (bs : List Byte) : State := s.writeRaw (hostAddr bus) bs

/-! ### The saved layout (R465) -/

/-- Magic number of a saved layout. -/
def layoutMagic : Nat := 0x51534C4C
/-- Version of the layouts that this firmware writes and knows. -/
def layoutVersion : Nat := 1

/-- Registers of a queue in the layout, 64 bytes. -/
def HostQ.layoutBytes (k : HostQ) : List Byte :=
  leBytes 8 k.qbase.toNat ++ leBytes 8 k.qcfg.toNat ++ leBytes 8 k.tail.toNat ++ leBytes 8 k.head.toNat ++
    leBytes 8 k.qstat.toNat ++ List.replicate 24 0

/-- The 36,928 bytes of the saved layout. -/
def State.layoutBytes (s : State) : List Byte :=
  leBytes 64 (layoutMagic + layoutVersion * 2 ^ 32 + 64 * 2 ^ 40) ++
  ((List.range 64).flatMap fun q => (s.queue q).layoutBytes) ++
  ((List.range 256).flatMap fun c => (List.range 16).flatMap fun i => leBytes 8 ((s.ctx c).word i).toNat)

/-- The state of a queue restored from its QSTAT (R465). -/
def HostQ.restoredState (k : HostQ) (code : Nat) : QueueState :=
  if code = 4 then .error
  else if !k.enable then .stopped
  else if k.avail = 0 then .idle else .running

/-- A queue restored from the 64 bytes of the layout. -/
def HostQ.ofLayout (bs : List Byte) : HostQ :=
  let cfg := fieldAt bs 8 8
  let st := fieldAt bs 32 8
  let k : HostQ :=
    { qbase := BitVec.ofNat 64 (fieldAt bs 0 8), ctx := BitVec.ofNat 8 (cfg / 2 ^ 40),
      szlog2 := BitVec.ofNat 4 (cfg / 2 ^ 32), vec := BitVec.ofNat 16 (cfg / 2 ^ 16), loc := cfg / 2 % 2 == 1,
      enable := cfg % 2 == 1, tail := BitVec.ofNat 16 (fieldAt bs 16 8),
      head := BitVec.ofNat 16 (fieldAt bs 24 8), erridx := BitVec.ofNat 16 (st / 2 ^ 16),
      errcode := BitVec.ofNat 8 (st / 2 ^ 8) }
  { k with st := k.restoredState (st % 8) }

/-- A context restored from its descriptor: no kernel is left, so one that was not FREE is CREATED. -/
def Ctx.ofLayout (bs : List Byte) : Ctx :=
  let w0 := fieldAt bs 0 8
  let k := (List.range 16).foldl (fun (k : Ctx) i => k.writeWord i (BitVec.ofNat 64 (fieldAt bs (8 * i) 8))) {}
  let low := fun i => BitVec.ofNat 32 (fieldAt bs (8 * i) 8)
  { k with frhead := low 7, udhead := low 10, evhead := low 13,
           err := BitVec.ofNat 8 (w0 / 2 ^ 32), flt := w0 / 8 % 2 == 1,
           st := if w0 % 8 = 0 then .free else .created }

/-- The queues and contexts restored from the layout at `bus`; none if its version is higher than this
firmware's. -/
def State.restoreLayout (s : State) (bus : Nat) : Option State :=
  let head := s.hostRead bus 64
  if layoutVersion < fieldAt head 4 1 then none
  else
    let s := (List.range 64).foldl (fun (s : State) q =>
      s.modQueue q fun _ => HostQ.ofLayout (s.hostRead (bus + 64 + 64 * q) 64)) s
    some ((List.range 256).foldl (fun (s : State) c =>
      s.setCtx c (Ctx.ofLayout (s.hostRead (bus + 4160 + 128 * c) 128))) s)

/-! ### Resets (R459) -/

/-- What a reset leaves: what lies outside the module, the fuses and the flash; the schedule, the counter
of free values and the interrupts already sent are the model's own. -/
def State.cleared (s : State) (keepHbm : Bool) : State :=
  let keep := fun (pa : Nat) => isHost pa || (keepHbm && isHbm pa)
  { mem := s.mem.filter fun e => keep e.1, poison := s.poison.filter keep, soft := s.soft.filter keep,
    nextId := s.nextId, fuses := s.fuses, msix := s.msix, notices := s.notices, sent := s.sent, agenda := s.agenda,
    mgmt := { flash := s.mgmt.flash } }

/-- The lanes with which a link trains at boot: all of them, if it is not one of `lanes`; a torus link is named by
either of its ends. -/
def bootLanes (lanes : List (Nat × Nat)) (l : Nat) : Nat :=
  let named := fun (e : Nat × Nat) => e.1 == l || (isTorus l && e.1 == partnerPort l)
  ((lanes.find? named).map fun e => min e.2 (fullWidth l)).getD (fullWidth l)

/-- A link that has trained with `n` lanes (R445). -/
def trainedLink (l n : Nat) : Link :=
  if n = 0 then {} else { st := if n = fullWidth l then .up else .degraded, width := BitVec.ofNat 5 n }

/-- The links at boot (R445, R460 step 3): every link goes from DOWN to TRAINING, and the torus links have trained with
the lanes of `lanes`. -/
def trainedLinks (lanes : List (Nat × Nat)) : SMap Link :=
  ((List.range 3072).map fun l => (l, trainedLink l (bootLanes lanes l))) ++
    (List.range 17).map fun p => (3072 + p, { st := .training })

/-- Torus links, each by the lower number of its two ends. -/
def torusLinks : List Nat := (List.range 3072).filter fun l => decide (l ≤ partnerPort l)

/-- The link log after the training at boot (R463, R466): 1,553 links have gone to TRAINING and the 1,536 torus links
have left it, one after another in the order of their numbers (assumption log 89), and each change has sent
MGMTVEC. -/
def State.logTraining (s : State) (lanes : List (Nat × Nat)) : State :=
  let l := torusLinks.getLastD 0
  { s with
    mgmt := { s.mgmt with
      logCount := BitVec.ofNat 32 (2 * torusLinks.length + 17),
      logNew := BitVec.ofNat 3 (trainedLink l (bootLanes lanes l)).st.code, logLink := BitVec.ofNat 12 l },
    msix := s.msix ++ List.replicate (2 * torusLinks.length + 17) s.mgmt.vec }

/-- The parts of the defective tiles that are powered down hold nothing; the router and its passing stage stay in
service (R17, R460 step 4). -/
def State.powerDown (s : State) : State :=
  let on := fun (t : Nat) => !s.fuses.contains t
  let lit := fun (pa : Nat) => match sliceOf pa with
    | some (t, _) => on t
    | none => true
  { s with
    mem := s.mem.filter fun e => lit e.1, poison := s.poison.filter lit, soft := s.soft.filter lit,
    strands := s.strands.filter fun e => isGateway e.1 || on (tileOf e.1),
    cores := s.cores.filter fun e => isGatewayCore e.1 || on (tileOfCore e.1),
    tiles := s.tiles.map fun e => if on e.1 then e else (e.1, { groups := e.2.groups, rounds := e.2.rounds, seqs := e.2.seqs }) }

/-- The firmware state after the checks of R460: RECOVERY, FATAL with its code, or READY. -/
def State.booted (s : State) (stacksOk : Bool) (lanes : List (Nat × Nat)) : State :=
  let s := { s with mgmt := { s.mgmt with ver := Config.firmwareVersion s.mgmt.image } }
  if !Config.firmwareAccepts s.mgmt.image then { s with mgmt := { s.mgmt with st := .recovery } }
  else if !stacksOk then s.fatal 3
  else
    let s := ({ s with links := trainedLinks lanes } : State).logTraining lanes
    if torusLinks.any fun l => bootLanes lanes l == 0 then s.fatal 1
    else
      let s := s.powerDown
      { s with mgmt := { s.mgmt with st := .ready } }

/-- COLD_RESET: everything is cleared, and the boot sequence runs. -/
def execColdReset (stacksOk : Bool) (lanes : List (Nat × Nat)) (s : State) : Out :=
  .next ((s.cleared false).booted stacksOk lanes)

/-! ### UPDATE (R464) -/

/-- The result of a management command. -/
def State.mgmtResult (s : State) (err : Nat) : State :=
  { s with mgmt := { s.mgmt with err := BitVec.ofNat 8 err, updating := false } }.interrupt s.mgmt.vec

/-- The image that UPDATE names. -/
def State.updateImage (s : State) : List Byte := s.hostRead s.mgmt.arg0.toNat s.mgmt.arg1.toNat

/-- Whether every packet that has started has completed. -/
def State.packetsDone (s : State) : Bool := s.queues.all fun e => e.2.started.isEmpty

/-- Steps 3 and 4 of UPDATE, once the started packets have completed. -/
def State.updateGoes (s : State) : State :=
  if !s.packetsDone then s
  else if s.ctxs.any fun e => e.2.kst != .free then s.mgmtResult 3
  else
    let image := s.updateImage
    let s := s.hostWrite s.mgmt.arg2.toNat s.layoutBytes
    { s with mgmt := { s.mgmt with st := .updating, updating := false, flash := some image,
                                   layout := some s.mgmt.arg2 } }

/-- Steps 1 and 2 of UPDATE: refused while a command runs; the image is checked, and packets stop starting. -/
def State.startUpdate (s : State) : State :=
  if s.mgmt.updating then { s with mgmt := { s.mgmt with err := 1 } }
  else if s.mgmt.arg2.toNat % 4096 ≠ 0 then s.mgmtResult 4
  else if !Config.firmwareAccepts s.updateImage then s.mgmtResult 2
  else ({ s with mgmt := { s.mgmt with updating := true } } : State).updateGoes

/-- UPDATE. -/
def execUpdate (s : State) : Out :=
  .next (match s.mgmt.st with
    | .booting => s
    | .updating => s
    | .fatal => s
    | .ready => s.startUpdate
    | .recovery => s.startUpdate)

/-- The reset itself: HBM contents, the saved layout and the link to the host are kept. -/
def State.firmwareReset (s : State) (stacksOk : Bool) (lanes : List (Nat × Nat)) : State :=
  let host := s.link 3088
  let r := (s.cleared true).booted stacksOk lanes
  let r := if r.mgmt.st = .recovery then r else r.modLink 3088 fun _ => host
  match r.mgmt.st, s.mgmt.layout with
  | .ready, some a =>
    match r.restoreLayout a.toNat with
    | some r => { r with mgmt := { r.mgmt with layout := some a } }
    | none => { r with mgmt := { r.mgmt with st := .recovery } }
  | _, _ => r

/-- FIRMWARE_RESET: an accepted UPDATE goes on, and in UPDATING the reset is performed. -/
def execFirmwareReset (stacksOk : Bool) (lanes : List (Nat × Nat)) (s : State) : Out :=
  .next (if s.mgmt.st = .updating then s.firmwareReset stacksOk lanes
    else if s.mgmt.updating then s.updateGoes
    else s)

/-! ### ATTEST (R468) -/

/-- The 96 bytes of the tile map (R462). -/
def tileMap (fuses : List Nat) : List Byte :=
  (List.range 96).map fun i => BitVec.ofNat 8 (((List.range 8).map fun j =>
    if fuses.contains (8 * i + j) then 2 ^ j else 0).sum)

/-- SHA3-512 of bytes. -/
def digest (bs : List Byte) : List Byte := (sha3_512 (bs.map BitVec.toNat)).map (BitVec.ofNat 8)

/-- The report over a nonce. -/
def State.report (s : State) (nonce : List Byte) : List Byte :=
  let body := nonce ++ digest s.mgmt.image ++ digest (tileMap s.fuses) ++ digest (Config.capabilityList s.fuses)
  body ++ padTo 2592 (Config.identityKey.take 2592) ++ padTo 4627 ((Config.identitySign (digest body)).take 4627)

/-- ATTEST. -/
def execAttest (s : State) : Out :=
  .next (if s.mgmt.st ≠ .ready then s
    else if s.mgmt.updating then { s with mgmt := { s.mgmt with err := 1 } }
    else
      (s.hostWrite s.mgmt.arg1.toNat (s.report (s.hostRead s.mgmt.arg0.toNat 64))).mgmtResult 0)

/-! ### Power (R467) -/

/-- The allowance after a period, before temperatures: lowered by 4, raised by 1, or kept, in 8..64. -/
def nextThr (thr capw watts peak : Nat) : Nat :=
  if capw < watts ∨ 12000 < peak then max 8 (thr - 4)
  else if watts + 200 < capw then min 64 (thr + 1)
  else thr

/-- POWER_PERIOD: the means of the last 1 ms, the largest current in it, and the temperatures in 1/16 °C. -/
def execPowerPeriod (watts amps peak : Nat) (temps : List Nat) (s : State) : Out :=
  .next (if s.mgmt.st = .booting then s
    else
      let thr := nextThr s.mgmt.thr.toNat s.mgmt.capw.toNat watts peak
      let thr := if temps.any fun t => decide (105 * 16 < t) then 8 else thr
      let s := { s with mgmt :=
        { s.mgmt with thr := BitVec.ofNat 7 thr, watt := BitVec.ofNat 13 watts, amps := BitVec.ofNat 16 amps,
                      temps := temps.map (BitVec.ofNat 16) } }
      if temps.any fun t => decide (115 * 16 < t) then s.fatal 4 else s)

/-! ### Plain register writes (R3) -/

/-- Whether the management window answers (R460, R464). -/
def State.mgmtWindow (s : State) : Bool := s.windows || s.mgmt.st == .recovery

/-- A lender entry written; its fields are open in REVOKED (R433). -/
def Lender.write (l : Lender) (w : Nat) (v : Word) : Lender :=
  let n := v.toNat
  if l.st ≠ .revoked then l
  else if w = 0 then
    { l with peer := BitVec.ofNat 10 (n / 2 ^ 51), w := n / 2 ^ 50 % 2 == 1, r := n / 2 ^ 49 % 2 == 1 }
  else { l with size := BitVec.ofNat 20 (n / 2 ^ 44), base := BitVec.ofNat 19 (n / 2 ^ 21) }

/-- A borrower entry written; its fields are open in REVOKED (R434). -/
def Borrower.write (b : Borrower) (w : Nat) (v : Word) : Borrower :=
  let n := v.toNat
  if b.st ≠ .revoked then b
  else if w = 0 then
    { b with peer := BitVec.ofNat 10 (n / 2 ^ 51), lidx := BitVec.ofNat 12 (n / 2 ^ 39),
             port := BitVec.ofNat 4 (n / 2 ^ 35), altport := BitVec.ofNat 4 (n / 2 ^ 31) }
  else { b with size := BitVec.ofNat 20 (n / 2 ^ 44) }

/-- RFMCTL written: LEVEL = 0 and HOLD < LEVEL are ignored (R439). -/
def Spinel.writeRfm (x : Spinel) (v : Word) : Spinel :=
  let level := v.toNat % 65536
  let hold := v.toNat / 65536 % 65536
  if level = 0 ∨ hold < level then x
  else { x with rfmEn := v.getLsbD 32, rfmHold := some (BitVec.ofNat 16 hold), rfmLevel := some (BitVec.ofNat 16 level) }

/-- LSTAT written: the two counts clear where a 1 is written (R448). -/
def Link.writeStat (k : Link) (v : Word) : Link :=
  { k with crcerr := k.crcerr &&& ~~~(BitVec.ofNat 32 (v.toNat / 2 ^ 32)),
           retry := k.retry &&& ~~~(BitVec.ofNat 16 (v.toNat / 2 ^ 16)) }

/-- A gateway register written; open while ENABLE = 0 (R452). -/
def Gateway.write (g : Gateway) (f : Gateway → Gateway) : Gateway := if g.enable then g else f g

/-- A management register written (R463). -/
def State.mgmtWrite (s : State) (f : Mgmt → Mgmt) : State :=
  if s.mgmtWindow then { s with mgmt := f s.mgmt } else s

/-- FWARG0 to FWARG2. -/
def Mgmt.writeArg (m : Mgmt) (k : Nat) (v : Word) : Mgmt :=
  match k with
  | 0 => { m with arg0 := v }
  | 1 => { m with arg1 := v }
  | 2 => { m with arg2 := v }
  | _ => m

/-- Where a register lies: the record of the capability list that names its window, and the offset in it (R260, R281,
R282, R387, R396, R430, R433, R434, R439, R448, R452, R462, R463). A router table's unit is its tile, the domain table's
is 768. Level words have no window, and host memory is none. -/
def HostReg.place : HostReg → Option (Nat × Nat)
  | .qbase q => some (3, 0x40 * q)
  | .qcfg q => some (3, 0x40 * q + 0x08)
  | .qhead q => some (3, 0x40 * q + 0x18)
  | .groupWord u gid w => some (4, 0x10000 * u + 16 * gid + 8 * w)
  | .kernelPartner c => some (5, 32 * c + 0x10)
  | .ctxWord c w => some (6, 128 * c + 8 * w)
  | .lenderWord i w => some (8, 16 * i + 8 * w)
  | .borrowerWord i w => some (8, 0x10000 + 16 * i + 8 * w)
  | .tsrBase i => some (9, 0x10 + 0x40 * i)
  | .tsrHead i => some (9, 0x18 + 0x40 * i)
  | .tsrVec i => some (9, 0x30 + 0x40 * i)
  | .rfmctl k => some (10, 8 * k)
  | .lstat l => some (11, 8 * l)
  | .gwctl i => some (12, 0x40 * i)
  | .gwqbase i => some (12, 0x40 * i + 0x08)
  | .gwentry i => some (12, 0x40 * i + 0x10)
  | .fwarg k => some (13, 0x10 + 8 * k)
  | .mgmtvec => some (13, 0x28)
  | .pwrcap => some (13, 0x30)
  | .levelWord _ _ => none
  | .hostMem _ => none

/-- A register of a window written, where the window answers. -/
def State.windowWrite (s : State) (r : HostReg) (v : Word) : State :=
  let n := v.toNat
  match r with
  | .qbase q => if 64 ≤ q then s else s.modQueue q fun k => if k.enable then k else { k with qbase := v }
  | .qcfg q => if 64 ≤ q then s else s.modQueue q fun k => k.writeCfg v
  | .qhead q => if 64 ≤ q then s
    else s.modQueue q fun k => if k.st = .stopped then { k with head := BitVec.ofNat 16 n, condAt := none } else k
  | .ctxWord c w => if 256 ≤ c then s else s.modCtx c fun k => k.writeWord w v
  | .kernelPartner c => if 256 ≤ c then s
    else s.modCtx c fun k => { k with partner := BitVec.ofNat 8 n, pvalid := v.getLsbD 8 }
  | .groupWord u gid w => s.writeGroup u gid w v
  | .lenderWord i w => if leaseCount ≤ i then s else s.modLender i fun l => l.write w v
  | .borrowerWord i w => if leaseCount ≤ i then s else s.modBorrower i fun b => b.write w v
  | .tsrBase i => if 2 ≤ i then s else (s.modTsr i fun t => { t with base := v &&& 0xFFFFFFFFFFFFF0F0 }).flushTsr i
  | .tsrHead i => if 2 ≤ i then s else (s.modTsr i fun t => { t with head := BitVec.ofNat 64 n }).flushTsr i
  | .tsrVec i => if 2 ≤ i then s else s.modTsr i fun t => { t with vec := BitVec.ofNat 16 n }
  | .rfmctl k => if 16 ≤ k then s else s.modSpinel k fun x => x.writeRfm v
  | .lstat l => if isLink l then s.modLink l fun k => k.writeStat v else s
  | .gwctl i => if 2 ≤ i then s
    else s.modGateway i fun g => g.write fun g =>
      { g with ctx := BitVec.ofNat 8 (n / 2 ^ 40), szlog2 := BitVec.ofNat 4 (n / 2 ^ 32) }
  | .gwqbase i => if 2 ≤ i then s else s.modGateway i fun g => g.write fun g => { g with qbase := v &&& 0xFFFFFFFFF000 }
  | .gwentry i => if 2 ≤ i then s else s.modGateway i fun g => g.write fun g => { g with entry := v &&& ~~~3#64 }
  | .levelWord core l =>
    if (s.core core).frozen then ((s.modLevel core l fun x => x.ofWord n).recordLevels core).levelFaults (core / 8) else s
  | .fwarg _ => s
  | .mgmtvec => s
  | .pwrcap => s
  | .hostMem _ => s

/-- REGISTER_WRITE: a plain field of a register, or 8 bytes of host memory, written by the host. -/
def execRegisterWrite (r : HostReg) (v : Word) (s : State) : Out :=
  .next (match r with
    | .fwarg k => s.mgmtWrite fun m => m.writeArg k v
    | .mgmtvec => s.mgmtWrite fun m => { m with vec := v.setWidth 16 }
    | .pwrcap => s.mgmtWrite fun m =>
      if 1000 ≤ v.toNat % 2 ^ 13 ∧ v.toNat % 2 ^ 13 ≤ 6000 then { m with capw := v.setWidth 13 } else m
    | .hostMem bus => s.hostWrite bus (leBytes 8 v.toNat)
    | r => if s.windows then s.windowWrite r v else s)

/-! ### Soft errors (R83, R331, R374, R457) -/

/-- The unit at a place struck: a correctable error is corrected when it is next read, any other poisons. -/
def State.strike (s : State) (pa : Nat) (fixed : Bool) : State :=
  let u := pa / 8 * 8
  if fixed then (if s.soft.contains u || s.poison.contains u then s else { s with soft := u :: s.soft })
  else { s.poisonUnits [u] with soft := s.soft.filter (· != u) }

/-- SOFT_ERROR: accumulators hold parity only, so an error there cannot be corrected (R331); one in a loop
slot's state faults the loop (R374). -/
def execSoftError (site : SoftSite) (fixed : Bool) (s : State) : Out :=
  .next (match site with
    | .slice t off => if 768 ≤ t ∨ 0x2F0800 ≤ off then s else s.strike (sliceAddr t off) fixed
    | .buffer k off => if 32 ≤ k ∨ 0x100000 ≤ off then s else s.strike (bufferAddr k off) fixed
    | .hbm pa => if isHbm pa then s.strike pa fixed else s
    | .accumulator t slot i j =>
      if 768 ≤ t ∨ 4 ≤ slot ∨ 128 ≤ i ∨ 128 ≤ j then s
      else s.modTile t fun x =>
        let a := x.slots.get {} slot
        { x with slots := x.slots.set slot { a with parity := (128 * i + j) :: a.parity.filter (· != 128 * i + j) } }
    | .loopSlot t k => if fixed then s else s.faultLoop t k)

end Sys2Proof.Machine
end

