-- ==== Sys2Proof/Machine/Dispatch.lean ====
section
/-! DEFINITION. One arm per instruction and step of the opcode table. -/

namespace Sys2Proof.Machine

/-- The meaning of an instruction or step. -/
def exec (i : Instr) (s : State) : Host.Outcome State Fault Refusal :=
  match i with
  | .add d a b => Sys2Proof.Machine.execAdd d a b s
  | .sub d a b => Sys2Proof.Machine.execSub d a b s
  | .and d a b => Sys2Proof.Machine.execAnd d a b s
  | .or d a b => Sys2Proof.Machine.execOr d a b s
  | .xor d a b => Sys2Proof.Machine.execXor d a b s
  | .andn d a b => Sys2Proof.Machine.execAndn d a b s
  | .shl d a b => Sys2Proof.Machine.execShl d a b s
  | .shr d a b => Sys2Proof.Machine.execShr d a b s
  | .sar d a b => Sys2Proof.Machine.execSar d a b s
  | .ror d a b => Sys2Proof.Machine.execRor d a b s
  | .min d a b => Sys2Proof.Machine.execMin d a b s
  | .max d a b => Sys2Proof.Machine.execMax d a b s
  | .minu d a b => Sys2Proof.Machine.execMinu d a b s
  | .maxu d a b => Sys2Proof.Machine.execMaxu d a b s
  | .slt d a b => Sys2Proof.Machine.execSlt d a b s
  | .sltu d a b => Sys2Proof.Machine.execSltu d a b s
  | .seq d a b => Sys2Proof.Machine.execSeq d a b s
  | .mul d a b => Sys2Proof.Machine.execMul d a b s
  | .mulh d a b => Sys2Proof.Machine.execMulh d a b s
  | .mulhu d a b => Sys2Proof.Machine.execMulhu d a b s
  | .div d a b => Sys2Proof.Machine.execDiv d a b s
  | .divu d a b => Sys2Proof.Machine.execDivu d a b s
  | .rem d a b => Sys2Proof.Machine.execRem d a b s
  | .remu d a b => Sys2Proof.Machine.execRemu d a b s
  | .clz d a => Sys2Proof.Machine.execClz d a s
  | .ctz d a => Sys2Proof.Machine.execCtz d a s
  | .popc d a => Sys2Proof.Machine.execPopc d a s
  | .sel d a b p => Sys2Proof.Machine.execSel d a b p s
  | .addi d a im => Sys2Proof.Machine.execAddi d a im s
  | .andi d a im => Sys2Proof.Machine.execAndi d a im s
  | .ori d a im => Sys2Proof.Machine.execOri d a im s
  | .xori d a im => Sys2Proof.Machine.execXori d a im s
  | .slti d a im => Sys2Proof.Machine.execSlti d a im s
  | .sltiu d a im => Sys2Proof.Machine.execSltiu d a im s
  | .shli d a sf => Sys2Proof.Machine.execShli d a sf s
  | .shri d a sf => Sys2Proof.Machine.execShri d a sf s
  | .sari d a sf => Sys2Proof.Machine.execSari d a sf s
  | .rori d a sf => Sys2Proof.Machine.execRori d a sf s
  | .insh d h im => Sys2Proof.Machine.execInsh d h im s
  | .aupc d im => Sys2Proof.Machine.execAupc d im s
  | .bfx d a p w => Sys2Proof.Machine.execBfx d a p w s
  | .bfxu d a p w => Sys2Proof.Machine.execBfxu d a p w s
  | .bfi d a p w => Sys2Proof.Machine.execBfi d a p w s
  | .pcmp d a b c => Sys2Proof.Machine.execPcmp d a b c s
  | .pcmpi d a im c j => Sys2Proof.Machine.execPcmpi d a im c j s
  | .pand d a b => Sys2Proof.Machine.execPand d a b s
  | .por d a b => Sys2Proof.Machine.execPor d a b s
  | .pxor d a b => Sys2Proof.Machine.execPxor d a b s
  | .pnot d a => Sys2Proof.Machine.execPnot d a s
  | .psave d => Sys2Proof.Machine.execPsave d s
  | .pload a => Sys2Proof.Machine.execPload a s
  | .pmov d a => Sys2Proof.Machine.execPmov d a s
  | .fadd d a b => Sys2Proof.Machine.execFadd d a b s
  | .fsub d a b => Sys2Proof.Machine.execFsub d a b s
  | .fmul d a b => Sys2Proof.Machine.execFmul d a b s
  | .ffma d a b => Sys2Proof.Machine.execFfma d a b s
  | .fmin d a b => Sys2Proof.Machine.execFmin d a b s
  | .fmax d a b => Sys2Proof.Machine.execFmax d a b s
  | .fneg d a => Sys2Proof.Machine.execFneg d a s
  | .fabs d a => Sys2Proof.Machine.execFabs d a s
  | .fcmp d a b c => Sys2Proof.Machine.execFcmp d a b c s
  | .fcvt d a sf t => Sys2Proof.Machine.execFcvt d a sf t s
  | .br o => Sys2Proof.Machine.execBr o s
  | .call o => Sys2Proof.Machine.execCall o s
  | .beq b a o => Sys2Proof.Machine.execBeq b a o s
  | .bne b a o => Sys2Proof.Machine.execBne b a o s
  | .blt b a o => Sys2Proof.Machine.execBlt b a o s
  | .bge b a o => Sys2Proof.Machine.execBge b a o s
  | .bltu b a o => Sys2Proof.Machine.execBltu b a o s
  | .bgeu b a o => Sys2Proof.Machine.execBgeu b a o s
  | .bp p sf o => Sys2Proof.Machine.execBp p sf o s
  | .jr a => Sys2Proof.Machine.execJr a s
  | .callr a => Sys2Proof.Machine.execCallr a s
  | .ret => Sys2Proof.Machine.execRet s
  | .loop a im => Sys2Proof.Machine.execLoop a im s
  | .ldb d a im => Sys2Proof.Machine.execLdb d a im s
  | .ldh d a im => Sys2Proof.Machine.execLdh d a im s
  | .ldw d a im => Sys2Proof.Machine.execLdw d a im s
  | .ldd d a im => Sys2Proof.Machine.execLdd d a im s
  | .ldbu d a im => Sys2Proof.Machine.execLdbu d a im s
  | .ldhu d a im => Sys2Proof.Machine.execLdhu d a im s
  | .ldwu d a im => Sys2Proof.Machine.execLdwu d a im s
  | .stb b a im => Sys2Proof.Machine.execStb b a im s
  | .sth b a im => Sys2Proof.Machine.execSth b a im s
  | .stw b a im => Sys2Proof.Machine.execStw b a im s
  | .std b a im => Sys2Proof.Machine.execStd b a im s
  | .ldx d a b z sf => Sys2Proof.Machine.execLdx d a b z sf s
  | .stx d a b z sf => Sys2Proof.Machine.execStx d a b z sf s
  | .aadd d a b z => Sys2Proof.Machine.execAadd d a b z s
  | .aand d a b z => Sys2Proof.Machine.execAand d a b z s
  | .aor d a b z => Sys2Proof.Machine.execAor d a b z s
  | .axor d a b z => Sys2Proof.Machine.execAxor d a b z s
  | .amin d a b z => Sys2Proof.Machine.execAmin d a b z s
  | .amax d a b z => Sys2Proof.Machine.execAmax d a b z s
  | .aminu d a b z => Sys2Proof.Machine.execAminu d a b z s
  | .amaxu d a b z => Sys2Proof.Machine.execAmaxu d a b z s
  | .aswp d a b z => Sys2Proof.Machine.execAswp d a b z s
  | .acas d a b z => Sys2Proof.Machine.execAcas d a b z s
  | .afadd d a b => Sys2Proof.Machine.execAfadd d a b s
  | .fence k sf => Sys2Proof.Machine.execFence k sf s
  | .send d a b r => Sys2Proof.Machine.execSend d a b r s
  | .sendr d a b r => Sys2Proof.Machine.execSendr d a b r s
  | .sendl d a b r => Sys2Proof.Machine.execSendl d a b r s
  | .spawn a b c => Sys2Proof.Machine.execSpawn a b c s
  | .reply b => Sys2Proof.Machine.execReply b s
  | .mcast d a b r => Sys2Proof.Machine.execMcast d a b r s
  | .mcastl d a b l sf r => Sys2Proof.Machine.execMcastl d a b l sf r s
  | .gred a b t => Sys2Proof.Machine.execGred a b t s
  | .endH => Sys2Proof.Machine.execEndH s
  | .armw a b c => Sys2Proof.Machine.execArmw a b c s
  | .htset a b => Sys2Proof.Machine.execHtset a b s
  | .htclr a => Sys2Proof.Machine.execHtclr a s
  | .redlv d a b => Sys2Proof.Machine.execRedlv d a b s
  | .cnti a b k => Sys2Proof.Machine.execCnti a b k s
  | .cnta a b r => Sys2Proof.Machine.execCnta a b r s
  | .cntr d a c => Sys2Proof.Machine.execCntr d a c s
  | .binit a b => Sys2Proof.Machine.execBinit a b s
  | .barr d a => Sys2Proof.Machine.execBarr d a s
  | .barrb d a b => Sys2Proof.Machine.execBarrb d a b s
  | .bdrop d a => Sys2Proof.Machine.execBdrop d a s
  | .btest d a b => Sys2Proof.Machine.execBtest d a b s
  | .bwait d a b => Sys2Proof.Machine.execBwait d a b s
  | .bbyte a b => Sys2Proof.Machine.execBbyte a b s
  | .qpush a n => Sys2Proof.Machine.execQpush a n s
  | .qpop d n => Sys2Proof.Machine.execQpop d n s
  | .qcnt d n => Sys2Proof.Machine.execQcnt d n s
  | .qpeek d n => Sys2Proof.Machine.execQpeek d n s
  | .cpy d a b => Sys2Proof.Machine.execCpy d a b s
  | .cpy2 d a b => Sys2Proof.Machine.execCpy2 d a b s
  | .cpyq d a j c => Sys2Proof.Machine.execCpyq d a j c s
  | .cpyf d a b => Sys2Proof.Machine.execCpyf d a b s
  | .gath d a b w => Sys2Proof.Machine.execGath d a b w s
  | .scat d a b w => Sys2Proof.Machine.execScat d a b w s
  | .jpoll p a => Sys2Proof.Machine.execJpoll p a s
  | .jwait d a => Sys2Proof.Machine.execJwait d a s
  | .jwaitAll d => Sys2Proof.Machine.execJwaitAll d s
  | .jcwait d a u j => Sys2Proof.Machine.execJcwait d a u j s
  | .armj a b => Sys2Proof.Machine.execArmj a b s
  | .mma d a b z n => Sys2Proof.Machine.execMma d a b z n s
  | .mmag d a b z n => Sys2Proof.Machine.execMmag d a b z n s
  | .mst d a b sf f n => Sys2Proof.Machine.execMst d a b sf f n s
  | .mzr d c n => Sys2Proof.Machine.execMzr d c n s
  | .mzrSt d n => Sys2Proof.Machine.execMzrSt d n s
  | .mscl a b n => Sys2Proof.Machine.execMscl a b n s
  | .gload d a b => Sys2Proof.Machine.execGload d a b s
  | .gswap d => Sys2Proof.Machine.execGswap d s
  | .gswapKeep d => Sys2Proof.Machine.execGswapKeep d s
  | .gbind d a => Sys2Proof.Machine.execGbind d a s
  | .gdrain d => Sys2Proof.Machine.execGdrain d s
  | .gstat d x c => Sys2Proof.Machine.execGstat d x c s
  | .cplb a b => Sys2Proof.Machine.execCplb a b s
  | .cplr d a sf => Sys2Proof.Machine.execCplr d a sf s
  | .cplu a b r => Sys2Proof.Machine.execCplu a b r s
  | .wgt a => Sys2Proof.Machine.execWgt a s
  | .sysr d r => Sys2Proof.Machine.execSysr d r s
  | .sysw a r => Sys2Proof.Machine.execSysw a r s
  | .trap c => Sys2Proof.Machine.execTrap c s
  | .brk c => Sys2Proof.Machine.execBrk c s
  | .resume a => Sys2Proof.Machine.execResume a s
  | .probe d a => Sys2Proof.Machine.execProbe d a s
  | .gwtake d => Sys2Proof.Machine.execGwtake d s
  | .gwdone a => Sys2Proof.Machine.execGwdone a s
  | .vadd d a b m t sf => Sys2Proof.Machine.execVadd d a b m t sf s
  | .vsub d a b m t sf => Sys2Proof.Machine.execVsub d a b m t sf s
  | .vmul d a b m t sf => Sys2Proof.Machine.execVmul d a b m t sf s
  | .vfma d a b m t sf => Sys2Proof.Machine.execVfma d a b m t sf s
  | .vmin d a b m t u => Sys2Proof.Machine.execVmin d a b m t u s
  | .vmax d a b m t u => Sys2Proof.Machine.execVmax d a b m t u s
  | .vabs d a m t sf => Sys2Proof.Machine.execVabs d a m t sf s
  | .vneg d a m t sf => Sys2Proof.Machine.execVneg d a m t sf s
  | .vand d a b m t => Sys2Proof.Machine.execVand d a b m t s
  | .vor d a b m t => Sys2Proof.Machine.execVor d a b m t s
  | .vxor d a b m t => Sys2Proof.Machine.execVxor d a b m t s
  | .vshl d a b m t => Sys2Proof.Machine.execVshl d a b m t s
  | .vshr d a b m t => Sys2Proof.Machine.execVshr d a b m t s
  | .vsar d a b m t => Sys2Proof.Machine.execVsar d a b m t s
  | .vcmp d a b m t y c => Sys2Proof.Machine.execVcmp d a b m t y c s
  | .vsel d a b sf t => Sys2Proof.Machine.execVsel d a b sf t s
  | .vmov d a m t => Sys2Proof.Machine.execVmov d a m t s
  | .vbcast d a m t => Sys2Proof.Machine.execVbcast d a m t s
  | .vext d a b t u => Sys2Proof.Machine.execVext d a b t u s
  | .vins d a b t => Sys2Proof.Machine.execVins d a b t s
  | .mand d a b => Sys2Proof.Machine.execMand d a b s
  | .mor d a b => Sys2Proof.Machine.execMor d a b s
  | .mnot d a => Sys2Proof.Machine.execMnot d a s
  | .mpop d a => Sys2Proof.Machine.execMpop d a s
  | .vld d a m t => Sys2Proof.Machine.execVld d a m t s
  | .vst d a m t => Sys2Proof.Machine.execVst d a m t s
  | .vlds d a b m t => Sys2Proof.Machine.execVlds d a b m t s
  | .vgth d a b m t sf => Sys2Proof.Machine.execVgth d a b m t sf s
  | .vsct d a b m t sf => Sys2Proof.Machine.execVsct d a b m t sf s
  | .vqpush a m n => Sys2Proof.Machine.execVqpush a m n s
  | .vqpop d m t n => Sys2Proof.Machine.execVqpop d m t n s
  | .vcvt d a m t sf => Sys2Proof.Machine.execVcvt d a m t sf s
  | .vtorns d a m t => Sys2Proof.Machine.execVtorns d a m t s
  | .vfrns d a b m t p => Sys2Proof.Machine.execVfrns d a b m t p s
  | .vqnt d a b m t p => Sys2Proof.Machine.execVqnt d a b m t p s
  | .vaddq d a b m t k => Sys2Proof.Machine.execVaddq d a b m t k s
  | .vexp2 d a m t => Sys2Proof.Machine.execVexp2 d a m t s
  | .vlog2 d a m t => Sys2Proof.Machine.execVlog2 d a m t s
  | .vrcp d a m t => Sys2Proof.Machine.execVrcp d a m t s
  | .vrsq d a m t => Sys2Proof.Machine.execVrsq d a m t s
  | .vtanh d a m t => Sys2Proof.Machine.execVtanh d a m t s
  | .vsig d a m t => Sys2Proof.Machine.execVsig d a m t s
  | .vred d a m t u o => Sys2Proof.Machine.execVred d a m t u o s
  | .vshuf d a b m t => Sys2Proof.Machine.execVshuf d a b m t s
  | .vperm d a b m t => Sys2Proof.Machine.execVperm d a b m t s
  | .vtopk d a b m t x u => Sys2Proof.Machine.execVtopk d a b m t x u s
  | .vscan d a m t e u o => Sys2Proof.Machine.execVscan d a m t e u o s
  | .vrng d m t => Sys2Proof.Machine.execVrng d m t s
  | .rngseed a => Sys2Proof.Machine.execRngseed a s
  | .messageArrival k => Sys2Proof.Machine.execMessageArrival k s
  | .dispatch core => Sys2Proof.Machine.execDispatch core s
  | .replyArrival k => Sys2Proof.Machine.execReplyArrival k s
  | .counterIncrement k => Sys2Proof.Machine.execCounterIncrement k s
  | .accessRequest k => Sys2Proof.Machine.execAccessRequest k s
  | .accessReply k p => Sys2Proof.Machine.execAccessReply k p s
  | .barrierOperation k => Sys2Proof.Machine.execBarrierOperation k s
  | .barrierDeadlineCheck unit => Sys2Proof.Machine.execBarrierDeadlineCheck unit s
  | .captureComplete strand => Sys2Proof.Machine.execCaptureComplete strand s
  | .sfCompletion core => Sys2Proof.Machine.execSfCompletion core s
  | .refillRead core level => Sys2Proof.Machine.execRefillRead core level s
  | .refillLand core level => Sys2Proof.Machine.execRefillLand core level s
  | .coreFreeze k => Sys2Proof.Machine.execCoreFreeze k s
  | .coreUnfreeze k => Sys2Proof.Machine.execCoreUnfreeze k s
  | .resumePacket k => Sys2Proof.Machine.execResumePacket k s
  | .doorbell q v => Sys2Proof.Machine.execDoorbell q v s
  | .queueEnable q v => Sys2Proof.Machine.execQueueEnable q v s
  | .queueDisable q v => Sys2Proof.Machine.execQueueDisable q v s
  | .nop q => Sys2Proof.Machine.execNop q s
  | .launch q => Sys2Proof.Machine.execLaunch q s
  | .copy q => Sys2Proof.Machine.execCopy q s
  | .signal q => Sys2Proof.Machine.execSignal q s
  | .cond q => Sys2Proof.Machine.execCond q s
  | .condRetest q => Sys2Proof.Machine.execCondRetest q s
  | .packetComplete q k => Sys2Proof.Machine.execPacketComplete q k s
  | .placement c => Sys2Proof.Machine.execPlacement c s
  | .kernelLoaded c => Sys2Proof.Machine.execKernelLoaded c s
  | .quiescenceWave c => Sys2Proof.Machine.execQuiescenceWave c s
  | .retirementComplete c => Sys2Proof.Machine.execRetirementComplete c s
  | .kernelStop c => Sys2Proof.Machine.execKernelStop c s
  | .create c => Sys2Proof.Machine.execCreate c s
  | .preempt c => Sys2Proof.Machine.execPreempt c s
  | .unfreeze c => Sys2Proof.Machine.execUnfreeze c s
  | .vacate c => Sys2Proof.Machine.execVacate c s
  | .restore c => Sys2Proof.Machine.execRestore c s
  | .clearf c => Sys2Proof.Machine.execClearf c s
  | .destroy c => Sys2Proof.Machine.execDestroy c s
  | .contextCommandComplete c => Sys2Proof.Machine.execContextCommandComplete c s
  | .keyWrite slot key => Sys2Proof.Machine.execKeyWrite slot key s
  | .spinelPiece stack => Sys2Proof.Machine.execSpinelPiece stack s
  | .translationResponse unit v => Sys2Proof.Machine.execTranslationResponse unit v s
  | .jobStart core slot => Sys2Proof.Machine.execJobStart core slot s
  | .jobComplete core slot => Sys2Proof.Machine.execJobComplete core slot s
  | .completionPush core slot => Sys2Proof.Machine.execCompletionPush core slot s
  | .jobFree core slot => Sys2Proof.Machine.execJobFree core slot s
  | .arrayOperation tile => Sys2Proof.Machine.execArrayOperation tile s
  | .mmagOffer k => Sys2Proof.Machine.execMmagOffer k s
  | .mmagReoffer core slot => Sys2Proof.Machine.execMmagReoffer core slot s
  | .mmagStart k => Sys2Proof.Machine.execMmagStart k s
  | .mmagCredit k => Sys2Proof.Machine.execMmagCredit k s
  | .mmagStep k => Sys2Proof.Machine.execMmagStep k s
  | .mmagReport k => Sys2Proof.Machine.execMmagReport k s
  | .fabricAdvance tile => Sys2Proof.Machine.execFabricAdvance tile s
  | .graphDrainDone tile => Sys2Proof.Machine.execGraphDrainDone tile s
  | .chainEntry k => Sys2Proof.Machine.execChainEntry k s
  | .configError tile slot region double => Sys2Proof.Machine.execConfigError tile slot region double s
  | .graphReloadComplete tile slot => Sys2Proof.Machine.execGraphReloadComplete tile slot s
  | .signaturePass tile bad => Sys2Proof.Machine.execSignaturePass tile bad s
  | .loopSample tile slot => Sys2Proof.Machine.execLoopSample tile slot s
  | .loopFault tile slot => Sys2Proof.Machine.execLoopFault tile slot s
  | .rateCreditRefill tile => Sys2Proof.Machine.execRateCreditRefill tile s
  | .tinv v => Sys2Proof.Machine.execTinv v s
  | .invalidationComplete => Sys2Proof.Machine.execInvalidationComplete s
  | .leaseOffer im => Sys2Proof.Machine.execLeaseOffer im s
  | .leaseGrant im => Sys2Proof.Machine.execLeaseGrant im s
  | .leaseActivation im peer size => Sys2Proof.Machine.execLeaseActivation im peer size s
  | .leaseAnswer im ok base => Sys2Proof.Machine.execLeaseAnswer im ok base s
  | .leaseActivationTimeout im => Sys2Proof.Machine.execLeaseActivationTimeout im s
  | .leaseRevoke side im => Sys2Proof.Machine.execLeaseRevoke side im s
  | .revocationNotice side im => Sys2Proof.Machine.execRevocationNotice side im s
  | .borrowerRevoked im => Sys2Proof.Machine.execBorrowerRevoked im s
  | .lenderRevoked im ack => Sys2Proof.Machine.execLenderRevoked im ack s
  | .leaseAccess im peer off op => Sys2Proof.Machine.execLeaseAccess im peer off op s
  | .refreshManagement stack bank => Sys2Proof.Machine.execRefreshManagement stack bank s
  | .groupBuild unit gid => Sys2Proof.Machine.execGroupBuild unit gid s
  | .groupCommit unit gid => Sys2Proof.Machine.execGroupCommit unit gid s
  | .groupRevoke unit gid => Sys2Proof.Machine.execGroupRevoke unit gid s
  | .groupFreed unit gid => Sys2Proof.Machine.execGroupFreed unit gid s
  | .groupPacket k => Sys2Proof.Machine.execGroupPacket k s
  | .domainMulticast k => Sys2Proof.Machine.execDomainMulticast k s
  | .ualinkWriteAnswer m im peer code => Sys2Proof.Machine.execUalinkWriteAnswer m im peer code s
  | .multicastTimeout m im => Sys2Proof.Machine.execMulticastTimeout m im s
  | .flitReceive l noise => Sys2Proof.Machine.execFlitReceive l noise s
  | .linkNak l => Sys2Proof.Machine.execLinkNak l s
  | .linkTrained l lanes => Sys2Proof.Machine.execLinkTrained l lanes s
  | .trainingTimeout l => Sys2Proof.Machine.execTrainingTimeout l s
  | .laneFailure l => Sys2Proof.Machine.execLaneFailure l s
  | .partnerLost l => Sys2Proof.Machine.execPartnerLost l s
  | .linkRetrain l => Sys2Proof.Machine.execLinkRetrain l s
  | .linkRetire l => Sys2Proof.Machine.execLinkRetire l s
  | .portWaitTimeout k => Sys2Proof.Machine.execPortWaitTimeout k s
  | .gatewayEnable im => Sys2Proof.Machine.execGatewayEnable im s
  | .gatewayDisable im => Sys2Proof.Machine.execGatewayDisable im s
  | .gatewayRestart im mask => Sys2Proof.Machine.execGatewayRestart im mask s
  | .coldReset stacksOk lanes => Sys2Proof.Machine.execColdReset stacksOk lanes s
  | .firmwareReset stacksOk lanes => Sys2Proof.Machine.execFirmwareReset stacksOk lanes s
  | .update => Sys2Proof.Machine.execUpdate s
  | .attest => Sys2Proof.Machine.execAttest s
  | .powerPeriod watts amps peak temps => Sys2Proof.Machine.execPowerPeriod watts amps peak temps s
  | .fatalError code => Sys2Proof.Machine.execFatalError code s
  | .registerWrite r v => Sys2Proof.Machine.execRegisterWrite r v s
  | .softError site fixed => Sys2Proof.Machine.execSoftError site fixed s
  | .mmagAcceptance k => Sys2Proof.Machine.execMmagAcceptance k s
  | .chainBindRequest k => Sys2Proof.Machine.execChainBindRequest k s
  | .chainBindAnswer k => Sys2Proof.Machine.execChainBindAnswer k s
  | .chainCredit k => Sys2Proof.Machine.execChainCredit k s

end Sys2Proof.Machine
end

