-- ==== Sys2Proof/Machine/Schedule.lean ====
section
/-! DEFINITION. How the machine goes on: issue of a strand, selection in a core, the clock, and the order in
which the steps of the table happen when the schedule names none (R6, R120, R121, R126, R150, R368, R371,
R466, R467; assumption log 1). -/

namespace Sys2Proof.Machine

/-! ### Issue of one strand (R110, R150) -/

/-- The state of a step's outcome; a step that stops leaves the state as it was. -/
def outState (s : State) : Out → State
  | .next t => t
  | .fault _ => s
  | .refused _ => s

/-- Whether the code word of strand `n` is on its way from leased memory. -/
def State.codePending (s : State) (n : Nat) : Bool :=
  s.acc.any fun a => a.strand == n && a.run == (s.strand n).run && a.dest == .code

/-- A fetch from leased memory begun. -/
def State.fetchFar (s : State) (t : Target) : State :=
  if s.codePending s.cur then s
  else s.issueGroup [s.accessOf (pcWord s.me) 4 .load t false .code] none

/-- A fault of the fetch: POISON is a deferred fault, the others are raised at issue (R129, R150, R414). A result
that a later instruction must await comes first (R172). -/
def State.raiseFetch (s : State) (n : Nat) (c : Cause) (b : Word) : State :=
  if (s.strand n).barred then s.holdAt n .operand
  else if c = .poison then
    s.raise n { cause := c, ord := s.nextId, deferred := true, epc := pcWord (s.strand n), badva := b }
  else s.raiseAtIssue n c b

/-- Whether strand `n` has been dispatched too lately to issue (R123). -/
def State.early (s : State) (n : Nat) : Bool := s.time.ult (s.strand n).startAt

/-- The instruction at the program counter of the strand `cur`, considered for issue. -/
def State.issueHere (s : State) : Out :=
  if !s.me.phase.issues || s.early s.cur then .next s
  else
    match s.fetch s.cur with
    | .bad c b => .next (s.raiseFetch s.cur c b)
    | .far t => .next (s.fetchFar t)
    | .word w =>
      match decode w with
      | some i => exec i s
      | none => .next (s.raiseFetch s.cur .illegalInstruction (BitVec.ofNat 64 w))

/-- Strand `n` made the one that issues. -/
def State.at_ (s : State) (n : Nat) : State := { s with cur := n }

/-- Whether issue, dispatch and engines run at all (R466). -/
def State.alive (s : State) : Bool := s.mgmt.st != .fatal

/-- Whether issue is permitted in this clock (R467). -/
def State.permitted (s : State) : Bool := s.alive && decide (s.time.toNat % 64 < s.mgmt.thr.toNat)

/-- The issue of strand `n`. -/
def State.issueStrand (s : State) (n : Nat) : Out :=
  if s.permitted then (s.at_ n).issueHere else .next s

/-! ### Selection (R126, R467) -/

/-- Whether a phase is a stall. -/
def Phase.stalls : Phase → Bool
  | .stalled _ => true
  | .idle => false
  | .running => false
  | .faulted => false
  | .savedFault _ => false
  | .savedPre => false

/-- Whether strand `n` is ready: its next instruction would issue. -/
def State.ready (s : State) (n : Nat) : Bool :=
  (s.strand n).phase.issues && !s.early n &&
    (match (s.at_ n).fetch n with
      | .far _ => false
      | .bad _ _ => true
      | .word _ => !((outState s (s.issueStrand n)).strand n).phase.stalls)

/-- A strand that is not ready becomes STALLED, with what its instruction has begun; a ready one is RUNNING. -/
def State.settle (s : State) (n : Nat) : State :=
  if !(s.strand n).phase.issues || s.early n then s
  else if s.ready n then s.modStrand n fun st => { st with phase := .running }
  else outState s (s.issueStrand n)

/-- The credits after a rotation point (R126). -/
def State.rotate (s : State) (ready : List Nat) : State :=
  let need := fun n => (64 - (s.strand n).credit + (s.effWeight n - 1)) / max 1 (s.effWeight n)
  let k := ((ready.map need).min?).getD 0
  ready.foldl (fun s n => s.modStrand n fun st => { st with credit := st.credit + k * s.effWeight n }) s

/-- SelectIssue for a core: the strand chosen, and the state with credits and pointer. -/
def State.select (s : State) (core : Nat) (ready : List Nat) : State × Option Nat :=
  let rich := fun (s : State) => ready.filter fun n => decide (64 ≤ (s.strand n).credit)
  let s := if (rich s).isEmpty then s.rotate ready else s
  let p := (s.core core).ptr
  let order := (List.range 4).map fun i => 4 * core + (p + i) % 4
  match order.find? (rich s).contains with
  | none => (s, none)
  | some n =>
    ((s.modStrand n fun st => { st with credit := st.credit - 64 }).modCore core fun c =>
      { c with ptr := (slotOf n + 1) % 4 }, some n)

/-- The strand that a core selects in this clock, with its strands' phases settled. -/
def State.selected (s : State) (core : Nat) : State × Option Nat :=
  let ns := (List.range 4).map fun i => 4 * core + i
  let s := ns.foldl (fun s n => s.settle n) s
  s.select core (ns.filter fun n => s.ready n)

/-- One issue clock of a core. -/
def State.coreIssue (s : State) (core : Nat) : Out :=
  if !s.permitted then .next s
  else
    match s.selected core with
    | (s, some n) => s.issueStrand n
    | (s, none) => .next s

/-- Whether the next instruction of a strand takes an entry out of a queue register. -/
def State.popsNext (s : State) (n : Nat) : Bool :=
  match s.fetch n with
  | .word w => match decode w with
    | some (.qpop _ _) => true
    | some (.vqpop _ _ _ _) => true
    | _ => false
  | .far _ => false
  | .bad _ _ => false

/-- Whether a core takes an entry out of a queue register in this clock. -/
def State.corePops (s : State) (core : Nat) : Bool :=
  match (s.selected core).2 with
  | some n => s.popsNext n
  | none => false

/-- A fault that the core's instruction of this clock raises at issue; nothing else of it happens (R122). -/
def State.faultFirst (s : State) (core : Nat) : State :=
  if !s.permitted then s
  else
    match (s.selected core).2 with
    | some n =>
      let t := outState s (s.issueStrand n)
      if (t.strand n).phase = .faulted then t else s
    | none => s

/-! ### The clock (R6, R368, R371) -/

/-- The loop samples and refills that are due. -/
def State.sampleAll (s : State) : State :=
  s.tiles.foldl (fun (s : State) e =>
    let s := e.2.loops.foldl (fun s l => outState s (execLoopSample e.1 l.1 s)) s
    outState s (execRateCreditRefill e.1 s)) s

/-- A tile one clock later: the table changes of the clock take effect (R233), timers of live loops that are not held
count down (R371, R375), and what the clock allowed once is allowed again (R250, R256, R377). -/
def Tile.tick (x : Tile) (refill : Bool) : Tile :=
  let x := x.applySets
  { x with
    loops := x.loops.map fun e =>
      (e.1, if e.2.live && !e.2.hold && !x.vacated then { e.2 with timer := e.2.timer - 1 } else e.2),
    loopsSeen := x.loops, loopServed := false, ringRead := false,
    fabric := { x.fabric with inFresh := 0, outFresh := 0 },
    refillDue := x.refillDue || refill }

/-- One clock. -/
def State.tick (s : State) : State :=
  let s := (if s.alive then s.sampleAll else s).drained.takePorts
  let s := s.tiles.foldl (fun (s : State) e => if e.2.replays.isEmpty then s else s.replay e.1) s
  let s := s.pump
  let t := s.time + 1
  { s with time := t, links := s.links.map fun e => (e.1, e.2.acknowledged), tiles := s.tiles.map fun e => (e.1, e.2.tick (t.toNat % 64 == 0)),
           cores := s.cores.map fun e => (e.1, { e.2 with inqFresh := 0 }) }

/-! ### The order of steps -/

/-- The step that takes a packet from its destination router; requests and answers are taken by those of their
accesses. -/
def Body.due : Body → Option Due
  | .msg _ => some .messageArrival
  | .reply _ => some .replyArrival
  | .counter _ _ _ => some .counterIncrement
  | .freeze _ _ => some .coreFreeze
  | .unfreeze _ _ => some .coreUnfreeze
  | .resume _ _ => some .resumePacket
  | .group _ _ _ _ _ => some .groupPacket
  | .domain _ _ _ _ _ => some .domainMulticast
  | .mmagOffer _ _ _ _ => some .mmagOffer
  | .mmagAnswer _ _ _ _ => some .mmagAcceptance
  | .mmagStart _ _ _ _ => some .mmagStart
  | .mmagCredit _ _ _ _ _ _ => some .mmagCredit
  | .mmagStep _ _ _ _ _ _ _ _ => some .mmagStep
  | .mmagReport _ _ _ _ _ => some .mmagReport
  | .chainBind _ => some .chainBindRequest
  | .chainAnswer _ _ => some .chainBindAnswer
  | .chainEntry _ _ _ => some .chainEntry
  | .chainCredit => some .chainCredit
  | .request _ => none
  | .answer _ => none

/-- Steps of the network: flits on the links, then packets, the youngest first. Packets that freeze a core come after
the answers of the clock, whose faults come before a pre-emption (R122). -/
def State.netPlan (s : State) (freezes : Bool) : List Act :=
  (if freezes then []
   else s.links.flatMap fun e =>
    if e.2.nak.isSome then [.due .linkNak e.1 0]
    else if e.2.flits.length ≤ e.2.taken then [] else [.due .flitReceive e.1 0]) ++
  ((s.net.mapIdx fun k p => (p.body.due, k)).filterMap fun x => match x.1 with
    | some d => if (d == .coreFreeze) == freezes then some (Act.due d x.2 0) else none
    | none => none).reverse

/-- Steps of the accesses in flight; the answer of a lending peer comes from outside. -/
def State.accPlan (s : State) : List Act :=
  (s.acc.mapIdx fun k a =>
    if a.status.open then
      (if a.target.local_ then [if a.kind.plain then Act.due .accessRequest k 0 else .due .barrierOperation k 0]
       else [.due .portWaitTimeout k 0, .due .accessRequest k 0])
    else [.due .accessReply k 0]).flatten.reverse

/-- Steps of the cores: captures, special functions, dispatch, ring reads, jobs. -/
def State.corePlan (s : State) : List Act :=
  (s.strands.filterMap fun e => if e.2.phase = .faulted then some (.due .captureComplete e.1 0) else none) ++
  (s.cores.flatMap fun e =>
    [.due .sfCompletion e.1 0, .due .dispatch e.1 0] ++
    ((List.range 4).flatMap fun l => [.due .refillLand e.1 l, .due .refillRead e.1 l]) ++
    (e.2.jobs.flatMap fun j =>
      [.due .mmagReoffer e.1 j.1, .due .jobStart e.1 j.1, .due .jobComplete e.1 j.1,
       .due .jobFree e.1 j.1]))

/-- Steps of the engines and units of the tiles and stacks. -/
def State.unitPlan (s : State) : List Act :=
  (s.spinels.map fun e => .due .spinelPiece e.1 0) ++
  (s.tiles.flatMap fun e =>
    [.due .arrayOperation e.1 0, .due .graphDrainDone e.1 0,
     .due .graphReloadComplete e.1 0, .due .graphReloadComplete e.1 1])

/-- The deadline checks of the barrier units: operations of the same clock come first (R277). -/
def State.deadlinePlan (s : State) : List Act :=
  (s.spinels.map fun e => .due .barrierDeadlineCheck (768 + e.1) 0) ++
  (s.tiles.map fun e => .due .barrierDeadlineCheck e.1 0)

/-- Steps of Agate: queues, kernels, contexts, multicasts, leases, the management core. -/
def State.agatePlan (s : State) : List Act :=
  (s.queues.flatMap fun e =>
    ((List.range e.2.started.length).reverse.map fun k => .due .packetComplete e.1 k) ++
      [.due .nop e.1 0, .due .launch e.1 0, .due .copy e.1 0, .due .signal e.1 0, .due .cond e.1 0,
       .due .condRetest e.1 0]) ++
  (s.ctxs.flatMap fun e =>
    [.due .placement e.1 0, .due .kernelLoaded e.1 0, .due .quiescenceWave e.1 0,
     .due .retirementComplete e.1 0, .due .contextCommandComplete e.1 0]) ++
  (s.mcasts.flatMap fun m => m.members.map fun x => .due .multicastTimeout m.id x.idx) ++
  (s.borrowers.flatMap fun e => [.due .leaseActivationTimeout e.1 0, .due .borrowerRevoked e.1 0]) ++
  (s.lenders.map fun e => .due .lenderRevoked e.1 0) ++
  (s.links.filterMap fun e => if e.2.st = .training then some (.due .trainingTimeout e.1 0) else none) ++
  [.due .invalidationComplete 0 0] ++
  (if s.mgmt.updating || s.mgmt.st == .updating then [.due .firmwareReset 0 0] else [])

/-- The cores that have a strand taking part in issue. -/
def State.issuingCores (s : State) : List Nat :=
  ((s.strands.filter fun e => e.2.phase.issues).map fun e => coreOf e.1).eraseDups

/-- The acts of one clock when the schedule names none: every step that may be due, one issue clock of every
core, then the clock itself. A step that is not due leaves the state unchanged. -/
def State.clockPlan (s : State) : List Act :=
  if s.mgmt.st = .booting then [.due .coldReset 0 0, .clock]
  else s.accPlan ++ s.netPlan true ++ s.netPlan false ++ s.corePlan ++ s.unitPlan ++ s.agatePlan ++ [.issueClock] ++
    s.deadlinePlan ++ [.clock]

/-! ### One act -/

/-- Steps of dispatch and of engines, which a fatal error stops (R466). -/
def Due.stops : Due → Bool
  | .dispatch | .sfCompletion | .refillRead | .refillLand | .spinelPiece | .jobStart | .jobComplete
  | .completionPush | .jobFree | .arrayOperation | .mmagOffer | .mmagReoffer | .mmagStart | .mmagCredit | .mmagStep
  | .mmagReport | .mmagAcceptance | .fabricAdvance | .graphDrainDone | .chainEntry | .chainBindRequest
  | .chainBindAnswer | .chainCredit | .graphReloadComplete | .nop | .launch | .copy | .signal | .cond | .condRetest
  | .packetComplete => true
  | .linkNak | .flitReceive | .messageArrival | .replyArrival | .counterIncrement | .coreFreeze | .coreUnfreeze
  | .resumePacket | .groupPacket | .domainMulticast | .accessRequest | .barrierOperation | .portWaitTimeout
  | .accessReply | .captureComplete | .barrierDeadlineCheck | .placement | .kernelLoaded | .quiescenceWave
  | .retirementComplete | .contextCommandComplete | .multicastTimeout | .leaseActivationTimeout | .borrowerRevoked
  | .lenderRevoked | .trainingTimeout | .invalidationComplete | .firmwareReset | .coldReset => false

/-- Steps in which an engine sends requests: they keep to the clocks that throttling leaves (R467). -/
def Due.requests : Due → Bool
  | .spinelPiece | .jobStart | .jobComplete | .arrayOperation | .fabricAdvance | .graphReloadComplete => true
  | _ => false

/-- Rows in which an engine sends requests (R467). -/
def engineRow : Instr → Bool
  | .spinelPiece _ | .jobStart _ _ | .jobComplete _ _ | .arrayOperation _ | .fabricAdvance _
  | .graphReloadComplete _ _ => true
  | _ => false

/-- The core that packet `k` freezes, if it may be delivered now. -/
def State.freezing (s : State) (k : Nat) : Option Nat :=
  match s.net[k]? with
  | some p => match p.body with
    | .freeze core _ => if s.deliverable k then some (8 * p.dst + core) else none
    | _ => none
  | none => none

/-- A step that is due; a torus flit that nothing has corrupted is good, and a boot finds nothing amiss. -/
def State.perform_ (s : State) (d : Due) (a b : Nat) : Out :=
  match d with
  | .linkNak => execLinkNak a s
  | .flitReceive => execFlitReceive a 0 s
  | .messageArrival => execMessageArrival a s
  | .replyArrival => execReplyArrival a s
  | .counterIncrement => execCounterIncrement a s
  | .coreFreeze => match s.freezing a with
    | some c => execCoreFreeze a (s.faultFirst c)
    | none => .next s
  | .coreUnfreeze => execCoreUnfreeze a s
  | .resumePacket => execResumePacket a s
  | .groupPacket => execGroupPacket a s
  | .domainMulticast => execDomainMulticast a s
  | .mmagOffer => execMmagOffer a s
  | .mmagAcceptance => execMmagAcceptance a s
  | .mmagStart => execMmagStart a s
  | .mmagCredit => execMmagCredit a s
  | .mmagStep => execMmagStep a s
  | .mmagReport => execMmagReport a s
  | .chainBindRequest => execChainBindRequest a s
  | .chainBindAnswer => execChainBindAnswer a s
  | .chainEntry => execChainEntry a s
  | .chainCredit => execChainCredit a s
  | .accessRequest => execAccessRequest a s
  | .barrierOperation => execBarrierOperation a s
  | .portWaitTimeout => execPortWaitTimeout a s
  | .accessReply => execAccessReply a .home s
  | .captureComplete => execCaptureComplete a s
  | .sfCompletion => execSfCompletion a s
  | .dispatch => execDispatch a s
  | .refillLand => execRefillLand a b s
  | .refillRead => execRefillRead a b s
  | .mmagReoffer => execMmagReoffer a b s
  | .jobStart => execJobStart a b s
  | .jobComplete => execJobComplete a b s
  | .completionPush => execCompletionPush a b s
  | .jobFree => execJobFree a b s
  | .spinelPiece => execSpinelPiece a s
  | .barrierDeadlineCheck => execBarrierDeadlineCheck a s
  | .arrayOperation => execArrayOperation a s
  | .graphDrainDone => execGraphDrainDone a s
  | .fabricAdvance => execFabricAdvance a s
  | .graphReloadComplete => execGraphReloadComplete a b s
  | .packetComplete => execPacketComplete a b s
  | .nop => execNop a s
  | .launch => execLaunch a s
  | .copy => execCopy a s
  | .signal => execSignal a s
  | .cond => execCond a s
  | .condRetest => execCondRetest a s
  | .placement => execPlacement a s
  | .kernelLoaded => execKernelLoaded a s
  | .quiescenceWave => execQuiescenceWave a s
  | .retirementComplete => execRetirementComplete a s
  | .contextCommandComplete => execContextCommandComplete a s
  | .multicastTimeout => execMulticastTimeout a b s
  | .leaseActivationTimeout => execLeaseActivationTimeout a s
  | .borrowerRevoked => execBorrowerRevoked a s
  | .lenderRevoked => execLenderRevoked a false s
  | .trainingTimeout => execTrainingTimeout a s
  | .invalidationComplete => execInvalidationComplete s
  | .firmwareReset => execFirmwareReset true [] s
  | .coldReset => execColdReset true [] s

/-- Whether a row of the table is a step of the machine, and no instruction word of a strand. -/
def Instr.isStep (i : Instr) : Bool := encode i == 0

/-- Rows of dispatch and of engines, which a fatal error stops (R466). -/
def stoppedByFatal : Instr → Bool
  | .dispatch _ | .sfCompletion _ | .refillRead _ _ | .refillLand _ _ | .spinelPiece _ | .jobStart _ _
  | .jobComplete _ _ | .completionPush _ _ | .jobFree _ _ | .arrayOperation _ | .mmagOffer _ | .mmagReoffer _ _
  | .mmagStart _ | .mmagCredit _ | .mmagStep _ | .mmagReport _ | .mmagAcceptance _ | .fabricAdvance _
  | .graphDrainDone _ | .chainEntry _ | .chainBindRequest _ | .chainBindAnswer _ | .chainCredit _
  | .graphReloadComplete _ _ | .signaturePass _ _ | .loopSample _ _ | .rateCreditRefill _ | .nop _ | .launch _
  | .copy _ | .signal _ | .cond _ | .condRetest _ | .packetComplete _ _ => true
  | _ => false

/-- A row of the table performed as a step. -/
def State.event_ (s : State) (i : Instr) : Out :=
  if !Instr.isStep i || (!s.alive && stoppedByFatal i) || (!s.permitted && engineRow i) then .next s else exec i s

/-- A step that is due, where a fatal error or throttling does not stop it. -/
def State.takeDue (s : State) (d : Due) (a b : Nat) : Out :=
  if (!s.alive && d.stops) || (!s.permitted && d.requests) then .next s else s.perform_ d a b

/-- The cores that issue, in each tile in the rotation of the coupling instructions (R377). -/
def State.issueOrder (s : State) : List Nat :=
  (List.range 8).flatMap fun i =>
    s.issuingCores.filter fun c => (c % 8 + 8 - (s.tile (c / 8)).loopNext % 8) % 8 == i

/-- One issue clock of every core: pops of queue registers first, then the fabrics, then the other cores, then the
pushes of completion actions (R255, R256). -/
def State.issueClock (s : State) : State :=
  let cores := s.issueOrder
  let pops := if s.permitted then cores.filter s.corePops else []
  let s := pops.foldl (fun s c => outState s (s.coreIssue c)) s
  let s := s.tiles.foldl (fun (s : State) e => outState s (s.takeDue .fabricAdvance e.1 0)) s
  let s := (cores.filter fun c => !pops.contains c).foldl (fun s c => outState s (s.coreIssue c)) s
  s.cores.foldl (fun (s : State) e =>
    e.2.jobs.foldl (fun s j => outState s (s.takeDue .completionPush e.1 j.1)) s) s

/-- One act of the schedule. -/
def State.takeAct (s : State) : Act → Out
  | .clock => .next s.tick
  | .core c => s.coreIssue c
  | .issueClock => .next s.issueClock
  | .issue n => s.issueStrand n
  | .event i => s.event_ i
  | .due d a b => s.takeDue d a b

/-- The first act of the schedule taken off it; an empty schedule is first filled with the acts of one clock. -/
def State.nextAct (s : State) : State × Act :=
  match s.agenda with
  | a :: r => ({ s with agenda := r }, a)
  | [] =>
    match s.clockPlan with
    | a :: r => ({ s with agenda := r }, a)
    | [] => (s, .clock)

/-! ### The place of the next instruction -/

/-- A level-1 table for the text page of `withText`: its entry for VA 0 is a 1 GiB leaf, readable and executable,
at PA 0. -/
def textRoot : Nat := 0x200000
/-- Address of the text of `withText`. -/
def textVa : Nat := 0x10000

/-- The machine with the 32-bit word `w` at the program counter of strand 0 of core 0 of tile 0, which runs
for context 0 with the whole budget: context 0 ACTIVE, its kernel RUNNING on tile (0,0), the word's page mapped,
the firmware READY with issue permitted in every clock, and the schedule naming that strand's issue next. -/
def State.withText (s : State) (w : Nat) : State :=
  let leaf := 2 + 8 + 16 + 32
  let s := s.writeRaw textRoot (leBytes 8 leaf)
  let s := s.writeRaw textVa (leBytes 4 w)
  let s := s.modCtx 0 fun k =>
    { k with st := .active, kst := .running, ptroot := BitVec.ofNat 64 textRoot, x0 := 0, y0 := 0, w1k := 0, h1 := 0 }
  let s := s.modStrand 0 fun st =>
    { st with phase := .running, code := 3, pc := BitVec.ofNat 48 textVa, pend := [], fetched := none,
              startAt := 0 }
  { s with mgmt := { s.mgmt with st := .ready, thr := 64 }, agenda := [.issue 0] }

end Sys2Proof.Machine
end

