-- ==== Sys2Proof/Machine/Step.lean ====
section
/-! DEFINITION. One step of the machine, and the state in which its next step runs a given word. -/

namespace Sys2Proof.Machine

/-- One step: the next act of the schedule. -/
def step (s : State) : Host.Outcome State Fault Refusal := s.nextAct.1.takeAct s.nextAct.2

/-- `s` with the instruction whose bits are `w` where the next step fetches and runs it; every instruction is
one word (R96). -/
def State.withFetchWord (s : State) (nbits w : Nat) : State := s.withText (w % 2 ^ nbits)

end Sys2Proof.Machine
end

