-- ==== Sys2Proof/Safety.lean ====
section
/-! DEFINITION. The terms in which claims are stated: how an instruction completes, what two states share, and
when a state is in canonical form. -/

namespace Sys2Proof.Machine

/-! ### Completing an instruction -/

/-- The issuing strand has become `st` by its instruction's effect and goes on with the next one (R156, R419). -/
def State.completes (s : State) (st : Strand) : State := (s.modMe fun _ => st).advance s.cur s.me none false

/-- The state has become `s'` by the effect of an instruction of `s.cur`, which goes on with the next one. -/
def State.goesOn (s s' : State) : State := s'.advance s.cur s.me none false

/-- The state has become `s'` by the effect of an instruction of `s.cur`, which transfers control to `t`. -/
def State.goesTo (s s' : State) (t : BitVec 48) : State := s'.advance s.cur s.me (some t) false

/-- In `t` the strand that issued in `s` stands at the next instruction (R156), RUNNING unless STEP breaks there
(R419). -/
def Advanced (s t : State) : Prop :=
  (t.strand s.cur).pc = s.me.nextPc ∧ (s.me.stepMode = false → (t.strand s.cur).phase = .running)

/-- The strand goes on without a fault of its own: STEP is 0, so no BREAKPOINT follows (R419). -/
def Strand.freeRun (st : Strand) : Bool := !st.stepMode && st.phase.issues

/-! ### What two states share -/

/-- Every byte of memory reads the same. -/
def SameBytes (s t : State) : Prop := ∀ a, t.byte a = s.byte a

/-- Every byte of memory outside `n` bytes from `a` on reads the same. -/
def SameBytesOutside (s t : State) (a n : Nat) : Prop := ∀ c, c < a ∨ a + n ≤ c → t.byte c = s.byte c

/-- Every strand but `n` is the same. -/
def SameStrandsBut (n : Nat) (s t : State) : Prop := ∀ k, k ≠ n → t.strand k = s.strand k

/-- The states differ at most in the record of strand `n` and in the counter of free values. -/
def OnlyStrand (n : Nat) (s t : State) : Prop :=
  t = { s with strands := t.strands, nextId := t.nextId } ∧ SameStrandsBut n s t

/-- `new` is `old` but for the program counter, LC, the strand's state and what a fault of the strand writes:
every register, flag and other special register is unchanged. -/
def SameRegisters (old new : Strand) : Prop :=
  new = { old with
    pc := new.pc, lc := new.lc, phase := new.phase, epc := new.epc, cause := new.cause, badva := new.badva,
    faults := new.faults, fetched := new.fetched, landing := new.landing }

/-! ### The invariant of memory -/

/-- The memory list is in canonical form: places strictly rising, no byte that reads as an unlisted one. -/
def State.memOk (s : State) : Bool := Memory.wf s.mem

/-! ### A safe run -/

/-- The outcome of a step or an instruction is a next state. -/
def Answers (o : Out) : Prop := ∃ t, o = .next t

end Sys2Proof.Machine
end

