-- ==== Sys2Proof/Certificates/Slice0/Obligations.lean ====
section
/-! DEFINITION. The statements about the machine, made from the rules of the specification. The definitions in
the namespace Sys2Proof.Claims are tables that several clauses of a statement share. -/

open Sys2Proof Sys2Proof.Machine

/-! ### The step, the fetch and the decoder -/

/-- A step whose schedule names the issue of a strand runs the instruction that the strand's word decodes to
(R110, R150), from the second clock after its dispatch on (R123); one that names a row of the table runs that row,
where neither a fatal error (R466) nor throttling (R467) stops it. Nothing is added around the instruction but that the
act is taken off the schedule and the strand becomes the one that issues.
Where the rules leave a choice open, the model's own is stated (log 1, 95). -/
def Obligations.StepRunsDecodedInstruction : Prop :=
  (∀ (s : State) (n w : Nat) (i : Instr) (r : List Act), s.agenda = .issue n :: r → s.permitted = true →
    (s.strand n).phase.issues = true → (s.strand n).startAt.toNat ≤ s.time.toNat →
    ({ s with agenda := r, cur := n } : State).fetch n = .word w →
    decode w = some i → step s = exec i { s with agenda := r, cur := n }) ∧
  (∀ (s : State) (i : Instr) (r : List Act), s.agenda = .event i :: r → Instr.isStep i = true →
    (s.alive = true ∨ stoppedByFatal i = false) → (s.permitted = true ∨ engineRow i = false) →
    step s = exec i { s with agenda := r })

/-- The fetch (R96, R150): scratchpad is not executable, an absent page is PAGE_ABSENT and one without execute
permission PAGE_PERMISSION, BADVA is the fetch address; otherwise the word is the four bytes there, the least
significant first, unless one of them is poisoned. -/
def Sys2Proof.Claims.FetchReadsWordOrFaults : Prop :=
  ∀ (s : State) (n : Nat), let st := s.strand n; let va := st.pc.toNat;
    (((windowOf va).isSome = true ∨ (aliasOf va).isSome = true) → s.fetch n = .bad .pagePermission (pcWord st)) ∧
    (windowOf va = none → aliasOf va = none → r58 va = none →
      (s.xlate (s.ctxOf n) va { x := true } = .absent → s.fetch n = .bad .pageAbsent (pcWord st)) ∧
      (s.xlate (s.ctxOf n) va { x := true } = .denied → s.fetch n = .bad .pagePermission (pcWord st)) ∧
      (∀ pa, s.xlate (s.ctxOf n) va { x := true } = .ok (.mem pa none) → s.poisoned pa 4 = false →
        s.fetch n = .word ((s.byte pa).toNat + 256 * (s.byte (pa + 1)).toNat + 65536 * (s.byte (pa + 2)).toNat +
          16777216 * (s.byte (pa + 3)).toNat)))

/-- A word that is no instruction, and a fetch that finds a fault, are faults of the strand at issue: nothing but the
fault happens (R110, R111, R150). POISON is then a deferred fault (R129, R431); while a result for sp or an acquire is
pending, the fault waits for it (R172). -/
def Sys2Proof.Claims.BadWordFaultsAtIssue : Prop :=
  ∀ (s : State) (n : Nat) (r : List Act), s.agenda = .issue n :: r → s.permitted = true →
    (s.strand n).phase.issues = true → (s.strand n).startAt.toNat ≤ s.time.toNat →
    let s' : State := { s with agenda := r, cur := n };
    ((s.strand n).barred = false →
      (∀ w, s'.fetch n = .word w → decode w = none →
        step s = .next (s'.raiseAtIssue n .illegalInstruction (BitVec.ofNat 64 w))) ∧
      (∀ c b, s'.fetch n = .bad c b → c ≠ .poison → step s = .next (s'.raiseAtIssue n c b)) ∧
      (∀ b, s'.fetch n = .bad .poison b → step s = .next (s'.raise n
        { cause := .poison, ord := s.nextId, deferred := true, epc := pcWord (s.strand n), badva := b }))) ∧
    ((s.strand n).barred = true →
      ((∃ w, s'.fetch n = .word w ∧ decode w = none) ∨ ∃ c b, s'.fetch n = .bad c b) →
      step s = .next (s'.holdAt n .operand))

/-- Words written out from the encodings of R97 to R109, one of each family, decode to their instructions. -/
def Obligations.SampleWordsDecode : Prop :=
  decode 0x05042800 = some (.add 8 4 5) ∧ decode 0x05842B63 = some (.sel 12 4 5 3) ∧
  decode 0x29098102 = some (.bfi 8 9 4 2) ∧ decode 0x2C89F85D = some (.pcmpi 4 9 31 .ge 5) ∧
  decode 0x328C68C0 = some (.ffma 20 12 13) ∧ decode 0x31090241 = some (.fcvt 8 9 .f32 .bf16) ∧
  decode 0x43FFFFFC = some (.br 0x3FFFFFC) ∧ decode 0x44000340 = some (.call 0x340) ∧
  decode 0x61800005 = some (.bp 3 false 5) ∧ decode 0x640C0000 = some (.jr 12) ∧
  decode 0x680C0002 = some (.loop 12 2) ∧ decode 0x89090010 = some (.ldw 8 9 16) ∧
  decode 0xAA82FFF8 = some (.std 20 2 0xFFF8) ∧ decode 0xAD095014 = some (.ldx 8 9 10 .w true) ∧
  decode 0xB1095001 = some (.aadd 8 9 10 true) ∧ decode 0xB1095240 = some (.acas 8 9 10 false) ∧
  decode 0xB4000023 = some (.fence .full .device) ∧ decode 0xBC000000 = some .endH ∧ decode 0 = none

/-- Encoding and decoding agree: every well-formed instruction, with every operand at every value its fields can hold,
is what its word decodes to. Rows that are steps of the machine have no word. -/
def Obligations.DecodeInvertsEncode : Prop :=
  ∀ i : Instr, i.wf = true → Instr.isStep i = false → decode (encode i) = some i

/-- A word that decodes is the encoding of what it decodes to, of 32 bits, and what it decodes to is well formed: no
two words name one instruction, and every must-be-zero field is 0 (R110). -/
def Obligations.DecodedWordIsItsEncoding : Prop :=
  ∀ (w : Nat) (i : Instr), decode w = some i → encode i = w ∧ w < 2 ^ 32 ∧ i.wf = true ∧ Instr.isStep i = false

/-- Every step, and every instruction in every state, answers a next state: none is refused and none stops the
machine, since the faults of a strand are state. -/
def Obligations.EveryStepAnswersNext : Prop :=
  (∀ s : State, Answers (step s)) ∧ (∀ (i : Instr) (s : State), Answers (exec i s))

/-- Every step keeps the canonical form of memory: strictly rising places, no listed byte equal to what an unlisted
one reads as. -/
def Obligations.StepKeepsMemoryForm : Prop :=
  ∀ s t : State, s.memOk = true → step s = .next t → t.memOk = true

namespace Sys2Proof.Claims

/-! ### Tables of results -/

/-- R135 and R136: what each register-register instruction writes for sources `x` and `y`. -/
def intResults (x y : Word) : List ((GReg → GReg → GReg → Instr) × Word) :=
  [ (.add, BitVec.ofNat 64 (x.toNat + y.toNat)),
    (.sub, BitVec.ofInt 64 ((x.toNat : Int) - y.toNat)),
    (.and, x &&& y), (.or, x ||| y), (.xor, x ^^^ y), (.andn, x &&& ~~~ y),
    (.shl, BitVec.ofNat 64 (x.toNat * 2 ^ (y.toNat % 64))),
    (.shr, BitVec.ofNat 64 (x.toNat / 2 ^ (y.toNat % 64))),
    (.sar, BitVec.ofInt 64 (x.toInt / 2 ^ (y.toNat % 64))),
    (.ror, (x >>> (y.toNat % 64)) ||| (x <<< (64 - y.toNat % 64))),
    (.min, if x.toInt ≤ y.toInt then x else y), (.max, if x.toInt ≤ y.toInt then y else x),
    (.minu, if x.toNat ≤ y.toNat then x else y), (.maxu, if x.toNat ≤ y.toNat then y else x),
    (.slt, if x.toInt < y.toInt then 1 else 0), (.sltu, if x.toNat < y.toNat then 1 else 0),
    (.seq, if x = y then 1 else 0),
    (.mul, BitVec.ofNat 64 (x.toNat * y.toNat)),
    (.mulh, BitVec.ofInt 64 (x.toInt * y.toInt / 2 ^ 64)),
    (.mulhu, BitVec.ofNat 64 (x.toNat * y.toNat / 2 ^ 64)) ]

/-- R136: what each division writes for sources `x` and `y`. -/
def divResults (x y : Word) : List ((GReg → GReg → GReg → Instr) × Word) :=
  [ (.div, if y = 0 then -1 else if x.toInt = -2 ^ 63 ∧ y.toInt = -1 then x
      else BitVec.ofInt 64 (x.toInt.tdiv y.toInt)),
    (.rem, if y = 0 then x else if x.toInt = -2 ^ 63 ∧ y.toInt = -1 then 0
      else BitVec.ofInt 64 (x.toInt - y.toInt * x.toInt.tdiv y.toInt)),
    (.divu, if y = 0 then -1 else BitVec.ofNat 64 (x.toNat / y.toNat)),
    (.remu, if y = 0 then x else BitVec.ofNat 64 (x.toNat % y.toNat)) ]

/-- R135: the instructions with one source, by the bits of the source. -/
def countResults (x : Word) : List ((GReg → GReg → Instr) × Word) :=
  [ (.clz, BitVec.ofNat 64 ((List.range 64).takeWhile fun i => !x.getLsbD (63 - i)).length),
    (.ctz, BitVec.ofNat 64 ((List.range 64).takeWhile fun i => !x.getLsbD i).length),
    (.popc, BitVec.ofNat 64 ((List.range 64).countP fun i => x.getLsbD i)) ]

/-- R137 to R139, R142: the immediate and bit-field instructions, for the source `x`, the old destination `o` and each
immediate field. -/
def immResults (o x : Word) (i : BitVec 16) (c : BitVec 15) (k p w : BitVec 6) :
    List ((GReg → GReg → Instr) × Word) :=
  [ ((.addi · · i), BitVec.ofInt 64 (x.toInt + i.toInt)),
    ((.andi · · i), BitVec.ofNat 64 (x.toNat &&& i.toNat)),
    ((.ori · · i), BitVec.ofNat 64 (x.toNat ||| i.toNat)),
    ((.xori · · i), BitVec.ofNat 64 (x.toNat ^^^ i.toNat)),
    ((.slti · · c), if x.toInt < c.toInt then 1 else 0),
    ((.sltiu · · c), if x.toNat < (c.signExtend 64).toNat then 1 else 0),
    ((.shli · · k), BitVec.ofNat 64 (x.toNat * 2 ^ k.toNat)),
    ((.shri · · k), BitVec.ofNat 64 (x.toNat / 2 ^ k.toNat)),
    ((.sari · · k), BitVec.ofInt 64 (x.toInt / 2 ^ k.toNat)),
    ((.rori · · k), (x >>> k.toNat) ||| (x <<< (64 - k.toNat))),
    ((.bfxu · · p w), BitVec.ofNat 64 (x.toNat / 2 ^ p.toNat % 2 ^ (w.toNat + 1))),
    ((.bfx · · p w), BitVec.ofInt 64 (((x.toNat / 2 ^ p.toNat : Nat) : Int).bmod (2 ^ (w.toNat + 1)))),
    ((.bfi · · p w), BitVec.ofNat 64 (o.toNat % 2 ^ p.toNat + 2 ^ p.toNat * (x.toNat % 2 ^ (w.toNat + 1)) +
      2 ^ (p.toNat + w.toNat + 1) * (o.toNat / 2 ^ (p.toNat + w.toNat + 1)))) ]

/-- R125: the clocks that a division of `x` by `y` holds the divider, for a quotient of `k` bits. -/
def divisionClocks (k : Nat) : Nat := max 4 (2 + (k + 1) / 2)

/-- R125: the bits of the quotient of each division, in magnitude; none for a divisor of 0 and for the overflow, which
take 4 clocks. -/
def quotientBits (x y : Word) : List ((GReg → GReg → GReg → Instr) × Nat) :=
  let q := if y = 0 ∨ (x.toInt = -2 ^ 63 ∧ y.toInt = -1) then 0 else x.toInt.natAbs / y.toInt.natAbs
  let u := if y = 0 then 0 else x.toNat / y.toNat
  let len := fun n => if n = 0 then 0 else Nat.log2 n + 1
  [ (.div, len q), (.rem, len q), (.divu, len u), (.remu, len u) ]

/-- What an instruction that writes the value `v` to register `d` comes to: the write and the next instruction, or
STACK_LIMIT when `d` is sp and `v` lies below SLIM, with nothing written (R171). -/
def Writes (i : Instr) (s : State) (d : GReg) (v : Word) : Prop :=
  (s.me.spBad d v = false → exec i s = .next (s.completes (writeG s.me d v))) ∧
  (s.me.spBad d v = true → exec i s = .next (s.raiseAtIssue s.cur .stackLimit v))

end Sys2Proof.Claims

open Sys2Proof.Claims

/-! ### Integer arithmetic -/

/-- R134 to R136: a register-register instruction writes its result, by exact arithmetic on the sources, and goes on;
sources are read before the result is written. A division waits while the core's divider holds another one, and
otherwise holds it for its own clocks (R124, R125). -/
def Sys2Proof.Claims.IntegerRegisterResults : Prop :=
  (∀ (s : State) (d a b : GReg), s.canIssue { g := [d, a, b] } = true →
    ∀ e ∈ intResults (readG s.me a) (readG s.me b), Writes (e.1 d a b) s d e.2) ∧
  (∀ (s : State) (d a : GReg), s.canIssue { g := [d, a] } = true →
    ∀ e ∈ countResults (readG s.me a), Writes (e.1 d a) s d e.2) ∧
  (∀ (s : State) (d a b : GReg) (p : PReg), s.canIssue { g := [d, a, b] } = true →
    Writes (.sel d a b p) s d (if readP s.me p = true then readG s.me a else readG s.me b)) ∧
  (∀ (s : State) (d a b : GReg), s.canIssue { g := [d, a, b] } = true →
    let x := readG s.me a; let y := readG s.me b;
    ((s.core s.myCore).divUntil.toNat ≤ s.time.toNat →
      (∀ e ∈ divResults x y, s.me.spBad d e.2 = true →
        exec (e.1 d a b) s = .next (s.raiseAtIssue s.cur .stackLimit e.2)) ∧
      ∀ e ∈ (divResults x y).zip (quotientBits x y), s.me.spBad d e.1.2 = false →
        exec (e.1.1 d a b) s = .next (s.goesOn ((s.modCore s.myCore fun c => { c with
          divUntil := s.time + BitVec.ofNat 64 (divisionClocks e.2.2) }).modMe fun st => writeG st d e.1.2))) ∧
    (s.time.toNat < (s.core s.myCore).divUntil.toNat →
      ∀ e ∈ divResults x y, exec (e.1 d a b) s = .next (s.holdAt s.cur .divider)))

/-- R137 to R142: the immediate, half-word, PC-relative and bit-field instructions. -/
def Sys2Proof.Claims.ImmediateResults : Prop :=
  (∀ (s : State) (d a : GReg) (i : BitVec 16) (c : BitVec 15) (k p w : BitVec 6),
    s.canIssue { g := [d, a] } = true → p.toNat + w.toNat + 1 ≤ 64 →
    ∀ e ∈ immResults (readG s.me d) (readG s.me a) i c k p w, Writes (e.1 d a) s d e.2) ∧
  (∀ (s : State) (d : GReg) (h : BitVec 2) (i : BitVec 16), s.canIssue { g := [d] } = true →
    let o := (readG s.me d).toNat; let k := 2 ^ (16 * h.toNat);
    Writes (.insh d h i) s d (BitVec.ofNat 64 (o % k + k * i.toNat + 65536 * k * (o / (65536 * k))))) ∧
  (∀ (s : State) (d : GReg) (i : BitVec 16), s.canIssue { g := [d] } = true →
    Writes (.aupc d i) s d (BitVec.ofInt 64 (s.me.pc.toNat + i.toInt * 65536)))

namespace Sys2Proof.Claims

/-- R88, R124: the registers that each instruction reads or writes, with every register of a run; none for a row that
is a step of the machine. -/
def instrUses : Instr → Option Uses
  | .add d a b => some { g := [d.val, a.val, b.val] }
  | .sub d a b => some { g := [d.val, a.val, b.val] }
  | .and d a b => some { g := [d.val, a.val, b.val] }
  | .or d a b => some { g := [d.val, a.val, b.val] }
  | .xor d a b => some { g := [d.val, a.val, b.val] }
  | .andn d a b => some { g := [d.val, a.val, b.val] }
  | .shl d a b => some { g := [d.val, a.val, b.val] }
  | .shr d a b => some { g := [d.val, a.val, b.val] }
  | .sar d a b => some { g := [d.val, a.val, b.val] }
  | .ror d a b => some { g := [d.val, a.val, b.val] }
  | .min d a b => some { g := [d.val, a.val, b.val] }
  | .max d a b => some { g := [d.val, a.val, b.val] }
  | .minu d a b => some { g := [d.val, a.val, b.val] }
  | .maxu d a b => some { g := [d.val, a.val, b.val] }
  | .slt d a b => some { g := [d.val, a.val, b.val] }
  | .sltu d a b => some { g := [d.val, a.val, b.val] }
  | .seq d a b => some { g := [d.val, a.val, b.val] }
  | .mul d a b => some { g := [d.val, a.val, b.val] }
  | .mulh d a b => some { g := [d.val, a.val, b.val] }
  | .mulhu d a b => some { g := [d.val, a.val, b.val] }
  | .div d a b => some { g := [d.val, a.val, b.val] }
  | .divu d a b => some { g := [d.val, a.val, b.val] }
  | .rem d a b => some { g := [d.val, a.val, b.val] }
  | .remu d a b => some { g := [d.val, a.val, b.val] }
  | .clz d a => some { g := [d.val, a.val] }
  | .ctz d a => some { g := [d.val, a.val] }
  | .popc d a => some { g := [d.val, a.val] }
  | .sel d a b _ => some { g := [d.val, a.val, b.val] }
  | .addi d a _ => some { g := [d.val, a.val] }
  | .andi d a _ => some { g := [d.val, a.val] }
  | .ori d a _ => some { g := [d.val, a.val] }
  | .xori d a _ => some { g := [d.val, a.val] }
  | .slti d a _ => some { g := [d.val, a.val] }
  | .sltiu d a _ => some { g := [d.val, a.val] }
  | .shli d a _ => some { g := [d.val, a.val] }
  | .shri d a _ => some { g := [d.val, a.val] }
  | .sari d a _ => some { g := [d.val, a.val] }
  | .rori d a _ => some { g := [d.val, a.val] }
  | .insh d _ _ => some { g := [d.val] }
  | .aupc d _ => some { g := [d.val] }
  | .bfx d a _ _ => some { g := [d.val, a.val] }
  | .bfxu d a _ _ => some { g := [d.val, a.val] }
  | .bfi d a _ _ => some { g := [d.val, a.val] }
  | .pcmp _ a b _ => some { g := [a.val, b.val] }
  | .pcmpi _ a _ _ _ => some { g := [a.val] }
  | .pand _ _ _ => some {}
  | .por _ _ _ => some {}
  | .pxor _ _ _ => some {}
  | .pnot _ _ => some {}
  | .psave d => some { g := [d.val] }
  | .pload a => some { g := [a.val] }
  | .pmov _ _ => some {}
  | .fadd d a b => some { g := [d.val, a.val, b.val] }
  | .fsub d a b => some { g := [d.val, a.val, b.val] }
  | .fmul d a b => some { g := [d.val, a.val, b.val] }
  | .ffma d a b => some { g := [d.val, a.val, b.val] }
  | .fmin d a b => some { g := [d.val, a.val, b.val] }
  | .fmax d a b => some { g := [d.val, a.val, b.val] }
  | .fneg d a => some { g := [d.val, a.val] }
  | .fabs d a => some { g := [d.val, a.val] }
  | .fcmp d a b _ => some { g := [d.val, a.val, b.val] }
  | .fcvt d a _ _ => some { g := [d.val, a.val] }
  | .br _ => some {}
  | .call _ => some { g := [1] }
  | .beq b a _ => some { g := [b.val, a.val] }
  | .bne b a _ => some { g := [b.val, a.val] }
  | .blt b a _ => some { g := [b.val, a.val] }
  | .bge b a _ => some { g := [b.val, a.val] }
  | .bltu b a _ => some { g := [b.val, a.val] }
  | .bgeu b a _ => some { g := [b.val, a.val] }
  | .bp _ _ _ => some {}
  | .jr a => some { g := [a.val] }
  | .callr a => some { g := [a.val, 1] }
  | .ret => some { g := [1] }
  | .loop a _ => some { g := [a.val] }
  | .ldb d a _ => some { g := [d.val, a.val] }
  | .ldh d a _ => some { g := [d.val, a.val] }
  | .ldw d a _ => some { g := [d.val, a.val] }
  | .ldd d a _ => some { g := [d.val, a.val] }
  | .ldbu d a _ => some { g := [d.val, a.val] }
  | .ldhu d a _ => some { g := [d.val, a.val] }
  | .ldwu d a _ => some { g := [d.val, a.val] }
  | .stb b a _ => some { g := [b.val, a.val] }
  | .sth b a _ => some { g := [b.val, a.val] }
  | .stw b a _ => some { g := [b.val, a.val] }
  | .std b a _ => some { g := [b.val, a.val] }
  | .ldx d a b _ _ => some { g := [d.val, a.val, b.val] }
  | .stx d a b _ _ => some { g := [d.val, a.val, b.val] }
  | .aadd d a b _ => some { g := [d.val, a.val, b.val] }
  | .aand d a b _ => some { g := [d.val, a.val, b.val] }
  | .aor d a b _ => some { g := [d.val, a.val, b.val] }
  | .axor d a b _ => some { g := [d.val, a.val, b.val] }
  | .amin d a b _ => some { g := [d.val, a.val, b.val] }
  | .amax d a b _ => some { g := [d.val, a.val, b.val] }
  | .aminu d a b _ => some { g := [d.val, a.val, b.val] }
  | .amaxu d a b _ => some { g := [d.val, a.val, b.val] }
  | .aswp d a b _ => some { g := [d.val, a.val, b.val] }
  | .acas d a b _ => some { g := [d.val, a.val, b.val] }
  | .afadd d a b => some { g := [d.val, a.val, b.val] }
  | .fence _ _ => some {}
  | .send d a b _ => some { g := d.val :: a.val :: run b.val 4 }
  | .sendr d a b _ => some { g := d.val :: a.val :: run b.val 4 }
  | .sendl d a b _ => some { g := d.val :: a.val :: run b.val 5 }
  | .spawn a b _ => some { g := a.val :: run b.val 4 ++ [1, 2, 3] }
  | .reply b => some { g := run b.val 4 }
  | .mcast d a b _ => some { g := d.val :: a.val :: run b.val 4 }
  | .mcastl d a b _ _ _ => some { g := d.val :: a.val :: run b.val 5 }
  | .gred a b _ => some { g := a.val :: run b.val 4 }
  | .endH => some { g := [1, 3] }
  | .armw a b _ => some { g := a.val :: run b.val 6 }
  | .htset a b => some { g := [a.val, b.val] }
  | .htclr a => some { g := [a.val] }
  | .redlv d a b => some { g := [d.val, a.val, b.val] }
  | .cnti a b _ => some { g := a.val :: run b.val 6 }
  | .cnta a b _ => some { g := [a.val, b.val] }
  | .cntr d a _ => some { g := [d.val, a.val] }
  | .binit a b => some { g := a.val :: run b.val 2 }
  | .barr d a => some { g := [d.val, a.val] }
  | .barrb d a b => some { g := [d.val, a.val, b.val] }
  | .bdrop d a => some { g := [d.val, a.val] }
  | .btest d a b => some { g := [d.val, a.val, b.val] }
  | .bwait d a b => some { g := d.val :: a.val :: run b.val 6 }
  | .bbyte a b => some { g := [a.val, b.val] }
  | .qpush a _ => some { g := [a.val] }
  | .qpop d _ => some { g := [d.val] }
  | .qcnt d _ => some { g := [d.val] }
  | .qpeek d _ => some { g := [d.val] }
  | .cpy d a b => some { g := d.val :: b.val :: run a.val 3 }
  | .cpy2 d a b => some { g := d.val :: b.val :: run a.val 4 }
  | .cpyq d a _ _ => some { g := d.val :: run a.val 3 }
  | .cpyf d a b => some { g := d.val :: b.val :: run a.val 5 }
  | .gath d a b _ => some { g := d.val :: b.val :: run a.val 5 }
  | .scat d a b _ => some { g := d.val :: b.val :: run a.val 5 }
  | .jpoll _ a => some { g := [a.val] }
  | .jwait d a => some { g := [d.val, a.val] }
  | .jwaitAll d => some { g := [d.val] }
  | .jcwait d a _ _ => some { g := [d.val, a.val] }
  | .armj a b => some { g := a.val :: run b.val 5 }
  | .mma d a b _ _ => some { g := d.val :: b.val :: run a.val 4 }
  | .mmag d a b _ _ => some { g := d.val :: b.val :: run a.val 4 }
  | .mst d a b _ _ _ => some { g := d.val :: b.val :: run a.val 2 }
  | .mzr d _ _ => some { g := [d.val] }
  | .mzrSt d _ => some { g := [d.val] }
  | .mscl a b _ => some { g := [a.val, b.val] }
  | .gload d a b => some { g := d.val :: b.val :: run a.val 2 }
  | .gswap d => some { g := [d.val] }
  | .gswapKeep d => some { g := [d.val] }
  | .gbind d a => some { g := d.val :: run a.val 4 }
  | .gdrain d => some { g := [d.val] }
  | .gstat d _ _ => some { g := [d.val] }
  | .cplb a b => some { g := a.val :: (if b = 0 then [] else run b.val 3) }
  | .cplr d a _ => some { g := [d.val, a.val] }
  | .cplu a b _ => some { g := a.val :: run b.val 2 }
  | .wgt a => some { g := [a.val] }
  | .sysr d _ => some { g := [d.val] }
  | .sysw a _ => some { g := [a.val] }
  | .trap _ => some {}
  | .brk _ => some {}
  | .resume a => some { g := [a.val] }
  | .probe d a => some { g := a.val :: run d.val 2 }
  | .gwtake d => some { g := [d.val] }
  | .gwdone a => some { g := [a.val] }
  | .vadd d a b _ _ _ => some { w := [d.val, a.val, b.val] }
  | .vsub d a b _ _ _ => some { w := [d.val, a.val, b.val] }
  | .vmul d a b _ _ _ => some { w := [d.val, a.val, b.val] }
  | .vfma d a b _ _ _ => some { w := [d.val, a.val, b.val] }
  | .vmin d a b _ _ _ => some { w := [d.val, a.val, b.val] }
  | .vmax d a b _ _ _ => some { w := [d.val, a.val, b.val] }
  | .vabs d a _ _ _ => some { w := [d.val, a.val] }
  | .vneg d a _ _ _ => some { w := [d.val, a.val] }
  | .vand d a b _ _ => some { w := [d.val, a.val, b.val] }
  | .vor d a b _ _ => some { w := [d.val, a.val, b.val] }
  | .vxor d a b _ _ => some { w := [d.val, a.val, b.val] }
  | .vshl d a b _ _ => some { w := [d.val, a.val, b.val] }
  | .vshr d a b _ _ => some { w := [d.val, a.val, b.val] }
  | .vsar d a b _ _ => some { w := [d.val, a.val, b.val] }
  | .vcmp _ a b _ _ _ _ => some { w := [a.val, b.val] }
  | .vsel d a b _ _ => some { w := [d.val, a.val, b.val] }
  | .vmov d a _ _ => some { w := [d.val, a.val] }
  | .vbcast d a _ _ => some { g := [a.val], w := [d.val] }
  | .vext d a b _ _ => some { g := [d.val, b.val], w := [a.val] }
  | .vins d a b _ => some { g := [a.val, b.val], w := [d.val] }
  | .mand _ _ _ => some {}
  | .mor _ _ _ => some {}
  | .mnot _ _ => some {}
  | .mpop d _ => some { g := [d.val] }
  | .vld d a _ _ => some { g := [a.val], w := [d.val] }
  | .vst d a _ _ => some { g := [a.val], w := [d.val] }
  | .vlds d a b _ _ => some { g := [a.val, b.val], w := [d.val] }
  | .vgth d a b _ _ _ => some { g := [a.val], w := [d.val, b.val] }
  | .vsct d a b _ _ _ => some { g := [a.val], w := [d.val, b.val] }
  | .vqpush a _ n => some { w := run a.val (n.toNat + 1) }
  | .vqpop d _ _ n => some { w := run d.val (n.toNat + 1) }
  | .vcvt d a _ t src => some
      { w := run d.val (max t.lanes src.lanes / t.lanes) ++ run a.val (max t.lanes src.lanes / src.lanes) }
  | .vtorns d a _ t => some { w := run d.val (t.lanes / 16) ++ run a.val (t.lanes / t.lanes) }
  | .vfrns d a b _ _ _ => some { g := [b.val], w := [d.val, a.val] }
  | .vqnt d a b _ _ _ => some { g := [b.val], w := [d.val, a.val] }
  | .vaddq d a b _ _ _ => some { w := [d.val, a.val, b.val] }
  | .vexp2 d a _ _ => some { w := [d.val, a.val] }
  | .vlog2 d a _ _ => some { w := [d.val, a.val] }
  | .vrcp d a _ _ => some { w := [d.val, a.val] }
  | .vrsq d a _ _ => some { w := [d.val, a.val] }
  | .vtanh d a _ _ => some { w := [d.val, a.val] }
  | .vsig d a _ _ => some { w := [d.val, a.val] }
  | .vred d a _ _ _ _ => some { w := [d.val, a.val] }
  | .vshuf d a b _ _ => some { w := [d.val, a.val, b.val] }
  | .vperm d a b _ _ => some { w := [d.val, a.val, b.val] }
  | .vtopk d a b _ _ _ _ => some { g := [b.val], w := [d.val, a.val] }
  | .vscan d a _ _ _ _ _ => some { w := [d.val, a.val] }
  | .vrng d _ _ => some { w := [d.val] }
  | .rngseed a => some { g := [a.val] }
  | _ => none

/-- R143: the conditions of the comparisons. -/
def condTable (x y : Word) : List (Cond × Bool) :=
  [ (.eq, decide (x.toNat = y.toNat)), (.ne, decide (x.toNat ≠ y.toNat)), (.lt, decide (x.toInt < y.toInt)),
    (.ge, decide (y.toInt ≤ x.toInt)), (.ltu, decide (x.toNat < y.toNat)), (.geu, decide (y.toNat ≤ x.toNat)) ]

/-- R144: the logical forms of predicates. -/
def predResults (x y : Bool) : List ((PReg → PReg → PReg → Instr) × Bool) :=
  [ (.pand, x && y), (.por, x || y), (.pxor, x ^^ y) ]

/-- R31, R146: what the scalar FP32 instructions compute, with the flags they set; rounding by R32 to R35. -/
def floatResults (st : Strand) (d a b : GReg) : List ((GReg → GReg → GReg → Instr) × (Word × BitVec 5)) :=
  let x := st.fp32 a
  let y := st.fp32 b
  [ (.fadd, st.roundF32 (x.add st.down y)), (.fsub, st.roundF32 (x.add st.down y.neg)),
    (.fmul, st.roundF32 (x.mul y)), (.ffma, st.roundF32 (FNum.fma st.down (st.fp32 d) x y)),
    (.fmin, (BitVec.ofNat 64 (exactBits .f32 (minMaxNum false x y).1), (minMaxNum false x y).2)),
    (.fmax, (BitVec.ofNat 64 (exactBits .f32 (minMaxNum true x y).1), (minMaxNum true x y).2)) ]

/-- R147: the conditions of FCMP for two FP32 values, with NV. -/
def fcmpTable (x y : FNum) : List (FCond × (Bool × BitVec 5)) :=
  [ (.eq, fpCompare 0 x y), (.ne, fpCompare 1 x y), (.lt, fpCompare 2 x y), (.le, fpCompare 3 x y),
    (.un, fpCompare 4 x y) ]

/-- An instruction that writes `v` to `d` and sets the flags `f`; STACK_LIMIT leaves both. -/
def WritesFlags (i : Instr) (s : State) (d : GReg) (r : Word × BitVec 5) : Prop :=
  (s.me.spBad d r.1 = false →
    exec i s = .next (s.completes (writeG { s.me with flags := s.me.flags ||| r.2 } d r.1))) ∧
  (s.me.spBad d r.1 = true → exec i s = .next (s.raiseAtIssue s.cur .stackLimit r.1))

/-- R152: the compare-branches. -/
def branchTable (x y : Word) : List ((GReg → GReg → BitVec 16 → Instr) × Bool) :=
  [ (.beq, decide (x.toNat = y.toNat)), (.bne, decide (x.toNat ≠ y.toNat)), (.blt, decide (x.toInt < y.toInt)),
    (.bge, decide (y.toInt ≤ x.toInt)), (.bltu, decide (x.toNat < y.toNat)), (.bgeu, decide (y.toNat ≤ x.toNat)) ]

/-- A target `o` instructions from the program counter, modulo 2^48 (R98, R149). -/
def targetOf {n : Nat} (st : Strand) (o : BitVec n) : BitVec 48 := BitVec.ofInt 48 (st.pc.toNat + 4 * o.toInt)

end Sys2Proof.Claims

/-! ### Issue -/

/-- R71, R88, R110, R111, R124, R172: no instruction of a strand that takes no part in issue does anything; while a
result for sp or an acquire is pending, every instruction is held; a register beyond the budget is ILLEGAL_INSTRUCTION
with BADVA the instruction's word; an instruction that needs a pending result is held, and nothing but the strand's
state changes. -/
def Obligations.RegisterChecksAtIssue : Prop :=
  ∀ (i : Instr) (u : Uses) (s : State), instrUses i = some u →
    (s.me.phase.issues = false → exec i s = .next s) ∧
    (s.me.phase.issues = true → (∃ p ∈ s.me.pend, p.acq = true ∨ p.g = some 2) →
      exec i s = .next (s.modMe fun st => { st with phase := .stalled .operand })) ∧
    (s.me.phase.issues = true → (∀ p ∈ s.me.pend, p.acq = false ∧ p.g ≠ some 2) →
      (∃ k ∈ u.g, 8 * (s.me.code.toNat + 1) ≤ k) →
      exec i s = .next (s.raiseAtIssue s.cur .illegalInstruction (BitVec.ofNat 64 (encode i)))) ∧
    (s.me.phase.issues = true → (∀ k ∈ u.g, k < 8 * (s.me.code.toNat + 1)) → (∃ p ∈ s.me.pend, p.blocks u = true) →
      exec i s = .next (s.modMe fun st => { st with phase := .stalled .operand }))

/-- R156: after an instruction that transfers no control the strand is at the next one, or at LS when LC is not 0, the
instruction lies at LE and LC has not run out; LC counts down there. A transfer leaves LC alone. STEP is 0 before
or after the instruction; nothing else of the state changes. -/
def Sys2Proof.Claims.NextInstructionAndLoopBack : Prop :=
  ∀ (s s' : State), (s.me.stepMode = false ∨ (s'.strand s.cur).stepMode = false) →
    (s'.strand s.cur).phase ≠ .faulted →
    let old := s.me; let st := s'.strand s.cur;
    let atEnd := old.lc ≠ 0 ∧ old.pc.setWidth 64 = old.le;
    (∃ t, s.goesOn s' = s'.setStrand s.cur t ∧
      t = { st with phase := .running, fetched := none, landing := [], pc := t.pc, lc := t.lc } ∧
      (atEnd → old.lc ≠ 1 → t.pc = old.ls.setWidth 48 ∧ t.lc = old.lc - 1) ∧
      (atEnd → old.lc = 1 → t.pc = old.pc + 4 ∧ t.lc = 0) ∧
      (¬ atEnd → t.pc = old.pc + 4 ∧ t.lc = st.lc)) ∧
    (∀ x, s.goesTo s' x =
      s'.setStrand s.cur { st with phase := .running, fetched := none, landing := [], pc := x })

/-- R419: with STEP set before and after an instruction that does not fault, a BREAKPOINT with BADVA 0x1000 follows
it; EPC is the next instruction. -/
def Sys2Proof.Claims.StepModeBreaksAfterInstruction : Prop :=
  ∀ (s s' : State), s.me.stepMode = true → (s'.strand s.cur).stepMode = true →
    (s'.strand s.cur).phase ≠ .faulted → (s'.strand s.cur).faults = [] →
    let t := (s.goesOn s').strand s.cur;
    t.phase = .faulted ∧ t.cause = 0x13 ∧ t.badva = 0x1000 ∧ t.epc = t.pc.setWidth 64 ∧
      t.pc = (if s.me.lc ≠ 0 ∧ s.me.pc.setWidth 64 = s.me.le ∧ s.me.lc ≠ 1 then s.me.ls.setWidth 48 else s.me.pc + 4)

/-- R84, R85: g0 reads 0, p0 reads 1 and m0 reads all ones in every state, and an instruction whose destination is one
of them writes nothing and goes on. -/
def Sys2Proof.Claims.ConstantRegistersDiscardWrites : Prop :=
  (∀ st : Strand, readG st 0 = 0 ∧ readP st 0 = true ∧ readM st 0 = BitVec.allOnes 16) ∧
  (∀ (s : State) (a b : GReg), s.canIssue { g := [0, a, b] } = true →
    (∀ e ∈ intResults (readG s.me a) (readG s.me b), exec (e.1 0 a b) s = .next (s.completes s.me)) ∧
    (s.dividing = false → ∀ e ∈ divResults (readG s.me a) (readG s.me b), ∃ until_,
      exec (e.1 0 a b) s = .next (s.goesOn (s.modCore s.myCore fun c => { c with divUntil := until_ })))) ∧
  (∀ (s : State) (a b : PReg), s.canIssue {} = true →
    exec (.pand 0 a b) s = .next (s.completes s.me) ∧ exec (.pnot 0 a) s = .next (s.completes s.me)) ∧
  (∀ (s : State) (a b : MReg), s.canIssue {} = true →
    exec (.mand 0 a b) s = .next (s.completes s.me) ∧ exec (.mnot 0 a) s = .next (s.completes s.me))

/-! ### Predicates and scalar FP32 -/

/-- R95, R143, R144: the instructions that write predicates, and the two that move them. -/
def Sys2Proof.Claims.PredicateResults : Prop :=
  (∀ (s : State) (d : PReg) (a b : GReg), s.canIssue { g := [a, b] } = true →
    ∀ e ∈ condTable (readG s.me a) (readG s.me b),
      exec (.pcmp d a b e.1) s = .next (s.completes (writeP s.me d e.2))) ∧
  (∀ (s : State) (d : PReg) (a : GReg) (i : BitVec 5) (j : BitVec 3), s.canIssue { g := [a] } = true →
    ∀ e ∈ condTable (readG s.me a) (BitVec.ofInt 64 (i ++ j : BitVec 8).toInt),
      exec (.pcmpi d a i e.1 j) s = .next (s.completes (writeP s.me d e.2))) ∧
  (∀ (s : State) (d a b : PReg), s.canIssue {} = true →
    (∀ e ∈ predResults (readP s.me a) (readP s.me b), exec (e.1 d a b) s = .next (s.completes (writeP s.me d e.2))) ∧
    exec (.pnot d a) s = .next (s.completes (writeP s.me d (!readP s.me a))) ∧
    exec (.pmov d a) s = .next (s.completes (writeP s.me d (readP s.me a)))) ∧
  (∀ (s : State) (d : GReg) (v : Word), s.canIssue { g := [d] } = true →
    (∀ k : Fin 8, v.getLsbD k.val = readP s.me k) → v.toNat < 256 → Writes (.psave d) s d v) ∧
  (∀ (s : State) (a : GReg), s.canIssue { g := [a] } = true →
    exec (.pload a) s = .next (s.completes { s.me with p := (readG s.me a).setWidth 8 }))

/-- R145 to R148: the scalar FP32 instructions write their result and set their flags, which are sticky. -/
def Obligations.ScalarFloatResults : Prop :=
  (∀ (s : State) (d a b : GReg), s.canIssue { g := [d, a, b] } = true →
    (∀ e ∈ floatResults s.me d a b, WritesFlags (e.1 d a b) s d e.2) ∧
    (∀ e ∈ fcmpTable (s.me.fp32 a) (s.me.fp32 b),
      WritesFlags (.fcmp d a b e.1) s d (if e.2.1 = true then 1 else 0, e.2.2))) ∧
  (∀ (s : State) (d a : GReg), s.canIssue { g := [d, a] } = true →
    WritesFlags (.fneg d a) s d
      (BitVec.ofNat 64 (exactBits .f32 (s.me.fp32 a).neg), flagIf (s.me.fp32 a).isSnan flagNV) ∧
    WritesFlags (.fabs d a) s d
      (BitVec.ofNat 64 (exactBits .f32 (s.me.fp32 a).abs), flagIf (s.me.fp32 a).isSnan flagNV) ∧
    ∀ src tgt : FFmt, let x := s.me.cvtSource (readG s.me a).toNat src;
      WritesFlags (.fcvt d a src tgt) s d
        ((s.me.cvtTarget x tgt).1, (s.me.cvtTarget x tgt).2 ||| flagIf x.isSnan flagNV))

/-! ### Control transfer -/

/-- R149, R151 to R153: BR and CALL transfer control, CALL writing lk with the next address; a compare-branch or BP
that is taken goes to its target, and one that is not goes on. -/
def Sys2Proof.Claims.BranchesTransferControl : Prop :=
  (∀ (s : State) (o : BitVec 26), s.canIssue {} = true → exec (.br o) s = .next (s.goesTo s (targetOf s.me o))) ∧
  (∀ (s : State) (o : BitVec 26), s.canIssue { g := [1] } = true →
    exec (.call o) s = .next (s.goesTo
      (s.modMe fun st => writeG st 1 (BitVec.ofNat 64 (st.pc.toNat + 4))) (targetOf s.me o))) ∧
  (∀ (s : State) (b a : GReg) (o : BitVec 16), s.canIssue { g := [b, a] } = true →
    ∀ e ∈ branchTable (readG s.me a) (readG s.me b),
      exec (e.1 b a o) s = .next (if e.2 = true then s.goesTo s (targetOf s.me o) else s.goesOn s)) ∧
  (∀ (s : State) (p : PReg) (sense : Bool) (o : BitVec 16), s.canIssue {} = true →
    exec (.bp p sense o) s =
      .next (if readP s.me p = sense then s.goesTo s (targetOf s.me o) else s.goesOn s))

/-- R154: JR, CALLR and RET go to the word they read before lk is written; a target above 2^48 is PAGE_ABSENT, and one
that is not a multiple of 4 MISALIGNED, with BADVA the target and nothing written. -/
def Sys2Proof.Claims.RegisterJumpsCheckTarget : Prop :=
  ∀ (s : State) (a : GReg) (t : Word),
    let link := s.modMe fun st => writeG st 1 (BitVec.ofNat 64 (st.pc.toNat + 4));
    (s.canIssue { g := [a] } = true → readG s.me a = t →
      (t.toNat < 2 ^ 48 → t.toNat % 4 = 0 → exec (.jr a) s = .next (s.goesTo s (t.setWidth 48))) ∧
      (2 ^ 48 ≤ t.toNat → exec (.jr a) s = .next (s.raiseAtIssue s.cur .pageAbsent t)) ∧
      (t.toNat < 2 ^ 48 → t.toNat % 4 ≠ 0 → exec (.jr a) s = .next (s.raiseAtIssue s.cur .misaligned t))) ∧
    (s.canIssue { g := [a, 1] } = true → readG s.me a = t →
      (t.toNat < 2 ^ 48 → t.toNat % 4 = 0 → exec (.callr a) s = .next (s.goesTo link (t.setWidth 48))) ∧
      (2 ^ 48 ≤ t.toNat → exec (.callr a) s = .next (s.raiseAtIssue s.cur .pageAbsent t)) ∧
      (t.toNat < 2 ^ 48 → t.toNat % 4 ≠ 0 → exec (.callr a) s = .next (s.raiseAtIssue s.cur .misaligned t))) ∧
    (s.canIssue { g := [1] } = true → readG s.me 1 = t →
      (t.toNat < 2 ^ 48 → t.toNat % 4 = 0 → exec .ret s = .next (s.goesTo s (t.setWidth 48))) ∧
      (2 ^ 48 ≤ t.toNat → exec .ret s = .next (s.raiseAtIssue s.cur .pageAbsent t)) ∧
      (t.toNat < 2 ^ 48 → t.toNat % 4 ≠ 0 → exec .ret s = .next (s.raiseAtIssue s.cur .misaligned t)))

/-- R155: LOOP with a count of 0 goes past the body and leaves the loop registers alone; otherwise it sets LC, LS and
LE and goes to the body. -/
def Sys2Proof.Claims.LoopSetsUpBody : Prop :=
  ∀ (s : State) (a : GReg) (k : BitVec 16), s.canIssue { g := [a] } = true →
    (readG s.me a = 0 → exec (.loop a k) s =
      .next (s.goesTo s (BitVec.ofNat 48 (s.me.pc.toNat + 4 * (k.toNat + 1))))) ∧
    (readG s.me a ≠ 0 → exec (.loop a k) s =
      .next (s.goesTo (s.modMe fun st => { st with
        lc := readG s.me a, ls := (BitVec.ofNat 48 (st.pc.toNat + 4)).setWidth 64,
        le := (BitVec.ofNat 48 (st.pc.toNat + 4 * k.toNat)).setWidth 64 }) (s.me.pc + 4)))

namespace Sys2Proof.Claims

/-! ### Memory instructions -/

/-- The units of `n` bytes from `pa` hold no error, so a read corrects nothing and fails at nothing. -/
def Sound (s : State) (pa n : Nat) : Prop := ∀ u ∈ unitsOf pa n, u ∉ s.poison ∧ u ∉ s.soft

/-- No watch of the tile whose slice holds them overlaps `n` bytes from `pa`. -/
def Unwatched (s : State) (pa n : Nat) : Prop :=
  ∀ t off, sliceOf pa = some (t, off) → ∀ w ∈ (s.tile t).watches, off + n ≤ w.off ∨ w.off + 8 ≤ off

/-- The access passes every check and its home is the issuing tile's slice or the issuing gateway's buffer. -/
def OwnAt (s : State) (ea : Word) (n : Nat) (need : Need) (pa : Nat) : Prop :=
  s.checkAccess s.cur ea n n need = .ok (.mem pa none) false ∧ isOwn s.myCore (.mem pa none) = true

/-- The number in `n` bytes from `pa`, least significant byte first. -/
def memNat (s : State) (pa n : Nat) : Nat := ((List.range n).map fun i => (s.byte (pa + i)).toNat * 256 ^ i).sum

/-- R159 and R160: each load with the registers it names, its address, its size and whether it extends a sign. -/
def loads (st : Strand) (d a b : GReg) (i : BitVec 16) (sc : Bool) : List (Instr × List Nat × Word × Nat × Bool) :=
  let o := BitVec.ofInt 64 ((readG st a).toNat + i.toInt)
  let x := fun n : Nat => BitVec.ofNat 64 ((readG st a).toNat + (readG st b).toNat * (if sc then n else 1))
  [ (.ldb d a i, [d, a], o, 1, true), (.ldh d a i, [d, a], o, 2, true), (.ldw d a i, [d, a], o, 4, true),
    (.ldd d a i, [d, a], o, 8, false), (.ldbu d a i, [d, a], o, 1, false), (.ldhu d a i, [d, a], o, 2, false),
    (.ldwu d a i, [d, a], o, 4, false),
    (.ldx d a b .b sc, [d, a, b], x 1, 1, true), (.ldx d a b .h sc, [d, a, b], x 2, 2, true),
    (.ldx d a b .w sc, [d, a, b], x 4, 4, true), (.ldx d a b .d sc, [d, a, b], x 8, 8, false),
    (.ldx d a b .bu sc, [d, a, b], x 1, 1, false), (.ldx d a b .hu sc, [d, a, b], x 2, 2, false),
    (.ldx d a b .wu sc, [d, a, b], x 4, 4, false) ]

/-- R159 and R160: each store of register `v` with the registers it names, its address and its size. -/
def stores (st : Strand) (v a b : GReg) (i : BitVec 16) (sc : Bool) : List (Instr × List Nat × Word × Nat) :=
  let o := BitVec.ofInt 64 ((readG st a).toNat + i.toInt)
  let x := fun n : Nat => BitVec.ofNat 64 ((readG st a).toNat + (readG st b).toNat * (if sc then n else 1))
  [ (.stb v a i, [v, a], o, 1), (.sth v a i, [v, a], o, 2), (.stw v a i, [v, a], o, 4), (.std v a i, [v, a], o, 8),
    (.stx v a b .b sc, [v, a, b], x 1, 1), (.stx v a b .h sc, [v, a, b], x 2, 2),
    (.stx v a b .w sc, [v, a, b], x 4, 4), (.stx v a b .d sc, [v, a, b], x 8, 8) ]

/-- R166: each atomic of `8 * n` bits with the new value for the old value `o`, the operand `x` and the expected
value `e`; none when nothing is written. -/
def atomics (d a b : GReg) (wide : Bool) (o x e : Nat) : List (Instr × Nat × Option Nat) :=
  let n := if wide then 8 else 4
  let m := 2 ^ (8 * n)
  let lt := decide ((o : Int).bmod m < (x : Int).bmod m)
  [ (.aadd d a b wide, n, some ((o + x) % m)), (.aand d a b wide, n, some (o &&& x)),
    (.aor d a b wide, n, some (o ||| x)), (.axor d a b wide, n, some (o ^^^ x)),
    (.amin d a b wide, n, some (if lt then o else x)), (.amax d a b wide, n, some (if lt then x else o)),
    (.aminu d a b wide, n, some (if o < x then o else x)), (.amaxu d a b wide, n, some (if o < x then x else o)),
    (.aswp d a b wide, n, some x), (.acas d a b wide, n, if o = e then some x else none) ]

/-- R80, R165: what an atomic needs of its page; in host memory only AADD, ASWP and ACAS are performed. -/
def atomicNeed : Instr → Need
  | .aadd _ _ _ _ => { r := true, w := true, atomic := true, hostOk := true }
  | .aswp _ _ _ _ => { r := true, w := true, atomic := true, hostOk := true }
  | .acas _ _ _ _ => { r := true, w := true, atomic := true, hostOk := true }
  | _ => { r := true, w := true, atomic := true }

/-- R125, R213: an access issued whose home is not the issuing tile's slice: it is in flight, counts as one more source of
the kernel, and its request leaves for the home on VN0; one found POISONED (`p`) is answered at once. -/
def issuedAway (s : State) (a : Access) (p : Bool) : State :=
  let s1 : State := { s.source s.myCtx with
    nextId := s.nextId + 2, acc := s.acc ++ [{ a with id := s.nextId, grp := s.nextId, back := p }] }
  if p then s1 else s1.inject s.myTile (s.homeTile s.myTile a.target) false s.myCtx a.after (.request [s.nextId])

/-- A value read from memory written to register `d`, the access performed: the write, or STACK_LIMIT when `d` is sp
and the value lies below SLIM (R171, R172). -/
def Returns (i : Instr) (s s' : State) (d : GReg) (v : Word) : Prop :=
  (s.me.spBad d v = false → exec i s = .next (s.goesOn (s'.modMe fun st => writeG st d v))) ∧
  (s.me.spBad d v = true → exec i s = .next (s'.raiseAtIssue s.cur .stackLimit v))

end Sys2Proof.Claims

/-! ### Loads, stores and atomics -/

/-- R161, R162, with R58, R60 and R77: what the check of an access finds, the causes in their order. -/
def Sys2Proof.Claims.AccessChecksInOrder : Prop :=
  ∀ (s : State) (n : Nat) (ea : Word) (size align : Nat) (need : Need),
    let va := ea.toNat; let out := s.checkAccess n ea size align need;
    let hit := lockHit (s.tile (tileOf n)).locks va size (need.w || need.atomic);
    (va % align ≠ 0 → out = .bad .misaligned ea) ∧
    (va % align = 0 → 0x800000000000 ≤ va → out = .bad .pageAbsent ea) ∧
    (va % align = 0 → (0x7000C0000000 ≤ va ∧ va < 0x7F0000000000) ∨ (0x7F0000300000 ≤ va ∧ va < 0x800000000000) →
      out = .bad .scratchBounds ea) ∧
    (∀ t off, t < 768 → 0x300000 ≤ off → off < 0x400000 → va = 0x700000000000 + t * 0x400000 + off →
      va % align = 0 → out = .bad .scratchBounds ea) ∧
    (∀ t off, t < 768 → 0 < size → off + size ≤ 0x300000 → va = 0x700000000000 + t * 0x400000 + off →
      va % align = 0 →
      (s.inPlacement (s.ctxOf n) t = false → out = .bad .scratchBounds ea) ∧
      (s.inPlacement (s.ctxOf n) t = true → isGateway n = false →
        (hit = none → out = .ok (.mem (sliceAddr t off) none) false) ∧
        (∀ b, hit = some b → out = .bad .rangeLock (BitVec.ofNat 64 b)))) ∧
    (∀ off, isGateway n = false → 0 < size → off + size ≤ 0x300000 → va = 0x7F0000000000 + off → va % align = 0 →
      (hit = none → out = .ok (.mem (sliceAddr (tileOf n) off) none) false) ∧
      (∀ b, hit = some b → out = .bad .rangeLock (BitVec.ofNat 64 b))) ∧
    (va % align = 0 → 0 < size → va + size ≤ 0x700000000000 →
      (s.xlate (s.ctxOf n) va need = .absent → out = .bad .pageAbsent ea) ∧
      (s.xlate (s.ctxOf n) va need = .denied → out = .bad .pagePermission ea) ∧
      (s.xlate (s.ctxOf n) va need = .revoked → out = .bad .leaseRevoked ea) ∧
      (∀ t, s.xlate (s.ctxOf n) va need = .ok t → isGateway n = false → hit = none → out = .ok t false))

/-- R159 to R162, R165: a load, a store or an atomic whose access fails a check is that fault at issue, with the
check's BADVA, and nothing else happens. -/
def Sys2Proof.Claims.FailedCheckFaultsAtIssue : Prop :=
  ∀ (s : State) (d a b : GReg) (i : BitVec 16) (sc : Bool) (c : Cause) (v : Word),
    (∀ e ∈ loads s.me d a b i sc, s.canIssue { g := e.2.1 } = true →
      s.checkAccess s.cur e.2.2.1 e.2.2.2.1 e.2.2.2.1 needR = .bad c v →
      exec e.1 s = .next (s.raiseAtIssue s.cur c v)) ∧
    (∀ e ∈ stores s.me d a b i sc, s.canIssue { g := e.2.1 } = true →
      s.checkAccess s.cur e.2.2.1 e.2.2.2 e.2.2.2 needW = .bad c v →
      exec e.1 s = .next (s.raiseAtIssue s.cur c v)) ∧
    (∀ wide, ∀ e ∈ atomics d a b wide 0 0 0, s.canIssue { g := [d, a, b] } = true →
      s.checkAccess s.cur (readG s.me a) e.2.1 e.2.1 (atomicNeed e.1) = .bad c v →
      exec e.1 s = .next (s.raiseAtIssue s.cur c v))

/-- R159, R160: a load from the issuing tile's slice writes its register with the bytes there, extended as its form
says. -/
def Sys2Proof.Claims.LoadsFromOwnTile : Prop :=
  ∀ (s : State) (d a b : GReg) (i : BitVec 16) (sc : Bool), ∀ e ∈ loads s.me d a b i sc,
    s.canIssue { g := e.2.1 } = true → ∀ pa, OwnAt s e.2.2.1 e.2.2.2.1 needR pa → Sound s pa e.2.2.2.1 →
      Returns e.1 s { s with nextId := s.nextId + 1 } d
        (if e.2.2.2.2 then BitVec.ofInt 64 ((memNat s pa e.2.2.2.1 : Int).bmod (2 ^ (8 * e.2.2.2.1)))
          else BitVec.ofNat 64 (memNat s pa e.2.2.2.1))

/-- R163: a load or an atomic that meets poison in the issuing tile's slice, and a store that meets a unit in error
which it does not cover, write nothing and raise POISON as a deferred fault, with the next instruction in EPC. -/
def Sys2Proof.Claims.PoisonIsDeferredFault : Prop :=
  ∀ (s : State) (d a b : GReg) (i : BitVec 16) (sc : Bool) (pa : Nat), s.me.faults = [] →
    let poisoned := fun (j : Instr) (ea : Word) => ∃ t, exec j s = .next t ∧ SameBytes s t ∧
      SameStrandsBut s.cur s t ∧ (t.strand s.cur).phase = .faulted ∧ (t.strand s.cur).cause = 0x10A ∧
      (t.strand s.cur).badva = ea ∧ (t.strand s.cur).pc = s.me.nextPc ∧
      (t.strand s.cur).epc = (s.me.nextPc).setWidth 64 ∧ (t.strand s.cur).g = s.me.g;
    (∀ e ∈ loads s.me d a b i sc, s.canIssue { g := e.2.1 } = true → OwnAt s e.2.2.1 e.2.2.2.1 needR pa →
      s.poisoned pa e.2.2.2.1 = true → poisoned e.1 e.2.2.1) ∧
    (∀ e ∈ stores s.me d a b i sc, s.canIssue { g := e.2.1 } = true → OwnAt s e.2.2.1 e.2.2.2 needW pa →
      s.partlyPoisoned pa e.2.2.2 = true → poisoned e.1 e.2.2.1) ∧
    (∀ wide, ∀ e ∈ atomics d a b wide 0 0 0, s.canIssue { g := [d, a, b] } = true →
      OwnAt s (readG s.me a) e.2.1 (atomicNeed e.1) pa → s.poisoned pa e.2.1 = true → poisoned e.1 (readG s.me a))

/-- R159, R160: a store to the issuing tile's slice stores the low bytes of its register and goes on. Where no watch
sees it, the bytes it names read as stored (but for the end of a slice, which takes no write, R385), and every other
byte, strand and tile is as before. -/
def Sys2Proof.Claims.StoresToOwnTile : Prop :=
  ∀ (s : State) (v a b : GReg) (i : BitVec 16) (sc : Bool), ∀ e ∈ stores s.me v a b i sc, let n := e.2.2.2;
    s.canIssue { g := e.2.1 } = true → ∀ pa, OwnAt s e.2.2.1 n needW pa → s.partlyPoisoned pa n = false →
      exec e.1 s = .next (s.goesOn
        ({ s with nextId := s.nextId + 2 }.storeAt pa none (leBytes n (readG s.me v).toNat))) ∧
      (Unwatched s pa n → ∃ t, exec e.1 s = .next t ∧ Advanced s t ∧ SameStrandsBut s.cur s t ∧
        SameRegisters s.me (t.strand s.cur) ∧ SameBytesOutside s t pa n ∧ (∀ k, t.tile k = s.tile k) ∧
        ∀ k < n, t.byte (pa + k) = if isReservedByte (pa + k) then s.byte (pa + k)
          else BitVec.ofNat 8 ((readG s.me v).toNat / 256 ^ k))

/-- R165, R166: an atomic on the issuing tile's slice writes its register with the old value and the location with the
new one, in one step. -/
def Sys2Proof.Claims.AtomicsOnOwnTile : Prop :=
  ∀ (s : State) (d a b : GReg) (wide : Bool) (pa : Nat), s.canIssue { g := [d, a, b] } = true →
    let s1 : State := { s with nextId := s.nextId + 1 };
    (let n := if wide then 8 else 4; let m := 2 ^ (8 * n); let o := memNat s pa n;
      ∀ e ∈ atomics d a b wide o ((readG s.me b).toNat % m) ((readG s.me d).toNat % m),
        OwnAt s (readG s.me a) n (atomicNeed e.1) pa → Sound s pa n →
        Returns e.1 s (match e.2.2 with | some v => s1.storeAt pa none (leBytes n v) | none => s1) d
          (BitVec.ofNat 64 o)) ∧
    (let o := memNat s pa 4;
      OwnAt s (readG s.me a) 4 { r := true, w := true, atomic := true } pa → Sound s pa 4 →
      Returns (.afadd d a b) s
        (s1.storeAt pa none (leBytes 4 (afaddBits o ((readG s.me b).toNat % 2 ^ 32)))) d (BitVec.ofNat 64 o))

/-- R125, R162, R213: an access whose home is not the issuing tile's slice is issued: it is in flight with its address,
size and work, its request leaves for the home on VN0 (one found POISONED is answered at once), a result is pending in
its register, and the strand goes on. -/
def Sys2Proof.Claims.AccessesElsewhereAreSent : Prop :=
  ∀ (s : State) (d a b : GReg) (i : BitVec 16) (sc : Bool) (t : Target) (p : Bool), isOwn s.myCore t = false →
    let out := fun (ea : Word) (n : Nat) (kind : AccKind) (dest : Dest) => issuedAway s (s.accessOf ea n kind t p dest) p;
    let sent := fun (j : Instr) (ea : Word) (n : Nat) (kind : AccKind) (dest : Dest) (pend : List Pend) =>
      exec j s = .next (s.goesOn ((out ea n kind dest).modMe fun st => { st with pend := st.pend ++ pend }));
    let owed : List Pend := [{ id := s.nextId, g := some d, lc := s.me.lc }];
    (∀ e ∈ loads s.me d a b i sc, s.canIssue { g := e.2.1 } = true →
      s.checkAccess s.cur e.2.2.1 e.2.2.2.1 e.2.2.2.1 needR = .ok t p →
      sent e.1 e.2.2.1 e.2.2.2.1 .load (.g d e.2.2.2.1 e.2.2.2.2) owed) ∧
    (∀ e ∈ stores s.me d a b i sc, s.canIssue { g := e.2.1 } = true →
      s.checkAccess s.cur e.2.2.1 e.2.2.2 e.2.2.2 needW = .ok t p →
      ∃ u, exec e.1 s = .next u ∧
        u = s.goesOn (out e.2.2.1 e.2.2.2 (.store (leBytes e.2.2.2 (readG s.me d).toNat)) .none) ∧
        Advanced s u ∧ SameBytes s u ∧ SameStrandsBut s.cur s u) ∧
    (∀ op j, (op, j) ∈ ([(0, .aadd d a b sc), (1, .aand d a b sc), (2, .aor d a b sc), (3, .axor d a b sc),
        (4, .amin d a b sc), (5, .amax d a b sc), (6, .aminu d a b sc), (7, .amaxu d a b sc), (8, .aswp d a b sc),
        (9, .acas d a b sc)] : List (Nat × Instr)) → s.canIssue { g := [d, a, b] } = true →
      s.checkAccess s.cur (readG s.me a) (if sc then 8 else 4) (if sc then 8 else 4) (atomicNeed j) = .ok t p →
      sent j (readG s.me a) (if sc then 8 else 4) (.atomic op (readG s.me b) (readG s.me d))
        (.g d (if sc then 8 else 4) false) owed)

/-- R68, R69, R71, R168: FENCE goes on when nothing it orders is outstanding: at STRAND scope always, at CORE and TILE
scope once every earlier load and atomic has returned, and at DEVICE and DOMAIN scope, unless it is an acquire, once
every earlier access has been answered and every access acquired from another strand has been performed. Otherwise it
is held, and nothing but the strand's state changes. A completed acquire or full fence beyond STRAND scope takes over
the accesses that fences of this core or of TILE scope have released and that are not yet performed; a release or full
fence of CORE or TILE scope releases its own so. Memory and the other strands stay as they are. -/
def Sys2Proof.Claims.FenceWaitsForEarlierAccesses : Prop :=
  ∀ (s : State) (k : FenceKind) (sc : Scope), s.canIssue {} = true →
    let mine := s.acc.filter fun a => a.strand == s.cur && a.run == s.me.run && a.kind.ordered;
    let far := (sc = .device ∨ sc = .domain) ∧ k ≠ .acquire;
    let unperformed := fun (st : Strand) (a : Access) => a ∈ s.acc ∧ a.status = .sent ∧
      ((a.strand = s.cur ∧ a.run = s.me.run) ∨ a.id ∈ st.acq);
    let wait := (sc ≠ .strand ∧ ∃ a ∈ mine, (∀ bs, a.kind ≠ .store bs) ∨ far) ∨ (far ∧ ∃ a, unperformed s.me a);
    let open_ := fun i => ∃ a ∈ s.acc, a.id = i ∧ a.status = .sent;
    (wait → exec (.fence k sc) s = .next (s.modMe fun st => { st with phase := .stalled .fence })) ∧
    (¬ wait → ∃ u, exec (.fence k sc) s = .next (s.goesOn u) ∧
      u = { s with strands := u.strands, tiles := u.tiles } ∧ SameStrandsBut s.cur s u ∧
      u.strand s.cur = { s.me with acq := (u.strand s.cur).acq } ∧
      ((k = .release ∨ sc = .strand) → (u.strand s.cur).acq = s.me.acq) ∧
      (k ≠ .release → sc ≠ .strand → ∀ i, i ∈ (u.strand s.cur).acq ↔
        (i ∈ s.me.acq ∨ ∃ x ∈ (s.tile s.myTile).fenced, x.1 = i ∧ (x.2 = none ∨ x.2 = some s.myCore)) ∧ open_ i) ∧
      (∀ w, w ≠ s.myTile ∨ k = .acquire ∨ (sc ≠ .core ∧ sc ≠ .tile) → u.tile w = s.tile w) ∧
      (k ≠ .acquire → (sc = .core ∨ sc = .tile) → ∀ i c, (i, c) ∈ (u.tile s.myTile).fenced ↔
        ((i, c) ∈ (s.tile s.myTile).fenced ∧ open_ i) ∨
        (c = (if sc = .core then some s.myCore else none) ∧ ∃ a, a.id = i ∧ unperformed (u.strand s.cur) a)))

namespace Sys2Proof.Claims

/-- R415 to R417: what each system register of a strand reads, by its number. -/
def strandRegs (s : State) : List (BitVec 12 × Word) :=
  let st := s.me
  [ (0x000, BitVec.ofNat 64 (st.inl.toNat + 2 ^ 8 * st.rsmd.toNat + 2 ^ 9 * st.level.toNat + 2 ^ 15 * st.stepMode.toNat)),
    (0x001, BitVec.ofNat 64 st.cause.toNat), (0x002, st.epc), (0x003, st.badva), (0x010, st.slim), (0x011, st.sbase),
    (0x012, st.lc), (0x013, st.ls), (0x014, st.le), (0x030, BitVec.ofNat 64 s.cur), (0x033, s.time),
    (0x034, s.weightWord s.cur), (0x035, BitVec.ofNat 64 st.hidx.toNat), (0x036, BitVec.ofNat 64 st.msgsrc.toNat),
    (0x037, BitVec.ofNat 64 st.jc0.toNat), (0x038, BitVec.ofNat 64 st.jc1.toNat), (0x042, st.rngctr),
    (0x043, st.rngstream) ]

/-- R131, R132: the floating-point registers. -/
def fpRegs (s : State) : List (BitVec 12 × Word) :=
  [ (0x020, BitVec.ofNat 64 (s.me.rm.toNat + 4 * s.me.fz.toNat)), (0x021, BitVec.ofNat 64 s.me.flags.toNat) ]

/-- R391, R409, R415: what each context register reads, by its number; bases keep the fields they have. -/
def contextRegs (s : State) : List (BitVec 12 × Word) :=
  let c := s.ctxOf s.cur
  let k := s.ctx c
  let base := fun (w : Word) (lo : Nat) => BitVec.ofNat 64 (w.toNat % 2 ^ 48 / 2 ^ lo * 2 ^ lo + w.toNat % 32)
  let tail := fun (n lost : BitVec 32) => BitVec.ofNat 64 (n.toNat + 2 ^ 32 * lost.toNat)
  [ (0x031, BitVec.ofNat 64 (k.x0.toNat + 2 ^ 5 * k.y0.toNat + 2 ^ 10 * k.w1k.toNat + 2 ^ 15 * k.h1.toNat)),
    (0x032, BitVec.ofNat 64 (c % 256)), (0x040, k.rngkey0), (0x041, k.rngkey1),
    (0x100, BitVec.ofNat 64 k.agelim.toNat), (0x101, BitVec.ofNat 64 k.fcore.toNat),
    (0x102, BitVec.ofNat 64 (k.savebase.toNat % 2 ^ 48 / 2 ^ 21 * 2 ^ 21)),
    (0x103, BitVec.ofNat 64 (k.keyslot.toNat % 2 ^ 11 + 2 ^ 16 * (k.keyslot.toNat / 2 ^ 16 % 2 ^ 7))),
    (0x104, base k.spbase 21), (0x105, base k.frbase 12), (0x106, BitVec.ofNat 64 k.frhead.toNat),
    (0x107, tail k.frtail k.frlost), (0x108, base k.udbase 12), (0x109, BitVec.ofNat 64 k.udhead.toNat),
    (0x10A, tail k.udtail k.udlost), (0x10B, base k.evbase 12), (0x10C, BitVec.ofNat 64 k.evhead.toNat),
    (0x10D, tail k.evtail k.evlost) ]

/-- R157, R416, R418: the strand after a write of each of its registers but LC, by the number. -/
def strandWrites (st : Strand) (v : Word) : List (BitVec 12 × Strand) :=
  [ (0x000, { st with stepMode := v.getLsbD 15, rsmd := st.rsmd && !v.getLsbD 8 }),
    (0x010, { st with slim := v }), (0x011, { st with sbase := v }),
    (0x013, { st with ls := BitVec.ofNat 64 (v.toNat % 2 ^ 48 / 4 * 4) }),
    (0x014, { st with le := BitVec.ofNat 64 (v.toNat % 2 ^ 48 / 4 * 4) }),
    (0x042, { st with rngctr := v }), (0x043, { st with rngstream := v }) ]

/-- R131, R132, R418: the strand after a write of FPCTL or FPFLAGS. -/
def fpWrites (st : Strand) (v : Word) : List (BitVec 12 × Strand) :=
  [ (0x020, { st with rm := BitVec.ofNat 2 v.toNat, fz := v.getLsbD 2 }),
    (0x021, { st with flags := BitVec.ofNat 5 v.toNat }) ]

/-- R409: a HEAD written with the low half of `v`; the write is ignored when it would go back or past TAIL. -/
def newHead (head tail : BitVec 32) (v : Word) : BitVec 32 :=
  let h := BitVec.ofNat 32 v.toNat
  if (h - head).toNat ≤ (tail - head).toNat then h else head

end Sys2Proof.Claims

/-! ### Faults and system registers -/

/-- R121, R129: a fault at issue makes the strand FAULTED with EPC the instruction's address, CAUSE the cause's code
and BADVA as the cause says; no register, no byte and no other strand changes. -/
def Sys2Proof.Claims.FaultAtIssueEntersFaulted : Prop :=
  ∀ (s : State) (n : Nat) (c : Cause) (v : Word), (s.strand n).faults = [] →
    let t := s.raiseAtIssue n c v;
    t = { s with strands := t.strands } ∧ SameStrandsBut n s t ∧
    t.strand n = { s.strand n with
      phase := .faulted, epc := (s.strand n).pc.setWidth 64, cause := c.code.setWidth 9, badva := v,
      faults := [{ cause := c, ord := s.nextId, time := s.time, epc := (s.strand n).pc.setWidth 64, badva := v }] }

/-- R129: of the faults found before a capture completes, the strand's CAUSE and BADVA hold the one that comes first
in program order. -/
def Sys2Proof.Claims.FirstFaultInProgramOrderIsKept : Prop :=
  ∀ (st : Strand) (f g : FaultRec), st.faults = [f] → f.ord ≠ g.ord →
    let first := if f.ord < g.ord then f else g; let t := st.fault g;
    t.phase = .faulted ∧ t.faults = [f, g] ∧ t.epc = st.pc.setWidth 64 ∧ t.badva = first.badva ∧
      t.cause = first.cause.code.setWidth 9 + (if first.deferred then 0x100 else 0)

/-- R121, R174, R419: TRAP and BRK complete their issue, the loop-back included, and then raise their fault, with
EPC the next instruction and BADVA the code. -/
def Sys2Proof.Claims.TrapAndBreakRaiseTheirFault : Prop :=
  ∀ (s : State) (k : BitVec 12), s.canIssue {} = true → s.me.faults = [] →
    ∀ e ∈ ([(.trap k, 0x12), (.brk k, 0x13)] : List (Instr × BitVec 9)),
      ∃ t, exec e.1 s = .next t ∧ t = { s with strands := t.strands } ∧ SameStrandsBut s.cur s t ∧
        SameRegisters s.me (t.strand s.cur) ∧ (t.strand s.cur).phase = .faulted ∧ (t.strand s.cur).cause = e.2 ∧
        (t.strand s.cur).badva = BitVec.ofNat 64 k.toNat ∧ (t.strand s.cur).pc = s.me.nextPc ∧
        (t.strand s.cur).epc = s.me.nextPc.setWidth 64 ∧
        (t.strand s.cur).lc = if s.me.lc ≠ 0 ∧ s.me.pc.setWidth 64 = s.me.le then s.me.lc - 1 else s.me.lc

/-- R415 to R417: SYSR writes its register with the value of the system register it names. FPCTL and FPFLAGS are read
once no earlier floating-point request of the strand is incomplete, and until then the strand is held (R124). -/
def Sys2Proof.Claims.SystemRegisterReads : Prop :=
  ∀ (s : State) (d : GReg), s.canIssue { g := [d] } = true →
    (∀ e ∈ strandRegs s ++ contextRegs s, Writes (.sysr d e.1) s d e.2) ∧
    (s.fpBusy = false → ∀ e ∈ fpRegs s, Writes (.sysr d e.1) s d e.2) ∧
    (s.fpBusy = true → ∀ e ∈ fpRegs s, exec (.sysr d e.1) s =
      .next (s.modMe fun st => { st with phase := .stalled .fpSerial })) ∧
    (∀ r, (∀ e ∈ strandRegs s ++ contextRegs s ++ fpRegs s, e.1 ≠ r) → exec (.sysr d r) s =
      .next (s.raiseAtIssue s.cur .illegalInstruction (BitVec.ofNat 64 (encode (.sysr d r)))))

/-- R157, R409, R418: SYSW writes the register it names: STATUS takes STEP and clears RSMD, LS and LE take bits
[47:2], and a HEAD does not go back or past its TAIL. The write of LC stands in place of the loop-back's. A HEAD is
written once every earlier load of the strand has returned. A register that is read-only or unassigned is
ILLEGAL_INSTRUCTION. -/
def Sys2Proof.Claims.SystemRegisterWrites : Prop :=
  ∀ (s : State) (a : GReg), s.canIssue { g := [a] } = true → let v := readG s.me a; let c := s.ctxOf s.cur;
    (∀ e ∈ strandWrites s.me v, exec (.sysw a e.1) s = .next (s.completes e.2)) ∧
    (s.fpBusy = false → ∀ e ∈ fpWrites s.me v, exec (.sysw a e.1) s = .next (s.completes e.2)) ∧
    (s.fpBusy = true → ∀ e ∈ fpWrites s.me v, exec (.sysw a e.1) s =
      .next (s.modMe fun st => { st with phase := .stalled .fpSerial })) ∧
    (∃ t, exec (.sysw a 0x012) s = .next t ∧ Advanced s t ∧ OnlyStrand s.cur s t ∧
      SameRegisters s.me (t.strand s.cur) ∧ (t.strand s.cur).lc = v) ∧
    exec (.sysw a 0x040) s = .next (s.goesOn (s.modCtx c fun k => { k with rngkey0 := BitVec.ofNat 64 (v.toNat % 2 ^ 32) })) ∧
    exec (.sysw a 0x041) s = .next (s.goesOn (s.modCtx c fun k => { k with rngkey1 := BitVec.ofNat 64 (v.toNat % 2 ^ 32) })) ∧
    (s.loadsOut = false →
      exec (.sysw a 0x106) s = .next (s.goesOn (s.modCtx c fun k => { k with frhead := newHead k.frhead k.frtail v })) ∧
      exec (.sysw a 0x109) s = .next (s.goesOn (s.modCtx c fun k => { k with udhead := newHead k.udhead k.udtail v })) ∧
      exec (.sysw a 0x10C) s = .next (s.goesOn (s.modCtx c fun k => { k with evhead := newHead k.evhead k.evtail v }))) ∧
    (s.loadsOut = true → ∀ r ∈ ([0x106, 0x109, 0x10C] : List (BitVec 12)), exec (.sysw a r) s =
      .next (s.modMe fun st => { st with phase := .stalled .operand })) ∧
    (∀ r, (∀ e ∈ strandWrites s.me v ++ fpWrites s.me v, e.1 ≠ r) →
      r ∉ ([0x012, 0x040, 0x041, 0x106, 0x109, 0x10C] : List (BitVec 12)) → exec (.sysw a r) s =
        .next (s.raiseAtIssue s.cur .illegalInstruction (BitVec.ofNat 64 (encode (.sysw a r)))))

/-- R82, R420: RESUME sends a control packet with the whole of its register to the strand it names, released after the
strand's earlier accesses, and goes on; while the router's local port takes no packet it is held (R124). A strand on no
tile of the placement is ILLEGAL_COMBINATION with BADVA the register. -/
def Sys2Proof.Claims.ResumeSendsControlPacket : Prop :=
  ∀ (s : State) (a : GReg), s.canIssue { g := [a] } = true →
    let v := readG s.me a; let n := v.toNat % 2 ^ 15; let c := s.ctxOf s.cur;
    let placed := isGateway n = false ∧ ((s.ctx c).kst = .running ∨ (s.ctx c).kst = .draining) ∧
      (s.ctx c).covers (tileOf n) = true;
    (placed → s.portTakes s.myTile true = true → ∃ t, exec (.resume a) s = .next t ∧
      t = s.goesOn ((s.source c).inject (tileOf s.cur) (tileOf n) true c (s.releaseSet s.cur) (.resume v c)) ∧
      Advanced s t ∧ SameBytes s t ∧ SameStrandsBut s.cur s t ∧ t.acc = s.acc) ∧
    (placed → s.portTakes s.myTile true = false →
      exec (.resume a) s = .next (s.modMe fun st => { st with phase := .stalled .injection })) ∧
    (¬ placed → exec (.resume a) s = .next (s.raiseAtIssue s.cur .illegalCombination v))

/-- R403, R420: a strand reloaded from its image by RESUME is RUNNING at the image's EPC with RSMD set and credit 64,
and every register, mask and special register holds what the image holds for it. That the two low bits of EPC read
as 0 in the program counter is the model's reading of R84 (assumption log 60). -/
def Sys2Proof.Claims.ReturnFromFaultRestoresStrand : Prop :=
  ∀ (st : Strand) (bs : List Byte), let x := st.resumed bs; let f := fieldAt bs;
    x.phase = .running ∧ x.rsmd = true ∧ x.credit = 64 ∧ x.faults = [] ∧
    x.epc = BitVec.ofNat 64 (f 1304 8) ∧ x.pc = BitVec.ofNat 48 (f 1304 8 / 4 * 4) ∧
    (∀ i : Fin 32, x.g[i] = BitVec.ofNat 64 (f (8 * i.val) 8)) ∧
    (∀ i : Fin 16, x.w[i] = BitVec.ofNat 512 (f (256 + 64 * i.val) 64)) ∧
    (∀ i : Fin 8, x.m[i] = BitVec.ofNat 16 (f (1280 + 2 * i.val) 2)) ∧
    x.p = BitVec.ofNat 8 (f 1296 8 / 16) ∧ x.slim = BitVec.ofNat 64 (f 1336 8) ∧
    x.sbase = BitVec.ofNat 64 (f 1328 8) ∧ x.lc = BitVec.ofNat 64 (f 1344 8) ∧
    x.rm = BitVec.ofNat 2 (f 1368 8) ∧ x.flags = BitVec.ofNat 5 (f 1376 8) ∧
    x.rngctr = BitVec.ofNat 64 (f 1384 8) ∧ x.rngstream = BitVec.ofNat 64 (f 1392 8)

/-- R121, R129, R407: the image of a strand holds each of its registers where a reload finds it: what a capture wrote
and a reload read are the registers of the strand within its budget, its masks, its predicates and its special
registers. -/
def Sys2Proof.Claims.ImageHoldsTheStrand : Prop :=
  ∀ (st : Strand) (sst hdr : Nat), sst < 8 →
    let bs := st.imageBytes sst hdr; let f := fieldAt bs;
    bs.length = 2048 ∧
    (∀ i : Fin 32, i.val ≠ 0 → i.val < 8 * (st.code.toNat + 1) → f (8 * i.val) 8 = st.g[i].toNat) ∧
    (∀ i : Fin 16, f (256 + 64 * i.val) 64 = st.w[i].toNat) ∧
    (∀ i : Fin 8, i.val ≠ 0 → f (1280 + 2 * i.val) 2 = st.m[i].toNat) ∧ f 0 8 = 0 ∧ f 1280 2 = 0xFFFF ∧
    f 1296 8 % 8 = sst ∧ f 1304 8 = st.epc.toNat ∧ f 1312 8 = st.cause.toNat ∧ f 1320 8 = st.badva.toNat ∧
    f 1328 8 = st.sbase.toNat ∧ f 1336 8 = st.slim.toNat ∧ f 1344 8 = st.lc.toNat ∧ f 1352 8 = st.ls.toNat ∧
    f 1360 8 = st.le.toNat ∧ f 1376 8 = st.flags.toNat ∧ f 1384 8 = st.rngctr.toNat ∧ f 1392 8 = st.rngstream.toNat ∧
    f 1400 4 = st.jc0.toNat ∧ f 1404 4 = st.jc1.toNat ∧ f 1424 8 = st.hidx.toNat ∧ f 1432 8 = st.msgsrc.toNat

namespace Sys2Proof.Claims

/-- R212: column and row that a destination word names for a sender whose placement offset is `o`; a row of 24 or
more names no tile. -/
def destOf (dw : Word) (o : Nat × Nat) : Nat × Nat :=
  let x := dw.toNat % 32
  let y := dw.toNat / 32 % 32
  if dw.getLsbD 10 then ((o.1 + x) % 32, (o.2 + y) % 24) else (x, y)

/-- R211, R212: the header of a message of the issuing strand to the destination `dw`, with a payload of `len`
bytes; with a reply expected it names reply slot `slot`. -/
def sentHeader (s : State) (dw : Word) (re rels : Bool) (slot len : Nat) : Hdr :=
  let c := s.ctxOf s.cur
  let d := destOf dw ((s.ctx c).x0.toNat, (s.ctx c).y0.toNat)
  { rhidx := if re then BitVec.ofNat 12 (dw.toNat / 2 ^ 52) else 0, len := BitVec.ofNat 9 len, rels := rels,
    seq := s.me.seq, sstr := BitVec.ofNat 2 (s.cur % 4),
    score := if isGateway s.cur then 0 else BitVec.ofNat 3 (s.cur / 4 % 8),
    sy := BitVec.ofNat 5 (tileOf s.cur / 32), sx := BitVec.ofNat 5 (tileOf s.cur % 32), rslot := BitVec.ofNat 6 slot,
    re := re, lclass := BitVec.ofNat 3 ((len + 63) / 64), ctx := BitVec.ofNat 8 c,
    hidx := BitVec.ofNat 12 (dw.toNat / 2 ^ 17), pset := dw.getLsbD 16, prio := BitVec.ofNat 2 (dw.toNat / 2 ^ 14),
    dcore := BitVec.ofNat 3 (dw.toNat / 2 ^ 11), dy := BitVec.ofNat 5 d.2, dx := BitVec.ofNat 5 d.1 }

/-- `n` bytes at the address `va` lie at the place `pa` of the issuing tile's slice, reached by its alias or its window
address, or of the issuing gateway's buffer (R57, R451). -/
def OwnRange (s : State) (va n pa : Nat) : Prop :=
  (isGateway s.cur = false ∧ ∃ off, off + n ≤ 0x300000 ∧ pa = sliceAddr (tileOf s.cur) off ∧
    (va = 0x7F0000000000 + off ∨ va = 0x700000000000 + tileOf s.cur * 0x400000 + off)) ∨
  (isGateway s.cur = true ∧ ∃ off, off + n ≤ 0x100000 ∧ pa = bufferAddr (s.cur / 4 - 6144) off ∧
    va = 0x7F0000000000 + off)

/-- The lowest byte of `n` bytes from `va` that an engine of the tile has locked against a load (R77). -/
def ownLock (s : State) (va n : Nat) : Option Nat :=
  if isGateway s.cur then none else lockHit (s.tile (tileOf s.cur)).locks va n false

/-- A strand held at issue for a cause: nothing but its state changes (R124). -/
def Held (i : Instr) (s : State) (c : StallCause) : Prop :=
  exec i s = .next (s.modMe fun st => { st with phase := .stalled c })

/-- A fault at issue whose BADVA the rules do not state: the strand is FAULTED with that cause and nothing but its
record and the counter of free values changes. -/
def FaultsWith (i : Instr) (s : State) (c : Cause) : Prop :=
  ∃ t : State, exec i s = .next t ∧ OnlyStrand s.cur s t ∧ (t.strand s.cur).phase = .faulted ∧
    (s.me.faults = [] → (t.strand s.cur).cause = c.code.setWidth 9) ∧ (t.strand s.cur).pc = s.me.pc ∧
    (t.strand s.cur).g = s.me.g

/-- R217, R228: the reply packet of the issuing strand to the message it was dispatched with, on VN1 to the requesting
core, its slot and its reply handler, in the request's context. -/
def answered (s : State) (nr : Bool) (args : List Word) : State :=
  let q := s.me.msg.hdr
  ((s.modMe fun st => { st with seq := st.seq + 1 }).source q.ctx.toNat).inject (tileOf s.cur)
    (q.sy.toNat % 24 * 32 + q.sx.toNat) true q.ctx.toNat []
    (.reply { hdr := { sentHeader s 0 false false 0 0 with
      kind := 1, hidx := q.rhidx, rslot := q.rslot, dx := q.sx, dy := q.sy, dcore := q.score, ctx := q.ctx, nr := nr,
      pset := false, prio := 0 }, args := args })

/-- R124, R216, R225: a sending instruction. Without a reply expected it sends its message and goes on. With one, it
reserves the lowest free reply slot of the core, writes its number to `d` and sends; it is held while no slot is free,
and while the router's local port takes no packet. Gateway cores have no form with a reply (R451). -/
def SendOutcome (i : Instr) (s : State) (d : GReg) (re : Bool) (after : List Nat) (msg : Nat → Msg) : Prop :=
  let core := s.core (s.cur / 4)
  let free := fun k => (core.replies.get {} k).reserved = false
  let go := fun (u : State) (k : Nat) =>
    exec i s = .next (s.goesOn ((u.modMe fun st => { st with seq := st.seq + 1 }).sendMsg (tileOf s.cur) after (msg k)))
  let port := s.portTakes (tileOf s.cur) false = true
  (re = true → isGateway s.cur = true → FaultsWith i s .illegalCombination) ∧
  (re = false ∨ isGateway s.cur = false → ¬ port → Held i s .injection) ∧
  (re = false → port → go s 0) ∧
  (re = true → isGateway s.cur = false → port → (∀ k < 64, ¬ free k) → Held i s .replySlot) ∧
  (re = true → isGateway s.cur = false → port → ∀ k < 64, free k → (∀ j < k, ¬ free j) →
    (s.me.spBad d (BitVec.ofNat 64 k) = true → exec i s = .next (s.raiseAtIssue s.cur .stackLimit (BitVec.ofNat 64 k))) ∧
    (s.me.spBad d (BitVec.ofNat 64 k) = false →
      go (((s.source (s.ctxOf s.cur)).setCore (s.cur / 4)
        { core with replies := core.replies.set k { reserved := true, ctx := s.ctxOf s.cur } }).modMe
          fun st => writeG st d (BitVec.ofNat 64 k)) k))

end Sys2Proof.Claims

/-! ### Messages -/

/-- R212 to R214, R218, R219, R235: a message is on its way from the sender's router to the tile it names, as VN0
traffic of its context, and counts as one more source of that context's kernel. One that names no tile is
undeliverable at the sending router with reason 2. A packet that is injected joins the network behind the others, at
its router, and is handed at once to its next link if it may leave (R441 to R443); memory, strands and accesses stay as
they are. -/
def Sys2Proof.Claims.SentMessageTravelsToItsTile : Prop :=
  (∀ (s : State) (t : Nat) (after : List Nat) (m : Msg), let c := m.hdr.ctx.toNat;
    (m.hdr.dy.toNat < 24 → s.sendMsg t after m =
        (s.source c).inject t (m.hdr.dy.toNat * 32 + m.hdr.dx.toNat) false c after (.msg m) ∧
      ((s.sendMsg t after m).ctx c).src = (s.ctx c).src + 1) ∧
    (24 ≤ m.hdr.dy.toNat → s.sendMsg t after m = s.undeliverable t 2 m)) ∧
  (∀ (s : State) (src dst ctx : Nat) (vn1 : Bool) (after : List Nat) (b : Body),
    let u := s.inject src dst vn1 ctx after b;
    let p : Packet := {
      id := s.nextId, src := src, dst := dst, pos := src, vn1 := vn1, ctx := ctx, after := after, body := b };
    let s1 : State := { s with nextId := s.nextId + 1, net := s.net ++ [p] };
    SameBytes s u ∧ (∀ n, u.strand n = s.strand n) ∧ u.acc = s.acc ∧ u.nextId = s.nextId + 1 ∧
    (s1.mayLeave p = false → u.net = s.net ++ [p]) ∧
    (s1.mayLeave p = true → (∀ q ∈ s.net, q.id ≠ s.nextId) → ∃ q, u.net = s.net ++ [q] ∧
      q.moving = true ∧ q.via = some (4 * src + routePort src dst) ∧
      q = { p with moving := true, via := q.via, vc1 := q.vc1, dlx := q.dlx, dly := q.dly }))

/-- R224, R225: SEND and SENDR send the four words of their run to the destination word's handler; SENDR is released
after the strand's earlier accesses (R70). -/
def Sys2Proof.Claims.SendPostsMessage : Prop :=
  ∀ (s : State) (d a b : GReg) (re : Bool), s.canIssue { g := d.val :: a.val :: run b.val 4 } = true →
    ∀ e ∈ ([(.send d a b re, false), (.sendr d a b re, true)] : List (Instr × Bool)),
      SendOutcome e.1 s d re (if e.2 then s.releaseSet s.cur else []) fun k =>
        { hdr := sentHeader s (readG s.me a) re e.2 k 0, args := readRun s.me b.val 4 }

/-- R224, R225, R451: SENDL sends the bytes its descriptor names, from the issuing tile's slice by its alias or its
window address, or from the issuing gateway's buffer. The address must be a multiple of 8 and the range lie there; an
engine's lock on it is RANGE_LOCK. A unit in error is POISON as a deferred fault, and nothing is sent. -/
def Sys2Proof.Claims.SendlPostsPayload : Prop :=
  ∀ (s : State) (d a b : GReg) (re : Bool), s.canIssue { g := d.val :: a.val :: run b.val 5 } = true →
    (re = true → isGateway s.cur = true → FaultsWith (.sendl d a b re) s .illegalCombination) ∧
    ((re = false ∨ isGateway s.cur = false) → ∀ desc, (readRun s.me b.val 5)[4]? = some desc →
      let va := desc.toNat % 2 ^ 48; let len := desc.toNat / 2 ^ 48 % 256 + 1; let hit := ownLock s va len;
      let faults := fun (c : Cause) (v : Nat) =>
        exec (.sendl d a b re) s = .next (s.raiseAtIssue s.cur c (BitVec.ofNat 64 v));
      (va % 8 ≠ 0 → faults .misaligned va) ∧
      (va % 8 = 0 → (∀ pa, ¬ OwnRange s va len pa) → faults .scratchBounds va) ∧
      (∀ pa, va % 8 = 0 → OwnRange s va len pa →
        (∀ l, hit = some l → faults .rangeLock l) ∧
        (hit = none → Sound s pa len → SendOutcome (.sendl d a b re) s d re [] fun k =>
          { hdr := sentHeader s (readG s.me a) re false k len, args := readRun s.me b.val 4,
            payload := (List.range len).map fun i => s.byte (pa + i) }) ∧
        (hit = none → s.poisoned pa len = true → s.portTakes (tileOf s.cur) false = false → Held (.sendl d a b re) s .injection) ∧
        (hit = none → s.poisoned pa len = true → re = false → s.portTakes (tileOf s.cur) false = true → s.me.faults = [] →
          ∃ t : State, exec (.sendl d a b re) s = .next t ∧ OnlyStrand s.cur s t ∧ (t.strand s.cur).phase = .faulted ∧
            (t.strand s.cur).cause = 0x10A ∧ (t.strand s.cur).badva = BitVec.ofNat 64 va ∧
            (t.strand s.cur).pc = s.me.nextPc)))

/-- R124, R226: SPAWN that does not run its child inline sends a short message to a core of the issuing tile, with the
handler index of its register and no reply; it is held while the router's local port takes no packet. -/
def Sys2Proof.Claims.SpawnPostsToOwnTile : Prop :=
  ∀ (s : State) (a b : GReg) (c : BitVec 3), s.canIssue { g := a.val :: run b.val 4 ++ [1, 2, 3] } = true →
    let h := (readG s.me a).toNat % 4096; let e := ((s.tile (tileOf s.cur)).handlers.get 0 h);
    let inline := isGateway s.cur = false ∧ c.toNat = s.cur / 4 % 8 ∧
      (∀ k < 4, (s.strand (s.cur / 4 * 4 + k)).phase ≠ .idle) ∧ e.getLsbD 63 = true ∧ e.getLsbD (40 + c.toNat) = true ∧
      e.getLsbD 62 = false ∧ e.getLsbD 61 = false ∧ e.toNat / 2 ^ 36 % 4 ≤ s.me.code.toNat ∧ s.me.inl.toNat < 15;
    (¬ inline → s.portTakes (tileOf s.cur) false = false → Held (.spawn a b c) s .injection) ∧
    (¬ inline → s.portTakes (tileOf s.cur) false = true → exec (.spawn a b c) s = .next (s.goesOn ((s.modMe fun st => { st with seq := st.seq + 1 }).sendMsg
      (tileOf s.cur) []
      { hdr := { sentHeader s 0 false false 0 0 with
          dx := BitVec.ofNat 5 (tileOf s.cur % 32), dy := BitVec.ofNat 5 (tileOf s.cur / 32), dcore := c,
          hidx := BitVec.ofNat 12 h, pset := false, prio := 0 },
        args := readRun s.me b.val 4 }))) ∧
    (inline → (readG s.me 2 - 64).toNat < s.me.slim.toNat →
      exec (.spawn a b c) s = .next (s.raiseAtIssue s.cur .stackLimit (readG s.me 2 - 64)))

/-- R227: a child run inline from a stack in the issuing tile's slice stores the return address, lk and g3 at the new
sp, takes the arguments in g4 to g7 and 0 in g3, counts the depth up and enters the handler. -/
def Sys2Proof.Claims.SpawnInlineCallsHandler : Prop :=
  ∀ (s : State) (a b : GReg) (c : BitVec 3) (off : Nat),
    s.canIssue { g := a.val :: run b.val 4 ++ [1, 2, 3] } = true → isGateway s.cur = false →
    let h := (readG s.me a).toNat % 4096; let e := ((s.tile (tileOf s.cur)).handlers.get 0 h); let n := readG s.me 2 - 64;
    let pa := sliceAddr (tileOf s.cur) off;
    c.toNat = s.cur / 4 % 8 → (∀ k < 4, (s.strand (s.cur / 4 * 4 + k)).phase ≠ .idle) → e.getLsbD 63 = true →
    e.getLsbD (40 + c.toNat) = true → e.getLsbD 62 = false → e.getLsbD 61 = false →
    e.toNat / 2 ^ 36 % 4 ≤ s.me.code.toNat → s.me.inl.toNat < 15 → s.me.slim.toNat ≤ n.toNat →
    n.toNat = 0x7F0000000000 + off → off % 8 = 0 → off + 24 ≤ 0x2F0800 → (s.tile (tileOf s.cur)).locks = [] →
    (s.tile (tileOf s.cur)).watches = [] → s.me.stepMode = false →
    ∃ t : State, exec (.spawn a b c) s = .next t ∧ SameStrandsBut s.cur s t ∧ SameBytesOutside s t pa 24 ∧
      memNat t pa 8 = s.me.pc.toNat + 4 ∧ memNat t (pa + 8) 8 = (readG s.me 1).toNat ∧
      memNat t (pa + 16) 8 = (readG s.me 3).toNat ∧ (t.strand s.cur).phase = .running ∧
      (t.strand s.cur).inl = s.me.inl + 1 ∧
      (t.strand s.cur).pc = BitVec.ofNat 48 (((s.ctx (s.ctxOf s.cur)).imageBase.toNat + e.toNat % 2 ^ 32) / 4 * 4) ∧
      readG (t.strand s.cur) 2 = n ∧ readG (t.strand s.cur) 3 = 0 ∧
      (∀ k : Fin 4, (t.strand s.cur).g[4 + k.val] = (readRun s.me b.val 4).getD k.val 0) ∧
      (∀ r : GReg, r.val < 2 ∨ 8 ≤ r.val → readG (t.strand s.cur) r = readG s.me r)

/-- R124, R217, R228: REPLY answers the message the strand was dispatched with, once; it is held while the router's local
port takes no packet. A second one, or one to a message that expects none, is REPLY_ORPHAN. -/
def Sys2Proof.Claims.ReplyAnswersOnce : Prop :=
  ∀ (s : State) (b : GReg), s.canIssue { g := run b.val 4 } = true → let port := s.portTakes (tileOf s.cur) true = true;
    (s.me.owed = true → s.me.replied = false → ¬ port → Held (.reply b) s .injection) ∧
    (s.me.owed = true → s.me.replied = false → port → ∃ t : State, exec (.reply b) s = .next t ∧
      t = s.goesOn ((answered s false (readRun s.me b.val 4)).modMe fun st => { st with replied := true }) ∧
      Advanced s t ∧ SameBytes s t ∧ SameStrandsBut s.cur s t ∧ (t.strand s.cur).replied = true ∧
      (t.strand s.cur).g = s.me.g ∧ t.acc = s.acc) ∧
    (s.me.owed = false ∨ s.me.replied = true → FaultsWith (.reply b) s .replyOrphan)

/-- R121, R217, R229: END of a strand that runs no inline child and awaits no load makes it IDLE and frees its pool
slot; a reply it still owes is sent with NR set and zero arguments. It is held while a load is pending. -/
def Sys2Proof.Claims.EndReleasesTheStrand : Prop :=
  ∀ (s : State), s.canIssue { g := [1, 3] } = true → s.me.inl = 0 →
    (∀ k < 4, (s.strand (s.cur / 4 * 4 + k)).phase ≠ .savedPre) →
    (s.loadsPending = true → Held .endH s .operand) ∧
    (s.loadsPending = false → ∃ t : State, exec .endH s = .next t ∧ SameBytes s t ∧ SameStrandsBut s.cur s t ∧
      (t.strand s.cur).phase = .idle ∧ (t.strand s.cur).pool = none ∧ t.acc = s.acc ∧
      (∀ k, s.me.pool = some k → k ∉ (t.core (s.cur / 4)).pool) ∧
      (s.me.owed = false ∨ s.me.replied = true → t.net = s.net) ∧
      (s.me.owed = true → s.me.replied = false → t.net = (answered s true [0, 0, 0, 0]).net))

/-- R229, R419: END of an inline child whose stack lies in the issuing tile's slice returns to the address at sp with lk
and g3 from the stack, sp raised by 64 and the depth counted down; no BREAKPOINT follows it. -/
def Sys2Proof.Claims.EndReturnsFromInlineChild : Prop :=
  ∀ (s : State) (off : Nat), s.canIssue { g := [1, 3] } = true → isGateway s.cur = false → s.me.inl ≠ 0 →
    s.me.pend = [] → s.me.landing = [] → (readG s.me 2).toNat = 0x7F0000000000 + off →
    off % 8 = 0 → off + 24 ≤ 0x300000 → (s.tile (tileOf s.cur)).locks = [] →
    let pa := sliceAddr (tileOf s.cur) off; let ret := memNat s pa 8;
    Sound s pa 24 → ret < 2 ^ 48 → ret % 4 = 0 → s.me.slim.toNat ≤ (readG s.me 2 + 64).toNat →
    ∃ t : State, exec .endH s = .next t ∧ SameBytes s t ∧ SameStrandsBut s.cur s t ∧ (t.strand s.cur).phase = .running ∧
      (t.strand s.cur).pc = BitVec.ofNat 48 ret ∧ (t.strand s.cur).inl = s.me.inl - 1 ∧
      readG (t.strand s.cur) 1 = BitVec.ofNat 64 (memNat s (pa + 8) 8) ∧
      readG (t.strand s.cur) 3 = BitVec.ofNat 64 (memNat s (pa + 16) 8) ∧
      readG (t.strand s.cur) 2 = readG s.me 2 + 64 ∧
      (∀ r : GReg, r.val = 0 ∨ 4 ≤ r.val → readG (t.strand s.cur) r = readG s.me r)

/-- R220, R232, R233: HTSET replaces an entry of the tile's handler table, its reserved bits 0, and HTCLR makes one
invalid; the change takes effect at the end of the clock, in program order. The indices 0xFF0 to 0xFFD are
ILLEGAL_COMBINATION, and a valid entry whose entry point is no multiple of 4 is MISALIGNED. -/
def Sys2Proof.Claims.HandlerTableWrites : Prop :=
  (∀ (s : State) (a b : GReg), let i := readG s.me a; let v := readG s.me b; let k := i.toNat % 4096;
    let t := s.tile (tileOf s.cur); let bad := 0xFF0 ≤ k ∧ k ≤ 0xFFD;
    let sets := fun x => .next (s.goesOn (s.setTile (tileOf s.cur) { t with sets := t.sets ++ [(k, x)] }));
    (s.canIssue { g := [a, b] } = true →
      (bad → exec (.htset a b) s = .next (s.raiseAtIssue s.cur .illegalCombination i)) ∧
      (¬ bad → v.getLsbD 63 = true → v.toNat % 4 ≠ 0 → exec (.htset a b) s = .next (s.raiseAtIssue s.cur .misaligned v)) ∧
      (¬ bad → v.getLsbD 63 = false ∨ v.toNat % 4 = 0 → exec (.htset a b) s = sets (some (v &&& 0xE7FFFFF0FFFFFFFF)))) ∧
    (s.canIssue { g := [a] } = true →
      (bad → exec (.htclr a) s = .next (s.raiseAtIssue s.cur .illegalCombination i)) ∧
      (¬ bad → exec (.htclr a) s = sets none))) ∧
  (∀ (t : Tile) (refill : Bool), (t.tick refill).sets = [] ∧
    (t.sets = [] → (t.tick refill).handlers = t.handlers) ∧
    (∀ l k x j, t.sets = l ++ [(k, x)] →
      let e := (({ t with sets := l } : Tile).tick refill).handlers.get 0 j;
      (t.tick refill).handlers.get 0 j =
        if j = k then (match x with | some v => v | none => e &&& 0x7FFFFFFFFFFFFFFF) else e))

/-- R230, R231: ARMW evaluates its condition on the word at once: it posts the bound message when it holds, and else
keeps the watch in the tile's table of 64 entries, held while the table is full. Of a kernel that has been
DRAINING since an earlier clock the post is discarded (R394). An address that is no multiple of 8
is MISALIGNED and one outside the slice SCRATCH_BOUNDS. -/
def Sys2Proof.Claims.ArmwWatchesOrPosts : Prop :=
  ∀ (s : State) (a b : GReg) (c : BitVec 3), s.canIssue { g := a.val :: run b.val 6 } = true → isGateway s.cur = false →
    c.toNat < 6 →
    let ea := readG s.me a; let r := readRun s.me b.val 6; let tn := tileOf s.cur; let t := s.tile tn;
    let cmp := r.getD 0 0; let dw := r.getD 1 0; let k := s.ctx (s.ctxOf s.cur);
    let d := destOf dw (k.x0.toNat, k.y0.toNat);
    let faults := fun (x : Cause) => exec (.armw a b c) s = .next (s.raiseAtIssue s.cur x ea);
    (ea.toNat % 8 ≠ 0 → faults .misaligned) ∧
    (ea.toNat % 8 = 0 → (∀ off, off + 8 ≤ 0x300000 → ea.toNat ≠ 0x7F0000000000 + off ∧
      ea.toNat ≠ 0x700000000000 + tn * 0x400000 + off) → faults .scratchBounds) ∧
    (∀ off, ea.toNat % 8 = 0 → off + 8 ≤ 0x300000 →
      (ea.toNat = 0x7F0000000000 + off ∨ ea.toNat = 0x700000000000 + tn * 0x400000 + off) →
      let v : Word := BitVec.ofNat 64 (memNat s (sliceAddr tn off) 8);
      let holds := [decide (v = cmp), decide (v ≠ cmp), decide (v.toInt < cmp.toInt), decide (cmp.toInt ≤ v.toInt),
        decide (v.toNat < cmp.toNat), decide (cmp.toNat ≤ v.toNat)].getD c.toNat false;
      (64 ≤ t.watches.length → Held (.armw a b c) s .injection) ∧
      (t.watches.length < 64 → holds = false → exec (.armw a b c) s = .next (s.goesOn (s.setTile tn
        { t with watches := t.watches ++
          [{ off := off, cond := c, cmp := cmp, dest := dw, args := r.drop 2, ctx := s.ctxOf s.cur }] }))) ∧
      (t.watches.length < 64 → holds = true → k.kst = .draining ∧ k.drainAt ≠ s.time →
        exec (.armw a b c) s = .next (s.goesOn s)) ∧
      (t.watches.length < 64 → holds = true → ¬ (k.kst = .draining ∧ k.drainAt ≠ s.time) → exec (.armw a b c) s = .next (s.goesOn (s.post tn 1 []
        { hdr := {
            posted := true, ctx := BitVec.ofNat 8 (s.ctxOf s.cur), sy := BitVec.ofNat 5 (tn / 32),
            sx := BitVec.ofNat 5 (tn % 32), hidx := BitVec.ofNat 12 (dw.toNat / 2 ^ 17), pset := dw.getLsbD 16,
            prio := BitVec.ofNat 2 (dw.toNat / 2 ^ 14), dcore := BitVec.ofNat 3 (dw.toNat / 2 ^ 11),
            dy := BitVec.ofNat 5 d.2, dx := BitVec.ofNat 5 d.1 },
          args := r.drop 2 }))))

/-- R83, R211, R234, R236, R237: REDLV of a record in the issuing tile's slice gives 0 and does nothing when its VALID
bit is 0; else it clears that bit, sends the record's packet again as the kind it has, without RE, RELS and FPOST, to
the destination of its third register when that is not g0, and gives 1. A packet whose row names no tile is
undeliverable again. Corrected errors of the record are corrected. -/
def Sys2Proof.Claims.RedlvSendsRecordAgain : Prop :=
  ∀ (s : State) (d a b : GReg) (pa : Nat), s.canIssue { g := [d, a, b] } = true →
    s.checkAccess s.cur (readG s.me a) 384 64 { r := true, w := true, atomic := true } = .ok (.mem pa none) false →
    isOwn s.myCore (.mem pa none) = true → s.poisoned pa 384 = false →
    let s1 := ({ s with nextId := s.nextId + 1 } : State).correct (s.ctxOf s.cur) pa 384; let w := memNat s pa 8;
    let k := s.ctx (s.ctxOf s.cur); let bytes := (List.range 384).map fun i => s.byte (pa + i);
    let h := Hdr.ofBits (memNat s (pa + 64) 16);
    let o := destOf (readG s.me b) (k.x0.toNat, k.y0.toNat); let dw := (readG s.me b).toNat;
    let h1 : Hdr := if b = 0 then h else { h with
      hidx := BitVec.ofNat 12 (dw / 2 ^ 17), pset := (readG s.me b).getLsbD 16, prio := BitVec.ofNat 2 (dw / 2 ^ 14),
      dcore := BitVec.ofNat 3 (dw / 2 ^ 11), dy := BitVec.ofNat 5 o.2, dx := BitVec.ofNat 5 o.1 };
    let m : Msg := {
      hdr := { h1 with re := false, rels := false, fpost := false },
      args := (List.range 4).map fun i => BitVec.ofNat 64 (memNat s (pa + 80 + 8 * i) 8),
      payload := (bytes.drop 128).take h.len.toNat };
    let cleared := s1.storeAt pa none (leBytes 8 (w - 1)); let c := m.hdr.ctx.toNat;
    let again := fun vn1 x => (cleared.source c).inject (tileOf s.cur) (m.hdr.dy.toNat * 32 + m.hdr.dx.toNat) vn1 c [] x;
    (w % 2 = 0 → Returns (.redlv d a b) s s1 d 0) ∧
    (w % 2 = 1 → 24 ≤ m.hdr.dy.toNat → Returns (.redlv d a b) s (cleared.undeliverable (tileOf s.cur) 2 m) d 1) ∧
    (w % 2 = 1 → m.hdr.dy.toNat < 24 →
      (m.hdr.kind = 1 → Returns (.redlv d a b) s (again true (.reply m)) d 1) ∧
      (m.hdr.kind = 2 → Returns (.redlv d a b) s
        (again false (.counter m.hdr (m.hdr.hidx.toNat % 256) (BitVec.ofNat 32 (memNat s (pa + 80) 8)))) d 1) ∧
      (m.hdr.kind ≠ 1 → m.hdr.kind ≠ 2 → Returns (.redlv d a b) s (again false (.msg m)) d 1))

namespace Sys2Proof.Claims

/-- R240: the counter that CNTI arms, before the crossing rule. -/
def armedCounter (k : Counter) (r : List Word) (keep : Bool) : Counter :=
  let w := r.getD 0 0
  { count := if keep then k.count else 0, st := .armed, rearm := w.getLsbD 32, rls := w.getLsbD 33, sat := false,
    thresh := if w.toNat % 2 ^ 32 = 0 then 1 else BitVec.ofNat 32 w.toNat, dest := r.getD 1 0, args := r.drop 2 }

end Sys2Proof.Claims

/-- R241: an addition counts, saturating; an armed counter whose count reaches its threshold posts, once and is then
FIRED, or once and is then FREE with count 0 (RLS), or, with REARM, as often as the threshold goes into the count,
which keeps the remainder. A FREE or FIRED counter posts nothing. -/
def Sys2Proof.Claims.CounterAdditions : Prop :=
  ∀ (k : Counter) (v : Nat), v < 2 ^ 32 →
    let n := min (k.count.toNat + v) (2 ^ 32 - 1);
    let k1 := { k with count := BitVec.ofNat 32 n, sat := k.sat || decide (2 ^ 32 ≤ k.count.toNat + v) };
    (k.st ≠ .armed ∨ n < k.thresh.toNat → k.add v = (k1, 0)) ∧
    (k.st = .armed → k.thresh.toNat ≤ n →
      (k.rls = true → k.add v = ({ k1 with st := .free, count := 0 }, 1)) ∧
      (k.rls = false → k.rearm = false → k.add v = ({ k1 with st := .fired }, 1)) ∧
      (k.rls = false → k.rearm = true → k.thresh ≠ 0 → k.add v =
        ({ k1 with count := BitVec.ofNat 32 (n % k.thresh.toNat) }, n / k.thresh.toNat)))

/-- R238 to R242: CNTI arms a counter of the issuing tile and applies the crossing rule with 0; CNTA sends an increment
to the counter and tile its counter word names, CNTA.REL after the strand's earlier accesses, and is held while the
router's local port takes no packet; an increment whose row names no tile is undeliverable (R235). CNTR reads the state
word, and CNTR.CLR also frees the counter. -/
def Sys2Proof.Claims.CounterInstructions : Prop :=
  ∀ (s : State) (a b : GReg) (x : Bool), let tn := tileOf s.cur; let t := s.tile tn; let i := (readG s.me a).toNat % 256;
    let k := t.counters.get {} i;
    (s.canIssue { g := a.val :: run b.val 6 } = true → exec (.cnti a b x) s = .next (s.goesOn ((s.setTile tn
      { t with counters := t.counters.set i (armedCounter k (readRun s.me b.val 6) x) }).addCount tn i 0))) ∧
    (s.canIssue { g := [a, b] } = true →
      let w := (readG s.me a).toNat; let c := s.ctx (s.ctxOf s.cur);
      let o := destOf (BitVec.ofNat 64 (w % 2 ^ 11)) (c.x0.toNat, c.y0.toNat);
      let h : Hdr := { sentHeader s 0 false x 0 0 with
        kind := 2, hidx := BitVec.ofNat 12 (w / 2 ^ 17 % 256), dcore := 0, pset := false, prio := 0,
        dy := BitVec.ofNat 5 o.2, dx := BitVec.ofNat 5 o.1 };
      let s1 := s.modMe fun st => { st with seq := st.seq + 1 };
      (s.portTakes tn false = false → Held (.cnta a b x) s .injection) ∧
      (s.portTakes tn false = true → s.ctxOf s.cur < 256 →
        (o.2 < 24 → exec (.cnta a b x) s = .next (s.goesOn ((s1.source (s.ctxOf s.cur)).inject tn (o.2 * 32 + o.1) false
          (s.ctxOf s.cur) (if x then s.releaseSet s.cur else [])
          (.counter h (w / 2 ^ 17 % 256) (BitVec.ofNat 32 (readG s.me b).toNat))))) ∧
        (24 ≤ o.2 → exec (.cnta a b x) s = .next (s.goesOn (s1.undeliverable tn 2
          { hdr := h, args := [BitVec.ofNat 64 ((readG s.me b).toNat % 2 ^ 32), 0, 0, 0] }))))) ∧
    (∀ d : GReg, s.canIssue { g := [d, a] } = true →
      let v : Word := BitVec.ofNat 64 (k.count.toNat * 2 ^ 32 +
        (match k.st with | .free => 0 | .armed => 2 ^ 30 | .fired => 2 ^ 31) +
        k.rearm.toNat * 2 ^ 29 + k.rls.toNat * 2 ^ 28 + k.sat.toNat * 2 ^ 27);
      (s.me.spBad d v = true → exec (.cntr d a x) s = .next (s.raiseAtIssue s.cur .stackLimit v)) ∧
      (s.me.spBad d v = false → exec (.cntr d a x) s = .next (s.goesOn ((if x then s.setTile tn
        { t with counters := t.counters.set i { k with st := .free, count := 0, sat := false } } else s).modMe
          fun st => writeG st d v))))

namespace Sys2Proof.Claims

/-- Elements of an entry of a Beryl FIFO, missing ones 0. -/
def elemWord (e : BEntry) (k : Nat) : Nat := (e.elems.getD k 0).toNat

/-- R194: whether core `c`'s q3 reaches the tile's input FIFO: GBIND has bound it to the core, and it is open. -/
def inputBound (f : Fabric) (c : Nat) : Prop :=
  (f.bind.getD 0 0).toNat % 4 = 1 ∧ f.inClosed = false ∧ (f.bind.getD 0 0).getLsbD (8 + c) = true

/-- R194: whether core `c`'s q2 reaches the tile's output FIFO. -/
def outputBound (f : Fabric) (c : Nat) : Prop :=
  f.bind ≠ [] ∧ (f.bind.getD 0 0).toNat / 4 % 4 = 0 ∧ (f.bind.getD 0 0).getLsbD (16 + c) = true

/-- The state with the issuing tile's fabric replaced. -/
def withFabric (s : State) (f : Fabric) : State :=
  s.setTile (tileOf s.cur) { s.tile (tileOf s.cur) with fabric := f }

end Sys2Proof.Claims

/-! ### Queue registers -/

/-- R193, R194, R255 to R258: a push enters its queue at the end and a pop or a peek takes the head, whole entries at
the Beryl FIFOs; a full or unbound queue holds a push and an empty or unbound one a pop. Pops come before pushes in a
clock: a pop does not see an entry pushed in its own clock. An inbound queue takes one push a clock, and while a
completion action waits for it the two take turns. QCNT gives the number of entries. -/
def Sys2Proof.Claims.QueueRegisters : Prop :=
  ∀ (s : State) (d a : GReg), isGateway s.cur = false →
    let core := s.cur / 4; let c := core % 8; let nxt := core / 8 * 8 + (c + 1) % 8;
    let f := (s.tile (tileOf s.cur)).fabric; let x := readG s.me a;
    (s.canIssue { g := [a] } = true →
      let to_ := s.core nxt; let rival := s.pushWaits nxt;
      let takes := to_.inq.length < 16 ∧ to_.inqFresh = 0 ∧ ¬ (rival = true ∧ to_.pushCompletionNext = true);
      (¬ takes → Held (.qpush a 1) s .queueFull) ∧
      (takes → exec (.qpush a 1) s = .next (s.goesOn (s.setCore nxt { to_ with
        inq := to_.inq ++ [x], inqFresh := 1, pushCompletionNext := rival || to_.pushCompletionNext }))) ∧
      (¬ (inputBound f c ∧ f.inFifo.length < 32) → Held (.qpush a 3) s .queueFull) ∧
      (inputBound f c → f.inFifo.length < 32 → exec (.qpush a 3) s = .next (s.goesOn (withFabric s { f with
        inFresh := f.inFresh + 1,
        inFifo := f.inFifo ++ [BitVec.ofNat 32 x.toNat :: BitVec.ofNat 32 (x.toNat / 2 ^ 32) ::
          List.replicate 62 0] })))) ∧
    (s.canIssue { g := [d] } = true →
      ((s.core core).inq.length ≤ (s.core core).inqFresh →
        Held (.qpop d 0) s .queueEmpty ∧ Held (.qpeek d 0) s .queueEmpty) ∧
      (∀ v r, (s.core core).inq = v :: r → (s.core core).inqFresh < (s.core core).inq.length →
        (s.me.spBad d v = true → ∀ i ∈ ([.qpop d 0, .qpeek d 0] : List Instr),
          exec i s = .next (s.raiseAtIssue s.cur .stackLimit v)) ∧
        (s.me.spBad d v = false →
          exec (.qpop d 0) s = .next (s.goesOn
            ((s.setCore core { s.core core with inq := r }).modMe fun st => writeG st d v)) ∧
          exec (.qpeek d 0) s = .next (s.completes (writeG s.me d v)))) ∧
      (¬ (outputBound f c ∧ f.outFresh < f.outFifo.length) →
        Held (.qpop d 2) s .queueEmpty ∧ Held (.qpeek d 2) s .queueEmpty) ∧
      (outputBound f c → f.outFresh < f.outFifo.length → ∀ e r, f.outFifo = e :: r →
        let v : Word := BitVec.ofNat 64 (elemWord e 0 + 2 ^ 32 * elemWord e 1);
        s.me.spBad d v = false →
        exec (.qpop d 2) s = .next (s.goesOn ((withFabric s { f with outFifo := r }).modMe fun st => writeG st d v)) ∧
        exec (.qpeek d 2) s = .next (s.completes (writeG s.me d v))) ∧
      Writes (.qcnt d 0) s d (BitVec.ofNat 64 (s.core core).inq.length) ∧
      Writes (.qcnt d 1) s d (BitVec.ofNat 64 (s.core nxt).inq.length) ∧
      (outputBound f c → Writes (.qcnt d 2) s d (BitVec.ofNat 64 f.outFifo.length)) ∧
      (¬ outputBound f c → Writes (.qcnt d 2) s d 0) ∧
      (inputBound f c → Writes (.qcnt d 3) s d (BitVec.ofNat 64 f.inFifo.length)) ∧
      (¬ inputBound f c → Writes (.qcnt d 3) s d 32))

/-- R193, R194: VQPUSH puts one entry into the input FIFO, its disabled elements and those past its registers 0, and
VQPOP takes one entry from the output FIFO into the enabled elements of its registers. -/
def Sys2Proof.Claims.VectorQueueForms : Prop :=
  ∀ (s : State) (a : WReg) (m : MReg) (t : VType) (n : BitVec 2), isGateway s.cur = false →
    s.canIssue { w := run a.val (n.toNat + 1) } = true → a.val + n.toNat < 16 →
    let c := s.cur / 4 % 8; let f := (s.tile (tileOf s.cur)).fabric; let lanes := 16 * (n.toNat + 1);
    let on := fun k => enabled (readM s.me m) lanes k;
    let elem := fun (st : Strand) k => (readW st (Fin.ofNat 16 (a.val + k / 16))).toNat / 2 ^ (32 * (k % 16)) % 2 ^ 32;
    (¬ (inputBound f c ∧ f.inFifo.length < 32) → Held (.vqpush a m n) s .queueFull) ∧
    (inputBound f c → f.inFifo.length < 32 → exec (.vqpush a m n) s = .next (s.goesOn (withFabric s { f with
      inFresh := f.inFresh + 1,
      inFifo := f.inFifo ++ [(List.range 64).map fun k =>
        if k < lanes ∧ on k = true then BitVec.ofNat 32 (elem s.me k) else 0] }))) ∧
    (¬ (outputBound f c ∧ f.outFresh < f.outFifo.length) → Held (.vqpop a m t n) s .queueEmpty) ∧
    (outputBound f c → f.outFresh < f.outFifo.length → ∀ e r, f.outFifo = e :: r → e.elems.length = 64 →
      ∃ st, exec (.vqpop a m t n) s = .next (s.goesOn ((withFabric s { f with outFifo := r }).modMe fun _ => st)) ∧
        st = { s.me with w := st.w } ∧
        (∀ k < lanes, elem st k = if on k = true then elemWord e k else elem s.me k) ∧
        (∀ j : Fin 16, j.val < a.val ∨ a.val + n.toNat < j.val → st.w[j] = s.me.w[j]))

namespace Sys2Proof.Claims

/-- The barrier object in 32 bytes of memory. -/
def barrierIn (s : State) (pa : Nat) : BarObj := BarObj.ofBytes ((List.range 32).map fun i => s.byte (pa + i))

/-- R272: whether an object of this form completes its phase, and whether it is found below zero. -/
def completing (o : BarObj) : Prop := o.init = true ∧ o.arrived = o.expect ∧ o.pending = 0

/-- R272: the object after the flip. -/
def flipped (o : BarObj) (time : Word) : BarObj :=
  let e := (o.expect + 65536 - o.drop) % 65536
  { o with phase := !o.phase, expect := e, drop := 0, arrived := 0, pending := o.baseb,
           dbase := time.toNat % 2 ^ 32, init := e != 0 }

/-- R271: the object after an arrival that adds `add` bytes, before the completion. -/
def arrivedIn (o : BarObj) (add : Nat) (drop : Bool) : BarObj :=
  { o with arrived := (o.arrived + 1) % 65536, pending := (o.pending + add % 2 ^ 56) % 2 ^ 56,
           drop := if drop then (o.drop + 1) % 2 ^ 15 else o.drop }

/-- A barrier instruction on an object in the issuing tile's slice: the checks pass, no unit is in error, and an
operation that releases finds the strand's earlier accesses performed. -/
def BarrierAt (s : State) (ea : Word) (pa : Nat) : Prop :=
  isGateway s.cur = false ∧ OwnAt s ea 32 { r := true, w := true, atomic := true } pa ∧ Sound s pa 32 ∧
    s.released (s.releaseSet s.cur) = true

/-- R271: the arrivals. -/
def arrivals (d a b : GReg) (x : Word) : List (Instr × List Nat × Nat × Bool) :=
  [ (.barr d a, [d, a], 0, false), (.barrb d a b, [d, a, b], x.toNat, false), (.bdrop d a, [d, a], 0, true) ]

/-- R271 to R273: an arrival at an open barrier that lacks one is counted and its bytes are added; it gives the
phase, and with 2 added when it completes it, which flips the phase. -/
def BarrierArrivals : Prop :=
  ∀ (s : State) (d a b : GReg) (pa : Nat), BarrierAt s (readG s.me a) pa →
    let o := barrierIn s pa; let s1 : State := { s with nextId := s.nextId + 1 };
    ∀ e ∈ arrivals d a b (readG s.me b), s.canIssue { g := e.2.1 } = true →
      let o1 := arrivedIn o e.2.2.1 e.2.2.2;
      (o.init = true → o.arrived ≠ o.expect → ¬ completing o1 → ¬ (o1.arrived = o1.expect ∧ 2 ^ 55 ≤ o1.pending) →
        Returns e.1 s (s1.storeAt pa none o1.bytes) d (if o.phase then 1 else 0)) ∧
      (o.init = true → o.arrived ≠ o.expect → completing o1 → (s.tile (tileOf s.cur)).conts = [] →
        Returns e.1 s (s1.storeAt pa none (flipped o1 s.time).bytes) d (if o.phase then 3 else 2)) ∧
      (o.init = false ∨ o.arrived = o.expect → Unwatched s pa 32 → s.me.faults = [] →
        ∃ t : State, exec e.1 s = .next t ∧ SameStrandsBut s.cur s t ∧ SameBytesOutside s t pa 32 ∧
          (pa % 32 = 0 → isReservedByte pa = false → barrierIn t pa = { o with ovr := true }) ∧
          (t.strand s.cur).phase = .faulted ∧ (t.strand s.cur).cause = 0x10D ∧ (t.strand s.cur).g = s.me.g ∧
          (t.strand s.cur).badva = readG s.me a ∧ (t.strand s.cur).pc = s.me.nextPc)

/-- R266, R271, R272: BINIT opens the barrier with its phase kept, BTEST tells whether an open barrier's phase
differs from the one given, and BBYTE takes bytes off and completes a phase that waited for them. -/
def BarrierSetUpTestAndBytes : Prop :=
  ∀ (s : State) (d a b : GReg) (pa : Nat), BarrierAt s (readG s.me a) pa →
    let o := barrierIn s pa; let s1 : State := { s with nextId := s.nextId + 1 };
    let free := (s.tile (tileOf s.cur)).conts = [];
    (s.canIssue { g := a.val :: run b.val 2 } = true → free →
      let r := readRun s.me b.val 2; let e := (r.getD 0 0).toNat % 2 ^ 16; let y := (r.getD 1 0).toNat % 2 ^ 32;
      let o1 : BarObj := {
        phase := o.phase, expect := e, init := true, pending := y, baseb := y, dbase := s.time.toNat % 2 ^ 32 };
      exec (.binit a b) s = .next (s.goesOn (s1.storeAt pa none
        (if e = 0 ∧ y = 0 then flipped o1 s.time else o1).bytes))) ∧
    (s.canIssue { g := [d, a, b] } = true → Returns (.btest d a b) s s1 d
      (if o.init = true ∧ o.phase ≠ (readG s.me b).getLsbD 0 then 1 else 0)) ∧
    (s.canIssue { g := [a, b] } = true → free →
      let o1 := { o with pending := (o.pending + 2 ^ 56 - (readG s.me b).toNat % 2 ^ 56) % 2 ^ 56 };
      ¬ (o1.init = true ∧ o1.arrived = o1.expect ∧ 2 ^ 55 ≤ o1.pending) →
      exec (.bbyte a b) s = .next (s.goesOn (s1.storeAt pa none
        (if o1.init = true ∧ o1.arrived = o1.expect ∧ o1.pending = 0 then flipped o1 s.time else o1).bytes)))

/-- R275: BWAIT gives 0 at a closed barrier, 1 when it keeps the continuation, 2 when the phase awaited is over and 3
when its deadline has passed; in the last two the continuation is posted at once, or discarded of a kernel that has
been DRAINING since an earlier clock (R394). -/
def BarrierWaits : Prop :=
  ∀ (s : State) (d a b : GReg) (pa : Nat), BarrierAt s (readG s.me a) pa → Unwatched s pa 32 →
    s.canIssue { g := d.val :: a.val :: run b.val 6 } = true → (s.tile (tileOf s.cur)).conts = [] →
    let o := barrierIn s pa; let r := readRun s.me b.val 6; let tn := tileOf s.cur;
    let phase := (r.getD 0 0).getLsbD 0; let dl := (r.getD 0 0).toNat / 2 ^ 32;
    let k := s.ctx (s.ctxOf s.cur); let to_ := destOf (r.getD 1 0) (k.x0.toNat, k.y0.toNat);
    let age := (s.time.toNat % 2 ^ 32 + 2 ^ 32 - o.dbase) % 2 ^ 32; let late := dl ≠ 0 ∧ dl ≤ age;
    let gives := fun (v : Word) (effect : State → Prop) => s.me.spBad d v = false →
      ∃ t : State, exec (.bwait d a b) s = .next t ∧ Advanced s t ∧ SameStrandsBut s.cur s t ∧ effect t ∧
        (∀ x : GReg, readG (t.strand s.cur) x = if x = d ∧ d ≠ 0 then v else readG s.me x);
    let posted := fun (tmo : Bool) (t : State) =>
      (k.kst = .draining ∧ k.drainAt ≠ s.time → t.net = s.net) ∧
      (¬ (k.kst = .draining ∧ k.drainAt ≠ s.time) → ∃ m : Msg, m.args = r.drop 2 ∧ m.hdr.tmo = tmo ∧
        m.hdr.posted = true ∧ m.hdr.hidx = BitVec.ofNat 12 ((r.getD 1 0).toNat / 2 ^ 17) ∧
        t.net = (({ s with nextId := s.nextId + 1 } : State).inject tn (to_.2 * 32 + to_.1) false
          (s.ctxOf s.cur % 256) [] (.msg m)).net);
    (o.init = false → gives 0 fun t => t.net = s.net) ∧
    (o.init = true → o.phase = phase → ¬ late → gives 1 fun t => t.net = s.net ∧
      ∃ c : Cont, (t.tile tn).conts = [(0, c)] ∧ c.phase = phase ∧ c.deadline.toNat = dl ∧ c.args = r.drop 2 ∧ c.obj = pa) ∧
    (o.init = true → o.phase ≠ phase → to_.2 < 24 → gives 2 (posted false)) ∧
    (o.init = true → o.phase = phase → late → to_.2 < 24 → gives 3 (posted true))

/-- R269 to R271, R275: the barrier instructions, each with the registers it names, its result register, its operation
and whether it is a release. -/
def barrierForms (s : State) (d a b : GReg) : List (Instr × List Nat × GReg × BarrierOp × Bool) :=
  let y := readG s.me b
  let r2 := readRun s.me b.val 2
  let r6 := readRun s.me b.val 6
  let w := (r6.getD 0 0).toNat
  [ (.binit a b, a.val :: run b.val 2, 0,
      .init (BitVec.ofNat 16 (r2.getD 0 0).toNat) (BitVec.ofNat 32 (r2.getD 1 0).toNat), false),
    (.barr d a, [d, a], d, .arrive 0 false, true), (.barrb d a b, [d, a, b], d, .arrive y false, true),
    (.bdrop d a, [d, a], d, .arrive 0 true, true), (.btest d a b, [d, a, b], d, .test (y.getLsbD 0), false),
    (.bbyte a b, [a, b], 0, .bytes y, true),
    (.bwait d a b, d.val :: a.val :: run b.val 6, d,
      .wait (w % 2 == 1) (BitVec.ofNat 32 (w / 2 ^ 32)) (r6.getD 1 0) (r6.drop 2), false) ]

/-- R124, R270, R278: a barrier instruction whose object has another home is sent to it, a release after the strand's
earlier accesses, and its result is pending; the result of a BTEST may acquire. It is held while the router's local port
takes no packet. BWAIT on leased memory is ILLEGAL_COMBINATION, and gateway cores do not have it (R451). -/
def BarriersElsewhere : Prop :=
  ∀ (s : State) (d a b : GReg) (t : Target) (p : Bool), isOwn s.myCore t = false →
    s.checkAccess s.cur (readG s.me a) 32 32 { r := true, w := true, atomic := true } = .ok t p →
    ∀ e ∈ barrierForms s d a b, s.canIssue { g := e.2.1 } = true →
      let ea := readG s.me a; let wait := e.1 = .bwait d a b;
      let x := { s.accessOf ea 32 (.barrier e.2.2.2.1) t p (.g e.2.2.1 8 false) with
        after := if e.2.2.2.2 then s.releaseSet s.cur else [] };
      let lent := ∃ l off key, t = .lease l off key;
      (wait → isGateway s.cur = true →
        exec e.1 s = .next (s.raiseAtIssue s.cur .illegalInstruction (BitVec.ofNat 64 (encode e.1)))) ∧
      (wait → isGateway s.cur = false → lent →
        exec e.1 s = .next (s.raiseAtIssue s.cur .illegalCombination ea)) ∧
      (¬ wait ∨ (isGateway s.cur = false ∧ ¬ lent) →
        (s.portTakes s.myTile false = false → Held e.1 s .injection) ∧
        (s.portTakes s.myTile false = true → ∃ u : State, exec e.1 s = .next u ∧
          u = s.goesOn ((issuedAway s x p).modMe fun st => { st with pend := st.pend ++
            [{ id := s.nextId, g := some e.2.2.1, lc := s.me.lc, acq := decide (e.1 = .btest d a b) }] }) ∧
          Advanced s u ∧ SameBytes s u ∧ SameStrandsBut s.cur s u ∧ (u.strand s.cur).g = s.me.g))

end Sys2Proof.Claims

/-! ### Barriers -/

/-- R266 to R275: the barrier instructions, at an object in the issuing tile's slice and at one elsewhere.
Where the rules leave a choice open, the model's own is stated (log 6, 31, 93). -/
def Obligations.BarrierInstructions : Prop :=
  BarrierArrivals ∧ BarrierSetUpTestAndBytes ∧ BarrierWaits ∧ BarriersElsewhere

namespace Sys2Proof.Claims

/-- R281: the fields of a router-table or domain-table entry that an instruction consults. -/
def groupUsable (s : State) (e : Word × Word) : Prop :=
  e.1.toNat / 2 ^ 62 = 2 ∧ e.1.toNat / 2 ^ 54 % 2 ^ 8 = s.ctxOf s.cur

/-- R284: the header of a group packet for group word `w`. -/
def groupHeader (s : State) (w : Word) (re : Bool) (slot len : Nat) : Hdr :=
  { sentHeader s w re false slot len with kind := 6, dcore := 0, dy := 0, dx := 0 }

/-- A group packet of the issuing strand is on its way, to its own router or to the west I/O die, as one more source of the
kernel; a multicast whose outcome is awaited is kept. That packets for the I/O die travel to tile 128 is the model's
choice (assumption log 19). -/
def groupSent (s : State) (dom : Bool) (h : Hdr) (body : Nat → Body) : State :=
  let track := h.re || dom
  let c := s.ctxOf s.cur
  let s1 : State := { s with
    nextId := s.nextId + 2,
    mcasts := if track then s.mcasts ++ [{ id := s.nextId + 1, ctx := c, hdr := h, domain := dom, tile := 128 }]
      else s.mcasts }
  (s1.source c).inject (tileOf s.cur) (if dom then 128 else tileOf s.cur) false c []
    (body (if track then s.nextId + 1 else 0))

/-- The instruction sends a group packet in the state `s'`; memory, the accesses and the other strands stay as they
are. -/
def SendsGroup (i : Instr) (s s' : State) (dom : Bool) (h : Hdr) (body : Nat → Body) : Prop :=
  ∃ t : State, exec i s = .next t ∧ t = s.goesOn (groupSent s' dom h body) ∧ Advanced s t ∧ SameStrandsBut s.cur s t ∧
    SameBytes s t ∧ t.acc = s.acc

/-- R124, R216, R284: a multicast without a reply sends at once; with one it takes the lowest free reply slot, writes
its number to `d`, and is held while none is free; both are held while the router's local port takes no packet. Gateway
cores have no form with a reply (R451). -/
def GroupOutcome (i : Instr) (s : State) (d : GReg) (re dom : Bool) (h : Nat → Hdr) (body : Nat → Nat → Body) : Prop :=
  let core := s.core (s.cur / 4)
  let free := fun k => (core.replies.get {} k).reserved = false
  let port := s.portTakes (tileOf s.cur) false = true
  (re = true → isGateway s.cur = true → FaultsWith i s .illegalCombination) ∧
  (re = false ∨ isGateway s.cur = false → ¬ port → Held i s .injection) ∧
  (re = false → port → SendsGroup i s s dom (h 0) (body 0)) ∧
  (re = true → isGateway s.cur = false → port → (∀ k < 64, ¬ free k) → Held i s .replySlot) ∧
  (re = true → isGateway s.cur = false → port → ∀ k < 64, free k → (∀ j < k, ¬ free j) →
    (s.me.spBad d (BitVec.ofNat 64 k) = true →
      exec i s = .next (s.raiseAtIssue s.cur .stackLimit (BitVec.ofNat 64 k))) ∧
    (s.me.spBad d (BitVec.ofNat 64 k) = false → SendsGroup i s
      (((s.source (s.ctxOf s.cur)).setCore (s.cur / 4)
        { core with replies := core.replies.set k { reserved := true, ctx := s.ctxOf s.cur } }).modMe
          fun st => writeG st d (BitVec.ofNat 64 k)) dom (h k) (body k)))

end Sys2Proof.Claims

/-! ### Groups -/

/-- R281, R284 to R286, R288, R289: MCAST, MCASTL and GRED check the group word and the entry consulted, in order, and
send one group packet. A third open round of a member holds GRED, and so does a local port that takes no packet.
Where the rules leave a choice open, the model's own is stated (log 19). -/
def Obligations.GroupInstructions : Prop :=
  ∀ (s : State) (d a b : GReg) (re str alt : Bool) (ty : BitVec 2), let w := readG s.me a; let tn := tileOf s.cur;
    let gid := w.toNat % 4096; let dom := w.getLsbD 12; let r := readRun s.me b.val 5;
    let e := (s.tile tn).groups.get (0, 0) gid; let ed := if dom then s.domains.get (0, 0) gid else e;
    let faults := fun (i : Instr) (c : Cause) (v : Word) => exec i s = .next (s.raiseAtIssue s.cur c v);
    (s.canIssue { g := d.val :: a.val :: run b.val 4 } = true → let i : Instr := .mcast d a b re;
      (re = false ∨ isGateway s.cur = false → (dom = true → faults i .illegalCombination w) ∧
        (dom = false → ¬ groupUsable s e → faults i .handlerAbsent w)) ∧
      (dom = false → groupUsable s e → GroupOutcome i s d re false (fun k => groupHeader s w re k 0)
        fun k mc => .group { hdr := groupHeader s w re k 0, args := readRun s.me b.val 4 } gid .message true mc)) ∧
    (s.canIssue { g := d.val :: a.val :: run b.val 5 } = true →
      let bad := (dom = true ∧ str = false) ∨ (alt = true ∧ dom = false);
      let desc := (r.getD 4 0).toNat; let va := desc % 2 ^ 48; let len := desc / 2 ^ 48 % 256 + 1;
      let i : Instr := .mcastl d a b alt str re;
      (re = true → isGateway s.cur = true → FaultsWith i s .illegalCombination) ∧
      (re = false ∨ isGateway s.cur = false →
        (bad → faults i .illegalCombination w) ∧
        (¬ bad → ¬ groupUsable s ed → faults i .handlerAbsent w) ∧
        (¬ bad → groupUsable s ed → va % 8 ≠ 0 → faults i .misaligned (BitVec.ofNat 64 va)) ∧
        (¬ bad → groupUsable s ed → va % 8 = 0 → (∀ pa, ¬ OwnRange s va len pa) →
          faults i .scratchBounds (BitVec.ofNat 64 va)) ∧
        (∀ pa, ¬ bad → groupUsable s ed → va % 8 = 0 → OwnRange s va len pa → ownLock s va len = none →
          (str = true → (r.getD 0 0).toNat % 8 ≠ 0 → faults i .misaligned (r.getD 0 0)) ∧
          (str = false ∨ (r.getD 0 0).toNat % 8 = 0 → Sound s pa len →
            let m := fun k : Nat => ({
              hdr := groupHeader s w re k len, args := r.take 4,
              payload := (List.range len).map fun j => s.byte (pa + j) } : Msg);
            GroupOutcome i s d re dom (fun k => groupHeader s w re k len) fun k mc =>
              if dom then .domain (m k) gid (r.getD 0 0) alt mc
              else .group (m k) gid (if str then .store (r.getD 0 0) else .message) true mc)))) ∧
    (s.canIssue { g := a.val :: run b.val 4 } = true →
      let bad := dom = true ∨ e.1.getLsbD 17 = false ∨ e.1.getLsbD 53 = false; let midx := e.1.toNat / 2 ^ 20 % 2 ^ 8;
      let rounds := s.openRounds gid tn midx (s.rootOf gid treeFuel tn); let port := s.portTakes tn false = true;
      (bad → faults (.gred a b ty) .illegalCombination w) ∧
      (¬ bad → ¬ groupUsable s e → faults (.gred a b ty) .handlerAbsent w) ∧
      (¬ bad → groupUsable s e → 2 ≤ rounds ∨ ¬ port → Held (.gred a b ty) s .injection) ∧
      (¬ bad → groupUsable s e → rounds < 2 → port → SendsGroup (.gred a b ty) s s false (groupHeader s w false 0 0)
        (fun _ => .group { hdr := groupHeader s w false 0 0, args := readRun s.me b.val 4 } gid (.reduce ty midx) true 0)))

namespace Sys2Proof.Claims

/-- R297: what a command takes of its completion run: nothing without one, the word alone when it asks for no action,
else the three words. -/
def Completion (s : State) (b : GReg) (w : Word × Word × Word) : Prop :=
  if b = 0 then w = (0, 0, 0)
  else if (readG s.me b).toNat % 8 = 0 then w = (readG s.me b, 0, 0)
  else s.canIssue { g := run b.val 3 } = true ∧ readRun s.me b.val 3 = [w.1, w.2.1, w.2.2]

/-- An engine command: the instruction for its result register and completion run, its job's kind and descriptor, the
values that must not pass a limit, the addresses and strides with their alignment, its ranges (R75), what the
bounds check of each finds, and whether its ranges overlap. `room` says that its queue has an entry, and `enter` puts
it there once it has its slot. -/
structure Order where
  instr : GReg → GReg → Instr
  words : Nat
  kind : JobKind
  desc : List Word
  limits : List (Prop × Word)
  ranges : List (Bool × Nat × Nat)
  bounds : List (Option (Cause × Nat))
  fn : Nat := 0
  aligns : List (Word × Nat) := []
  strides : List (Nat × Nat) := []
  overlap : Prop := False
  room : Prop := True
  enter : State → Nat → State := fun s _ => s

/-- R57 to R60: what the bounds check finds of the ranges of a job of the issuing strand, empty ones left out. -/
def boundsOf (s : State) (l : List (Bool × Nat × Nat)) : List (Option (Cause × Nat)) :=
  (l.filter fun r => r.2.2 != 0).map fun r => s.boundsCheck (s.ctxOf s.cur) r.2.1 r.2.2

/-- Whether two ranges share a byte. -/
def overlaps (a n b m : Nat) : Prop := ∃ x, a ≤ x ∧ x < a + n ∧ b ≤ x ∧ x < b + m

/-- R304, R305, R308: the commands of the copy engine and the gather unit for descriptor register `a`. -/
def copyOrders (s : State) (a : GReg) (wide : Bool) : List Order :=
  let r := readRun s.me a.val 5
  let reg := fun k => r.getD k 0
  let val := fun k => (reg k).toNat
  let signed := fun (x : Nat) => ((x % 2 ^ 32 : Nat) : Int).bmod (2 ^ 32)
  let cpy := [(false, val 0, val 2), (true, val 1, val 2)]
  let far := fun (st : Nat) => signed st * ((val 2 / 2 ^ 32 : Nat) - 1 : Int)
  let span := fun (base : Word) (st : Nat) =>
    ((base + BitVec.ofInt 64 (min 0 (far st))).toNat, (far st).natAbs + val 2 % 2 ^ 32)
  let src := span (reg 0) (val 3)
  let dst := span (reg 1) (val 3 / 2 ^ 32)
  let rows := [(false, src), (true, dst)]
  let w := val 2 % 2 ^ 16
  let n := val 2 / 2 ^ 16 % 2 ^ 32
  let key := 2 ^ (val 3 / 32 % 4)
  let table := [(false, val 0, n * w), (true, val 1, n * w)]
  let w' := val 3 % 2 ^ 16
  let n' := val 3 / 2 ^ 16 % 2 ^ 32
  let e := if wide then 8 else 4
  let gather := fun (k : JobKind) =>
    ({ instr := fun d b => if k = .gath then .gath d a b wide else .scat d a b wide
       words := 5, kind := k, desc := r, fn := if wide then 1 else 0
       limits := [(val 0 < 0x700000000000, reg 0), (val 2 < 0x700000000000, reg 2),
         (w' < 32 ∨ 2048 < w' ∨ w' % 32 ≠ 0 ∨ n' < 1 ∨ 65536 < n', reg 3), (val 4 % 32 ≠ 0, reg 4)]
       aligns := [(reg 0, e), (reg 1, 32), (reg 2, 32)]
       ranges := [(false, val 0, n' * e), (decide (k = .gath), val 2, n' * w')]
       bounds := boundsOf s [(false, val 0, n' * e), (false, val 2, n' * w')] } : Order)
  [ { instr := fun d b => .cpy d a b
      words := 3, kind := .cpy, desc := r.take 3, limits := [(2 ^ 32 < val 2, reg 2)], ranges := cpy
      bounds := boundsOf s cpy, overlap := overlaps (val 0) (val 2) (val 1) (val 2) },
    { instr := fun d b => .cpy2 d a b
      words := 4, kind := .cpy2, desc := r.take 4, ranges := rows, bounds := boundsOf s rows
      limits := [(val 2 % 2 ^ 32 = 0 ∨ val 2 / 2 ^ 32 = 0 ∨ 2 ^ 32 < val 2 % 2 ^ 32 * (val 2 / 2 ^ 32), reg 2)]
      overlap := overlaps src.1 src.2 dst.1 dst.2 },
    { instr := fun d b => .cpyf d a b
      words := 5, kind := .cpyf, desc := r, ranges := table, bounds := boundsOf s table
      limits := [(w < 8 ∨ 2048 < w ∨ w % 8 ≠ 0 ∨ n < 1 ∨ 2 ^ 32 < n * w, reg 2),
        (2 ≤ val 3 % 4 ∨ (val 3 % 4 = 0 ∧ (6 ≤ val 3 / 4 % 8 ∨ val 3 / 256 % 2048 % key ≠ 0 ∨
          w < val 3 / 256 % 2048 + key)), reg 3)]
      overlap := overlaps (val 0) (n * w) (val 1) (n * w) },
    gather .gath, gather .scat ]

/-- R293, R295, R76: the job of the issuing strand in slot `k` of its core with its ranges registered; it counts as a
source of its kernel. -/
def issued (s : State) (o : Order) (w : Word × Word × Word) (k : Nat) : State :=
  let t := tileOf s.cur
  let c := s.cur / 4
  let entries := (o.ranges.filter fun r => r.2.2 != 0).map fun r =>
    ({ dst := r.1, lo := r.2.1, hi := r.2.1 + r.2.2 - 1, core := c % 8, job := k, ctx := s.ctxOf s.cur, origin := t }
      : RangeLock)
  let s1 := s.setTile t { s.tile t with locks := (s.tile t).locks ++ entries }
  (s1.setCore c { s1.core c with jobs := (s1.core c).jobs.set k {
    st := .issued, kind := o.kind, strand := s.cur, run := s.me.run, ctx := s.ctxOf s.cur, fn := o.fn, desc := o.desc,
    comp := w.1, comp1 := w.2.1, comp2 := w.2.2, hidx := s.me.hidx, errTile := t, after := s.releaseSet s.cur } }).source
    (s.ctxOf s.cur)

/-- R293, R302, R76: a command that passes its checks takes the lowest free slot, its entries and its place in its
queue, and writes the slot's number to `d`; it is held while there is no slot, then while the range-lock table lacks
entries, and then while its queue is full. -/
def TakesSlot (i : Instr) (s : State) (d : GReg) (o : Order) (w : Word × Word × Word) : Prop :=
  let free := fun k => ((s.core (s.cur / 4)).jobs.get {} k).st = .free
  let need := (o.ranges.filter fun r => r.2.2 != 0).length
  let short := need ≠ 0 ∧ 64 < (s.tile (tileOf s.cur)).locks.length + need
  ((∀ k < 16, ¬ free k) → Held i s .jobSlots) ∧
  (∀ k < 16, free k → (∀ j < k, ¬ free j) → let v : Word := BitVec.ofNat 64 k;
    (short → Held i s .lockTable) ∧
    (¬ short → ¬ o.room → Held i s .injection) ∧
    (¬ short → o.room → s.me.spBad d v = true → exec i s = .next (s.raiseAtIssue s.cur .stackLimit v)) ∧
    (¬ short → o.room → s.me.spBad d v = false →
      exec i s = .next (s.goesOn ((o.enter (issued s o w k) k).modMe fun st => writeG st d v))))

/-- R302 with R298: the checks of a command in their order, each only where the ones before it pass, and then its
issue. Where more than one value fails one check, BADVA holds one of them. -/
def CommandOutcome (i : Instr) (s : State) (d : GReg) (o : Order) (w : Word × Word × Word) : Prop :=
  let act := w.1.toNat % 8
  let align := o.aligns ++ (if act = 1 then [(w.2.1, 8)] else if act = 3 then [(w.2.1, 32)] else [])
  let target := if (act = 1 ∨ act = 3) ∧ 0x700000000000 ≤ w.2.1.toNat ∧ w.2.1.toNat < 0x800000000000
    then [s.boundsCheck (s.ctxOf s.cur) w.2.1.toNat (if act = 1 then 8 else 32)] else []
  let ok1 := ¬ (w.1.toNat / 8 % 4 = 3 ∨ 6 ≤ act)
  let ok2 := ok1 ∧ ∀ x ∈ o.limits, ¬ x.1
  let ok3 := ok2 ∧ ∀ x ∈ align, x.1.toNat % x.2 = 0
  let ok4 := ok3 ∧ ∀ x ∈ o.strides, x.1 % x.2 = 0
  let ok5 := ok4 ∧ ∀ x ∈ o.bounds ++ target, x = none
  let faults := fun (c : Cause) (v : Word) => exec i s = .next (s.raiseAtIssue s.cur c v)
  (¬ ok1 → faults .illegalCombination w.1) ∧
  (ok1 → ¬ ok2 → ∃ x ∈ o.limits, x.1 ∧ faults .illegalCombination x.2) ∧
  (ok2 → ¬ ok3 → ∃ x ∈ align, x.1.toNat % x.2 ≠ 0 ∧ faults .misaligned x.1) ∧
  (ok3 → ¬ ok4 → FaultsWith i s .misaligned) ∧
  (ok4 → ∀ p c v r, o.bounds ++ target = p ++ some (c, v) :: r → (∀ x ∈ p, x = none) →
    faults c (BitVec.ofNat 64 v)) ∧
  (ok5 → o.overlap → FaultsWith i s .illegalCombination) ∧
  (ok5 → ¬ o.overlap → TakesSlot i s d o w)

/-- R297, R302: a command with its completion run: a run with an action that passes the budget is
ILLEGAL_INSTRUCTION with the instruction word, before any check of the command. -/
def OrderOutcome (s : State) (d b : GReg) (o : Order) : Prop :=
  (∀ w, Completion s b w → CommandOutcome (o.instr d b) s d o w) ∧
  (b ≠ 0 → (readG s.me b).toNat % 8 ≠ 0 → budget s.me.code ≤ b.val + 2 →
    exec (o.instr d b) s = .next (s.raiseAtIssue s.cur .illegalInstruction (BitVec.ofNat 64 (encode (o.instr d b)))))

end Sys2Proof.Claims

/-! ### Jobs -/

/-- R75, R76, R293 to R305, R308: the commands of the copy engine and the gather unit, checked and issued; CPYQ is CPY
with the completion word of its form, and its reserved JC is ILLEGAL_COMBINATION. -/
def Sys2Proof.Claims.CopyCommands : Prop :=
  ∀ (s : State) (d a b : GReg) (wide : Bool), isGateway s.cur = false →
    (∀ o ∈ copyOrders s a wide, s.canIssue { g := d.val :: b.val :: run a.val o.words } = true → OrderOutcome s d b o) ∧
    (∀ (j : BitVec 2) (c : BitVec 3) (o : Order), (copyOrders s a wide).head? = some o →
      s.canIssue { g := d.val :: run a.val 3 } = true →
      (j ≠ 3 → CommandOutcome (.cpyq d a j c) s d o (BitVec.ofNat 64 (8 * j.toNat + 5), BitVec.ofNat 64 c.toNat, 0)) ∧
      (j = 3 → FaultsWith (.cpyq d a j c) s .illegalCombination))

namespace Sys2Proof.Claims

/-- R50, R322: the operand types the array multiplies, and whether they accumulate in INT32. -/
def typePairs : List (Nat × Nat × Bool) :=
  [(0, 0, false), (1, 1, false), (2, 2, false), (3, 3, false), (4, 4, true), (4, 5, true), (5, 5, true)]

/-- Bytes of `c` elements of an operand type (R41, R323). -/
def vectorBytes (t c : Nat) : Nat := (c * ([32, 16, 16, 8, 8, 4].getD t 4) + 7) / 8

/-- R324: what the check of an operand finds that must lie in the issuing tile's slice: at its alias, and for MMA also
at its window address. -/
def operandBounds (s : State) (window : Bool) (lo n : Nat) : Option (Cause × Nat) :=
  let own := 0x700000000000 + tileOf s.cur * 0x400000
  let base := if 0x7F0000000000 ≤ lo ∧ lo < 0x7F0000300000 then some 0x7F0000000000
    else if window ∧ own ≤ lo ∧ lo < own + 0x300000 then some own else none
  match base with
  | some p => if p + 0x300000 < lo + n then some (.scratchBounds, p + 0x300000) else none
  | none => if 0x800000000000 ≤ lo then some (.pageAbsent, lo) else some (.scratchBounds, lo)

/-- R322 to R325, R329, R351: the commands of the array and of the graph for descriptor register `a`: MMA or MMAG on
slot `n` with Z as `z`, MST, and GLOAD. -/
def arrayOrders (s : State) (a : GReg) (z : Bool) (n : BitVec 2) (sc : Bool) (f : BitVec 3) : List Order :=
  let r := readRun s.me a.val 4
  let reg := fun k => r.getD k 0
  let val := fun k => (reg k).toNat
  let t := tileOf s.cur
  let tile := s.tile t
  let room := tile.queue.length < 16
  let put := fun (u : State) (op : ArrayOp) => u.setTile t { u.tile t with queue := (u.tile t).queue ++ [op] }
  let m := val 2 / 2 ^ 10 % 2 ^ 9 + 1
  let c := val 2 % 2 ^ 10 + 1
  let k := val 2 / 2 ^ 32
  let ta := val 2 / 2 ^ 19 % 8
  let tb := val 2 / 2 ^ 22 % 8
  let sa := val 3 % 2 ^ 32
  let sb := val 3 / 2 ^ 32
  let la := (k - 1) * sa + vectorBytes ta (min m 128)
  let lb := (k - 1) * sb + vectorBytes tb (min c 128)
  let ct := s.ctAfter t n.toNat
  let product := fun (big : Bool) =>
    ({ instr := fun d b => if big then .mmag d a b z n else .mma d a b z n
       words := 4, kind := if big then .mmag else .mma, desc := r
       fn := n.toNat + if z then 4 else 0
       limits := [((∀ e ∈ typePairs, (e.1, e.2.1) ≠ (ta, tb)) ∨ k = 0 ∨ (if big then 384 < m ∨ 640 < c else 128 < m ∨ 128 < c) ∨
         (big = false ∧ z = false ∧ (ta, tb, ct) ∉ typePairs), reg 2)]
       aligns := [(reg 0, 8), (reg 1, 8)], strides := [(sa, 8), (sb, 8)]
       ranges := [(false, val 0, la), (false, val 1, lb)]
       bounds := [operandBounds s (!big) (val 0) la, operandBounds s (!big) (val 1) lb] ++
         (if big then (List.range ((m + 127) / 128 * ((c + 127) / 128))).map fun x =>
           let y := (t / 32 + x / ((c + 127) / 128)) % 24 * 32 + (t % 32 + x % ((c + 127) / 128)) % 32
           if s.inPlacement (s.ctxOf s.cur) y = true then none else some (.scratchBounds, 0x700000000000 + y * 0x400000)
          else [])
       room := room
       enter := fun u slot => if big then u.offerNext t (s.cur / 4 % 8) slot 16 else put u (.mma (s.cur / 4 % 8) slot)
       } : Order)
  let size := [4, 2, 2, 1, 4, 1].getD f.toNat 1
  let v := val 1
  let dst := [(true, val 0, (v / 2 ^ 16 % 128) * (v / 2 ^ 32) + (v / 2 ^ 24 % 128 + 1) * size)]
  let len := val 1 % 2 ^ 32
  let image := [(false, val 0, len)]
  [ product false, product true,
    { instr := fun d b => .mst d a b sc f n
      words := 2, kind := .mst, desc := r.take 2
      fn := n.toNat + 4 * f.toNat + if sc then 32 else 0
      limits := [(128 < v / 2 ^ 8 % 128 + (v / 2 ^ 24 % 128 + 1) ∨ 128 < v % 128 + (v / 2 ^ 16 % 128 + 1), reg 1)]
      aligns := [(reg 0, size)], strides := [(v / 2 ^ 32, size)], ranges := dst, bounds := boundsOf s dst
      room := room, enter := fun u slot => put u (.mst (s.cur / 4 % 8) slot) },
    { instr := fun d b => .gload d a b
      words := 2, kind := .gload, desc := r.take 2
      limits := [((0x700000000000 ≤ val 0 ∧ val 0 < 0x7000C0000000) ∨ (0x7F0000000000 ≤ val 0 ∧ val 0 < 0x7F0000300000), reg 0),
        (len < 64 ∨ 16777216 < len ∨ len % 8 ≠ 0, reg 1)]
      aligns := [(reg 0, 64)], ranges := image, bounds := boundsOf s image
      room := tile.fabric.cmds.length < 8
      enter := fun u slot => u.setTile t { u.tile t with fabric := { (u.tile t).fabric with
        cmds := (u.tile t).fabric.cmds ++ [.gload (s.cur / 4 % 8) slot] } } } ]

end Sys2Proof.Claims

/-- R50, R320 to R325, R329, R332 to R334, R351: MMA, MMAG, MST and GLOAD, checked and issued; a matrix command takes
an entry of the array's queue and GLOAD one of the graph's, and MMAG begins to offer its parts. -/
def Sys2Proof.Claims.ArrayAndGraphCommands : Prop :=
  ∀ (s : State) (d a b : GReg) (z sc : Bool) (n : BitVec 2) (f : BitVec 3), isGateway s.cur = false → f.toNat < 6 →
    (∀ o ∈ arrayOrders s a z n sc f, s.canIssue { g := d.val :: b.val :: run a.val o.words } = true →
      OrderOutcome s d b o) ∧
    (∀ (core slot : Nat), let t := tileOf s.cur; let j := s.job (8 * t + core) slot; let q := MmaDesc.of j.desc;
      let w := (q.n + 127) / 128; let members := (q.m + 127) / 128 * w;
      let at_ := fun x => (t / 32 + x / w) % 24 * 32 + (t % 32 + x % w) % 32;
      ∀ x < members, x ∉ j.mmag.accepted → at_ x ≠ t →
        (∀ y < members, y ∉ j.mmag.accepted → at_ x ≤ at_ y) →
        s.offerNext t core slot 16 = ((s.modJob (8 * t + core) slot fun j =>
          { j with mmag := { j.mmag with offering := some x, refusedAt := none } }).source j.ctx).inject t (at_ x) false
            j.ctx [] (.mmagOffer t core slot x))

/-- R313 to R316: JPOLL tells whether a slot holds a job of the strand's present run; JWAIT and JWAIT.ALL wait until
none does and give the status; JCWAIT waits until a counter reaches a number, which SUB takes off it. ARMJ keeps a
watch on the jobs of its mask, or posts at once when there is none, held while the core's 16 entries are used. -/
def Sys2Proof.Claims.WaitingForJobs : Prop :=
  ∀ (s : State) (d a b : GReg) (p : PReg) (u j : Bool),
    let jobs := (s.core (s.cur / 4)).jobs;
    let mine := fun k => (jobs.get {} k).st ≠ .free ∧ (jobs.get {} k).strand = s.cur ∧ (jobs.get {} k).run = s.me.run;
    let slot := (readG s.me a).toNat % 16; let stat := fun k => s.me.jstat.toList.getD k 0;
    (s.canIssue { g := [a] } = true →
      (mine slot → exec (.jpoll p a) s = .next (s.completes (writeP s.me p false))) ∧
      (¬ mine slot → exec (.jpoll p a) s = .next (s.completes (writeP s.me p true)))) ∧
    (s.canIssue { g := [d, a] } = true →
      (mine slot → Held (.jwait d a) s .jobWait) ∧
      (¬ mine slot → Writes (.jwait d a) s d ((stat slot).setWidth 64)) ∧
      (let c := if j then s.me.jc1 else s.me.jc0; let n := (readG s.me a).toNat % 2 ^ 32;
        let less : BitVec 32 := BitVec.ofNat 32 (c.toNat - n);
        (c.toNat < n → Held (.jcwait d a u j) s .jobWait) ∧
        (n ≤ c.toNat → s.me.spBad d (c.setWidth 64) = true →
          exec (.jcwait d a u j) s = .next (s.raiseAtIssue s.cur .stackLimit (c.setWidth 64))) ∧
        (n ≤ c.toNat → s.me.spBad d (c.setWidth 64) = false →
          exec (.jcwait d a u j) s = .next (s.completes (writeG
            (if u = false then s.me else if j then { s.me with jc1 := less } else { s.me with jc0 := less })
            d (c.setWidth 64)))))) ∧
    (s.canIssue { g := [d] } = true →
      ((∃ k < 16, mine k) → Held (.jwaitAll d) s .jobWait) ∧
      ((∀ k < 16, ¬ mine k) →
        ((∀ k < 16, stat k = 0) → Writes (.jwaitAll d) s d 0) ∧
        (∀ k < 16, stat k ≠ 0 → (∀ i < k, stat i = 0) → Writes (.jwaitAll d) s d ((stat k).setWidth 64)))) ∧
    (s.canIssue { g := a.val :: run b.val 5 } = true → isGateway s.cur = false →
      let r := readRun s.me b.val 5; let k := s.ctx (s.ctxOf s.cur); let tn := tileOf s.cur; let core := s.core (s.cur / 4);
      let dw := r.getD 0 0; let o := destOf dw (k.x0.toNat, k.y0.toNat);
      let msg : Msg := {
        hdr := {
          posted := true, ctx := BitVec.ofNat 8 (s.ctxOf s.cur), sy := BitVec.ofNat 5 (tn / 32),
          sx := BitVec.ofNat 5 (tn % 32), score := BitVec.ofNat 3 (s.cur / 4 % 8), sstr := 0,
          hidx := BitVec.ofNat 12 (dw.toNat / 2 ^ 17), pset := dw.getLsbD 16, prio := BitVec.ofNat 2 (dw.toNat / 2 ^ 14),
          dcore := BitVec.ofNat 3 (dw.toNat / 2 ^ 11), dy := BitVec.ofNat 5 o.2, dx := BitVec.ofNat 5 o.1 }
        args := r.drop 1 };
      (16 ≤ core.jwatches.length → Held (.armj a b) s .jobWait) ∧
      (core.jwatches.length < 16 → ∀ l : List Nat, l.Pairwise (· < ·) →
        (∀ k, k ∈ l ↔ k < 16 ∧ (readG s.me a).getLsbD k = true ∧ mine k) →
        (l = [] → exec (.armj a b) s = .next (s.goesOn (s.post tn 4 [] msg))) ∧
        (l ≠ [] → exec (.armj a b) s = .next (s.goesOn ((s.setCore (s.cur / 4) { core with
          jwatches := core.jwatches ++ [{ slots := l, ctx := s.ctxOf s.cur, msg := msg }] }).source (s.ctxOf s.cur))))))


namespace Sys2Proof.Claims

/-- A matrix or graph command with a result is issued: its place in the tile is taken with the access its result will
answer, the result is pending in `d`, and the strand goes on. -/
def Queued (i : Instr) (s : State) (d : GReg) (put : Access → Tile → Tile) : Prop :=
  ∃ a : Access, a.id = s.nextId ∧ a.grp = s.nextId ∧ a.strand = s.cur ∧ a.run = s.me.run ∧ a.dest = .g d 8 false ∧
    exec i s = .next (s.goesOn (({ s with nextId := s.nextId + 1 } : State).setTile (tileOf s.cur)
      (put a (s.tile (tileOf s.cur))) |>.modMe fun st =>
        { st with pend := st.pend ++ [{ id := s.nextId, g := some d, lc := s.me.lc }] }))

/-- A graph command performed at once with result `v`, which leaves the fabric as `f`. One whose result sp does not
take leaves sp and is STACK_LIMIT at its own address (R171). -/
def GraphGives (i : Instr) (s : State) (d : GReg) (v : Word) (f : Fabric) : Prop :=
  ∃ t, exec i s = .next t ∧ SameBytes s t ∧ SameStrandsBut s.cur s t ∧ t.net = s.net ∧ t.acc = s.acc ∧
    (t.tile (tileOf s.cur)).fabric = f ∧
    (s.me.spBad d v = false → Advanced s t ∧ (t.strand s.cur).pend = s.me.pend ∧ (t.strand s.cur).g = (writeG s.me d v).g) ∧
    (s.me.spBad d v = true → (t.strand s.cur).phase = .faulted ∧ (t.strand s.cur).pc = s.me.pc ∧
      (t.strand s.cur).g = s.me.g ∧ (s.me.faults = [] → (t.strand s.cur).cause = 4 ∧ (t.strand s.cur).badva = v))

/-- The fabric with its front slot changed. -/
def frontTo (f : Fabric) (g : GSlot) : Fabric := if f.front then { f with b := g } else { f with a := g }

end Sys2Proof.Claims

/-! ### The array and the graph -/

/-- R327: MZR enters the array's queue, held while it is full, and its status word is pending until it is performed. -/
def Sys2Proof.Claims.ZeroAccumulatorIsQueued : Prop :=
  ∀ (s : State) (d : GReg) (n : BitVec 2) (c : Bool), s.canIssue { g := [d] } = true → isGateway s.cur = false →
    let q := (s.tile (tileOf s.cur)).queue;
    (16 ≤ q.length → Held (.mzr d c n) s .injection ∧ Held (.mzrSt d n) s .injection) ∧
    (q.length < 16 →
      Queued (.mzr d c n) s d (fun a t => { t with queue := t.queue ++ [.mzr a n.toNat c false] }) ∧
      Queued (.mzrSt d n) s d (fun a t => { t with queue := t.queue ++ [.mzr a n.toNat false true] }))

/-- R328: MSCL of two vectors in the issuing tile's slice puts them into the slot's staging buffer and enters the
array's queue; it is held while the buffer or the queue is full. An address that is no multiple of 64 is
MISALIGNED. With a line elsewhere it is held while its sixteen lines are loaded. -/
def Sys2Proof.Claims.ScaleVectorsAreStaged : Prop :=
  ∀ (s : State) (a b : GReg) (n : BitVec 2), s.canIssue { g := [a, b] } = true → isGateway s.cur = false →
    s.me.landing = [] → s.me.pend = [] →
    let tn := tileOf s.cur; let t := s.tile tn; let va := readG s.me a; let vb := readG s.me b;
    let slot := t.slots.get {} n.toNat; let busy := slot.staged ≠ none ∨ 16 ≤ t.queue.length;
    let ok := fun (v : Word) pa => ∀ i < 8, OwnAt s (v + BitVec.ofNat 64 (64 * i)) 64 needR (pa + 64 * i);
    (busy → Held (.mscl a b n) s .injection) ∧
    (¬ busy → va.toNat % 64 ≠ 0 → exec (.mscl a b n) s = .next (s.raiseAtIssue s.cur .misaligned va)) ∧
    (¬ busy → va.toNat % 64 = 0 → vb.toNat % 64 ≠ 0 →
      exec (.mscl a b n) s = .next (s.raiseAtIssue s.cur .misaligned vb)) ∧
    (¬ busy → va.toNat % 64 = 0 → vb.toNat % 64 = 0 →
      (let check := fun i => s.checkAccess s.cur ((if i < 8 then va else vb) + BitVec.ofNat 64 (64 * (i % 8))) 64 64 needR;
       (∀ i < 16, ∃ x p, check i = .ok x p) → (∃ i < 16, ∃ x p, check i = .ok x p ∧ isOwn s.myCore x = false) →
       ∃ u xs, exec (.mscl a b n) s = .next u ∧ (u.strand s.cur).phase = .stalled .injection ∧ SameBytes s u ∧
         (u.strand s.cur).pc = s.me.pc ∧ (u.strand s.cur).g = s.me.g ∧ u.acc = s.acc ++ xs ∧ xs.length = 16)) ∧
    (¬ busy → va.toNat % 64 = 0 → vb.toNat % 64 = 0 → ∀ pa pb, ok va pa → ok vb pb → Sound s pa 512 → Sound s pb 512 →
      ∃ u sa sb, exec (.mscl a b n) s = .next u ∧ Advanced s u ∧ SameBytes s u ∧ SameStrandsBut s.cur s u ∧
        (u.strand s.cur).g = s.me.g ∧ u.acc = s.acc ∧
        u.tile tn = { t with
          queue := t.queue ++ [.mscl n.toNat (s.cur / 4 % 8)]
          slots := t.slots.set n.toNat { slot with staged := some (sa, sb) } } ∧
        (∀ i < 128, (sa.get 0x3F800000 i).toNat = memNat s (pa + 4 * i) 4 ∧
          (sb.get 0x3F800000 i).toNat = memNat s (pb + 4 * i) 4))

/-- R349, R352, R353, R356: the graph commands wait in a queue of 8, held while it is full; with none before it a
command is performed at once where the slots allow: a swap activates the back slot when it is READY and the front
slot is not ACTIVE, and gives 0 when it is not; KEEP activates a READY front slot; GDRAIN closes the input of an
ACTIVE front slot and begins its drain, discards what a FROZEN one holds, and gives 0 otherwise. -/
def Sys2Proof.Claims.GraphSwapAndDrain : Prop :=
  ∀ (s : State) (d : GReg), s.canIssue { g := [d] } = true → isGateway s.cur = false →
    (s.tile (tileOf s.cur)).vacated = false → s.me.resumeWait = false → (∀ p ∈ s.me.pend, p.id < s.nextId) →
    let f := (s.tile (tileOf s.cur)).fabric; let fs := if f.front then f.b else f.a; let bs := if f.front then f.a else f.b;
    let live := fun (g : GSlot) => g.st = .active ∨ g.st = .draining ∨ g.st = .frozen;
    let active := fun (f : Fabric) (g : GSlot) =>
      { frontTo f { g with st := .active } with stages := List.replicate g.depth none, activeTaken := 0 };
    let waits := bs.st = .loading ∨ bs.st = .reloading ∨ fs.st = .frozen ∨ fs.st = .reloading;
    let drain := { frontTo f { fs with st := .draining } with drainLeft := f.inFifo.length };
    let queued := fun (i : Instr) (g : Fabric) (c : Access → GCmd) =>
      Queued i s d fun a t => { t with fabric := { g with cmds := g.cmds ++ [c a] } };
    (8 ≤ f.cmds.length → Held (.gswap d) s .injection ∧ Held (.gswapKeep d) s .injection ∧ Held (.gdrain d) s .injection) ∧
    (f.cmds = [] →
      (waits → queued (.gswap d) f (.gswap · false false) ∧ queued (.gswapKeep d) f (.gswap · true false)) ∧
      (¬ waits →
        (bs.st ≠ .ready → GraphGives (.gswap d) s d 0 f) ∧
        (bs.st = .ready → fs.st ≠ .active → GraphGives (.gswap d) s d 1 (active { f with front := !f.front } bs)) ∧
        (bs.st = .ready → fs.st = .active → queued (.gswap d) drain (.gswap · false true)) ∧
        (fs.st = .ready → ¬ live bs → GraphGives (.gswapKeep d) s d 1 (active f fs)) ∧
        (fs.st ≠ .ready ∨ live bs → GraphGives (.gswapKeep d) s d 0 f)) ∧
      (fs.st = .active → queued (.gdrain d) { drain with
        inClosed := true
        bind := f.bind.mapIdx fun i w => if i = 0 then w - BitVec.ofNat 64 (w.toNat % 4) else w } (.gdrain · true)) ∧
      (fs.st = .frozen → GraphGives (.gdrain d) s d
        (BitVec.ofNat 64 (2 ^ 63 + ((f.stages.filter fun x => x ≠ none).length + f.held.length)))
        { frontTo f {} with stages := [], held := [], drainLeft := 0 }) ∧
      (fs.st ≠ .active → fs.st ≠ .frozen → GraphGives (.gdrain d) s d 0 f))

/-- R353 to R355: GBIND checks its run at issue, gives 0 while a slot holds the pipeline, and replaces the binding
otherwise; a chain is asked of its receiver first, or refused when that lies outside the placement. -/
def Sys2Proof.Claims.GraphBindSetsStreams : Prop :=
  ∀ (s : State) (d a : GReg), s.canIssue { g := d.val :: run a.val 4 } = true → isGateway s.cur = false →
    (s.tile (tileOf s.cur)).vacated = false → s.me.resumeWait = false → (∀ p ∈ s.me.pend, p.id < s.nextId) →
    let tn := tileOf s.cur; let r := readRun s.me a.val 4;
    let f := (s.tile tn).fabric; let w := (r.getD 0 0).toNat; let n := (r.getD 3 0).toNat / 2 ^ 32;
    let bases := (if w % 4 = 2 then [r.getD 1 0] else []) ++ (if w / 4 % 4 = 1 then [r.getD 2 0] else []);
    let bad := w % 4 = 3 ∨ w / 4 % 4 = 3 ∨ (bases ≠ [] ∧ (n = 0 ∨ 12288 < n));
    let fits := fun (x : Word) => ∃ off, off + 256 * n ≤ 0x300000 ∧
      (x.toNat = 0x7F0000000000 + off ∨ x.toNat = 0x700000000000 + tn * 0x400000 + off);
    let ok := ¬ bad ∧ ∀ x ∈ bases, x.toNat % 64 = 0 ∧ fits x;
    let live := fun (g : GSlot) => g.st = .active ∨ g.st = .draining ∨ g.st = .frozen;
    let y := w / 2 ^ 24 % 1024;
    (bad → exec (.gbind d a) s = .next (s.raiseAtIssue s.cur .illegalCombination (r.getD 0 0))) ∧
    (¬ bad → (∃ x ∈ bases, x.toNat % 64 ≠ 0) →
      ∃ x ∈ bases, x.toNat % 64 ≠ 0 ∧ exec (.gbind d a) s = .next (s.raiseAtIssue s.cur .misaligned x)) ∧
    (¬ bad → (∀ x ∈ bases, x.toNat % 64 = 0) → (∃ x ∈ bases, ¬ fits x) →
      ∃ v, exec (.gbind d a) s = .next (s.raiseAtIssue s.cur .scratchBounds v)) ∧
    (ok → 8 ≤ f.cmds.length → Held (.gbind d a) s .injection) ∧
    (ok → f.cmds = [] →
      (live f.a ∨ live f.b → GraphGives (.gbind d a) s d 0 f) ∧
      (¬ live f.a → ¬ live f.b → w / 4 % 4 ≠ 2 → GraphGives (.gbind d a) s d 1 { f with
        bind := r, inClosed := decide (w % 4 = 0), inAfter := s.releaseSet s.cur, inNext := 0, outNext := 0, credits := 0,
        chain := [], chainSender := none }) ∧
      (¬ live f.a → ¬ live f.b → w / 4 % 4 = 2 → s.inPlacement (s.ctxOf s.cur) y = false → GraphGives (.gbind d a) s d 2 f) ∧
      (¬ live f.a → ¬ live f.b → w / 4 % 4 = 2 → s.inPlacement (s.ctxOf s.cur) y = true →
        ∃ t q, exec (.gbind d a) s = .next t ∧ Advanced s t ∧ (t.tile tn).fabric = { f with cmds := [.gbind q r true] } ∧
          q.strand = s.cur ∧ q.dest = .g d 8 false ∧ (t.strand s.cur).g = s.me.g ∧
          let c := s.tileCtx tn
          (t.ctx c).src = (s.ctx c).src + 1 ∧
          t.net = (({ s with nextId := s.nextId + 1 } : State).inject tn y false c [] (.chainBind tn)).net))

/-- R357: GSTAT gives the counts, or the status word, and CLR then clears its counters and sticky bits. -/
def Sys2Proof.Claims.GraphStatusReadAndClear : Prop :=
  ∀ (s : State) (d : GReg) (cnt clr : Bool), s.canIssue { g := [d] } = true → isGateway s.cur = false →
    let f := (s.tile (tileOf s.cur)).fabric;
    let code := fun (g : GSlot) => match g.st with
      | .empty => 0 | .loading => 1 | .ready => 2 | .active => 3 | .draining => 4 | .frozen => 5 | .reloading => 6;
    let status := f.rcnt.toNat * 2 ^ 48 + f.scnt.toNat * 2 ^ 32 + f.rld.toNat * 2 ^ 24 + f.range.toNat * 2 ^ 23 +
      f.sigf.toNat * 2 ^ 22 + f.reason.toNat * 2 ^ 16 + f.front.toNat * 2 ^ 7 + code f.b * 2 ^ 4 + code f.a;
    let v : Word := BitVec.ofNat 64 (if cnt then f.taken.toNat * 2 ^ 32 + f.delivered.toNat else status);
    (s.me.spBad d v = true → exec (.gstat d cnt clr) s = .next (s.raiseAtIssue s.cur .stackLimit v)) ∧
    (s.me.spBad d v = false → exec (.gstat d cnt clr) s = .next (s.goesOn ((if clr then withFabric s { f with
      rcnt := 0, scnt := 0, rld := 0, range := false, sigf := false, reason := 0 } else s).modMe fun st => writeG st d v)))

namespace Sys2Proof.Claims

/-- R378: the loop that a binding word and the two parameter words give, over what the slot held. -/
def boundLoop (l : Loop) (w : Word) (p q : Word) : Loop :=
  let decl := p.getLsbD 63
  { l with
    bind := BitVec.ofNat 64 (w.toNat % 2 ^ 24)
    setpoint := if decl then l.declSet else p.toNat % 2 ^ 16
    ilim := p.toNat / 2 ^ 16 % 2 ^ 16, period := p.toNat / 2 ^ 32 % 2 ^ 11
    kp := if decl then l.declKp else p.toNat / 2 ^ 48 % 16
    ki := if decl then l.declKi else p.toNat / 2 ^ 52 % 16
    wmin := q.toNat % 128, wmax := q.toNat / 2 ^ 8 % 128
    basep := q.toNat / 2 ^ 16 % 128, basec := q.toNat / 2 ^ 24 % 128 }

/-- R373, step 1, but for the states of the slots. -/
def loopIllegal (s : State) (t : Nat) (l : Loop) (others : List Loop) : Prop :=
  let kind := l.bind.toNat % 8
  let pc := l.bind.toNat / 2 ^ 8 % 8
  let cc := l.bind.toNat / 2 ^ 16 % 8
  let misfit := fun (c : Nat) => 4 ≤ c ∨ (c = 1 ∧ kind = 4) ∨ (c = 2 ∧ kind ≠ 4)
  let weight := fun (x : Nat) => x < 1 ∨ 64 < x
  5 ≤ kind ∨ (pc = 0 ∧ cc = 0) ∨ misfit pc ∨ misfit cc ∨ s.bufCap t l.buffer < l.setpoint ∨ 32767 < l.ilim ∨
    l.period < 16 ∨ 1024 < l.period ∨ weight l.wmin ∨ weight l.wmax ∨ l.wmax < l.wmin ∨
    (pc ≠ 0 ∧ weight l.basep) ∨ (cc ≠ 0 ∧ weight l.basec) ∨ ∃ x ∈ others, x.buffer = l.buffer

/-- R373, step 2. -/
def loopCycle (l : Loop) (others : List Loop) : Prop :=
  (l.actuator false ≠ none ∧ ∃ x ∈ others, x.actuator false = l.actuator false) ∨
  (l.actuator true ≠ none ∧ ∃ x ∈ others, x.actuator true = l.actuator true) ∨
  hasCycle ((l :: others).flatMap Loop.edges) = true

/-- R373, step 3; a FAULTED loop takes no part in the test of the limits. -/
def loopGain (s : State) (t : Nat) (l : Loop) (others : List Loop) : Prop :=
  let takes := fun (o : Option (Nat × Nat)) (z : Loop) =>
    (z = l ∧ l.st ≠ .faulted) ∨ (z ∈ others ∧ z.live = true ∧ (z.actuator false = o ∨ z.actuator true = o))
  let crossed := fun (o : Option (Nat × Nat)) => o ≠ none ∧ ∃ x y, takes o x ∧ takes o y ∧ y.wmax < x.wmin
  l.kp < 2 ∨ l.ki < l.kp + 3 ∨ l.period < 4 * s.bufRt t l.buffer ∨ crossed (l.actuator false) ∨ crossed (l.actuator true)

/-- R377: the controller has accepted an instruction of this core in this clock; the next clock's turn begins after it. -/
def coupled (s : State) : State :=
  s.modTile (tileOf s.cur) fun x => { x with loopServed := true, loopNext := (s.cur / 4 % 8 + 1) % 8 }

end Sys2Proof.Claims

/-! ### Coupling loops -/

/-- R367, R373: capacity and round trip of each kind of buffer, and the actuators and the buffer that a binding word
names. -/
def Sys2Proof.Claims.LoopBuffersAndActuators : Prop :=
  ∀ (s : State) (t : Nat) (c l : Nat),
    (s.bufCap t (0, c, l) = 16 ∧ s.bufRt t (0, c, l) = 4) ∧
    (s.bufCap t (1, c, l) = (((s.core (8 * t + c)).levels.get {} l).depth).toNat ∧ s.bufRt t (1, c, l) = 16) ∧
    (∀ k ∈ [2, 3], s.bufCap t (k, c, l) = 32 ∧
      (let f := (s.tile t).fabric; let g := if f.front then f.b else f.a;
       s.bufRt t (k, c, l) = if g.st = .empty then 132 else g.depth + 4)) ∧
    (s.bufCap t (4, c, l) = 64 ∧ s.bufRt t (4, c, l) = 64) ∧
    (∀ x : Loop, let w := x.bind.toNat; let k := w % 8;
      x.buffer = (k, if k < 2 then w / 8 % 8 else 0, if k = 1 then w / 64 % 4 else 0) ∧
      (∀ side : Bool, let b := if side then 16 else 8; let code := w / 2 ^ b % 8;
        x.actuator side = if code = 0 then none else if code = 1 then
          some (1, w / 2 ^ (b + 3) % 8 * 4 + w / 2 ^ (b + 6) % 4) else some (code, 0)))

/-- R373: the test for a cycle among the edges of the tile's loops finds exactly the cycles there are. -/
def Sys2Proof.Claims.CycleTestFindsEveryCycle : Prop :=
  ∀ es : List (Nat × Nat), hasCycle es = true ↔ ∃ x, Relation.TransGen (fun p q => (p, q) ∈ es) x x

/-- R373, R374, R377, R378, R380: the controller takes one instruction of the tile's cores in a clock and holds the
others. CPLB and CPLU check the tile's loops in the three steps and change nothing when one fails,
with g[a] in BADVA. CPLB then binds the slot, its control state 0 and its timer full, and with b = 0 unbinds it; CPLU
replaces the parameters, from the next sample on when one is due, and RST clears the integrator. -/
def Sys2Proof.Claims.LoopBindingAndUpdate : Prop :=
  ∀ (s : State) (a b : GReg) (rst : Bool), isGateway s.cur = false →
    let tn := tileOf s.cur; let t := s.tile tn; let v := readG s.me a; let k := v.toNat % 16; let old := t.loops.get {} k;
    let others := t.otherLoops k; let r := readRun s.me b.val 3;
    let checked := fun (i : Instr) (first : Prop) (l : Loop) (done : Prop) =>
      let bad := first ∨ loopIllegal s tn l others
      (bad → exec i s = .next (s.raiseAtIssue s.cur .illegalCombination v)) ∧
      (¬ bad → loopCycle l others → exec i s = .next (s.raiseAtIssue s.cur .couplingCycle v)) ∧
      (¬ bad → ¬ loopCycle l others → loopGain s tn l others →
        exec i s = .next (s.raiseAtIssue s.cur .couplingGain v)) ∧
      (¬ bad → ¬ loopCycle l others → ¬ loopGain s tn l others → done);
    let busy := t.loopServed = true;
    let sets := fun (i : Instr) (p : Loop → Prop) => ∃ u, exec i s = .next u ∧ Advanced s u ∧ SameBytes s u ∧
      SameStrandsBut s.cur s u ∧ (u.strand s.cur).g = s.me.g ∧ p ((u.tile tn).loops.get {} k);
    (busy → s.canIssue { g := a.val :: run b.val 3 } = true →
      Held (.cplb a b) s .injection ∧ Held (.cplu a b rst) s .injection) ∧
    (¬ busy → b ≠ 0 → s.canIssue { g := a.val :: run b.val 3 } = true → old.upd = none →
      let l := boundLoop old (r.getD 0 0) (r.getD 1 0) (r.getD 2 0);
      checked (.cplb a b) (old.st ≠ .unbound) l (sets (.cplb a b) fun x => x = { l with
        st := .bound, hold := x.hold, occ := 0, err := 0, integ := 0, u := 0, run := 0, nsmp := 0, clp := false,
        clc := false, vp := x.vp, vc := x.vc, timer := l.period, upd := x.upd })) ∧
    (¬ busy → b = 0 → s.canIssue { g := [a] } = true → sets (.cplb a b) fun x => x.st = .unbound) ∧
    (¬ busy → s.canIssue { g := a.val :: run b.val 2 } = true → old.upd = none →
      let q := readRun s.me b.val 2;
      let l := boundLoop old old.bind (q.getD 0 0) (q.getD 1 0);
      let l := { l with bind := old.bind };
      checked (.cplu a b rst) (old.st = .unbound) l (
        let put := fun (x : Loop) => exec (.cplu a b rst) s = .next (s.goesOn ((coupled s).modTile tn fun y =>
          { y with loops := t.loops.set k x }));
        (old.due = false → put (if rst then { l with integ := 0 } else l)) ∧
        (old.due = true → put { old with upd := some (q.getD 0 0, q.getD 1 0, rst) })))

/-- R377, R379, R381: the controller takes one instruction of the tile's cores in a clock and holds the others. CPLR gives
the four words of a slot as it stood at the end of the previous clock, and WGT sets the static weight, 1 to 64, another
value being ILLEGAL_COMBINATION. -/
def Sys2Proof.Claims.LoopReadsAndStaticWeight : Prop :=
  ∀ (s : State) (d a : GReg) (sel : BitVec 2), isGateway s.cur = false →
    let v := readG s.me a; let t := s.tile (tileOf s.cur);
    let l := t.loopsSeen.get {} (v.toNat % 16); let busy := t.loopServed = true;
    let signed := fun (x : Int) => (x % 2 ^ 32).toNat;
    let state := match l.st with | .unbound => 0 | .bound => 1 | .running => 2 | .saturated => 3 | .faulted => 4;
    let words := [l.nsmp.toNat * 2 ^ 32 + l.occ * 2 ^ 16 + l.run * 2 ^ 8 + state * 2 ^ 5 + l.clc.toNat * 16 +
        l.clp.toNat * 8 + l.hold.toNat * 4,
      signed l.integ * 2 ^ 32 + signed l.err, l.vc * 2 ^ 40 + l.vp * 2 ^ 32 + signed l.u,
      l.ki * 2 ^ 52 + l.kp * 2 ^ 48 + l.period * 2 ^ 32 + l.ilim * 2 ^ 16 + l.setpoint];
    let x : Word := BitVec.ofNat 64 (words.getD sel.toNat 0);
    (busy → s.canIssue { g := [d, a] } = true → Held (.cplr d a sel) s .injection ∧ Held (.wgt a) s .injection) ∧
    (¬ busy → s.canIssue { g := [d, a] } = true →
      (s.me.spBad d x = true → exec (.cplr d a sel) s = .next (s.raiseAtIssue s.cur .stackLimit x)) ∧
      (s.me.spBad d x = false → exec (.cplr d a sel) s = .next (s.goesOn ((coupled s).modMe fun st => writeG st d x)))) ∧
    (¬ busy → s.canIssue { g := [a] } = true →
      (v.toNat = 0 ∨ 64 < v.toNat → exec (.wgt a) s = .next (s.raiseAtIssue s.cur .illegalCombination v)) ∧
      (1 ≤ v.toNat → v.toNat ≤ 64 →
        exec (.wgt a) s = .next (s.goesOn ((coupled s).modMe fun st => { st with weight := BitVec.ofNat 7 v.toNat }))))


namespace Sys2Proof.Claims

/-- R29, R176: element `j` of a register in a type. -/
def elemOf (t : VType) (v : VecWord) (j : Nat) : Nat := v.toNat / 2 ^ (VType.bits t * j) % 2 ^ VType.bits t

/-- R177: whether a mask enables element `j` of `n`. -/
def governs (m : MaskWord) (n j : Nat) : Prop := m.getLsbD (16 * j / n) = true

/-- R34, R177: the flags of the enabled elements below `n`, merged. -/
def Merged (fl : BitVec 5) (on : Nat → Prop) (n : Nat) (f : Nat → BitVec 5) : Prop :=
  ∀ k < 5, fl.getLsbD k = true ↔ ∃ j < n, on j ∧ (f j).getLsbD k = true

/-- An instruction whose enabled elements `j` receive `f j` in register `d`, their flags merged into FPFLAGS; the others
keep their values. -/
def Lanewise (i : Instr) (s : State) (d : WReg) (m : MReg) (t : VType) (f : Nat → Nat × BitVec 5) : Prop :=
  let on := governs (readM s.me m) (VType.lanes t)
  ∃ v fl, exec i s = .next (s.completes { s.me with w := s.me.w.set d v, flags := s.me.flags ||| fl }) ∧
    Merged fl on (VType.lanes t) (fun j => (f j).2) ∧
    ∀ j < VType.lanes t, (on j → elemOf t v j = (f j).1) ∧ (¬ on j → elemOf t v j = elemOf t (readW s.me d) j)

/-- The floating-point types with their formats. -/
def floatTypes : List (VType × Fmt) := [(.f32, .f32), (.bf16, .bf16), (.f16, .f16)]

/-- R31, R35, R181: what the arithmetic instructions give for elements `x`, `y` and `z` in a format. -/
def floatLanes (st : Strand) (f : Fmt) (d a b : WReg) (m : MReg) (t : VType) :
    List (Instr × (Nat → Nat → Nat → Nat × BitVec 5)) :=
  let v := flushIn f st.fz
  let down := decide (st.rm = 2)
  let round := fun (x : FNum × BitVec 5) => ((roundFmt f st.rm st.fz x.1).1, x.2 ||| (roundFmt f st.rm st.fz x.1).2)
  let exact := fun (x : FNum × BitVec 5) => (exactBits f x.1, x.2)
  let nv := fun (x : FNum) => if x.isSnan then (16 : BitVec 5) else 0
  [ (.vadd d a b m t false, fun x y _ => round ((v x).add down (v y))),
    (.vsub d a b m t false, fun x y _ => round ((v x).add down (v y).neg)),
    (.vmul d a b m t false, fun x y _ => round ((v x).mul (v y))),
    (.vfma d a b m t false, fun x y z => round (FNum.fma down (v z) (v x) (v y))),
    (.vmin d a b m t false, fun x y _ => exact (minMaxNum false (v x) (v y))),
    (.vmax d a b m t false, fun x y _ => exact (minMaxNum true (v x) (v y))),
    (.vabs d a m t false, fun x _ _ => exact ((v x).abs, nv (v x))),
    (.vneg d a m t false, fun x _ _ => exact ((v x).neg, nv (v x))) ]

/-- R181: what the arithmetic instructions give for integer elements of `n` bits. -/
def intLanes (n : Nat) (sat u : Bool) (d a b : WReg) (m : MReg) (t : VType) :
    List (Instr × (Nat → Nat → Nat → Nat)) :=
  let v := fun (x : Nat) => ((x : Int)).bmod (2 ^ n)
  let r := fun (x : Int) => ((if sat then max (-2 ^ (n - 1)) (min (2 ^ (n - 1) - 1) x) else x) % 2 ^ n).toNat
  let less := fun (x y : Nat) => if u then x < y else v x < v y
  [ (.vadd d a b m t sat, fun x y _ => r (v x + v y)), (.vsub d a b m t sat, fun x y _ => r (v x - v y)),
    (.vmul d a b m t sat, fun x y _ => r (v x * v y)), (.vfma d a b m t sat, fun x y z => r (v z + v x * v y)),
    (.vmin d a b m t u, fun x y _ => if less y x then y else x), (.vmax d a b m t u, fun x y _ => if less x y then y else x),
    (.vabs d a m t sat, fun x _ _ => r |v x|), (.vneg d a m t sat, fun x _ _ => r (-v x)) ]

/-- R46, R181: what they give for residues. -/
def rnsLanes (d a b : WReg) (m : MReg) : List (Instr × (Nat → Nat → Nat)) :=
  [ (.vadd d a b m .rns false, rnsAdd), (.vsub d a b m .rns false, fun x y => rnsAdd x (rnsNeg y)),
    (.vmul d a b m .rns false, rnsMul), (.vneg d a m .rns false, fun x _ => rnsNeg x) ]

end Sys2Proof.Claims

/-! ### Vector instructions -/

/-- R177, R178, R180, R181: the vector arithmetic instructions, by element, in each type they accept. -/
def Sys2Proof.Claims.VectorArithmeticByElement : Prop :=
  ∀ (s : State) (d a b : WReg) (m : MReg), s.canIssue { w := [d.val, a.val, b.val] } = true →
    let el := fun (t : VType) (r : WReg) j => elemOf t (readW s.me r) j;
    (∀ p ∈ floatTypes, ∀ e ∈ floatLanes s.me p.2 d a b m p.1,
      Lanewise e.1 s d m p.1 fun j => e.2 (el p.1 a j) (el p.1 b j) (el p.1 d j)) ∧
    (∀ t ∈ [VType.i32, .i16, .i8], ∀ (sat u : Bool), ∀ e ∈ intLanes (VType.bits t) sat u d a b m t,
      Lanewise e.1 s d m t fun j => (e.2 (el t a j) (el t b j) (el t d j), 0)) ∧
    (∀ e ∈ rnsLanes d a b m, Lanewise e.1 s d m .rns fun j => (e.2 (el .rns a j) (el .rns b j), 0))

namespace Sys2Proof.Claims

/-- R182, R183, R186, R205: logic, shifts, moves and permutations: what element `j` receives. -/
def moveLanes (st : Strand) (d a b : WReg) (g : GReg16) (m : MReg) (t : VType) : List (Instr × (Nat → Nat)) :=
  let n := VType.bits t
  let l := VType.lanes t
  let x := elemOf t (readW st a)
  let y := elemOf t (readW st b)
  [ (.vand d a b m t, fun j => x j &&& y j), (.vor d a b m t, fun j => x j ||| y j), (.vxor d a b m t, fun j => x j ^^^ y j),
    (.vshl d a b m t, fun j => if n ≤ y j then 0 else x j * 2 ^ y j % 2 ^ n),
    (.vshr d a b m t, fun j => if n ≤ y j then 0 else x j / 2 ^ y j),
    (.vsar d a b m t, fun j => ((x j : Int).bmod (2 ^ n) / 2 ^ min n (y j) % 2 ^ n).toNat),
    (.vmov d a m t, x), (.vbcast d g m t, fun _ => (readG st (g16 g)).toNat % 2 ^ n),
    (.vshuf d a b m t, fun j => x (y j % l)),
    (.vperm d a b m t, fun j => if y j % (2 * l) < l then x (y j % l) else elemOf t (readW st d) (y j % l)) ]

/-- R147, R184: the conditions of VCMP with their flags. -/
def laneCompare (st : Strand) (t : VType) (c x y : Nat) : Option (Bool × BitVec 5) :=
  let n := VType.bits t
  let v := fun (x : Nat) => ((x : Int)).bmod (2 ^ n)
  match t with
  | .f32 => if c < 5 then some (fpCompare c (flushIn .f32 st.fz x) (flushIn .f32 st.fz y)) else none
  | .bf16 => if c < 5 then some (fpCompare c (flushIn .bf16 st.fz x) (flushIn .bf16 st.fz y)) else none
  | .f16 => if c < 5 then some (fpCompare c (flushIn .f16 st.fz x) (flushIn .f16 st.fz y)) else none
  | .rns => if c < 2 then some (decide ((rnsCanon x = rnsCanon y) ↔ c = 0), 0) else none
  | .df8 => none
  | _ => ([some (decide (x = y)), some (decide (x ≠ y)), some (decide (v x < v y)), some (decide (v x ≤ v y)), none,
      some (decide (x < y)), some (decide (x ≤ y))].getD c none).map fun r => (r, 0)

end Sys2Proof.Claims

/-- R182 to R188, R205: logic, shifts, moves and permutations by element; selection, insertion and extraction; the
masks, and VCMP, which writes one bit for each group of elements its mask bit governs: their AND, or their OR. -/
def Sys2Proof.Claims.VectorMovesMasksAndCompare : Prop :=
  ∀ (s : State) (d a b : WReg) (g h : GReg16) (m x y z : MReg) (t : VType),
    let l := VType.lanes t; let n := VType.bits t; let i := (readG s.me (g16 h)).toNat % l;
    let mask := fun (i : Instr) (v : MaskWord) => exec i s = .next (s.completes (writeM s.me x v));
    (s.canIssue { g := [g.val], w := [d.val, a.val, b.val] } = true →
      ∀ e ∈ moveLanes s.me d a b g m t, Lanewise e.1 s d m t fun j => (e.2 j, 0)) ∧
    (s.canIssue { w := [d.val, a.val, b.val] } = true → Lanewise (.vsel d a b m t) s d 0 t fun j =>
      (elemOf t (readW s.me (if (readM s.me m).getLsbD (16 * j / l) then a else b)) j, 0)) ∧
    (s.canIssue { g := [g.val, h.val], w := [d.val] } = true → Lanewise (.vins d g h t) s d 0 t fun j =>
      (if j = i then (readG s.me (g16 g)).toNat % 2 ^ n else elemOf t (readW s.me d) j, 0)) ∧
    (s.canIssue { g := [g.val, h.val], w := [a.val] } = true →
      Writes (.vext g a h t true) s (g16 g) (BitVec.ofNat 64 (elemOf t (readW s.me a) i)) ∧
      Writes (.vext g a h t false) s (g16 g) (BitVec.ofInt 64 ((elemOf t (readW s.me a) i : Int).bmod (2 ^ n)))) ∧
    (s.canIssue {} = true →
      mask (.mand x y z) (readM s.me y &&& readM s.me z) ∧ mask (.mor x y z) (readM s.me y ||| readM s.me z) ∧
      mask (.mnot x y) (~~~ readM s.me y)) ∧
    (s.canIssue { g := [g.val] } = true →
      Writes (.mpop g y) s (g16 g) (BitVec.ofNat 64 ((List.range 16).countP fun k => (readM s.me y).getLsbD k))) ∧
    (s.canIssue { w := [a.val, b.val] } = true → ∀ (any : Bool) (c : BitVec 3),
      let r := fun j => laneCompare s.me t c.toNat (elemOf t (readW s.me a) j) (elemOf t (readW s.me b) j);
      (∀ j, r j ≠ none) → let k := l / 16; let res := fun j => (r j).map (·.1) = some true;
      ∃ v fl, exec (.vcmp x a b m t any c) s =
          .next (s.completes (writeM { s.me with flags := s.me.flags ||| fl } x v)) ∧
        Merged fl (governs (readM s.me m) l) l (fun j => ((r j).map (·.2)).getD 0) ∧
        ∀ q < 16, ((readM s.me m).getLsbD q = false → v.getLsbD q = (readM s.me x).getLsbD q) ∧
          ((readM s.me m).getLsbD q = true → (v.getLsbD q = true ↔
            if any then ∃ j, k * q ≤ j ∧ j < k * q + k ∧ res j else ∀ j, k * q ≤ j → j < k * q + k → res j)))

namespace Sys2Proof.Claims

/-- R36, R40: the exact value of an element as a conversion reads it, floating-point sources but DF8 through FlushIn. -/
def sourceValue (st : Strand) (t : VType) (x : Nat) : FNum :=
  match t with
  | .f32 => flushIn .f32 st.fz x
  | .bf16 => flushIn .bf16 st.fz x
  | .f16 => flushIn .f16 st.fz x
  | .df8 => decodeDf8 x
  | _ => FNum.ofInt ((x : Int).bmod (2 ^ VType.bits t))

/-- R37 to R39: a value rounded into a type, with its flags. -/
def roundedTo (st : Strand) (t : VType) (x : FNum) : Nat × BitVec 5 :=
  let nv : BitVec 5 := if x.isSnan then 16 else 0
  let float := fun (f : Fmt) => ((roundFmt f st.rm st.fz x).1, (roundFmt f st.rm st.fz x).2 ||| nv)
  match t with
  | .f32 => float .f32
  | .bf16 => float .bf16
  | .f16 => float .f16
  | .df8 => ((toDf8 x).1, (toDf8 x).2 ||| nv)
  | _ => (((toInt x (VType.bits t) st.rm).1 % 2 ^ VType.bits t).toNat, (toInt x (VType.bits t) st.rm).2)

/-- R195: what VCVT writes for an element. -/
def converted (st : Strand) (t src : VType) (x : Nat) : Nat × BitVec 5 :=
  let n := VType.bits t
  let v := (x : Int).bmod (2 ^ VType.bits src)
  if src ∈ [VType.i32, .i16, .i8] ∧ t ∈ [VType.i32, .i16, .i8] then
    ((max (-2 ^ (n - 1)) (min (2 ^ (n - 1) - 1) v) % 2 ^ n).toNat, 0)
  else roundedTo st t (sourceValue st src x)

/-- R176: element `e` of a run of registers. -/
def runElem (st : Strand) (t : VType) (r : WReg) (e : Nat) : Nat :=
  elemOf t (readW st (Fin.ofNat 16 (r.val + e / VType.lanes t))) (e % VType.lanes t)

/-- An instruction whose enabled elements below `n` receive `f e` in the run of registers from `d`, their flags merged;
every other element and register keeps its value. -/
def RunLanewise (i : Instr) (s : State) (d : WReg) (m : MReg) (t : VType) (n : Nat) (f : Nat → Nat × BitVec 5) : Prop :=
  let on := governs (readM s.me m) n
  ∃ w fl, let st := { s.me with w := w, flags := s.me.flags ||| fl }; exec i s = .next (s.completes st) ∧
    Merged fl on n (fun j => (f j).2) ∧
    (∀ e < n, (on e → runElem st t d e = (f e).1) ∧ (¬ on e → runElem st t d e = runElem s.me t d e)) ∧
    (∀ k : Fin 16, k.val < d.val ∨ d.val + n / VType.lanes t ≤ k.val → w[k] = s.me.w[k])

end Sys2Proof.Claims

/-- R47, R48, R195 to R199: the conversions, the exit and the quantization at a position of the target register, and
the shifted sum. -/
def Sys2Proof.Claims.VectorConversions : Prop :=
  ∀ (s : State) (d a b : WReg) (g : GReg16) (m : MReg) (t src : VType) (p : BitVec 2) (k : BitVec 4),
    let types := [VType.f32, .bf16, .f16, .df8, .i32, .i16, .i8]; let l := VType.lanes t;
    let n := max l (VType.lanes src); let x := readG s.me (g16 g); let scale := x.toNat % 2 ^ 32;
    (t ∈ types → src ∈ types → d.val + n / l ≤ 16 → a.val + n / VType.lanes src ≤ 16 →
      s.canIssue { w := run d.val (n / l) ++ run a.val (n / VType.lanes src) } = true →
      RunLanewise (.vcvt d a m t src) s d m t n fun e => converted s.me t src (runElem s.me src a e)) ∧
    (src ∈ [VType.i32, .i16, .i8] → let n := VType.lanes src; d.val + n / 16 ≤ 16 →
      s.canIssue { w := run d.val (n / 16) ++ run a.val 1 } = true →
      RunLanewise (.vtorns d a m src) s d m .rns n fun e =>
        let v := (runElem s.me src a e : Int).bmod (2 ^ VType.bits src); let c := max (-8388480) (min 8388479 v);
        (rnsOfInt c, if c = v then 0 else 16)) ∧
    (s.canIssue { g := [g.val], w := [d.val, a.val] } = true → 16 * p.toNat + 16 ≤ l →
      let at_ := fun (i : Instr) (f : Nat → Nat × BitVec 5) => ∃ v fl,
        exec i s = .next (s.completes { s.me with w := s.me.w.set d v, flags := s.me.flags ||| fl }) ∧
        Merged fl (fun j => (readM s.me m).getLsbD j = true) 16 (fun j => (f (elemOf .f32 (readW s.me a) j)).2) ∧
        ∀ j < l, if 16 * p.toNat ≤ j ∧ j < 16 * p.toNat + 16 ∧ (readM s.me m).getLsbD (j - 16 * p.toNat) = true
          then elemOf t v j = (f (elemOf .f32 (readW s.me a) (j - 16 * p.toNat))).1
          else elemOf t v j = elemOf t (readW s.me d) j;
      (∀ q ∈ ([(.f32, .f32), (.bf16, .bf16), (.i8, .i8)] : List (VType × ExitFmt)), q.1 = t →
        at_ (.vfrns d a g m t p) fun e =>
          ((exitConvert e scale q.2).code, if (exitConvert e scale q.2).poisoned then 16 else 0)) ∧
      (t ∈ [VType.i8, .i16, .df8, .bf16, .f16] → at_ (.vqnt d a g m t p) fun e =>
        let y := (flushIn .f32 s.me.fz e).mul (flushIn .f32 s.me.fz scale);
        ((roundedTo s.me t y.1).1, y.2 ||| (roundedTo s.me t y.1).2))) ∧
    (s.canIssue { w := [d.val, a.val, b.val] } = true → t ∈ types → Lanewise (.vaddq d a b m t k) s d m t fun j =>
      let v := fun (r : WReg) => sourceValue s.me t (elemOf t (readW s.me r) j);
      let y := (v a).add (decide (s.me.rm = 2)) (v b); let r := roundedTo s.me t (y.1.scale (-(k.toNat : Int)));
      (r.1, y.2 ||| r.2))

namespace Sys2Proof.Claims

/-- R181, R203: one step of a sum, a minimum or a maximum in a type, by operation. -/
def combine (st : Strand) (t : VType) (u : Bool) (o : Nat) (x y : Nat) : Nat × BitVec 5 :=
  let float := fun (f : Fmt) => (((floatLanes st f 0 0 0 0 t).map (·.2)).getD ([0, 4, 5].getD o 0) fun _ _ _ => (0, 0)) x y 0
  match t with
  | .f32 => float .f32
  | .bf16 => float .bf16
  | .f16 => float .f16
  | .rns => (rnsAdd x y, 0)
  | _ => ((((intLanes (VType.bits t) false u 0 0 0 0 t).map (·.2)).getD ([0, 4, 5].getD o 0) fun _ _ _ => 0) x y 0, 0)

/-- R203, R204: where a fold starts: 0, the canonical NaN, or the largest or smallest value of an integer type. -/
def foldStart (t : VType) (u : Bool) (o : Nat) : Nat :=
  let n := VType.bits t
  if o = 0 then 0 else match t with
  | .f32 => 0x7FC00000
  | .bf16 => 0x7FC0
  | .f16 => 0x7E00
  | _ => if u then (if o = 1 then 2 ^ n - 1 else 0) else (if o = 1 then 2 ^ (n - 1) - 1 else 2 ^ (n - 1))

/-- R53: the value and the flags of the pairwise tree of `k` levels over the elements from `2^k * i` on. -/
def treeOf (f : Nat → Nat → Nat × BitVec 5) (x : Nat → Nat) : Nat → Nat → Nat × BitVec 5
  | 0, i => (x i, 0)
  | k + 1, i =>
    let p := treeOf f x k (2 * i)
    let q := treeOf f x k (2 * i + 1)
    ((f p.1 q.1).1, p.2 ||| q.2 ||| (f p.1 q.1).2)

/-- R206: whether element `x` ranks before an equal or other `y`: NaN above all, +0 above −0. -/
def above (st : Strand) (t : VType) (u : Bool) (x y : Nat) : Prop :=
  let float := fun (f : Fmt) =>
    let p := flushIn f st.fz x
    let q := flushIn f st.fz y
    q.isNan = false ∧ (p.isNan = true ∨ q.lt p = true ∨
      (p.isZero = true ∧ q.isZero = true ∧ p.isNeg = false ∧ q.isNeg = true))
  match t with
  | .f32 => float .f32
  | .bf16 => float .bf16
  | .f16 => float .f16
  | _ => if u then y < x else (y : Int).bmod (2 ^ VType.bits t) < (x : Int).bmod (2 ^ VType.bits t)

end Sys2Proof.Claims

/-- R53, R203, R204, R206: the reductions, scans and ranking, over the enabled elements. -/
def Sys2Proof.Claims.VectorReduceScanAndRank : Prop :=
  ∀ (s : State) (d a : WReg) (g : GReg16) (m : MReg) (t : VType) (u idx excl : Bool) (o : BitVec 2),
    let l := VType.lanes t; let n := VType.bits t; let x := elemOf t (readW s.me a);
    let on := fun j => (readM s.me m).getLsbD (16 * j / l);
    let accepted := t ≠ .df8 ∧ o ≠ 3 ∧ (t = .rns → o = 0) ∧ (u = true → o ≠ 0 ∧ t ∈ [VType.i32, .i16, .i8]);
    let f := combine s.me t u o.toNat;
    let before := fun j => ((List.range j).filter on).foldl (fun acc i => (f acc (x i)).1) (foldStart t u o.toNat);
    let writes := fun (i : Instr) (v : VecWord) (fl : BitVec 5) =>
      exec i s = .next (s.completes { s.me with w := s.me.w.set d v, flags := s.me.flags ||| fl });
    (s.canIssue { w := [d.val, a.val] } = true → accepted →
      (∃ fl, (if o = 0 then
          let r := treeOf f (fun j => if on j = true then x j else 0) (if l = 16 then 4 else if l = 32 then 5 else 6) 0
          writes (.vred d a m t u o) (BitVec.ofNat 512 r.1) fl ∧ fl = r.2
        else writes (.vred d a m t u o) (BitVec.ofNat 512 (before l)) fl ∧
          Merged fl (fun j => on j = true) l (fun j => (f (before j) (x j)).2))) ∧
      (∃ v fl, writes (.vscan d a m t excl u o) v fl ∧
        Merged fl (fun j => on j = true) l (fun j => (f (before j) (x j)).2) ∧
        ∀ j < l, elemOf t v j = if on j = true then before (if excl then j else j + 1) else elemOf t (readW s.me d) j)) ∧
    (s.canIssue { g := [g.val], w := [d.val, a.val] } = true → t ≠ .df8 → t ≠ .rns →
      (u = true → t ∈ [VType.i32, .i16, .i8]) →
      ∃ (order : List Nat) (v : VecWord) (fl : BitVec 5), writes (.vtopk d a g m t idx u) v fl ∧ order.Nodup ∧
        (∀ j, j ∈ order ↔ j < l ∧ on j = true) ∧
        order.Pairwise (fun i j => above s.me t u (x i) (x j) ∨ (¬ above s.me t u (x j) (x i) ∧ i < j)) ∧
        (∀ p < l, elemOf t v p = if p < min (readG s.me (g16 g)).toNat l then
            match order[p]? with
            | some j => if idx then j else match floatTypes.find? (·.1 == t) with
              | some q => exactBits q.2 (flushIn q.2 s.me.fz (x j))
              | none => x j
            | none => if idx then 2 ^ n - 1 else 0
          else 0) ∧
        Merged fl (fun j => on j = true) l (fun j => match floatTypes.find? (·.1 == t) with
          | some q => if (decodeFp q.2 (x j)).isSnan then 16 else 0
          | none => 0))

/-- R55, R56, R207, R208: VRNG writes the enabled lanes with a draw of the strand's generator under the context's key,
as they are or scaled to [0, 1), and counts RNGCTR up by 4; RNGSEED sets the stream and clears the count. -/
def Sys2Proof.Claims.RandomNumbers : Prop :=
  ∀ (s : State) (d : WReg) (m : MReg) (g : GReg16),
    let k := s.ctx (s.ctxOf s.cur); let st := s.me;
    let lane := fun j => let c := (st.rngctr.toNat + j / 4) % 2 ^ 64;
      let u := philox 10 (c % 2 ^ 32, c / 2 ^ 32, st.rngstream.toNat % 2 ^ 32, st.rngstream.toNat / 2 ^ 32)
        (k.rngkey0.toNat % 2 ^ 32) (k.rngkey1.toNat % 2 ^ 32);
      [u.1, u.2.1, u.2.2.1, u.2.2.2].getD (j % 4) 0;
    (s.canIssue { w := [d.val] } = true → ∀ e ∈ ([(.i32, id), (.f32, fun u => exactBits .f32 (.fin false (u / 256) (-24)))] :
        List (VType × (Nat → Nat))),
      ∃ v, exec (.vrng d m e.1) s = .next (s.completes { st with w := st.w.set d v, rngctr := st.rngctr + 4 }) ∧
        ∀ j < 16, elemOf e.1 v j = if (readM st m).getLsbD j = true then e.2 (lane j) else elemOf e.1 (readW st d) j) ∧
    (s.canIssue { g := [g.val] } = true → exec (.rngseed g) s =
      .next (s.completes { st with rngstream := readG st (g16 g), rngctr := 0 })) ∧
    (∀ c0 c1 c2 c3 k0 k1 n : Nat, philox 0 (c0, c1, c2, c3) k0 k1 = (c0, c1, c2, c3) ∧
      philox (n + 1) (c0, c1, c2, c3) k0 k1 = philox n
        (0xCD9E8D57 * c2 / 2 ^ 32 ^^^ c1 ^^^ k0, 0xCD9E8D57 * c2 % 2 ^ 32, 0xD2511F53 * c0 / 2 ^ 32 ^^^ c3 ^^^ k1,
          0xD2511F53 * c0 % 2 ^ 32) ((k0 + 0x9E3779B9) % 2 ^ 32) ((k1 + 0xBB67AE85) % 2 ^ 32))

/-- R200, R201: a special-function instruction takes an entry of its core's queue, with its source, its mask and the
modes as they stand, and its result is pending; it is held while the queue's 8 entries are taken. -/
def Sys2Proof.Claims.SpecialFunctionsAreQueued : Prop :=
  ∀ (s : State) (d a : WReg) (m : MReg) (t : VType), s.canIssue { w := [d.val, a.val] } = true →
    let c := s.core (s.cur / 4); let st := s.me;
    ∀ e ∈ ([(.vexp2 d a m t, 0), (.vlog2 d a m t, 1), (.vrcp d a m t, 2), (.vrsq d a m t, 3), (.vtanh d a m t, 4),
        (.vsig d a m t, 5)] : List (Instr × Nat)),
      (8 ≤ c.sfq.length → Held e.1 s .sfQueue) ∧
      (c.sfq.length < 8 → exec e.1 s = .next (s.goesOn ((({ s with nextId := s.nextId + 1 } : State).setCore (s.cur / 4)
        { c with sfq := c.sfq ++ [{
          id := s.nextId, strand := s.cur, run := st.run, code := st.code, fn := e.2, ty := t, d := d, x := readW st a,
          mask := readM st m, rm := st.rm, fz := st.fz }] }).modMe fun x =>
            { x with pend := x.pend ++ [{ id := s.nextId, w := some d, lc := x.lc }] })))

namespace Sys2Proof.Claims

/-- R189: the vector memory instructions of register `d`: whether they store, the registers they use and the address of
element `j`. -/
def vecForms (st : Strand) (d b : WReg) (a g : GReg16) (m : MReg) (t : VType) (sc : Bool) :
    List (Instr × Bool × Uses × (Nat → Word)) :=
  let base := (readG st (g16 a)).toNat
  let n := VType.bits t / 8
  let unit := fun (j : Nat) => (BitVec.ofNat 64 (base + j * n) : Word)
  let index := fun (j : Nat) => (BitVec.ofInt 64
    (base + (elemOf t (readW st b) j : Int).bmod (2 ^ 32) * (if sc then 4 else 1)) : Word)
  [ (.vld d a m t, false, { g := [a.val], w := [d.val] }, unit), (.vst d a m t, true, { g := [a.val], w := [d.val] }, unit),
    (.vlds d a g m t, false, { g := [a.val, g.val], w := [d.val] }, fun j =>
      BitVec.ofInt 64 (base + j * (readG st (g16 g)).toInt)) ] ++
  (if t ∈ [VType.f32, .i32, .rns] then
    [ (.vgth d a b m t sc, false, { g := [a.val], w := [d.val, b.val] }, index),
      (.vsct d a b m t sc, true, { g := [a.val], w := [d.val, b.val] }, index) ] else [])

end Sys2Proof.Claims

/-- R189 to R192: the vector memory instructions check every enabled element in order, and the first that fails is the
fault, with nothing accessed. In the issuing tile's slice a load writes the enabled elements and a store the enabled
elements' bytes, the highest one's where they overlap; elsewhere each element is an access on its way. -/
def Sys2Proof.Claims.VectorMemoryByElement : Prop :=
  ∀ (s : State) (d b : WReg) (a g : GReg16) (m : MReg) (t : VType) (sc : Bool),
    let n := VType.bits t / 8; let l := VType.lanes t; let on := governs (readM s.me m) l;
    ∀ e ∈ vecForms s.me d b a g m t sc, s.canIssue e.2.2.1 = true →
      let need := if e.2.1 then needW else needR; let check := fun j => s.checkAccess s.cur (e.2.2.2 j) n n need;
      (∀ j c v, j < l → on j → check j = .bad c v → (∀ i < j, on i → ∃ x p, check i = .ok x p) →
        exec e.1 s = .next (s.raiseAtIssue s.cur c v)) ∧
      (∀ pa : Nat → Nat, (∀ j < l, on j → OwnAt s (e.2.2.2 j) n need (pa j) ∧ Sound s (pa j) n) →
        (e.2.1 = false → ∃ v k, exec e.1 s = .next (s.goesOn (({ s with nextId := k } : State).modMe fun st =>
            { st with w := st.w.set d v })) ∧
          ∀ j < l, (on j → elemOf t v j = memNat s (pa j) n) ∧ (¬ on j → elemOf t v j = elemOf t (readW s.me d) j)) ∧
        (e.2.1 = true → (∀ j < l, on j → Unwatched s (pa j / 64 * 64) 64 ∧ ∀ i < n, isReservedByte (pa j + i) = false) →
          ∃ u, exec e.1 s = .next u ∧ Advanced s u ∧ SameStrandsBut s.cur s u ∧ (u.strand s.cur).g = s.me.g ∧
            (u.strand s.cur).w = s.me.w ∧
            (∀ c, (∀ j < l, on j → c < pa j ∨ pa j + n ≤ c) → u.byte c = s.byte c) ∧
            (∀ j < l, on j → ∀ i < n, (∀ q < l, j < q → on q → pa j + i < pa q ∨ pa q + n ≤ pa j + i) →
              (u.byte (pa j + i)).toNat = elemOf t (readW s.me d) j / 256 ^ i % 256))) ∧
      ((∃ j < l, on j) → (∀ j < l, on j → ∃ x p, check j = .ok x p ∧ isOwn s.myCore x = false) →
        ∃ u xs, exec e.1 s = .next u ∧ Advanced s u ∧ SameBytes s u ∧ SameStrandsBut s.cur s u ∧ u.acc = s.acc ++ xs ∧
          (u.strand s.cur).w = s.me.w ∧
          xs.map (·.va) = ((List.range l).filter fun j => (readM s.me m).getLsbD (16 * j / l)).map e.2.2.2 ∧
          (u.strand s.cur).pend = s.me.pend ++
            (if e.2.1 then [] else [{ id := s.nextId, w := some d, lc := s.me.lc }]))


namespace Sys2Proof.Claims

/-- The instruction or step answers a next state of which `P` holds. -/
def Reaches (i : Instr) (s : State) (P : State → Prop) : Prop := ∃ t, exec i s = .next t ∧ P t

/-- R431, R438: the attribute word of a page that the tables give. -/
def PageWord (s : State) (l : Leaf) (w : Word) : Prop :=
  w.toNat / 2 ^ 44 = 0 ∧ w.toNat / 2 ^ 32 % 2 ^ 12 = l.lease ∧ w.toNat / 2 ^ 26 % 64 = l.key ∧ w.getLsbD 25 = l.enc ∧
  w.getLsbD 24 = l.region ∧ w.toNat / 2 ^ 22 % 4 = l.gran ∧ w.toNat / 2 ^ 20 % 4 = l.tier ∧ w.getLsbD 19 = l.x ∧
  w.getLsbD 18 = l.w ∧ w.getLsbD 17 = l.r ∧ w.toNat / 8 % 2 ^ 14 = 0 ∧
  w.toNat % 8 = (if l.pois = true then 4 else if l.tier ≠ 1 then 1 else if (s.borrower l.lease).st = .active then 2 else 3)

/-- R431, R438: the two words PROBE finds for the address `va`. The word of a byte of a gateway core's buffer, which no
window address names, is open. -/
def Probed (s : State) (va : Nat) (v w : Word) : Prop :=
  (r58 va ≠ none → v = 0 ∧ w = 6) ∧
  (r58 va = none →
    (∀ t o, windowOf va = some (t, o) →
      if s.inPlacement (s.ctxOf s.cur) t = true then v.toNat = va ∧ w = 5 else v = 0 ∧ w = 6) ∧
    (∀ o, aliasOf va = some o →
      if isGateway s.cur = false then v.toNat = 0x700000000000 + tileOf s.cur * 0x400000 + o ∧ w = 5
      else if o < 0x100000 then w = 5 else v = 0 ∧ w = 6) ∧
    (windowOf va = none → aliasOf va = none →
      (s.walk (s.ctxOf s.cur) va = none → v = 0 ∧ w = 0) ∧
      (∀ l, s.walk (s.ctxOf s.cur) va = some l → v = BitVec.ofNat 64 l.val ∧ PageWord s l w)))

end Sys2Proof.Claims

/-! ### Pages and gateway cores -/

/-- R125, R431, R438: PROBE finds what the page of an address is, raises no fault of its access, and its result is pending
as a load's in both registers of its run; it arrives as a load's does, and one that sp does not take is STACK_LIMIT with
neither register written. -/
def Sys2Proof.Claims.ProbeReportsThePage : Prop :=
  (∀ (s : State) (d a : GReg), s.canIssue { g := a.val :: run d.val 2 } = true →
    ∃ v w u, ∃ x : Access, Probed s (readG s.me a).toNat v w ∧ (u = s ∨ u = { s with nextId := s.nextId + 1 }) ∧
      x.id = u.nextId ∧ x.grp = x.id ∧ x.strand = s.cur ∧ x.run = s.me.run ∧ x.kind = .probe v w ∧ x.dest = .g d 8 false ∧
      x.status = .done [] ∧
      let owed := fun (r : GReg) => ({ id := x.id, g := some r, lc := s.me.lc } : Pend);
      exec (.probe d a) s = .next (s.goesOn (({ u.source (s.ctxOf s.cur) with
        nextId := u.nextId + 1, acc := s.acc ++ [x] } : State).modMe fun st =>
          { st with pend := st.pend ++ [owed d, owed (Fin.ofNat 32 (d.val + 1))] }))) ∧
  (∀ (s : State) (xs ys : List Access) (x : Access) (d : GReg) (v w : Word), s.acc = xs ++ x :: ys →
    (∀ b ∈ xs ++ ys, b.id ≠ x.id ∧ ¬ (b.grp = x.grp ∧ b.strand = x.strand)) → (∀ p ∈ s.net, x.id ∉ p.body.carried) →
    x.kind = .probe v w → x.dest = .g d 8 false → x.status = .done [] → let st := s.strand x.strand;
    st.run = x.run → st.phase = .running → st.resumeWait = false → let d' : GReg := Fin.ofNat 32 (d.val + 1);
    let ends := fun (p : State → Prop) => Reaches (.accessReply xs.length .home) s fun t => t.acc = xs ++ ys ∧
      t.mem = s.mem ∧ SameStrandsBut x.strand s t ∧ p t;
    (st.spBad d v = false → st.spBad d' w = false → ends fun t => t.strand x.strand = { writeG (writeG st d v) d' w with
      pend := st.pend.filter fun q => q.id != x.grp }) ∧
    (st.spBad d v = true ∨ st.spBad d' w = true → ends fun t => (t.strand x.strand).phase = .faulted ∧
      (t.strand x.strand).g = st.g ∧ (t.strand x.strand).pc = x.epc.setWidth 48 ∧
      (st.faults = [] → (t.strand x.strand).cause = 4 ∧
        (t.strand x.strand).badva = if st.spBad d v = true then v else w)))

/-- R453, R454: GWTAKE waits while the gateways are off, while its core holds 16 blocks and while the descriptor at the
head of the ring is not VALID; otherwise it takes the descriptor. -/
def Sys2Proof.Claims.GatewayTakesTheNextBlock : Prop :=
  ∀ (s : State) (d : GReg), s.canIssue { g := [d] } = true →
    (isGateway s.cur = false →
      exec (.gwtake d) s = .next (s.raiseAtIssue s.cur .illegalInstruction (BitVec.ofNat 64 (encode (.gwtake d))))) ∧
    (isGateway s.cur = true →
      let core := s.cur / 4; let i := (core - 6144) / 16; let g := s.gateway i;
      let ea : Word := BitVec.ofNat 64 (g.qbase.toNat / 4096 % 2 ^ 36 * 4096 + 64 * (g.head.toNat % 2 ^ g.szlog2.toNat));
      let holds := ((List.range 4).map fun k => (s.strand (4 * core + k)).taken.length).sum;
      ((g.enable = false ∨ 16 ≤ holds) → Held (.gwtake d) s .jobWait) ∧
      (g.enable = true → holds < 16 →
        (∀ c b, s.checkAccess s.cur ea 8 8 { r := true } = .bad c b → exec (.gwtake d) s = .next (s.raiseAtIssue s.cur c b)) ∧
        (∀ pa key, s.checkAccess s.cur ea 8 8 { r := true } = .ok (.mem pa key) false → s.poisoned pa 8 = false →
          let taken : State := (s.modGateway i fun g => { g with head := g.head + 1 }).modMe fun st => { st with taken := ea :: st.taken };
          (leNat (s.readPlain pa key 8) % 2 = 0 → Held (.gwtake d) s .jobWait) ∧
          (leNat (s.readPlain pa key 8) % 2 = 1 → s.me.spBad d ea = true →
            exec (.gwtake d) s = .next (s.raiseAtIssue s.cur .stackLimit ea)) ∧
          (leNat (s.readPlain pa key 8) % 2 = 1 → s.me.spBad d ea = false →
            exec (.gwtake d) s = .next (s.goesOn (taken.modMe fun st => writeG st d ea))))))

/-- R453, R455: GWDONE of a block that the strand holds waits for the strand's earlier accesses, adds to the counter of
the descriptor where CEN is 1, clears its first word and retires the block. -/
def Sys2Proof.Claims.GatewayRetiresBlocks : Prop :=
  ∀ (s : State) (a : GReg), s.canIssue { g := [a] } = true → let ea := readG s.me a;
    (isGateway s.cur = false →
      exec (.gwdone a) s = .next (s.raiseAtIssue s.cur .illegalInstruction (BitVec.ofNat 64 (encode (.gwdone a))))) ∧
    (isGateway s.cur = true → ea ∉ s.me.taken →
      exec (.gwdone a) s = .next (s.raiseAtIssue s.cur .illegalCombination ea)) ∧
    (isGateway s.cur = true → ea ∈ s.me.taken →
      (s.fenceWaits s.cur .release .domain = true → Held (.gwdone a) s .fence) ∧
      (s.fenceWaits s.cur .release .domain = false →
        ∀ pa key, s.checkAccess s.cur ea 64 8 { r := true, w := true } = .ok (.mem pa key) false →
          s.poisoned pa 64 = false → isOwn (s.cur / 4) (.mem pa key) = false →
          let bs := s.readPlain pa key 64; let w6 := leNat ((bs.drop 48).take 8); let w7 := leNat ((bs.drop 56).take 8);
          let retires := fun (u : State) => ∃ x : Access, x.kind = .store (List.replicate 8 0) ∧ x.va = ea ∧ x.size = 8 ∧
            x.target = .mem pa key ∧ x.status = .sent ∧ x.strand = s.cur ∧ x.run = s.me.run ∧ x.tile = tileOf s.cur ∧
            exec (.gwdone a) s = .next (s.goesOn ((issuedAway u x false).modMe fun st =>
              { st with taken := st.taken.erase ea }));
          (w6 < 2 ^ 63 → retires s) ∧
          (2 ^ 63 ≤ w6 → let c := s.ctxOf s.cur; let k := s.ctx c;
            let o := destOf (BitVec.ofNat 64 (w6 % 2 ^ 11)) (k.x0.toNat, k.y0.toNat);
            c < 256 → o.2 < 24 → ∃ h : Hdr, h.rels = true ∧ h.kind = 2 ∧
              retires (((s.modMe fun st => { st with seq := st.seq + 1 }).source c).inject (tileOf s.cur)
                (o.2 * 32 + o.1) false c (s.releaseSet s.cur) (.counter h (w6 / 2 ^ 17 % 256) (BitVec.ofNat 32 w7))))))

/-- R452: what GWCTL does: ENABLE going to 1 and RESTART start the four strands of each gateway core of the die at
GWENTRY, in the state of a start; ENABLE going to 0 discards them. Other strands are as they were. -/
def Sys2Proof.Claims.GatewayStartAndStop : Prop :=
  ∀ (s : State) (i : Nat) (mask : BitVec 16), i < 2 → s.windows = true → let g := s.gateway i;
    let started := fun (t : State) (n : Nat) => let st := t.strand n; let sb := 0x7F0000100000 - n % 4 * 0x40000;
      st.phase = .running ∧ st.code = 3 ∧ st.pc = (g.entry.setWidth 48) &&& ~~~3 ∧ st.run = (s.strand n).run + 1 ∧
      readG st 2 = BitVec.ofNat 64 sb ∧ readG st 4 = BitVec.ofNat 64 (n / 4 - 6144) ∧ readG st 5 = BitVec.ofNat 64 (n % 4) ∧
      (∀ r : GReg, r ≠ 2 → r ≠ 4 → r ≠ 5 → readG st r = 0) ∧ st.sbase = BitVec.ofNat 64 sb ∧
      st.slim = BitVec.ofNat 64 (sb - 0x40000) ∧ st.w = Vector.replicate 16 0 ∧ st.taken = [] ∧ st.pend = [] ∧
      st.faults = [] ∧ st.lc = 0 ∧ st.inl = 0;
    let ofDie := fun n => 4 * (6144 + 16 * i) ≤ n ∧ n < 4 * (6160 + 16 * i);
    (g.enable = false → Reaches (.gatewayEnable i) s fun t => (t.gateway i) = { g with enable := true } ∧
      (∀ n, (ofDie n → started t n) ∧ (¬ ofDie n → t.strand n = s.strand n)) ∧ SameBytes s t) ∧
    (g.enable = true → Reaches (.gatewayDisable i) s fun t => (t.gateway i) = { g with enable := false } ∧
      (∀ n, (ofDie n → (t.strand n).phase = .idle ∧ (t.strand n).taken = []) ∧ (¬ ofDie n → t.strand n = s.strand n)) ∧
      SameBytes s t) ∧
    (g.enable = true → Reaches (.gatewayRestart i mask) s fun t => (t.gateway i) = g ∧
      ∀ n, let one := ofDie n ∧ mask.getLsbD (n / 4 % 16) = true;
        (one → started t n) ∧ (¬ one → t.strand n = s.strand n))

namespace Sys2Proof.Claims

/-- What an instruction on registers alone may write: general registers, predicates, vector and mask registers, and
whether it may set bits of FPFLAGS. -/
structure MayWrite where
  g : List Nat := []
  p : List Nat := []
  w : List Nat := []
  m : List Nat := []
  flags : Bool := false

/-- The instructions that act on registers alone, with what each may write. -/
def mayWrite : Instr → Option MayWrite
  | .add d _ _ | .sub d _ _ | .and d _ _ | .or d _ _ | .xor d _ _ | .andn d _ _ | .shl d _ _ | .shr d _ _
  | .sar d _ _ | .ror d _ _ | .min d _ _ | .max d _ _ | .minu d _ _ | .maxu d _ _ | .slt d _ _ | .sltu d _ _
  | .seq d _ _ | .mul d _ _ | .mulh d _ _ | .mulhu d _ _ | .div d _ _ | .divu d _ _ | .rem d _ _ | .remu d _ _
  | .clz d _ | .ctz d _ | .popc d _ | .sel d _ _ _ | .addi d _ _ | .andi d _ _ | .ori d _ _ | .xori d _ _
  | .slti d _ _ | .sltiu d _ _ | .shli d _ _ | .shri d _ _ | .sari d _ _ | .rori d _ _ | .insh d _ _ | .aupc d _
  | .bfx d _ _ _ | .bfxu d _ _ _ | .bfi d _ _ _ | .psave d | .mpop d _ | .vext d _ _ _ _ =>
    some { g := [d.val] }
  | .fadd d _ _ | .fsub d _ _ | .fmul d _ _ | .ffma d _ _ | .fmin d _ _ | .fmax d _ _ | .fcmp d _ _ _
  | .fcvt d _ _ _ | .fneg d _ | .fabs d _ => some { g := [d.val], flags := true }
  | .pcmp d _ _ _ | .pcmpi d _ _ _ _ | .pand d _ _ | .por d _ _ | .pxor d _ _ | .pnot d _ | .pmov d _ =>
    some { p := [d.val] }
  | .pload _ => some { p := [1, 2, 3, 4, 5, 6, 7] }
  | .br _ | .beq _ _ _ | .bne _ _ _ | .blt _ _ _ | .bge _ _ _ | .bltu _ _ _ | .bgeu _ _ _ | .bp _ _ _ | .jr _ | .ret =>
    some {}
  | .call _ | .callr _ => some { g := [1] }
  | .vand d _ _ _ _ | .vor d _ _ _ _ | .vxor d _ _ _ _ | .vshl d _ _ _ _ | .vshr d _ _ _ _ | .vsar d _ _ _ _
  | .vsel d _ _ _ _ | .vmov d _ _ _ | .vbcast d _ _ _ | .vins d _ _ _ | .vshuf d _ _ _ _ | .vperm d _ _ _ _ =>
    some { w := [d.val] }
  | .vadd d _ _ _ _ _ | .vsub d _ _ _ _ _ | .vmul d _ _ _ _ _ | .vfma d _ _ _ _ _ | .vmin d _ _ _ _ _
  | .vmax d _ _ _ _ _ | .vabs d _ _ _ _ | .vneg d _ _ _ _ | .vqnt d _ _ _ _ _ | .vfrns d _ _ _ _ _
  | .vaddq d _ _ _ _ _ | .vred d _ _ _ _ _ | .vscan d _ _ _ _ _ _ => some { w := [d.val], flags := true }
  | .vcvt d _ _ t src => some { w := run d.val (max (VType.lanes t) (VType.lanes src) / VType.lanes t), flags := true }
  | .vtorns d _ _ t => some { w := run d.val (VType.lanes t / 16), flags := true }
  | .vcmp d _ _ _ _ _ _ => some { m := [d.val], flags := true }
  | .mand d _ _ | .mor d _ _ | .mnot d _ => some { m := [d.val] }
  | _ => none

/-- Whether an instruction runs in the core's divider (R136). -/
def divides : Instr → Bool
  | .div _ _ _ | .divu _ _ _ | .rem _ _ _ | .remu _ _ _ => true
  | _ => false

end Sys2Proof.Claims

/-! ### What instructions leave unchanged, and reset -/

/-- R32, R34, R84 to R90: an instruction on registers alone, whatever it comes to, leaves memory, every other strand
and every unit but the divider as they were; of its own strand it changes no register but the ones it names, no special register but
what the loop-back and a fault write, and FPFLAGS only by setting bits, where it computes in floating point. -/
def Obligations.RegisterInstructionsFrame : Prop :=
  ∀ (i : Instr) (f : MayWrite) (s t : State), mayWrite i = some f → exec i s = .next t →
    let o := s.me; let n := t.strand s.cur;
    OnlyStrand s.cur s { t with cores := s.cores } ∧ SameBytes s t ∧ (divides i = false → t.cores = s.cores) ∧
    (∃ u, t.core s.myCore = { s.core s.myCore with divUntil := u }) ∧ (∀ c, c ≠ s.myCore → t.core c = s.core c) ∧
    SameRegisters { o with g := n.g, p := n.p, w := n.w, m := n.m, flags := n.flags } n ∧
    (∀ r : Fin 32, r.val ∉ f.g → n.g[r] = o.g[r]) ∧ (∀ k < 8, k ∉ f.p → n.p.getLsbD k = o.p.getLsbD k) ∧
    (∀ r : Fin 16, r.val ∉ f.w → n.w[r] = o.w[r]) ∧ (∀ r : Fin 8, r.val ∉ f.m → n.m[r] = o.m[r]) ∧
    (if f.flags = true then o.flags ||| n.flags = n.flags else n.flags = o.flags)

/-- R459: what a cold reset leaves, with the reset values of the registers' tables: memory cleared and in canonical
form, every strand idle, contexts and kernels free, queues, gateways and leases off, links DOWN, nothing on its way.
Where the rules leave a choice open, the model's own is stated (log 2, 3, 4). -/
def Obligations.ColdResetState : Prop :=
  let s := State.reset;
  s.memOk = true ∧ (∀ a, s.byte a = 0) ∧ s.poison = [] ∧ s.net = [] ∧ s.acc = [] ∧ s.mcasts = [] ∧
  (∀ n, let st := s.strand n; st.phase = .idle ∧ (∀ r, readG st r = 0) ∧ st.pc = 0 ∧ st.rm = 0 ∧ st.fz = false ∧
    st.flags = 0 ∧ st.stepMode = false ∧ st.cause = 0 ∧ st.epc = 0 ∧ st.badva = 0 ∧ st.lc = 0) ∧
  (∀ c, (s.ctx c).st = .free ∧ (s.ctx c).kst = .free ∧ (s.ctx c).agelim = 4096) ∧
  (∀ q, (s.queue q).enable = false ∧ (s.queue q).head = 0 ∧ (s.queue q).tail = 0) ∧
  (∀ l, (s.link l).st = .down ∧ (s.link l).width = 0 ∧ (s.link l).retry = 0 ∧ (s.link l).crcerr = 0) ∧
  (∀ i, (s.lender i).st = .revoked ∧ (s.borrower i).st = .revoked ∧ (s.gateway i).enable = false) ∧
  (∀ k, (s.spinel k).rfmEn = true) ∧ s.tinv = 0 ∧ s.tinvBusy = false ∧ s.mgmt.st = .booting ∧ s.mgmt.err = 0 ∧
  s.mgmt.fatal = 0 ∧ s.mgmt.thr = 64 ∧ s.mgmt.capw = 6000




namespace Sys2Proof.Claims

/-- Nothing but entry `i` of the lender table differs, it is `l`, and `out` leaves for other accelerators. -/
def LenderBecomes (x : Instr) (s : State) (i : Nat) (l : Lender) (out : List PeerMsg := []) : Prop :=
  Reaches x s fun t => t = { s with lenders := t.lenders, sent := s.sent ++ out } ∧ t.lender i = l ∧
    ∀ j, j ≠ i → t.lender j = s.lender j

/-- Nothing but entry `i` of the borrower table differs, it is `b`, and `out` leaves for other accelerators. -/
def BorrowerBecomes (x : Instr) (s : State) (i : Nat) (b : Borrower) (out : List PeerMsg := []) : Prop :=
  Reaches x s fun t => t = { s with borrowers := t.borrowers, sent := s.sent ++ out } ∧ t.borrower i = b ∧
    ∀ j, j ≠ i → t.borrower j = s.borrower j

/-- R441: the flits of a link that its receiver has not taken. -/
def unsent (k : Link) : List Flit := k.flits.drop k.taken

/-- R445, R448, R466: link `l` takes a state and a width, a torus link at both its ends; flits that have not been taken
stay, the change is logged with an interrupt, and a torus link that falls to DOWN is a fatal error. -/
def LinkBecomes (x : Instr) (s : State) (l : Nat) (st : LinkState) (lanes : Nat) : Prop :=
  let code := match st with | .down => 0 | .training => 1 | .up => 2 | .degraded => 3 | .retired => 4
  let dead := l < 3072 ∧ st = .down
  Reaches x s fun t =>
    (∀ e ∈ endsOf l, (t.link e).st = st ∧ (t.link e).width = BitVec.ofNat 5 lanes ∧ unsent (t.link e) = unsent (s.link e) ∧
      ((t.link e).retry = (s.link e).retry ∨ (t.link e).retry = satInc (s.link e).retry) ∧ (t.link e).crcerr = (s.link e).crcerr) ∧
    (∀ e, e ∉ endsOf l → t.link e = s.link e) ∧
    t.mgmt.logCount = s.mgmt.logCount + 1 ∧ t.mgmt.logLink = BitVec.ofNat 12 l ∧ t.mgmt.logNew = BitVec.ofNat 3 code ∧
    t.msix = s.msix ++ (if dead then [s.mgmt.vec, s.mgmt.vec] else [s.mgmt.vec]) ∧
    t.mgmt.st = (if dead then .fatal else s.mgmt.st) ∧ (dead → t.mgmt.fatal = 1) ∧
    t.mem = s.mem ∧ t.strands = s.strands ∧ t.net = s.net

end Sys2Proof.Claims

/-! ### Links, leases, translation and refresh -/

/-- R445, R446, R449: the states of a link: training and what ends it, lanes lost, partners lost, and what software
writes; other writes of STATE are ignored. -/
def Sys2Proof.Claims.LinkStateTransitions : Prop :=
  ∀ (s : State) (l lanes : Nat), l ≤ 3088 → let k := s.link l; let port := 3072 ≤ l;
    let full := if l = 3088 then 16 else 4; let n := if port ∧ l < 3088 ∧ lanes = 3 then 2 else min lanes full;
    (k.st = .training → 0 < lanes → LinkBecomes (.linkTrained l lanes) s l (if n = full then .up else .degraded) n) ∧
    (k.st = .training → k.since + 2 ^ 20 ≤ s.time.toNat → LinkBecomes (.trainingTimeout l) s l .down 0) ∧
    (k.st = .training → s.time.toNat < k.since + 2 ^ 20 → exec (.trainingTimeout l) s = .next s) ∧
    (k.st = .up → LinkBecomes (.laneFailure l) s l .training 0) ∧
    (port → k.st ≠ .down → LinkBecomes (.partnerLost l) s l .down 0) ∧
    (s.windows = true →
      (k.st ≠ .training → LinkBecomes (.linkRetrain l) s l .training 0) ∧
      (k.st = .training → exec (.linkRetrain l) s = .next s) ∧
      (port → (k.st = .up ∨ k.st = .degraded ∨ k.st = .down) → LinkBecomes (.linkRetire l) s l .retired 0) ∧
      ((¬ port ∨ k.st = .training ∨ k.st = .retired) → exec (.linkRetire l) s = .next s))

namespace Sys2Proof.Claims

/-- R440: the CRC with polynomial 0x1021 and initial value 0xFFFF over bytes, the high bit of each first. -/
def crcOf (bytes : List Nat) : Nat :=
  (bytes.flatMap fun b => (List.range 8).map fun i => b.testBit (7 - i)).foldl (fun c b =>
    (2 * c % 2 ^ 16) ^^^ (if decide (2 ^ 15 ≤ c) = b then 0 else 0x1021)) 0xFFFF

/-- R442, R443: packet `p` on the link it takes next: on VC1 of its network once it has crossed a dateline of the ring
that link lies in, else on VC0. -/
def enters (p q : Packet) : Prop :=
  let port := routePort p.pos p.dst
  let wraps := (tileX p.pos = 31 ∧ port = 1) ∨ (tileX p.pos = 0 ∧ port = 3) ∨ (tileY p.pos = 23 ∧ port = 2) ∨
    (tileY p.pos = 0 ∧ port = 0)
  q = { p with moving := true, via := some (4 * p.pos + port), vc1 := q.vc1, dlx := q.dlx, dly := q.dly } ∧
  (port % 2 = 1 → (q.dlx = true ↔ p.dlx = true ∨ wraps) ∧ q.dly = p.dly ∧ q.vc1 = q.dlx) ∧
  (port % 2 = 0 → q.dlx = false ∧ (q.dly = true ↔ p.dly = true ∨ wraps) ∧ q.vc1 = q.dly)

end Sys2Proof.Claims

/-- R70, R214, R440 to R443: a packet leaves its router by the link towards its destination, x first, once its release
is met, no earlier packet of its stream waits there, and its flits find room in the 8 of their virtual channel at the far
end and in the link's retry buffer of 64; its flits then follow those of the link, a header with the route field and
its payload. -/
def Sys2Proof.Claims.PacketsTakeVirtualChannels : Prop :=
  ∀ (s : State) (xs ys : List Packet) (p : Packet), s.net = xs ++ p :: ys → (∀ q ∈ xs ++ ys, q.id ≠ p.id) →
    let l := 4 * p.pos + routePort p.pos p.dst; let n := 1 + p.body.payloadFlits;
    ∃ q, enters p q ∧
      let used := (((xs ++ p :: ys).filter fun x => x.via = some l ∧ x.vn1 = q.vn1 ∧ x.vc1 = q.vc1).map fun x =>
        1 + x.body.payloadFlits).sum;
      let may := p.pos ≠ p.dst ∧ p.moving = false ∧ s.released p.after = true ∧
        (∀ x ∈ xs, ¬ (x.src = p.src ∧ x.dst = p.dst ∧ x.vn1 = p.vn1 ∧ x.pos = p.pos ∧ x.moving = false)) ∧
        used + n ≤ 8 ∧ (s.link l).flits.length + n ≤ 64;
      (¬ may → s.sendOn p = s) ∧
      (may → ∃ fs : List Flit, s.sendOn p = { s with
          net := xs ++ q :: ys, links := s.links.set l { s.link l with flits := (s.link l).flits ++ fs } } ∧
        fs.length = n ∧ ∀ i f, fs[i]? = some f → f.pid = p.id ∧ (f.first = true ↔ i = 0) ∧ (f.last = true ↔ i + 1 = n) ∧
          (0 < i →
            ∀ j < 64, f.data.getD j 0 = p.body.payload.getD (64 * (i - 1) + j) 0) ∧
          (i = 0 → let r := leNat (f.data.drop 48); f.data.length = 64 ∧ r % 8 = q.vc1.toNat ∧ r / 8 % 2 = q.vn1.toNat ∧
            (n ≤ 5 → p.body.gid < 4096 → r / 16 % 8 = n - 1 ∧ r / 2 ^ 7 % 4096 = p.body.gid ∧
              r / 2 ^ 19 % 2 = q.dlx.toNat ∧ r / 2 ^ 20 = q.dly.toNat)))

/-- R440: a flit on a link is 64 bytes of data and a sideband with LAST, FIRST, LSEQ and the CRC; one that arrives as it
was sent, with the LSEQ its receiver expects, is good. -/
def Sys2Proof.Claims.FlitsCarryTheirCheck : Prop :=
  ∀ (f : Flit) (seq : BitVec 8), f.data.length = 64 →
    let w := f.wire seq; let side := w / 2 ^ 512;
    w % 2 ^ 512 = leNat f.data ∧ side / 2 ^ 26 = 0 ∧ side / 2 ^ 25 % 2 = f.last.toNat ∧ side / 2 ^ 24 % 2 = f.first.toNat ∧
    side / 2 ^ 16 % 256 = seq.toNat ∧
    side % 2 ^ 16 = crcOf (f.data.map BitVec.toNat ++ [side / 2 ^ 16 % 256, side / 2 ^ 24 % 256]) ∧
    flitGood w seq = true ∧ (∀ e, e ≠ seq → flitGood w e = false)

/-- R441, R445: flits cross a link in order. A good one is taken, and with its last flit a packet is at the next
router and goes on from there if it may; a bad one is discarded with all after it, a negative acknowledgement names the
LSEQ expected, and the sender, told so, drops what was taken and sends the rest again; the eighth retry in a row of one
flit is a lane failure. -/
def Sys2Proof.Claims.FlitsCrossLinks : Prop :=
  ∀ (s : State) (l noise : Nat), l < 3072 → let k := s.link l; let to_ := neighbour (l / 4) (l % 4);
    ((k.st = .up ∨ k.st = .degraded) → k.nak = none →
      (∀ f r, unsent k = f :: r →
        let good := flitGood (f.wire (k.lseq + BitVec.ofNat 8 k.taken) ^^^ noise) k.expect;
        let u := s.modLink l fun k => { k with taken := k.taken + 1, expect := k.expect + 1, repeats := 0 };
        (good = true → f.last = false → exec (.flitReceive l noise) s = .next u) ∧
        (good = true → f.last = true → ∀ p, s.net.find? (fun q => q.id == f.pid) = some p →
          let q := { p with pos := to_, moving := false };
          exec (.flitReceive l noise) s =
            .next (({ u with net := s.net.map fun x => if x.id = p.id then q else x } : State).sendOn q)) ∧
        (good = false → Reaches (.flitReceive l noise) s fun t => t = { s with links := t.links } ∧
          (t.link l).flits = k.flits ∧ (t.link l).taken = k.taken ∧ (t.link l).nak = some k.expect ∧
          (t.link (partnerPort l)).crcerr = satInc (s.link (partnerPort l)).crcerr)) ∧
      (unsent k = [] → exec (.flitReceive l noise) s = .next s)) ∧
    (k.nak.isSome = true → k.st = .up → 8 ≤ k.repeats + 1 → LinkBecomes (.linkNak l) s l .training 0) ∧
    (k.nak.isSome = true → (k.st ≠ .up ∨ k.repeats + 1 < 8) → exec (.linkNak l) s = .next (s.modLink l fun k => { k with
      nak := none, retry := satInc k.retry, repeats := k.repeats + 1, flits := unsent k, taken := 0,
      lseq := k.lseq + BitVec.ofNat 8 k.taken }))

/-- R435: the transitions of a lease at its lender and at its borrower, each on its event; any other write of STATE, and
an event that finds another state, changes nothing. The offer, the grant and the revocation are writes of software in
the lease window. The activation request with LIDX and SIZE, the answer with BASE or a negative one, and the
acknowledgement leave for the other accelerator. -/
def Sys2Proof.Claims.LeaseTransitions : Prop :=
  ∀ (s : State) (i peer size base : Nat), i < 4096 → base < 2 ^ 19 → let l := s.lender i; let b := s.borrower i;
    let now := s.time.toNat; let sent := s.acc.any fun a => a.status.open && decide (now < a.sentAt + 2 ^ 20) &&
      (match a.target with | .lease k _ _ => k == i | .mem _ _ => false);
    (s.windows = true →
      LenderBecomes (.leaseOffer i) s i (if l.st = .revoked then { l with st := .offered } else l) ∧
      BorrowerBecomes (.leaseGrant i) s i (if b.st = .revoked then { b with st := .granted, since := now } else b)
        (if b.st = .revoked then [.activation b.peer.toNat b.lidx.toNat b.size.toNat] else []) ∧
      (l.st = .active → Reaches (.leaseRevoke .lender i) s fun t => t.lender i = { l with st := .revoking, since := now } ∧
        t.notices = s.notices ++ [(.lender, i)] ∧ t = { s with lenders := t.lenders, notices := t.notices }) ∧
      (b.st = .active → Reaches (.leaseRevoke .borrower i) s fun t => t.borrower i = { b with st := .revoking, since := now } ∧
        t.notices = s.notices ++ [(.borrower, i)] ∧ t = { s with borrowers := t.borrowers, notices := t.notices }) ∧
      (l.st ≠ .active → exec (.leaseRevoke .lender i) s = .next s) ∧
      (b.st ≠ .active → exec (.leaseRevoke .borrower i) s = .next s)) ∧
    (let ok := l.st = .offered ∧ l.peer.toNat = peer ∧ size ≤ l.size.toNat;
     LenderBecomes (.leaseActivation i peer size) s i (if ok then { l with st := .active } else l)
      [.activated peer i (if ok then some l.base.toNat else none)]) ∧
    BorrowerBecomes (.leaseAnswer i true base) s i
      (if b.st = .granted then { b with st := .active, lbase := BitVec.ofNat 19 base } else b) ∧
    BorrowerBecomes (.leaseAnswer i false base) s i (if b.st = .granted then { b with st := .revoked } else b) ∧
    BorrowerBecomes (.leaseActivationTimeout i) s i
      (if b.st = .granted ∧ b.since + 2 ^ 20 ≤ now then { b with st := .revoked } else b) ∧
    (l.st = .active → LenderBecomes (.revocationNotice .lender i) s i { l with st := .revoking, since := now }) ∧
    (b.st = .active → BorrowerBecomes (.revocationNotice .borrower i) s i { b with st := .revoking, since := now }) ∧
    (b.st = .revoking → sent = false → BorrowerBecomes (.borrowerRevoked i) s i { b with st := .revoked }
      [.acknowledgement b.peer.toNat b.lidx.toNat]) ∧
    ((b.st ≠ .revoking ∨ sent = true) → exec (.borrowerRevoked i) s = .next s) ∧
    (∀ ack, LenderBecomes (.lenderRevoked i ack) s i
      (if l.st = .revoking ∧ l.adm = 0 ∧ (ack = true ∨ l.since + 2 ^ 20 ≤ now) then { l with st := .revoked } else l))

/-- R433, R436, R437: a peer's access under a lease. One that finds the lease not ACTIVE or not its own is answered with
LEASE_REVOKED, one beyond SIZE or without permission with PAGE_PERMISSION, and neither performs anything; an admitted one
is performed whole at its home, and the answer carries the data as the memory holds them. -/
def Sys2Proof.Claims.PeerAccessesUnderLeases : Prop :=
  ∀ (s : State) (i peer off : Nat) (op : PeerOp), let l := s.lender i; let pa := l.base.toNat * 0x200000 + off;
    let may := match op with | .read _ => l.r | .write _ | .atomic _ _ _ _ | .barrier _ _ _ => l.w;
    let live := l.st = .active ∧ l.peer.toNat = peer; let fits := off < l.size.toNat * 0x200000 ∧ may = true;
    let gives := fun (u : State) (a : PeerAnswer) => exec (.leaseAccess i peer off op) s =
      .next { u with sent := u.sent ++ [.answer peer i a] };
    (¬ live → gives s .revoked) ∧
    (live → ¬ fits → gives s .permission) ∧
    (live → fits →
      (∀ n, op = .read n → gives s (if s.poisoned pa n = true then .poison else .data (s.readRaw pa n))) ∧
      (∀ bs, op = .write bs → s.partlyPoisoned pa bs.length = true → gives s .poison) ∧
      (∀ bs, op = .write bs → s.partlyPoisoned pa bs.length = false → pa + bs.length ≤ 2 ^ 40 →
        ∃ u, gives u (.data []) ∧ SameBytesOutside s u pa bs.length ∧ (∀ k < bs.length, u.byte (pa + k) = bs.getD k 0) ∧
          u.strands = s.strands ∧ u.net = s.net) ∧
      (∀ k wide x y, op = .atomic k wide x y → let n := if wide then 8 else 4; let old := s.readRaw pa n;
        let new := atomicNew k (8 * n) (leNat old) (x.toNat % 2 ^ (8 * n)) (y.toNat % 2 ^ (8 * n));
        (s.poisoned pa n = true → gives s .poison) ∧
        (s.poisoned pa n = false → new = none → gives s (.data old)) ∧
        (s.poisoned pa n = false → pa + n ≤ 2 ^ 40 → ∀ v, new = some v → ∃ u, gives u (.data old) ∧
          SameBytesOutside s u pa n ∧ leNat (u.readRaw pa n) = v % 2 ^ (8 * n) ∧ u.strands = s.strands)) ∧
      (∀ k x y, op = .barrier k x y → s.poisoned pa 32 = true → gives s .poison) ∧
      (∀ k x y, op = .barrier k x y → s.poisoned pa 32 = false → ∀ b, [BarrierOp.init (x.setWidth 16) (y.setWidth 32),
          .arrive x false, .arrive x true, .test (x.getLsbD 0), .bytes x][k]? = some b →
        let r := s.barrierAt none pa none b;
        gives r.1 (match r.2 with | some v => .data (leBytes 8 v) | none => .overrun)))

/-- R429, R439: a write of TINV while BUSY is ignored; one with GO starts an invalidation, which is complete when no
access on its way was translated in its range. Refresh management counts the activations of a bank, which wait at HOLD,
and once the count has reached LEVEL the command lowers it by LEVEL; with EN = 0 it only counts. How many there were is
open. -/
def Sys2Proof.Claims.InvalidationAndRefresh : Prop :=
  ∀ (s : State) (v : Word) (stack bank : Nat),
    (s.windows = true → s.tinvBusy = false → Reaches (.tinv v) s fun t => t = { s with tinv := t.tinv, tinvBusy := v.getLsbD 0 } ∧
      t.tinv.toNat / 2 ^ 56 = v.toNat / 2 ^ 56 ∧ t.tinv.toNat / 2 ^ 48 % 256 = 0 ∧
      t.tinv.toNat / 2 ^ 16 % 2 ^ 32 = v.toNat / 2 ^ 16 % 2 ^ 32 ∧ t.tinv.toNat / 8 % 2 ^ 13 = 0 ∧
      t.tinv.toNat / 2 % 4 = v.toNat / 2 % 4 ∧ t.tinv.toNat % 2 = 0) ∧
    (s.tinvBusy = true → exec (.tinv v) s = .next s) ∧
    (s.tinvBusy = true → s.acc = [] → exec .invalidationComplete s = .next { s with tinvBusy := false }) ∧
    (∀ a ∈ s.acc, s.tinvBusy = true → a.status = .sent → windowOf a.va.toNat = none → aliasOf a.va.toNat = none →
      s.tinv.toNat / 2 ^ 56 = a.ctx → s.tinv.toNat / 2 % 4 = 0 → s.tinv.toNat / 2 ^ 16 % 2 ^ 32 = a.va.toNat / 2 ^ 16 →
      exec .invalidationComplete s = .next s) ∧
    (stack < 16 → let x := s.spinel stack; let old := x.acts.get 0 bank; let lv := s.rfmLevel stack;
      let hold := s.rfmHold stack; let u : State := { s with nextId := s.nextId + 1 };
      let put := fun (c : Nat) => exec (.refreshManagement stack bank) s =
        .next (u.modSpinel stack fun y => { y with acts := y.acts.set bank c });
      ∃ n, (x.rfmEn = false → put (old + n)) ∧
        (x.rfmEn = true → let c := min (old + n) (max old hold); (lv ≤ c → put (c - lv)) ∧ (c < lv → put c)))

namespace Sys2Proof.Claims

/-- R214, R218: packet `k` stands at its destination, its release is met and no earlier packet of its stream is under
way. -/
def Arrived (s : State) (k : Nat) (p : Packet) : Prop :=
  s.net[k]? = some p ∧ p.pos = p.dst ∧ p.moving = false ∧ s.released p.after = true ∧
    ∀ q ∈ s.net.take k, ¬ (q.src = p.src ∧ q.dst = p.dst ∧ q.vn1 = p.vn1)

/-- The state without packet `k`. -/
def without (s : State) (k : Nat) : State := { s with net := s.net.eraseIdx k }

/-- R221, R235: the reason for which the router of tile `t` finds a message undeliverable. -/
def refusedFor (s : State) (t : Nat) (h : Hdr) : Option Nat :=
  let e := ((s.tile t).handlers.get 0 h.hidx.toNat).toNat
  if t ∈ s.fuses then some 2
  else if s.inPlacement h.ctx.toNat t = false then some 3
  else if (0xFF0 ≤ h.hidx.toNat ∧ h.hidx.toNat ≤ 0xFFE) ∨ (h.hidx = 0xFFF ∧ h.fpost = false) ∨ (h.fpost = true ∧ h.hidx ≠ 0xFFF)
    then some 4
  else if e < 2 ^ 63 then some 0
  else if e / 2 ^ (40 + h.dcore.toNat) % 2 = 0 then some 1
  else if (e / 2 ^ 62 % 2 = 1 ↔ h.lclass = 0) ∨ (e / 2 ^ 61 % 2 = 1 ↔ h.kind ≠ 1) then some 5
  else none

/-- R221, R244: the entry that a message accepted at tile `t` makes. -/
def entryMade (s : State) (t : Nat) (m : Msg) : QEntry :=
  let e := ((s.tile t).handlers.get 0 m.hdr.hidx.toNat).toNat
  { msg := m
    snap := { entry := BitVec.ofNat 32 e, regs := BitVec.ofNat 2 (e / 2 ^ 36), stack := BitVec.ofNat 11 (e / 2 ^ 48) }
    level := if m.hdr.kind = 1 then 0 else if m.hdr.pset = true then m.hdr.prio else BitVec.ofNat 2 (e / 2 ^ 38)
    arrt := BitVec.ofNat 32 s.time.toNat }

/-- Entries of the spill rings of the context that holds the tile of a core (R248). -/
def ringSize (s : State) (core : Nat) : Nat := 2 ^ ((s.ctx ((s.holder (core / 8)).getD 0)).spbase.toNat % 32)

end Sys2Proof.Claims

/-! ### Arrival, refill and dispatch -/

/-- R221, R223, R235, R244, R245, R249, R252: a message that reaches its tile is undeliverable for the first reason that
holds, or it enters its level, a long one with a pool slot that holds its payload, or the level's spill ring. A packet
that may not be delivered yet waits. -/
def Sys2Proof.Claims.MessagesEnterTheirLevel : Prop :=
  ∀ (s : State) (k : Nat) (p : Packet) (m : Msg), s.net[k]? = some p → p.body = .msg m →
    let s1 := without s k; let core := 8 * p.dst + m.hdr.dcore.toNat; let q := entryMade s p.dst m;
    let l := q.level.toNat; let v := s.level core l; let need := 1 + m.hdr.lclass.toNat; let pool := (s.core core).pool;
    let room := (v.st = .empty ∨ v.st = .filling) ∧ v.entries.length < v.depth.toNat ∧
      (m.hdr.lclass = 0 ∨ ∃ i < 64, i ∉ pool);
    (¬ Arrived s k p → exec (.messageArrival k) s = .next s) ∧
    (Arrived s k p →
      (∀ r, refusedFor s p.dst m.hdr = some r → exec (.messageArrival k) s = .next (s1.undeliverable p.dst r m)) ∧
      (refusedFor s p.dst m.hdr = none →
        (room → m.hdr.lclass = 0 → exec (.messageArrival k) s = .next (s1.modLevel core l fun v =>
          { v with entries := v.entries ++ [q], st := if v.st = .empty then .filling else v.st })) ∧
        (room → m.hdr.lclass ≠ 0 → m.payload.length ≤ 256 → p.dst < 768 → Reaches (.messageArrival k) s fun t => ∃ i < 64, i ∉ pool ∧
          let at_ := sliceAddr p.dst (0x2D0000 + m.hdr.dcore.toNat * 0x4000 + i * 256);
          (t.core core).pool = i :: pool ∧ (t.level core l).entries = v.entries ++ [{ q with pool := some i }] ∧
          (∀ j < m.payload.length, t.byte (at_ + j) = m.payload.getD j 0) ∧ SameBytesOutside s t at_ m.payload.length) ∧
        (¬ room → ringSize s core < v.count + need + 5 * v.depth.toNat →
          exec (.messageArrival k) s = .next (s1.spillFull p.dst m)) ∧
        (¬ room → v.count + need + 5 * v.depth.toNat ≤ ringSize s core →
          (s1.ringPutEntry core l v.tail q = none → exec (.messageArrival k) s = .next (s1.spillFull p.dst m)) ∧
          (∀ s2, s1.ringPutEntry core l v.tail q = some s2 → exec (.messageArrival k) s = .next (s2.modLevel core l fun v =>
            { v with tail := (v.tail + need) % ringSize s2 core, count := v.count + need,
                     ring := v.ring ++ [(need, m.hdr.ctx.toNat)],
                     st := if v.st = .empty ∨ v.st = .filling then .spilling else v.st })))))

/-- R216, R217, R235, R241, R253: a reply that arrives fills its slot and joins the replies in their order of arrival, or
is undeliverable and frees its slot; a counter increment is undeliverable at a defective tile and outside the
placement, and is otherwise added to its counter. -/
def Sys2Proof.Claims.RepliesAndIncrementsArrive : Prop :=
  ∀ (s : State) (k : Nat) (p : Packet), Arrived s k p → let s1 := without s k;
    (∀ m, p.body = .reply m → let core := 8 * p.dst + m.hdr.dcore.toNat; let i := m.hdr.rslot.toNat;
      (∀ r, refusedFor s p.dst m.hdr = some r →
        let freed := (s1.undeliverable p.dst r m).modCore core fun c =>
          { c with replies := c.replies.set i {}, replyOrder := c.replyOrder.filter (· != i) };
        ((s.core core).frozen = false → exec (.replyArrival k) s = .next freed) ∧
        ((s.core core).frozen = true → Reaches (.replyArrival k) s fun t => t.core core = freed.core core ∧
          t.strands = freed.strands)) ∧
      (refusedFor s p.dst m.hdr = none → (s.core core).frozen = false → exec (.replyArrival k) s =
        .next (s1.modCore core fun c => { c with
          replies := c.replies.set i { c.replies.get {} i with filled := true, entry := entryMade s p.dst m },
          replyOrder := c.replyOrder ++ [i] })) ∧
      (refusedFor s p.dst m.hdr = none → (s.core core).frozen = true → Reaches (.replyArrival k) s fun t =>
        (t.core core).replyOrder = (s.core core).replyOrder ++ [i] ∧ ((t.core core).replies.get {} i).filled = true ∧
        ((t.core core).replies.get {} i).entry = entryMade s p.dst m)) ∧
    (∀ h n v, p.body = .counter h n v → let m : Msg := { hdr := h, args := [v.setWidth 64, 0, 0, 0] };
      (p.dst ∈ s.fuses → exec (.counterIncrement k) s = .next (s1.undeliverable p.dst 2 m)) ∧
      (p.dst ∉ s.fuses → s.inPlacement h.ctx.toNat p.dst = false →
        exec (.counterIncrement k) s = .next (s1.undeliverable p.dst 3 m)) ∧
      (p.dst ∉ s.fuses → s.inPlacement h.ctx.toNat p.dst = true →
        exec (.counterIncrement k) s = .next (s1.addCount p.dst n v.toNat)))

namespace Sys2Proof.Claims

/-- R250, R254: the level of ring `r` of the tile of `core`, 4 × core + level, wants its next ring entry read: it refills,
or spills with fewer entries than its low-water mark, and has room and, for a long entry, a pool slot. -/
def wantsEntry (s : State) (core r : Nat) : Prop :=
  let at_ := core / 8 * 8 + r / 4
  let v := s.level at_ (r % 4)
  (v.st = .refilling ∨ (v.st = .spilling ∧ (v.entries.filter (·.landed)).length < v.lwm.toNat)) ∧
    v.entries.length < v.depth.toNat ∧ ∃ n c, v.ring[v.unread]? = some (n, c) ∧ (n = 1 ∨ ∃ i < 64, i ∉ (s.core at_).pool)

/-- R250: of the levels that want an entry, level `l` of `core` is the first in the rotation over the tile's 32 rings, which
has made no read in this clock. -/
def turnToRead (s : State) (core l : Nat) : Prop :=
  let x := s.tile (core / 8)
  let after := fun (r : Nat) => (r + 32 - x.ringNext % 32) % 32
  let mine := core % 8 * 4 + l
  x.ringRead = false ∧ wantsEntry s core mine ∧ ∀ r < 32, wantsEntry s core r → after mine ≤ after r

end Sys2Proof.Claims

/-- R250, R254: a level that spills and has fewer entries than its low-water mark begins to refill. When its turn comes in
the rotation over the tile's 32 rings, one read in a clock, the next entry of its ring is read into a reserved position,
a long one with a pool slot. When the read lands, HEAD passes the entry, and a level whose ring is empty is EMPTY or
FILLING again. -/
def Sys2Proof.Claims.RefillBringsRingEntriesBack : Prop :=
  ∀ (s : State) (core l : Nat), l < 4 → let v := s.level core l; let landed := (v.entries.filter (·.landed)).length;
    let u := (s.refillRead core l).level core l;
    let latched := if v.st = .spilling ∧ landed < v.lwm.toNat then { v with st := .refilling } else v;
    exec (.refillRead core l) s = .next (s.refillRead core l) ∧
    (0 < v.count → ¬ turnToRead s core l → u = latched ∧ (s.refillRead core l).tiles = s.tiles) ∧
    (0 < v.count → turnToRead s core l → ∀ n c r bs, v.ring.drop v.unread = (n, c) :: r →
      s.ringRead core l n (v.head + ((v.ring.take v.unread).map (·.1)).sum) = some bs →
      let e : QEntry := { QEntry.ofBytes (bs.take 64) (bs.drop 64) with landed := false, ringAt := n };
      let x := (s.refillRead core l).tile (core / 8);
      x.ringRead = true ∧ x.ringNext = (core % 8 * 4 + l + 1) % 32 ∧
      (n = 1 → u = { latched with unread := v.unread + 1, entries := v.entries ++ [e] }) ∧
      (n ≠ 1 → ∃ i < 64, i ∉ (s.core core).pool ∧ ((s.refillRead core l).core core).pool = i :: (s.core core).pool ∧
        u = { latched with unread := v.unread + 1, entries := v.entries ++ [{ e with pool := some i }] })) ∧
    (∀ a e b, v.entries = a ++ e :: b → (∀ x ∈ a, x.landed = true) → e.landed = false →
      Reaches (.refillLand core l) s fun t => let w := t.level core l;
        w.entries = a ++ { e with landed := true } :: b ∧ w.head = (v.head + e.ringAt) % ringSize s core ∧
        w.count = v.count - e.ringAt ∧ w.ring = v.ring.drop 1 ∧ w.unread = v.unread - 1 ∧
        (v.st = .refilling → w.count = 0 → (∀ x ∈ b, x.landed = true) → w.st = .filling) ∧
        (v.st = .refilling → w.count ≠ 0 → w.st = .refilling))

namespace Sys2Proof.Claims

/-- R123, R246: whether a core makes dispatches. -/
def DispatchesHere (s : State) (core : Nat) : Prop :=
  core < 6144 ∧ (s.core core).frozen = false ∧ (s.tile (core / 8)).vacated = false ∧ s.mgmt.st ≠ .fatal ∧
    ∀ k < 4, (s.strand (4 * core + k)).phase ≠ .savedPre

/-- R87, R123, R222, R386: strand `n` as dispatch starts it on an entry of level `lvl` (4 for the reply level); its first
instruction issues no earlier than the second clock after. -/
def StartedOn (s t : State) (n : Nat) (e : QEntry) (lvl : Nat) : Prop :=
  let st := t.strand n; let c := n / 4 % 8; let ctx := s.ctx ((s.holder (tileOf n)).getD 0)
  let top := 0x2D0000 - (4 * c + n % 4) * (ctx.stksz * 4096); let sb : Word := BitVec.ofNat 64 (0x7F0000000000 + top)
  st.phase = .running ∧ readG st 2 = sb ∧ st.sbase = sb ∧ st.slim = sb - BitVec.ofNat 64 (64 * e.snap.stack.toNat) ∧
  readG st 3 = BitVec.ofNat 64 (0x7F0000000000 + (match e.pool with
    | some i => 0x2D0000 + c * 0x4000 + i * 256
    | none => 0x2F0000 + c * 0x100 + n % 4 * 0x40)) ∧
  (∀ r : GReg, (4 ≤ r.val ∧ r.val < 8 → readG st r = e.msg.args.getD (r.val - 4) 0) ∧
    (r.val < 2 ∨ 8 ≤ r.val → readG st r = 0)) ∧
  st.p = 0 ∧ st.w = Vector.replicate 16 0 ∧ st.m = Vector.replicate 8 0 ∧ st.lc = 0 ∧ st.ls = 0 ∧ st.le = 0 ∧
  st.rm = 0 ∧ st.fz = false ∧ st.flags = 0 ∧ st.stepMode = false ∧
  st.pc = BitVec.ofNat 48 ((ctx.imageBase.toNat + e.snap.entry.toNat) / 4 * 4) ∧ st.code = e.snap.regs ∧
  st.level = BitVec.ofNat 3 lvl ∧ st.inl = 0 ∧ st.hidx = e.msg.hdr.hidx ∧ st.msg = e.msg ∧
  (st.owed = true ↔ e.msg.hdr.kind = 0 ∧ e.msg.hdr.re = true) ∧ st.pool = e.pool ∧ st.pend = [] ∧ st.faults = [] ∧
  st.run = (s.strand n).run + 1 ∧ st.startAt = s.time + 2

end Sys2Proof.Claims

/-- R86, R87, R123, R216, R222, R246: a dispatch takes the head that R246 chooses, replies first and then the levels in
order unless an aged head is promoted, and gives it to the lowest IDLE strand; a head whose register blocks are not
free, or a core without an IDLE strand, makes none. -/
def Sys2Proof.Claims.DispatchStartsAStrand : Prop :=
  ∀ (s : State) (core : Nat), let idle := fun k => (s.strand (4 * core + k)).phase = .idle; let c := s.core core;
    ((¬ DispatchesHere s core ∨ ∀ k < 4, ¬ idle k) → exec (.dispatch core) s = .next s) ∧
    (DispatchesHere s core → ∀ k < 4, idle k → (∀ j < k, ¬ idle j) →
      (s.chooseHead core = none → exec (.dispatch core) s = .next s) ∧
      (∀ l e x, s.chooseHead core = some ((l, e), x) →
        (s.freeBlocks core < e.snap.regs.toNat + 1 → exec (.dispatch core) s = .next s) ∧
        (e.snap.regs.toNat + 1 ≤ s.freeBlocks core → Reaches (.dispatch core) s fun t =>
          StartedOn s t (4 * core + k) e (l.getD 4) ∧ SameStrandsBut (4 * core + k) s t ∧ (t.core core).lastPromoted = x ∧
          SameBytesOutside s t (sliceAddr (core / 8) (0x2F0000 + core % 8 * 0x100 + k * 0x40)) 64 ∧
          (∀ i, l = some i → (t.level core i).entries = (s.level core i).entries.drop 1) ∧
          (∀ i r, l = none → c.replyOrder = i :: r → (t.core core).replies.get {} i = {} ∧
            (t.core core).replyOrder = c.replyOrder.filter (· != i))))) ∧
    (let aged := fun i e => ∃ r, (s.level core i).entries = e :: r ∧ e.landed = true ∧
        max 256 (s.ctx ((s.holder (core / 8)).getD 0)).agelim.toNat < (s.time.setWidth 32 - e.arrt).toNat;
      (∀ i r, c.replyOrder = i :: r → (c.lastPromoted = true ∨ ∀ j < 4, ∀ e, ¬ aged j e) →
        s.chooseHead core = some ((none, (c.replies.get {} i).entry), false)) ∧
      (∀ i < 4, ∀ e r, (s.level core i).entries = e :: r → e.landed = true → c.replyOrder = [] →
        (∀ j < i, ∀ x y, (s.level core j).entries = x :: y → x.landed = false) →
        (c.lastPromoted = true ∨ ∀ j < 4, ∀ x, ¬ aged j x) → s.chooseHead core = some ((some i, e), false)) ∧
      (∀ i < 4, ∀ e, aged i e → c.lastPromoted = false →
        (∀ j < 4, ∀ x, aged j x → (s.time.setWidth 32 - x.arrt).toNat < (s.time.setWidth 32 - e.arrt).toNat ∨
          ((s.time.setWidth 32 - x.arrt).toNat = (s.time.setWidth 32 - e.arrt).toNat ∧ i ≤ j)) →
        s.chooseHead core = some ((some i, e), true)))

namespace Sys2Proof.Claims

/-- R70, R79, R213, R214: an access may be performed: it is under way, what it is released after has been performed, and
its request has reached the home. -/
def MayPerform (s : State) (a : Access) : Prop :=
  a.status = .sent ∧ s.released a.after = true ∧ s.onWay a = false

/-- Entry `k` of the accesses under way is `a`, the only one of its instruction and its request packet. -/
def Alone (s : State) (k : Nat) (a : Access) : Prop :=
  s.acc[k]? = some a ∧
  (∀ j b, s.acc[j]? = some b → j ≠ k → b.id ≠ a.id ∧ ¬ (b.grp = a.grp ∧ b.strand = a.strand)) ∧
  (∀ p ∈ s.net, ∀ is, p.body = .request is → is = [a.id] ∨ (is ≠ [] ∧ a.id ∉ is))

/-- The state with entry `k` of the accesses under way done or failed as `st` says. -/
def ended (s : State) (k : Nat) (st : AccStatus) : State := { s with acc := s.acc.modify k fun x => { x with status := st } }

/-- R213: an access that stands alone is answered from its home: its request is gone and a reply of one header flit leaves
on VN1 for its tile. -/
def answeredBack (s : State) (a : Access) : State :=
  ({ s with net := s.net.filter fun p => p.body ≠ .request [a.id] } : State).inject
    (s.homeTile a.tile a.target) a.tile true a.ctx [] (.answer [a.id])

end Sys2Proof.Claims

/-! ### Accesses, barriers and captures -/

/-- R64 to R66, R79, R166, R163, R213, R214: a load, a store or an atomic whose request has reached its home, no earlier
packet of its stream before it, is performed there, whole: the load gives the bytes as they are, the store writes its
bytes and no others, and the atomic gives the old value and writes the new one. A unit in error gives POISON. The answer
leaves for the tile. One that may not be performed yet waits. -/
def Sys2Proof.Claims.AccessRequestsArePerformed : Prop :=
  (∀ (s : State) (a : Access), (s.net.map (·.id)).Nodup → (s.onWay a = true ↔ ∃ i p, s.net[i]? = some p ∧
    a.id ∈ p.body.carried ∧ (p.pos ≠ p.dst ∨ p.moving = true ∨ ∃ q ∈ s.net.take i,
      q.src = p.src ∧ q.dst = p.dst ∧ q.vn1 = p.vn1 ∧ s.loadsBeside a q = false))) ∧
  (∀ (s : State) (k pa : Nat) (a : Access), Alone s k a → a.target = .mem pa none → a.whole = false →
    pa + a.size ≤ 2 ^ 40 → s.soft = [] → let now := s.readRaw pa a.size;
    let gives := fun (u : State) (st : AccStatus) => exec (.accessRequest k) s = .next (answeredBack (ended u k st) a);
    let goes := fun (t : State) => ∃ p ∈ t.net, p.body = .answer [a.id] ∧ p.dst = a.tile ∧ p.vn1 = true;
    (¬ MayPerform s a → exec (.accessRequest k) s = .next s) ∧
    (MayPerform s a →
      (a.kind = .load → gives s (if s.poisoned pa a.size = true then .failed .poison else .done now)) ∧
      (∀ bs, a.kind = .store bs → s.partlyPoisoned pa a.size = true → gives s (.failed .poison)) ∧
      (∀ bs, a.kind = .store bs → bs.length = a.size → s.partlyPoisoned pa a.size = false →
        Reaches (.accessRequest k) s fun t => t.acc = (ended s k (.done [])).acc ∧ t.strands = s.strands ∧ goes t ∧
          SameBytesOutside s t pa a.size ∧ (∀ j < a.size, t.byte (pa + j) = bs.getD j 0)) ∧
      (∀ op x y, a.kind = .atomic op x y → s.poisoned pa a.size = true → gives s (.failed .poison)) ∧
      (∀ op x y, a.kind = .atomic op x y → s.poisoned pa a.size = false → let n := 8 * a.size;
        Reaches (.accessRequest k) s fun t => t.acc = (ended s k (.done now)).acc ∧ t.strands = s.strands ∧ goes t ∧
          SameBytesOutside s t pa a.size ∧
          leNat (t.readRaw pa a.size) =
            (match atomicNew op n (leNat now) (x.toNat % 2 ^ n) (y.toNat % 2 ^ n) with
              | some v => v % 2 ^ n
              | none => leNat now))))

/-- R436, R447: an access to leased memory that has reached the die of its port leaves for the lender at LBASE × 2 MiB +
offset once a port of its lease is usable; without one for 2^20 clocks it fails with LEASE_REVOKED. Once it has left, the
lender's refusal is LEASE_REVOKED, PAGE_PERMISSION or POISON. Either way the answer leaves for the tile. -/
def Sys2Proof.Claims.LeasedAccessesLeaveByAPort : Prop :=
  ∀ (s : State) (k i off : Nat) (a : Access), Alone s k a → a.target = .lease i off none → let b := s.borrower i;
    let leaves := fun (p : Nat) (op : PeerOp) => exec (.accessRequest k) s = .next { s with
      sent := s.sent ++ [.access p b.peer.toNat b.lidx.toNat (b.lbase.toNat * 2 ^ 21 + off) op]
      acc := s.acc.modify k fun (x : Access) => { x with port := some p, sentAt := s.time.toNat } };
    let fails := fun (x : Instr) (c : Cause) => exec x s = .next (answeredBack (ended s k (.failed c)) a);
    (¬ MayPerform s a ∨ a.port ≠ none ∨ s.leasePort i = none → exec (.accessRequest k) s = .next s) ∧
    (MayPerform s a → a.port = none → ∀ p, s.leasePort i = some p →
      (a.kind = .load → leaves p (.read a.size)) ∧ (∀ bs, a.kind = .store bs → leaves p (.write bs)) ∧
      (∀ op x y, a.kind = .atomic op x y → leaves p (.atomic op (a.size == 8) x y)) ∧
      (∀ add, a.kind = .barrier (.arrive add false) → leaves p (.barrier 1 add 0))) ∧
    (a.status = .sent → a.port ≠ none → fails (.accessReply k .revoked) .leaseRevoked ∧
      fails (.accessReply k .permission) .pagePermission ∧ fails (.accessReply k .poison) .poison ∧
      (∀ bs, exec (.accessReply k (.data bs)) s = .next (answeredBack (ended s k (.done (bs.take a.size))) a)) ∧
      exec (.accessReply k .home) s = .next s) ∧
    (a.status = .sent → a.port = none → s.onWay a = false → a.sentAt + 2 ^ 20 ≤ s.time.toNat →
      fails (.portWaitTimeout k) .leaseRevoked) ∧
    (a.port ≠ none ∨ s.time.toNat < a.sentAt + 2 ^ 20 → exec (.portWaitTimeout k) s = .next s)

/-- R125, R129, R159, R165, R213: the answer of an access that stands alone: once it is back at its tile its result is
written and no longer pending, and one that failed is a deferred fault of its strand; until then nothing happens. -/
def Sys2Proof.Claims.AccessRepliesComeBack : Prop :=
  ∀ (s : State) (k : Nat) (xs ys : List Access) (a : Access), s.acc = xs ++ a :: ys → k = xs.length →
    (∀ b ∈ xs ++ ys, b.id ≠ a.id ∧ ¬ (b.grp = a.grp ∧ b.strand = a.strand)) →
    (∀ p ∈ s.net, a.id ∈ p.body.carried → p.body = .answer [a.id]) → let st := s.strand a.strand;
    st.run = a.run → st.phase = .running → st.resumeWait = false →
    let back := fun (t : State) => t.acc = xs ++ ys ∧ t.mem = s.mem ∧ SameStrandsBut a.strand s t ∧
      t.net = s.net.filter fun p => p.body ≠ .answer [a.id];
    (a.status ≠ .sent → s.onWay a = true → exec (.accessReply k .home) s = .next s) ∧
    (a.target.local_ = true → a.status = .sent → exec (.accessReply k .home) s = .next s) ∧
    (s.onWay a = false →
      (∀ bs r n sg, a.status = .done bs → (∀ d, a.kind ≠ .redlv d) → (∀ v w, a.kind ≠ .probe v w) → a.dest = .g r n sg →
        let v := loadWord n sg bs; st.spBad r v = false → Reaches (.accessReply k .home) s fun t => back t ∧
          (t.strand a.strand) = { writeG st r v with pend := st.pend.filter fun q => q.id != a.grp }) ∧
      (∀ c, a.status = .failed c → c.code.toNat < 256 → Reaches (.accessReply k .home) s fun t => back t ∧
        (t.strand a.strand).phase = .faulted ∧ (t.strand a.strand).g = st.g ∧
        (t.strand a.strand).pend = st.pend.filter (fun q => q.id != a.grp) ∧
        (st.faults = [] → let u := t.strand a.strand; u.cause.toNat = c.code.toNat + 256 ∧ u.epc = pcWord st ∧
          u.badva = a.va ∧ ∃ f : FaultRec, u.faults = [f] ∧ f.cause = c ∧ f.deferred = true ∧ f.epc = a.epc ∧
            f.badva = a.va ∧ f.time = s.time)))

/-- R270 to R273, R277, R436: a barrier operation that has reached its home is performed there; a refused arrival is
BARRIER_OVERRUN, and a unit in error POISON; the answer leaves for the tile. A continuation whose deadline passes in the
phase it waits for leaves its list and is posted with TMO, unless its kernel has been DRAINING since an earlier clock
(R394). -/
def Sys2Proof.Claims.BarrierStepsAtTheHome : Prop :=
  (∀ (s : State) (k pa : Nat) (a : Access) (op : BarrierOp), Alone s k a → a.target = .mem pa none →
    a.kind = .barrier op → s.soft = [] →
    let gives := fun (u : State) r => exec (.barrierOperation k) s = .next (answeredBack (ended u k r) a);
    (¬ MayPerform s a → exec (.barrierOperation k) s = .next s) ∧
    (MayPerform s a → let o := barrierIn s pa;
      let put := fun (o : BarObj) r => gives (s.storeAt pa none o.bytes) r;
      (s.poisoned pa 32 = true → gives s (.failed .poison)) ∧
      (s.poisoned pa 32 = false →
        (∀ add drop, op = .arrive add drop → let o1 := arrivedIn o add.toNat drop;
          (o.init = false ∨ o.arrived = o.expect → put { o with ovr := true } (.failed .barrierOverrun)) ∧
          (o.init = true → o.arrived ≠ o.expect → ¬ completing o1 → ¬ (o1.arrived = o1.expect ∧ 2 ^ 55 ≤ o1.pending) →
            put o1 (.done (leBytes 8 (if o.phase then 1 else 0)))) ∧
          (o.init = true → o.arrived ≠ o.expect → completing o1 → s.pool (unitOfPlace pa) = [] → pa % 32 = 0 →
            pa + 32 ≤ 2 ^ 40 → Reaches (.barrierOperation k) s fun t => SameBytesOutside s t pa 32 ∧
              barrierIn t pa = flipped o1 s.time ∧ t.acc = (ended s k (.done (leBytes 8 (if o.phase then 3 else 2)))).acc)) ∧
        (∀ ph, op = .test ph → gives s (.done (leBytes 8 (if o.init = true ∧ o.phase ≠ ph then 1 else 0))))))) ∧
  (∀ (s : State) (u i : Nat) (c : Cont), u < 768 → (s.tile u).conts = [(i, c)] → c.key = none → c.obj % 32 = 0 →
    c.obj + 32 ≤ 2 ^ 40 → c.hdr.dy.toNat < 24 → Unwatched s c.obj 32 → let kn := s.ctx c.ctx; let o := barrierIn s c.obj;
    let late := c.deadline ≠ 0 ∧ o.init = true ∧ o.phase = c.phase ∧ o.head = i ∧
      c.deadline.toNat ≤ (s.time.toNat % 2 ^ 32 + 2 ^ 32 - o.dbase) % 2 ^ 32;
    (¬ late → exec (.barrierDeadlineCheck u) s = .next s) ∧
    (late → Reaches (.barrierDeadlineCheck u) s fun t => (t.tile u).conts = [] ∧ SameBytesOutside s t c.obj 32 ∧
      barrierIn t c.obj = { o with head := 65535, nwait := (o.nwait + 65535) % 65536 } ∧
      (kn.kst = .draining ∧ kn.drainAt ≠ s.time → t.net = s.net) ∧
      (¬ (kn.kst = .draining ∧ kn.drainAt ≠ s.time) → ∃ m : Msg, m.args = c.args ∧ m.hdr.tmo = true ∧
        m.hdr.hidx = c.hdr.hidx ∧
        t.net = (s.inject u (c.hdr.dy.toNat * 32 + c.hdr.dx.toNat) false (c.ctx % 256) [] (.msg m)).net)))

namespace Sys2Proof.Claims

/-- R410: the fault record of a strand fault, in 128 bytes. -/
def recordOf (s : State) (n : Nat) (f : FaultRec) (hidx image : Nat) : List Byte :=
  let k := s.ctx (s.ctxOf n)
  let w0 := f.cause.code.toNat + (if f.deferred then 256 else 0) + f.time.toNat % 2 ^ 32 * 2 ^ 32
  let w1 := n % 2 ^ 15 + tileOf n % 1024 * 2 ^ 20 + k.x0.toNat * 2 ^ 30 + k.y0.toNat * 2 ^ 35 + k.w1k.toNat * 2 ^ 40 +
    k.h1.toNat * 2 ^ 45
  leBytes 8 w0 ++ leBytes 8 w1 ++ leBytes 8 f.epc.toNat ++ leBytes 8 f.badva.toNat ++ leBytes 8 hidx ++ leBytes 8 image ++
    List.replicate 80 0

end Sys2Proof.Claims

/-- R120 to R122, R129, R200, R202, R407, R409 to R412: the capture of a FAULTED strand makes it SAVED, with its image in
the core's record where the page takes it, and counts a record for every fault found; a record that its ring takes
stands there. The oldest special-function request of a core completes: its enabled elements and flags are written to
the register it names, unless its strand has ended. -/
def Sys2Proof.Claims.CapturesAndSpecialFunctions : Prop :=
  ∀ (s : State) (n core : Nat), let st := s.strand n; let c := s.ctxOf n; let k := s.ctx c;
    let va := k.coreRecord (n / 4);
    (st.phase ≠ .faulted → exec (.captureComplete n) s = .next s) ∧
    (st.phase = .faulted → Reaches (.captureComplete n) s fun t => (t.strand n).phase = .savedFault .none ∧
      (t.strand n).faults = [] ∧ (t.strand n).g = st.g ∧ SameStrandsBut n s t ∧
      (t.ctx c).frtail + (t.ctx c).frlost = k.frtail + k.frlost + BitVec.ofNat 32 st.faults.length ∧
      (isGateway n = false → ∀ pa key, s.saveTarget c va = some (.mem pa key) →
        (t.strand n).hasImage = true ∧ (t.strand n).imageVa = BitVec.ofNat 64 (va + 2048 * (n % 4))) ∧
      (st.faults = [] → isGateway n = false → ∀ pa, s.saveTarget c va = some (.mem pa none) → pa + 8192 ≤ 2 ^ 40 →
        ∀ j < 2048, t.byte (pa + 2048 * (n % 4) + j) = (st.imageBytes 2 st.msg.hdr.bits).getD j 0) ∧
      ((isGateway n = true ∨ s.saveTarget c va = none) → ∀ f, st.faults = [f] →
        let full := (k.frtail - k.frhead).toNat = 2 ^ (k.frbase.toNat % 32);
        let at_ := k.frbase.toNat / 4096 % 2 ^ 36 * 4096 + k.frtail.toNat % 2 ^ (k.frbase.toNat % 32) * 128;
        (full → (t.ctx c).frlost = k.frlost + 1 ∧ t.mem = s.mem) ∧
        (¬ full → ∀ s2, s.vaWriteAll c 8 at_ (recordOf s n f st.hidx.toNat 0) = some s2 →
          (t.ctx c).frtail = k.frtail + 1 ∧ t.mem = s2.mem))) ∧
    ((s.core core).sfq = [] → exec (.sfCompletion core) s = .next s) ∧
    (∀ e r, (s.core core).sfq = e :: r → let x := s.strand e.strand; let gone := x.run ≠ e.run ∨ x.phase = .idle;
      let l := VType.lanes e.ty; let on := fun j => e.mask.getLsbD (16 * j / l) = true;
      let f := fun j => specialBits (VType.fmt e.ty) e.fn e.rm e.fz (elemOf e.ty e.x j);
      (gone → exec (.sfCompletion core) s = .next (s.modCore core fun c => { c with sfq := r })) ∧
      (¬ gone → x.phase = .running → x.resumeWait = false → Reaches (.sfCompletion core) s fun t => ∃ v fl,
        t.strand e.strand = { x with
          w := x.w.set e.d v, flags := x.flags ||| fl, pend := x.pend.filter fun q => q.id != e.id } ∧
        (t.core core).sfq = r ∧ t.mem = s.mem ∧ SameStrandsBut e.strand s t ∧ Merged fl on l (fun j => (f j).2) ∧
        ∀ j < l, (on j → elemOf e.ty v j = (f j).1) ∧ (¬ on j → elemOf e.ty v j = elemOf e.ty x.w[e.d] j)))

/-- R86, R122, R253, R401 to R403, R420: a core that is frozen captures its strands and freezes its levels, and one that
is resumed gives its strands back as their images say and its levels to arrivals or to refill; each answers. A RESUME
at the strand's core reloads, discards or marks the strand, and one that names no strand SAVED after a fault is an
event. -/
def Sys2Proof.Claims.CoresFreezeAndResume : Prop :=
  ∀ (s : State) (k : Nat) (p : Packet), Arrived s k p → let s1 := without s k;
    (∀ core c, let x := 8 * p.dst + core; let k1 := s.ctx c;
      let answered := fun (t : State) => (t.ctx c).waiting = k1.waiting.filter (· != x);
      (p.body = .freeze core c → k1.cmd ≠ .destroy → core < 8 →
        (s.holder p.dst ≠ some c → Reaches (.coreFreeze k) s fun t => answered t ∧ t.strands = s.strands ∧ t.mem = s.mem) ∧
        (s.holder p.dst = some c → Reaches (.coreFreeze k) s fun t => answered t ∧ (t.core x).frozen = true ∧
          ((s.core x).frozen = true → t.strands = s.strands ∧ t.mem = s.mem) ∧
          ((s.core x).frozen = false → (t.core x).freezeTime = s.time ∧
            (∀ l < 4, (t.level x l).st = .frozen ∧ (t.level x l).entries = []) ∧
            (∀ i < 4, let o := s.strand (4 * x + i); let u := t.strand (4 * x + i); u.g = o.g ∧
              (o.phase.issues = true → u.phase = .savedPre ∧ u.epc = pcWord o) ∧
              (o.phase = .faulted → u.phase = .savedFault .none) ∧ (o.phase = .idle → u.phase = .idle) ∧
              (∀ m, o.phase = .savedFault m → u.phase = .savedFault m))))) ∧
      (p.body = .unfreeze core c → k1.cmd ≠ .destroy →
        ((s.core x).frozen = false → Reaches (.coreUnfreeze k) s fun t => answered t ∧ t.strands = s.strands ∧ t.mem = s.mem) ∧
        ((s.core x).frozen = true → (s.core x).sfq ≠ [] → exec (.coreUnfreeze k) s = .next s) ∧
        ((s.core x).frozen = true → (s.core x).sfq = [] → (s.tile p.dst).loops = [] → core < 8 → s.soft = [] →
          Reaches (.coreUnfreeze k) s fun t => answered t ∧
          (t.core x).frozen = false ∧
          (∀ l, 0 < l → l < 4 → (t.level x l).st = (if (s.level x l).ring = [] then .empty else .spilling)) ∧
          (∀ i < 4, let sst := s.recordSst x i; let u := (t.strand (4 * x + i)).phase;
            (sst = 2 → u = .savedFault .none) ∧ ((sst = 1 ∨ sst = 3) → u = .savedPre ∨ u = .running) ∧
            ((sst = 0 ∨ sst = 4) → u = .idle))))) ∧
    (∀ v c, p.body = .resume v c → let n := v.toNat % 2 ^ 15; let st := s.strand n; let drop := v.toNat / 2 ^ 16 % 2 = 1;
      let frozen := (s.core (n / 4)).frozen;
      (s.savedSst n ≠ 2 → exec (.resumePacket k) s =
        .next (s1.event c .illegalCombination 0 (tileOf n) n v 0)) ∧
      (s.savedSst n = 2 → Reaches (.resumePacket k) s fun t => let u := t.strand n;
        (frozen = true → drop → u.phase = .savedFault .discard ∧ u.replied = true) ∧
        (frozen = true → ¬ drop → u.phase = .savedFault .resume) ∧
        (frozen = false → drop → u.phase = .idle ∧ u.pool = none) ∧
        (frozen = false → ¬ drop → st.pend = [] → u.phase = .running ∧ u.rsmd = true ∧ u.credit = 64 ∧
          (∀ tgt, s.savedImage n = some tgt → u.pc = BitVec.ofNat 48 (fieldAt (s.readTarget tgt 0 2048) 1304 8 / 4 * 4))) ∧
        (frozen = false → ¬ drop → st.pend ≠ [] → u.phase = st.phase ∧ u.resumeWait = true)))

namespace Sys2Proof.Claims

/-- R260: packets of the ring, and the index that HEAD names. -/
def ringLen (k : HostQ) : Nat := 2 ^ k.szlog2.toNat

/-- R265: HEAD at index `h`, and the queue RUNNING while HEAD is not TAIL or a packet is in progress, else IDLE. -/
def HeadAt (k : HostQ) (h : Nat) : HostQ :=
  { k with
    head := BitVec.ofNat 16 (h % ringLen k), condAt := none
    st := if k.started = [] ∧ k.tail.toNat % ringLen k = h % ringLen k then .idle else .running }

/-- R264: a packet at HEAD that cannot be performed: ERRIDX, ERRCODE, ERROR and the interrupt; HEAD stays at it. -/
def failedPacket (s : State) (q code : Nat) : State :=
  let k := s.queue q
  { s.modQueue q fun k => { k with
      head := BitVec.ofNat 16 (k.head.toNat % ringLen k), erridx := BitVec.ofNat 16 (k.head.toNat % ringLen k), errcode := BitVec.ofNat 8 code, st := .error }
    with msix := s.msix ++ [k.vec] }

/-- R261: INTR of a packet sends the queue's vector when it completes. -/
def notify (s u : State) (q : Nat) (ws : List Word) : State :=
  if (ws.getD 0 0).getLsbD 10 = true then { u with msix := u.msix ++ [(s.queue q).vec] } else u

/-- R263, R265: the queue runs, HEAD is not TAIL, and the packet at HEAD holds these words. -/
def HeadHolds (s : State) (q : Nat) (ws : List Word) : Prop :=
  let k := s.queue q
  q < 64 ∧ s.mgmt.st = .ready ∧ s.mgmt.updating = false ∧ k.enable = true ∧ (k.st = .running ∨ k.st = .waiting) ∧
    k.tail.toNat % ringLen k ≠ k.head.toNat % ringLen k ∧ k.pending = none ∧ k.condAt = none ∧ s.headPacket q = some ws

/-- R261: the packet's opcode, with every reserved bit of it 0. -/
def Clean (ws : List Word) (opc : Nat) : Prop :=
  (ws.getD 0 0).toNat % 512 = opc ∧ (ws.getD 0 0).toNat / 2 ^ 11 % 2 ^ 21 = 0 ∧
    (∀ i < 8, 4 ≤ i ∨ (opc = 0 ∧ 1 ≤ i) → ws.getD i 0 = 0) ∧
    (opc = 1 → (ws.getD 2 0).toNat / 2 % 128 = 0 ∧ (ws.getD 2 0).toNat / 2 ^ 13 % 8 = 0 ∧ (ws.getD 2 0).toNat / 2 ^ 21 = 0 ∧
      (ws.getD 3 0).toNat < 4) ∧
    (opc = 3 → (ws.getD 3 0).toNat < 4) ∧
    (opc = 4 → (ws.getD 3 0).getLsbD 3 = false ∧ (ws.getD 3 0).toNat / 64 % 2 ^ 10 = 0 ∧ (ws.getD 3 0).toNat / 2 ^ 32 = 0)

/-- R263: nothing that the packet waits for is in progress. -/
def NotFenced (s : State) (q opc : Nat) (ws : List Word) : Prop :=
  (s.queue q).started = [] ∨ ((ws.getD 0 0).getLsbD 9 = false ∧ opc < 3)

end Sys2Proof.Claims

/-! ### Host queues -/

/-- R260, R265: the doorbell writes TAIL and starts an IDLE queue; a write of QCFG sets the vector, and with ENABLE 0 the
other fields; ENABLE set starts a STOPPED queue, and ENABLE cleared stops it and withdraws a LAUNCH that waits for its
rectangle. -/
def Sys2Proof.Claims.HostQueueRegisters : Prop :=
  ∀ (s : State) (q : Nat) (v : Word), q < 64 → s.mgmt.st = .ready → let k := s.queue q;
    let cfg := { k with vec := BitVec.ofNat 16 (v.toNat / 2 ^ 16) };
    let off := { cfg with
      ctx := BitVec.ofNat 8 (v.toNat / 2 ^ 40), szlog2 := BitVec.ofNat 4 (v.toNat / 2 ^ 32), loc := v.getLsbD 1 };
    let tail := { k with tail := BitVec.ofNat 16 v.toNat };
    let becomes := fun (i : Instr) (k' : HostQ) => exec i s = .next (s.modQueue q fun _ => k');
    (k.st ≠ .idle → becomes (.doorbell q v) tail) ∧
    (k.st = .idle → becomes (.doorbell q v) { tail with
      st := if v.toNat % 2 ^ 16 % ringLen k = k.head.toNat % ringLen k then .idle else .running }) ∧
    (v.getLsbD 0 = true → k.enable = true → becomes (.queueEnable q v) cfg) ∧
    (v.getLsbD 0 = true → k.enable = false → becomes (.queueEnable q v) { off with
      enable := true, erridx := 0, errcode := 0,
      st := if k.tail.toNat % ringLen off = k.head.toNat % ringLen off then .idle else .running }) ∧
    (v.getLsbD 0 = false → k.pending ≠ none → Reaches (.queueDisable q v) s fun t => let c := k.ctx.toNat;
      (t.queue q).pending = none ∧ (t.queue q).st = .stopped ∧ (t.queue q).enable = false ∧
      ((s.ctx c).kst = .placing → (t.ctx c).kst = .free ∧ (t.ctx c).stop = false)) ∧
    (v.getLsbD 0 = false → k.enable = true → k.pending = none → becomes (.queueDisable q v) { cfg with enable := false, st := .stopped }) ∧
    (v.getLsbD 0 = false → k.enable = false → k.pending = none → becomes (.queueDisable q v) { off with enable := false, st := .stopped })

/-- R261 to R265: the packet at HEAD. It waits for what FENCE, SIGNAL and COND wait for; a reserved opcode fails with 1;
NOP completes; COPY with a bad length or overlapping ranges fails with 1 and otherwise starts, its bytes cut into pieces; SIGNAL writes or adds; COND moves HEAD. -/
def Sys2Proof.Claims.HostPacketsStart : Prop :=
  ∀ (s : State) (q : Nat) (ws : List Word), HeadHolds s q ws →
    let k := s.queue q; let w := fun i => ws.getD i 0; let at_ := k.head.toNat % ringLen k; let c := k.ctx.toNat;
    let past := fun (u : State) => notify s (u.modQueue q fun k => HeadAt k (at_ + 1)) q ws;
    (∀ opc, Clean ws opc → ¬ NotFenced s q opc ws → let waits := s.modQueue q fun k => { k with st := .waiting };
      (opc = 0 → exec (.nop q) s = .next waits) ∧ (opc = 1 → exec (.launch q) s = .next waits) ∧
      (opc = 2 → exec (.copy q) s = .next waits) ∧ (opc = 3 → exec (.signal q) s = .next waits) ∧
      (opc = 4 → exec (.cond q) s = .next waits)) ∧
    (4 < (w 0).toNat % 256 → (k.started = [] ∨ (w 0).getLsbD 9 = false) → exec (.nop q) s = .next (failedPacket s q 1)) ∧
    (Clean ws 0 → NotFenced s q 0 ws → exec (.nop q) s = .next (past s)) ∧
    (Clean ws 2 → NotFenced s q 2 ws → let n := (w 3).toNat; let a := (w 1).toNat; let b := (w 2).toNat;
      let bad := n = 0 ∨ 2 ^ 32 < n ∨ (a < b + n ∧ b < a + n);
      (bad → exec (.copy q) s = .next (failedPacket s q 1)) ∧
      (¬ bad → a + n ≤ 2 ^ 64 → b + n ≤ 2 ^ 64 → ∃ ps : List Piece, (ps.map (·.len)).sum = n ∧
          (∀ j < n, ∃ p ∈ ps, p.src.toNat ≤ a + j ∧ a + j < p.src.toNat + p.len) ∧
          (∀ p ∈ ps, 0 < p.len ∧ p.dst.toNat + a = p.src.toNat + b) ∧
          exec (.copy q) s = .next (s.modQueue q fun k => HeadAt { k with
            started := k.started ++ [{ idx := at_, words := ws, pieces := ps }] } (at_ + 1)))) ∧
    (Clean ws 3 → NotFenced s q 3 ws → let op := (w 3).toNat; let a := (w 1).toNat;
      (2 ≤ op → exec (.signal q) s = .next (failedPacket s q 1)) ∧
      (op < 2 → a % 8 ≠ 0 → exec (.signal q) s = .next (failedPacket s q 2)) ∧
      (op < 2 → a % 8 = 0 → s.agateX c a 8 needW = none → exec (.signal q) s = .next (failedPacket s q 3)) ∧
      (op < 2 → a % 8 = 0 → ∀ pa, s.agateX c a 8 needW = some (.mem pa none) → pa + 8 ≤ 2 ^ 40 → s.soft = [] →
        (op = 1 → s.agateX c a 8 needR = some (.mem pa none) ∧ s.poisoned pa 8 = false) → s.partlyPoisoned pa 8 = false →
        Reaches (.signal q) s fun t => SameBytesOutside s t pa 8 ∧ t.strands = s.strands ∧ t.queues = (past s).queues ∧
          t.msix = (past s).msix ∧
          leNat (t.readRaw pa 8) = (if op = 1 then (leNat (s.readRaw pa 8) + (w 2).toNat) % 2 ^ 64 else (w 2).toNat))) ∧
    (Clean ws 4 → NotFenced s q 4 ws → let cond := (w 3).toNat % 8; let act := (w 3).toNat / 16 % 4;
      let n := (w 3).toNat / 2 ^ 16; let a := (w 1).toNat; let size := ringLen k;
      let left := (k.tail.toNat % size + size - at_) % size;
      (6 ≤ cond → exec (.cond q) s = .next (failedPacket s q 1)) ∧
      (cond < 6 → a % 8 ≠ 0 → exec (.cond q) s = .next (failedPacket s q 2)) ∧
      (cond < 6 → a % 8 = 0 → s.agateX c a 8 needR = none → exec (.cond q) s = .next (failedPacket s q 3)) ∧
      (cond < 6 → a % 8 = 0 → ∀ pa, s.agateX c a 8 needR = some (.mem pa none) → s.poisoned pa 8 = false → s.soft = [] →
        let holds := armCond cond (BitVec.ofNat 64 (leNat (s.readRaw pa 8))) (w 2);
        let goes := fun (h : Nat) => exec (.cond q) s = .next (if h % size = at_ then
          s.modQueue q (fun k => { k with st := .waiting, condAt := some s.time }) else
          notify s (s.modQueue q fun k => HeadAt k h) q ws);
        (holds = false → goes (at_ + 1)) ∧
        (holds = true → act = 0 → n + 1 ≤ left → goes (at_ + 1 + n)) ∧
        (holds = true → act = 0 → left < n + 1 → exec (.cond q) s = .next (failedPacket s q 6)) ∧
        (holds = true → act = 1 → ∀ h, (h + n) % size = at_ → goes h) ∧
        (holds = true → act = 2 → goes n) ∧
        (holds = true → act = 3 → exec (.cond q) s = .next (failedPacket s q 1))))

/-- R261 to R264: what becomes of packets that have started. A piece of a COPY writes its source bytes, and with the last
the packet completes; a LAUNCH completes once it is done; a piece that meets a fault fails the packet with 3. A COND
that tests itself again does so after 256 clocks. HEAD is then at the failed packet. -/
def Sys2Proof.Claims.HostPacketsComplete : Prop :=
  ∀ (s : State) (q k : Nat) (r : PktRun), (s.queue q).started[k]? = some r → let x := s.queue q; let c := x.ctx.toNat;
    let left := { x with started := x.started.eraseIdx k };
    let rest := if left.st = .stopped ∨ left.st = .error ∨ (left.st = .waiting ∧ left.pending ≠ none) then left else HeadAt { left with condAt := none } left.head.toNat;
    (r.pieces = [] → r.done = false → exec (.packetComplete q k) s = .next s) ∧
    (x.head.toNat < ringLen x → x.condAt = none →
      (r.pieces = [] → r.done = true → (x.st = .idle → left.tail.toNat % ringLen x = x.head.toNat ∧ left.started = []) →
        exec (.packetComplete q k) s = .next (notify s (s.modQueue q fun _ => rest) q r.words)) ∧
      (∀ p, r.pieces = [p] → x.st = .running →
        (∀ pa pb, s.agateX c p.src.toNat p.len needR = some (.mem pa none) → s.agateX c p.dst.toNat p.len needW = some (.mem pb none) →
          pa + p.len ≤ 2 ^ 40 → pb + p.len ≤ 2 ^ 40 → s.poison = [] → s.soft = [] → Reaches (.packetComplete q k) s fun t =>
            SameBytesOutside s t pb p.len ∧ (∀ j < p.len, t.byte (pb + j) = s.byte (pa + j)) ∧ t.queue q = rest ∧
            t.msix = (notify s s q r.words).msix) ∧
        (s.agateX c p.dst.toNat p.len needW = none → s.agateX c p.src.toNat p.len needR = none →
          Reaches (.packetComplete q k) s fun t => t.mem = s.mem ∧ (t.queue q).st = .error ∧ (t.queue q).errcode = 3 ∧
            (t.queue q).erridx = BitVec.ofNat 16 r.idx ∧ (t.queue q).head = BitVec.ofNat 16 r.idx ∧ (t.queue q).started = left.started ∧ t.msix = s.msix ++ [x.vec]))) ∧
    (x.condAt = none → exec (.condRetest q) s = .next s) ∧
    (∀ t0, x.condAt = some t0 → ((s.time - t0).toNat < 256 → exec (.condRetest q) s = .next s) ∧
      (256 ≤ (s.time - t0).toNat → ∀ ws, HeadHolds (s.modQueue q fun k => { k with condAt := none }) q ws → Clean ws 4 →
        x.started = [] → exec (.condRetest q) s = .next (s.cond q ws)))

namespace Sys2Proof.Claims

/-- R388: the tiles of a rectangle of `w` by `h` tiles with its origin at `(x, y)`. -/
def rectangle (w h x y : Nat) : List Nat :=
  (List.range h).flatMap fun j => (List.range w).map fun i => (y + j) % 24 * 32 + (x + i) % 32

/-- The tiles of a kernel record (R387). -/
def tilesOf (k : Ctx) : List Nat := rectangle (k.w1k.toNat + 1) (k.h1.toNat + 1) k.x0.toNat k.y0.toNat

/-- The cores of a kernel record. -/
def coresOf (k : Ctx) : List Nat := (tilesOf k).flatMap fun t => (List.range 8).map (8 * t + ·)

end Sys2Proof.Claims

/-! ### Kernels and contexts -/

/-- R261, R384, R388, R392, R394: a LAUNCH fails with 1 for a fixed row of 24 or more, with 7 on a context that is FREE or
DESTROYING, and with 5 for an image that is rejected; it waits while the kernel record is not FREE or
a LAUNCH of a lower queue of the context is due, and else the kernel is PLACING. Placement takes the first candidate origin whose tiles are sound and held by no kernel; without a sound
candidate, or without a free one under NOWAIT, the LAUNCH fails with 4, and otherwise it waits. -/
def Sys2Proof.Claims.LaunchesArePlaced : Prop :=
  (∀ (s : State) (q : Nat) (ws : List Word), HeadHolds s q ws → Clean ws 1 → NotFenced s q 1 ws →
    let k := s.queue q; let c := k.ctx.toNat; let x := s.ctx c; let y0 := (ws.getD 2 0).toNat / 2 ^ 16 % 32;
    let high := (ws.getD 2 0).getLsbD 0 = true ∧ 24 ≤ y0; let gone := x.st = .free ∨ x.st = .destroying;
    (high → exec (.launch q) s = .next (failedPacket s q 1)) ∧
    (¬ high → gone → exec (.launch q) s = .next (failedPacket s q 7)) ∧
    (¬ high → ¬ gone → x.kst ≠ .free → exec (.launch q) s = .next (s.modQueue q fun k => { k with st := .waiting })) ∧
    (¬ high → ¬ gone → x.kst = .free → (∃ j < q, (s.queue j).ctx.toNat = c ∧ s.launchDue j = true) →
      exec (.launch q) s = .next (s.modQueue q fun k => { k with st := .waiting })) ∧
    (¬ high → ¬ gone → x.kst = .free → (∀ j < q, (s.queue j).ctx.toNat = c → s.launchDue j = false) →
      (∀ r, s.parseKernel c (ws.getD 1 0) = .error r → exec (.launch q) s =
        .next (failedPacket (s.modCtx c fun x => { x with reason := BitVec.ofNat 8 r }) q 5)) ∧
      (∀ i, s.parseKernel c (ws.getD 1 0) = .ok i → Reaches (.launch q) s fun t => let y := t.ctx c;
        y.kst = .placing ∧ y.w1k = BitVec.ofNat 5 (i.w - 1) ∧ y.h1 = BitVec.ofNat 5 (i.h - 1) ∧ y.imageBase = ws.getD 1 0 ∧
        y.st = x.st ∧ y.qui = false ∧ y.wave = none ∧ (t.queue q).st = .waiting ∧ (t.queue q).head = k.head ∧ t.mem = s.mem ∧
        (t.queue q).pending = some { idx := k.head.toNat % ringLen k, words := ws }))) ∧
  (∀ (s : State) (c : Nat) (p : PktRun), let k := s.ctx c; let q := k.launchQ;
    k.kst = .placing → (s.queue q).pending = some p → (s.queue q).ctx.toNat = c → (∀ j < q, s.launchDue j = false) →
    let w2 := (p.words.getD 2 0).toNat; let at_ := fun n => rectangle (k.w1k.toNat + 1) (k.h1.toNat + 1) (n % 32) (n / 32);
    let candidate := fun n => if w2 % 2 = 1 then n = w2 / 2 ^ 16 % 32 * 32 + w2 / 256 % 32 else n < 768;
    let sound := fun n => candidate n ∧ ∀ t ∈ at_ n, t ∉ s.fuses;
    let free := fun n => sound n ∧ ∀ t ∈ at_ n, s.holder t = none;
    let fails := Reaches (.placement c) s fun t => (t.ctx c).kst = .free ∧ (t.queue q).pending = none ∧
      (t.queue q).errcode = 4 ∧ (t.queue q).erridx = BitVec.ofNat 16 p.idx ∧
      ((s.queue q).st ≠ .stopped → (t.queue q).st = .error) ∧ t.msix = s.msix ++ [(s.queue q).vec];
    ((∀ n, ¬ sound n) → fails) ∧
    ((∃ n, sound n) → (∀ n, ¬ free n) →
      ((p.words.getD 3 0).getLsbD 1 = true → fails) ∧ ((p.words.getD 3 0).getLsbD 1 = false → exec (.placement c) s = .next s)) ∧
    (∀ n, free n → (∀ m < n, ¬ free m) → Reaches (.placement c) s fun t => (t.ctx c).kst = .loading ∧
      (t.ctx c).x0 = BitVec.ofNat 5 (n % 32) ∧ (t.ctx c).y0 = BitVec.ofNat 5 (n / 32) ∧
      (t.ctx c).st = (if k.st = .created then .active else k.st) ∧ (t.queue q).pending = none ∧
      (t.queue q).started = (s.queue q).started ++ [p] ∧
      (t.queue q).head = BitVec.ofNat 16 (((s.queue q).head.toNat % ringLen (s.queue q) + 1) % ringLen (s.queue q))))

/-- R384, R389, R390, R394: LOADING leaves every tile of the placement with its slice zeroed but for SCRATCH, its handler
table, its level words with empty levels, its graph and its loops as the image says, and no watch, continuation or
range lock; then the kernel runs, or drains if it has been stopped. A core that a freeze has reached stays frozen. A read that fails releases the tiles and fails the
LAUNCH with 5. -/
def Sys2Proof.Claims.LoadingSetsTheTiles : Prop :=
  ∀ (s : State) (c : Nat), let k := s.ctx c;
    (k.kst ≠ .loading → exec (.kernelLoaded c) s = .next s) ∧
    (k.kst = .loading →
      (∀ r, s.parseKernel c k.imageBase = .error r → Reaches (.kernelLoaded c) s fun t => (t.ctx c).kst = .free ∧
        (t.ctx c).stop = false ∧ (t.queue k.launchQ).errcode = 5 ∧
        (t.queue k.launchQ).erridx = BitVec.ofNat 16 k.launchIdx) ∧
      (∀ i, s.parseKernel c k.imageBase = .ok i → Reaches (.kernelLoaded c) s fun t =>
        (t.ctx c).kst = (if k.stop then .draining else .running) ∧
        (∀ tile ∈ tilesOf k, let x := t.tile tile; x.watches = [] ∧ x.conts = [] ∧ x.locks = [] ∧
          (∀ h, x.handlers.get 0 h = ((i.handlers.find? fun e => e.1 == h).map (·.2 &&& 0xE7FFFFF0FFFFFFFF)).getD 0) ∧
          (∀ n < 16, (x.loops.get {} n).st = .unbound) ∧ x.fabric.front = true ∧ x.fabric.inFifo = [] ∧
          (∀ core < 8, (t.core (8 * tile + core)).inq = [] ∧ ∀ l < 4, let v := t.level (8 * tile + core) l;
            v.st = (if (s.core (8 * tile + core)).frozen then .frozen else .empty) ∧ v.entries = [] ∧ v.count = 0 ∧ v.depth = BitVec.ofNat 9 (i.levels.getD l 0 / 2 ^ 16) ∧
            v.lwm = BitVec.ofNat 9 (i.levels.getD l 0))) ∧
        ((∀ x ∈ coresOf k, (s.core x).frozen = false) → s.soft = [] → ∀ bs, s.imageRead c k.imageBase.toNat i.scratch.off i.scratch.len = some bs →
          bs.length ≤ 0x2D0000 → ∀ tile ∈ tilesOf k, ∀ o < 0x300000, t.byte (sliceAddr tile o) = bs.getD o 0)))

/-- R387, R393 to R395: two equal waves without anything unsunk set QUI, and a quiescent kernel that drains, or that has
no armed watch and no continuation that waits, retires; STOP makes a RUNNING kernel drain, and its watches are
discarded at the end of that clock; retirement clears and releases the tiles, and the context is CREATED again, or FREE with its keys zeroed
when it is being destroyed. -/
def Sys2Proof.Claims.KernelsDrainAndRetire : Prop :=
  ∀ (s : State) (c : Nat), c < 256 → let k := s.ctx c;
    (k.st ≠ .destroying → k.kst = .running ∨ k.kst = .draining → let n := s.unsunk c;
      (k.wave = none → exec (.quiescenceWave c) s = .next (s.modCtx c fun k => { k with wave := some (k.src, n) })) ∧
      (∀ w, k.wave = some w → let qui := w = (k.src, n) ∧ n = 0;
        let retires := qui ∧ (k.kst = .draining ∨ ((∀ t ∈ tilesOf k, (s.tile t).watches = []) ∧
          ∀ e ∈ s.contsOf c, s.contWaits e.1 e.2.1 e.2.2 = false));
        exec (.quiescenceWave c) s = .next (s.modCtx c fun k =>
          { k with qui := decide qui, wave := none, kst := if retires then .retiring else k.kst }))) ∧
    (s.mgmt.st = .ready →
      (k.kst = .free → exec (.kernelStop c) s = .next s) ∧
      (k.kst ≠ .free → k.kst ≠ .running → exec (.kernelStop c) s = .next (s.modCtx c fun k => { k with stop := true })) ∧
      (k.kst = .running → exec (.kernelStop c) s = .next (s.modCtx c fun k =>
        { k with stop := true, kst := .draining, drainAt := s.time }))) ∧
    (k.kst = .draining → k.drainAt = s.time → ∀ tile ∈ tilesOf k, (s.drained.tile tile).watches = []) ∧
    (k.kst ≠ .retiring → exec (.retirementComplete c) s = .next s) ∧
    (k.kst = .retiring → Reaches (.retirementComplete c) s fun t => (t.ctx c).kst = .free ∧ (t.ctx c).stop = false ∧
      (t.ctx c).st = (if k.st = .destroying then .free else .created) ∧
      (k.st = .destroying → ∀ i, k.keyslot.toNat % 2048 ≤ i → i < k.keyslot.toNat % 2048 + k.keyslot.toNat / 2 ^ 16 % 128 →
        t.key i = 0) ∧
      (∀ tile ∈ tilesOf k, let x := t.tile tile; x.handlers = [] ∧ x.counters = [] ∧ x.watches = [] ∧ x.conts = [] ∧
        x.fabric.a = {} ∧ x.fabric.b = {} ∧ x.fabric.bind = [] ∧ (∀ n < 16, (x.loops.get {} n).st = .unbound) ∧
        ∀ core < 8, (t.core (8 * tile + core)).inq = []) ∧
      (∀ r ∈ (s.queue k.launchQ).started, r.idx = k.launchIdx → (r.words.getD 0 0).toNat % 256 = 1 →
        (r.words.getD 3 0).getLsbD 0 = true → { r with done := true } ∈ (t.queue k.launchQ).started))

namespace Sys2Proof.Claims

/-- R397: a command accepted, with its result so far; BUSY is set until it completes. -/
def Commanded (s : State) (c err : Nat) (cmd : CtxCmd) : State :=
  s.modCtx c fun k => { k with busy := true, err := BitVec.ofNat 8 err, cmd := cmd }

end Sys2Proof.Claims

/-- R397 to R401, R403, R405: the commands of a context. One written while BUSY is ignored, and one its state does not
allow has ERR 1. CREATE has ERR 2 for a base last written unaligned or too small a save area, and else clears the keys of the generator, the ring counts and FLT; CLEARF clears FLT; PREEMPT, UNFREEZE
and DESTROY send each core its packet, PREEMPT only if every record can be written; a completed command clears BUSY and
sends the vector, and one that freezes drops the translations it held. A key write replaces its slot. -/
def Sys2Proof.Claims.ContextCommands : Prop :=
  ∀ (s : State) (c : Nat), c < 256 → s.mgmt.st = .ready → let k := s.ctx c;
    let refuses := fun (i : Instr) => exec i s = .next (Commanded s c 1 .none);
    let named := if k.w1.getLsbD 18 = true then some (coresOf k) else
      (tilesOf k)[k.w1.toNat % 1024]?.map fun t => ((List.range 8).filter fun i => k.w1.getLsbD (10 + i)).map (8 * t + ·);
    let sends := fun (i : Instr) (cmd : CtxCmd) (cores : List Nat) (more : State → Prop) => Reaches i s fun t =>
      (t.ctx c).busy = true ∧ (t.ctx c).err = 0 ∧ (t.ctx c).cmd = cmd ∧ (t.ctx c).waiting = cores ∧
      t.net.length = s.net.length + cores.length ∧ more t;
    (k.busy = true → exec (.create c) s = .next s ∧ exec (.clearf c) s = .next s ∧ exec (.preempt c) s = .next s ∧
      exec (.unfreeze c) s = .next s ∧ exec (.vacate c) s = .next s ∧ exec (.restore c) s = .next s ∧
      exec (.destroy c) s = .next s) ∧
    (k.busy = false →
      (k.st ≠ .free → refuses (.create c)) ∧ (k.st = .free → refuses (.clearf c)) ∧
      (k.st ≠ .active → refuses (.preempt c)) ∧ (k.st ≠ .active → k.st ≠ .suspended → refuses (.unfreeze c)) ∧
      (k.st ≠ .suspended → refuses (.vacate c)) ∧ (k.st ≠ .vacated → refuses (.restore c)) ∧
      ((k.st = .free ∨ k.st = .destroying) → refuses (.destroy c)) ∧
      (k.st = .free →
        (k.skew ≠ [] ∨ k.spbase.toNat % 32 < 11 → exec (.create c) s = .next (Commanded s c 2 .none)) ∧
        (s.createErr c = 0 → Reaches (.create c) s fun t => (t.ctx c).st = .created ∧ (t.ctx c).rngkey0 = 0 ∧
          (t.ctx c).rngkey1 = 0 ∧ (t.ctx c).frhead = 0 ∧ (t.ctx c).frtail = 0 ∧ (t.ctx c).udtail = 0 ∧ (t.ctx c).evtail = 0 ∧
          (t.ctx c).flt = false ∧ (t.ctx c).busy = true ∧ (t.ctx c).err = 0 ∧ t.mem = s.mem)) ∧
      (k.st ≠ .free → exec (.clearf c) s = .next (Commanded (s.modCtx c fun k => { k with flt := false }) c 0 .none)) ∧
      (k.st = .active → (named = none → exec (.preempt c) s = .next (Commanded s c 2 .none)) ∧
        (∀ l, named = some l →
          ((∃ x ∈ l, s.saveTarget c (k.coreRecord x) = none) → exec (.preempt c) s = .next (Commanded s c 4 .none)) ∧
          ((∀ x ∈ l, s.saveTarget c (k.coreRecord x) ≠ none) → sends (.preempt c) .preempt l fun t => (t.ctx c).st = .active ∧
            ∀ x ∈ l, ∃ p ∈ t.net, p.dst = x / 8 ∧ p.vn1 = true ∧ p.body = .freeze (x % 8) c))) ∧
      ((k.st = .active ∨ k.st = .suspended) → ∀ l, named = some l → sends (.unfreeze c) .unfreeze l fun t =>
        (t.ctx c).st = (if l = [] then k.st else .active) ∧
        ∀ x ∈ l, ∃ p ∈ t.net, p.dst = x / 8 ∧ p.vn1 = true ∧ p.body = .unfreeze (x % 8) c) ∧
      (k.st ≠ .free → k.st ≠ .destroying → (k.kst = .loading ∨ k.kst = .running ∨ k.kst = .draining) →
        sends (.destroy c) .destroy (coresOf k) fun t => (t.ctx c).st = .destroying ∧
          ∀ x ∈ coresOf k, ∃ p ∈ t.net, p.dst = x / 8 ∧ p.vn1 = true ∧ p.body = .freeze (x % 8) c)) ∧
    (k.busy = true → (k.cmd = .none ∨ k.cmd = .restore ∨ (k.cmd = .unfreeze ∧ k.waiting = [])) →
      exec (.contextCommandComplete c) s = .next { s.modCtx c fun k => { k with busy := false, cmd := .none }
        with msix := s.msix ++ [k.vec] }) ∧
    (k.busy = true → (k.cmd = .preempt ∨ k.cmd = .destroy) → k.waiting = [] → Reaches (.contextCommandComplete c) s fun t =>
      let y := t.ctx c; y.busy = false ∧ y.cmd = .none ∧ t.msix = s.msix ++ [k.vec] ∧ SameBytes s t ∧ t.strands = s.strands ∧
      y.st = (if k.cmd = .destroy ∧ k.kst = .free then .free else k.st) ∧ (∀ x ∈ coresOf k, (t.core x).record = none) ∧
      (k.cmd = .destroy ∧ k.kst = .free → ∀ i, k.keyslot.toNat % 2048 ≤ i →
        i < k.keyslot.toNat % 2048 + k.keyslot.toNat / 2 ^ 16 % 128 → t.key i = 0)) ∧
    ((k.busy = false ∨ ((k.cmd = .preempt ∨ k.cmd = .unfreeze ∨ k.cmd = .destroy) ∧ k.waiting ≠ [])) →
      exec (.contextCommandComplete c) s = .next s) ∧
    (∀ slot key, slot < 2048 → Reaches (.keyWrite slot key) s fun t => t.key slot = key ∧ t = { s with keys := t.keys } ∧
      ∀ i, i ≠ slot → t.key i = s.key i)

/-- R404, R408: VACATE checks every record, waits until each tile's engines have come to rest and what feeds its array has arrived, and writes the tile
records; RESTORE reloads them, with ERR 2 when one breaks its limits and nothing changed, and ERR 4 when one cannot be
translated; the context is VACATED and SUSPENDED. -/
def Sys2Proof.Claims.TilesVacatedAndRestored : Prop :=
  ∀ (s : State) (c : Nat), c < 256 → s.mgmt.st = .ready → let k := s.ctx c;
    (k.busy = false → k.st = .suspended →
      (s.tileTargets c = none → exec (.vacate c) s = .next (Commanded s c 4 .none)) ∧
      (∀ l, s.tileTargets c = some l → (∀ x ∈ coresOf k, s.saveTarget c (k.coreRecord x) ≠ none) →
        exec (.vacate c) s = .next ((Commanded s c 0 .vacate).modCtx c fun k => { k with saved := l }))) ∧
    (k.busy = true → k.cmd = .vacate →
      ((∃ t ∈ tilesOf k, s.tileQuiet t = false) → exec (.contextCommandComplete c) s = .next s) ∧
      ((∀ t ∈ tilesOf k, s.tileQuiet t = true) → Reaches (.contextCommandComplete c) s fun t => (t.ctx c).st = .vacated ∧
        (t.ctx c).busy = false ∧ (∀ tile ∈ tilesOf k, (t.tile tile).vacated = true) ∧ ∃ l, t.msix = l ++ [k.vec])) ∧
    (k.busy = false → k.st = .vacated →
      (s.tileTargets c = none → exec (.restore c) s = .next (Commanded s c 4 .none)) ∧
      (∀ l, s.tileTargets c = some l → s.soft = [] → let bytes := fun t => s.getSaved l 10 (k.tileRecord t) 524288;
        ((∃ t ∈ tilesOf k, s.recordOk t (bytes t) = false) → exec (.restore c) s = .next (Commanded s c 2 .none)) ∧
        ((∀ t ∈ tilesOf k, s.recordOk t (bytes t) = true) → Reaches (.restore c) s fun t => (t.ctx c).st = .suspended ∧
          (t.ctx c).busy = true ∧ (t.ctx c).err = 0 ∧ ∀ tile ∈ tilesOf k, (t.tile tile).vacated = false)))

namespace Sys2Proof.Claims

/-- `n` bytes from the place `pa` can be written without a watch or an error being met there. -/
def Writable (s : State) (pa n : Nat) : Prop :=
  Sound s pa n ∧ Unwatched s pa n ∧ ∀ i < n, isReservedByte (pa + i) = false

/-- R76, R295, R298 to R300, R311: the job in a slot ends its accesses: its range entries are freed, its error is
recorded and its completion action is performed at its target; after an error the actions 1 to 3 are skipped. -/
def EndsAccesses (x : Instr) (s : State) (core slot : Nat) : Prop :=
  let j := s.job core slot; let t := core / 8; let act := j.comp.toNat % 8; let va := j.comp1.toNat
  let o := ((s.ctx j.ctx).x0.toNat, (s.ctx j.ctx).y0.toNat); let dst := destOf j.comp1 o
  let gives := fun (P : State → Job → Prop) => Reaches x s fun u => let k := u.job core slot
    k.st = .completing ∧ k.pieces = [] ∧ k.bytes = j.bytes ∧ u.strands = s.strands ∧
    (u.tile t).locks = (s.tile t).locks.filter (fun l => !(l.origin == t && l.core == core % 8 && l.job == slot)) ∧ P u k
  let status := (match j.err with | none => 0 | some c => c.toNat) + slot % 16 * 2 ^ 8 + j.strand / 4 % 8 * 2 ^ 12 +
    j.strand % 4 * 2 ^ 15
  let first := match j.kind with
    | .cpy => j.desc.getD 1 0 | .cpy2 => j.desc.getD 1 0 | .cpyf => j.desc.getD 1 0
    | .gath => j.desc.getD 2 0 | .scat => j.desc.getD 2 0
    | .mma => j.desc.getD 0 0 | .mmag => j.desc.getD 0 0 | .mst => j.desc.getD 0 0 | .gload => j.desc.getD 0 0
  let home := if 0x7F0000000000 ≤ first.toNat ∧ first.toNat < 0x7F0000300000
    then 0x700000000000 + t * 0x400000 + (first.toNat - 0x7F0000000000) else first.toNat
  let rows := match j.kind with
    | .cpyf => j.rows | .gath => j.rows | .scat => j.rows
    | .cpy => 0 | .cpy2 => 0 | .mma => 0 | .mmag => 0 | .mst => 0 | .gload => 0
  (j.err = none →
    (act = 0 → gives fun u k => k.action = .done ∧ k.err = none ∧ u.mem = s.mem ∧ u.net = s.net) ∧
    (act = 1 → (∀ pa, s.engX j.ctx core va 8 needW = .ok (.mem pa none) → Writable s pa 8 → gives fun u k =>
        k.action = .done ∧ k.err = none ∧ memNat u pa 8 = j.comp2.toNat ∧ SameBytesOutside s u pa 8) ∧
      (∀ c a, s.engX j.ctx core va 8 needW = .fail c a → gives fun _ k =>
        k.action = .done ∧ k.err = some c.code ∧ k.errAddr = BitVec.ofNat 64 a) ∧
      (s.engX j.ctx core va 8 needW = .absent → gives fun u k => ∃ tag, k.action = .held tag ∧
        ∃ r ∈ u.tsrReqs, r.tag = tag ∧ r.who = .action core slot ∧ r.va = BitVec.ofNat 64 va ∧ r.write = true)) ∧
    (act = 2 → j.ctx < 256 → let to_ := destOf (BitVec.ofNat 64 (va % 2 ^ 11)) o; to_.2 < 24 → gives fun u k => k.action = .done ∧
      u.mem = s.mem ∧ ∃ h : Hdr, h.kind = 2 ∧ h.ctx = BitVec.ofNat 8 j.ctx ∧ h.rels = true ∧
        u.net = (s.inject t (to_.2 * 32 + to_.1) false j.ctx [] (.counter h (va / 2 ^ 17 % 256) (j.comp2.setWidth 32))).net) ∧
    (act = 3 → ∀ pa, s.engX j.ctx core va 32 needBarrier = .ok (.mem pa none) → Writable s pa 32 →
      s.pool (unitOfPlace pa) = [] → let b := barrierIn s pa;
      let n := if j.comp2.getLsbD 63 then j.bytes % 2 ^ 56 else j.comp2.toNat % 2 ^ 56;
      let b1 := { b with pending := (b.pending + 2 ^ 56 - n) % 2 ^ 56 };
      j.bytes < 2 ^ 64 → ¬ (b1.init = true ∧ b1.arrived = b1.expect ∧ 2 ^ 55 ≤ b1.pending) → gives fun u k => k.action = .done ∧
        barrierIn u pa = (if b1.init = true ∧ b1.arrived = b1.expect ∧ b1.pending = 0 then flipped b1 s.time else b1) ∧
        SameBytesOutside s u pa 32)) ∧
  (∀ c, j.err = some c → 1 ≤ act → act ≤ 3 → gives fun u k => k.action = .done ∧ k.err = some c ∧
    (u.ctx j.ctx).frtail + (u.ctx j.ctx).frlost = (s.ctx j.ctx).frtail + (s.ctx j.ctx).frlost + 1) ∧
  (act = 4 → j.err = none → dst.2 < 24 → gives fun u k => k.action = .done ∧ u.mem = s.mem ∧
    ∃ m : Msg, u.net = (s.inject t (dst.2 * 32 + dst.1) false (j.ctx % 256) [] (.msg m)).net ∧
      m.hdr.posted = true ∧ m.hdr.re = false ∧ m.hdr.rels = true ∧ m.hdr.hidx = BitVec.ofNat 12 (va / 2 ^ 17) ∧
      m.args = [j.comp2, BitVec.ofNat 64 status, BitVec.ofNat 64 j.bytes, BitVec.ofNat 64 rows]) ∧
  (act = 5 → gives fun _ k => k.action = .pushing (BitVec.ofNat 64 ((if j.err = none then 0 else 2 ^ 63) +
    slot % 16 * 2 ^ 52 + j.strand / 4 % 8 * 2 ^ 49 + home % 2 ^ 48)))

/-- R303, R304: of a piece whose two ends lie at known places, the bytes are copied, and the counters of the job tell
so. -/
def Copied (s u : State) (core slot pa qa n : Nat) : Prop :=
  (∀ i < n, u.byte (qa + i) = s.byte (pa + i)) ∧ SameBytesOutside s u qa n ∧
    (u.job core slot).bytes = (s.job core slot).bytes + n ∧
    (u.job core slot).err = (s.job core slot).err

end Sys2Proof.Claims

/-! ### Jobs -/

/-- R74, R76, R78, R295, R304, R308: a copy or gather begins once what it comes after has been performed and no earlier
range of its tile conflicts: CPY is cut in contiguous pieces of one page each, and one of no bytes ends at once; GATH and
SCAT have a row for every index read from the vector, whose range entry is then free. Until then its event changes nothing. -/
def Sys2Proof.Claims.JobsBeginWithTheirPieces : Prop :=
  ∀ (s : State) (core slot : Nat), let j := s.job core slot; let reg := fun k => j.desc.getD k 0;
    let turn := j.st = .issued ∧ s.released j.after = true ∧ s.inOrder (core / 8) (core / 8) core slot = true;
    let begun := fun (P : State → Job → Prop) => Reaches (.jobStart core slot) s fun u => let k := u.job core slot;
      (k.st = .running ∨ k.st = .translating) ∧ k.kind = j.kind ∧ k.desc = j.desc ∧ u.strands = s.strands ∧ P u k;
    (j.kind ≠ .gload → ¬ turn → exec (.jobStart core slot) s = .next s) ∧
    (turn → j.kind = .cpy → reg 2 = 0 → EndsAccesses (.jobStart core slot) s core slot) ∧
    (turn → j.kind = .cpy → reg 2 ≠ 0 → begun fun _ k => (k.pieces.map (·.len)).sum = (reg 2).toNat ∧
      ∀ a p b, k.pieces = a ++ p :: b → let o := (a.map (·.len)).sum;
        p.idx = a.length ∧ p.src = reg 0 + BitVec.ofNat 64 o ∧ p.dst = reg 1 + BitVec.ofNat 64 o ∧ 0 < p.len ∧
        p.src.toNat % 65536 + p.len ≤ 65536 ∧ p.dst.toNat % 65536 + p.len ≤ 65536) ∧
    (turn → j.kind = .gath ∨ j.kind = .scat → let e := if j.fn % 2 = 1 then 8 else 4;
      let w := (reg 3).toNat % 2 ^ 16; let n := (reg 3).toNat / 2 ^ 16 % 2 ^ 32;
      ∀ pa, s.engX j.ctx core (reg 0).toNat (n * e) needR = .ok (.mem pa none) → Sound s pa (n * e) → begun fun u k =>
        (u.tile (core / 8)).locks = (s.tile (core / 8)).locks.eraseP (fun l => l.ofJob (core / 8) core slot) ∧
        k.pieces.map (fun p => (p.idx, p.src, p.dst, p.len)) = (List.range n).map fun i =>
          let row := reg 1 + BitVec.ofNat 64 (memNat s (pa + i * e) e) * reg 4; let at_ := reg 2 + BitVec.ofNat 64 (i * w);
          if j.kind = .gath then (i, row, at_, w) else (i, at_, row, w))

/-- R304, R309, R310, R367, R368: the requests of a piece are granted from the credit of its tile's engine, one for every
256 bytes of a copy and one for a row, while its staging lines or its 128 outstanding rows last. The requests granted are
performed by the engine, by the generator of a stack that has taken the piece, or by a stack's gather sorter, and with
the last one the piece is over. A stack has 8 generators, and takes the piece that has waited longest. -/
def Sys2Proof.Claims.PiecesArePerformed : Prop :=
  (∀ (s : State) (core slot : Nat) (p : Piece), let j := s.job core slot; let copies := j.kind.copies = true;
    let asks := if j.kind.copies then (p.len + 255) / 256 else 1;
    j.kind ∈ [.cpy, .cpy2, .gath, .scat] → (j.st = .running ∨ j.st = .translating) → j.pieces = [p] → p.wrote = 0 →
    (p.st = .ready ∨ (∃ r, p.st = .gen r) ∨ (¬ copies ∧ ∃ r, p.st = .spinel r)) →
    (p.asked = asks → 0 < asks → j.comp = 0 → j.err = none → ∀ pa qa a b n,
      s.pieceX core j p = .ok [(.mem pa none, .mem qa none, a, b, n)] → Sound s pa n → Writable s qa n →
      Reaches (.jobComplete core slot) s fun u => Copied s u core slot pa qa n ∧ (u.job core slot).st = .completing ∧
        (u.job core slot).rows = j.rows + 1 ∧ ∀ r, p.st = .gen r → (core, slot, p.idx) ∉ (u.spinel r).gens) ∧
    (copies → 0 < p.asked → 256 * p.asked < p.len → (s.tile (core / 8)).copyCredit = 0 → ∀ pa qa a b n,
      s.pieceX core j { p with len := 256 * p.asked } = .ok [(.mem pa none, .mem qa none, a, b, n)] → Sound s pa n →
      Writable s qa n → Reaches (.jobComplete core slot) s fun u => Copied s u core slot pa qa n ∧
        (u.job core slot).st = .running ∧ (u.job core slot).rows = j.rows ∧
        (u.job core slot).pieces = [{ p with wrote := p.asked }])) ∧
  (∀ (s : State) (r : Nat), let x := s.spinel r;
    (x.waiting = [] ∨ 8 ≤ x.gens.length → exec (.spinelPiece r) s = .next s) ∧
    (∀ core slot idx l a p b, x.waiting = (core, slot, idx) :: l → x.gens.length < 8 →
      (s.job core slot).pieces = a ++ p :: b → p.idx = idx → p.st = .spinel r → (∀ q ∈ a ++ b, q.idx ≠ idx) →
      Reaches (.spinelPiece r) s fun u => (u.spinel r).waiting = l ∧ (u.spinel r).gens = x.gens ++ [(core, slot, idx)] ∧
        (u.job core slot).pieces = a ++ { p with st := .gen r } :: b ∧ u.mem = s.mem ∧ u.strands = s.strands)) ∧
  (∀ (s : State) (t : Nat), let tile := s.tile t;
    let idle := fun c k => (s.job (8 * t + c) k).kind.moves = false ∨
      ((s.job (8 * t + c) k).st ≠ .running ∧ (s.job (8 * t + c) k).st ≠ .translating);
    (tile.refillDue = false → exec (.rateCreditRefill t) s = .next s) ∧
    (tile.refillDue = true → (∀ c < 8, ∀ k < 16, idle c k) → Reaches (.rateCreditRefill t) s fun u =>
      (u.tile t).copyCredit = tile.copyRate ∧ (u.tile t).gathCredit = tile.gathRate ∧ (u.tile t).refillDue = false ∧
      u.mem = s.mem ∧ u.cores = s.cores) ∧
    (∀ c < 8, ∀ k < 16, ∀ p, let j := s.job (8 * t + c) k; let copies := j.kind.copies = true;
      let asks := if j.kind.copies then (p.len + 255) / 256 else 1;
      let rate := if j.kind.copies then tile.copyRate else tile.gathRate;
      let room := (if j.kind.copies then 64 else 128) - s.staged t j.kind.copies;
      let n := min (asks - p.asked) (min rate room);
      tile.refillDue = true → (∀ d < 8, ∀ l < 16, (d, l) ≠ (c, k) → idle d l) → j.kind ∈ [.cpy, .gath] → j.st = .running →
      j.pieces = [p] → p.st = .todo → Reaches (.rateCreditRefill t) s fun u =>
        (copies → (u.tile t).copyCredit = rate - n) ∧ (¬ copies → (u.tile t).gathCredit = rate - n) ∧
        (u.job (8 * t + c) k).pieces.map (fun q => (q.idx, q.asked)) = [(p.idx, p.asked + n)] ∧
        (copies → 0 < n → ∀ q ∈ (u.job (8 * t + c) k).pieces, q.st ≠ .todo)))

/-- R295, R298 to R300, R311, R325, R333: a job completes when its last access has been performed: a copy or gather with
no piece left, MMA and MST once they have left the array's queue, MMAG once every member has reported. -/
def Sys2Proof.Claims.JobsEndWithTheirAction : Prop :=
  ∀ (s : State) (core slot : Nat), let j := s.job core slot; let q := (s.tile (core / 8)).queue;
    let kinds := fun (l : List JobKind) => j.kind ∈ l; let d := MmaDesc.of j.desc;
    (j.st ≠ .running → (j.kind.moves = true → j.st ≠ .translating) → j.kind ≠ .gload →
      exec (.jobComplete core slot) s = .next s) ∧
    (j.st = .running ∨ j.st = .translating → kinds [.cpy, .cpy2, .gath, .scat] →
      (∀ p ∈ j.pieces, p.st = .done ∨ p.st = .failed) → EndsAccesses (.jobComplete core slot) s core slot) ∧
    (j.st = .running →
      (kinds [.mma, .mst] → ArrayOp.mma (core % 8) slot ∉ q → ArrayOp.mst (core % 8) slot ∉ q →
        EndsAccesses (.jobComplete core slot) s core slot) ∧
      (kinds [.mma] → ArrayOp.mma (core % 8) slot ∈ q → exec (.jobComplete core slot) s = .next s) ∧
      (kinds [.mst] → ArrayOp.mst (core % 8) slot ∈ q → exec (.jobComplete core slot) s = .next s) ∧
      (kinds [.mmag] → let n := (d.m + 127) / 128 * ((d.n + 127) / 128);
        (j.mmag.reported.Perm (List.range n) → EndsAccesses (.jobComplete core slot) s core slot) ∧
        (∀ x < n, x ∉ j.mmag.reported → (∀ y ∈ j.mmag.reported, y < n) → exec (.jobComplete core slot) s = .next s)))

/-- R255, R294, R295, R298, R300, R316: a tile handle enters the inbound queue it names once there is room and the
rotation does not give the place to a strand, after the pushes that a restored tile replays; a job whose action is over leaves its status and counts with its strand
if that is still in its run, and in the strand's saved image if it has one, frees its slot, and completes the watches that waited for it. -/
def Sys2Proof.Claims.HandlesArePushedAndSlotsFreed : Prop :=
  ∀ (s : State) (core slot : Nat), core < 6144 → slot < 16 → let j := s.job core slot; let t := core / 8;
    let c := 8 * t + j.comp1.toNat % 8; let q := s.core c; let rival := s.strandPushes c = true;
    (∀ w, j.action = .pushing w → j.st = .completing → (s.tile t).vacated = false →
      let turn := q.inq.length < 16 ∧ q.inqFresh = 0 ∧ (∀ r ∈ (s.tile t).replays, r.core ≠ j.comp1.toNat % 8) ∧ (rival → q.pushCompletionNext = true);
      (¬ turn → exec (.completionPush core slot) s = .next s) ∧
      (turn → Reaches (.completionPush core slot) s fun u => (u.core c).inq = q.inq ++ [w] ∧
        (u.job core slot).action = .done ∧ u.strands = s.strands ∧ u.mem = s.mem ∧ (rival → (u.core c).pushCompletionNext = false))) ∧
    ((∀ w, j.action ≠ .pushing w) → exec (.completionPush core slot) s = .next s) ∧
    (¬ (j.st = .completing ∧ j.action = .done) → exec (.jobFree core slot) s = .next s) ∧
    (j.st = .completing → j.action = .done → let st := s.strand j.strand; let live := st.run = j.run ∧ st.phase ≠ .idle;
      let up := fun (v : BitVec 32) => if v.toNat = 2 ^ 32 - 1 then v else v + 1; let jc := j.comp.toNat / 8 % 4;
      let left := (s.core core).jwatches.map fun w => { w with slots := w.slots.filter (· != slot) };
      Reaches (.jobFree core slot) s fun u => let x := u.strand j.strand; (u.job core slot).st = .free ∧
        SameStrandsBut j.strand s u ∧ (u.core core).jwatches = left.filter (fun w => w.slots ≠ []) ∧
        ((∀ w ∈ left, w.slots ≠ []) → u.net = s.net) ∧
        (¬ live → x = st ∧ u.mem = s.mem) ∧
        (live → s.savedImage j.strand = none → left.all (fun w => w.slots != []) = true → u.mem = s.mem) ∧
        (live → ∀ pa, s.savedImage j.strand = some (.mem pa none) → pa + 2048 ≤ 2 ^ 40 → left = [] →
          SameBytesOutside s u (pa + 1400) 24 ∧ u.byte (pa + 1408 + slot) = j.err.getD 0 ∧
          memNat u (pa + 1400) 4 = (if jc = 1 then (up (BitVec.ofNat 32 (memNat s (pa + 1400) 4))).toNat else memNat s (pa + 1400) 4)) ∧
        (live → x.jc0 = (if jc = 1 then up st.jc0 else st.jc0) ∧ x.jc1 = (if jc = 2 then up st.jc1 else st.jc1) ∧
          (∀ k < 16, x.jstat.toList[k]? = if k = slot then some (j.err.getD 0) else st.jstat.toList[k]?) ∧
          x = { st with jc0 := x.jc0, jc1 := x.jc1, jstat := x.jstat }))

/-- R309, R311, R430: a stream that meets an absent page writes its request into the ring of its half of the module; the
host's answer removes the request, and the stream goes on in the unit that asked, or ends with PAGE_ABSENT. An answer whose tag
is not outstanding is ignored. -/
def Sys2Proof.Claims.TranslationRequestsAreAnswered : Prop :=
  (∀ (s : State) (who : TsrFor) (ctx t va : Nat) (write : Bool) (stack : Option Nat),
    let i := match stack with | none => halfOf t | some k => halfOf (stackTile k);
    let q := s.tsr i; let n := 2 ^ (q.base.toNat / 16 % 16); let u := (s.request who ctx t va write stack).1;
    let tag := s.nextId % 2 ^ 32; let k := match stack with | none => 0 | some k => k;
    let at_ := hostAddr (q.base.toNat / 4096 * 4096 + 32 * (q.tail.toNat % n));
    (∀ r ∈ s.tsrReqs, r.unit = i → r.sent = true) → (∀ r ∈ s.tsrReqs, r.tag ≠ tag) → sliceOf at_ = none →
    (∀ x < 32, sliceOf (at_ + x) = none) →
    (s.request who ctx t va write stack).2 = tag ∧
    ((q.tail - q.head).toNat < n → (u.tsr i).tail = q.tail + 1 ∧ u.msix = s.msix ++ [q.vec] ∧ SameBytesOutside s u at_ 32 ∧
      memNat u at_ 8 = va % 2 ^ 64 ∧
      memNat u (at_ + 8) 8 = ctx % 256 + (if write then 2 ^ 8 else 0) + t % 1024 * 2 ^ 9 +
        (if stack.isSome then 2 ^ 19 else 0) + k % 16 * 2 ^ 20 ∧
      memNat u (at_ + 16) 8 = tag ∧ memNat u (at_ + 24) 8 = 0) ∧
    (n ≤ (q.tail - q.head).toNat → u.mem = s.mem ∧ u.msix = s.msix ∧ (u.tsr i).tail = q.tail)) ∧
  (∀ (s : State) (i : Nat) (v : Word), let tag := v.toNat % 2 ^ 32; let ok := v.toNat / 2 ^ 32 % 2 = 1;
    ((∀ r ∈ s.tsrReqs, ¬ (r.tag = tag ∧ r.unit = i ∧ r.sent = true)) → exec (.translationResponse i v) s = .next s) ∧
    (∀ a r b, s.tsrReqs = a ++ r :: b → (∀ x ∈ a ++ b, x.tag ≠ tag) → r.tag = tag → r.unit = i → r.sent = true →
      (∀ core slot, r.who = .action core slot → (s.job core slot).action = .held tag → ¬ ok →
        Reaches (.translationResponse i v) s fun u => u.tsrReqs = a ++ b ∧ (u.job core slot).action = .done ∧
          (u.job core slot).err = some Cause.pageAbsent.code) ∧
      (∀ core slot x p y, r.who = .piece core slot p.idx → p.idx < 2 ^ 33 → (s.job core slot).pieces = x ++ p :: y →
        p.st = .held tag → (∀ q ∈ x ++ y, q.idx ≠ p.idx) → (s.job core slot).err = none →
        let fails := Reaches (.translationResponse i v) s fun u => u.tsrReqs = a ++ b ∧
          (u.job core slot).pieces = x ++ { p with st := .failed } :: y ∧ u.mem = s.mem ∧
          (u.job core slot).err = some Cause.pageAbsent.code ∧ (u.job core slot).errAddr = r.va;
        (¬ ok → fails) ∧
        (ok → ∀ w, s.pieceX core (s.job core slot) p = .absent r.va.toNat w → fails) ∧
        (ok → r.spinel = true → ∀ l, s.pieceX core (s.job core slot) p = .ok l →
          Reaches (.translationResponse i v) s fun u => u.tsrReqs = a ++ b ∧ (u.job core slot).err = none ∧
            (u.job core slot).pieces = x ++ { p with st := .gen r.stack } :: y) ∧
        (ok → r.spinel = false → ∀ l, s.pieceX core (s.job core slot) p = .ok l → (s.job core slot).spinelOf l = none →
          Reaches (.translationResponse i v) s fun u => u.tsrReqs = a ++ b ∧ (u.job core slot).err = none ∧
            (u.job core slot).pieces = x ++ { p with st := .ready } :: y))))

namespace Sys2Proof.Claims

/-- R41, R323: the code of element `i` of an operand vector at the place `pa`. -/
def codeAt (s : State) (pa ty i : Nat) : Nat :=
  if ty = 5 then (s.byte (pa + i / 2)).toNat / (if i % 2 = 0 then 1 else 16) % 16
  else let n := [4, 2, 2, 1, 1].getD ty 1; memNat s (pa + i * n) n

/-- R28, R41: the number a floating-point operand code stands for. -/
def operandNum (ty c : Nat) : FNum :=
  [decodeFp .f32 c, decodeFp .bf16 c, decodeFp .f16 c].getD ty (decodeDf8 c)

/-- R41: the number an integer operand code stands for. -/
def operandInt (ty c : Nat) : Int := (c : Int).bmod (if ty = 5 then 16 else 256)

/-- R51: a floating-point accumulator element after `n` steps with these operand codes. -/
def accumulated (ta tb n : Nat) (x y : Nat → Nat) (c : Nat) : Nat :=
  let round := fun (v : FNum) => (roundFmt .f32 rmRNE false v).1
  let p := fun k => ((operandNum ta (x k)).mul (operandNum tb (y k))).1
  if ta = 3 then (List.range ((n + 1) / 2)).foldl (fun c q =>
      let pair := ((p (2 * q)).add false (if 2 * q + 1 < n then p (2 * q + 1) else .fin false 0 0)).1
      round ((decodeFp .f32 c).add false pair).1) c
  else (List.range n).foldl (fun c k =>
    round (FNum.fma false (decodeFp .f32 c) (operandNum ta (x k)) (operandNum tb (y k))).1) c

/-- R52: the exact value of an accumulator element as MST stores it in format `f`, with its two scales if it is scaled. -/
def storedElem (f : Nat) (scales : Option (Nat × Nat)) (x : FNum) : Nat :=
  let round := fun (m : Fmt) (v : FNum) => (roundFmt m rmRNE false v).1
  let int := fun (n : Nat) (v : FNum) => if v.isNan then 0 else (BitVec.ofInt n (toInt v n rmRNE).1).toNat
  let as_ := fun (v : FNum) =>
    [round .f32 v, round .bf16 v, round .f16 v, (toDf8 v).1, int 32 v, int 8 v].getD f 0
  match scales with
  | none => as_ x
  | some (a, b) => as_ ((decodeFp .f32 (round .f32 (x.mul (decodeFp .f32 a)).1)).mul (decodeFp .f32 b)).1

/-- R332: the tile of member `x` of the product of `d` issued at tile `t`. -/
def memberAt (d : MmaDesc) (t x : Nat) : Nat :=
  let w := (d.n + 127) / 128
  (t / 32 + x / w) % 24 * 32 + (t % 32 + x % w) % 32

/-- R332: how many members the product of `d` has. -/
def membersOf (d : MmaDesc) : Nat := (d.m + 127) / 128 * ((d.n + 127) / 128)

/-- Packets, each with its destination, its network and its body, have been sent from tile `t` for context `c`, one after
another. -/
def Sends (s u : State) (t c : Nat) (l : List (Nat × Bool × Body)) : Prop :=
  u.net = (l.foldl (fun s x => s.inject t x.1 x.2.1 c [] x.2.2) s).net

/-- R320: what follows in the queue of tile `t`'s array: nothing there is under way or can begin. -/
def Behind (s : State) (t : Nat) (r : List ArrayOp) : Prop :=
  ∀ o ∈ r, (s.opJob t o).st ≠ .running ∧ s.opReady t o = false

end Sys2Proof.Claims

/-! ### The array -/

/-- R50, R51, R317 to R320, R322, R323, R325, R336: MMA at the head of the array's queue begins when what it comes after
has been performed, into a zeroed slot under Z. Each operation of the array then adds the product of its next step, or of
its next pair of steps for the paired types, to its block, and leaves every other element; an INT32 sum that leaves the range at a step sets OVF. After the
last step it leaves the queue. -/
def Sys2Proof.Claims.ProductsAccumulate : Prop :=
  ∀ (s : State) (t c k : Nat) (r : List ArrayOp), let core := 8 * t + c; let j := s.job core k; let d := MmaDesc.of j.desc;
    let n := j.fn % 4; let z := j.fn / 4 % 2 = 1; let slot := (s.tile t).slots.get {} n; let q := j.k;
    c < 8 → (s.tile t).vacated = false → (s.tile t).supplies = [] → (s.tile t).queue = .mma c k :: r → Behind s t r →
    let others := fun (u : State) => SameBytes s u ∧ u.strands = s.strands ∧ (u.job core k).err = j.err ∧
      ∀ e < 4, e ≠ n → (u.tile t).slots.get {} e = (s.tile t).slots.get {} e;
    (j.st = .issued → s.released j.after = true → s.inOrder t t core k = true → Reaches (.arrayOperation t) s fun u =>
      let v := (u.tile t).slots.get {} n;
      (u.tile t).queue = .mma c k :: r ∧ (u.job core k).st = .running ∧ (u.job core k).k = q ∧ others u ∧ (¬ z → v = slot) ∧
      (z → v.sa = slot.sa ∧ v.sb = slot.sb ∧ v.ovf = false ∧ v.perr = false ∧
        ((d.ta, d.tb) ∈ [(0, 0), (1, 1), (2, 2), (3, 3), (4, 4), (4, 5), (5, 5)] → (v.int32 = true ↔ 4 ≤ d.ta)) ∧
        ∀ i < 128, ∀ l < 128, v.elems.get 0 (128 * i + l) = 0)) ∧
    (∀ oa ob m, m = (if 3 ≤ d.ta ∧ q + 1 < d.k then 2 else 1) →
      let x := fun p i => codeAt s (sliceAddr t (oa + p * d.sa)) d.ta i;
      let y := fun p i => codeAt s (sliceAddr t (ob + p * d.sb)) d.tb i;
      let old := fun i l => slot.elems.get 0 (128 * i + l);
      let sum := fun p i l => (old i l).toInt +
        ((List.range p).map fun e => operandInt d.ta (x (q + e) i) * operandInt d.tb (y (q + e) l)).sum;
      j.st = .running → q < d.k → d.m ≤ 128 → d.n ≤ 128 → slot.parity = [] →
      d.a = 0x7F0000000000 + oa → d.b = 0x7F0000000000 + ob →
      (∀ p, q ≤ p → p < q + m → oa + p * d.sa + vectorBytes d.ta d.m ≤ 0x300000 ∧
        ob + p * d.sb + vectorBytes d.tb d.n ≤ 0x300000 ∧ Sound s (sliceAddr t (oa + p * d.sa)) (vectorBytes d.ta d.m) ∧
        Sound s (sliceAddr t (ob + p * d.sb)) (vectorBytes d.tb d.n)) →
      let gives := fun (P : AccSlot → Prop) => Reaches (.arrayOperation t) s fun u => let v := (u.tile t).slots.get {} n;
        (u.tile t).queue = (if d.k ≤ q + m then r else .mma c k :: r) ∧ (u.job core k).st = .running ∧
        (u.job core k).k = q + m ∧ others u ∧ v.sa = slot.sa ∧ v.sb = slot.sb ∧ v.perr = slot.perr ∧ v.int32 = slot.int32 ∧
        (∀ i < 128, ∀ l < 128, d.m ≤ i ∨ d.n ≤ l → v.elems.get 0 (128 * i + l) = old i l) ∧ P v;
      ((d.ta, d.tb) ∈ [(4, 4), (4, 5), (5, 5)] → slot.int32 = true → gives fun v =>
        (∀ i < d.m, ∀ l < d.n, v.elems.get 0 (128 * i + l) = BitVec.ofInt 32 (sum m i l)) ∧
        (v.ovf = true ↔ slot.ovf = true ∨ ∃ p ≤ m, ∃ i < d.m, ∃ l < d.n,
          sum p i l < -2147483648 ∨ 2147483647 < sum p i l)) ∧
      ((d.ta, d.tb) ∈ [(0, 0), (1, 1), (2, 2), (3, 3)] → slot.int32 = false → gives fun v => v.ovf = slot.ovf ∧
        ∀ i < d.m, ∀ l < d.n, v.elems.get 0 (128 * i + l) =
          BitVec.ofNat 32 (accumulated d.ta d.tb m (fun p => x (q + p) i) (fun p => y (q + p) l) (old i l).toNat)))

/-- R52, R318, R320, R327, R328, R330, R331, R336: MST at the head of the array's queue begins, and each operation of the
array writes the next row of its window of the slot, scaled and rounded to its format, until the last; MZR gives the
slot's status word and, without ST, zeroes it; MSCL takes its scales from the staging buffer. An empty queue does nothing. -/
def Sys2Proof.Claims.SlotsAreStoredZeroedAndScaled : Prop :=
  ∀ (s : State) (t : Nat) (r : List ArrayOp), t < 768 → let tile := s.tile t; let slot := fun n => tile.slots.get {} n;
    tile.vacated = false → tile.supplies = [] →
    (tile.queue = [] → exec (.arrayOperation t) s = .next s) ∧
    (∀ c k off, let core := 8 * t + c; let j := s.job core k; let n := j.fn % 4; let f := j.fn / 4 % 8; let i := j.k;
      let v := (j.desc.getD 1 0).toNat; let row := v % 128; let col := v / 2 ^ 8 % 128; let rows := v / 2 ^ 16 % 128 + 1;
      let cols := v / 2 ^ 24 % 128 + 1; let size := [4, 2, 2, 1, 4, 1].getD f 1; let w := cols * size;
      let at_ := off + i * (v / 2 ^ 32); let pa := sliceAddr t at_; let a := slot n;
      let exact_ := fun l => let e := a.elems.get 0 (128 * (row + i) + col + l);
        if a.int32 then FNum.ofInt e.toInt else decodeFp .f32 e.toNat;
      let scales := fun l => if j.fn / 32 % 2 = 1 then
        some ((a.sa.get 0x3F800000 (row + i)).toNat, (a.sb.get 0x3F800000 (col + l)).toNat) else none;
      c < 8 → tile.queue = .mst c k :: r → Behind s t r →
      (j.st = .issued → s.released j.after = true → s.inOrder t t core k = true → Reaches (.arrayOperation t) s fun u =>
        (u.tile t).queue = tile.queue ∧ u.job core k = { j with st := .running } ∧ (u.tile t).slots = tile.slots ∧
        SameBytes s u ∧ u.strands = s.strands) ∧
      (j.st = .running → f < 6 → i < rows → j.pieces = [] → j.err = none → a.parity = [] → a.perr = false →
        j.desc.getD 0 0 = BitVec.ofNat 64 (0x7F0000000000 + off) → at_ + w ≤ 0x2F0800 →
        (0x7F0000000000 + at_) % 65536 + w ≤ 65536 →
        s.engX j.ctx core (0x7F0000000000 + at_) w needW = .ok (.mem pa none) → Writable s pa w →
        Reaches (.arrayOperation t) s fun u => (u.tile t).queue = (if rows ≤ i + 1 then r else tile.queue) ∧
          (u.job core k).st = .running ∧ (u.job core k).k = i + 1 ∧ (u.job core k).err = none ∧
          (u.job core k).bytes = j.bytes + w ∧ u.strands = s.strands ∧ (u.tile t).slots = tile.slots ∧
          (∀ l < cols, memNat u (pa + l * size) size = storedElem f (scales l) (exact_ l)) ∧ SameBytesOutside s u pa w)) ∧
    (∀ a n c st, tile.queue = .mzr a n c st :: r → (∀ o ∈ r, (s.opJob t o).st ≠ .running) →
      let o := slot n; let x := s.strand a.strand;
      let v : Word := BitVec.ofNat 64 (o.int32.toNat + 2 * o.ovf.toNat + 4 * o.perr.toNat);
      a.kind = .load → x.run = a.run → x.phase = .running → x.resumeWait = false → ∀ d, a.dest = .g d 8 false →
      x.spBad d v = false → Reaches (.arrayOperation t) s fun u => let w := (u.tile t).slots.get {} n;
        (u.tile t).queue = r ∧ u.mem = s.mem ∧ SameStrandsBut a.strand s u ∧
        u.strand a.strand = { writeG x d v with pend := x.pend.filter fun q => q.id != a.grp } ∧
        (st = true → w = o) ∧
        (st = false → w.int32 = c ∧ w.ovf = false ∧ w.perr = false ∧ w.sa = o.sa ∧ w.sb = o.sb ∧
          ∀ i < 128, ∀ l < 128, w.elems.get 0 (128 * i + l) = 0)) ∧
    (∀ n c sa sb, tile.queue = .mscl n c :: r → (∀ o ∈ r, (s.opJob t o).st ≠ .running) → (slot n).staged = some (sa, sb) →
      Reaches (.arrayOperation t) s fun u => (u.tile t).queue = r ∧ u.mem = s.mem ∧ u.strands = s.strands ∧
        (u.tile t).slots.get {} n = { slot n with sa := sa, sb := sb, staged := none })

/-- R332 to R334: a member takes or refuses an offered part in the clock it arrives and answers; the origin goes on to
the next part, offers a refused one again after 64 clocks, and starts all parts once every member has accepted. -/
def Sys2Proof.Claims.PartsAreOfferedAndStarted : Prop :=
  ∀ (s : State) (origin core slot : Nat), core < 8 → let own := 8 * origin + core; let j := s.job own slot;
    let d := MmaDesc.of j.desc; let n := membersOf d; let tile := fun t => s.tile t;
    let offers := fun (s u : State) (done : List Nat) => ∃ x < n, x ∉ done ∧
      (∀ y < n, y ∉ done → memberAt d origin x ≤ memberAt d origin y) ∧
      Sends s u origin j.ctx [(memberAt d origin x, false, .mmagOffer origin core slot x)] ∧
      (u.job own slot).mmag.offering = some x ∧ (u.job own slot).mmag.refusedAt = none;
    (∀ k p x, Arrived s k p → p.body = .mmagOffer origin core slot x → let t := p.dst; let s1 := without s k;
      let room := (tile t).queue.length < 16 ∧ (tile t).vacated = false;
      (room → Reaches (.mmagOffer k) s fun u => Sends s1 u t p.ctx [(origin, true, .mmagAnswer core slot x true)] ∧
        (∃ q, (u.tile t).queue = (tile t).queue ++ [.part q] ∧ q.origin = origin ∧ q.core = core ∧ q.job = slot ∧
          q.member = x ∧ q.started = false ∧ q.begun = false ∧ q.k = 0 ∧
          (q.cause = none ↔ j.fn / 4 % 2 = 1 ∨ (d.ta, d.tb, s.ctAfter t (j.fn % 4)) ∈ typePairs) ∧
          (q.cause ≠ none → q.cause = some Cause.illegalCombination.code)) ∧
        (let w := (d.n + 127) / 128; (x % w ≠ 0 → w ≤ x → (u.tile t).supplies.length = (tile t).supplies.length) ∧
          (x % w = 0 → ∃ q ∈ (u.tile t).supplies, q.isA = true ∧ q.origin = origin ∧ q.core = core ∧ q.job = slot ∧
            q.addr = BitVec.ofNat 64 d.a ∧ q.k = 0 ∧ q.steps = d.k) ∧
          (x < w → ∃ q ∈ (u.tile t).supplies, q.isA = false ∧ q.origin = origin ∧ q.core = core ∧ q.job = slot ∧
            q.addr = BitVec.ofNat 64 d.b ∧ q.k = 0 ∧ q.steps = d.k))) ∧
      (¬ room → Reaches (.mmagOffer k) s fun u => Sends s1 u t p.ctx [(origin, true, .mmagAnswer core slot x false)] ∧
        (u.tile t).queue = (tile t).queue ∧ (u.tile t).supplies = (tile t).supplies)) ∧
    (∀ k p x ok, Arrived s k p → p.dst = origin → p.body = .mmagAnswer core slot x ok → let s1 := without s k;
      (ok = false → Reaches (.mmagAcceptance k) s fun u => u.net = s1.net ∧
        u.job own slot = { j with mmag := { j.mmag with refusedAt := some s.time.toNat, offering := none } }) ∧
      (ok = true → let done := x :: j.mmag.accepted;
        ((∃ y < n, y ∉ done) → (∀ y < n, y ∉ done → memberAt d origin y ≠ origin) →
          Reaches (.mmagAcceptance k) s fun u => offers s1 u done ∧ (u.job own slot).mmag.accepted = done) ∧
        ((∀ y < n, y ∈ done) → j.mmag.started = false → Reaches (.mmagAcceptance k) s fun u =>
          (u.job own slot).mmag.started = true ∧ ∃ l : List Nat, l.Perm (List.range n) ∧
            l.Pairwise (fun a b => memberAt d origin a ≤ memberAt d origin b) ∧ Sends s1 u origin j.ctx (l.map fun y =>
              (memberAt d origin y, true, .mmagStart origin core slot y))))) ∧
    (j.kind = .mmag → (tile origin).vacated = false →
      (j.mmag.refusedAt = none → exec (.mmagReoffer own slot) s = .next s) ∧
      (∀ a, j.mmag.refusedAt = some a →
        (s.time.toNat < a + 64 → exec (.mmagReoffer own slot) s = .next s) ∧
        (a + 64 ≤ s.time.toNat → (∃ y < n, y ∉ j.mmag.accepted) →
          (∀ y < n, y ∉ j.mmag.accepted → memberAt d origin y ≠ origin) →
          Reaches (.mmagReoffer own slot) s fun u => offers s u j.mmag.accepted))) ∧
    (∀ k p x q r, Arrived s k p → p.body = .mmagStart origin core slot x → (tile p.dst).queue = .part q :: r →
      q.origin = origin → q.core = core → q.job = slot → (∀ z, .part z ∈ r → z.origin ≠ origin ∨ z.core ≠ core ∨ z.job ≠ slot) →
      Reaches (.mmagStart k) s fun u => (u.tile p.dst).queue = .part { q with started := true } :: r ∧
        (u.job own slot).st = .running)

/-- R51, R325, R333 to R335: a part begins with eight credits for each of its suppliers; a supplier that holds a credit
from each member it serves sends them its next step; a member consumes a step once it has both operands, returns the
credits and reports after its last one, and returns the credit of a step it has had already; the origin keeps the failure of the lowest member. -/
def Sys2Proof.Claims.PartsConsumeTheirSteps : Prop :=
  ∀ (s : State) (origin core slot : Nat), core < 8 → let own := 8 * origin + core; let j := s.job own slot;
    let d := MmaDesc.of j.desc; let n := j.fn % 4; let z := j.fn / 4 % 2 = 1; let w := (d.n + 127) / 128;
    let credit := fun (q : Part) a c => Body.mmagCredit origin core slot q.member a c;
    let suppliers := fun (q : Part) => (memberAt d origin (q.member / w * w), memberAt d origin (q.member % w));
    let mine := fun (q : Part) => q.origin = origin ∧ q.core = core ∧ q.job = slot;
    (∀ t q, (s.tile t).vacated = false → (s.tile t).supplies = [] → (s.tile t).queue = [.part q] → mine q → q.started = true →
      q.begun = false → q.cause = none →
      Reaches (.arrayOperation t) s fun u => (u.tile t).queue = [.part { q with begun := true }] ∧
        Sends s u t j.ctx [((suppliers q).1, true, credit q true 8), ((suppliers q).2, true, credit q false 8)] ∧
        let v := (u.tile t).slots.get {} n;
        (¬ z → v.elems = ((s.tile t).slots.get {} n).elems) ∧
        (z → v.ovf = false ∧ v.perr = false ∧ ∀ i < 128, ∀ l < 128, v.elems.get 0 (128 * i + l) = 0)) ∧
    (∀ k p q x m c off, Arrived s k p → p.body = .mmagCredit origin core slot x q.isA m → let t := p.dst;
      let credits := q.credits.map fun e => if e.1 = x then (e.1, e.2 + m) else e; let size := [4, 2, 2, 1, 1].getD q.ty 1;
      let pa := sliceAddr t (off + q.k * q.stride);
      (s.tile t).vacated = false → (s.tile t).supplies = [q] → q.origin = origin → q.core = core → q.job = slot → q.locked = true →
      q.k < q.steps → s.released j.after = true → s.inOrder t origin core slot = true →
      q.addr = BitVec.ofNat 64 (0x7F0000000000 + off) → off + q.k * q.stride + vectorBytes q.ty q.count ≤ 0x300000 → q.ty < 5 →
      Sound s pa (vectorBytes q.ty q.count) →
      (c ∈ credits → c.2 = 0 → Reaches (.mmagCredit k) s fun u => u.net = (without s k).net ∧
        (u.tile t).supplies = [{ q with credits := credits }]) ∧
      (c ∈ credits → c.2 = 1 → (∀ e ∈ credits, 0 < e.2) → Reaches (.mmagCredit k) s fun u =>
        (u.tile t).supplies = [{ q with k := q.k + 1, credits := credits.map fun e => (e.1, e.2 - 1) }] ∧
        Sends (without s k) u t j.ctx (credits.map fun e =>
          (memberAt d origin e.1, false, .mmagStep origin core slot e.1 q.isA q.k
            ((List.range q.count).map fun i => memNat s (pa + i * size) size) none)))) ∧
    (∀ k p q x v, Arrived s k p → let t := p.dst; let o := (s.tile t).slots.get {} n; (s.tile t).vacated = false →
      (s.tile t).queue = [.part q] → mine q → q.begun = true → q.stepsA = [] → q.k < d.k →
      p.body = .mmagStep origin core slot x true q.k v none → let step : MStep := { k := q.k, vals := v };
      (q.stepsB = [] → Reaches (.mmagStep k) s fun u => u.net = (without s k).net ∧
        (u.tile t).queue = [.part { q with stepsA := [step] }] ∧ (u.tile t).slots = (s.tile t).slots) ∧
      (∀ y, q.stepsB = [y] → y.k = q.k → y.bad = none → d.ta < 3 → q.cause = none → o.int32 = false → o.parity = [] →
        let last := q.k + 1 = d.k; let rows := min 128 (d.m - 128 * (q.member / w)); let cols := min 128 (d.n - 128 * (q.member % w));
        Reaches (.mmagStep k) s fun u => let o1 := (u.tile t).slots.get {} n;
          (∀ i < 128, ∀ l < 128, o1.elems.get 0 (128 * i + l) =
            if i < rows ∧ l < cols then BitVec.ofNat 32 (accumulated d.ta d.tb 1 (fun _ => v.getD i 0) (fun _ => y.vals.getD l 0)
              (o.elems.get 0 (128 * i + l)).toNat)
            else o.elems.get 0 (128 * i + l)) ∧
          (u.tile t).queue = (if last then [] else [.part { q with k := q.k + 1, stepsA := [], stepsB := [] }]) ∧
          Sends (without s k) u t j.ctx
            ([((suppliers q).1, true, credit q true 1), ((suppliers q).2, true, credit q false 1)] ++
            if last then [(origin, true, .mmagReport core slot q.member none q.addr)] else []))) ∧
    (∀ k p q x isA v b e, Arrived s k p → let t := p.dst; (s.tile t).queue = [.part q] → mine q → e < q.k → x = q.member →
      p.body = .mmagStep origin core slot x isA e v b → Reaches (.mmagStep k) s fun u => (u.tile t).queue = [.part q] ∧
        Sends (without s k) u t j.ctx [((if isA then (suppliers q).1 else (suppliers q).2), true, credit q isA 1)]) ∧
    (∀ k p x cause a, Arrived s k p → p.dst = origin → p.body = .mmagReport core slot x cause a →
      Reaches (.mmagReport k) s fun u => let i := u.job own slot; i.mmag.reported = x :: j.mmag.reported ∧ u.net = (without s k).net ∧
        (cause = none ∨ (j.err ≠ none ∧ j.errIdx ≤ x) → i.err = j.err ∧ i.errIdx = j.errIdx) ∧
        (∀ c, cause = some c → j.err = none ∨ x < j.errIdx →
          i.err = some c ∧ i.errIdx = x ∧ i.errAddr = a ∧ i.errTime = s.time ∧ i.errTile = memberAt d origin x))

namespace Sys2Proof.Claims

/-- R340, R341: the value of track `k` of row `r` of a channel for an input vector. -/
def trackAt (g : GSlot) (vec : List (BitVec 32)) : Nat → Nat → Nat → Nat
  | 0, r, k =>
    let w := (g.switches.get 0 (16 * r + k)).toNat
    if w / 2 ^ 14 ≠ 3 then 0
    else rnsCanon (if w / 2 ^ 7 % 2 = 1 then (vec.getD (w / 2 ^ 8 % 64) 0).toNat else (g.consts.getD (w % 16) 0).toNat)
  | c + 1, r, k =>
    let w := (g.switches.get 0 (1024 * (c + 1) + (16 * r + k))).toNat
    let q := w / 2 ^ 8 % 64
    let n := (g.nodes.get 0 (64 * c + q)).toNat
    let term := fun (neg sh tr : Nat) =>
      let v := rnsShift (rnsCanon (trackAt g vec c q (n / 2 ^ tr % 16))) (n / 2 ^ sh % 16)
      if n / 2 ^ neg % 2 = 1 then rnsNeg v else v
    if w / 2 ^ 14 = 1 then trackAt g vec c q (w / 2 ^ 4 % 16)
    else if w / 2 ^ 14 = 2 then
      if n / 2 ^ 32 % 2 = 1 then rnsAdd (term 31 27 23) (term 22 18 14) else 0
    else if w / 2 ^ 14 = 3 then
      rnsCanon (if w / 2 ^ 7 % 2 = 1 then (vec.getD q 0).toNat else (g.consts.getD (w % 16) 0).toNat)
    else 0

/-- R344: what the output stage makes of a raw value: its 32 bits, and whether the exit check failed. -/
def exited (e : BitVec 64) (v : Nat) : BitVec 32 × Bool :=
  let scale := e.toNat / 2 ^ 32
  let x := fun (f : ExitFmt) => exitConvert v scale f
  match e.toNat / 2 ^ 10 % 4 with
  | 0 => (BitVec.ofNat 32 (x .f32).code, (x .f32).poisoned)
  | 1 => (BitVec.ofNat 32 (x .bf16).code, (x .bf16).poisoned)
  | 2 => (((BitVec.ofNat 8 (x .i8).code).signExtend 32), (x .i8).poisoned)
  | _ => (BitVec.ofNat 32 (rnsCanon v), false)

/-- A graph command that waited for its tile is over: its result is in its register. -/
def GraphAnswers (s u : State) (t : Nat) (a : Access) (d : GReg) (v : Word) (f : Fabric) : Prop :=
  let x := s.strand a.strand
  (u.tile t).fabric = f ∧ u.mem = s.mem ∧ SameStrandsBut a.strand s u ∧
    u.strand a.strand = { writeG x d v with pend := x.pend.filter fun q => q.id != a.grp }

/-- Its strand runs and takes the result. -/
def Awaits (s : State) (a : Access) (d : GReg) (v : Word) : Prop :=
  let x := s.strand a.strand
  a.dest = .g d 8 false ∧ a.kind = .load ∧ x.run = a.run ∧ x.phase = .running ∧ x.resumeWait = false ∧ x.spBad d v = false

/-- R355: tile `x` sends its chain to tile `t`: its binding says so, or its GBIND that waits for the answer does. -/
def ChainsTo (s : State) (x t : Nat) : Prop :=
  let f := (s.tile x).fabric; let w := (f.bind.getD 0 0).toNat
  (w / 4 % 4 = 2 ∧ w / 2 ^ 24 % 1024 = t) ∨ ∃ a r, GCmd.gbind a r true ∈ f.cmds ∧ (r.getD 0 0).toNat / 2 ^ 24 % 1024 = t

/-- R364: two configurations have the same words in region `k`: its nodes, and the channels before them. -/
def SameRegion (a b : GSlot) (k : Nat) : Prop :=
  a.nodes.filter (fun e => e.1 / 1024 == k) = b.nodes.filter (fun e => e.1 / 1024 == k) ∧
    a.switches.filter (fun e => min 7 (e.1 / 2 ^ 14) == k) = b.switches.filter (fun e => min 7 (e.1 / 2 ^ 14) == k)

/-- A slot of a fabric changed: A for 0, B for 1. -/
def slotTo (f : Fabric) (n : Nat) (g : GSlot) : Fabric := if n = 1 then { f with b := g } else { f with a := g }

end Sys2Proof.Claims

/-! ### The fabric and the loops -/

/-- R340 to R346: in one clock the fabric takes the next input or a bubble and moves every stage on, when the entry that
leaves has room; that entry holds every output, converted by its format, with a mark where the exit check fails. -/
def Sys2Proof.Claims.FabricComputesItsGraph : Prop :=
  (∀ (g : GSlot) (vec : List (BitVec 32)) (j : Nat) (e : BitVec 64), g.outs[j]? = some e →
    (g.outputsOf vec)[j]? = some (BitVec.ofNat 32 (trackAt g vec g.depth (e.toNat % 64) (e.toNat / 64 % 16)))) ∧
  (∀ (s : State) (t : Nat) (st : List (Option (List (BitVec 32)))) (x : Option (List (BitVec 32))), let f := (s.tile t).fabric;
    let g := if f.front then f.b else f.a; let w := (f.bind.getD 0 0).toNat;
    let next := match f.inFifo, g.st with
      | v :: _, .active => some v
      | v :: _, .draining => if f.drainLeft = 0 then none else some v
      | _, _ => none;
    let moved := fun (h : Fabric) => h.stages = next :: st ∧
      (next = none → h.inFifo = f.inFifo ∧ h.taken = f.taken ∧ h.drainLeft = f.drainLeft) ∧
      (next ≠ none → h.inFifo = f.inFifo.drop 1 ∧ h.taken = f.taken + 1 ∧ h.drainLeft = f.drainLeft - 1);
    (s.tile t).vacated = false → (w % 4 ≠ 2 ∨ f.inClosed = true) → w / 4 % 4 = 0 → w / 16 % 2 = 0 →
    (g.st ≠ .active → g.st ≠ .draining → exec (.fabricAdvance t) s = .next s) ∧
    (g.st = .active ∨ g.st = .draining → f.held = [] → f.stages = st ++ [x] →
      (x = none → Reaches (.fabricAdvance t) s fun u => let h := (u.tile t).fabric; moved h ∧ h.outFifo = f.outFifo ∧
        h.delivered = f.delivered ∧ u.mem = s.mem ∧ u.strands = s.strands) ∧
      (∀ v, x = some v → 32 ≤ f.outFifo.length → exec (.fabricAdvance t) s = .next s) ∧
      (∀ v, x = some v → f.outFifo.length < 32 → Reaches (.fabricAdvance t) s fun u => let h := (u.tile t).fabric;
        let raw := fun (j : Nat) => ((g.outputsOf v).getD j 0).toNat;
        let bad := (List.range g.outs.length).filter fun j => (exited (g.outs.getD j 0) (raw j)).2;
        moved h ∧ h.delivered = f.delivered + 1 ∧ u.strands = s.strands ∧
        h.rcnt.toNat = min 65535 (f.rcnt.toNat + bad.length) ∧ (h.range = true ↔ f.range = true ∨ bad ≠ []) ∧
        (bad = [] ∨ f.range = true → u.mem = s.mem) ∧
        ∃ e : BEntry, h.outFifo = f.outFifo ++ [e] ∧ ∀ j < 64, (e.marks.getLsbD j = true ↔ j ∈ bad) ∧
          e.elems.getD j 0 = if j < g.outs.length then (exited (g.outs.getD j 0) (raw j)).1 else 0)))

/-- R348, R351, R360: GLOAD at the head of the graph's queue loads the back slot from its image: the slot becomes READY
with what the image holds, or EMPTY with the reason of its rejection and GRAPH_CAPACITY. -/
def Sys2Proof.Claims.GraphImagesAreLoaded : Prop :=
  (∀ (s : State) (core slot : Nat), let j := s.job core slot; let t := core / 8; let f := (s.tile t).fabric;
    let back := fun (h : Fabric) => if h.front then h.a else h.b; let len := (j.desc.getD 1 0).toNat % 2 ^ 32;
    let rest := f.cmds.drop 1; j.kind = .gload → j.comp = 0 → (s.tile t).vacated = false → f.cmds.head? = some (.gload (core % 8) slot) →
    (j.st = .issued → (back f).st = .reloading → exec (.jobStart core slot) s = .next s) ∧
    (j.st = .issued → (back f).st ≠ .reloading → s.released j.after = true → s.inOrder t t core slot = true →
      Reaches (.jobStart core slot) s fun u => let k := u.job core slot; (k.st = .running ∨ k.st = .translating) ∧
        (back (u.tile t).fabric).st = .loading ∧ (u.tile t).fabric.cmds = f.cmds ∧ (k.pieces.map (·.len)).sum = len) ∧
    (j.st = .running → (∃ p ∈ j.pieces, p.st = .todo ∨ ∃ g, p.st = .held g) → exec (.jobComplete core slot) s = .next s) ∧
    (∀ p pa, rest = [] → j.st = .running → j.err = none → j.pieces = [p] → p.st = .ready → p.len = len →
      s.engX j.ctx core p.src.toNat len needR = .ok (.mem pa none) → Sound s pa len → (back f).damaged = [] →
      let gives := fun (P : State → Job → Fabric → Prop) => Reaches (.jobComplete core slot) s fun u =>
        let h := (u.tile t).fabric; (u.job core slot).st = .completing ∧ (u.job core slot).action = .done ∧ h.cmds = [] ∧
        h.front = f.front ∧ (if f.front then h.b = f.b else h.a = f.a) ∧ u.strands = s.strands ∧ P u (u.job core slot) h;
      let image := parseImage (s.readRaw pa len);
      (∀ g, image = .ok g → gives fun u k h => k.err = none ∧ u.mem = s.mem ∧ back h = { g with
        st := .ready, addr := j.desc.getD 0 0, len := len, ctx := j.ctx }) ∧
      (∀ r, image = .error r → gives fun _ k h => k.err = some Cause.graphCapacity.code ∧ back h = {} ∧
        h.reason = BitVec.ofNat 4 r))) ∧
  (∀ (bs : List Byte), let w := fun i => leNat ((bs.drop (8 * i)).take 8); let i := w 1 % 2 ^ 16; let o := w 1 / 2 ^ 16 % 2 ^ 16;
    let d := w 1 / 2 ^ 32 % 2 ^ 16; let head := w 0 = 0x14C595242 ∧ w 3 = bs.length ∧ w 4 = 0 ∧ w 5 = 0 ∧ w 6 = 0 ∧ w 7 = 0;
    let shape := 1 ≤ i ∧ i ≤ 64 ∧ 1 ≤ o ∧ o ≤ 64 ∧ 1 ≤ d ∧ d ≤ 128;
    (¬ head → parseImage bs = .error 1) ∧ (head → ¬ shape → parseImage bs = .error 2) ∧
    (head → shape → 16 < w 1 / 2 ^ 48 → parseImage bs = .error 3) ∧
    (∀ g, parseImage bs = .ok g → head ∧ shape ∧ g.inputs = i ∧ g.outputs = o ∧ g.depth = d ∧ g.outs.length = o ∧
      g.consts.length = w 1 / 2 ^ 48))

/-- R352, R355, R356: when the last vector of a draining slot has left, the slot is READY and the command that waited
for it is performed. A chain's receiver answers whether it can be formed, with the entries it has room for as credits,
and adds its sender's entries; the sender's binding takes effect with the answer. -/
def Sys2Proof.Claims.DrainsEndAndChainsForm : Prop :=
  (∀ (s : State) (t : Nat), let f := (s.tile t).fabric; let fs := if f.front then f.b else f.a; let bs := if f.front then f.a else f.b;
    let drained := fs.st = .draining ∧ f.drainLeft = 0 ∧ (∀ x ∈ f.stages, x = none) ∧ f.held = []; let ready := frontTo f { fs with st := .ready };
    let swapped := fun (h : Fabric) => { frontTo { h with front := !h.front } { bs with st := .active } with
      stages := List.replicate bs.depth none, activeTaken := 0 };
    (s.tile t).vacated = false → (¬ drained → exec (.graphDrainDone t) s = .next s) ∧
    (drained → f.cmds = [] → Reaches (.graphDrainDone t) s fun u => (u.tile t).fabric = ready ∧ u.strands = s.strands) ∧
    (∀ a d, drained → f.cmds = [.gswap a false true] → Awaits s a d 1 → Reaches (.graphDrainDone t) s fun u =>
      GraphAnswers s u t a d 1 { swapped ready with cmds := [] }) ∧
    (∀ a d, drained → f.cmds = [.gdrain a true] → let v : Word := BitVec.ofNat 64 f.activeTaken; Awaits s a d v →
      Reaches (.graphDrainDone t) s fun u => GraphAnswers s u t a d v { ready with cmds := [] })) ∧
  (∀ (s : State) (k : Nat) (p : Packet), Arrived s k p → let s1 := without s k; let f := (s.tile p.dst).fabric;
    let w := (f.bind.getD 0 0).toNat;
    (∀ x, p.body = .chainBind x → let ok := w / 16 % 2 = 1 ∧ ∀ y, f.chainSender = some y → ChainsTo s y p.dst → y = x;
      let room := 32 - f.chain.length;
      (ok → Reaches (.chainBindRequest k) s fun u => Sends s1 u p.dst p.ctx [(x, true, .chainAnswer true room)] ∧
        u.strands = s.strands ∧ (u.tile p.dst).fabric = { f with chainSender := some x }) ∧
      (¬ ok → Reaches (.chainBindRequest k) s fun u => Sends s1 u p.dst p.ctx [(x, true, .chainAnswer false room)] ∧
        u.strands = s.strands ∧ (u.tile p.dst).fabric = f)) ∧
    (∀ ok n a d r, p.body = .chainAnswer ok n → f.cmds = [.gbind a r true] → (s.tile p.dst).vacated = false →
      let v : Word := if ok then 1 else 2; let q := (r.getD 0 0).toNat; Awaits s a d v →
      Reaches (.chainBindAnswer k) s fun u => GraphAnswers s u p.dst a d v (if ok then { f with
        bind := r, inClosed := decide (q % 4 = 0), inAfter := a.after, inNext := 0, outNext := 0, chain := [], chainSender := none,
        cmds := [], credits := n }
        else { f with cmds := [] })) ∧
    (∀ x es m, p.body = .chainEntry x es m → Reaches (.chainEntry k) s fun u => u.strands = s.strands ∧ u.net = s1.net ∧
      (u.tile p.dst).fabric = if f.chainSender = some x then { f with chain := f.chain ++ [{ elems := es, marks := m }] } else f) ∧
    (p.body = .chainCredit → Reaches (.chainCredit k) s fun u => u.strands = s.strands ∧ u.net = s1.net ∧
      (u.tile p.dst).fabric = { f with credits := f.credits + 1 }))

/-- R347, R363, R364: a double-bit error or a signature that does not match damages a region and stops its slot until it
is reloaded: an ACTIVE or DRAINING slot is FROZEN and a READY one RELOADING. A reload that meets an absent page asks for
it, and goes on or fails with the answer. The reload gives the slot its state again, counting every region, or fails: a
READY slot is EMPTY then and a FROZEN one stays so, with a fault record. -/
def Sys2Proof.Claims.ConfigurationIsProtected : Prop :=
  ∀ (s : State) (t n : Nat), t < 768 → n < 2 → let f := (s.tile t).fabric; let g := if n = 1 then f.b else f.a;
    let c := s.tileCtx t; let k := s.ctx c;
    let hit := fun (x : Nat) (sig : Bool) => { g with
      damaged := if x ∈ g.damaged then g.damaged else g.damaged ++ [x], bySignature := g.bySignature || sig
      foundAt := if sig then f.delivered else g.foundAt
      st := if g.st = .ready then .reloading else if g.st = .active ∨ g.st = .draining then .frozen else g.st
      wasDraining := if g.st = .active then false else if g.st = .draining then true else g.wasDraining };
    let becomes := fun (i : Instr) (h : Fabric) => Reaches i s fun u =>
      (u.tile t).fabric = h ∧ u.strands = s.strands ∧ u.net = s.net;
    let done : SlotState := if g.st = .reloading then .ready else if g.wasDraining then .draining else .active;
    (∀ x < 8, g.st ≠ .empty → becomes (.configError t n x true) (slotTo f n (hit x false)) ∧
      becomes (.configError t n x false) f ∧
      becomes (.signaturePass t [8 * n + x]) (slotTo { f with sigf := true } n (hit x true))) ∧
    (∀ x < 8, ∀ two, g.st = .empty → becomes (.configError t n x two) f) ∧
    becomes (.signaturePass t []) { f with cleanAt := f.delivered } ∧
    (g.st ≠ .frozen → g.st ≠ .reloading → exec (.graphReloadComplete t n) s = .next s) ∧
    (g.lost = true ∨ g.tag ≠ none → exec (.graphReloadComplete t n) s = .next s) ∧
    (g.st = .frozen ∨ g.st = .reloading → g.lost = false → g.tag = none → f.cmds = [] →
      let fails := Reaches (.graphReloadComplete t n) s fun u => u.strands = s.strands ∧
        (u.tile t).fabric = slotTo f n (if g.st = .reloading then {} else { g with lost := true, absent := false }) ∧
        (u.ctx c).frtail + (u.ctx c).frlost = k.frtail + k.frlost + 1;
      (g.absent = true → fails) ∧
      (g.absent = false → (∀ va, s.imageGap t g = some va → Reaches (.graphReloadComplete t n) s fun u => ∃ tag,
        (u.tile t).fabric = slotTo f n { g with tag := some tag } ∧ u.strands = s.strands ∧
        ∃ r ∈ u.tsrReqs, r.tag = tag ∧ r.who = .reload t n ∧ r.va = BitVec.ofNat 64 va ∧ r.ctx = g.ctx ∧ r.write = false) ∧
      (s.imageGap t g = none →
        (s.imageBytes t g = (s, none) → fails) ∧
        (∀ bs, s.imageBytes t g = (s, some bs) →
          ((∀ x, parseImage bs = .ok x → ∃ k ∈ g.damaged, ¬ SameRegion x g k) → fails) ∧
          (∀ x, parseImage bs = .ok x → (∀ k ∈ g.damaged, SameRegion x g k) →
            Reaches (.graphReloadComplete t n) s fun u => u.strands = s.strands ∧ u.net = s.net ∧
              (u.tile t).fabric = { slotTo f n { g with
                st := done, damaged := [], bySignature := false, wasDraining := false } with
                rld := BitVec.ofNat 8 (min 255 (f.rld.toNat + g.damaged.length)) } ∧
              (u.ctx c).evtail + (u.ctx c).evlost = k.evtail + k.evlost + BitVec.ofNat 32 g.damaged.length))))) ∧
    (∀ v a r b, let tag := v.toNat % 2 ^ 32; let ok := v.toNat / 2 ^ 32 % 2 = 1; s.tsrReqs = a ++ r :: b →
      (∀ x ∈ a ++ b, x.tag ≠ tag) → r.tag = tag → r.sent = true → r.who = .reload t n → g.tag = some tag →
      let gone := ¬ ok ∨ s.engX r.ctx (8 * t) r.va.toNat 1 needR = .absent;
      Reaches (.translationResponse r.unit v) s fun u => u.tsrReqs = a ++ b ∧ u.strands = s.strands ∧ u.mem = s.mem ∧
        (gone → (u.tile t).fabric = slotTo f n { g with tag := none, absent := true }) ∧
        (¬ gone → (u.tile t).fabric = slotTo f n { g with tag := none, absent := false }))

/-- R367, R368, R371, R372, R374: a loop that is due samples: occupancy, error, integrator, output and its actuators, with
the counts that make it SATURATED or RUNNING; one that is not does nothing. An uncorrectable error in its slot makes it
FAULTED, and an engine it drove keeps its rate. The loop is the only one of its tile that is bound here.
Where the rules leave a choice open, the model's own is stated (log 68, 85). -/
def Obligations.LoopsSampleAndFault : Prop :=
  ∀ (s : State) (t k : Nat), k < 16 → let loops := (s.tile t).loops; let l := loops.get {} k;
    let live := l.st = .bound ∨ l.st = .running ∨ l.st = .saturated; let kind := l.bind.toNat % 8;
    let core := 8 * t + l.bind.toNat / 8 % 8; let lv := ((s.core core).levels.get {} (l.bind.toNat / 64 % 4));
    let held := (lv.entries.filter (·.landed)).length + (lv.entries.filter fun e => !e.landed).length + lv.count;
    let occ := if kind = 0 then (s.core core).inq.length else if kind = 1 then min 65535 held
      else if kind = 2 then (s.tile t).fabric.inFifo.length else if kind = 3 then (s.tile t).fabric.outFifo.length
      else s.staged t true;
    let full := if kind = 0 then 16 ≤ occ else if kind = 1 then lv.st = .spilling ∨ lv.st = .refilling ∨ lv.st = .frozen
      else if kind = 4 then 64 ≤ occ else 32 ≤ occ;
    let err : Int := (occ : Int) - (l.setpoint : Int);
    let integ := if occ = 0 ∨ full then l.integ else clampInt (l.integ + err) (-(l.ilim : Int)) l.ilim;
    let out := fun (side : Bool) (u : Int) => if side then (l.basec : Int) + u else (l.basep : Int) - u;
    let acts := fun (u : Int) (side : Bool) => l.actuator side ≠ none ∧ (out side u < l.wmin ∨ (l.wmax : Int) < out side u);
    let value := fun (u : Int) (side : Bool) => (clampInt (out side u) l.wmin l.wmax).toNat;
    let rate := fun (u : Int) (a : Nat × Nat) (old : Nat) => if l.actuator false = some a then value u false
      else if l.actuator true = some a then value u true else old;
    (∀ m < 16, m ≠ k → (loops.get {} m).st = .unbound) → (l.actuator false ≠ l.actuator true ∨ l.actuator false = none) → l.upd = none →
    (¬ (live ∧ l.hold = false ∧ l.timer = 0) ∨ (s.tile t).vacated = true → exec (.loopSample t k) s = .next s) ∧
    (live → l.hold = false → l.timer = 0 → (s.tile t).vacated = false → kind ≤ 4 → Reaches (.loopSample t k) s fun w =>
      let x := (w.tile t).loops.get {} k; let u := (err >>> l.kp) + (integ >>> l.ki);
      x.occ = occ ∧ x.err = err ∧ x.integ = integ ∧ x.u = u ∧ x.nsmp = l.nsmp + 1 ∧ x.timer = l.period ∧
      (x.clp = true ↔ acts u false) ∧ (x.clc = true ↔ acts u true) ∧
      (acts u false ∨ acts u true → x.run = min 16 (l.run + 1)) ∧ (¬ acts u false → ¬ acts u true → x.run = 0) ∧
      x.st = (if x.run = 16 then .saturated else if l.st = .saturated ∧ x.run ≠ 0 then .saturated else .running) ∧
      (l.actuator false ≠ none → x.vp = value u false) ∧ (l.actuator true ≠ none → x.vc = value u true) ∧
      (w.tile t).copyRate = rate u (2, 0) (s.tile t).copyRate ∧ (w.tile t).gathRate = rate u (3, 0) (s.tile t).gathRate ∧ w.strands = s.strands ∧ w.net = s.net ∧
      (x.st = l.st ∨ x.st = .running → w.mem = s.mem)) ∧
    (¬ live → exec (.loopFault t k) s = .next s) ∧
    (live → Reaches (.loopFault t k) s fun w => let x := (w.tile t).loops.get {} k; x = { l with st := .faulted } ∧
      w.strands = s.strands ∧
      (w.tile t).copyRate = (s.tile t).copyRate ∧ (w.tile t).gathRate = (s.tile t).gathRate)

namespace Sys2Proof.Claims

/-- R281, R282: the entry of a group in a unit's table, the west I/O die's being unit 768. -/
def groupOf (s : State) (u gid : Nat) : Word × Word :=
  if u = 768 then s.domains.get (0, 0) gid else (s.tile u).groups.get (0, 0) gid

/-- The entry of one group has become `e`, and nothing else of the tables has changed. -/
def GroupBecomes (i : Instr) (s : State) (u gid : Nat) (e : Word × Word) (P : State → Prop) : Prop :=
  Reaches i s fun t => groupOf t u gid = e ∧ (∀ v g, (v, g) ≠ (u, gid) → groupOf t v g = groupOf s v g) ∧
    t.strands = s.strands ∧ P t

/-- Word 0 with another STATE. -/
def inState (e : Word × Word) (n : Nat) : Word × Word := (BitVec.ofNat 64 (e.1.toNat % 2 ^ 62 + n * 2 ^ 62), e.2)

/-- R290: the acknowledgement of a multicast has been sent to its sender: the outcomes as 256 bits, two for each member
of the domain. -/
def Acknowledged (s t : State) (x : MCast) (tile : Nat) (ud : Bool) (v : Nat) : Prop :=
  t.mcasts = s.mcasts.filter (fun y => y.id != x.id) ∧
  (x.hdr.re = false → t.net = s.net) ∧
  (x.hdr.re = true → ∃ m : Msg, t.net = (s.inject tile (x.hdr.sy.toNat % 24 * 32 + x.hdr.sx.toNat) true x.hdr.ctx.toNat []
    (.reply m)).net ∧ m.hdr.hidx = x.hdr.rhidx ∧ m.hdr.rslot = x.hdr.rslot ∧ m.hdr.dcore = x.hdr.score ∧
    m.hdr.ud = ud ∧ m.args = (List.range 4).map fun w => BitVec.ofNat 64 (v / 2 ^ (64 * w)))

/-- R281, R286: the packet of a group at a router, with an entry whose filter is off. -/
def PassesAt (s : State) (t gid : Nat) : Prop := ((s.tile t).groups.get (0, 0) gid).2.toNat / 2 ^ 30 % 4 = 0

end Sys2Proof.Claims

/-! ### Groups -/

/-- R281 to R283, R289: the states of a group's entry: building, the commit of it with at most two reductions rooted at
one router, else CERR, the revocation that discards open rounds, and FREE once no packet of the group is held. -/
def Sys2Proof.Claims.GroupEntriesChangeState : Prop :=
  ∀ (s : State) (u gid : Nat), u ≤ 768 → gid < 4096 → let e := groupOf s u gid; let st := e.1.toNat / 2 ^ 62;
    let c := e.1.toNat / 2 ^ 54 % 2 ^ 8; let red := fun (x : Word × Word) => x.1.toNat / 2 ^ 19 % 2 = 1;
    let rooted := (List.range 4096).filter fun g => let x := groupOf s u g
      decide (x.1.toNat / 2 ^ 62 = 2 ∧ red x ∧ x.1.toNat / 2 ^ 37 % 8 = 7);
    let may := u = 768 ∨ ¬ red e ∨ rooted.length < 2;
    let rounds := (s.tile u).rounds; let mine := rounds.filter fun r => r.gid == gid;
    let busy := ∃ p ∈ s.net, p.ofGroup u gid = true; let same := fun (t : State) => t.mem = s.mem ∧ t.net = s.net;
    (st = 0 → GroupBecomes (.groupBuild u gid) s u gid (inState e 1) same) ∧
    (st ≠ 0 → exec (.groupBuild u gid) s = .next s) ∧
    (st = 1 → may → GroupBecomes (.groupCommit u gid) s u gid (inState e 2) same) ∧
    (st = 1 → ¬ may → GroupBecomes (.groupCommit u gid) s u gid (e.1 ||| 0x40000, e.2) same) ∧
    (st ≠ 1 → exec (.groupCommit u gid) s = .next s) ∧
    (st = 2 → u = 768 → GroupBecomes (.groupRevoke u gid) s u gid (inState e 3) same) ∧
    (st = 2 → u < 768 → GroupBecomes (.groupRevoke u gid) s u gid (inState e 3) fun t => t.net = s.net ∧
      (t.tile u).rounds = rounds.filter (fun r => r.gid != gid) ∧
      (t.ctx c).evtail + (t.ctx c).evlost = (s.ctx c).evtail + (s.ctx c).evlost + BitVec.ofNat 32 mine.length) ∧
    (st ≠ 2 → exec (.groupRevoke u gid) s = .next s) ∧
    (st = 3 → ¬ busy → GroupBecomes (.groupFreed u gid) s u gid (inState e 0) same) ∧
    (st ≠ 3 ∨ busy → exec (.groupFreed u gid) s = .next s)

/-- R54, R285 to R290: a packet of a group climbs to the root, which admits it when ACTIVE; each stage sends it out of its
DOWN ports unless its filter drops it, and a member takes its copy: a message in its queue or a store, checked as the
sender's on the slice of the member. Contributions
gather at the root in rounds, and a complete round is summed lane by lane and multicast. The sender that asked is told
each member's outcome. -/
def Sys2Proof.Claims.GroupPacketsSpread : Prop :=
  ∀ (s : State) (k : Nat) (p : Packet) (m : Msg) (gid mc : Nat) (work : GroupWork) (climb : Bool), Arrived s k p →
    p.body = .group m gid work climb mc → let s1 := without s k; let t := p.dst; let e := (s.tile t).groups.get (0, 0) gid;
    let st := e.1.toNat / 2 ^ 62; let up := e.1.toNat / 2 ^ 37 % 8; let down := fun i => e.1.toNat / 2 ^ (48 + i) % 2 = 1;
    let ports := (List.range 4).filter fun i => decide (down i); let c := m.hdr.ctx.toNat;
    let s2 : State := { s1 with nextId := s.nextId + 1 }; let lines := (p.dlx, p.dly);
    let copies := fun (u : State) => u.net =
      (ports.foldl (fun v i => v.forward t (neighbour t i) c lines (.group m gid work false mc)) s2).net;
    let x0 := t % 32; let y0 := t / 32; let toward := [(y0 + 23) % 24 * 32 + x0, y0 * 32 + (x0 + 1) % 32, (y0 + 1) % 24 * 32 + x0,
      y0 * 32 + (x0 + 31) % 32];
    let enters := climb = false ∨ (up = 7 ∧ st = 2 ∧ ∀ (ty : BitVec 2) (i : Nat), work ≠ .reduce ty i);
    let from_ := m.hdr.sy.toNat * 32 + m.hdr.sx.toNat;
    (∀ i < 4, neighbour t i = toward.getD i 0) ∧
    (∀ off n, t < 768 → from_ ≠ t → 0 < n → off + n ≤ 0x300000 → s.memberCheck c t from_ (BitVec.ofNat 64 (0x7F0000000000 + off)) n =
      s.checkLocks c (8 * t) [] (BitVec.ofNat 64 (0x700000000000 + t * 0x400000 + off)) n 1 needW) ∧
    (climb = true → up < 4 → 2 ≤ st →
      Reaches (.groupPacket k) s fun u => u.net = (s1.forward t (neighbour t up) c lines (.group m gid work true mc)).net ∧ u.strands = s.strands) ∧
    (climb = true → up ≠ 7 → 4 ≤ up ∨ st < 2 → s.mcasts = [] → Reaches (.groupPacket k) s fun u => u.net = s1.net ∧ u.mem = s.mem) ∧
    (climb = true → up = 7 → st ≠ 2 → s.mcasts = [] → Reaches (.groupPacket k) s fun u => u.net = s1.net ∧ u.mem = s.mem) ∧
    (∀ x : MCast, climb = true → up = 7 → st ≠ 2 → (∀ (ty : BitVec 2) (i : Nat), work ≠ .reduce ty i) → s.mcasts = [x] → x.id = mc →
      Reaches (.groupPacket k) s fun u => Acknowledged s1 u x x.tile true (2 ^ 256 - 1)) ∧
    (enters → s.mcasts = [] → ¬ down 5 → PassesAt s t gid → Reaches (.groupPacket k) s fun u => copies u ∧ u.mem = s.mem) ∧
    (enters → s.mcasts = [] → ¬ down 5 → e.2.toNat / 2 ^ 30 % 4 = 3 → e.2.toNat / 2 ^ 27 % 8 = 0 →
      (m.hdr.hidx.toNat = e.2.toNat % 2 ^ 16 → Reaches (.groupPacket k) s fun u => u.net = s1.net ∧ u.mem = s.mem) ∧
      (m.hdr.hidx.toNat ≠ e.2.toNat % 2 ^ 16 → Reaches (.groupPacket k) s fun u => copies u ∧ u.mem = s.mem)) ∧
    (enters → s.mcasts = [] → down 5 → ports = [] → PassesAt s t gid →
      (∀ d : Nat, work = .message → d < 8 → (e.1.toNat / 2 ^ 40 % 256 = 2 ^ d) → m.hdr.lclass = 0 →
        let h := { m.hdr with kind := 0, re := false, rels := false, rslot := 0, rhidx := 0, dcore := BitVec.ofNat 3 d,
                              dx := BitVec.ofNat 5 (t % 32), dy := BitVec.ofNat 5 (t / 32) };
        let q := entryMade s t { m with hdr := h }; let l := q.level.toNat; let v := s.level (8 * t + d) l;
        refusedFor s t h = none → (v.st = .empty ∨ v.st = .filling) → v.entries.length < v.depth.toNat →
        Reaches (.groupPacket k) s fun u => u.net = s1.net ∧ u.mem = s.mem ∧ (u.level (8 * t + d) l).entries = v.entries ++ [q]) ∧
      (∀ (a : Word) (pa : Nat), work = .store a → a.toNat % 8 = 0 → m.payload.length ≤ 8 → m.payload ≠ [] →
        s.memberCheck c t from_ a m.payload.length = .ok (.mem pa none) false → Writable s pa m.payload.length →
        Reaches (.groupPacket k) s fun u => u.net = s1.net ∧ SameBytesOutside s u pa m.payload.length ∧
          ∀ i < m.payload.length, u.byte (pa + i) = m.payload.getD i 0)) ∧
    (∀ (a : Word) (x : MCast), enters → work = .store a → down 5 → ports = [] → PassesAt s t gid → a.toNat % 8 ≠ 0 → climb = true →
      e.1.toNat / 2 ^ 28 % 512 = 1 → e.1.toNat / 2 ^ 20 % 256 = 0 → s.mcasts = [x] → x.id = mc → x.domain = false →
      Reaches (.groupPacket k) s fun u => Acknowledged s2 u x t false 1) ∧
    (∀ (ty : BitVec 2) (i : Nat), work = .reduce ty i → climb = true → up = 7 → st = 2 → s.mcasts = [] → let n := e.1.toNat / 2 ^ 28 % 512;
      let red := e.1.toNat / 2 ^ 19 % 2 = 1; let x := s.ctx (e.1.toNat / 2 ^ 54 % 256); let rounds := (s.tile t).rounds;
      (¬ red → Reaches (.groupPacket k) s fun u => u.net = s1.net ∧ (u.tile t).rounds = rounds ∧
        let y := u.ctx (e.1.toNat / 2 ^ 54 % 256); y.evtail + y.evlost = x.evtail + x.evlost + 1) ∧
      (red → rounds = [] → 1 < n → Reaches (.groupPacket k) s fun u => u.net = s1.net ∧ u.mem = s.mem ∧
        (u.tile t).rounds = [{ gid := gid, parts := [(i, m, ty)] }]) ∧
      (∀ (r : Round) (q : Nat), red → rounds = [r] → r.gid = gid → (r.parts ++ [(i, m, ty)]).map (·.1) = List.range n → ty = 2 →
        (∀ z ∈ r.parts, z.2.2 = 2) → ¬ down 5 → ports = [q] → PassesAt s t gid → let all := (r.parts ++ [(i, m, ty)]).map (·.2.1);
        let lane := fun (a : List Word) j => (a.getD (j / 2) 0).toNat / 2 ^ (32 * (j % 2)) % 2 ^ 32;
        Reaches (.groupPacket k) s fun u => (u.tile t).rounds = [] ∧ ∃ g : Msg,
          u.net = (s2.forward t (neighbour t q) g.hdr.ctx.toNat (false, false) (.group g gid .message false 0)).net ∧ g.hdr.posted = true ∧ g.hdr.re = false ∧ g.hdr.sx.toNat = t % 32 ∧
          g.args.length = 4 ∧
          ∀ j < 8, lane g.args j = ((all.map fun y => lane y.args j).sum) % 2 ^ 32))

/-- R282, R290, R292, R447: the west I/O die admits a multicast of an ACTIVE group, reads its list and sends each member
its write by a port of its lease, as soon as one is usable; a list that cannot be read gives code 2 for all. A member's answer or its absence is its
outcome, and the last one ends the multicast. -/
def Sys2Proof.Claims.DomainMulticastsEndWithEveryOutcome : Prop :=
  (∀ (s : State) (k : Nat) (p : Packet) (m : Msg) (gid : Nat) (off : Word) (alt : Bool) (x : MCast), Arrived s k p →
    p.body = .domain m gid off alt x.id → s.mcasts = [x] → let s1 := without s k; let e := s.domains.get (0, 0) gid;
    let c := m.hdr.ctx.toNat; let n := e.1.toNat / 2 ^ 47 % 128 + 1; let at_ := fun i => e.1.toNat % 2 ^ 45 * 16 + 16 * i;
    let admitted := e.1.toNat / 2 ^ 62 = 2 ∧ e.1.toNat / 2 ^ 54 % 256 = c;
    let reads := fun i pa => s.xlate c (at_ i) needR = .ok (.mem pa none) ∧ isHbm pa = true ∧ s.poisoned pa 16 = false;
    (¬ admitted → Reaches (.domainMulticast k) s fun u =>
      Acknowledged s1 u x x.tile true ((List.range 128).map fun i => 2 * 4 ^ i).sum) ∧
    (∀ pas : Nat → Nat, admitted → s.soft = [] → (∀ i < n, reads i (pas i)) → Reaches (.domainMulticast k) s fun u => u.net = s1.net ∧ u.mem = s.mem ∧
      ∃ ms, u.mcasts = [{ x with admitted := true, sentAt := s.time.toNat, payload := m.payload, members := ms }] ∧
        u.sent = s.sent ++ ms.filterMap (fun y => y.used.map fun q => .access q y.peer y.lease y.addr.toNat (.write m.payload)) ∧
        ms.length = n ∧ ∀ i < n, ∃ y, ms[i]? = some y ∧ let w := memNat s (pas i) 8; let a := w / 2 ^ 10 % 16; let b := w / 2 ^ 14 % 16;
          y.idx = i ∧ y.peer = w % 1024 ∧ y.lease = w / 2 ^ 18 % 4096 ∧ y.code = none ∧
          y.first = (if alt then b else a) ∧ y.second = (if alt then a else b) ∧
          y.addr = BitVec.ofNat 64 (memNat s (pas i + 8) 8) + off ∧ y.used = s.choosePort y.first y.second ∧
          (y.used ≠ none → y.sentAt = s.time.toNat)) ∧
    (admitted → x.domain = true → s.soft = [] → (∃ i < n, s.xlate c (at_ i) needR = .absent) →
      Reaches (.domainMulticast k) s fun u =>
        Acknowledged s1 u x x.tile false ((List.range n).map fun i => 2 * 4 ^ i).sum ∧
        (u.ctx c).evtail + (u.ctx c).evlost = (s.ctx c).evtail + (s.ctx c).evlost + 1)) ∧
  (∀ (s : State) (i peer code : Nat) (x : MCast) (a b : List Member) (y : Member), s.mcasts = [x] → x.domain = true →
    x.admitted = true → x.members = a ++ y :: b → y.idx = i → y.code = none → (∀ z ∈ a ++ b, z.idx ≠ i) →
    let v := if peer ≠ y.peer ∨ code = 2 ∨ 3 < code then 3 else code;
    let sum := fun (v : Nat) => ((a ++ { y with code := some v } :: b).map fun z => (z.code.getD 0) % 4 * 4 ^ z.idx).sum;
    let late := (y.used = none ∧ x.sentAt + 2 ^ 20 ≤ s.time.toNat) ∨
      ∃ q, y.used = some q ∧ (s.portState q = .down ∨ s.portState q = .retired ∨ y.sentAt + 2 ^ 20 ≤ s.time.toNat);
    let takes := fun (i : Instr) (v : Nat) =>
      ((∃ z ∈ a ++ b, z.code = none) → Reaches i s fun u => u.net = s.net ∧ u.mem = s.mem ∧
        u.mcasts = [{ x with members := a ++ { y with code := some v } :: b }]) ∧
      ((∀ z ∈ a ++ b, z.code ≠ none) → Reaches i s fun u => Acknowledged s u x x.tile false (sum v));
    (¬ late → y.used = none → exec (.ualinkWriteAnswer x.id i peer code) s = .next s) ∧
    (¬ late → y.used ≠ none → takes (.ualinkWriteAnswer x.id i peer code) v) ∧
    (late → takes (.ualinkWriteAnswer x.id i peer code) 2) ∧
    (s.takePorts.mcasts = [{ x with members := x.members.map fun z =>
      if z.used = none ∧ z.code = none ∧ s.choosePort z.first z.second ≠ none
        then { z with used := s.choosePort z.first z.second, sentAt := s.time.toNat } else z }]) ∧
    (¬ late → exec (.multicastTimeout x.id i) s = .next s) ∧ (late → takes (.multicastTimeout x.id i) 2))

namespace Sys2Proof.Claims

/-- R445, R460: the lanes with which torus link `l` trains at boot: those that `lanes` gives for one of its ends, at most
four, else all four. -/
def lanesAt (lanes : List (Nat × Nat)) (l : Nat) : Nat :=
  let far := 4 * neighbour (l / 4) (l % 4) + (l % 4 + 2) % 4
  ((lanes.find? fun e => e.1 == l || e.1 == far).map fun e => min e.2 4).getD 4

end Sys2Proof.Claims

/-! ### Firmware, power and management -/

/-- R3, R17, R445, R459, R460, R463 to R466: a cold reset clears everything but the fuses and the host's memory and ends in
RECOVERY, FATAL or READY as the checks of the boot turn out, after training that is logged change by change; a fatal error sets its code and sends MGMTVEC. That host
memory, the fuses and the interrupts already sent stay is the model's reading of what lies outside the module. -/
def Sys2Proof.Claims.ResetsAndFatalErrors : Prop :=
  ∀ (s : State) (ok : Bool) (lanes : List (Nat × Nat)) (code : Nat), let image := s.mgmt.flash.getD Config.factoryImage;
    (Reaches (.coldReset ok lanes) s fun u => (∀ pa, pa < 2 ^ 64 → u.byte pa = 0) ∧
      (∀ pa, 2 ^ 64 ≤ pa → u.byte pa = s.byte pa) ∧ u.fuses = s.fuses ∧ u.net = [] ∧ u.acc = [] ∧ u.tsrReqs = [] ∧
      u.mcasts = [] ∧ (∀ n, (u.strand n).phase = .idle) ∧ (∀ c, (u.ctx c).st = .free ∧ (u.ctx c).kst = .free) ∧
      (∀ q, (u.queue q).enable = false) ∧ (∀ i, (u.lender i).st = .revoked ∧ (u.borrower i).st = .revoked) ∧
      (Config.firmwareAccepts image = false → u.mgmt.st = .recovery ∧ (∀ l, (u.link l).st = .down) ∧ u.msix = s.msix) ∧
      (Config.firmwareAccepts image = true → ok = false → u.mgmt.st = .fatal ∧ u.mgmt.fatal = 3 ∧ u.msix = s.msix ++ [0]) ∧
      (Config.firmwareAccepts image = true → ok = true →
        (∀ l < 3072, let n := lanesAt lanes l; (u.link l).width.toNat = n ∧
          (u.link l).st = (if n = 0 then .down else if n = 4 then .up else .degraded)) ∧
        (∀ p < 17, (u.link (3072 + p)).st = .training) ∧ u.mgmt.logCount = 3089 ∧
        ((∃ l < 3072, lanesAt lanes l = 0) → u.mgmt.st = .fatal ∧ u.mgmt.fatal = 1 ∧ u.msix = s.msix ++ List.replicate 3090 0) ∧
        ((∀ l < 3072, lanesAt lanes l ≠ 0) → u.mgmt.st = .ready ∧ u.mgmt.err = 0 ∧
          u.msix = s.msix ++ List.replicate 3089 0))) ∧
    exec (.fatalError code) s = .next { s with
      mgmt := { s.mgmt with st := .fatal, fatal := BitVec.ofNat 8 code }, msix := s.msix ++ [s.mgmt.vec] }

/-- R459, R460, R464, R465: UPDATE checks its image, waits for the packets that have started, refuses while a kernel is not
FREE, saves the queues and writes the image; the firmware reset then keeps HBM and restores the queues. Which bytes a
bad argument is tested before, and the bytes of the image and its signature, are the model's choice. -/
def Sys2Proof.Claims.UpdatesResetTheFirmware : Prop :=
  ∀ (s : State) (ok : Bool) (lanes : List (Nat × Nat)), let m := s.mgmt; let at_ := hostAddr m.arg2.toNat;
    let image := s.readRaw (hostAddr m.arg0.toNat) m.arg1.toNat; let idle := ∀ e ∈ s.queues, e.2.started = [];
    let free := ∀ e ∈ s.ctxs, e.2.kst = .free;
    let ends := fun (i : Instr) (n : Nat) => Reaches i s fun u => u.mgmt = { m with err := BitVec.ofNat 8 n, updating := false } ∧
      u.msix = s.msix ++ [m.vec] ∧ u.mem = s.mem;
    let goes := fun (i : Instr) =>
      (¬ idle → Reaches i s fun u => u.mgmt = { m with updating := true } ∧ u.mem = s.mem) ∧ (idle → ¬ free → ends i 3) ∧
      (idle → free → Reaches i s fun u => u.mgmt = { m with
          st := .updating, updating := false, flash := some image, layout := some m.arg2 } ∧
        SameBytesOutside s u at_ 36928 ∧ memNat u at_ 8 = 0x51534C4C + 2 ^ 32 + 64 * 2 ^ 40 ∧
        ∀ q < 64, let k := s.queue q; memNat u (at_ + 64 + 64 * q) 8 = k.qbase.toNat ∧
          memNat u (at_ + 80 + 64 * q) 8 = k.tail.toNat ∧ memNat u (at_ + 88 + 64 * q) 8 = k.head.toNat);
    (m.st = .ready ∨ m.st = .recovery →
      (m.updating = true → Reaches .update s fun u => u.mgmt = { m with err := 1 } ∧ u.mem = s.mem) ∧
      (m.updating = false → m.arg2.toNat % 4096 ≠ 0 → ends .update 4) ∧
      (m.updating = false → m.arg2.toNat % 4096 = 0 → Config.firmwareAccepts image = false → ends .update 2) ∧
      (m.updating = false → m.arg2.toNat % 4096 = 0 → Config.firmwareAccepts image = true → goes .update)) ∧
    (m.st = .updating ∨ m.st = .fatal → exec .update s = .next s) ∧
    (m.st ≠ .updating → m.updating = false → exec (.firmwareReset ok lanes) s = .next s) ∧
    (m.st ≠ .updating → m.updating = true → goes (.firmwareReset ok lanes)) ∧
    (∀ a, m.st = .updating → m.layout = some a → Config.firmwareAccepts (m.flash.getD Config.factoryImage) = true → ok = true →
      (∀ l < 3072, lanesAt lanes l ≠ 0) → let b := hostAddr a.toNat; Reaches (.firmwareReset ok lanes) s fun u =>
        (∀ pa, pa < 2 ^ 40 ∨ 2 ^ 64 ≤ pa → u.byte pa = s.byte pa) ∧ (∀ pa, 2 ^ 40 ≤ pa → pa < 2 ^ 64 → u.byte pa = 0) ∧
        (u.link 3088) = s.link 3088 ∧ (∀ n, (u.strand n).phase = .idle) ∧
        (1 < (s.byte (b + 4)).toNat → u.mgmt.st = .recovery) ∧
        ((s.byte (b + 4)).toNat ≤ 1 → u.mgmt.st = .ready ∧ ∀ q < 64, let k := u.queue q; let f := b + 64 + 64 * q;
          k.qbase.toNat = memNat s f 8 ∧ k.enable = decide ((s.byte (f + 8)).toNat % 2 = 1) ∧ k.tail.toNat = memNat s (f + 16) 2 ∧
          k.head.toNat = memNat s (f + 24) 2 ∧
          k.st = (if (s.byte (f + 32)).toNat % 8 = 4 then .error else if (s.byte (f + 8)).toNat % 2 = 0 then .stopped
            else if memNat s (f + 16) 2 % 2 ^ ((s.byte (f + 12)).toNat % 16) = memNat s (f + 24) 2 % 2 ^ ((s.byte (f + 12)).toNat % 16)
              then .idle else .running)))

/-- R466 to R468: each period moves the issue allowance by power and current, and heat lowers it to 8 or is fatal; ATTEST
writes the nonce and the three digests of its report, and is the model's own only in that it answers in READY alone. -/
def Sys2Proof.Claims.PowerAndAttestation : Prop :=
  ∀ (s : State), let m := s.mgmt;
    (∀ watts amps peak temps, m.st ≠ .booting → let n := m.thr.toNat; let hot := ∃ t ∈ temps, 105 * 16 < t;
      let trip := ∃ t ∈ temps, 115 * 16 < t;
      let v := if m.capw.toNat < watts ∨ 12000 < peak then max 8 (n - 4) else if watts + 200 < m.capw.toNat then min 64 (n + 1) else n;
      Reaches (.powerPeriod watts amps peak temps) s fun u => u.strands = s.strands ∧ u.mem = s.mem ∧
        (hot → u.mgmt.thr = 8) ∧ (¬ hot → u.mgmt.thr = BitVec.ofNat 7 v) ∧
        u.mgmt.watt = BitVec.ofNat 13 watts ∧ u.mgmt.amps = BitVec.ofNat 16 amps ∧ u.mgmt.temps = temps.map (BitVec.ofNat 16) ∧
        (¬ trip → u.mgmt.st = m.st ∧ u.msix = s.msix) ∧
        (trip → u.mgmt.st = .fatal ∧ u.mgmt.fatal = 4 ∧ u.msix = s.msix ++ [m.vec])) ∧
    (m.st ≠ .ready → exec .attest s = .next s) ∧
    (m.st = .ready → m.updating = true → Reaches .attest s fun u => u.mgmt = { m with err := 1 } ∧ u.mem = s.mem) ∧
    (m.st = .ready → m.updating = false → let at_ := hostAddr m.arg1.toNat; let nonce := hostAddr m.arg0.toNat;
      Reaches .attest s fun u => u.mgmt = { m with err := 0 } ∧ u.msix = s.msix ++ [m.vec] ∧ SameBytesOutside s u at_ 7475 ∧
        (∀ i < 64, u.byte (at_ + i) = s.byte (nonce + i)) ∧
        u.readRaw (at_ + 64) 192 = digest s.mgmt.image ++ digest (tileMap s.fuses) ++ digest (Config.capabilityList s.fuses))

/-- R3, R83, R163, R260, R331, R374, R396, R433, R434, R439, R448, R452, R457, R463: what the host's writes to registers of each
window change, and the state in which a field is closed to them; a soft error that can be corrected waits to be read,
any other poisons its unit, and one in an accumulator breaks the element's parity. -/
def Sys2Proof.Claims.RegisterWritesAndSoftErrors : Prop :=
  ∀ (s : State) (v : Word), let n := v.toNat; let opened := s.mgmt.st = .ready ∨ s.mgmt.st = .fatal;
    let w := fun (r : HostReg) => Instr.registerWrite r v; let mg := opened ∨ s.mgmt.st = .recovery;
    let sets := fun (r : HostReg) (P : State → Prop) => Reaches (w r) s fun u => u.strands = s.strands ∧ P u;
    (∀ bus, sets (.hostMem bus) fun u => memNat u (hostAddr bus) 8 = n ∧ SameBytesOutside s u (hostAddr bus) 8) ∧
    (mg → sets (.fwarg 0) (fun u => u.mgmt = { s.mgmt with arg0 := v }) ∧ sets (.fwarg 1) (fun u => u.mgmt = { s.mgmt with arg1 := v }) ∧
      sets (.fwarg 2) (fun u => u.mgmt = { s.mgmt with arg2 := v }) ∧
      sets .mgmtvec (fun u => u.mgmt = { s.mgmt with vec := BitVec.ofNat 16 n }) ∧
      sets .pwrcap fun u => u.mgmt = if 1000 ≤ n % 2 ^ 13 ∧ n % 2 ^ 13 ≤ 6000 then { s.mgmt with capw := BitVec.ofNat 13 n }
        else s.mgmt) ∧
    (¬ mg → exec (w .pwrcap) s = .next s ∧ exec (w .mgmtvec) s = .next s ∧ ∀ k, exec (w (.fwarg k)) s = .next s) ∧
    (¬ opened → ∀ i j, exec (w (.qbase i)) s = .next s ∧ exec (w (.qcfg i)) s = .next s ∧ exec (w (.ctxWord i j)) s = .next s ∧
      exec (w (.lenderWord i j)) s = .next s ∧ exec (w (.borrowerWord i j)) s = .next s ∧ exec (w (.rfmctl i)) s = .next s ∧
      exec (w (.lstat i)) s = .next s ∧ exec (w (.gwqbase i)) s = .next s ∧ exec (w (.gwentry i)) s = .next s) ∧
    (opened → ∀ q < 64, let k := s.queue q;
      sets (.qbase q) (fun u => u.queue q = if k.enable then k else { k with qbase := v }) ∧
      sets (.qcfg q) (fun u => (u.queue q).vec = BitVec.ofNat 16 (n / 2 ^ 16) ∧ (u.queue q).enable = k.enable ∧
        (k.enable = true → (u.queue q).ctx = k.ctx ∧ (u.queue q).szlog2 = k.szlog2) ∧
        (k.enable = false → (u.queue q).ctx = BitVec.ofNat 8 (n / 2 ^ 40) ∧ (u.queue q).szlog2 = BitVec.ofNat 4 (n / 2 ^ 32))) ∧
      sets (.qhead q) fun u => (u.queue q).head = if k.st = .stopped then BitVec.ofNat 16 n else k.head) ∧
    (opened → ∀ c < 256, let k := s.ctx c; let free := k.st = .free ∨ k.st = .created;
      sets (.ctxWord c 0) (fun u => (u.ctx c).vec = BitVec.ofNat 16 (n / 2 ^ 48)) ∧
      sets (.ctxWord c 2) (fun u => u.ctx c = if free then { k with ptroot := v &&& 0xFFFFE00000 } else k) ∧
      sets (.ctxWord c 4) (fun u => let x := u.ctx c; x = { k with savebase := x.savebase, skew := x.skew } ∧
        x.savebase = (if free then v &&& 0xFFFFFFE00000 else k.savebase) ∧
        (4 ∈ x.skew ↔ if free then v &&& 0x1FFFFF ≠ 0 else 4 ∈ k.skew)) ∧
      sets (.kernelPartner c) fun u => u.ctx c = { k with partner := BitVec.ofNat 8 n, pvalid := decide (n / 2 ^ 8 % 2 = 1) }) ∧
    (opened → ∀ i < 4096, let l := s.lender i; let b := s.borrower i;
      sets (.lenderWord i 0) (fun u => u.lender i = if l.st = .revoked then { l with
        peer := BitVec.ofNat 10 (n / 2 ^ 51), w := decide (n / 2 ^ 50 % 2 = 1), r := decide (n / 2 ^ 49 % 2 = 1) } else l) ∧
      sets (.lenderWord i 1) (fun u => u.lender i = if l.st = .revoked then { l with
        size := BitVec.ofNat 20 (n / 2 ^ 44), base := BitVec.ofNat 19 (n / 2 ^ 21) } else l) ∧
      sets (.borrowerWord i 0) (fun u => u.borrower i = if b.st = .revoked then { b with
        peer := BitVec.ofNat 10 (n / 2 ^ 51), lidx := BitVec.ofNat 12 (n / 2 ^ 39), port := BitVec.ofNat 4 (n / 2 ^ 35),
        altport := BitVec.ofNat 4 (n / 2 ^ 31) } else b) ∧
      sets (.borrowerWord i 1) fun u => u.borrower i = if b.st = .revoked then { b with size := BitVec.ofNat 20 (n / 2 ^ 44) } else b) ∧
    (opened → ∀ k < 16, let lo := n % 2 ^ 16; let hi := n / 2 ^ 16 % 2 ^ 16; let x := s.spinel k;
      sets (.rfmctl k) fun u => u.spinel k = if lo = 0 ∨ hi < lo then x else { x with
        rfmEn := decide (n / 2 ^ 32 % 2 = 1), rfmHold := some (BitVec.ofNat 16 hi), rfmLevel := some (BitVec.ofNat 16 lo) }) ∧
    (opened → ∀ l < 3072, sets (.lstat l) fun u => (u.link l).crcerr = (s.link l).crcerr &&& ~~~(BitVec.ofNat 32 (n / 2 ^ 32)) ∧
      (u.link l).retry = (s.link l).retry &&& ~~~(BitVec.ofNat 16 (n / 2 ^ 16)) ∧ (u.link l).st = (s.link l).st) ∧
    (opened → ∀ i < 2, let g := s.gateway i;
      sets (.gwctl i) (fun u => u.gateway i = if g.enable then g else { g with
        ctx := BitVec.ofNat 8 (n / 2 ^ 40), szlog2 := BitVec.ofNat 4 (n / 2 ^ 32) }) ∧
      sets (.gwentry i) (fun u => (u.gateway i).entry.toNat = if g.enable then g.entry.toNat else n / 4 * 4) ∧
      sets (.tsrVec i) fun u => u.tsr i = { s.tsr i with vec := BitVec.ofNat 16 n }) ∧
    (∀ t off fixed, t < 768 → off < 0x2F0800 → let unit := sliceAddr t off / 8 * 8;
      Reaches (.softError (.slice t off) fixed) s fun u => u.mem = s.mem ∧
        (fixed = false → unit ∈ u.poison ∧ unit ∉ u.soft ∧ ∀ x, x ≠ unit → (x ∈ u.poison ↔ x ∈ s.poison)) ∧
        (fixed = true → u.poison = s.poison ∧ (unit ∉ s.poison → unit ∈ u.soft))) ∧
    (∀ t k i j fixed, t < 768 → k < 4 → i < 128 → j < 128 → Reaches (.softError (.accumulator t k i j) fixed) s fun u =>
      let a := (u.tile t).slots.get {} k; 128 * i + j ∈ a.parity ∧ a.elems = ((s.tile t).slots.get {} k).elems) ∧
    (∀ t k, exec (.softError (.loopSlot t k) true) s = .next s ∧
      exec (.softError (.loopSlot t k) false) s = exec (.loopFault t k) s)

/-! ### The rows of host queues, kernels, contexts and engines complete -/

/-- R260 to R265, R384, R387 to R390, R393 to R395: each row of the host queues and of the kernels answers a next state
that has its effect, under these conditions on the state alone: the doorbell and the two writes of QCFG, the five packets
at the head of their queue, the retest of a COND and the end of a packet, and placement, loading, a wave, STOP and
retirement. -/
def Obligations.QueueAndKernelRowsComplete : Prop :=
  ∀ (s : State) (q c : Nat), q < 64 → c < 256 → let k := s.queue q; let x := s.ctx c;
    let next := BitVec.ofNat 16 ((k.head.toNat % ringLen k + 1) % ringLen k);
    (s.mgmt.st = .ready → ∀ v : Word,
      (∃ t, exec (.doorbell q v) s = .next t ∧ (t.queue q).tail = BitVec.ofNat 16 v.toNat) ∧
      (v.getLsbD 0 = true → ∃ t, exec (.queueEnable q v) s = .next t ∧ (t.queue q).enable = true) ∧
      (v.getLsbD 0 = false → ∃ t, exec (.queueDisable q v) s = .next t ∧ (t.queue q).enable = false ∧
        (t.queue q).st = .stopped)) ∧
    (∀ ws, HeadHolds s q ws → let w := fun i => ws.getD i 0; let a := (w 1).toNat; let u := s.ctx k.ctx.toNat;
      (Clean ws 0 → NotFenced s q 0 ws → ∃ t, exec (.nop q) s = .next t ∧ (t.queue q).head = next) ∧
      (Clean ws 1 → NotFenced s q 1 ws → (w 2).getLsbD 0 = false → u.st ≠ .free → u.st ≠ .destroying → u.kst = .free →
        (∀ j < q, s.launchDue j = false) → ∀ i, s.parseKernel k.ctx.toNat (w 1) = .ok i →
        ∃ t, exec (.launch q) s = .next t ∧ (t.ctx k.ctx.toNat).kst = .placing ∧ (t.queue q).pending ≠ none) ∧
      (Clean ws 2 → NotFenced s q 2 ws → let n := (w 3).toNat; let b := (w 2).toNat; 0 < n → n ≤ 2 ^ 32 →
        (a + n ≤ b ∨ b + n ≤ a) → a + n ≤ 2 ^ 64 → b + n ≤ 2 ^ 64 → ∃ t, exec (.copy q) s = .next t ∧
          (t.queue q).head = next ∧ (t.queue q).started.length = k.started.length + 1) ∧
      (Clean ws 3 → NotFenced s q 3 ws → w 3 = 0 → a % 8 = 0 → s.soft = [] → ∀ pa,
        s.agateX k.ctx.toNat a 8 needW = some (.mem pa none) → pa + 8 ≤ 2 ^ 40 → s.partlyPoisoned pa 8 = false →
        ∃ t, exec (.signal q) s = .next t ∧ (t.queue q).head = next ∧ leNat (t.readRaw pa 8) = (w 2).toNat) ∧
      (Clean ws 4 → NotFenced s q 4 ws → (w 3).toNat % 8 < 6 → a % 8 = 0 → s.soft = [] → ∀ pa,
        s.agateX k.ctx.toNat a 8 needR = some (.mem pa none) → s.poisoned pa 8 = false →
        armCond ((w 3).toNat % 8) (BitVec.ofNat 64 (leNat (s.readRaw pa 8))) (w 2) = false →
        ∃ t, exec (.cond q) s = .next t ∧ (t.queue q).head = next)) ∧
    (∀ t0 ws, k.condAt = some t0 → 256 ≤ (s.time - t0).toNat → k.started = [] →
      HeadHolds (s.modQueue q fun k => { k with condAt := none }) q ws → Clean ws 4 → (ws.getD 3 0).toNat % 8 < 6 →
      let a := (ws.getD 1 0).toNat; a % 8 = 0 → s.soft = [] → ∀ pa,
      s.agateX k.ctx.toNat a 8 needR = some (.mem pa none) → s.poisoned pa 8 = false →
      armCond ((ws.getD 3 0).toNat % 8) (BitVec.ofNat 64 (leNat (s.readRaw pa 8))) (ws.getD 2 0) = false →
      ∃ t, exec (.condRetest q) s = .next t ∧ (t.queue q).head = next ∧ (t.queue q).condAt = none) ∧
    (∀ n r, k.started[n]? = some r → r.pieces = [] → r.done = true → k.condAt = none → k.head.toNat < ringLen k →
      k.st = .running → ∃ t, exec (.packetComplete q n) s = .next t ∧ (t.queue q).started = k.started.eraseIdx n) ∧
    (∀ p n, x.kst = .placing → (s.queue x.launchQ).pending = some p → (s.queue x.launchQ).ctx.toNat = c →
      (∀ j < x.launchQ, s.launchDue j = false) → (p.words.getD 2 0).getLsbD 0 = false → n < 768 →
      (∀ t ∈ rectangle (x.w1k.toNat + 1) (x.h1.toNat + 1) (n % 32) (n / 32), t ∉ s.fuses ∧ s.holder t = none) →
      ∃ t, exec (.placement c) s = .next t ∧ (t.ctx c).kst = .loading ∧ (t.queue x.launchQ).pending = none) ∧
    (∀ i, x.kst = .loading → x.stop = false → s.parseKernel c x.imageBase = .ok i →
      ∃ t, exec (.kernelLoaded c) s = .next t ∧ (t.ctx c).kst = .running) ∧
    (x.kst = .running ∨ x.kst = .draining → x.st ≠ .destroying → x.wave = none →
      ∃ t, exec (.quiescenceWave c) s = .next t ∧ (t.ctx c).wave = some (x.src, s.unsunk c)) ∧
    (x.kst = .retiring → ∃ t, exec (.retirementComplete c) s = .next t ∧ (t.ctx c).kst = .free) ∧
    (x.kst = .running → s.mgmt.st = .ready →
      ∃ t, exec (.kernelStop c) s = .next t ∧ (t.ctx c).kst = .draining ∧ (t.ctx c).stop = true)

/-- R397 to R401, R403 to R405: each command of a context answers a next state that has its effect, under the conditions
on the context that the rules give; so do the end of a command and a key write. -/
def Obligations.ContextRowsComplete : Prop :=
  ∀ (s : State) (c : Nat), c < 256 → s.mgmt.st = .ready → let k := s.ctx c;
    let saves := ∀ x ∈ coresOf k, s.saveTarget c (k.coreRecord x) ≠ none;
    (k.busy = false →
      (k.st = .free → s.createErr c = 0 → ∃ t, exec (.create c) s = .next t ∧ (t.ctx c).st = .created ∧ (t.ctx c).err = 0) ∧
      (k.st ≠ .free → ∃ t, exec (.clearf c) s = .next t ∧ (t.ctx c).flt = false ∧ (t.ctx c).err = 0) ∧
      (k.st = .active → k.w1.getLsbD 18 = true → saves → ∃ t, exec (.preempt c) s = .next t ∧
        (t.ctx c).cmd = .preempt ∧ (t.ctx c).waiting = coresOf k ∧ t.net.length = s.net.length + (coresOf k).length) ∧
      (k.st = .active ∨ k.st = .suspended → k.w1.getLsbD 18 = true → ∃ t, exec (.unfreeze c) s = .next t ∧
        (t.ctx c).cmd = .unfreeze ∧ (t.ctx c).st = .active ∧ t.net.length = s.net.length + (coresOf k).length) ∧
      (k.st = .suspended → saves → ∀ l, s.tileTargets c = some l → ∃ t, exec (.vacate c) s = .next t ∧
        (t.ctx c).cmd = .vacate ∧ (t.ctx c).busy = true) ∧
      (k.st = .vacated → s.soft = [] → ∀ l, s.tileTargets c = some l →
        (∀ t ∈ tilesOf k, s.recordOk t (s.getSaved l 10 (k.tileRecord t) 524288) = true) →
        ∃ t, exec (.restore c) s = .next t ∧ (t.ctx c).st = .suspended ∧ (t.ctx c).err = 0) ∧
      (k.st ≠ .free → k.st ≠ .destroying → ∃ t, exec (.destroy c) s = .next t ∧ (t.ctx c).st = .destroying ∧
        (t.ctx c).cmd = .destroy)) ∧
    (k.busy = true → k.cmd = .unfreeze → k.waiting = [] → ∃ t, exec (.contextCommandComplete c) s = .next t ∧
      (t.ctx c).busy = false ∧ t.msix = s.msix ++ [k.vec]) ∧
    (∀ slot key, slot < 2048 → ∃ t, exec (.keyWrite slot key) s = .next t ∧ t.key slot = key)

/-- R120, R200, R295, R300, R310, R316, R320, R328, R368, R401, R403, R420, R430: each row of captures, frozen cores, jobs
and the array answers a next state that has its effect, under these conditions on the state alone. -/
def Obligations.EngineRowsComplete : Prop :=
  (∀ (s : State) (n : Nat), (s.strand n).phase = .faulted →
    ∃ t, exec (.captureComplete n) s = .next t ∧ (t.strand n).phase = .savedFault .none) ∧
  (∀ (s : State) (core : Nat) e r, (s.core core).sfq = e :: r → (s.strand e.strand).phase = .running →
    (s.strand e.strand).resumeWait = false → ∃ t, exec (.sfCompletion core) s = .next t ∧ (t.core core).sfq = r) ∧
  (∀ (s : State) (k : Nat) (p : Packet), Arrived s k p →
    (∀ core c, p.body = .freeze core c → core < 8 → (s.ctx c).cmd ≠ .destroy → s.holder p.dst = some c →
      ∃ t, exec (.coreFreeze k) s = .next t ∧ (t.core (8 * p.dst + core)).frozen = true) ∧
    (∀ core c, p.body = .unfreeze core c → core < 8 → (s.ctx c).cmd ≠ .destroy → (s.core (8 * p.dst + core)).sfq = [] →
      (s.tile p.dst).loops = [] → s.soft = [] →
      ∃ t, exec (.coreUnfreeze k) s = .next t ∧ (t.core (8 * p.dst + core)).frozen = false) ∧
    (∀ v c, p.body = .resume v c → let n := v.toNat % 2 ^ 15; s.savedSst n = 2 → (s.core (n / 4)).frozen = false →
      (v.toNat / 2 ^ 16 % 2 = 1 → ∃ t, exec (.resumePacket k) s = .next t ∧ (t.strand n).phase = .idle) ∧
      (v.toNat / 2 ^ 16 % 2 = 0 → (s.strand n).pend = [] →
        ∃ t, exec (.resumePacket k) s = .next t ∧ (t.strand n).phase = .running ∧ (t.strand n).rsmd = true))) ∧
  (∀ (s : State) (core slot : Nat), core < 6144 → slot < 16 → let j := s.job core slot; let t0 := s.tile (core / 8);
    (j.st = .issued → s.released j.after = true → s.inOrder (core / 8) (core / 8) core slot = true → j.kind = .cpy →
      j.desc.getD 2 0 ≠ 0 → ∃ t, exec (.jobStart core slot) s = .next t ∧
        ((t.job core slot).st = .running ∨ (t.job core slot).st = .translating)) ∧
    (j.st = .running → j.kind = .cpy → (∀ p ∈ j.pieces, p.st = .done ∨ p.st = .failed) → j.comp = 0 →
      ∃ t, exec (.jobComplete core slot) s = .next t ∧ (t.job core slot).st = .completing ∧ (t.job core slot).action = .done) ∧
    (∀ w, j.action = .pushing w → j.st = .completing → t0.vacated = false → t0.replays = [] →
      let d := 8 * (core / 8) + j.comp1.toNat % 8; (s.core d).inq.length < 16 → (s.core d).inqFresh = 0 →
      s.strandPushes d = false → ∃ t, exec (.completionPush core slot) s = .next t ∧
        (t.core d).inq = (s.core d).inq ++ [w] ∧ (t.job core slot).action = .done) ∧
    (j.st = .completing → j.action = .done → ∃ t, exec (.jobFree core slot) s = .next t ∧ (t.job core slot).st = .free)) ∧
  (∀ (s : State) (r core slot idx : Nat) l a p b, (s.spinel r).waiting = (core, slot, idx) :: l →
    (s.spinel r).gens.length < 8 → (s.job core slot).pieces = a ++ p :: b → p.idx = idx → p.st = .spinel r →
    ∃ t, exec (.spinelPiece r) s = .next t ∧ (t.spinel r).waiting = l ∧
      (t.spinel r).gens = (s.spinel r).gens ++ [(core, slot, idx)]) ∧
  (∀ (s : State) (t0 : Nat), (s.tile t0).refillDue = true →
    ∃ t, exec (.rateCreditRefill t0) s = .next t ∧ (t.tile t0).refillDue = false) ∧
  (∀ (s : State) (v : Word) a r b, let tag := v.toNat % 2 ^ 32; s.tsrReqs = a ++ r :: b → (∀ x ∈ a ++ b, x.tag ≠ tag) →
    r.tag = tag → r.sent = true → ∀ core slot, r.who = .action core slot → v.getLsbD 32 = false →
    ∃ t, exec (.translationResponse r.unit v) s = .next t ∧ t.tsrReqs = a ++ b) ∧
  (∀ (s : State) (t0 n c : Nat) sa sb, (s.tile t0).vacated = false → (s.tile t0).supplies = [] →
    (s.tile t0).queue = [.mscl n c] → ((s.tile t0).slots.get {} n).staged = some (sa, sb) →
    ∃ t, exec (.arrayOperation t0) s = .next t ∧ (t.tile t0).queue = [] ∧
      (t.tile t0).slots.get {} n = { (s.tile t0).slots.get {} n with sa := sa, sb := sb, staged := none })

/-! ### The statements of several parts -/

/-- What a fetch gives, and the fault of a bad word or a failed fetch (model choices: log 83). Each part is stated,
with its rules, at its own definition. Where the rules leave a choice open, the parts state the model's own. -/
def Obligations.FetchGivesWordOrFault : Prop :=
  Sys2Proof.Claims.FetchReadsWordOrFaults ∧
    Sys2Proof.Claims.BadWordFaultsAtIssue

/-- Results of the integer register, immediate, half-word, PC-relative and bit-field instructions. Each part is
stated, with its rules, at its own definition. -/
def Obligations.IntegerAndImmediateResults : Prop :=
  Sys2Proof.Claims.IntegerRegisterResults ∧
    Sys2Proof.Claims.ImmediateResults

/-- Results of the predicate instructions; the registers that discard writes and read as constants. Each part is
stated, with its rules, at its own definition. -/
def Obligations.PredicatesAndConstantRegisters : Prop :=
  Sys2Proof.Claims.PredicateResults ∧
    Sys2Proof.Claims.ConstantRegistersDiscardWrites

/-- Where the strand stands after an instruction: the next one, the loop body, or a STEP breakpoint. Each part is
stated, with its rules, at its own definition. -/
def Obligations.InstructionEndsLoopBackAndBreak : Prop :=
  Sys2Proof.Claims.NextInstructionAndLoopBack ∧
    Sys2Proof.Claims.StepModeBreaksAfterInstruction

/-- BR, CALL, compare-branches, BP, JR, CALLR, RET and LOOP. Each part is stated, with its rules, at its own
definition. -/
def Obligations.ControlTransferInstructions : Prop :=
  Sys2Proof.Claims.BranchesTransferControl ∧
    Sys2Proof.Claims.RegisterJumpsCheckTarget ∧
    Sys2Proof.Claims.LoopSetsUpBody

/-- The checks of an access in their order, and the fault at issue of one that fails. Each part is stated, with its
rules, at its own definition. -/
def Obligations.AccessChecksAndTheirFaults : Prop :=
  Sys2Proof.Claims.AccessChecksInOrder ∧
    Sys2Proof.Claims.FailedCheckFaultsAtIssue

/-- Loads from the issuing tile's slice, and the deferred fault of poison (model choices: log 6, 14). Each part is
stated, with its rules, at its own definition. Where the rules leave a choice open, the parts state the model's own.
-/
def Obligations.LoadsAndPoisonOnOwnTile : Prop :=
  Sys2Proof.Claims.LoadsFromOwnTile ∧
    Sys2Proof.Claims.PoisonIsDeferredFault

/-- Stores and atomics on the issuing tile's slice, with their frame (model choices: log 6). Each part is stated, with
its rules, at its own definition. Where the rules leave a choice open, the parts state the model's own. -/
def Obligations.StoresAndAtomicsOnOwnTile : Prop :=
  Sys2Proof.Claims.StoresToOwnTile ∧
    Sys2Proof.Claims.AtomicsOnOwnTile

/-- Accesses whose home is elsewhere are issued, and what FENCE waits for (model choices: log 6, 13, 87, 88). Each
part is stated, with its rules, at its own definition. Where the rules leave a choice open, the parts state the
model's own. -/
def Obligations.AccessesElsewhereAndFences : Prop :=
  Sys2Proof.Claims.AccessesElsewhereAreSent ∧
    Sys2Proof.Claims.FenceWaitsForEarlierAccesses

/-- A fault makes its strand FAULTED; the first in program order is kept; TRAP and BRK (model choices: log 14, 44).
Each part is stated, with its rules, at its own definition. Where the rules leave a choice open, the parts state the
model's own. -/
def Obligations.FaultsOfStrands : Prop :=
  Sys2Proof.Claims.FaultAtIssueEntersFaulted ∧
    Sys2Proof.Claims.FirstFaultInProgramOrderIsKept ∧
    Sys2Proof.Claims.TrapAndBreakRaiseTheirFault

/-- SYSR gives the value of each system register; SYSW writes each writable one, and faults on the others (model
choices: log 59). Each part is stated, with its rules, at its own definition. Where the rules leave a choice open, the
parts state the model's own. -/
def Obligations.SystemRegistersReadAndWritten : Prop :=
  Sys2Proof.Claims.SystemRegisterReads ∧
    Sys2Proof.Claims.SystemRegisterWrites

/-- RESUME, the return from a fault through the strand's image, and what the image holds (model choices: log 25, 60).
Each part is stated, with its rules, at its own definition. Where the rules leave a choice open, the parts state the
model's own. -/
def Obligations.ResumeAndStrandImages : Prop :=
  Sys2Proof.Claims.ResumeSendsControlPacket ∧
    Sys2Proof.Claims.ReturnFromFaultRestoresStrand ∧
    Sys2Proof.Claims.ImageHoldsTheStrand

/-- SEND, SENDR and SENDL, and the way of their message to its tile (model choices: log 13, 26, 87). Each part is
stated, with its rules, at its own definition. Where the rules leave a choice open, the parts state the model's own.
-/
def Obligations.MessagesAreSent : Prop :=
  Sys2Proof.Claims.SentMessageTravelsToItsTile ∧
    Sys2Proof.Claims.SendPostsMessage ∧
    Sys2Proof.Claims.SendlPostsPayload

/-- SPAWN posts to the own tile or calls its handler inline (model choices: log 76, 77). Each part is stated, with its
rules, at its own definition. Where the rules leave a choice open, the parts state the model's own. -/
def Obligations.SpawnPostsOrCallsInline : Prop :=
  Sys2Proof.Claims.SpawnPostsToOwnTile ∧
    Sys2Proof.Claims.SpawnInlineCallsHandler

/-- REPLY, and END of a strand and of an inline child (model choices: log 24). Each part is stated, with its rules, at
its own definition. Where the rules leave a choice open, the parts state the model's own. -/
def Obligations.RepliesAndEndsOfStrands : Prop :=
  Sys2Proof.Claims.ReplyAnswersOnce ∧
    Sys2Proof.Claims.EndReleasesTheStrand ∧
    Sys2Proof.Claims.EndReturnsFromInlineChild

/-- HTSET, HTCLR, ARMW and REDLV (model choices: log 78). Each part is stated, with its rules, at its own definition.
Where the rules leave a choice open, the parts state the model's own. -/
def Obligations.HandlersWatchesAndRedelivery : Prop :=
  Sys2Proof.Claims.HandlerTableWrites ∧
    Sys2Proof.Claims.ArmwWatchesOrPosts ∧
    Sys2Proof.Claims.RedlvSendsRecordAgain

/-- Additions to a counter, CNTI, CNTA and CNTR. Each part is stated, with its rules, at its own definition. -/
def Obligations.CountersAndTheirInstructions : Prop :=
  Sys2Proof.Claims.CounterAdditions ∧
    Sys2Proof.Claims.CounterInstructions

/-- QPUSH, QPOP, QPEEK, QCNT, VQPUSH and VQPOP. Each part is stated, with its rules, at its own definition. -/
def Obligations.QueueInstructions : Prop :=
  Sys2Proof.Claims.QueueRegisters ∧
    Sys2Proof.Claims.VectorQueueForms

/-- CPY, CPY2, GATH, SCAT and the other commands of the copy engine, checked and issued; JPOLL, JWAIT, JCWAIT and ARMJ
(model choices: log 18, 35, 84). Each part is stated, with its rules, at its own definition. Where the rules leave a
choice open, the parts state the model's own. -/
def Obligations.CopyCommandsAndJobWaits : Prop :=
  Sys2Proof.Claims.CopyCommands ∧
    Sys2Proof.Claims.WaitingForJobs

/-- MMA, MMAG, MST, MZR, MSCL and GLOAD, checked and issued (model choices: log 35, 38). Each part is stated, with its
rules, at its own definition. Where the rules leave a choice open, the parts state the model's own. -/
def Obligations.ArrayAndGraphCommands : Prop :=
  Sys2Proof.Claims.ArrayAndGraphCommands ∧
    Sys2Proof.Claims.ZeroAccumulatorIsQueued ∧
    Sys2Proof.Claims.ScaleVectorsAreStaged

/-- GSWAP, GDRAIN, GBIND and GSTAT (model choices: log 42). Each part is stated, with its rules, at its own
definition. Where the rules leave a choice open, the parts state the model's own. -/
def Obligations.GraphInstructions : Prop :=
  Sys2Proof.Claims.GraphSwapAndDrain ∧
    Sys2Proof.Claims.GraphBindSetsStreams ∧
    Sys2Proof.Claims.GraphStatusReadAndClear

/-- CPLB, CPLU, CPLR and WGT, with the buffers, actuators and the cycle test they rest on (model choices: log 68, 85).
Each part is stated, with its rules, at its own definition. Where the rules leave a choice open, the parts state the
model's own. -/
def Obligations.LoopInstructions : Prop :=
  Sys2Proof.Claims.LoopBuffersAndActuators ∧
    Sys2Proof.Claims.CycleTestFindsEveryCycle ∧
    Sys2Proof.Claims.LoopBindingAndUpdate ∧
    Sys2Proof.Claims.LoopReadsAndStaticWeight

/-- Vector arithmetic, logic, moves, permutations, masks and compares, by element. Each part is stated, with its
rules, at its own definition. -/
def Obligations.VectorElementInstructions : Prop :=
  Sys2Proof.Claims.VectorArithmeticByElement ∧
    Sys2Proof.Claims.VectorMovesMasksAndCompare

/-- The vector conversions, reductions, scans, rank and top, and the random number instructions. Each part is stated,
with its rules, at its own definition. -/
def Obligations.VectorConversionsReductionsRandom : Prop :=
  Sys2Proof.Claims.VectorConversions ∧
    Sys2Proof.Claims.VectorReduceScanAndRank ∧
    Sys2Proof.Claims.RandomNumbers

/-- Vector loads and stores by element; special functions enter their queue (model choices: log 6, 9, 82). Each part
is stated, with its rules, at its own definition. Where the rules leave a choice open, the parts state the model's
own. -/
def Obligations.VectorMemoryAndSpecialFunctions : Prop :=
  Sys2Proof.Claims.VectorMemoryByElement ∧
    Sys2Proof.Claims.SpecialFunctionsAreQueued

/-- PROBE, the invalidation of translations, and refresh management (model choices: log 45, 58, 61). Each part is
stated, with its rules, at its own definition. Where the rules leave a choice open, the parts state the model's own.
-/
def Obligations.ProbesAndTranslations : Prop :=
  Sys2Proof.Claims.ProbeReportsThePage ∧
    Sys2Proof.Claims.InvalidationAndRefresh

/-- GWTAKE, GWDONE, and what GWCTL starts and stops (model choices: log 29). Each part is stated, with its rules, at
its own definition. Where the rules leave a choice open, the parts state the model's own. -/
def Obligations.GatewayInstructions : Prop :=
  Sys2Proof.Claims.GatewayTakesTheNextBlock ∧
    Sys2Proof.Claims.GatewayRetiresBlocks ∧
    Sys2Proof.Claims.GatewayStartAndStop

/-- The states of a link, the virtual channels of packets, and how flits cross it (model choices: log 13, 63, 86).
Each part is stated, with its rules, at its own definition. Where the rules leave a choice open, the parts state the
model's own. -/
def Obligations.LinksAndTheirFlits : Prop :=
  Sys2Proof.Claims.LinkStateTransitions ∧
    Sys2Proof.Claims.PacketsTakeVirtualChannels ∧
    Sys2Proof.Claims.FlitsCarryTheirCheck ∧
    Sys2Proof.Claims.FlitsCrossLinks

/-- The transitions of a lease, a peer's access under one, and accesses that leave for a lender (model choices: log
22, 62). Each part is stated, with its rules, at its own definition. Where the rules leave a choice open, the parts
state the model's own. -/
def Obligations.LeasesAndPeerAccesses : Prop :=
  Sys2Proof.Claims.LeaseTransitions ∧
    Sys2Proof.Claims.PeerAccessesUnderLeases ∧
    Sys2Proof.Claims.LeasedAccessesLeaveByAPort

/-- Messages, replies and counter increments that reach their tile (model choices: log 16, 17, 72, 80). Each part is
stated, with its rules, at its own definition. Where the rules leave a choice open, the parts state the model's own.
-/
def Obligations.ArrivalsAtATile : Prop :=
  Sys2Proof.Claims.MessagesEnterTheirLevel ∧
    Sys2Proof.Claims.RepliesAndIncrementsArrive

/-- The refill of a level from its ring, and the dispatch of a strand (model choices: log 57, 73). Each part is
stated, with its rules, at its own definition. Where the rules leave a choice open, the parts state the model's own.
-/
def Obligations.RefillAndDispatch : Prop :=
  Sys2Proof.Claims.RefillBringsRingEntriesBack ∧
    Sys2Proof.Claims.DispatchStartsAStrand

/-- Accesses and barrier operations performed at their home, and their answers (model choices: log 6, 13, 31, 81).
Each part is stated, with its rules, at its own definition. Where the rules leave a choice open, the parts state the
model's own. -/
def Obligations.AccessesAtTheirHome : Prop :=
  Sys2Proof.Claims.AccessRequestsArePerformed ∧
    Sys2Proof.Claims.AccessRepliesComeBack ∧
    Sys2Proof.Claims.BarrierStepsAtTheHome

/-- The capture of a faulted strand, special functions, and cores frozen and resumed (model choices: log 9, 25, 28,
60, 74, 94). Each part is stated, with its rules, at its own definition. Where the rules leave a choice open, the
parts state the model's own. -/
def Obligations.CapturesFreezesAndReloads : Prop :=
  Sys2Proof.Claims.CapturesAndSpecialFunctions ∧
    Sys2Proof.Claims.CoresFreezeAndResume

/-- The registers of host queues, and packets that start and complete (model choices: log 7, 43, 46, 48). Each part is
stated, with its rules, at its own definition. Where the rules leave a choice open, the parts state the model's own.
-/
def Obligations.HostQueuesAndPackets : Prop :=
  Sys2Proof.Claims.HostQueueRegisters ∧
    Sys2Proof.Claims.HostPacketsStart ∧
    Sys2Proof.Claims.HostPacketsComplete

/-- LAUNCH, placement, loading, draining and retirement of kernels (model choices: log 47, 50, 51, 52). Each part is
stated, with its rules, at its own definition. Where the rules leave a choice open, the parts state the model's own.
-/
def Obligations.KernelsArePlacedLoadedAndRetired : Prop :=
  Sys2Proof.Claims.LaunchesArePlaced ∧
    Sys2Proof.Claims.LoadingSetsTheTiles ∧
    Sys2Proof.Claims.KernelsDrainAndRetire

/-- The commands of a context, and the tiles it vacates and restores (model choices: log 53, 54, 55, 56, 75). Each
part is stated, with its rules, at its own definition. Where the rules leave a choice open, the parts state the
model's own. -/
def Obligations.ContextsAndTheirTiles : Prop :=
  Sys2Proof.Claims.ContextCommands ∧
    Sys2Proof.Claims.TilesVacatedAndRestored

/-- Jobs of the copy engine begin, and their pieces are performed (model choices: log 10, 32, 33). Each part is
stated, with its rules, at its own definition. Where the rules leave a choice open, the parts state the model's own.
-/
def Obligations.JobsAndTheirPieces : Prop :=
  Sys2Proof.Claims.JobsBeginWithTheirPieces ∧
    Sys2Proof.Claims.PiecesArePerformed

/-- Jobs end, handles are pushed, slots are freed, translation requests answered (model choices: log 36, 69). Each
part is stated, with its rules, at its own definition. Where the rules leave a choice open, the parts state the
model's own. -/
def Obligations.JobsEndAndHandles : Prop :=
  Sys2Proof.Claims.JobsEndWithTheirAction ∧
    Sys2Proof.Claims.HandlesArePushedAndSlotsFreed ∧
    Sys2Proof.Claims.TranslationRequestsAreAnswered

/-- Products, stores, zeroing and scaling at the head of the array's queue (model choices: log 38). Each part is
stated, with its rules, at its own definition. Where the rules leave a choice open, the parts state the model's own.
-/
def Obligations.ArrayOperations : Prop :=
  Sys2Proof.Claims.ProductsAccumulate ∧
    Sys2Proof.Claims.SlotsAreStoredZeroedAndScaled

/-- The parts of MMAG: offered, started, and their steps consumed (model choices: log 39). Each part is stated, with
its rules, at its own definition. Where the rules leave a choice open, the parts state the model's own. -/
def Obligations.ArraysOfSeveralTiles : Prop :=
  Sys2Proof.Claims.PartsAreOfferedAndStarted ∧
    Sys2Proof.Claims.PartsConsumeTheirSteps

/-- A clock of the fabric, and the loading of a graph's image (model choices: log 40, 90). Each part is stated, with
its rules, at its own definition. Where the rules leave a choice open, the parts state the model's own. -/
def Obligations.GraphsComputeAndLoad : Prop :=
  Sys2Proof.Claims.FabricComputesItsGraph ∧
    Sys2Proof.Claims.GraphImagesAreLoaded

/-- Drains, chains, and the protection of a graph's configuration (model choices: log 41, 42, 92). Each part is
stated, with its rules, at its own definition. Where the rules leave a choice open, the parts state the model's own.
-/
def Obligations.GraphDrainsChainsAndErrors : Prop :=
  Sys2Proof.Claims.DrainsEndAndChainsForm ∧
    Sys2Proof.Claims.ConfigurationIsProtected

/-- The entries of groups, their packets, and the multicasts of a domain (model choices: log 19, 20, 79, 88). Each
part is stated, with its rules, at its own definition. Where the rules leave a choice open, the parts state the
model's own. -/
def Obligations.GroupsAndMulticasts : Prop :=
  Sys2Proof.Claims.GroupEntriesChangeState ∧
    Sys2Proof.Claims.GroupPacketsSpread ∧
    Sys2Proof.Claims.DomainMulticastsEndWithEveryOutcome

/-- Resets, updates, power, attestation, the host's register writes, and soft errors (model choices: log 3, 4, 58, 64,
65, 66, 67, 89). Each part is stated, with its rules, at its own definition. Where the rules leave a choice open, the
parts state the model's own. -/
def Obligations.ResetsManagementAndRegisters : Prop :=
  Sys2Proof.Claims.ResetsAndFatalErrors ∧
    Sys2Proof.Claims.UpdatesResetTheFirmware ∧
    Sys2Proof.Claims.PowerAndAttestation ∧
    Sys2Proof.Claims.RegisterWritesAndSoftErrors
end

