-- ==== Sys2Proof/Laws/State.lean ====
section
/-! SUPPORT. The small lemmas of the state: what each update of one part leaves of every field, and what
reading a part gives after a part has been written. -/

namespace Sys2Proof.Machine

/-! ### Sparse maps -/

theorem SMap.get_filter_ne {α : Type} (m : SMap α) (d : α) {k j : Nat} (h : j ≠ k) :
    SMap.get (m.filter fun e => e.1 != k) d j = SMap.get m d j := by
  induction m with
  | nil => rfl
  | cons e r ih =>
    obtain ⟨i, v⟩ := e
    by_cases hi : i = k
    · subst hi
      simp [SMap.get, ih, Ne.symm h]
    · by_cases hj : i = j
      · subst hj; simp [SMap.get, h]
      · simp [SMap.get, hi, hj, ih]

@[simp] theorem SMap.get_set_same {α : Type} (m : SMap α) (d : α) (k : Nat) (v : α) :
    SMap.get (m.set k v) d k = v := by simp [SMap.set, SMap.get]

theorem SMap.get_set_ne {α : Type} (m : SMap α) (d : α) (v : α) {k j : Nat} (h : j ≠ k) :
    SMap.get (m.set k v) d j = SMap.get m d j := by
  simp [SMap.set, SMap.get, Ne.symm h, SMap.get_filter_ne m d h]

theorem SMap.set_set {α : Type} (m : SMap α) (k : Nat) (v w : α) : (m.set k v).set k w = m.set k w := by
  simp [SMap.set]

/-! ### One lemma per field per update -/

@[simp] theorem State.setStrand_mem (s : State) (n : Nat) (x : Strand) : (s.setStrand n x).mem = s.mem := rfl
@[simp] theorem State.setStrand_poison (s : State) (n : Nat) (x : Strand) : (s.setStrand n x).poison = s.poison := rfl
@[simp] theorem State.setStrand_soft (s : State) (n : Nat) (x : Strand) : (s.setStrand n x).soft = s.soft := rfl
@[simp] theorem State.setStrand_time (s : State) (n : Nat) (x : Strand) : (s.setStrand n x).time = s.time := rfl
@[simp] theorem State.setStrand_nextId (s : State) (n : Nat) (x : Strand) : (s.setStrand n x).nextId = s.nextId := rfl
@[simp] theorem State.setStrand_cores (s : State) (n : Nat) (x : Strand) : (s.setStrand n x).cores = s.cores := rfl
@[simp] theorem State.setStrand_tiles (s : State) (n : Nat) (x : Strand) : (s.setStrand n x).tiles = s.tiles := rfl
@[simp] theorem State.setStrand_ctxs (s : State) (n : Nat) (x : Strand) : (s.setStrand n x).ctxs = s.ctxs := rfl
@[simp] theorem State.setStrand_queues (s : State) (n : Nat) (x : Strand) : (s.setStrand n x).queues = s.queues := rfl
@[simp] theorem State.setStrand_keys (s : State) (n : Nat) (x : Strand) : (s.setStrand n x).keys = s.keys := rfl
@[simp] theorem State.setStrand_domains (s : State) (n : Nat) (x : Strand) : (s.setStrand n x).domains = s.domains := rfl
@[simp] theorem State.setStrand_mcasts (s : State) (n : Nat) (x : Strand) : (s.setStrand n x).mcasts = s.mcasts := rfl
@[simp] theorem State.setStrand_lenders (s : State) (n : Nat) (x : Strand) : (s.setStrand n x).lenders = s.lenders := rfl
@[simp] theorem State.setStrand_borrowers (s : State) (n : Nat) (x : Strand) : (s.setStrand n x).borrowers = s.borrowers := rfl
@[simp] theorem State.setStrand_tinv (s : State) (n : Nat) (x : Strand) : (s.setStrand n x).tinv = s.tinv := rfl
@[simp] theorem State.setStrand_tinvBusy (s : State) (n : Nat) (x : Strand) : (s.setStrand n x).tinvBusy = s.tinvBusy := rfl
@[simp] theorem State.setStrand_tsrs (s : State) (n : Nat) (x : Strand) : (s.setStrand n x).tsrs = s.tsrs := rfl
@[simp] theorem State.setStrand_tsrReqs (s : State) (n : Nat) (x : Strand) : (s.setStrand n x).tsrReqs = s.tsrReqs := rfl
@[simp] theorem State.setStrand_spinels (s : State) (n : Nat) (x : Strand) : (s.setStrand n x).spinels = s.spinels := rfl
@[simp] theorem State.setStrand_links (s : State) (n : Nat) (x : Strand) : (s.setStrand n x).links = s.links := rfl
@[simp] theorem State.setStrand_gateways (s : State) (n : Nat) (x : Strand) : (s.setStrand n x).gateways = s.gateways := rfl
@[simp] theorem State.setStrand_mgmt (s : State) (n : Nat) (x : Strand) : (s.setStrand n x).mgmt = s.mgmt := rfl
@[simp] theorem State.setStrand_fuses (s : State) (n : Nat) (x : Strand) : (s.setStrand n x).fuses = s.fuses := rfl
@[simp] theorem State.setStrand_net (s : State) (n : Nat) (x : Strand) : (s.setStrand n x).net = s.net := rfl
@[simp] theorem State.setStrand_acc (s : State) (n : Nat) (x : Strand) : (s.setStrand n x).acc = s.acc := rfl
@[simp] theorem State.setStrand_msix (s : State) (n : Nat) (x : Strand) : (s.setStrand n x).msix = s.msix := rfl
@[simp] theorem State.setStrand_notices (s : State) (n : Nat) (x : Strand) : (s.setStrand n x).notices = s.notices := rfl
@[simp] theorem State.setStrand_sent (s : State) (n : Nat) (x : Strand) : (s.setStrand n x).sent = s.sent := rfl
@[simp] theorem State.setStrand_agenda (s : State) (n : Nat) (x : Strand) : (s.setStrand n x).agenda = s.agenda := rfl
@[simp] theorem State.setStrand_cur (s : State) (n : Nat) (x : Strand) : (s.setStrand n x).cur = s.cur := rfl

@[simp] theorem State.modStrand_mem (s : State) (n : Nat) (f : Strand → Strand) : (s.modStrand n f).mem = s.mem := rfl
@[simp] theorem State.modStrand_poison (s : State) (n : Nat) (f : Strand → Strand) : (s.modStrand n f).poison = s.poison := rfl
@[simp] theorem State.modStrand_soft (s : State) (n : Nat) (f : Strand → Strand) : (s.modStrand n f).soft = s.soft := rfl
@[simp] theorem State.modStrand_time (s : State) (n : Nat) (f : Strand → Strand) : (s.modStrand n f).time = s.time := rfl
@[simp] theorem State.modStrand_nextId (s : State) (n : Nat) (f : Strand → Strand) : (s.modStrand n f).nextId = s.nextId := rfl
@[simp] theorem State.modStrand_cores (s : State) (n : Nat) (f : Strand → Strand) : (s.modStrand n f).cores = s.cores := rfl
@[simp] theorem State.modStrand_tiles (s : State) (n : Nat) (f : Strand → Strand) : (s.modStrand n f).tiles = s.tiles := rfl
@[simp] theorem State.modStrand_ctxs (s : State) (n : Nat) (f : Strand → Strand) : (s.modStrand n f).ctxs = s.ctxs := rfl
@[simp] theorem State.modStrand_queues (s : State) (n : Nat) (f : Strand → Strand) : (s.modStrand n f).queues = s.queues := rfl
@[simp] theorem State.modStrand_keys (s : State) (n : Nat) (f : Strand → Strand) : (s.modStrand n f).keys = s.keys := rfl
@[simp] theorem State.modStrand_domains (s : State) (n : Nat) (f : Strand → Strand) : (s.modStrand n f).domains = s.domains := rfl
@[simp] theorem State.modStrand_mcasts (s : State) (n : Nat) (f : Strand → Strand) : (s.modStrand n f).mcasts = s.mcasts := rfl
@[simp] theorem State.modStrand_lenders (s : State) (n : Nat) (f : Strand → Strand) : (s.modStrand n f).lenders = s.lenders := rfl
@[simp] theorem State.modStrand_borrowers (s : State) (n : Nat) (f : Strand → Strand) : (s.modStrand n f).borrowers = s.borrowers := rfl
@[simp] theorem State.modStrand_tinv (s : State) (n : Nat) (f : Strand → Strand) : (s.modStrand n f).tinv = s.tinv := rfl
@[simp] theorem State.modStrand_tinvBusy (s : State) (n : Nat) (f : Strand → Strand) : (s.modStrand n f).tinvBusy = s.tinvBusy := rfl
@[simp] theorem State.modStrand_tsrs (s : State) (n : Nat) (f : Strand → Strand) : (s.modStrand n f).tsrs = s.tsrs := rfl
@[simp] theorem State.modStrand_tsrReqs (s : State) (n : Nat) (f : Strand → Strand) : (s.modStrand n f).tsrReqs = s.tsrReqs := rfl
@[simp] theorem State.modStrand_spinels (s : State) (n : Nat) (f : Strand → Strand) : (s.modStrand n f).spinels = s.spinels := rfl
@[simp] theorem State.modStrand_links (s : State) (n : Nat) (f : Strand → Strand) : (s.modStrand n f).links = s.links := rfl
@[simp] theorem State.modStrand_gateways (s : State) (n : Nat) (f : Strand → Strand) : (s.modStrand n f).gateways = s.gateways := rfl
@[simp] theorem State.modStrand_mgmt (s : State) (n : Nat) (f : Strand → Strand) : (s.modStrand n f).mgmt = s.mgmt := rfl
@[simp] theorem State.modStrand_fuses (s : State) (n : Nat) (f : Strand → Strand) : (s.modStrand n f).fuses = s.fuses := rfl
@[simp] theorem State.modStrand_net (s : State) (n : Nat) (f : Strand → Strand) : (s.modStrand n f).net = s.net := rfl
@[simp] theorem State.modStrand_acc (s : State) (n : Nat) (f : Strand → Strand) : (s.modStrand n f).acc = s.acc := rfl
@[simp] theorem State.modStrand_msix (s : State) (n : Nat) (f : Strand → Strand) : (s.modStrand n f).msix = s.msix := rfl
@[simp] theorem State.modStrand_notices (s : State) (n : Nat) (f : Strand → Strand) : (s.modStrand n f).notices = s.notices := rfl
@[simp] theorem State.modStrand_sent (s : State) (n : Nat) (f : Strand → Strand) : (s.modStrand n f).sent = s.sent := rfl
@[simp] theorem State.modStrand_agenda (s : State) (n : Nat) (f : Strand → Strand) : (s.modStrand n f).agenda = s.agenda := rfl
@[simp] theorem State.modStrand_cur (s : State) (n : Nat) (f : Strand → Strand) : (s.modStrand n f).cur = s.cur := rfl

@[simp] theorem State.setCore_mem (s : State) (n : Nat) (x : Core) : (s.setCore n x).mem = s.mem := rfl
@[simp] theorem State.setCore_poison (s : State) (n : Nat) (x : Core) : (s.setCore n x).poison = s.poison := rfl
@[simp] theorem State.setCore_soft (s : State) (n : Nat) (x : Core) : (s.setCore n x).soft = s.soft := rfl
@[simp] theorem State.setCore_time (s : State) (n : Nat) (x : Core) : (s.setCore n x).time = s.time := rfl
@[simp] theorem State.setCore_nextId (s : State) (n : Nat) (x : Core) : (s.setCore n x).nextId = s.nextId := rfl
@[simp] theorem State.setCore_strands (s : State) (n : Nat) (x : Core) : (s.setCore n x).strands = s.strands := rfl
@[simp] theorem State.setCore_tiles (s : State) (n : Nat) (x : Core) : (s.setCore n x).tiles = s.tiles := rfl
@[simp] theorem State.setCore_ctxs (s : State) (n : Nat) (x : Core) : (s.setCore n x).ctxs = s.ctxs := rfl
@[simp] theorem State.setCore_queues (s : State) (n : Nat) (x : Core) : (s.setCore n x).queues = s.queues := rfl
@[simp] theorem State.setCore_keys (s : State) (n : Nat) (x : Core) : (s.setCore n x).keys = s.keys := rfl
@[simp] theorem State.setCore_domains (s : State) (n : Nat) (x : Core) : (s.setCore n x).domains = s.domains := rfl
@[simp] theorem State.setCore_mcasts (s : State) (n : Nat) (x : Core) : (s.setCore n x).mcasts = s.mcasts := rfl
@[simp] theorem State.setCore_lenders (s : State) (n : Nat) (x : Core) : (s.setCore n x).lenders = s.lenders := rfl
@[simp] theorem State.setCore_borrowers (s : State) (n : Nat) (x : Core) : (s.setCore n x).borrowers = s.borrowers := rfl
@[simp] theorem State.setCore_tinv (s : State) (n : Nat) (x : Core) : (s.setCore n x).tinv = s.tinv := rfl
@[simp] theorem State.setCore_tinvBusy (s : State) (n : Nat) (x : Core) : (s.setCore n x).tinvBusy = s.tinvBusy := rfl
@[simp] theorem State.setCore_tsrs (s : State) (n : Nat) (x : Core) : (s.setCore n x).tsrs = s.tsrs := rfl
@[simp] theorem State.setCore_tsrReqs (s : State) (n : Nat) (x : Core) : (s.setCore n x).tsrReqs = s.tsrReqs := rfl
@[simp] theorem State.setCore_spinels (s : State) (n : Nat) (x : Core) : (s.setCore n x).spinels = s.spinels := rfl
@[simp] theorem State.setCore_links (s : State) (n : Nat) (x : Core) : (s.setCore n x).links = s.links := rfl
@[simp] theorem State.setCore_gateways (s : State) (n : Nat) (x : Core) : (s.setCore n x).gateways = s.gateways := rfl
@[simp] theorem State.setCore_mgmt (s : State) (n : Nat) (x : Core) : (s.setCore n x).mgmt = s.mgmt := rfl
@[simp] theorem State.setCore_fuses (s : State) (n : Nat) (x : Core) : (s.setCore n x).fuses = s.fuses := rfl
@[simp] theorem State.setCore_net (s : State) (n : Nat) (x : Core) : (s.setCore n x).net = s.net := rfl
@[simp] theorem State.setCore_acc (s : State) (n : Nat) (x : Core) : (s.setCore n x).acc = s.acc := rfl
@[simp] theorem State.setCore_msix (s : State) (n : Nat) (x : Core) : (s.setCore n x).msix = s.msix := rfl
@[simp] theorem State.setCore_notices (s : State) (n : Nat) (x : Core) : (s.setCore n x).notices = s.notices := rfl
@[simp] theorem State.setCore_sent (s : State) (n : Nat) (x : Core) : (s.setCore n x).sent = s.sent := rfl
@[simp] theorem State.setCore_agenda (s : State) (n : Nat) (x : Core) : (s.setCore n x).agenda = s.agenda := rfl
@[simp] theorem State.setCore_cur (s : State) (n : Nat) (x : Core) : (s.setCore n x).cur = s.cur := rfl

@[simp] theorem State.modCore_mem (s : State) (n : Nat) (f : Core → Core) : (s.modCore n f).mem = s.mem := rfl
@[simp] theorem State.modCore_poison (s : State) (n : Nat) (f : Core → Core) : (s.modCore n f).poison = s.poison := rfl
@[simp] theorem State.modCore_soft (s : State) (n : Nat) (f : Core → Core) : (s.modCore n f).soft = s.soft := rfl
@[simp] theorem State.modCore_time (s : State) (n : Nat) (f : Core → Core) : (s.modCore n f).time = s.time := rfl
@[simp] theorem State.modCore_nextId (s : State) (n : Nat) (f : Core → Core) : (s.modCore n f).nextId = s.nextId := rfl
@[simp] theorem State.modCore_strands (s : State) (n : Nat) (f : Core → Core) : (s.modCore n f).strands = s.strands := rfl
@[simp] theorem State.modCore_tiles (s : State) (n : Nat) (f : Core → Core) : (s.modCore n f).tiles = s.tiles := rfl
@[simp] theorem State.modCore_ctxs (s : State) (n : Nat) (f : Core → Core) : (s.modCore n f).ctxs = s.ctxs := rfl
@[simp] theorem State.modCore_queues (s : State) (n : Nat) (f : Core → Core) : (s.modCore n f).queues = s.queues := rfl
@[simp] theorem State.modCore_keys (s : State) (n : Nat) (f : Core → Core) : (s.modCore n f).keys = s.keys := rfl
@[simp] theorem State.modCore_domains (s : State) (n : Nat) (f : Core → Core) : (s.modCore n f).domains = s.domains := rfl
@[simp] theorem State.modCore_mcasts (s : State) (n : Nat) (f : Core → Core) : (s.modCore n f).mcasts = s.mcasts := rfl
@[simp] theorem State.modCore_lenders (s : State) (n : Nat) (f : Core → Core) : (s.modCore n f).lenders = s.lenders := rfl
@[simp] theorem State.modCore_borrowers (s : State) (n : Nat) (f : Core → Core) : (s.modCore n f).borrowers = s.borrowers := rfl
@[simp] theorem State.modCore_tinv (s : State) (n : Nat) (f : Core → Core) : (s.modCore n f).tinv = s.tinv := rfl
@[simp] theorem State.modCore_tinvBusy (s : State) (n : Nat) (f : Core → Core) : (s.modCore n f).tinvBusy = s.tinvBusy := rfl
@[simp] theorem State.modCore_tsrs (s : State) (n : Nat) (f : Core → Core) : (s.modCore n f).tsrs = s.tsrs := rfl
@[simp] theorem State.modCore_tsrReqs (s : State) (n : Nat) (f : Core → Core) : (s.modCore n f).tsrReqs = s.tsrReqs := rfl
@[simp] theorem State.modCore_spinels (s : State) (n : Nat) (f : Core → Core) : (s.modCore n f).spinels = s.spinels := rfl
@[simp] theorem State.modCore_links (s : State) (n : Nat) (f : Core → Core) : (s.modCore n f).links = s.links := rfl
@[simp] theorem State.modCore_gateways (s : State) (n : Nat) (f : Core → Core) : (s.modCore n f).gateways = s.gateways := rfl
@[simp] theorem State.modCore_mgmt (s : State) (n : Nat) (f : Core → Core) : (s.modCore n f).mgmt = s.mgmt := rfl
@[simp] theorem State.modCore_fuses (s : State) (n : Nat) (f : Core → Core) : (s.modCore n f).fuses = s.fuses := rfl
@[simp] theorem State.modCore_net (s : State) (n : Nat) (f : Core → Core) : (s.modCore n f).net = s.net := rfl
@[simp] theorem State.modCore_acc (s : State) (n : Nat) (f : Core → Core) : (s.modCore n f).acc = s.acc := rfl
@[simp] theorem State.modCore_msix (s : State) (n : Nat) (f : Core → Core) : (s.modCore n f).msix = s.msix := rfl
@[simp] theorem State.modCore_notices (s : State) (n : Nat) (f : Core → Core) : (s.modCore n f).notices = s.notices := rfl
@[simp] theorem State.modCore_sent (s : State) (n : Nat) (f : Core → Core) : (s.modCore n f).sent = s.sent := rfl
@[simp] theorem State.modCore_agenda (s : State) (n : Nat) (f : Core → Core) : (s.modCore n f).agenda = s.agenda := rfl
@[simp] theorem State.modCore_cur (s : State) (n : Nat) (f : Core → Core) : (s.modCore n f).cur = s.cur := rfl

@[simp] theorem State.setTile_mem (s : State) (n : Nat) (x : Tile) : (s.setTile n x).mem = s.mem := rfl
@[simp] theorem State.setTile_poison (s : State) (n : Nat) (x : Tile) : (s.setTile n x).poison = s.poison := rfl
@[simp] theorem State.setTile_soft (s : State) (n : Nat) (x : Tile) : (s.setTile n x).soft = s.soft := rfl
@[simp] theorem State.setTile_time (s : State) (n : Nat) (x : Tile) : (s.setTile n x).time = s.time := rfl
@[simp] theorem State.setTile_nextId (s : State) (n : Nat) (x : Tile) : (s.setTile n x).nextId = s.nextId := rfl
@[simp] theorem State.setTile_strands (s : State) (n : Nat) (x : Tile) : (s.setTile n x).strands = s.strands := rfl
@[simp] theorem State.setTile_cores (s : State) (n : Nat) (x : Tile) : (s.setTile n x).cores = s.cores := rfl
@[simp] theorem State.setTile_ctxs (s : State) (n : Nat) (x : Tile) : (s.setTile n x).ctxs = s.ctxs := rfl
@[simp] theorem State.setTile_queues (s : State) (n : Nat) (x : Tile) : (s.setTile n x).queues = s.queues := rfl
@[simp] theorem State.setTile_keys (s : State) (n : Nat) (x : Tile) : (s.setTile n x).keys = s.keys := rfl
@[simp] theorem State.setTile_domains (s : State) (n : Nat) (x : Tile) : (s.setTile n x).domains = s.domains := rfl
@[simp] theorem State.setTile_mcasts (s : State) (n : Nat) (x : Tile) : (s.setTile n x).mcasts = s.mcasts := rfl
@[simp] theorem State.setTile_lenders (s : State) (n : Nat) (x : Tile) : (s.setTile n x).lenders = s.lenders := rfl
@[simp] theorem State.setTile_borrowers (s : State) (n : Nat) (x : Tile) : (s.setTile n x).borrowers = s.borrowers := rfl
@[simp] theorem State.setTile_tinv (s : State) (n : Nat) (x : Tile) : (s.setTile n x).tinv = s.tinv := rfl
@[simp] theorem State.setTile_tinvBusy (s : State) (n : Nat) (x : Tile) : (s.setTile n x).tinvBusy = s.tinvBusy := rfl
@[simp] theorem State.setTile_tsrs (s : State) (n : Nat) (x : Tile) : (s.setTile n x).tsrs = s.tsrs := rfl
@[simp] theorem State.setTile_tsrReqs (s : State) (n : Nat) (x : Tile) : (s.setTile n x).tsrReqs = s.tsrReqs := rfl
@[simp] theorem State.setTile_spinels (s : State) (n : Nat) (x : Tile) : (s.setTile n x).spinels = s.spinels := rfl
@[simp] theorem State.setTile_links (s : State) (n : Nat) (x : Tile) : (s.setTile n x).links = s.links := rfl
@[simp] theorem State.setTile_gateways (s : State) (n : Nat) (x : Tile) : (s.setTile n x).gateways = s.gateways := rfl
@[simp] theorem State.setTile_mgmt (s : State) (n : Nat) (x : Tile) : (s.setTile n x).mgmt = s.mgmt := rfl
@[simp] theorem State.setTile_fuses (s : State) (n : Nat) (x : Tile) : (s.setTile n x).fuses = s.fuses := rfl
@[simp] theorem State.setTile_net (s : State) (n : Nat) (x : Tile) : (s.setTile n x).net = s.net := rfl
@[simp] theorem State.setTile_acc (s : State) (n : Nat) (x : Tile) : (s.setTile n x).acc = s.acc := rfl
@[simp] theorem State.setTile_msix (s : State) (n : Nat) (x : Tile) : (s.setTile n x).msix = s.msix := rfl
@[simp] theorem State.setTile_notices (s : State) (n : Nat) (x : Tile) : (s.setTile n x).notices = s.notices := rfl
@[simp] theorem State.setTile_sent (s : State) (n : Nat) (x : Tile) : (s.setTile n x).sent = s.sent := rfl
@[simp] theorem State.setTile_agenda (s : State) (n : Nat) (x : Tile) : (s.setTile n x).agenda = s.agenda := rfl
@[simp] theorem State.setTile_cur (s : State) (n : Nat) (x : Tile) : (s.setTile n x).cur = s.cur := rfl

@[simp] theorem State.modTile_mem (s : State) (n : Nat) (f : Tile → Tile) : (s.modTile n f).mem = s.mem := rfl
@[simp] theorem State.modTile_poison (s : State) (n : Nat) (f : Tile → Tile) : (s.modTile n f).poison = s.poison := rfl
@[simp] theorem State.modTile_soft (s : State) (n : Nat) (f : Tile → Tile) : (s.modTile n f).soft = s.soft := rfl
@[simp] theorem State.modTile_time (s : State) (n : Nat) (f : Tile → Tile) : (s.modTile n f).time = s.time := rfl
@[simp] theorem State.modTile_nextId (s : State) (n : Nat) (f : Tile → Tile) : (s.modTile n f).nextId = s.nextId := rfl
@[simp] theorem State.modTile_strands (s : State) (n : Nat) (f : Tile → Tile) : (s.modTile n f).strands = s.strands := rfl
@[simp] theorem State.modTile_cores (s : State) (n : Nat) (f : Tile → Tile) : (s.modTile n f).cores = s.cores := rfl
@[simp] theorem State.modTile_ctxs (s : State) (n : Nat) (f : Tile → Tile) : (s.modTile n f).ctxs = s.ctxs := rfl
@[simp] theorem State.modTile_queues (s : State) (n : Nat) (f : Tile → Tile) : (s.modTile n f).queues = s.queues := rfl
@[simp] theorem State.modTile_keys (s : State) (n : Nat) (f : Tile → Tile) : (s.modTile n f).keys = s.keys := rfl
@[simp] theorem State.modTile_domains (s : State) (n : Nat) (f : Tile → Tile) : (s.modTile n f).domains = s.domains := rfl
@[simp] theorem State.modTile_mcasts (s : State) (n : Nat) (f : Tile → Tile) : (s.modTile n f).mcasts = s.mcasts := rfl
@[simp] theorem State.modTile_lenders (s : State) (n : Nat) (f : Tile → Tile) : (s.modTile n f).lenders = s.lenders := rfl
@[simp] theorem State.modTile_borrowers (s : State) (n : Nat) (f : Tile → Tile) : (s.modTile n f).borrowers = s.borrowers := rfl
@[simp] theorem State.modTile_tinv (s : State) (n : Nat) (f : Tile → Tile) : (s.modTile n f).tinv = s.tinv := rfl
@[simp] theorem State.modTile_tinvBusy (s : State) (n : Nat) (f : Tile → Tile) : (s.modTile n f).tinvBusy = s.tinvBusy := rfl
@[simp] theorem State.modTile_tsrs (s : State) (n : Nat) (f : Tile → Tile) : (s.modTile n f).tsrs = s.tsrs := rfl
@[simp] theorem State.modTile_tsrReqs (s : State) (n : Nat) (f : Tile → Tile) : (s.modTile n f).tsrReqs = s.tsrReqs := rfl
@[simp] theorem State.modTile_spinels (s : State) (n : Nat) (f : Tile → Tile) : (s.modTile n f).spinels = s.spinels := rfl
@[simp] theorem State.modTile_links (s : State) (n : Nat) (f : Tile → Tile) : (s.modTile n f).links = s.links := rfl
@[simp] theorem State.modTile_gateways (s : State) (n : Nat) (f : Tile → Tile) : (s.modTile n f).gateways = s.gateways := rfl
@[simp] theorem State.modTile_mgmt (s : State) (n : Nat) (f : Tile → Tile) : (s.modTile n f).mgmt = s.mgmt := rfl
@[simp] theorem State.modTile_fuses (s : State) (n : Nat) (f : Tile → Tile) : (s.modTile n f).fuses = s.fuses := rfl
@[simp] theorem State.modTile_net (s : State) (n : Nat) (f : Tile → Tile) : (s.modTile n f).net = s.net := rfl
@[simp] theorem State.modTile_acc (s : State) (n : Nat) (f : Tile → Tile) : (s.modTile n f).acc = s.acc := rfl
@[simp] theorem State.modTile_msix (s : State) (n : Nat) (f : Tile → Tile) : (s.modTile n f).msix = s.msix := rfl
@[simp] theorem State.modTile_notices (s : State) (n : Nat) (f : Tile → Tile) : (s.modTile n f).notices = s.notices := rfl
@[simp] theorem State.modTile_sent (s : State) (n : Nat) (f : Tile → Tile) : (s.modTile n f).sent = s.sent := rfl
@[simp] theorem State.modTile_agenda (s : State) (n : Nat) (f : Tile → Tile) : (s.modTile n f).agenda = s.agenda := rfl
@[simp] theorem State.modTile_cur (s : State) (n : Nat) (f : Tile → Tile) : (s.modTile n f).cur = s.cur := rfl

@[simp] theorem State.setCtx_mem (s : State) (n : Nat) (x : Ctx) : (s.setCtx n x).mem = s.mem := rfl
@[simp] theorem State.setCtx_poison (s : State) (n : Nat) (x : Ctx) : (s.setCtx n x).poison = s.poison := rfl
@[simp] theorem State.setCtx_soft (s : State) (n : Nat) (x : Ctx) : (s.setCtx n x).soft = s.soft := rfl
@[simp] theorem State.setCtx_time (s : State) (n : Nat) (x : Ctx) : (s.setCtx n x).time = s.time := rfl
@[simp] theorem State.setCtx_nextId (s : State) (n : Nat) (x : Ctx) : (s.setCtx n x).nextId = s.nextId := rfl
@[simp] theorem State.setCtx_strands (s : State) (n : Nat) (x : Ctx) : (s.setCtx n x).strands = s.strands := rfl
@[simp] theorem State.setCtx_cores (s : State) (n : Nat) (x : Ctx) : (s.setCtx n x).cores = s.cores := rfl
@[simp] theorem State.setCtx_tiles (s : State) (n : Nat) (x : Ctx) : (s.setCtx n x).tiles = s.tiles := rfl
@[simp] theorem State.setCtx_queues (s : State) (n : Nat) (x : Ctx) : (s.setCtx n x).queues = s.queues := rfl
@[simp] theorem State.setCtx_keys (s : State) (n : Nat) (x : Ctx) : (s.setCtx n x).keys = s.keys := rfl
@[simp] theorem State.setCtx_domains (s : State) (n : Nat) (x : Ctx) : (s.setCtx n x).domains = s.domains := rfl
@[simp] theorem State.setCtx_mcasts (s : State) (n : Nat) (x : Ctx) : (s.setCtx n x).mcasts = s.mcasts := rfl
@[simp] theorem State.setCtx_lenders (s : State) (n : Nat) (x : Ctx) : (s.setCtx n x).lenders = s.lenders := rfl
@[simp] theorem State.setCtx_borrowers (s : State) (n : Nat) (x : Ctx) : (s.setCtx n x).borrowers = s.borrowers := rfl
@[simp] theorem State.setCtx_tinv (s : State) (n : Nat) (x : Ctx) : (s.setCtx n x).tinv = s.tinv := rfl
@[simp] theorem State.setCtx_tinvBusy (s : State) (n : Nat) (x : Ctx) : (s.setCtx n x).tinvBusy = s.tinvBusy := rfl
@[simp] theorem State.setCtx_tsrs (s : State) (n : Nat) (x : Ctx) : (s.setCtx n x).tsrs = s.tsrs := rfl
@[simp] theorem State.setCtx_tsrReqs (s : State) (n : Nat) (x : Ctx) : (s.setCtx n x).tsrReqs = s.tsrReqs := rfl
@[simp] theorem State.setCtx_spinels (s : State) (n : Nat) (x : Ctx) : (s.setCtx n x).spinels = s.spinels := rfl
@[simp] theorem State.setCtx_links (s : State) (n : Nat) (x : Ctx) : (s.setCtx n x).links = s.links := rfl
@[simp] theorem State.setCtx_gateways (s : State) (n : Nat) (x : Ctx) : (s.setCtx n x).gateways = s.gateways := rfl
@[simp] theorem State.setCtx_mgmt (s : State) (n : Nat) (x : Ctx) : (s.setCtx n x).mgmt = s.mgmt := rfl
@[simp] theorem State.setCtx_fuses (s : State) (n : Nat) (x : Ctx) : (s.setCtx n x).fuses = s.fuses := rfl
@[simp] theorem State.setCtx_net (s : State) (n : Nat) (x : Ctx) : (s.setCtx n x).net = s.net := rfl
@[simp] theorem State.setCtx_acc (s : State) (n : Nat) (x : Ctx) : (s.setCtx n x).acc = s.acc := rfl
@[simp] theorem State.setCtx_msix (s : State) (n : Nat) (x : Ctx) : (s.setCtx n x).msix = s.msix := rfl
@[simp] theorem State.setCtx_notices (s : State) (n : Nat) (x : Ctx) : (s.setCtx n x).notices = s.notices := rfl
@[simp] theorem State.setCtx_sent (s : State) (n : Nat) (x : Ctx) : (s.setCtx n x).sent = s.sent := rfl
@[simp] theorem State.setCtx_agenda (s : State) (n : Nat) (x : Ctx) : (s.setCtx n x).agenda = s.agenda := rfl
@[simp] theorem State.setCtx_cur (s : State) (n : Nat) (x : Ctx) : (s.setCtx n x).cur = s.cur := rfl

@[simp] theorem State.modCtx_mem (s : State) (n : Nat) (f : Ctx → Ctx) : (s.modCtx n f).mem = s.mem := rfl
@[simp] theorem State.modCtx_poison (s : State) (n : Nat) (f : Ctx → Ctx) : (s.modCtx n f).poison = s.poison := rfl
@[simp] theorem State.modCtx_soft (s : State) (n : Nat) (f : Ctx → Ctx) : (s.modCtx n f).soft = s.soft := rfl
@[simp] theorem State.modCtx_time (s : State) (n : Nat) (f : Ctx → Ctx) : (s.modCtx n f).time = s.time := rfl
@[simp] theorem State.modCtx_nextId (s : State) (n : Nat) (f : Ctx → Ctx) : (s.modCtx n f).nextId = s.nextId := rfl
@[simp] theorem State.modCtx_strands (s : State) (n : Nat) (f : Ctx → Ctx) : (s.modCtx n f).strands = s.strands := rfl
@[simp] theorem State.modCtx_cores (s : State) (n : Nat) (f : Ctx → Ctx) : (s.modCtx n f).cores = s.cores := rfl
@[simp] theorem State.modCtx_tiles (s : State) (n : Nat) (f : Ctx → Ctx) : (s.modCtx n f).tiles = s.tiles := rfl
@[simp] theorem State.modCtx_queues (s : State) (n : Nat) (f : Ctx → Ctx) : (s.modCtx n f).queues = s.queues := rfl
@[simp] theorem State.modCtx_keys (s : State) (n : Nat) (f : Ctx → Ctx) : (s.modCtx n f).keys = s.keys := rfl
@[simp] theorem State.modCtx_domains (s : State) (n : Nat) (f : Ctx → Ctx) : (s.modCtx n f).domains = s.domains := rfl
@[simp] theorem State.modCtx_mcasts (s : State) (n : Nat) (f : Ctx → Ctx) : (s.modCtx n f).mcasts = s.mcasts := rfl
@[simp] theorem State.modCtx_lenders (s : State) (n : Nat) (f : Ctx → Ctx) : (s.modCtx n f).lenders = s.lenders := rfl
@[simp] theorem State.modCtx_borrowers (s : State) (n : Nat) (f : Ctx → Ctx) : (s.modCtx n f).borrowers = s.borrowers := rfl
@[simp] theorem State.modCtx_tinv (s : State) (n : Nat) (f : Ctx → Ctx) : (s.modCtx n f).tinv = s.tinv := rfl
@[simp] theorem State.modCtx_tinvBusy (s : State) (n : Nat) (f : Ctx → Ctx) : (s.modCtx n f).tinvBusy = s.tinvBusy := rfl
@[simp] theorem State.modCtx_tsrs (s : State) (n : Nat) (f : Ctx → Ctx) : (s.modCtx n f).tsrs = s.tsrs := rfl
@[simp] theorem State.modCtx_tsrReqs (s : State) (n : Nat) (f : Ctx → Ctx) : (s.modCtx n f).tsrReqs = s.tsrReqs := rfl
@[simp] theorem State.modCtx_spinels (s : State) (n : Nat) (f : Ctx → Ctx) : (s.modCtx n f).spinels = s.spinels := rfl
@[simp] theorem State.modCtx_links (s : State) (n : Nat) (f : Ctx → Ctx) : (s.modCtx n f).links = s.links := rfl
@[simp] theorem State.modCtx_gateways (s : State) (n : Nat) (f : Ctx → Ctx) : (s.modCtx n f).gateways = s.gateways := rfl
@[simp] theorem State.modCtx_mgmt (s : State) (n : Nat) (f : Ctx → Ctx) : (s.modCtx n f).mgmt = s.mgmt := rfl
@[simp] theorem State.modCtx_fuses (s : State) (n : Nat) (f : Ctx → Ctx) : (s.modCtx n f).fuses = s.fuses := rfl
@[simp] theorem State.modCtx_net (s : State) (n : Nat) (f : Ctx → Ctx) : (s.modCtx n f).net = s.net := rfl
@[simp] theorem State.modCtx_acc (s : State) (n : Nat) (f : Ctx → Ctx) : (s.modCtx n f).acc = s.acc := rfl
@[simp] theorem State.modCtx_msix (s : State) (n : Nat) (f : Ctx → Ctx) : (s.modCtx n f).msix = s.msix := rfl
@[simp] theorem State.modCtx_notices (s : State) (n : Nat) (f : Ctx → Ctx) : (s.modCtx n f).notices = s.notices := rfl
@[simp] theorem State.modCtx_sent (s : State) (n : Nat) (f : Ctx → Ctx) : (s.modCtx n f).sent = s.sent := rfl
@[simp] theorem State.modCtx_agenda (s : State) (n : Nat) (f : Ctx → Ctx) : (s.modCtx n f).agenda = s.agenda := rfl
@[simp] theorem State.modCtx_cur (s : State) (n : Nat) (f : Ctx → Ctx) : (s.modCtx n f).cur = s.cur := rfl

@[simp] theorem State.modQueue_mem (s : State) (n : Nat) (f : HostQ → HostQ) : (s.modQueue n f).mem = s.mem := rfl
@[simp] theorem State.modQueue_poison (s : State) (n : Nat) (f : HostQ → HostQ) : (s.modQueue n f).poison = s.poison := rfl
@[simp] theorem State.modQueue_soft (s : State) (n : Nat) (f : HostQ → HostQ) : (s.modQueue n f).soft = s.soft := rfl
@[simp] theorem State.modQueue_time (s : State) (n : Nat) (f : HostQ → HostQ) : (s.modQueue n f).time = s.time := rfl
@[simp] theorem State.modQueue_nextId (s : State) (n : Nat) (f : HostQ → HostQ) : (s.modQueue n f).nextId = s.nextId := rfl
@[simp] theorem State.modQueue_strands (s : State) (n : Nat) (f : HostQ → HostQ) : (s.modQueue n f).strands = s.strands := rfl
@[simp] theorem State.modQueue_cores (s : State) (n : Nat) (f : HostQ → HostQ) : (s.modQueue n f).cores = s.cores := rfl
@[simp] theorem State.modQueue_tiles (s : State) (n : Nat) (f : HostQ → HostQ) : (s.modQueue n f).tiles = s.tiles := rfl
@[simp] theorem State.modQueue_ctxs (s : State) (n : Nat) (f : HostQ → HostQ) : (s.modQueue n f).ctxs = s.ctxs := rfl
@[simp] theorem State.modQueue_keys (s : State) (n : Nat) (f : HostQ → HostQ) : (s.modQueue n f).keys = s.keys := rfl
@[simp] theorem State.modQueue_domains (s : State) (n : Nat) (f : HostQ → HostQ) : (s.modQueue n f).domains = s.domains := rfl
@[simp] theorem State.modQueue_mcasts (s : State) (n : Nat) (f : HostQ → HostQ) : (s.modQueue n f).mcasts = s.mcasts := rfl
@[simp] theorem State.modQueue_lenders (s : State) (n : Nat) (f : HostQ → HostQ) : (s.modQueue n f).lenders = s.lenders := rfl
@[simp] theorem State.modQueue_borrowers (s : State) (n : Nat) (f : HostQ → HostQ) : (s.modQueue n f).borrowers = s.borrowers := rfl
@[simp] theorem State.modQueue_tinv (s : State) (n : Nat) (f : HostQ → HostQ) : (s.modQueue n f).tinv = s.tinv := rfl
@[simp] theorem State.modQueue_tinvBusy (s : State) (n : Nat) (f : HostQ → HostQ) : (s.modQueue n f).tinvBusy = s.tinvBusy := rfl
@[simp] theorem State.modQueue_tsrs (s : State) (n : Nat) (f : HostQ → HostQ) : (s.modQueue n f).tsrs = s.tsrs := rfl
@[simp] theorem State.modQueue_tsrReqs (s : State) (n : Nat) (f : HostQ → HostQ) : (s.modQueue n f).tsrReqs = s.tsrReqs := rfl
@[simp] theorem State.modQueue_spinels (s : State) (n : Nat) (f : HostQ → HostQ) : (s.modQueue n f).spinels = s.spinels := rfl
@[simp] theorem State.modQueue_links (s : State) (n : Nat) (f : HostQ → HostQ) : (s.modQueue n f).links = s.links := rfl
@[simp] theorem State.modQueue_gateways (s : State) (n : Nat) (f : HostQ → HostQ) : (s.modQueue n f).gateways = s.gateways := rfl
@[simp] theorem State.modQueue_mgmt (s : State) (n : Nat) (f : HostQ → HostQ) : (s.modQueue n f).mgmt = s.mgmt := rfl
@[simp] theorem State.modQueue_fuses (s : State) (n : Nat) (f : HostQ → HostQ) : (s.modQueue n f).fuses = s.fuses := rfl
@[simp] theorem State.modQueue_net (s : State) (n : Nat) (f : HostQ → HostQ) : (s.modQueue n f).net = s.net := rfl
@[simp] theorem State.modQueue_acc (s : State) (n : Nat) (f : HostQ → HostQ) : (s.modQueue n f).acc = s.acc := rfl
@[simp] theorem State.modQueue_msix (s : State) (n : Nat) (f : HostQ → HostQ) : (s.modQueue n f).msix = s.msix := rfl
@[simp] theorem State.modQueue_notices (s : State) (n : Nat) (f : HostQ → HostQ) : (s.modQueue n f).notices = s.notices := rfl
@[simp] theorem State.modQueue_sent (s : State) (n : Nat) (f : HostQ → HostQ) : (s.modQueue n f).sent = s.sent := rfl
@[simp] theorem State.modQueue_agenda (s : State) (n : Nat) (f : HostQ → HostQ) : (s.modQueue n f).agenda = s.agenda := rfl
@[simp] theorem State.modQueue_cur (s : State) (n : Nat) (f : HostQ → HostQ) : (s.modQueue n f).cur = s.cur := rfl

@[simp] theorem State.modLink_mem (s : State) (n : Nat) (f : Link → Link) : (s.modLink n f).mem = s.mem := rfl
@[simp] theorem State.modLink_poison (s : State) (n : Nat) (f : Link → Link) : (s.modLink n f).poison = s.poison := rfl
@[simp] theorem State.modLink_soft (s : State) (n : Nat) (f : Link → Link) : (s.modLink n f).soft = s.soft := rfl
@[simp] theorem State.modLink_time (s : State) (n : Nat) (f : Link → Link) : (s.modLink n f).time = s.time := rfl
@[simp] theorem State.modLink_nextId (s : State) (n : Nat) (f : Link → Link) : (s.modLink n f).nextId = s.nextId := rfl
@[simp] theorem State.modLink_strands (s : State) (n : Nat) (f : Link → Link) : (s.modLink n f).strands = s.strands := rfl
@[simp] theorem State.modLink_cores (s : State) (n : Nat) (f : Link → Link) : (s.modLink n f).cores = s.cores := rfl
@[simp] theorem State.modLink_tiles (s : State) (n : Nat) (f : Link → Link) : (s.modLink n f).tiles = s.tiles := rfl
@[simp] theorem State.modLink_ctxs (s : State) (n : Nat) (f : Link → Link) : (s.modLink n f).ctxs = s.ctxs := rfl
@[simp] theorem State.modLink_queues (s : State) (n : Nat) (f : Link → Link) : (s.modLink n f).queues = s.queues := rfl
@[simp] theorem State.modLink_keys (s : State) (n : Nat) (f : Link → Link) : (s.modLink n f).keys = s.keys := rfl
@[simp] theorem State.modLink_domains (s : State) (n : Nat) (f : Link → Link) : (s.modLink n f).domains = s.domains := rfl
@[simp] theorem State.modLink_mcasts (s : State) (n : Nat) (f : Link → Link) : (s.modLink n f).mcasts = s.mcasts := rfl
@[simp] theorem State.modLink_lenders (s : State) (n : Nat) (f : Link → Link) : (s.modLink n f).lenders = s.lenders := rfl
@[simp] theorem State.modLink_borrowers (s : State) (n : Nat) (f : Link → Link) : (s.modLink n f).borrowers = s.borrowers := rfl
@[simp] theorem State.modLink_tinv (s : State) (n : Nat) (f : Link → Link) : (s.modLink n f).tinv = s.tinv := rfl
@[simp] theorem State.modLink_tinvBusy (s : State) (n : Nat) (f : Link → Link) : (s.modLink n f).tinvBusy = s.tinvBusy := rfl
@[simp] theorem State.modLink_tsrs (s : State) (n : Nat) (f : Link → Link) : (s.modLink n f).tsrs = s.tsrs := rfl
@[simp] theorem State.modLink_tsrReqs (s : State) (n : Nat) (f : Link → Link) : (s.modLink n f).tsrReqs = s.tsrReqs := rfl
@[simp] theorem State.modLink_spinels (s : State) (n : Nat) (f : Link → Link) : (s.modLink n f).spinels = s.spinels := rfl
@[simp] theorem State.modLink_gateways (s : State) (n : Nat) (f : Link → Link) : (s.modLink n f).gateways = s.gateways := rfl
@[simp] theorem State.modLink_mgmt (s : State) (n : Nat) (f : Link → Link) : (s.modLink n f).mgmt = s.mgmt := rfl
@[simp] theorem State.modLink_fuses (s : State) (n : Nat) (f : Link → Link) : (s.modLink n f).fuses = s.fuses := rfl
@[simp] theorem State.modLink_net (s : State) (n : Nat) (f : Link → Link) : (s.modLink n f).net = s.net := rfl
@[simp] theorem State.modLink_acc (s : State) (n : Nat) (f : Link → Link) : (s.modLink n f).acc = s.acc := rfl
@[simp] theorem State.modLink_msix (s : State) (n : Nat) (f : Link → Link) : (s.modLink n f).msix = s.msix := rfl
@[simp] theorem State.modLink_notices (s : State) (n : Nat) (f : Link → Link) : (s.modLink n f).notices = s.notices := rfl
@[simp] theorem State.modLink_sent (s : State) (n : Nat) (f : Link → Link) : (s.modLink n f).sent = s.sent := rfl
@[simp] theorem State.modLink_agenda (s : State) (n : Nat) (f : Link → Link) : (s.modLink n f).agenda = s.agenda := rfl
@[simp] theorem State.modLink_cur (s : State) (n : Nat) (f : Link → Link) : (s.modLink n f).cur = s.cur := rfl

@[simp] theorem State.modGateway_mem (s : State) (n : Nat) (f : Gateway → Gateway) : (s.modGateway n f).mem = s.mem := rfl
@[simp] theorem State.modGateway_poison (s : State) (n : Nat) (f : Gateway → Gateway) : (s.modGateway n f).poison = s.poison := rfl
@[simp] theorem State.modGateway_soft (s : State) (n : Nat) (f : Gateway → Gateway) : (s.modGateway n f).soft = s.soft := rfl
@[simp] theorem State.modGateway_time (s : State) (n : Nat) (f : Gateway → Gateway) : (s.modGateway n f).time = s.time := rfl
@[simp] theorem State.modGateway_nextId (s : State) (n : Nat) (f : Gateway → Gateway) : (s.modGateway n f).nextId = s.nextId := rfl
@[simp] theorem State.modGateway_strands (s : State) (n : Nat) (f : Gateway → Gateway) : (s.modGateway n f).strands = s.strands := rfl
@[simp] theorem State.modGateway_cores (s : State) (n : Nat) (f : Gateway → Gateway) : (s.modGateway n f).cores = s.cores := rfl
@[simp] theorem State.modGateway_tiles (s : State) (n : Nat) (f : Gateway → Gateway) : (s.modGateway n f).tiles = s.tiles := rfl
@[simp] theorem State.modGateway_ctxs (s : State) (n : Nat) (f : Gateway → Gateway) : (s.modGateway n f).ctxs = s.ctxs := rfl
@[simp] theorem State.modGateway_queues (s : State) (n : Nat) (f : Gateway → Gateway) : (s.modGateway n f).queues = s.queues := rfl
@[simp] theorem State.modGateway_keys (s : State) (n : Nat) (f : Gateway → Gateway) : (s.modGateway n f).keys = s.keys := rfl
@[simp] theorem State.modGateway_domains (s : State) (n : Nat) (f : Gateway → Gateway) : (s.modGateway n f).domains = s.domains := rfl
@[simp] theorem State.modGateway_mcasts (s : State) (n : Nat) (f : Gateway → Gateway) : (s.modGateway n f).mcasts = s.mcasts := rfl
@[simp] theorem State.modGateway_lenders (s : State) (n : Nat) (f : Gateway → Gateway) : (s.modGateway n f).lenders = s.lenders := rfl
@[simp] theorem State.modGateway_borrowers (s : State) (n : Nat) (f : Gateway → Gateway) : (s.modGateway n f).borrowers = s.borrowers := rfl
@[simp] theorem State.modGateway_tinv (s : State) (n : Nat) (f : Gateway → Gateway) : (s.modGateway n f).tinv = s.tinv := rfl
@[simp] theorem State.modGateway_tinvBusy (s : State) (n : Nat) (f : Gateway → Gateway) : (s.modGateway n f).tinvBusy = s.tinvBusy := rfl
@[simp] theorem State.modGateway_tsrs (s : State) (n : Nat) (f : Gateway → Gateway) : (s.modGateway n f).tsrs = s.tsrs := rfl
@[simp] theorem State.modGateway_tsrReqs (s : State) (n : Nat) (f : Gateway → Gateway) : (s.modGateway n f).tsrReqs = s.tsrReqs := rfl
@[simp] theorem State.modGateway_spinels (s : State) (n : Nat) (f : Gateway → Gateway) : (s.modGateway n f).spinels = s.spinels := rfl
@[simp] theorem State.modGateway_links (s : State) (n : Nat) (f : Gateway → Gateway) : (s.modGateway n f).links = s.links := rfl
@[simp] theorem State.modGateway_mgmt (s : State) (n : Nat) (f : Gateway → Gateway) : (s.modGateway n f).mgmt = s.mgmt := rfl
@[simp] theorem State.modGateway_fuses (s : State) (n : Nat) (f : Gateway → Gateway) : (s.modGateway n f).fuses = s.fuses := rfl
@[simp] theorem State.modGateway_net (s : State) (n : Nat) (f : Gateway → Gateway) : (s.modGateway n f).net = s.net := rfl
@[simp] theorem State.modGateway_acc (s : State) (n : Nat) (f : Gateway → Gateway) : (s.modGateway n f).acc = s.acc := rfl
@[simp] theorem State.modGateway_msix (s : State) (n : Nat) (f : Gateway → Gateway) : (s.modGateway n f).msix = s.msix := rfl
@[simp] theorem State.modGateway_notices (s : State) (n : Nat) (f : Gateway → Gateway) : (s.modGateway n f).notices = s.notices := rfl
@[simp] theorem State.modGateway_sent (s : State) (n : Nat) (f : Gateway → Gateway) : (s.modGateway n f).sent = s.sent := rfl
@[simp] theorem State.modGateway_agenda (s : State) (n : Nat) (f : Gateway → Gateway) : (s.modGateway n f).agenda = s.agenda := rfl
@[simp] theorem State.modGateway_cur (s : State) (n : Nat) (f : Gateway → Gateway) : (s.modGateway n f).cur = s.cur := rfl

@[simp] theorem State.modLender_mem (s : State) (n : Nat) (f : Lender → Lender) : (s.modLender n f).mem = s.mem := rfl
@[simp] theorem State.modLender_poison (s : State) (n : Nat) (f : Lender → Lender) : (s.modLender n f).poison = s.poison := rfl
@[simp] theorem State.modLender_soft (s : State) (n : Nat) (f : Lender → Lender) : (s.modLender n f).soft = s.soft := rfl
@[simp] theorem State.modLender_time (s : State) (n : Nat) (f : Lender → Lender) : (s.modLender n f).time = s.time := rfl
@[simp] theorem State.modLender_nextId (s : State) (n : Nat) (f : Lender → Lender) : (s.modLender n f).nextId = s.nextId := rfl
@[simp] theorem State.modLender_strands (s : State) (n : Nat) (f : Lender → Lender) : (s.modLender n f).strands = s.strands := rfl
@[simp] theorem State.modLender_cores (s : State) (n : Nat) (f : Lender → Lender) : (s.modLender n f).cores = s.cores := rfl
@[simp] theorem State.modLender_tiles (s : State) (n : Nat) (f : Lender → Lender) : (s.modLender n f).tiles = s.tiles := rfl
@[simp] theorem State.modLender_ctxs (s : State) (n : Nat) (f : Lender → Lender) : (s.modLender n f).ctxs = s.ctxs := rfl
@[simp] theorem State.modLender_queues (s : State) (n : Nat) (f : Lender → Lender) : (s.modLender n f).queues = s.queues := rfl
@[simp] theorem State.modLender_keys (s : State) (n : Nat) (f : Lender → Lender) : (s.modLender n f).keys = s.keys := rfl
@[simp] theorem State.modLender_domains (s : State) (n : Nat) (f : Lender → Lender) : (s.modLender n f).domains = s.domains := rfl
@[simp] theorem State.modLender_mcasts (s : State) (n : Nat) (f : Lender → Lender) : (s.modLender n f).mcasts = s.mcasts := rfl
@[simp] theorem State.modLender_borrowers (s : State) (n : Nat) (f : Lender → Lender) : (s.modLender n f).borrowers = s.borrowers := rfl
@[simp] theorem State.modLender_tinv (s : State) (n : Nat) (f : Lender → Lender) : (s.modLender n f).tinv = s.tinv := rfl
@[simp] theorem State.modLender_tinvBusy (s : State) (n : Nat) (f : Lender → Lender) : (s.modLender n f).tinvBusy = s.tinvBusy := rfl
@[simp] theorem State.modLender_tsrs (s : State) (n : Nat) (f : Lender → Lender) : (s.modLender n f).tsrs = s.tsrs := rfl
@[simp] theorem State.modLender_tsrReqs (s : State) (n : Nat) (f : Lender → Lender) : (s.modLender n f).tsrReqs = s.tsrReqs := rfl
@[simp] theorem State.modLender_spinels (s : State) (n : Nat) (f : Lender → Lender) : (s.modLender n f).spinels = s.spinels := rfl
@[simp] theorem State.modLender_links (s : State) (n : Nat) (f : Lender → Lender) : (s.modLender n f).links = s.links := rfl
@[simp] theorem State.modLender_gateways (s : State) (n : Nat) (f : Lender → Lender) : (s.modLender n f).gateways = s.gateways := rfl
@[simp] theorem State.modLender_mgmt (s : State) (n : Nat) (f : Lender → Lender) : (s.modLender n f).mgmt = s.mgmt := rfl
@[simp] theorem State.modLender_fuses (s : State) (n : Nat) (f : Lender → Lender) : (s.modLender n f).fuses = s.fuses := rfl
@[simp] theorem State.modLender_net (s : State) (n : Nat) (f : Lender → Lender) : (s.modLender n f).net = s.net := rfl
@[simp] theorem State.modLender_acc (s : State) (n : Nat) (f : Lender → Lender) : (s.modLender n f).acc = s.acc := rfl
@[simp] theorem State.modLender_msix (s : State) (n : Nat) (f : Lender → Lender) : (s.modLender n f).msix = s.msix := rfl
@[simp] theorem State.modLender_notices (s : State) (n : Nat) (f : Lender → Lender) : (s.modLender n f).notices = s.notices := rfl
@[simp] theorem State.modLender_sent (s : State) (n : Nat) (f : Lender → Lender) : (s.modLender n f).sent = s.sent := rfl
@[simp] theorem State.modLender_agenda (s : State) (n : Nat) (f : Lender → Lender) : (s.modLender n f).agenda = s.agenda := rfl
@[simp] theorem State.modLender_cur (s : State) (n : Nat) (f : Lender → Lender) : (s.modLender n f).cur = s.cur := rfl

@[simp] theorem State.modBorrower_mem (s : State) (n : Nat) (f : Borrower → Borrower) : (s.modBorrower n f).mem = s.mem := rfl
@[simp] theorem State.modBorrower_poison (s : State) (n : Nat) (f : Borrower → Borrower) : (s.modBorrower n f).poison = s.poison := rfl
@[simp] theorem State.modBorrower_soft (s : State) (n : Nat) (f : Borrower → Borrower) : (s.modBorrower n f).soft = s.soft := rfl
@[simp] theorem State.modBorrower_time (s : State) (n : Nat) (f : Borrower → Borrower) : (s.modBorrower n f).time = s.time := rfl
@[simp] theorem State.modBorrower_nextId (s : State) (n : Nat) (f : Borrower → Borrower) : (s.modBorrower n f).nextId = s.nextId := rfl
@[simp] theorem State.modBorrower_strands (s : State) (n : Nat) (f : Borrower → Borrower) : (s.modBorrower n f).strands = s.strands := rfl
@[simp] theorem State.modBorrower_cores (s : State) (n : Nat) (f : Borrower → Borrower) : (s.modBorrower n f).cores = s.cores := rfl
@[simp] theorem State.modBorrower_tiles (s : State) (n : Nat) (f : Borrower → Borrower) : (s.modBorrower n f).tiles = s.tiles := rfl
@[simp] theorem State.modBorrower_ctxs (s : State) (n : Nat) (f : Borrower → Borrower) : (s.modBorrower n f).ctxs = s.ctxs := rfl
@[simp] theorem State.modBorrower_queues (s : State) (n : Nat) (f : Borrower → Borrower) : (s.modBorrower n f).queues = s.queues := rfl
@[simp] theorem State.modBorrower_keys (s : State) (n : Nat) (f : Borrower → Borrower) : (s.modBorrower n f).keys = s.keys := rfl
@[simp] theorem State.modBorrower_domains (s : State) (n : Nat) (f : Borrower → Borrower) : (s.modBorrower n f).domains = s.domains := rfl
@[simp] theorem State.modBorrower_mcasts (s : State) (n : Nat) (f : Borrower → Borrower) : (s.modBorrower n f).mcasts = s.mcasts := rfl
@[simp] theorem State.modBorrower_lenders (s : State) (n : Nat) (f : Borrower → Borrower) : (s.modBorrower n f).lenders = s.lenders := rfl
@[simp] theorem State.modBorrower_tinv (s : State) (n : Nat) (f : Borrower → Borrower) : (s.modBorrower n f).tinv = s.tinv := rfl
@[simp] theorem State.modBorrower_tinvBusy (s : State) (n : Nat) (f : Borrower → Borrower) : (s.modBorrower n f).tinvBusy = s.tinvBusy := rfl
@[simp] theorem State.modBorrower_tsrs (s : State) (n : Nat) (f : Borrower → Borrower) : (s.modBorrower n f).tsrs = s.tsrs := rfl
@[simp] theorem State.modBorrower_tsrReqs (s : State) (n : Nat) (f : Borrower → Borrower) : (s.modBorrower n f).tsrReqs = s.tsrReqs := rfl
@[simp] theorem State.modBorrower_spinels (s : State) (n : Nat) (f : Borrower → Borrower) : (s.modBorrower n f).spinels = s.spinels := rfl
@[simp] theorem State.modBorrower_links (s : State) (n : Nat) (f : Borrower → Borrower) : (s.modBorrower n f).links = s.links := rfl
@[simp] theorem State.modBorrower_gateways (s : State) (n : Nat) (f : Borrower → Borrower) : (s.modBorrower n f).gateways = s.gateways := rfl
@[simp] theorem State.modBorrower_mgmt (s : State) (n : Nat) (f : Borrower → Borrower) : (s.modBorrower n f).mgmt = s.mgmt := rfl
@[simp] theorem State.modBorrower_fuses (s : State) (n : Nat) (f : Borrower → Borrower) : (s.modBorrower n f).fuses = s.fuses := rfl
@[simp] theorem State.modBorrower_net (s : State) (n : Nat) (f : Borrower → Borrower) : (s.modBorrower n f).net = s.net := rfl
@[simp] theorem State.modBorrower_acc (s : State) (n : Nat) (f : Borrower → Borrower) : (s.modBorrower n f).acc = s.acc := rfl
@[simp] theorem State.modBorrower_msix (s : State) (n : Nat) (f : Borrower → Borrower) : (s.modBorrower n f).msix = s.msix := rfl
@[simp] theorem State.modBorrower_notices (s : State) (n : Nat) (f : Borrower → Borrower) : (s.modBorrower n f).notices = s.notices := rfl
@[simp] theorem State.modBorrower_sent (s : State) (n : Nat) (f : Borrower → Borrower) : (s.modBorrower n f).sent = s.sent := rfl
@[simp] theorem State.modBorrower_agenda (s : State) (n : Nat) (f : Borrower → Borrower) : (s.modBorrower n f).agenda = s.agenda := rfl
@[simp] theorem State.modBorrower_cur (s : State) (n : Nat) (f : Borrower → Borrower) : (s.modBorrower n f).cur = s.cur := rfl

@[simp] theorem State.modSpinel_mem (s : State) (n : Nat) (f : Spinel → Spinel) : (s.modSpinel n f).mem = s.mem := rfl
@[simp] theorem State.modSpinel_poison (s : State) (n : Nat) (f : Spinel → Spinel) : (s.modSpinel n f).poison = s.poison := rfl
@[simp] theorem State.modSpinel_soft (s : State) (n : Nat) (f : Spinel → Spinel) : (s.modSpinel n f).soft = s.soft := rfl
@[simp] theorem State.modSpinel_time (s : State) (n : Nat) (f : Spinel → Spinel) : (s.modSpinel n f).time = s.time := rfl
@[simp] theorem State.modSpinel_nextId (s : State) (n : Nat) (f : Spinel → Spinel) : (s.modSpinel n f).nextId = s.nextId := rfl
@[simp] theorem State.modSpinel_strands (s : State) (n : Nat) (f : Spinel → Spinel) : (s.modSpinel n f).strands = s.strands := rfl
@[simp] theorem State.modSpinel_cores (s : State) (n : Nat) (f : Spinel → Spinel) : (s.modSpinel n f).cores = s.cores := rfl
@[simp] theorem State.modSpinel_tiles (s : State) (n : Nat) (f : Spinel → Spinel) : (s.modSpinel n f).tiles = s.tiles := rfl
@[simp] theorem State.modSpinel_ctxs (s : State) (n : Nat) (f : Spinel → Spinel) : (s.modSpinel n f).ctxs = s.ctxs := rfl
@[simp] theorem State.modSpinel_queues (s : State) (n : Nat) (f : Spinel → Spinel) : (s.modSpinel n f).queues = s.queues := rfl
@[simp] theorem State.modSpinel_keys (s : State) (n : Nat) (f : Spinel → Spinel) : (s.modSpinel n f).keys = s.keys := rfl
@[simp] theorem State.modSpinel_domains (s : State) (n : Nat) (f : Spinel → Spinel) : (s.modSpinel n f).domains = s.domains := rfl
@[simp] theorem State.modSpinel_mcasts (s : State) (n : Nat) (f : Spinel → Spinel) : (s.modSpinel n f).mcasts = s.mcasts := rfl
@[simp] theorem State.modSpinel_lenders (s : State) (n : Nat) (f : Spinel → Spinel) : (s.modSpinel n f).lenders = s.lenders := rfl
@[simp] theorem State.modSpinel_borrowers (s : State) (n : Nat) (f : Spinel → Spinel) : (s.modSpinel n f).borrowers = s.borrowers := rfl
@[simp] theorem State.modSpinel_tinv (s : State) (n : Nat) (f : Spinel → Spinel) : (s.modSpinel n f).tinv = s.tinv := rfl
@[simp] theorem State.modSpinel_tinvBusy (s : State) (n : Nat) (f : Spinel → Spinel) : (s.modSpinel n f).tinvBusy = s.tinvBusy := rfl
@[simp] theorem State.modSpinel_tsrs (s : State) (n : Nat) (f : Spinel → Spinel) : (s.modSpinel n f).tsrs = s.tsrs := rfl
@[simp] theorem State.modSpinel_tsrReqs (s : State) (n : Nat) (f : Spinel → Spinel) : (s.modSpinel n f).tsrReqs = s.tsrReqs := rfl
@[simp] theorem State.modSpinel_links (s : State) (n : Nat) (f : Spinel → Spinel) : (s.modSpinel n f).links = s.links := rfl
@[simp] theorem State.modSpinel_gateways (s : State) (n : Nat) (f : Spinel → Spinel) : (s.modSpinel n f).gateways = s.gateways := rfl
@[simp] theorem State.modSpinel_mgmt (s : State) (n : Nat) (f : Spinel → Spinel) : (s.modSpinel n f).mgmt = s.mgmt := rfl
@[simp] theorem State.modSpinel_fuses (s : State) (n : Nat) (f : Spinel → Spinel) : (s.modSpinel n f).fuses = s.fuses := rfl
@[simp] theorem State.modSpinel_net (s : State) (n : Nat) (f : Spinel → Spinel) : (s.modSpinel n f).net = s.net := rfl
@[simp] theorem State.modSpinel_acc (s : State) (n : Nat) (f : Spinel → Spinel) : (s.modSpinel n f).acc = s.acc := rfl
@[simp] theorem State.modSpinel_msix (s : State) (n : Nat) (f : Spinel → Spinel) : (s.modSpinel n f).msix = s.msix := rfl
@[simp] theorem State.modSpinel_notices (s : State) (n : Nat) (f : Spinel → Spinel) : (s.modSpinel n f).notices = s.notices := rfl
@[simp] theorem State.modSpinel_sent (s : State) (n : Nat) (f : Spinel → Spinel) : (s.modSpinel n f).sent = s.sent := rfl
@[simp] theorem State.modSpinel_agenda (s : State) (n : Nat) (f : Spinel → Spinel) : (s.modSpinel n f).agenda = s.agenda := rfl
@[simp] theorem State.modSpinel_cur (s : State) (n : Nat) (f : Spinel → Spinel) : (s.modSpinel n f).cur = s.cur := rfl

@[simp] theorem State.modTsr_mem (s : State) (n : Nat) (f : Tsr → Tsr) : (s.modTsr n f).mem = s.mem := rfl
@[simp] theorem State.modTsr_poison (s : State) (n : Nat) (f : Tsr → Tsr) : (s.modTsr n f).poison = s.poison := rfl
@[simp] theorem State.modTsr_soft (s : State) (n : Nat) (f : Tsr → Tsr) : (s.modTsr n f).soft = s.soft := rfl
@[simp] theorem State.modTsr_time (s : State) (n : Nat) (f : Tsr → Tsr) : (s.modTsr n f).time = s.time := rfl
@[simp] theorem State.modTsr_nextId (s : State) (n : Nat) (f : Tsr → Tsr) : (s.modTsr n f).nextId = s.nextId := rfl
@[simp] theorem State.modTsr_strands (s : State) (n : Nat) (f : Tsr → Tsr) : (s.modTsr n f).strands = s.strands := rfl
@[simp] theorem State.modTsr_cores (s : State) (n : Nat) (f : Tsr → Tsr) : (s.modTsr n f).cores = s.cores := rfl
@[simp] theorem State.modTsr_tiles (s : State) (n : Nat) (f : Tsr → Tsr) : (s.modTsr n f).tiles = s.tiles := rfl
@[simp] theorem State.modTsr_ctxs (s : State) (n : Nat) (f : Tsr → Tsr) : (s.modTsr n f).ctxs = s.ctxs := rfl
@[simp] theorem State.modTsr_queues (s : State) (n : Nat) (f : Tsr → Tsr) : (s.modTsr n f).queues = s.queues := rfl
@[simp] theorem State.modTsr_keys (s : State) (n : Nat) (f : Tsr → Tsr) : (s.modTsr n f).keys = s.keys := rfl
@[simp] theorem State.modTsr_domains (s : State) (n : Nat) (f : Tsr → Tsr) : (s.modTsr n f).domains = s.domains := rfl
@[simp] theorem State.modTsr_mcasts (s : State) (n : Nat) (f : Tsr → Tsr) : (s.modTsr n f).mcasts = s.mcasts := rfl
@[simp] theorem State.modTsr_lenders (s : State) (n : Nat) (f : Tsr → Tsr) : (s.modTsr n f).lenders = s.lenders := rfl
@[simp] theorem State.modTsr_borrowers (s : State) (n : Nat) (f : Tsr → Tsr) : (s.modTsr n f).borrowers = s.borrowers := rfl
@[simp] theorem State.modTsr_tinv (s : State) (n : Nat) (f : Tsr → Tsr) : (s.modTsr n f).tinv = s.tinv := rfl
@[simp] theorem State.modTsr_tinvBusy (s : State) (n : Nat) (f : Tsr → Tsr) : (s.modTsr n f).tinvBusy = s.tinvBusy := rfl
@[simp] theorem State.modTsr_tsrReqs (s : State) (n : Nat) (f : Tsr → Tsr) : (s.modTsr n f).tsrReqs = s.tsrReqs := rfl
@[simp] theorem State.modTsr_spinels (s : State) (n : Nat) (f : Tsr → Tsr) : (s.modTsr n f).spinels = s.spinels := rfl
@[simp] theorem State.modTsr_links (s : State) (n : Nat) (f : Tsr → Tsr) : (s.modTsr n f).links = s.links := rfl
@[simp] theorem State.modTsr_gateways (s : State) (n : Nat) (f : Tsr → Tsr) : (s.modTsr n f).gateways = s.gateways := rfl
@[simp] theorem State.modTsr_mgmt (s : State) (n : Nat) (f : Tsr → Tsr) : (s.modTsr n f).mgmt = s.mgmt := rfl
@[simp] theorem State.modTsr_fuses (s : State) (n : Nat) (f : Tsr → Tsr) : (s.modTsr n f).fuses = s.fuses := rfl
@[simp] theorem State.modTsr_net (s : State) (n : Nat) (f : Tsr → Tsr) : (s.modTsr n f).net = s.net := rfl
@[simp] theorem State.modTsr_acc (s : State) (n : Nat) (f : Tsr → Tsr) : (s.modTsr n f).acc = s.acc := rfl
@[simp] theorem State.modTsr_msix (s : State) (n : Nat) (f : Tsr → Tsr) : (s.modTsr n f).msix = s.msix := rfl
@[simp] theorem State.modTsr_notices (s : State) (n : Nat) (f : Tsr → Tsr) : (s.modTsr n f).notices = s.notices := rfl
@[simp] theorem State.modTsr_sent (s : State) (n : Nat) (f : Tsr → Tsr) : (s.modTsr n f).sent = s.sent := rfl
@[simp] theorem State.modTsr_agenda (s : State) (n : Nat) (f : Tsr → Tsr) : (s.modTsr n f).agenda = s.agenda := rfl
@[simp] theorem State.modTsr_cur (s : State) (n : Nat) (f : Tsr → Tsr) : (s.modTsr n f).cur = s.cur := rfl

@[simp] theorem State.modMe_mem (s : State) (f : Strand → Strand) : (s.modMe f).mem = s.mem := rfl
@[simp] theorem State.modMe_poison (s : State) (f : Strand → Strand) : (s.modMe f).poison = s.poison := rfl
@[simp] theorem State.modMe_soft (s : State) (f : Strand → Strand) : (s.modMe f).soft = s.soft := rfl
@[simp] theorem State.modMe_time (s : State) (f : Strand → Strand) : (s.modMe f).time = s.time := rfl
@[simp] theorem State.modMe_nextId (s : State) (f : Strand → Strand) : (s.modMe f).nextId = s.nextId := rfl
@[simp] theorem State.modMe_cores (s : State) (f : Strand → Strand) : (s.modMe f).cores = s.cores := rfl
@[simp] theorem State.modMe_tiles (s : State) (f : Strand → Strand) : (s.modMe f).tiles = s.tiles := rfl
@[simp] theorem State.modMe_ctxs (s : State) (f : Strand → Strand) : (s.modMe f).ctxs = s.ctxs := rfl
@[simp] theorem State.modMe_queues (s : State) (f : Strand → Strand) : (s.modMe f).queues = s.queues := rfl
@[simp] theorem State.modMe_keys (s : State) (f : Strand → Strand) : (s.modMe f).keys = s.keys := rfl
@[simp] theorem State.modMe_domains (s : State) (f : Strand → Strand) : (s.modMe f).domains = s.domains := rfl
@[simp] theorem State.modMe_mcasts (s : State) (f : Strand → Strand) : (s.modMe f).mcasts = s.mcasts := rfl
@[simp] theorem State.modMe_lenders (s : State) (f : Strand → Strand) : (s.modMe f).lenders = s.lenders := rfl
@[simp] theorem State.modMe_borrowers (s : State) (f : Strand → Strand) : (s.modMe f).borrowers = s.borrowers := rfl
@[simp] theorem State.modMe_tinv (s : State) (f : Strand → Strand) : (s.modMe f).tinv = s.tinv := rfl
@[simp] theorem State.modMe_tinvBusy (s : State) (f : Strand → Strand) : (s.modMe f).tinvBusy = s.tinvBusy := rfl
@[simp] theorem State.modMe_tsrs (s : State) (f : Strand → Strand) : (s.modMe f).tsrs = s.tsrs := rfl
@[simp] theorem State.modMe_tsrReqs (s : State) (f : Strand → Strand) : (s.modMe f).tsrReqs = s.tsrReqs := rfl
@[simp] theorem State.modMe_spinels (s : State) (f : Strand → Strand) : (s.modMe f).spinels = s.spinels := rfl
@[simp] theorem State.modMe_links (s : State) (f : Strand → Strand) : (s.modMe f).links = s.links := rfl
@[simp] theorem State.modMe_gateways (s : State) (f : Strand → Strand) : (s.modMe f).gateways = s.gateways := rfl
@[simp] theorem State.modMe_mgmt (s : State) (f : Strand → Strand) : (s.modMe f).mgmt = s.mgmt := rfl
@[simp] theorem State.modMe_fuses (s : State) (f : Strand → Strand) : (s.modMe f).fuses = s.fuses := rfl
@[simp] theorem State.modMe_net (s : State) (f : Strand → Strand) : (s.modMe f).net = s.net := rfl
@[simp] theorem State.modMe_acc (s : State) (f : Strand → Strand) : (s.modMe f).acc = s.acc := rfl
@[simp] theorem State.modMe_msix (s : State) (f : Strand → Strand) : (s.modMe f).msix = s.msix := rfl
@[simp] theorem State.modMe_notices (s : State) (f : Strand → Strand) : (s.modMe f).notices = s.notices := rfl
@[simp] theorem State.modMe_sent (s : State) (f : Strand → Strand) : (s.modMe f).sent = s.sent := rfl
@[simp] theorem State.modMe_agenda (s : State) (f : Strand → Strand) : (s.modMe f).agenda = s.agenda := rfl
@[simp] theorem State.modMe_cur (s : State) (f : Strand → Strand) : (s.modMe f).cur = s.cur := rfl

/-! ### Reading a part after it, or another, has been written -/

@[simp] theorem State.setStrand_strand_same (s : State) (n : Nat) (x : Strand) : (s.setStrand n x).strand n = x :=
  SMap.get_set_same _ _ _ _
theorem State.setStrand_strand_ne (s : State) (n : Nat) (x : Strand) {k : Nat} (h : k ≠ n) :
    (s.setStrand n x).strand k = s.strand k := SMap.get_set_ne _ _ _ h
@[simp] theorem State.setStrand_core (s : State) (n : Nat) (x : Strand) (k : Nat) :
    (s.setStrand n x).core k = s.core k := rfl
@[simp] theorem State.setStrand_tile (s : State) (n : Nat) (x : Strand) (k : Nat) :
    (s.setStrand n x).tile k = s.tile k := rfl
@[simp] theorem State.setStrand_ctx (s : State) (n : Nat) (x : Strand) (k : Nat) :
    (s.setStrand n x).ctx k = s.ctx k := rfl
@[simp] theorem State.setStrand_queue (s : State) (n : Nat) (x : Strand) (k : Nat) :
    (s.setStrand n x).queue k = s.queue k := rfl
@[simp] theorem State.setStrand_link (s : State) (n : Nat) (x : Strand) (k : Nat) :
    (s.setStrand n x).link k = s.link k := rfl
@[simp] theorem State.setStrand_gateway (s : State) (n : Nat) (x : Strand) (k : Nat) :
    (s.setStrand n x).gateway k = s.gateway k := rfl
@[simp] theorem State.setStrand_lender (s : State) (n : Nat) (x : Strand) (k : Nat) :
    (s.setStrand n x).lender k = s.lender k := rfl
@[simp] theorem State.setStrand_borrower (s : State) (n : Nat) (x : Strand) (k : Nat) :
    (s.setStrand n x).borrower k = s.borrower k := rfl
@[simp] theorem State.setStrand_spinel (s : State) (n : Nat) (x : Strand) (k : Nat) :
    (s.setStrand n x).spinel k = s.spinel k := rfl
@[simp] theorem State.setStrand_tsr (s : State) (n : Nat) (x : Strand) (k : Nat) :
    (s.setStrand n x).tsr k = s.tsr k := rfl

@[simp] theorem State.modStrand_strand_same (s : State) (n : Nat) (f : Strand → Strand) : (s.modStrand n f).strand n = f (s.strand n) :=
  SMap.get_set_same _ _ _ _
theorem State.modStrand_strand_ne (s : State) (n : Nat) (f : Strand → Strand) {k : Nat} (h : k ≠ n) :
    (s.modStrand n f).strand k = s.strand k := SMap.get_set_ne _ _ _ h
@[simp] theorem State.modStrand_core (s : State) (n : Nat) (f : Strand → Strand) (k : Nat) :
    (s.modStrand n f).core k = s.core k := rfl
@[simp] theorem State.modStrand_tile (s : State) (n : Nat) (f : Strand → Strand) (k : Nat) :
    (s.modStrand n f).tile k = s.tile k := rfl
@[simp] theorem State.modStrand_ctx (s : State) (n : Nat) (f : Strand → Strand) (k : Nat) :
    (s.modStrand n f).ctx k = s.ctx k := rfl
@[simp] theorem State.modStrand_queue (s : State) (n : Nat) (f : Strand → Strand) (k : Nat) :
    (s.modStrand n f).queue k = s.queue k := rfl
@[simp] theorem State.modStrand_link (s : State) (n : Nat) (f : Strand → Strand) (k : Nat) :
    (s.modStrand n f).link k = s.link k := rfl
@[simp] theorem State.modStrand_gateway (s : State) (n : Nat) (f : Strand → Strand) (k : Nat) :
    (s.modStrand n f).gateway k = s.gateway k := rfl
@[simp] theorem State.modStrand_lender (s : State) (n : Nat) (f : Strand → Strand) (k : Nat) :
    (s.modStrand n f).lender k = s.lender k := rfl
@[simp] theorem State.modStrand_borrower (s : State) (n : Nat) (f : Strand → Strand) (k : Nat) :
    (s.modStrand n f).borrower k = s.borrower k := rfl
@[simp] theorem State.modStrand_spinel (s : State) (n : Nat) (f : Strand → Strand) (k : Nat) :
    (s.modStrand n f).spinel k = s.spinel k := rfl
@[simp] theorem State.modStrand_tsr (s : State) (n : Nat) (f : Strand → Strand) (k : Nat) :
    (s.modStrand n f).tsr k = s.tsr k := rfl

@[simp] theorem State.setCore_core_same (s : State) (n : Nat) (x : Core) : (s.setCore n x).core n = x :=
  SMap.get_set_same _ _ _ _
theorem State.setCore_core_ne (s : State) (n : Nat) (x : Core) {k : Nat} (h : k ≠ n) :
    (s.setCore n x).core k = s.core k := SMap.get_set_ne _ _ _ h
@[simp] theorem State.setCore_strand (s : State) (n : Nat) (x : Core) (k : Nat) :
    (s.setCore n x).strand k = s.strand k := rfl
@[simp] theorem State.setCore_tile (s : State) (n : Nat) (x : Core) (k : Nat) :
    (s.setCore n x).tile k = s.tile k := rfl
@[simp] theorem State.setCore_ctx (s : State) (n : Nat) (x : Core) (k : Nat) :
    (s.setCore n x).ctx k = s.ctx k := rfl
@[simp] theorem State.setCore_queue (s : State) (n : Nat) (x : Core) (k : Nat) :
    (s.setCore n x).queue k = s.queue k := rfl
@[simp] theorem State.setCore_link (s : State) (n : Nat) (x : Core) (k : Nat) :
    (s.setCore n x).link k = s.link k := rfl
@[simp] theorem State.setCore_gateway (s : State) (n : Nat) (x : Core) (k : Nat) :
    (s.setCore n x).gateway k = s.gateway k := rfl
@[simp] theorem State.setCore_lender (s : State) (n : Nat) (x : Core) (k : Nat) :
    (s.setCore n x).lender k = s.lender k := rfl
@[simp] theorem State.setCore_borrower (s : State) (n : Nat) (x : Core) (k : Nat) :
    (s.setCore n x).borrower k = s.borrower k := rfl
@[simp] theorem State.setCore_spinel (s : State) (n : Nat) (x : Core) (k : Nat) :
    (s.setCore n x).spinel k = s.spinel k := rfl
@[simp] theorem State.setCore_tsr (s : State) (n : Nat) (x : Core) (k : Nat) :
    (s.setCore n x).tsr k = s.tsr k := rfl

@[simp] theorem State.modCore_core_same (s : State) (n : Nat) (f : Core → Core) : (s.modCore n f).core n = f (s.core n) :=
  SMap.get_set_same _ _ _ _
theorem State.modCore_core_ne (s : State) (n : Nat) (f : Core → Core) {k : Nat} (h : k ≠ n) :
    (s.modCore n f).core k = s.core k := SMap.get_set_ne _ _ _ h
@[simp] theorem State.modCore_strand (s : State) (n : Nat) (f : Core → Core) (k : Nat) :
    (s.modCore n f).strand k = s.strand k := rfl
@[simp] theorem State.modCore_tile (s : State) (n : Nat) (f : Core → Core) (k : Nat) :
    (s.modCore n f).tile k = s.tile k := rfl
@[simp] theorem State.modCore_ctx (s : State) (n : Nat) (f : Core → Core) (k : Nat) :
    (s.modCore n f).ctx k = s.ctx k := rfl
@[simp] theorem State.modCore_queue (s : State) (n : Nat) (f : Core → Core) (k : Nat) :
    (s.modCore n f).queue k = s.queue k := rfl
@[simp] theorem State.modCore_link (s : State) (n : Nat) (f : Core → Core) (k : Nat) :
    (s.modCore n f).link k = s.link k := rfl
@[simp] theorem State.modCore_gateway (s : State) (n : Nat) (f : Core → Core) (k : Nat) :
    (s.modCore n f).gateway k = s.gateway k := rfl
@[simp] theorem State.modCore_lender (s : State) (n : Nat) (f : Core → Core) (k : Nat) :
    (s.modCore n f).lender k = s.lender k := rfl
@[simp] theorem State.modCore_borrower (s : State) (n : Nat) (f : Core → Core) (k : Nat) :
    (s.modCore n f).borrower k = s.borrower k := rfl
@[simp] theorem State.modCore_spinel (s : State) (n : Nat) (f : Core → Core) (k : Nat) :
    (s.modCore n f).spinel k = s.spinel k := rfl
@[simp] theorem State.modCore_tsr (s : State) (n : Nat) (f : Core → Core) (k : Nat) :
    (s.modCore n f).tsr k = s.tsr k := rfl

@[simp] theorem State.setTile_tile_same (s : State) (n : Nat) (x : Tile) : (s.setTile n x).tile n = x :=
  SMap.get_set_same _ _ _ _
theorem State.setTile_tile_ne (s : State) (n : Nat) (x : Tile) {k : Nat} (h : k ≠ n) :
    (s.setTile n x).tile k = s.tile k := SMap.get_set_ne _ _ _ h
@[simp] theorem State.setTile_strand (s : State) (n : Nat) (x : Tile) (k : Nat) :
    (s.setTile n x).strand k = s.strand k := rfl
@[simp] theorem State.setTile_core (s : State) (n : Nat) (x : Tile) (k : Nat) :
    (s.setTile n x).core k = s.core k := rfl
@[simp] theorem State.setTile_ctx (s : State) (n : Nat) (x : Tile) (k : Nat) :
    (s.setTile n x).ctx k = s.ctx k := rfl
@[simp] theorem State.setTile_queue (s : State) (n : Nat) (x : Tile) (k : Nat) :
    (s.setTile n x).queue k = s.queue k := rfl
@[simp] theorem State.setTile_link (s : State) (n : Nat) (x : Tile) (k : Nat) :
    (s.setTile n x).link k = s.link k := rfl
@[simp] theorem State.setTile_gateway (s : State) (n : Nat) (x : Tile) (k : Nat) :
    (s.setTile n x).gateway k = s.gateway k := rfl
@[simp] theorem State.setTile_lender (s : State) (n : Nat) (x : Tile) (k : Nat) :
    (s.setTile n x).lender k = s.lender k := rfl
@[simp] theorem State.setTile_borrower (s : State) (n : Nat) (x : Tile) (k : Nat) :
    (s.setTile n x).borrower k = s.borrower k := rfl
@[simp] theorem State.setTile_spinel (s : State) (n : Nat) (x : Tile) (k : Nat) :
    (s.setTile n x).spinel k = s.spinel k := rfl
@[simp] theorem State.setTile_tsr (s : State) (n : Nat) (x : Tile) (k : Nat) :
    (s.setTile n x).tsr k = s.tsr k := rfl

@[simp] theorem State.modTile_tile_same (s : State) (n : Nat) (f : Tile → Tile) : (s.modTile n f).tile n = f (s.tile n) :=
  SMap.get_set_same _ _ _ _
theorem State.modTile_tile_ne (s : State) (n : Nat) (f : Tile → Tile) {k : Nat} (h : k ≠ n) :
    (s.modTile n f).tile k = s.tile k := SMap.get_set_ne _ _ _ h
@[simp] theorem State.modTile_strand (s : State) (n : Nat) (f : Tile → Tile) (k : Nat) :
    (s.modTile n f).strand k = s.strand k := rfl
@[simp] theorem State.modTile_core (s : State) (n : Nat) (f : Tile → Tile) (k : Nat) :
    (s.modTile n f).core k = s.core k := rfl
@[simp] theorem State.modTile_ctx (s : State) (n : Nat) (f : Tile → Tile) (k : Nat) :
    (s.modTile n f).ctx k = s.ctx k := rfl
@[simp] theorem State.modTile_queue (s : State) (n : Nat) (f : Tile → Tile) (k : Nat) :
    (s.modTile n f).queue k = s.queue k := rfl
@[simp] theorem State.modTile_link (s : State) (n : Nat) (f : Tile → Tile) (k : Nat) :
    (s.modTile n f).link k = s.link k := rfl
@[simp] theorem State.modTile_gateway (s : State) (n : Nat) (f : Tile → Tile) (k : Nat) :
    (s.modTile n f).gateway k = s.gateway k := rfl
@[simp] theorem State.modTile_lender (s : State) (n : Nat) (f : Tile → Tile) (k : Nat) :
    (s.modTile n f).lender k = s.lender k := rfl
@[simp] theorem State.modTile_borrower (s : State) (n : Nat) (f : Tile → Tile) (k : Nat) :
    (s.modTile n f).borrower k = s.borrower k := rfl
@[simp] theorem State.modTile_spinel (s : State) (n : Nat) (f : Tile → Tile) (k : Nat) :
    (s.modTile n f).spinel k = s.spinel k := rfl
@[simp] theorem State.modTile_tsr (s : State) (n : Nat) (f : Tile → Tile) (k : Nat) :
    (s.modTile n f).tsr k = s.tsr k := rfl

@[simp] theorem State.setCtx_ctx_same (s : State) (n : Nat) (x : Ctx) : (s.setCtx n x).ctx n = x :=
  SMap.get_set_same _ _ _ _
theorem State.setCtx_ctx_ne (s : State) (n : Nat) (x : Ctx) {k : Nat} (h : k ≠ n) :
    (s.setCtx n x).ctx k = s.ctx k := SMap.get_set_ne _ _ _ h
@[simp] theorem State.setCtx_strand (s : State) (n : Nat) (x : Ctx) (k : Nat) :
    (s.setCtx n x).strand k = s.strand k := rfl
@[simp] theorem State.setCtx_core (s : State) (n : Nat) (x : Ctx) (k : Nat) :
    (s.setCtx n x).core k = s.core k := rfl
@[simp] theorem State.setCtx_tile (s : State) (n : Nat) (x : Ctx) (k : Nat) :
    (s.setCtx n x).tile k = s.tile k := rfl
@[simp] theorem State.setCtx_queue (s : State) (n : Nat) (x : Ctx) (k : Nat) :
    (s.setCtx n x).queue k = s.queue k := rfl
@[simp] theorem State.setCtx_link (s : State) (n : Nat) (x : Ctx) (k : Nat) :
    (s.setCtx n x).link k = s.link k := rfl
@[simp] theorem State.setCtx_gateway (s : State) (n : Nat) (x : Ctx) (k : Nat) :
    (s.setCtx n x).gateway k = s.gateway k := rfl
@[simp] theorem State.setCtx_lender (s : State) (n : Nat) (x : Ctx) (k : Nat) :
    (s.setCtx n x).lender k = s.lender k := rfl
@[simp] theorem State.setCtx_borrower (s : State) (n : Nat) (x : Ctx) (k : Nat) :
    (s.setCtx n x).borrower k = s.borrower k := rfl
@[simp] theorem State.setCtx_spinel (s : State) (n : Nat) (x : Ctx) (k : Nat) :
    (s.setCtx n x).spinel k = s.spinel k := rfl
@[simp] theorem State.setCtx_tsr (s : State) (n : Nat) (x : Ctx) (k : Nat) :
    (s.setCtx n x).tsr k = s.tsr k := rfl

@[simp] theorem State.modCtx_ctx_same (s : State) (n : Nat) (f : Ctx → Ctx) : (s.modCtx n f).ctx n = f (s.ctx n) :=
  SMap.get_set_same _ _ _ _
theorem State.modCtx_ctx_ne (s : State) (n : Nat) (f : Ctx → Ctx) {k : Nat} (h : k ≠ n) :
    (s.modCtx n f).ctx k = s.ctx k := SMap.get_set_ne _ _ _ h
@[simp] theorem State.modCtx_strand (s : State) (n : Nat) (f : Ctx → Ctx) (k : Nat) :
    (s.modCtx n f).strand k = s.strand k := rfl
@[simp] theorem State.modCtx_core (s : State) (n : Nat) (f : Ctx → Ctx) (k : Nat) :
    (s.modCtx n f).core k = s.core k := rfl
@[simp] theorem State.modCtx_tile (s : State) (n : Nat) (f : Ctx → Ctx) (k : Nat) :
    (s.modCtx n f).tile k = s.tile k := rfl
@[simp] theorem State.modCtx_queue (s : State) (n : Nat) (f : Ctx → Ctx) (k : Nat) :
    (s.modCtx n f).queue k = s.queue k := rfl
@[simp] theorem State.modCtx_link (s : State) (n : Nat) (f : Ctx → Ctx) (k : Nat) :
    (s.modCtx n f).link k = s.link k := rfl
@[simp] theorem State.modCtx_gateway (s : State) (n : Nat) (f : Ctx → Ctx) (k : Nat) :
    (s.modCtx n f).gateway k = s.gateway k := rfl
@[simp] theorem State.modCtx_lender (s : State) (n : Nat) (f : Ctx → Ctx) (k : Nat) :
    (s.modCtx n f).lender k = s.lender k := rfl
@[simp] theorem State.modCtx_borrower (s : State) (n : Nat) (f : Ctx → Ctx) (k : Nat) :
    (s.modCtx n f).borrower k = s.borrower k := rfl
@[simp] theorem State.modCtx_spinel (s : State) (n : Nat) (f : Ctx → Ctx) (k : Nat) :
    (s.modCtx n f).spinel k = s.spinel k := rfl
@[simp] theorem State.modCtx_tsr (s : State) (n : Nat) (f : Ctx → Ctx) (k : Nat) :
    (s.modCtx n f).tsr k = s.tsr k := rfl

@[simp] theorem State.modQueue_queue_same (s : State) (n : Nat) (f : HostQ → HostQ) : (s.modQueue n f).queue n = f (s.queue n) :=
  SMap.get_set_same _ _ _ _
theorem State.modQueue_queue_ne (s : State) (n : Nat) (f : HostQ → HostQ) {k : Nat} (h : k ≠ n) :
    (s.modQueue n f).queue k = s.queue k := SMap.get_set_ne _ _ _ h
@[simp] theorem State.modQueue_strand (s : State) (n : Nat) (f : HostQ → HostQ) (k : Nat) :
    (s.modQueue n f).strand k = s.strand k := rfl
@[simp] theorem State.modQueue_core (s : State) (n : Nat) (f : HostQ → HostQ) (k : Nat) :
    (s.modQueue n f).core k = s.core k := rfl
@[simp] theorem State.modQueue_tile (s : State) (n : Nat) (f : HostQ → HostQ) (k : Nat) :
    (s.modQueue n f).tile k = s.tile k := rfl
@[simp] theorem State.modQueue_ctx (s : State) (n : Nat) (f : HostQ → HostQ) (k : Nat) :
    (s.modQueue n f).ctx k = s.ctx k := rfl
@[simp] theorem State.modQueue_link (s : State) (n : Nat) (f : HostQ → HostQ) (k : Nat) :
    (s.modQueue n f).link k = s.link k := rfl
@[simp] theorem State.modQueue_gateway (s : State) (n : Nat) (f : HostQ → HostQ) (k : Nat) :
    (s.modQueue n f).gateway k = s.gateway k := rfl
@[simp] theorem State.modQueue_lender (s : State) (n : Nat) (f : HostQ → HostQ) (k : Nat) :
    (s.modQueue n f).lender k = s.lender k := rfl
@[simp] theorem State.modQueue_borrower (s : State) (n : Nat) (f : HostQ → HostQ) (k : Nat) :
    (s.modQueue n f).borrower k = s.borrower k := rfl
@[simp] theorem State.modQueue_spinel (s : State) (n : Nat) (f : HostQ → HostQ) (k : Nat) :
    (s.modQueue n f).spinel k = s.spinel k := rfl
@[simp] theorem State.modQueue_tsr (s : State) (n : Nat) (f : HostQ → HostQ) (k : Nat) :
    (s.modQueue n f).tsr k = s.tsr k := rfl

@[simp] theorem State.modLink_link_same (s : State) (n : Nat) (f : Link → Link) : (s.modLink n f).link n = f (s.link n) :=
  SMap.get_set_same _ _ _ _
theorem State.modLink_link_ne (s : State) (n : Nat) (f : Link → Link) {k : Nat} (h : k ≠ n) :
    (s.modLink n f).link k = s.link k := SMap.get_set_ne _ _ _ h
@[simp] theorem State.modLink_strand (s : State) (n : Nat) (f : Link → Link) (k : Nat) :
    (s.modLink n f).strand k = s.strand k := rfl
@[simp] theorem State.modLink_core (s : State) (n : Nat) (f : Link → Link) (k : Nat) :
    (s.modLink n f).core k = s.core k := rfl
@[simp] theorem State.modLink_tile (s : State) (n : Nat) (f : Link → Link) (k : Nat) :
    (s.modLink n f).tile k = s.tile k := rfl
@[simp] theorem State.modLink_ctx (s : State) (n : Nat) (f : Link → Link) (k : Nat) :
    (s.modLink n f).ctx k = s.ctx k := rfl
@[simp] theorem State.modLink_queue (s : State) (n : Nat) (f : Link → Link) (k : Nat) :
    (s.modLink n f).queue k = s.queue k := rfl
@[simp] theorem State.modLink_gateway (s : State) (n : Nat) (f : Link → Link) (k : Nat) :
    (s.modLink n f).gateway k = s.gateway k := rfl
@[simp] theorem State.modLink_lender (s : State) (n : Nat) (f : Link → Link) (k : Nat) :
    (s.modLink n f).lender k = s.lender k := rfl
@[simp] theorem State.modLink_borrower (s : State) (n : Nat) (f : Link → Link) (k : Nat) :
    (s.modLink n f).borrower k = s.borrower k := rfl
@[simp] theorem State.modLink_spinel (s : State) (n : Nat) (f : Link → Link) (k : Nat) :
    (s.modLink n f).spinel k = s.spinel k := rfl
@[simp] theorem State.modLink_tsr (s : State) (n : Nat) (f : Link → Link) (k : Nat) :
    (s.modLink n f).tsr k = s.tsr k := rfl

@[simp] theorem State.modGateway_gateway_same (s : State) (n : Nat) (f : Gateway → Gateway) : (s.modGateway n f).gateway n = f (s.gateway n) :=
  SMap.get_set_same _ _ _ _
theorem State.modGateway_gateway_ne (s : State) (n : Nat) (f : Gateway → Gateway) {k : Nat} (h : k ≠ n) :
    (s.modGateway n f).gateway k = s.gateway k := SMap.get_set_ne _ _ _ h
@[simp] theorem State.modGateway_strand (s : State) (n : Nat) (f : Gateway → Gateway) (k : Nat) :
    (s.modGateway n f).strand k = s.strand k := rfl
@[simp] theorem State.modGateway_core (s : State) (n : Nat) (f : Gateway → Gateway) (k : Nat) :
    (s.modGateway n f).core k = s.core k := rfl
@[simp] theorem State.modGateway_tile (s : State) (n : Nat) (f : Gateway → Gateway) (k : Nat) :
    (s.modGateway n f).tile k = s.tile k := rfl
@[simp] theorem State.modGateway_ctx (s : State) (n : Nat) (f : Gateway → Gateway) (k : Nat) :
    (s.modGateway n f).ctx k = s.ctx k := rfl
@[simp] theorem State.modGateway_queue (s : State) (n : Nat) (f : Gateway → Gateway) (k : Nat) :
    (s.modGateway n f).queue k = s.queue k := rfl
@[simp] theorem State.modGateway_link (s : State) (n : Nat) (f : Gateway → Gateway) (k : Nat) :
    (s.modGateway n f).link k = s.link k := rfl
@[simp] theorem State.modGateway_lender (s : State) (n : Nat) (f : Gateway → Gateway) (k : Nat) :
    (s.modGateway n f).lender k = s.lender k := rfl
@[simp] theorem State.modGateway_borrower (s : State) (n : Nat) (f : Gateway → Gateway) (k : Nat) :
    (s.modGateway n f).borrower k = s.borrower k := rfl
@[simp] theorem State.modGateway_spinel (s : State) (n : Nat) (f : Gateway → Gateway) (k : Nat) :
    (s.modGateway n f).spinel k = s.spinel k := rfl
@[simp] theorem State.modGateway_tsr (s : State) (n : Nat) (f : Gateway → Gateway) (k : Nat) :
    (s.modGateway n f).tsr k = s.tsr k := rfl

@[simp] theorem State.modLender_lender_same (s : State) (n : Nat) (f : Lender → Lender) : (s.modLender n f).lender n = f (s.lender n) :=
  SMap.get_set_same _ _ _ _
theorem State.modLender_lender_ne (s : State) (n : Nat) (f : Lender → Lender) {k : Nat} (h : k ≠ n) :
    (s.modLender n f).lender k = s.lender k := SMap.get_set_ne _ _ _ h
@[simp] theorem State.modLender_strand (s : State) (n : Nat) (f : Lender → Lender) (k : Nat) :
    (s.modLender n f).strand k = s.strand k := rfl
@[simp] theorem State.modLender_core (s : State) (n : Nat) (f : Lender → Lender) (k : Nat) :
    (s.modLender n f).core k = s.core k := rfl
@[simp] theorem State.modLender_tile (s : State) (n : Nat) (f : Lender → Lender) (k : Nat) :
    (s.modLender n f).tile k = s.tile k := rfl
@[simp] theorem State.modLender_ctx (s : State) (n : Nat) (f : Lender → Lender) (k : Nat) :
    (s.modLender n f).ctx k = s.ctx k := rfl
@[simp] theorem State.modLender_queue (s : State) (n : Nat) (f : Lender → Lender) (k : Nat) :
    (s.modLender n f).queue k = s.queue k := rfl
@[simp] theorem State.modLender_link (s : State) (n : Nat) (f : Lender → Lender) (k : Nat) :
    (s.modLender n f).link k = s.link k := rfl
@[simp] theorem State.modLender_gateway (s : State) (n : Nat) (f : Lender → Lender) (k : Nat) :
    (s.modLender n f).gateway k = s.gateway k := rfl
@[simp] theorem State.modLender_borrower (s : State) (n : Nat) (f : Lender → Lender) (k : Nat) :
    (s.modLender n f).borrower k = s.borrower k := rfl
@[simp] theorem State.modLender_spinel (s : State) (n : Nat) (f : Lender → Lender) (k : Nat) :
    (s.modLender n f).spinel k = s.spinel k := rfl
@[simp] theorem State.modLender_tsr (s : State) (n : Nat) (f : Lender → Lender) (k : Nat) :
    (s.modLender n f).tsr k = s.tsr k := rfl

@[simp] theorem State.modBorrower_borrower_same (s : State) (n : Nat) (f : Borrower → Borrower) : (s.modBorrower n f).borrower n = f (s.borrower n) :=
  SMap.get_set_same _ _ _ _
theorem State.modBorrower_borrower_ne (s : State) (n : Nat) (f : Borrower → Borrower) {k : Nat} (h : k ≠ n) :
    (s.modBorrower n f).borrower k = s.borrower k := SMap.get_set_ne _ _ _ h
@[simp] theorem State.modBorrower_strand (s : State) (n : Nat) (f : Borrower → Borrower) (k : Nat) :
    (s.modBorrower n f).strand k = s.strand k := rfl
@[simp] theorem State.modBorrower_core (s : State) (n : Nat) (f : Borrower → Borrower) (k : Nat) :
    (s.modBorrower n f).core k = s.core k := rfl
@[simp] theorem State.modBorrower_tile (s : State) (n : Nat) (f : Borrower → Borrower) (k : Nat) :
    (s.modBorrower n f).tile k = s.tile k := rfl
@[simp] theorem State.modBorrower_ctx (s : State) (n : Nat) (f : Borrower → Borrower) (k : Nat) :
    (s.modBorrower n f).ctx k = s.ctx k := rfl
@[simp] theorem State.modBorrower_queue (s : State) (n : Nat) (f : Borrower → Borrower) (k : Nat) :
    (s.modBorrower n f).queue k = s.queue k := rfl
@[simp] theorem State.modBorrower_link (s : State) (n : Nat) (f : Borrower → Borrower) (k : Nat) :
    (s.modBorrower n f).link k = s.link k := rfl
@[simp] theorem State.modBorrower_gateway (s : State) (n : Nat) (f : Borrower → Borrower) (k : Nat) :
    (s.modBorrower n f).gateway k = s.gateway k := rfl
@[simp] theorem State.modBorrower_lender (s : State) (n : Nat) (f : Borrower → Borrower) (k : Nat) :
    (s.modBorrower n f).lender k = s.lender k := rfl
@[simp] theorem State.modBorrower_spinel (s : State) (n : Nat) (f : Borrower → Borrower) (k : Nat) :
    (s.modBorrower n f).spinel k = s.spinel k := rfl
@[simp] theorem State.modBorrower_tsr (s : State) (n : Nat) (f : Borrower → Borrower) (k : Nat) :
    (s.modBorrower n f).tsr k = s.tsr k := rfl

@[simp] theorem State.modSpinel_spinel_same (s : State) (n : Nat) (f : Spinel → Spinel) : (s.modSpinel n f).spinel n = f (s.spinel n) :=
  SMap.get_set_same _ _ _ _
theorem State.modSpinel_spinel_ne (s : State) (n : Nat) (f : Spinel → Spinel) {k : Nat} (h : k ≠ n) :
    (s.modSpinel n f).spinel k = s.spinel k := SMap.get_set_ne _ _ _ h
@[simp] theorem State.modSpinel_strand (s : State) (n : Nat) (f : Spinel → Spinel) (k : Nat) :
    (s.modSpinel n f).strand k = s.strand k := rfl
@[simp] theorem State.modSpinel_core (s : State) (n : Nat) (f : Spinel → Spinel) (k : Nat) :
    (s.modSpinel n f).core k = s.core k := rfl
@[simp] theorem State.modSpinel_tile (s : State) (n : Nat) (f : Spinel → Spinel) (k : Nat) :
    (s.modSpinel n f).tile k = s.tile k := rfl
@[simp] theorem State.modSpinel_ctx (s : State) (n : Nat) (f : Spinel → Spinel) (k : Nat) :
    (s.modSpinel n f).ctx k = s.ctx k := rfl
@[simp] theorem State.modSpinel_queue (s : State) (n : Nat) (f : Spinel → Spinel) (k : Nat) :
    (s.modSpinel n f).queue k = s.queue k := rfl
@[simp] theorem State.modSpinel_link (s : State) (n : Nat) (f : Spinel → Spinel) (k : Nat) :
    (s.modSpinel n f).link k = s.link k := rfl
@[simp] theorem State.modSpinel_gateway (s : State) (n : Nat) (f : Spinel → Spinel) (k : Nat) :
    (s.modSpinel n f).gateway k = s.gateway k := rfl
@[simp] theorem State.modSpinel_lender (s : State) (n : Nat) (f : Spinel → Spinel) (k : Nat) :
    (s.modSpinel n f).lender k = s.lender k := rfl
@[simp] theorem State.modSpinel_borrower (s : State) (n : Nat) (f : Spinel → Spinel) (k : Nat) :
    (s.modSpinel n f).borrower k = s.borrower k := rfl
@[simp] theorem State.modSpinel_tsr (s : State) (n : Nat) (f : Spinel → Spinel) (k : Nat) :
    (s.modSpinel n f).tsr k = s.tsr k := rfl

@[simp] theorem State.modTsr_tsr_same (s : State) (n : Nat) (f : Tsr → Tsr) : (s.modTsr n f).tsr n = f (s.tsr n) :=
  SMap.get_set_same _ _ _ _
theorem State.modTsr_tsr_ne (s : State) (n : Nat) (f : Tsr → Tsr) {k : Nat} (h : k ≠ n) :
    (s.modTsr n f).tsr k = s.tsr k := SMap.get_set_ne _ _ _ h
@[simp] theorem State.modTsr_strand (s : State) (n : Nat) (f : Tsr → Tsr) (k : Nat) :
    (s.modTsr n f).strand k = s.strand k := rfl
@[simp] theorem State.modTsr_core (s : State) (n : Nat) (f : Tsr → Tsr) (k : Nat) :
    (s.modTsr n f).core k = s.core k := rfl
@[simp] theorem State.modTsr_tile (s : State) (n : Nat) (f : Tsr → Tsr) (k : Nat) :
    (s.modTsr n f).tile k = s.tile k := rfl
@[simp] theorem State.modTsr_ctx (s : State) (n : Nat) (f : Tsr → Tsr) (k : Nat) :
    (s.modTsr n f).ctx k = s.ctx k := rfl
@[simp] theorem State.modTsr_queue (s : State) (n : Nat) (f : Tsr → Tsr) (k : Nat) :
    (s.modTsr n f).queue k = s.queue k := rfl
@[simp] theorem State.modTsr_link (s : State) (n : Nat) (f : Tsr → Tsr) (k : Nat) :
    (s.modTsr n f).link k = s.link k := rfl
@[simp] theorem State.modTsr_gateway (s : State) (n : Nat) (f : Tsr → Tsr) (k : Nat) :
    (s.modTsr n f).gateway k = s.gateway k := rfl
@[simp] theorem State.modTsr_lender (s : State) (n : Nat) (f : Tsr → Tsr) (k : Nat) :
    (s.modTsr n f).lender k = s.lender k := rfl
@[simp] theorem State.modTsr_borrower (s : State) (n : Nat) (f : Tsr → Tsr) (k : Nat) :
    (s.modTsr n f).borrower k = s.borrower k := rfl
@[simp] theorem State.modTsr_spinel (s : State) (n : Nat) (f : Tsr → Tsr) (k : Nat) :
    (s.modTsr n f).spinel k = s.spinel k := rfl

@[simp] theorem State.setCore_me (s : State) (n : Nat) (x : Core) : (s.setCore n x).me = s.me := rfl
@[simp] theorem State.modCore_me (s : State) (n : Nat) (f : Core → Core) : (s.modCore n f).me = s.me := rfl
@[simp] theorem State.setTile_me (s : State) (n : Nat) (x : Tile) : (s.setTile n x).me = s.me := rfl
@[simp] theorem State.modTile_me (s : State) (n : Nat) (f : Tile → Tile) : (s.modTile n f).me = s.me := rfl
@[simp] theorem State.setCtx_me (s : State) (n : Nat) (x : Ctx) : (s.setCtx n x).me = s.me := rfl
@[simp] theorem State.modCtx_me (s : State) (n : Nat) (f : Ctx → Ctx) : (s.modCtx n f).me = s.me := rfl
@[simp] theorem State.modQueue_me (s : State) (n : Nat) (f : HostQ → HostQ) : (s.modQueue n f).me = s.me := rfl
@[simp] theorem State.modLink_me (s : State) (n : Nat) (f : Link → Link) : (s.modLink n f).me = s.me := rfl
@[simp] theorem State.modGateway_me (s : State) (n : Nat) (f : Gateway → Gateway) : (s.modGateway n f).me = s.me := rfl
@[simp] theorem State.modLender_me (s : State) (n : Nat) (f : Lender → Lender) : (s.modLender n f).me = s.me := rfl
@[simp] theorem State.modBorrower_me (s : State) (n : Nat) (f : Borrower → Borrower) : (s.modBorrower n f).me = s.me := rfl
@[simp] theorem State.modSpinel_me (s : State) (n : Nat) (f : Spinel → Spinel) : (s.modSpinel n f).me = s.me := rfl
@[simp] theorem State.modTsr_me (s : State) (n : Nat) (f : Tsr → Tsr) : (s.modTsr n f).me = s.me := rfl

@[simp] theorem State.me_modMe (s : State) (f : Strand → Strand) : (s.modMe f).me = f s.me :=
  SMap.get_set_same _ _ _ _

theorem State.strand_modMe_ne (s : State) (f : Strand → Strand) {k : Nat} (h : k ≠ s.cur) :
    (s.modMe f).strand k = s.strand k := SMap.get_set_ne _ _ _ h

@[simp] theorem State.strand_modMe_cur (s : State) (f : Strand → Strand) :
    (s.modMe f).strand s.cur = f s.me := SMap.get_set_same _ _ _ _

/-! ### Registers -/

@[simp] theorem readG_zero (st : Strand) : readG st 0 = 0 := rfl
@[simp] theorem writeG_zero (st : Strand) (v : Word) : writeG st 0 v = st := rfl
@[simp] theorem readP_zero (st : Strand) : readP st 0 = true := rfl
@[simp] theorem writeP_zero (st : Strand) (b : Bool) : writeP st 0 b = st := rfl
@[simp] theorem readM_zero (st : Strand) : readM st 0 = BitVec.allOnes 16 := rfl
@[simp] theorem writeM_zero (st : Strand) (v : MaskWord) : writeM st 0 v = st := rfl

theorem readG_writeG_same (st : Strand) {r : GReg} (v : Word) (h : r ≠ 0) : readG (writeG st r v) r = v := by
  simp [readG, writeG, h]

theorem readG_writeG_ne (st : Strand) {r q : GReg} (v : Word) (h : q ≠ r) :
    readG (writeG st r v) q = readG st q := by
  unfold readG writeG
  split
  · rfl
  · split
    · rfl
    · exact Vector.getElem_set_ne r.isLt q.isLt (fun e => h (Fin.ext e.symm))

theorem readW_writeW_same (st : Strand) (r : WReg) (v : VecWord) : readW (writeW st r v) r = v := by
  show (st.w.set r.val v)[r.val] = v
  exact Vector.getElem_set_self _

theorem readW_writeW_ne (st : Strand) {r q : WReg} (v : VecWord) (h : q ≠ r) :
    readW (writeW st r v) q = readW st q := by
  unfold readW writeW
  exact Vector.getElem_set_ne r.isLt q.isLt (fun e => h (Fin.ext e.symm))

theorem readM_writeM_same (st : Strand) {r : MReg} (v : MaskWord) (h : r ≠ 0) : readM (writeM st r v) r = v := by
  simp [readM, writeM, h]

theorem readM_writeM_ne (st : Strand) {r q : MReg} (v : MaskWord) (h : q ≠ r) :
    readM (writeM st r v) q = readM st q := by
  unfold readM writeM
  split
  · rfl
  · split
    · rfl
    · exact Vector.getElem_set_ne r.isLt q.isLt (fun e => h (Fin.ext e.symm))

/-- A write of a general register touches no other field of its strand. -/
theorem writeG_eq (st : Strand) (r : GReg) (v : Word) : writeG st r v = { st with g := (writeG st r v).g } := by
  unfold writeG; split <;> rfl

/-- A write of a predicate touches no other field of its strand. -/
theorem writeP_eq (st : Strand) (r : PReg) (b : Bool) : writeP st r b = { st with p := (writeP st r b).p } := by
  unfold writeP; split <;> rfl

/-- A write of a lane mask touches no other field of its strand. -/
theorem writeM_eq (st : Strand) (r : MReg) (v : MaskWord) : writeM st r v = { st with m := (writeM st r v).m } := by
  unfold writeM; split <;> rfl

end Sys2Proof.Machine
end

