-- ==== Sys2Proof/Laws/Issue.lean ====
section
/-! SUPPORT. The shared operations of issue: one lemma for everything each can do. -/

namespace Sys2Proof.Machine

/-- What considering an instruction for issue can come to (R71, R88, R110, R124, R172). -/
theorem State.issue_cases (s : State) (i : Instr) (u : Uses) (body : State → Res) :
    (s.me.phase.issues = false ∧ s.issue i u body = s) ∨
    (s.me.phase.issues = true ∧ s.me.barred = true ∧ s.issue i u body = s.holdAt s.cur .operand) ∨
    (s.me.phase.issues = true ∧ s.me.barred = false ∧ u.inBudget s.me = false ∧
      s.issue i u body = s.raiseAtIssue s.cur .illegalInstruction (wordOf i)) ∨
    (s.me.phase.issues = true ∧ s.me.barred = false ∧ u.inBudget s.me = true ∧
      (s.me.pend.any fun p => p.blocks u) = true ∧ s.issue i u body = s.holdAt s.cur .operand) ∨
    (s.canIssue u = true ∧ s.issue i u body = s.finish (body s)) := by
  unfold State.issue State.canIssue
  cases s.me.phase.issues <;> cases s.me.barred <;> cases u.inBudget s.me <;> cases (s.me.pend.any fun p => p.blocks u) <;> simp

/-- When an instruction can issue, it comes to what its entry says. -/
theorem State.issue_of_canIssue {s : State} {u : Uses} (h : s.canIssue u = true) (i : Instr) (body : State → Res) :
    s.issue i u body = s.finish (body s) := by
  simp only [State.canIssue, Bool.and_eq_true, Bool.not_eq_true'] at h
  obtain ⟨⟨⟨h1, h2⟩, h0⟩, h3⟩ := h
  simp [State.issue, h1, h2, h0, h3]

theorem State.issue_illegal {s : State} {u : Uses} (h1 : s.me.phase.issues = true) (h0 : s.me.barred = false)
    (h2 : u.inBudget s.me = false) (i : Instr) (body : State → Res) :
    s.issue i u body = s.raiseAtIssue s.cur .illegalInstruction (wordOf i) := by
  simp [State.issue, h1, h0, h2]

theorem State.issue_barred {s : State} (h1 : s.me.phase.issues = true) (h0 : s.me.barred = true) (i : Instr) (u : Uses)
    (body : State → Res) : s.issue i u body = s.holdAt s.cur .operand := by
  simp [State.issue, h1, h0]

theorem State.issue_held {s : State} {u : Uses} (h1 : s.me.phase.issues = true) (h2 : u.inBudget s.me = true)
    (h3 : (s.me.pend.any fun p => p.blocks u) = true) (i : Instr) (body : State → Res) :
    s.issue i u body = s.holdAt s.cur .operand := by
  unfold State.issue
  cases h0 : s.me.barred <;> simp [h1, h2, h3]

theorem State.issue_not {s : State} {u : Uses} (h : s.me.phase.issues = false) (i : Instr) (body : State → Res) :
    s.issue i u body = s := by simp [State.issue, h]

/-! ### What a result comes to -/

@[simp] theorem State.finish_go (s s' : State) : s.finish (.go s') = s.goesOn s' := rfl
@[simp] theorem State.finish_goLc (s s' : State) : s.finish (.goLc s') = s'.advance s.cur s.me none true := rfl
@[simp] theorem State.finish_jump (s s' : State) (t : BitVec 48) :
    s.finish (.jump s' t) = s.goesTo s' t := rfl
@[simp] theorem State.finish_trap (s : State) (c : Cause) (b : Word) :
    s.finish (.trap c b) = s.raiseAtIssue s.cur c b := rfl
@[simp] theorem State.finish_hold (s : State) (c : StallCause) : s.finish (.hold c) = s.holdAt s.cur c := rfl
@[simp] theorem State.finish_ended (s s' : State) : s.finish (.ended s') = s' := rfl
@[simp] theorem State.finish_trapIn (s s' : State) (c : Cause) (b : Word) :
    s.finish (.trapIn s' c b) = s'.raiseAtIssue s.cur c b := rfl

theorem State.goesOn_modMe (s : State) (f : Strand → Strand) : s.goesOn (s.modMe f) = s.completes (f s.me) := rfl

/-- A result for a general register (R171). -/
theorem State.finish_putG (s : State) (d : GReg) (v : Word) :
    s.finish (s.putG d v) =
      if s.me.spBad d v then s.raiseAtIssue s.cur .stackLimit v else s.completes (writeG s.me d v) := by
  unfold State.putG
  split <;> rfl

/-- The same beside another effect. -/
theorem State.finish_putGAnd (s s' : State) (d : GReg) (v : Word) :
    s.finish (s.putGAnd s' d v) =
      if s.me.spBad d v then s.raiseAtIssue s.cur .stackLimit v
      else s.goesOn (s'.modMe fun st => writeG st d v) := by
  unfold State.putGAnd
  split <;> rfl

end Sys2Proof.Machine
end

