-- ==== Sys2Proof/Laws/Memory.lean ====
section
/-! SUPPORT. Memory: a read after a write, what a write leaves alone, and that every memory operation keeps
the canonical form. -/

namespace Sys2Proof.Machine

/-! ### The canonical form -/

/-- The canonical form as two facts about the list: the places rise, and no byte is 0. -/
theorem Memory.wf_iff (m : List Host.Cell) :
    Memory.wf m = true ↔ m.Pairwise (fun a b => a.1 < b.1) ∧ ∀ e ∈ m, e.2 ≠ 0 := by
  induction m with
  | nil => simp [Memory.wf]
  | cons e r ih =>
    obtain ⟨k, v⟩ := e
    cases r with
    | nil => simp [Memory.wf]
    | cons e' r' =>
      obtain ⟨k', v'⟩ := e'
      rw [Memory.wf, Bool.and_eq_true, Bool.and_eq_true, ih]
      simp only [List.pairwise_cons, List.mem_cons, forall_eq_or_imp, bne_iff_ne, ne_eq, decide_eq_true_eq]
      constructor
      · rintro ⟨⟨hv, hk⟩, ⟨h1, h2⟩, h3, h4⟩
        exact ⟨⟨⟨hk, fun a ha => Nat.lt_trans hk (h1 a ha)⟩, h1, h2⟩, hv, h3, h4⟩
      · rintro ⟨⟨⟨hk, _⟩, h1, h2⟩, hv, h3, h4⟩
        exact ⟨⟨hv, hk⟩, ⟨h1, h2⟩, h3, h4⟩

/-- Dropping entries keeps the form. -/
theorem Memory.wf_filter {m : List Host.Cell} (p : Host.Cell → Bool) (h : Memory.wf m = true) :
    Memory.wf (m.filter p) = true := by
  rw [Memory.wf_iff] at *
  exact ⟨h.1.filter p, fun e he => h.2 e (List.mem_filter.mp he).1⟩

theorem mem_memInsert {a : Nat} {b : Byte} {m : List Host.Cell} {e : Host.Cell} :
    e ∈ memInsert a b m ↔ e = (a, b) ∨ e ∈ m := by
  induction m with
  | nil => simp [memInsert]
  | cons x r ih =>
    obtain ⟨k, v⟩ := x
    simp only [memInsert]
    split
    · simp
    · simp only [List.mem_cons, ih]; tauto

theorem pairwise_memInsert {a : Nat} {b : Byte} {m : List Host.Cell}
    (h : m.Pairwise fun x y => x.1 < y.1) (ha : ∀ e ∈ m, e.1 ≠ a) :
    (memInsert a b m).Pairwise fun x y => x.1 < y.1 := by
  induction m with
  | nil => simp [memInsert]
  | cons x r ih =>
    obtain ⟨k, v⟩ := x
    obtain ⟨h1, h2⟩ := List.pairwise_cons.mp h
    have hk : k ≠ a := ha (k, v) (List.mem_cons_self ..)
    simp only [memInsert]
    split
    · rename_i hlt
      refine List.pairwise_cons.mpr ⟨fun e he => ?_, h⟩
      rcases List.mem_cons.mp he with rfl | he
      · exact hlt
      · exact Nat.lt_trans hlt (h1 e he)
    · rename_i hlt
      refine List.pairwise_cons.mpr ⟨fun e he => ?_, ih h2 fun e he => ha e (List.mem_cons_of_mem _ he)⟩
      rcases mem_memInsert.mp he with rfl | he
      · exact Nat.lt_of_le_of_ne (Nat.le_of_not_lt hlt) hk
      · exact h1 e he

/-- Writing one byte keeps the form. -/
theorem Memory.wf_memWrite {m : List Host.Cell} (a : Nat) (b : Byte) (h : Memory.wf m = true) :
    Memory.wf (memWrite m a b) = true := by
  have hf := (Memory.wf_iff _).mp (Memory.wf_filter (fun e => e.1 != a) h)
  unfold memWrite
  split
  · exact (Memory.wf_iff _).mpr hf
  · rename_i hb
    refine (Memory.wf_iff _).mpr ⟨pairwise_memInsert hf.1 fun e he => ?_, fun e he => ?_⟩
    · simpa using (List.mem_filter.mp he).2
    · rcases mem_memInsert.mp he with rfl | he
      · exact hb
      · exact hf.2 e he

/-! ### Reading -/

theorem memByte_filter_ne (m : List Host.Cell) {a c : Nat} (h : c ≠ a) :
    memByte (m.filter fun e => e.1 != a) c = memByte m c := by
  induction m with
  | nil => rfl
  | cons e r ih =>
    obtain ⟨k, v⟩ := e
    by_cases hk : k = a
    · subst hk; simp [memByte, ih, Ne.symm h]
    · by_cases hc : k = c
      · subst hc; simp [memByte, h]
      · simp [memByte, hk, hc, ih]

theorem memByte_of_absent {m : List Host.Cell} {a : Nat} (h : ∀ e ∈ m, e.1 ≠ a) : memByte m a = 0 := by
  induction m with
  | nil => rfl
  | cons e r ih =>
    obtain ⟨k, v⟩ := e
    have hk : k ≠ a := h (k, v) (List.mem_cons_self ..)
    simp [memByte, hk, ih fun e he => h e (List.mem_cons_of_mem _ he)]

theorem memByte_memInsert (m : List Host.Cell) (a : Nat) (b : Byte) (c : Nat) (ha : ∀ e ∈ m, e.1 ≠ a) :
    memByte (memInsert a b m) c = if a = c then b else memByte m c := by
  induction m with
  | nil => simp [memInsert, memByte]
  | cons e r ih =>
    obtain ⟨k, v⟩ := e
    have hk : k ≠ a := ha (k, v) (List.mem_cons_self ..)
    simp only [memInsert]
    split
    · simp [memByte]
    · simp only [memByte, ih fun e he => ha e (List.mem_cons_of_mem _ he)]
      by_cases h1 : k = c
      · subst h1; simp [Ne.symm hk]
      · simp [h1]

/-- A byte reads as it was written; every other byte reads as before. -/
theorem memByte_memWrite (m : List Host.Cell) (a : Nat) (b : Byte) (c : Nat) :
    memByte (memWrite m a b) c = if a = c then b else memByte m c := by
  have habs : ∀ e ∈ m.filter (fun e => e.1 != a), e.1 ≠ a := fun e he => by
    simpa using (List.mem_filter.mp he).2
  unfold memWrite
  split
  · rename_i hb
    by_cases h : a = c
    · subst h; simp [memByte_of_absent habs, hb]
    · simp [h, memByte_filter_ne m (Ne.symm h)]
  · rw [memByte_memInsert _ _ _ _ habs]
    by_cases h : a = c
    · simp [h]
    · simp [h, memByte_filter_ne m (Ne.symm h)]

/-- What one write of a byte does to every byte (R385 for the reserved places). -/
theorem State.byte_setByte (s : State) (a : Nat) (b : Byte) (c : Nat) :
    (s.setByte a b).byte c = if a = c ∧ isReservedByte a = false then b else s.byte c := by
  unfold State.setByte State.byte
  by_cases h : isReservedByte a = true
  · simp [h]
  · simp [h, memByte_memWrite]

/-- A run of bytes written leaves every byte outside it alone. -/
theorem State.byte_writeRaw_outside (s : State) (a : Nat) (bs : List Byte) {c : Nat}
    (h : c < a ∨ a + bs.length ≤ c) : (s.writeRaw a bs).byte c = s.byte c := by
  induction bs generalizing s a with
  | nil => rfl
  | cons b r ih =>
    simp only [List.length_cons] at h
    simp only [State.writeRaw]
    rw [ih _ _ (by omega), State.byte_setByte, if_neg]
    rintro ⟨rfl, _⟩; omega

/-- A byte of a run that has been written reads as written, outside the reserved places. -/
theorem State.byte_writeRaw (s : State) (a : Nat) (bs : List Byte) (i : Nat) (h : i < bs.length)
    (hr : isReservedByte (a + i) = false) : (s.writeRaw a bs).byte (a + i) = bs[i] := by
  induction bs generalizing s a i with
  | nil => simp at h
  | cons b r ih =>
    simp only [State.writeRaw]
    cases i with
    | zero =>
      rw [State.byte_writeRaw_outside _ _ _ (by omega), State.byte_setByte]
      simp at hr; simp [hr]
    | succ j =>
      have e : a + (j + 1) = a + 1 + j := by omega
      simp only [List.length_cons] at h
      rw [e] at hr ⊢
      rw [ih _ _ _ (by omega) hr]; rfl

/-! ### Every memory operation keeps the form -/

theorem State.setByte_wf {s : State} (a : Nat) (b : Byte) (h : Memory.wf s.mem = true) :
    Memory.wf (s.setByte a b).mem = true := by
  unfold State.setByte
  split
  · exact h
  · exact Memory.wf_memWrite a b h

theorem State.writeRaw_wf {s : State} (a : Nat) (bs : List Byte) (h : Memory.wf s.mem = true) :
    Memory.wf (s.writeRaw a bs).mem = true := by
  induction bs generalizing s a with
  | nil => exact h
  | cons b r ih => exact ih _ (State.setByte_wf a b h)

theorem State.writeLines_wf {s : State} (k fuel pa : Nat) (bs : List Byte) (h : Memory.wf s.mem = true) :
    Memory.wf (s.writeLines k fuel pa bs).mem = true := by
  induction fuel generalizing s pa bs with
  | zero => exact h
  | succ n ih =>
    simp only [State.writeLines]
    split
    · exact h
    · exact ih _ _ (State.writeRaw_wf _ _ h)

theorem State.writePlain_wf {s : State} (pa : Nat) (key : Option Nat) (bs : List Byte)
    (h : Memory.wf s.mem = true) : Memory.wf (s.writePlain pa key bs).mem = true := by
  cases key with
  | none => exact State.writeRaw_wf _ _ h
  | some k => exact State.writeLines_wf _ _ _ _ h

theorem State.writeTarget_wf {s : State} (t : Target) (off : Nat) (bs : List Byte)
    (h : Memory.wf s.mem = true) : Memory.wf (s.writeTarget t off bs).mem = true := by
  cases t with
  | mem pa key => exact State.writePlain_wf (s := s) _ _ _ h
  | lease i o k => exact h

theorem reset_mem_wf : Memory.wf State.reset.mem = true := rfl

/-! ### A write changes memory and nothing else -/

theorem State.setByte_eq (s : State) (a : Nat) (b : Byte) : s.setByte a b = { s with mem := (s.setByte a b).mem } := by
  unfold State.setByte; split <;> rfl

theorem State.writeRaw_eq (s : State) (a : Nat) (bs : List Byte) :
    s.writeRaw a bs = { s with mem := (s.writeRaw a bs).mem } := by
  induction bs generalizing s a with
  | nil => rfl
  | cons b r ih => simp only [State.writeRaw]; rw [ih, State.setByte_eq]

theorem State.writeLines_eq (s : State) (k fuel pa : Nat) (bs : List Byte) :
    s.writeLines k fuel pa bs = { s with mem := (s.writeLines k fuel pa bs).mem } := by
  induction fuel generalizing s pa bs with
  | zero => rfl
  | succ n ih =>
    simp only [State.writeLines]
    split
    · rfl
    · rw [ih, State.writeRaw_eq]

theorem State.writePlain_eq (s : State) (pa : Nat) (key : Option Nat) (bs : List Byte) :
    s.writePlain pa key bs = { s with mem := (s.writePlain pa key bs).mem } := by
  cases key with
  | none => exact State.writeRaw_eq _ _ _
  | some k => exact State.writeLines_eq _ _ _ _ _

/-! ### Numbers and bytes (R2) -/

theorem leBytes_length (n v : Nat) : (leBytes n v).length = n := by
  induction n generalizing v with
  | zero => rfl
  | succ n ih => simp [leBytes, ih]

/-- The number of the bytes of a number is the number, in the bytes there are. -/
theorem leNat_leBytes (n v : Nat) : leNat (leBytes n v) = v % 2 ^ (8 * n) := by
  induction n generalizing v with
  | zero => simp [leBytes, leNat, Nat.mod_one]
  | succ n ih =>
    simp only [leBytes, leNat, ih, BitVec.toNat_ofNat]
    have e : 2 ^ (8 * (n + 1)) = 256 * 2 ^ (8 * n) := by rw [Nat.mul_add, Nat.pow_add]; omega
    rw [e, Nat.mod_mul]

end Sys2Proof.Machine
end

