-- ==== Sys2Proof/Laws/PerInstr.lean ====
section
/-! SUPPORT. Facts about every instruction as syntax, one lemma per constructor. -/

set_option Elab.async false

namespace Sys2Proof.Laws.Fits

open Sys2Proof

/-- The encoding is one word of 32 bits (R96); it is 0 or has a major opcode other than 0 (R100). -/
def Statement (i : Instr) : Prop := encode i < 2 ^ 32 ∧ (encode i = 0 ∨ 2 ^ 26 ≤ encode i)

theorem vtype_code (t : VType) : t.code ≤ 7 := by cases t <;> decide
theorem cond_code (c : Cond) : c.code ≤ 5 := by cases c <;> decide
theorem fcond_code (c : FCond) : c.code ≤ 4 := by cases c <;> decide
theorem ffmt_code (c : FFmt) : c.code ≤ 6 := by cases c <;> decide
theorem ldSize_code (c : LdSize) : c.code ≤ 6 := by cases c <;> decide
theorem stSize_code (c : StSize) : c.code ≤ 3 := by cases c <;> decide
theorem fenceKind_code (c : FenceKind) : c.code ≤ 2 := by cases c <;> decide
theorem scope_code (c : Scope) : c.code ≤ 4 := by cases c <;> decide
theorem flag_le (b : Bool) : b.toNat ≤ 1 := by cases b <;> decide

theorem add (d : GReg) (a : GReg) (b : GReg) : Statement (.add d a b) := by
  simp only [Statement, encode]; omega
theorem sub (d : GReg) (a : GReg) (b : GReg) : Statement (.sub d a b) := by
  simp only [Statement, encode]; omega
theorem and (d : GReg) (a : GReg) (b : GReg) : Statement (.and d a b) := by
  simp only [Statement, encode]; omega
theorem or (d : GReg) (a : GReg) (b : GReg) : Statement (.or d a b) := by
  simp only [Statement, encode]; omega
theorem xor (d : GReg) (a : GReg) (b : GReg) : Statement (.xor d a b) := by
  simp only [Statement, encode]; omega
theorem andn (d : GReg) (a : GReg) (b : GReg) : Statement (.andn d a b) := by
  simp only [Statement, encode]; omega
theorem shl (d : GReg) (a : GReg) (b : GReg) : Statement (.shl d a b) := by
  simp only [Statement, encode]; omega
theorem shr (d : GReg) (a : GReg) (b : GReg) : Statement (.shr d a b) := by
  simp only [Statement, encode]; omega
theorem sar (d : GReg) (a : GReg) (b : GReg) : Statement (.sar d a b) := by
  simp only [Statement, encode]; omega
theorem ror (d : GReg) (a : GReg) (b : GReg) : Statement (.ror d a b) := by
  simp only [Statement, encode]; omega
theorem min (d : GReg) (a : GReg) (b : GReg) : Statement (.min d a b) := by
  simp only [Statement, encode]; omega
theorem max (d : GReg) (a : GReg) (b : GReg) : Statement (.max d a b) := by
  simp only [Statement, encode]; omega
theorem minu (d : GReg) (a : GReg) (b : GReg) : Statement (.minu d a b) := by
  simp only [Statement, encode]; omega
theorem maxu (d : GReg) (a : GReg) (b : GReg) : Statement (.maxu d a b) := by
  simp only [Statement, encode]; omega
theorem slt (d : GReg) (a : GReg) (b : GReg) : Statement (.slt d a b) := by
  simp only [Statement, encode]; omega
theorem sltu (d : GReg) (a : GReg) (b : GReg) : Statement (.sltu d a b) := by
  simp only [Statement, encode]; omega
theorem seq (d : GReg) (a : GReg) (b : GReg) : Statement (.seq d a b) := by
  simp only [Statement, encode]; omega
theorem mul (d : GReg) (a : GReg) (b : GReg) : Statement (.mul d a b) := by
  simp only [Statement, encode]; omega
theorem mulh (d : GReg) (a : GReg) (b : GReg) : Statement (.mulh d a b) := by
  simp only [Statement, encode]; omega
theorem mulhu (d : GReg) (a : GReg) (b : GReg) : Statement (.mulhu d a b) := by
  simp only [Statement, encode]; omega
theorem div (d : GReg) (a : GReg) (b : GReg) : Statement (.div d a b) := by
  simp only [Statement, encode]; omega
theorem divu (d : GReg) (a : GReg) (b : GReg) : Statement (.divu d a b) := by
  simp only [Statement, encode]; omega
theorem rem (d : GReg) (a : GReg) (b : GReg) : Statement (.rem d a b) := by
  simp only [Statement, encode]; omega
theorem remu (d : GReg) (a : GReg) (b : GReg) : Statement (.remu d a b) := by
  simp only [Statement, encode]; omega
theorem clz (d : GReg) (a : GReg) : Statement (.clz d a) := by
  simp only [Statement, encode]; omega
theorem ctz (d : GReg) (a : GReg) : Statement (.ctz d a) := by
  simp only [Statement, encode]; omega
theorem popc (d : GReg) (a : GReg) : Statement (.popc d a) := by
  simp only [Statement, encode]; omega
theorem sel (d : GReg) (a : GReg) (b : GReg) (p : PReg) : Statement (.sel d a b p) := by
  simp only [Statement, encode]; omega
theorem addi (d : GReg) (a : GReg) (i : BitVec 16) : Statement (.addi d a i) := by
  simp only [Statement, encode]; omega
theorem andi (d : GReg) (a : GReg) (i : BitVec 16) : Statement (.andi d a i) := by
  simp only [Statement, encode]; omega
theorem ori (d : GReg) (a : GReg) (i : BitVec 16) : Statement (.ori d a i) := by
  simp only [Statement, encode]; omega
theorem xori (d : GReg) (a : GReg) (i : BitVec 16) : Statement (.xori d a i) := by
  simp only [Statement, encode]; omega
theorem slti (d : GReg) (a : GReg) (i : BitVec 15) : Statement (.slti d a i) := by
  simp only [Statement, encode]; omega
theorem sltiu (d : GReg) (a : GReg) (i : BitVec 15) : Statement (.sltiu d a i) := by
  simp only [Statement, encode]; omega
theorem shli (d : GReg) (a : GReg) (s : BitVec 6) : Statement (.shli d a s) := by
  simp only [Statement, encode]; omega
theorem shri (d : GReg) (a : GReg) (s : BitVec 6) : Statement (.shri d a s) := by
  simp only [Statement, encode]; omega
theorem sari (d : GReg) (a : GReg) (s : BitVec 6) : Statement (.sari d a s) := by
  simp only [Statement, encode]; omega
theorem rori (d : GReg) (a : GReg) (s : BitVec 6) : Statement (.rori d a s) := by
  simp only [Statement, encode]; omega
theorem insh (d : GReg) (h : BitVec 2) (i : BitVec 16) : Statement (.insh d h i) := by
  simp only [Statement, encode]; omega
theorem aupc (d : GReg) (i : BitVec 16) : Statement (.aupc d i) := by
  simp only [Statement, encode]; omega
theorem bfx (d : GReg) (a : GReg) (p : BitVec 6) (w : BitVec 6) : Statement (.bfx d a p w) := by
  simp only [Statement, encode]; omega
theorem bfxu (d : GReg) (a : GReg) (p : BitVec 6) (w : BitVec 6) : Statement (.bfxu d a p w) := by
  simp only [Statement, encode]; omega
theorem bfi (d : GReg) (a : GReg) (p : BitVec 6) (w : BitVec 6) : Statement (.bfi d a p w) := by
  simp only [Statement, encode]; omega
theorem pcmp (d : PReg) (a : GReg) (b : GReg) (c : Cond) : Statement (.pcmp d a b c) := by
  have := cond_code c
  simp only [Statement, encode]; omega
theorem pcmpi (d : PReg) (a : GReg) (i : BitVec 5) (c : Cond) (j : BitVec 3) : Statement (.pcmpi d a i c j) := by
  have := cond_code c
  simp only [Statement, encode]; omega
theorem pand (d : PReg) (a : PReg) (b : PReg) : Statement (.pand d a b) := by
  simp only [Statement, encode]; omega
theorem por (d : PReg) (a : PReg) (b : PReg) : Statement (.por d a b) := by
  simp only [Statement, encode]; omega
theorem pxor (d : PReg) (a : PReg) (b : PReg) : Statement (.pxor d a b) := by
  simp only [Statement, encode]; omega
theorem pnot (d : PReg) (a : PReg) : Statement (.pnot d a) := by
  simp only [Statement, encode]; omega
theorem psave (d : GReg) : Statement (.psave d) := by
  simp only [Statement, encode]; omega
theorem pload (a : GReg) : Statement (.pload a) := by
  simp only [Statement, encode]; omega
theorem pmov (d : PReg) (a : PReg) : Statement (.pmov d a) := by
  simp only [Statement, encode]; omega
theorem fadd (d : GReg) (a : GReg) (b : GReg) : Statement (.fadd d a b) := by
  simp only [Statement, encode]; omega
theorem fsub (d : GReg) (a : GReg) (b : GReg) : Statement (.fsub d a b) := by
  simp only [Statement, encode]; omega
theorem fmul (d : GReg) (a : GReg) (b : GReg) : Statement (.fmul d a b) := by
  simp only [Statement, encode]; omega
theorem ffma (d : GReg) (a : GReg) (b : GReg) : Statement (.ffma d a b) := by
  simp only [Statement, encode]; omega
theorem fmin (d : GReg) (a : GReg) (b : GReg) : Statement (.fmin d a b) := by
  simp only [Statement, encode]; omega
theorem fmax (d : GReg) (a : GReg) (b : GReg) : Statement (.fmax d a b) := by
  simp only [Statement, encode]; omega
theorem fneg (d : GReg) (a : GReg) : Statement (.fneg d a) := by
  simp only [Statement, encode]; omega
theorem fabs (d : GReg) (a : GReg) : Statement (.fabs d a) := by
  simp only [Statement, encode]; omega
theorem fcmp (d : GReg) (a : GReg) (b : GReg) (c : FCond) : Statement (.fcmp d a b c) := by
  have := fcond_code c
  simp only [Statement, encode]; omega
theorem fcvt (d : GReg) (a : GReg) (s : FFmt) (t : FFmt) : Statement (.fcvt d a s t) := by
  have := ffmt_code s
  have := ffmt_code t
  simp only [Statement, encode]; omega
theorem br (o : BitVec 26) : Statement (.br o) := by
  simp only [Statement, encode]; omega
theorem call (o : BitVec 26) : Statement (.call o) := by
  simp only [Statement, encode]; omega
theorem beq (b : GReg) (a : GReg) (o : BitVec 16) : Statement (.beq b a o) := by
  simp only [Statement, encode]; omega
theorem bne (b : GReg) (a : GReg) (o : BitVec 16) : Statement (.bne b a o) := by
  simp only [Statement, encode]; omega
theorem blt (b : GReg) (a : GReg) (o : BitVec 16) : Statement (.blt b a o) := by
  simp only [Statement, encode]; omega
theorem bge (b : GReg) (a : GReg) (o : BitVec 16) : Statement (.bge b a o) := by
  simp only [Statement, encode]; omega
theorem bltu (b : GReg) (a : GReg) (o : BitVec 16) : Statement (.bltu b a o) := by
  simp only [Statement, encode]; omega
theorem bgeu (b : GReg) (a : GReg) (o : BitVec 16) : Statement (.bgeu b a o) := by
  simp only [Statement, encode]; omega
theorem bp (p : PReg) (s : Bool) (o : BitVec 16) : Statement (.bp p s o) := by
  have := flag_le s
  simp only [Statement, encode]; omega
theorem jr (a : GReg) : Statement (.jr a) := by
  simp only [Statement, encode]; omega
theorem callr (a : GReg) : Statement (.callr a) := by
  simp only [Statement, encode]; omega
theorem ret : Statement (.ret) := by
  simp only [Statement, encode]; omega
theorem loop (a : GReg) (i : BitVec 16) : Statement (.loop a i) := by
  simp only [Statement, encode]; omega
theorem ldb (d : GReg) (a : GReg) (i : BitVec 16) : Statement (.ldb d a i) := by
  simp only [Statement, encode]; omega
theorem ldh (d : GReg) (a : GReg) (i : BitVec 16) : Statement (.ldh d a i) := by
  simp only [Statement, encode]; omega
theorem ldw (d : GReg) (a : GReg) (i : BitVec 16) : Statement (.ldw d a i) := by
  simp only [Statement, encode]; omega
theorem ldd (d : GReg) (a : GReg) (i : BitVec 16) : Statement (.ldd d a i) := by
  simp only [Statement, encode]; omega
theorem ldbu (d : GReg) (a : GReg) (i : BitVec 16) : Statement (.ldbu d a i) := by
  simp only [Statement, encode]; omega
theorem ldhu (d : GReg) (a : GReg) (i : BitVec 16) : Statement (.ldhu d a i) := by
  simp only [Statement, encode]; omega
theorem ldwu (d : GReg) (a : GReg) (i : BitVec 16) : Statement (.ldwu d a i) := by
  simp only [Statement, encode]; omega
theorem stb (b : GReg) (a : GReg) (i : BitVec 16) : Statement (.stb b a i) := by
  simp only [Statement, encode]; omega
theorem sth (b : GReg) (a : GReg) (i : BitVec 16) : Statement (.sth b a i) := by
  simp only [Statement, encode]; omega
theorem stw (b : GReg) (a : GReg) (i : BitVec 16) : Statement (.stw b a i) := by
  simp only [Statement, encode]; omega
theorem std (b : GReg) (a : GReg) (i : BitVec 16) : Statement (.std b a i) := by
  simp only [Statement, encode]; omega
theorem ldx (d : GReg) (a : GReg) (b : GReg) (z : LdSize) (s : Bool) : Statement (.ldx d a b z s) := by
  have := ldSize_code z
  have := flag_le s
  simp only [Statement, encode]; omega
theorem stx (d : GReg) (a : GReg) (b : GReg) (z : StSize) (s : Bool) : Statement (.stx d a b z s) := by
  have := stSize_code z
  have := flag_le s
  simp only [Statement, encode]; omega
theorem aadd (d : GReg) (a : GReg) (b : GReg) (z : Bool) : Statement (.aadd d a b z) := by
  have := flag_le z
  simp only [Statement, encode]; omega
theorem aand (d : GReg) (a : GReg) (b : GReg) (z : Bool) : Statement (.aand d a b z) := by
  have := flag_le z
  simp only [Statement, encode]; omega
theorem aor (d : GReg) (a : GReg) (b : GReg) (z : Bool) : Statement (.aor d a b z) := by
  have := flag_le z
  simp only [Statement, encode]; omega
theorem axor (d : GReg) (a : GReg) (b : GReg) (z : Bool) : Statement (.axor d a b z) := by
  have := flag_le z
  simp only [Statement, encode]; omega
theorem amin (d : GReg) (a : GReg) (b : GReg) (z : Bool) : Statement (.amin d a b z) := by
  have := flag_le z
  simp only [Statement, encode]; omega
theorem amax (d : GReg) (a : GReg) (b : GReg) (z : Bool) : Statement (.amax d a b z) := by
  have := flag_le z
  simp only [Statement, encode]; omega
theorem aminu (d : GReg) (a : GReg) (b : GReg) (z : Bool) : Statement (.aminu d a b z) := by
  have := flag_le z
  simp only [Statement, encode]; omega
theorem amaxu (d : GReg) (a : GReg) (b : GReg) (z : Bool) : Statement (.amaxu d a b z) := by
  have := flag_le z
  simp only [Statement, encode]; omega
theorem aswp (d : GReg) (a : GReg) (b : GReg) (z : Bool) : Statement (.aswp d a b z) := by
  have := flag_le z
  simp only [Statement, encode]; omega
theorem acas (d : GReg) (a : GReg) (b : GReg) (z : Bool) : Statement (.acas d a b z) := by
  have := flag_le z
  simp only [Statement, encode]; omega
theorem afadd (d : GReg) (a : GReg) (b : GReg) : Statement (.afadd d a b) := by
  simp only [Statement, encode]; omega
theorem fence (k : FenceKind) (s : Scope) : Statement (.fence k s) := by
  have := fenceKind_code k
  have := scope_code s
  simp only [Statement, encode]; omega
theorem send (d : GReg) (a : GReg) (b : GReg) (r : Bool) : Statement (.send d a b r) := by
  have := flag_le r
  simp only [Statement, encode]; omega
theorem sendr (d : GReg) (a : GReg) (b : GReg) (r : Bool) : Statement (.sendr d a b r) := by
  have := flag_le r
  simp only [Statement, encode]; omega
theorem sendl (d : GReg) (a : GReg) (b : GReg) (r : Bool) : Statement (.sendl d a b r) := by
  have := flag_le r
  simp only [Statement, encode]; omega
theorem spawn (a : GReg) (b : GReg) (c : BitVec 3) : Statement (.spawn a b c) := by
  simp only [Statement, encode]; omega
theorem reply (b : GReg) : Statement (.reply b) := by
  simp only [Statement, encode]; omega
theorem mcast (d : GReg) (a : GReg) (b : GReg) (r : Bool) : Statement (.mcast d a b r) := by
  have := flag_le r
  simp only [Statement, encode]; omega
theorem mcastl (d : GReg) (a : GReg) (b : GReg) (l : Bool) (s : Bool) (r : Bool) : Statement (.mcastl d a b l s r) := by
  have := flag_le l
  have := flag_le s
  have := flag_le r
  simp only [Statement, encode]; omega
theorem gred (a : GReg) (b : GReg) (t : BitVec 2) : Statement (.gred a b t) := by
  simp only [Statement, encode]; omega
theorem endH : Statement (.endH) := by
  simp only [Statement, encode]; omega
theorem armw (a : GReg) (b : GReg) (c : BitVec 3) : Statement (.armw a b c) := by
  simp only [Statement, encode]; omega
theorem htset (a : GReg) (b : GReg) : Statement (.htset a b) := by
  simp only [Statement, encode]; omega
theorem htclr (a : GReg) : Statement (.htclr a) := by
  simp only [Statement, encode]; omega
theorem redlv (d : GReg) (a : GReg) (b : GReg) : Statement (.redlv d a b) := by
  simp only [Statement, encode]; omega
theorem cnti (a : GReg) (b : GReg) (k : Bool) : Statement (.cnti a b k) := by
  have := flag_le k
  simp only [Statement, encode]; omega
theorem cnta (a : GReg) (b : GReg) (r : Bool) : Statement (.cnta a b r) := by
  have := flag_le r
  simp only [Statement, encode]; omega
theorem cntr (d : GReg) (a : GReg) (c : Bool) : Statement (.cntr d a c) := by
  have := flag_le c
  simp only [Statement, encode]; omega
theorem binit (a : GReg) (b : GReg) : Statement (.binit a b) := by
  simp only [Statement, encode]; omega
theorem barr (d : GReg) (a : GReg) : Statement (.barr d a) := by
  simp only [Statement, encode]; omega
theorem barrb (d : GReg) (a : GReg) (b : GReg) : Statement (.barrb d a b) := by
  simp only [Statement, encode]; omega
theorem bdrop (d : GReg) (a : GReg) : Statement (.bdrop d a) := by
  simp only [Statement, encode]; omega
theorem btest (d : GReg) (a : GReg) (b : GReg) : Statement (.btest d a b) := by
  simp only [Statement, encode]; omega
theorem bwait (d : GReg) (a : GReg) (b : GReg) : Statement (.bwait d a b) := by
  simp only [Statement, encode]; omega
theorem bbyte (a : GReg) (b : GReg) : Statement (.bbyte a b) := by
  simp only [Statement, encode]; omega
theorem qpush (a : GReg) (n : BitVec 2) : Statement (.qpush a n) := by
  simp only [Statement, encode]; omega
theorem qpop (d : GReg) (n : BitVec 2) : Statement (.qpop d n) := by
  simp only [Statement, encode]; omega
theorem qcnt (d : GReg) (n : BitVec 2) : Statement (.qcnt d n) := by
  simp only [Statement, encode]; omega
theorem qpeek (d : GReg) (n : BitVec 2) : Statement (.qpeek d n) := by
  simp only [Statement, encode]; omega
theorem cpy (d : GReg) (a : GReg) (b : GReg) : Statement (.cpy d a b) := by
  simp only [Statement, encode]; omega
theorem cpy2 (d : GReg) (a : GReg) (b : GReg) : Statement (.cpy2 d a b) := by
  simp only [Statement, encode]; omega
theorem cpyq (d : GReg) (a : GReg) (j : BitVec 2) (c : BitVec 3) : Statement (.cpyq d a j c) := by
  simp only [Statement, encode]; omega
theorem cpyf (d : GReg) (a : GReg) (b : GReg) : Statement (.cpyf d a b) := by
  simp only [Statement, encode]; omega
theorem gath (d : GReg) (a : GReg) (b : GReg) (w : Bool) : Statement (.gath d a b w) := by
  have := flag_le w
  simp only [Statement, encode]; omega
theorem scat (d : GReg) (a : GReg) (b : GReg) (w : Bool) : Statement (.scat d a b w) := by
  have := flag_le w
  simp only [Statement, encode]; omega
theorem jpoll (p : PReg) (a : GReg) : Statement (.jpoll p a) := by
  simp only [Statement, encode]; omega
theorem jwait (d : GReg) (a : GReg) : Statement (.jwait d a) := by
  simp only [Statement, encode]; omega
theorem jwaitAll (d : GReg) : Statement (.jwaitAll d) := by
  simp only [Statement, encode]; omega
theorem jcwait (d : GReg) (a : GReg) (u : Bool) (j : Bool) : Statement (.jcwait d a u j) := by
  have := flag_le u
  have := flag_le j
  simp only [Statement, encode]; omega
theorem armj (a : GReg) (b : GReg) : Statement (.armj a b) := by
  simp only [Statement, encode]; omega
theorem mma (d : GReg) (a : GReg) (b : GReg) (z : Bool) (n : BitVec 2) : Statement (.mma d a b z n) := by
  have := flag_le z
  simp only [Statement, encode]; omega
theorem mmag (d : GReg) (a : GReg) (b : GReg) (z : Bool) (n : BitVec 2) : Statement (.mmag d a b z n) := by
  have := flag_le z
  simp only [Statement, encode]; omega
theorem mst (d : GReg) (a : GReg) (b : GReg) (s : Bool) (f : BitVec 3) (n : BitVec 2) : Statement (.mst d a b s f n) := by
  have := flag_le s
  simp only [Statement, encode]; omega
theorem mzr (d : GReg) (c : Bool) (n : BitVec 2) : Statement (.mzr d c n) := by
  have := flag_le c
  simp only [Statement, encode]; omega
theorem mzrSt (d : GReg) (n : BitVec 2) : Statement (.mzrSt d n) := by
  simp only [Statement, encode]; omega
theorem mscl (a : GReg) (b : GReg) (n : BitVec 2) : Statement (.mscl a b n) := by
  simp only [Statement, encode]; omega
theorem gload (d : GReg) (a : GReg) (b : GReg) : Statement (.gload d a b) := by
  simp only [Statement, encode]; omega
theorem gswap (d : GReg) : Statement (.gswap d) := by
  simp only [Statement, encode]; omega
theorem gswapKeep (d : GReg) : Statement (.gswapKeep d) := by
  simp only [Statement, encode]; omega
theorem gbind (d : GReg) (a : GReg) : Statement (.gbind d a) := by
  simp only [Statement, encode]; omega
theorem gdrain (d : GReg) : Statement (.gdrain d) := by
  simp only [Statement, encode]; omega
theorem gstat (d : GReg) (x : Bool) (c : Bool) : Statement (.gstat d x c) := by
  have := flag_le x
  have := flag_le c
  simp only [Statement, encode]; omega
theorem cplb (a : GReg) (b : GReg) : Statement (.cplb a b) := by
  simp only [Statement, encode]; omega
theorem cplr (d : GReg) (a : GReg) (s : BitVec 2) : Statement (.cplr d a s) := by
  simp only [Statement, encode]; omega
theorem cplu (a : GReg) (b : GReg) (r : Bool) : Statement (.cplu a b r) := by
  have := flag_le r
  simp only [Statement, encode]; omega
theorem wgt (a : GReg) : Statement (.wgt a) := by
  simp only [Statement, encode]; omega
theorem sysr (d : GReg) (r : BitVec 12) : Statement (.sysr d r) := by
  simp only [Statement, encode]; omega
theorem sysw (a : GReg) (r : BitVec 12) : Statement (.sysw a r) := by
  simp only [Statement, encode]; omega
theorem trap (c : BitVec 12) : Statement (.trap c) := by
  simp only [Statement, encode]; omega
theorem brk (c : BitVec 12) : Statement (.brk c) := by
  simp only [Statement, encode]; omega
theorem resume (a : GReg) : Statement (.resume a) := by
  simp only [Statement, encode]; omega
theorem probe (d : GReg) (a : GReg) : Statement (.probe d a) := by
  simp only [Statement, encode]; omega
theorem gwtake (d : GReg) : Statement (.gwtake d) := by
  simp only [Statement, encode]; omega
theorem gwdone (a : GReg) : Statement (.gwdone a) := by
  simp only [Statement, encode]; omega
theorem vadd (d : WReg) (a : WReg) (b : WReg) (m : MReg) (t : VType) (s : Bool) : Statement (.vadd d a b m t s) := by
  have := vtype_code t
  have := flag_le s
  simp only [Statement, encode]; omega
theorem vsub (d : WReg) (a : WReg) (b : WReg) (m : MReg) (t : VType) (s : Bool) : Statement (.vsub d a b m t s) := by
  have := vtype_code t
  have := flag_le s
  simp only [Statement, encode]; omega
theorem vmul (d : WReg) (a : WReg) (b : WReg) (m : MReg) (t : VType) (s : Bool) : Statement (.vmul d a b m t s) := by
  have := vtype_code t
  have := flag_le s
  simp only [Statement, encode]; omega
theorem vfma (d : WReg) (a : WReg) (b : WReg) (m : MReg) (t : VType) (s : Bool) : Statement (.vfma d a b m t s) := by
  have := vtype_code t
  have := flag_le s
  simp only [Statement, encode]; omega
theorem vmin (d : WReg) (a : WReg) (b : WReg) (m : MReg) (t : VType) (u : Bool) : Statement (.vmin d a b m t u) := by
  have := vtype_code t
  have := flag_le u
  simp only [Statement, encode]; omega
theorem vmax (d : WReg) (a : WReg) (b : WReg) (m : MReg) (t : VType) (u : Bool) : Statement (.vmax d a b m t u) := by
  have := vtype_code t
  have := flag_le u
  simp only [Statement, encode]; omega
theorem vabs (d : WReg) (a : WReg) (m : MReg) (t : VType) (s : Bool) : Statement (.vabs d a m t s) := by
  have := vtype_code t
  have := flag_le s
  simp only [Statement, encode]; omega
theorem vneg (d : WReg) (a : WReg) (m : MReg) (t : VType) (s : Bool) : Statement (.vneg d a m t s) := by
  have := vtype_code t
  have := flag_le s
  simp only [Statement, encode]; omega
theorem vand (d : WReg) (a : WReg) (b : WReg) (m : MReg) (t : VType) : Statement (.vand d a b m t) := by
  have := vtype_code t
  simp only [Statement, encode]; omega
theorem vor (d : WReg) (a : WReg) (b : WReg) (m : MReg) (t : VType) : Statement (.vor d a b m t) := by
  have := vtype_code t
  simp only [Statement, encode]; omega
theorem vxor (d : WReg) (a : WReg) (b : WReg) (m : MReg) (t : VType) : Statement (.vxor d a b m t) := by
  have := vtype_code t
  simp only [Statement, encode]; omega
theorem vshl (d : WReg) (a : WReg) (b : WReg) (m : MReg) (t : VType) : Statement (.vshl d a b m t) := by
  have := vtype_code t
  simp only [Statement, encode]; omega
theorem vshr (d : WReg) (a : WReg) (b : WReg) (m : MReg) (t : VType) : Statement (.vshr d a b m t) := by
  have := vtype_code t
  simp only [Statement, encode]; omega
theorem vsar (d : WReg) (a : WReg) (b : WReg) (m : MReg) (t : VType) : Statement (.vsar d a b m t) := by
  have := vtype_code t
  simp only [Statement, encode]; omega
theorem vcmp (d : MReg) (a : WReg) (b : WReg) (m : MReg) (t : VType) (y : Bool) (c : BitVec 3) : Statement (.vcmp d a b m t y c) := by
  have := vtype_code t
  have := flag_le y
  simp only [Statement, encode]; omega
theorem vsel (d : WReg) (a : WReg) (b : WReg) (s : MReg) (t : VType) : Statement (.vsel d a b s t) := by
  have := vtype_code t
  simp only [Statement, encode]; omega
theorem vmov (d : WReg) (a : WReg) (m : MReg) (t : VType) : Statement (.vmov d a m t) := by
  have := vtype_code t
  simp only [Statement, encode]; omega
theorem vbcast (d : WReg) (a : GReg16) (m : MReg) (t : VType) : Statement (.vbcast d a m t) := by
  have := vtype_code t
  simp only [Statement, encode]; omega
theorem vext (d : GReg16) (a : WReg) (b : GReg16) (t : VType) (u : Bool) : Statement (.vext d a b t u) := by
  have := vtype_code t
  have := flag_le u
  simp only [Statement, encode]; omega
theorem vins (d : WReg) (a : GReg16) (b : GReg16) (t : VType) : Statement (.vins d a b t) := by
  have := vtype_code t
  simp only [Statement, encode]; omega
theorem mand (d : MReg) (a : MReg) (b : MReg) : Statement (.mand d a b) := by
  simp only [Statement, encode]; omega
theorem mor (d : MReg) (a : MReg) (b : MReg) : Statement (.mor d a b) := by
  simp only [Statement, encode]; omega
theorem mnot (d : MReg) (a : MReg) : Statement (.mnot d a) := by
  simp only [Statement, encode]; omega
theorem mpop (d : GReg16) (a : MReg) : Statement (.mpop d a) := by
  simp only [Statement, encode]; omega
theorem vld (d : WReg) (a : GReg16) (m : MReg) (t : VType) : Statement (.vld d a m t) := by
  have := vtype_code t
  simp only [Statement, encode]; omega
theorem vst (d : WReg) (a : GReg16) (m : MReg) (t : VType) : Statement (.vst d a m t) := by
  have := vtype_code t
  simp only [Statement, encode]; omega
theorem vlds (d : WReg) (a : GReg16) (b : GReg16) (m : MReg) (t : VType) : Statement (.vlds d a b m t) := by
  have := vtype_code t
  simp only [Statement, encode]; omega
theorem vgth (d : WReg) (a : GReg16) (b : WReg) (m : MReg) (t : VType) (s : Bool) : Statement (.vgth d a b m t s) := by
  have := vtype_code t
  have := flag_le s
  simp only [Statement, encode]; omega
theorem vsct (d : WReg) (a : GReg16) (b : WReg) (m : MReg) (t : VType) (s : Bool) : Statement (.vsct d a b m t s) := by
  have := vtype_code t
  have := flag_le s
  simp only [Statement, encode]; omega
theorem vqpush (a : WReg) (m : MReg) (n : BitVec 2) : Statement (.vqpush a m n) := by
  simp only [Statement, encode]; omega
theorem vqpop (d : WReg) (m : MReg) (t : VType) (n : BitVec 2) : Statement (.vqpop d m t n) := by
  have := vtype_code t
  simp only [Statement, encode]; omega
theorem vcvt (d : WReg) (a : WReg) (m : MReg) (t : VType) (s : VType) : Statement (.vcvt d a m t s) := by
  have := vtype_code t
  have := vtype_code s
  simp only [Statement, encode]; omega
theorem vtorns (d : WReg) (a : WReg) (m : MReg) (t : VType) : Statement (.vtorns d a m t) := by
  have := vtype_code t
  simp only [Statement, encode]; omega
theorem vfrns (d : WReg) (a : WReg) (b : GReg16) (m : MReg) (t : VType) (p : BitVec 2) : Statement (.vfrns d a b m t p) := by
  have := vtype_code t
  simp only [Statement, encode]; omega
theorem vqnt (d : WReg) (a : WReg) (b : GReg16) (m : MReg) (t : VType) (p : BitVec 2) : Statement (.vqnt d a b m t p) := by
  have := vtype_code t
  simp only [Statement, encode]; omega
theorem vaddq (d : WReg) (a : WReg) (b : WReg) (m : MReg) (t : VType) (k : BitVec 4) : Statement (.vaddq d a b m t k) := by
  have := vtype_code t
  simp only [Statement, encode]; omega
theorem vexp2 (d : WReg) (a : WReg) (m : MReg) (t : VType) : Statement (.vexp2 d a m t) := by
  have := vtype_code t
  simp only [Statement, encode]; omega
theorem vlog2 (d : WReg) (a : WReg) (m : MReg) (t : VType) : Statement (.vlog2 d a m t) := by
  have := vtype_code t
  simp only [Statement, encode]; omega
theorem vrcp (d : WReg) (a : WReg) (m : MReg) (t : VType) : Statement (.vrcp d a m t) := by
  have := vtype_code t
  simp only [Statement, encode]; omega
theorem vrsq (d : WReg) (a : WReg) (m : MReg) (t : VType) : Statement (.vrsq d a m t) := by
  have := vtype_code t
  simp only [Statement, encode]; omega
theorem vtanh (d : WReg) (a : WReg) (m : MReg) (t : VType) : Statement (.vtanh d a m t) := by
  have := vtype_code t
  simp only [Statement, encode]; omega
theorem vsig (d : WReg) (a : WReg) (m : MReg) (t : VType) : Statement (.vsig d a m t) := by
  have := vtype_code t
  simp only [Statement, encode]; omega
theorem vred (d : WReg) (a : WReg) (m : MReg) (t : VType) (u : Bool) (o : BitVec 2) : Statement (.vred d a m t u o) := by
  have := vtype_code t
  have := flag_le u
  simp only [Statement, encode]; omega
theorem vshuf (d : WReg) (a : WReg) (b : WReg) (m : MReg) (t : VType) : Statement (.vshuf d a b m t) := by
  have := vtype_code t
  simp only [Statement, encode]; omega
theorem vperm (d : WReg) (a : WReg) (b : WReg) (m : MReg) (t : VType) : Statement (.vperm d a b m t) := by
  have := vtype_code t
  simp only [Statement, encode]; omega
theorem vtopk (d : WReg) (a : WReg) (b : GReg16) (m : MReg) (t : VType) (x : Bool) (u : Bool) : Statement (.vtopk d a b m t x u) := by
  have := vtype_code t
  have := flag_le x
  have := flag_le u
  simp only [Statement, encode]; omega
theorem vscan (d : WReg) (a : WReg) (m : MReg) (t : VType) (e : Bool) (u : Bool) (o : BitVec 2) : Statement (.vscan d a m t e u o) := by
  have := vtype_code t
  have := flag_le e
  have := flag_le u
  simp only [Statement, encode]; omega
theorem vrng (d : WReg) (m : MReg) (t : VType) : Statement (.vrng d m t) := by
  have := vtype_code t
  simp only [Statement, encode]; omega
theorem rngseed (a : GReg16) : Statement (.rngseed a) := by
  simp only [Statement, encode]; omega
theorem messageArrival (k : Nat) : Statement (.messageArrival k) := ⟨Nat.two_pow_pos 32, Or.inl rfl⟩
theorem dispatch (core : Nat) : Statement (.dispatch core) := ⟨Nat.two_pow_pos 32, Or.inl rfl⟩
theorem replyArrival (k : Nat) : Statement (.replyArrival k) := ⟨Nat.two_pow_pos 32, Or.inl rfl⟩
theorem counterIncrement (k : Nat) : Statement (.counterIncrement k) := ⟨Nat.two_pow_pos 32, Or.inl rfl⟩
theorem accessRequest (k : Nat) : Statement (.accessRequest k) := ⟨Nat.two_pow_pos 32, Or.inl rfl⟩
theorem accessReply (k : Nat) (p : PeerAnswer) : Statement (.accessReply k p) := ⟨Nat.two_pow_pos 32, Or.inl rfl⟩
theorem barrierOperation (k : Nat) : Statement (.barrierOperation k) := ⟨Nat.two_pow_pos 32, Or.inl rfl⟩
theorem barrierDeadlineCheck (unit : Nat) : Statement (.barrierDeadlineCheck unit) := ⟨Nat.two_pow_pos 32, Or.inl rfl⟩
theorem captureComplete (strand : Nat) : Statement (.captureComplete strand) := ⟨Nat.two_pow_pos 32, Or.inl rfl⟩
theorem sfCompletion (core : Nat) : Statement (.sfCompletion core) := ⟨Nat.two_pow_pos 32, Or.inl rfl⟩
theorem refillRead (core : Nat) (level : Nat) : Statement (.refillRead core level) := ⟨Nat.two_pow_pos 32, Or.inl rfl⟩
theorem refillLand (core : Nat) (level : Nat) : Statement (.refillLand core level) := ⟨Nat.two_pow_pos 32, Or.inl rfl⟩
theorem coreFreeze (k : Nat) : Statement (.coreFreeze k) := ⟨Nat.two_pow_pos 32, Or.inl rfl⟩
theorem coreUnfreeze (k : Nat) : Statement (.coreUnfreeze k) := ⟨Nat.two_pow_pos 32, Or.inl rfl⟩
theorem resumePacket (k : Nat) : Statement (.resumePacket k) := ⟨Nat.two_pow_pos 32, Or.inl rfl⟩
theorem doorbell (q : Nat) (v : Word) : Statement (.doorbell q v) := ⟨Nat.two_pow_pos 32, Or.inl rfl⟩
theorem queueEnable (q : Nat) (v : Word) : Statement (.queueEnable q v) := ⟨Nat.two_pow_pos 32, Or.inl rfl⟩
theorem queueDisable (q : Nat) (v : Word) : Statement (.queueDisable q v) := ⟨Nat.two_pow_pos 32, Or.inl rfl⟩
theorem nop (q : Nat) : Statement (.nop q) := ⟨Nat.two_pow_pos 32, Or.inl rfl⟩
theorem launch (q : Nat) : Statement (.launch q) := ⟨Nat.two_pow_pos 32, Or.inl rfl⟩
theorem copy (q : Nat) : Statement (.copy q) := ⟨Nat.two_pow_pos 32, Or.inl rfl⟩
theorem signal (q : Nat) : Statement (.signal q) := ⟨Nat.two_pow_pos 32, Or.inl rfl⟩
theorem cond (q : Nat) : Statement (.cond q) := ⟨Nat.two_pow_pos 32, Or.inl rfl⟩
theorem condRetest (q : Nat) : Statement (.condRetest q) := ⟨Nat.two_pow_pos 32, Or.inl rfl⟩
theorem packetComplete (q : Nat) (k : Nat) : Statement (.packetComplete q k) := ⟨Nat.two_pow_pos 32, Or.inl rfl⟩
theorem placement (c : Nat) : Statement (.placement c) := ⟨Nat.two_pow_pos 32, Or.inl rfl⟩
theorem kernelLoaded (c : Nat) : Statement (.kernelLoaded c) := ⟨Nat.two_pow_pos 32, Or.inl rfl⟩
theorem quiescenceWave (c : Nat) : Statement (.quiescenceWave c) := ⟨Nat.two_pow_pos 32, Or.inl rfl⟩
theorem retirementComplete (c : Nat) : Statement (.retirementComplete c) := ⟨Nat.two_pow_pos 32, Or.inl rfl⟩
theorem kernelStop (c : Nat) : Statement (.kernelStop c) := ⟨Nat.two_pow_pos 32, Or.inl rfl⟩
theorem create (c : Nat) : Statement (.create c) := ⟨Nat.two_pow_pos 32, Or.inl rfl⟩
theorem preempt (c : Nat) : Statement (.preempt c) := ⟨Nat.two_pow_pos 32, Or.inl rfl⟩
theorem unfreeze (c : Nat) : Statement (.unfreeze c) := ⟨Nat.two_pow_pos 32, Or.inl rfl⟩
theorem vacate (c : Nat) : Statement (.vacate c) := ⟨Nat.two_pow_pos 32, Or.inl rfl⟩
theorem restore (c : Nat) : Statement (.restore c) := ⟨Nat.two_pow_pos 32, Or.inl rfl⟩
theorem clearf (c : Nat) : Statement (.clearf c) := ⟨Nat.two_pow_pos 32, Or.inl rfl⟩
theorem destroy (c : Nat) : Statement (.destroy c) := ⟨Nat.two_pow_pos 32, Or.inl rfl⟩
theorem contextCommandComplete (c : Nat) : Statement (.contextCommandComplete c) := ⟨Nat.two_pow_pos 32, Or.inl rfl⟩
theorem keyWrite (slot : Nat) (key : BitVec 512) : Statement (.keyWrite slot key) := ⟨Nat.two_pow_pos 32, Or.inl rfl⟩
theorem spinelPiece (stack : Nat) : Statement (.spinelPiece stack) := ⟨Nat.two_pow_pos 32, Or.inl rfl⟩
theorem translationResponse (unit : Nat) (v : Word) : Statement (.translationResponse unit v) := ⟨Nat.two_pow_pos 32, Or.inl rfl⟩
theorem jobStart (core : Nat) (slot : Nat) : Statement (.jobStart core slot) := ⟨Nat.two_pow_pos 32, Or.inl rfl⟩
theorem jobComplete (core : Nat) (slot : Nat) : Statement (.jobComplete core slot) := ⟨Nat.two_pow_pos 32, Or.inl rfl⟩
theorem completionPush (core : Nat) (slot : Nat) : Statement (.completionPush core slot) := ⟨Nat.two_pow_pos 32, Or.inl rfl⟩
theorem jobFree (core : Nat) (slot : Nat) : Statement (.jobFree core slot) := ⟨Nat.two_pow_pos 32, Or.inl rfl⟩
theorem arrayOperation (tile : Nat) : Statement (.arrayOperation tile) := ⟨Nat.two_pow_pos 32, Or.inl rfl⟩
theorem mmagOffer (k : Nat) : Statement (.mmagOffer k) := ⟨Nat.two_pow_pos 32, Or.inl rfl⟩
theorem mmagReoffer (core : Nat) (slot : Nat) : Statement (.mmagReoffer core slot) := ⟨Nat.two_pow_pos 32, Or.inl rfl⟩
theorem mmagStart (k : Nat) : Statement (.mmagStart k) := ⟨Nat.two_pow_pos 32, Or.inl rfl⟩
theorem mmagCredit (k : Nat) : Statement (.mmagCredit k) := ⟨Nat.two_pow_pos 32, Or.inl rfl⟩
theorem mmagStep (k : Nat) : Statement (.mmagStep k) := ⟨Nat.two_pow_pos 32, Or.inl rfl⟩
theorem mmagReport (k : Nat) : Statement (.mmagReport k) := ⟨Nat.two_pow_pos 32, Or.inl rfl⟩
theorem fabricAdvance (tile : Nat) : Statement (.fabricAdvance tile) := ⟨Nat.two_pow_pos 32, Or.inl rfl⟩
theorem graphDrainDone (tile : Nat) : Statement (.graphDrainDone tile) := ⟨Nat.two_pow_pos 32, Or.inl rfl⟩
theorem chainEntry (k : Nat) : Statement (.chainEntry k) := ⟨Nat.two_pow_pos 32, Or.inl rfl⟩
theorem configError (tile : Nat) (slot : Nat) (region : Nat) (double : Bool) : Statement (.configError tile slot region double) := ⟨Nat.two_pow_pos 32, Or.inl rfl⟩
theorem graphReloadComplete (tile : Nat) (slot : Nat) : Statement (.graphReloadComplete tile slot) := ⟨Nat.two_pow_pos 32, Or.inl rfl⟩
theorem signaturePass (tile : Nat) (bad : List Nat) : Statement (.signaturePass tile bad) := ⟨Nat.two_pow_pos 32, Or.inl rfl⟩
theorem loopSample (tile : Nat) (slot : Nat) : Statement (.loopSample tile slot) := ⟨Nat.two_pow_pos 32, Or.inl rfl⟩
theorem loopFault (tile : Nat) (slot : Nat) : Statement (.loopFault tile slot) := ⟨Nat.two_pow_pos 32, Or.inl rfl⟩
theorem rateCreditRefill (tile : Nat) : Statement (.rateCreditRefill tile) := ⟨Nat.two_pow_pos 32, Or.inl rfl⟩
theorem tinv (v : Word) : Statement (.tinv v) := ⟨Nat.two_pow_pos 32, Or.inl rfl⟩
theorem invalidationComplete : Statement (.invalidationComplete) := ⟨Nat.two_pow_pos 32, Or.inl rfl⟩
theorem leaseOffer (i : Nat) : Statement (.leaseOffer i) := ⟨Nat.two_pow_pos 32, Or.inl rfl⟩
theorem leaseGrant (i : Nat) : Statement (.leaseGrant i) := ⟨Nat.two_pow_pos 32, Or.inl rfl⟩
theorem leaseActivation (i : Nat) (peer : Nat) (size : Nat) : Statement (.leaseActivation i peer size) := ⟨Nat.two_pow_pos 32, Or.inl rfl⟩
theorem leaseAnswer (i : Nat) (ok : Bool) (base : Nat) : Statement (.leaseAnswer i ok base) := ⟨Nat.two_pow_pos 32, Or.inl rfl⟩
theorem leaseActivationTimeout (i : Nat) : Statement (.leaseActivationTimeout i) := ⟨Nat.two_pow_pos 32, Or.inl rfl⟩
theorem leaseRevoke (side : LeaseSide) (i : Nat) : Statement (.leaseRevoke side i) := ⟨Nat.two_pow_pos 32, Or.inl rfl⟩
theorem revocationNotice (side : LeaseSide) (i : Nat) : Statement (.revocationNotice side i) := ⟨Nat.two_pow_pos 32, Or.inl rfl⟩
theorem borrowerRevoked (i : Nat) : Statement (.borrowerRevoked i) := ⟨Nat.two_pow_pos 32, Or.inl rfl⟩
theorem lenderRevoked (i : Nat) (ack : Bool) : Statement (.lenderRevoked i ack) := ⟨Nat.two_pow_pos 32, Or.inl rfl⟩
theorem leaseAccess (i : Nat) (peer : Nat) (off : Nat) (op : PeerOp) : Statement (.leaseAccess i peer off op) := ⟨Nat.two_pow_pos 32, Or.inl rfl⟩
theorem refreshManagement (stack : Nat) (bank : Nat) : Statement (.refreshManagement stack bank) := ⟨Nat.two_pow_pos 32, Or.inl rfl⟩
theorem groupBuild (unit : Nat) (gid : Nat) : Statement (.groupBuild unit gid) := ⟨Nat.two_pow_pos 32, Or.inl rfl⟩
theorem groupCommit (unit : Nat) (gid : Nat) : Statement (.groupCommit unit gid) := ⟨Nat.two_pow_pos 32, Or.inl rfl⟩
theorem groupRevoke (unit : Nat) (gid : Nat) : Statement (.groupRevoke unit gid) := ⟨Nat.two_pow_pos 32, Or.inl rfl⟩
theorem groupFreed (unit : Nat) (gid : Nat) : Statement (.groupFreed unit gid) := ⟨Nat.two_pow_pos 32, Or.inl rfl⟩
theorem groupPacket (k : Nat) : Statement (.groupPacket k) := ⟨Nat.two_pow_pos 32, Or.inl rfl⟩
theorem domainMulticast (k : Nat) : Statement (.domainMulticast k) := ⟨Nat.two_pow_pos 32, Or.inl rfl⟩
theorem ualinkWriteAnswer (m : Nat) (i : Nat) (peer : Nat) (code : Nat) : Statement (.ualinkWriteAnswer m i peer code) := ⟨Nat.two_pow_pos 32, Or.inl rfl⟩
theorem multicastTimeout (m : Nat) (i : Nat) : Statement (.multicastTimeout m i) := ⟨Nat.two_pow_pos 32, Or.inl rfl⟩
theorem flitReceive (l : Nat) (noise : Nat) : Statement (.flitReceive l noise) := ⟨Nat.two_pow_pos 32, Or.inl rfl⟩
theorem linkNak (l : Nat) : Statement (.linkNak l) := ⟨Nat.two_pow_pos 32, Or.inl rfl⟩
theorem linkTrained (l : Nat) (lanes : Nat) : Statement (.linkTrained l lanes) := ⟨Nat.two_pow_pos 32, Or.inl rfl⟩
theorem trainingTimeout (l : Nat) : Statement (.trainingTimeout l) := ⟨Nat.two_pow_pos 32, Or.inl rfl⟩
theorem laneFailure (l : Nat) : Statement (.laneFailure l) := ⟨Nat.two_pow_pos 32, Or.inl rfl⟩
theorem partnerLost (l : Nat) : Statement (.partnerLost l) := ⟨Nat.two_pow_pos 32, Or.inl rfl⟩
theorem linkRetrain (l : Nat) : Statement (.linkRetrain l) := ⟨Nat.two_pow_pos 32, Or.inl rfl⟩
theorem linkRetire (l : Nat) : Statement (.linkRetire l) := ⟨Nat.two_pow_pos 32, Or.inl rfl⟩
theorem portWaitTimeout (k : Nat) : Statement (.portWaitTimeout k) := ⟨Nat.two_pow_pos 32, Or.inl rfl⟩
theorem gatewayEnable (i : Nat) : Statement (.gatewayEnable i) := ⟨Nat.two_pow_pos 32, Or.inl rfl⟩
theorem gatewayDisable (i : Nat) : Statement (.gatewayDisable i) := ⟨Nat.two_pow_pos 32, Or.inl rfl⟩
theorem gatewayRestart (i : Nat) (mask : BitVec 16) : Statement (.gatewayRestart i mask) := ⟨Nat.two_pow_pos 32, Or.inl rfl⟩
theorem coldReset (stacksOk : Bool) (lanes : List (Nat × Nat)) : Statement (.coldReset stacksOk lanes) := ⟨Nat.two_pow_pos 32, Or.inl rfl⟩
theorem firmwareReset (stacksOk : Bool) (lanes : List (Nat × Nat)) : Statement (.firmwareReset stacksOk lanes) := ⟨Nat.two_pow_pos 32, Or.inl rfl⟩
theorem update : Statement (.update) := ⟨Nat.two_pow_pos 32, Or.inl rfl⟩
theorem attest : Statement (.attest) := ⟨Nat.two_pow_pos 32, Or.inl rfl⟩
theorem powerPeriod (watts : Nat) (amps : Nat) (peak : Nat) (temps : List Nat) : Statement (.powerPeriod watts amps peak temps) := ⟨Nat.two_pow_pos 32, Or.inl rfl⟩
theorem fatalError (code : Nat) : Statement (.fatalError code) := ⟨Nat.two_pow_pos 32, Or.inl rfl⟩
theorem registerWrite (r : HostReg) (v : Word) : Statement (.registerWrite r v) := ⟨Nat.two_pow_pos 32, Or.inl rfl⟩
theorem softError (site : SoftSite) (fixed : Bool) : Statement (.softError site fixed) := ⟨Nat.two_pow_pos 32, Or.inl rfl⟩
theorem mmagAcceptance (k : Nat) : Statement (.mmagAcceptance k) := ⟨Nat.two_pow_pos 32, Or.inl rfl⟩
theorem chainBindRequest (k : Nat) : Statement (.chainBindRequest k) := ⟨Nat.two_pow_pos 32, Or.inl rfl⟩
theorem chainBindAnswer (k : Nat) : Statement (.chainBindAnswer k) := ⟨Nat.two_pow_pos 32, Or.inl rfl⟩
theorem chainCredit (k : Nat) : Statement (.chainCredit k) := ⟨Nat.two_pow_pos 32, Or.inl rfl⟩

end Sys2Proof.Laws.Fits
end

