-- ==== Sys2Proof/Laws/Shared.lean ====
section
/-! SUPPORT. The shared operations: what raising a fault, holding and moving on do to a strand, what sending a packet
leaves alone, and that each operation over memory keeps its canonical form. -/

namespace Sys2Proof.Machine

/-! ### One strand changed -/

/-- A change of one strand's record is nothing else. -/
theorem State.modStrand_onlyStrand (s : State) (n : Nat) (f : Strand → Strand) : OnlyStrand n s (s.modStrand n f) := by
  refine ⟨rfl, fun k hk => ?_⟩
  simp [State.modStrand, State.setStrand, State.strand, SMap.get_set_ne _ _ _ hk]

/-- A fault at issue changes nothing but its strand (R121). -/
theorem State.raiseAtIssue_onlyStrand (s : State) (n : Nat) (c : Cause) (b : Word) :
    OnlyStrand n s (s.raiseAtIssue n c b) := State.modStrand_onlyStrand s n fun st => st.fault _

/-- The strand after a fault at issue (R121, R129). -/
theorem State.raiseAtIssue_strand (s : State) (n : Nat) (c : Cause) (b : Word) :
    (s.raiseAtIssue n c b).strand n =
      (s.strand n).fault { cause := c, ord := s.nextId, time := s.time, epc := pcWord (s.strand n), badva := b } := by
  simp [State.raiseAtIssue, State.raise, State.modStrand, State.setStrand, State.strand]

@[simp] theorem Strand.fault_phase (st : Strand) (f : FaultRec) : (st.fault f).phase = .faulted := rfl
@[simp] theorem Strand.fault_epc (st : Strand) (f : FaultRec) : (st.fault f).epc = pcWord st := rfl
@[simp] theorem Strand.fault_pc (st : Strand) (f : FaultRec) : (st.fault f).pc = st.pc := rfl
@[simp] theorem Strand.fault_g (st : Strand) (f : FaultRec) : (st.fault f).g = st.g := rfl

/-- With no fault found before, CAUSE and BADVA are the fault's own. -/
theorem Strand.fault_first (st : Strand) (f : FaultRec) (h : st.faults = []) :
    (st.fault f).badva = f.badva ∧
      (st.fault f).cause = f.cause.code.setWidth 9 ||| (if f.deferred then 0x100 else 0) := by
  simp [Strand.fault, h, firstFault]

/-- A fault leaves every register of the strand as it was. -/
theorem Strand.fault_sameRegisters (st : Strand) (f : FaultRec) : SameRegisters st (st.fault f) := rfl

/-- Moving on leaves every register of the strand as it was (R156). -/
theorem Strand.advance_sameRegisters (st old : Strand) (t : Option (BitVec 48)) (k : Bool) :
    SameRegisters st (st.advance old t k) := rfl

/-- A held strand (R124). -/
theorem State.holdAt_onlyStrand (s : State) (n : Nat) (c : StallCause) : OnlyStrand n s (s.holdAt n c) :=
  State.modStrand_onlyStrand s n _

/-- What moving on from an instruction can come to: the strand stands at its next instruction, and under STEP a
BREAKPOINT follows (R156, R419). -/
theorem State.advance_cases (s : State) (n : Nat) (old : Strand) (t : Option (BitVec 48)) (k : Bool) :
    let u := s.modStrand n fun st => st.advance old t k
    s.advance n old t k = u ∨ (old.stepMode = true ∧ s.advance n old t k = u.raiseAtIssue n .breakpoint 0x1000) := by
  intro u
  unfold State.advance
  dsimp only
  split
  · rename_i h
    simp only [Bool.and_eq_true] at h
    exact .inr ⟨h.1.1, rfl⟩
  · exact .inl rfl

/-- Without STEP, moving on is the change of the strand alone. -/
theorem State.advance_of_free (s : State) (n : Nat) (old : Strand) (t : Option (BitVec 48)) (k : Bool)
    (h : old.stepMode = false) : s.advance n old t k = s.modStrand n fun st => st.advance old t k := by
  simp [State.advance, h]

theorem State.raiseAtIssue_mem (s : State) (n : Nat) (c : Cause) (b : Word) : (s.raiseAtIssue n c b).mem = s.mem := rfl
theorem State.holdAt_mem (s : State) (n : Nat) (c : StallCause) : (s.holdAt n c).mem = s.mem := rfl

theorem State.advance_mem (s : State) (n : Nat) (old : Strand) (t : Option (BitVec 48)) (k : Bool) :
    (s.advance n old t k).mem = s.mem := by
  unfold State.advance; dsimp only; split <;> rfl

/-- What an instruction's result leaves in memory is what its effect left there. -/
theorem State.finish_mem (s : State) (r : Res) : (s.finish r).mem = (match r with
    | .go s' => s'.mem | .goLc s' => s'.mem | .jump s' _ => s'.mem | .stop s' _ _ => s'.mem | .ended s' => s'.mem
    | .hold _ => s.mem | .wait s' _ => s'.mem | .trap _ _ => s.mem | .trapOpen _ => s.mem | .trapIn s' _ _ => s'.mem) := by
  cases r <;> simp only [State.finish, State.advance_mem, State.raiseAtIssue_mem, State.holdAt_mem, State.modStrand_mem]
  split <;> rfl

/-! ### Sending leaves memory alone -/

theorem State.sendOn_mem (s : State) (p : Packet) : (s.sendOn p).mem = s.mem := by
  unfold State.sendOn; split <;> rfl
theorem State.sendOn_strands (s : State) (p : Packet) : (s.sendOn p).strands = s.strands := by
  unfold State.sendOn; split <;> rfl
theorem State.route_mem (s : State) (p : Packet) : (s.route p).mem = s.mem := State.sendOn_mem _ p
theorem State.route_strands (s : State) (p : Packet) : (s.route p).strands = s.strands := State.sendOn_strands _ p
theorem State.inject_mem (s : State) (a b : Nat) (v : Bool) (c : Nat) (l : List Nat) (x : Body) :
    (s.inject a b v c l x).mem = s.mem := by rw [State.inject, State.route_mem]
theorem State.inject_strands (s : State) (a b : Nat) (v : Bool) (c : Nat) (l : List Nat) (x : Body) :
    (s.inject a b v c l x).strands = s.strands := by rw [State.inject, State.route_strands]
theorem State.source_mem (s : State) (c : Nat) : (s.source c).mem = s.mem := rfl
theorem State.setFlt_mem (s : State) (c : Nat) : (s.setFlt c).mem = s.mem := by
  unfold State.setFlt; split <;> rfl
theorem State.postMsg_mem (s : State) (t u : Nat) (l : List Nat) (m : Msg) : (s.postMsg t u l m).mem = s.mem := by
  simp only [State.postMsg, State.inject_mem, State.source_mem]; rfl
theorem State.sendReply_mem (s : State) (t u : Nat) (h : Hdr) (a b : Bool) (r : List Word) :
    (s.sendReply t u h a b r).mem = s.mem := by
  simp only [State.sendReply, State.inject_mem, State.source_mem]; rfl
theorem State.strandReply_mem (s : State) (n : Nat) (b : Bool) (r : List Word) :
    (s.strandReply n b r).mem = s.mem := by
  simp only [State.strandReply, State.inject_mem, State.source_mem]; rfl
theorem State.mcastFinish_mem (s : State) (i : Nat) : (s.mcastFinish i).mem = s.mem := by
  unfold State.mcastFinish; repeat' split
  all_goals first | rfl | rw [State.sendReply_mem]
theorem State.mcastRefused_mem (s : State) (i v : Nat) : (s.mcastRefused i v).mem = s.mem := by
  unfold State.mcastRefused; split
  · rfl
  · dsimp only; split
    · rw [State.sendReply_mem]
    · rfl

/-! ### Records and stores keep the form of memory -/

theorem State.peerVerdict_mem (s : State) (i : Nat) : (s.peerVerdict i).1.mem = s.mem := by
  unfold State.peerVerdict; split <;> rfl

theorem State.sendBytes_mem (s : State) (p i off : Nat) (key : Option Nat) (bs : List Byte) :
    (s.sendBytes p i off key bs).mem = s.mem := by cases key <;> rfl

/-- What an engine sends to leased memory leaves the module's memory as it is. -/
theorem State.peerStore_mem (s : State) (i off : Nat) (key : Option Nat) (bs : List Byte) :
    (s.peerStore i off key bs).1.mem = s.mem := by
  unfold State.peerStore
  split
  · exact State.peerVerdict_mem _ _
  · rw [State.peerVerdict_mem, State.sendBytes_mem]

theorem State.peerWrite_mem {s s' : State} {i off : Nat} {key : Option Nat} {bs : List Byte}
    (h : s.peerWrite i off key bs = some s') : s'.mem = s.mem := by
  have e := State.peerStore_mem s i off key bs
  unfold State.peerWrite at h
  split at h
  · rename_i x hx
    rw [hx] at e
    cases h; exact e
  · cases h

theorem State.vaWrite_wf {s s' : State} {c va : Nat} {bs : List Byte} (h : Memory.wf s.mem = true)
    (e : s.vaWrite c va bs = some s') : Memory.wf s'.mem = true := by
  unfold State.vaWrite at e
  split at e
  · cases e; exact State.writePlain_wf _ _ _ h
  · rw [State.peerWrite_mem e]; exact h
  all_goals cases e

theorem State.vaWriteAll_wf {s s' : State} {c fuel va : Nat} {bs : List Byte} (h : Memory.wf s.mem = true)
    (e : s.vaWriteAll c fuel va bs = some s') : Memory.wf s'.mem = true := by
  induction fuel generalizing s va bs with
  | zero => cases e; exact h
  | succ n ih =>
    simp only [State.vaWriteAll] at e
    split at e
    · cases e; exact h
    · split at e
      · rename_i x hx; exact ih (State.vaWrite_wf h hx) e
      · cases e

theorem State.ringPut_wf {s : State} (c : Nat) (r : Ring) (bs : List Byte) (h : Memory.wf s.mem = true) :
    Memory.wf (s.ringPut c r bs).1.mem = true := by
  unfold State.ringPut; dsimp only
  split
  · exact h
  · split
    · rename_i x hx
      have := State.vaWriteAll_wf h hx
      dsimp only; split <;> exact this
    · exact h

theorem State.event_wf {s : State} (c : Nat) (k : Cause) (a b d : Nat) (x y : Word) (h : Memory.wf s.mem = true) :
    Memory.wf (s.event c k a b d x y).mem = true := State.ringPut_wf _ _ _ h

theorem State.setFlt_wf {s : State} (c : Nat) (h : Memory.wf s.mem = true) : Memory.wf (s.setFlt c).mem = true := by
  rw [State.setFlt_mem]; exact h

theorem State.faultPost_mem (s : State) (c : Nat) (f : FaultRecord) (n : BitVec 32) (x y : Nat) :
    (s.faultPost c f n x y).mem = s.mem := by
  unfold State.faultPost; dsimp only
  split
  · rfl
  · split
    · exact State.setFlt_mem _ _
    · exact State.postMsg_mem _ _ _ _ _

theorem State.faultRecord_wf {s : State} (c : Nat) (f : FaultRecord) (h : Memory.wf s.mem = true) :
    Memory.wf (s.faultRecord c f).mem = true := by
  unfold State.faultRecord; dsimp only
  split
  · rename_i x hx
    rw [State.faultPost_mem, show x = (x, true).1 from rfl, ← hx]
    exact State.ringPut_wf _ _ _ h
  · rename_i x hx
    refine State.setFlt_wf _ ?_
    rw [show x = (x, false).1 from rfl, ← hx]
    exact State.ringPut_wf _ _ _ h

theorem State.undeliverable_wf {s : State} (t r : Nat) (m : Msg) (h : Memory.wf s.mem = true) :
    Memory.wf (s.undeliverable t r m).mem = true := by
  unfold State.undeliverable; dsimp only
  split
  · rw [State.sendReply_mem]; exact State.event_wf _ _ _ _ _ _ _ (State.ringPut_wf _ _ _ h)
  · split
    · exact State.setFlt_wf _ (State.event_wf _ _ _ _ _ _ _ (State.ringPut_wf _ _ _ h))
    · exact State.event_wf _ _ _ _ _ _ _ (State.ringPut_wf _ _ _ h)

theorem State.sendMsg_wf {s : State} (t : Nat) (l : List Nat) (m : Msg) (h : Memory.wf s.mem = true) :
    Memory.wf (s.sendMsg t l m).mem = true := by
  unfold State.sendMsg
  split
  · rw [State.inject_mem]; exact h
  · exact State.undeliverable_wf _ _ _ h

theorem State.post_wf {s : State} (t u : Nat) (l : List Nat) (m : Msg) (h : Memory.wf s.mem = true) :
    Memory.wf (s.post t u l m).mem = true := State.sendMsg_wf (s := (s.unitSeq t u).2) _ _ _ h

/-- A fold of operations that each keep the form keeps it. -/
theorem wf_foldl {α : Type} (f : State → α → State)
    (hf : ∀ s x, Memory.wf s.mem = true → Memory.wf (f s x).mem = true) (l : List α) {s : State}
    (h : Memory.wf s.mem = true) : Memory.wf (l.foldl f s).mem = true := by
  induction l generalizing s with
  | nil => exact h
  | cons x r ih => exact ih (hf s x h)

theorem State.postWatch1_wf {s : State} (t : Nat) (w : Watch) (h : Memory.wf s.mem = true) :
    Memory.wf (s.postWatch1 t w).mem = true := by
  unfold State.postWatch1
  split
  · exact h
  · exact State.post_wf _ _ _ _ h

theorem State.evalWatches_wf {s : State} (t o n : Nat) (h : Memory.wf s.mem = true) :
    Memory.wf (s.evalWatches t o n).mem = true :=
  wf_foldl _ (fun _ _ h => State.postWatch1_wf _ _ h) _ (s := s.modTile t _) h

theorem State.correct_wf {s : State} (c pa n : Nat) (h : Memory.wf s.mem = true) :
    Memory.wf (s.correct c pa n).mem = true := by
  unfold State.correct; dsimp only
  split
  · exact h
  · exact wf_foldl _ (fun _ _ h => State.event_wf _ _ _ _ _ _ _ h) _ h

theorem State.storeAt_wf {s : State} (pa : Nat) (key : Option Nat) (bs : List Byte) (h : Memory.wf s.mem = true) :
    Memory.wf (s.storeAt pa key bs).mem = true := by
  unfold State.storeAt; dsimp only
  split
  · exact State.evalWatches_wf _ _ _ (State.writePlain_wf _ _ _ h)
  · exact State.writePlain_wf _ _ _ h

/-- With no watch in a tile's table an evaluation changes nothing but the record of the table. -/
theorem State.evalWatches_none (s : State) (t o n : Nat) (h : (s.tile t).watches = []) :
    s.evalWatches t o n = s.modTile t fun x => { x with watches := [] } := by
  unfold State.evalWatches; rw [h]; rfl

/-- Where no watch of the slice sees the bytes, a store is the bytes and the errors it clears (R163, R231). -/
theorem State.storeAt_unwatched (s : State) (pa : Nat) (key : Option Nat) (bs : List Byte)
    (h : ∀ t off, sliceOf pa = some (t, off) → (s.tile t).watches = []) :
    (s.storeAt pa key bs).mem = (s.writePlain pa key bs).mem ∧ (s.storeAt pa key bs).strands = s.strands := by
  have e := State.writePlain_eq s pa key bs
  unfold State.storeAt; dsimp only
  split
  · rename_i t off ht
    rw [State.evalWatches_none]
    · rw [e]; exact ⟨rfl, rfl⟩
    · rw [e]; exact h t off ht
  · rw [e]; exact ⟨rfl, rfl⟩

theorem State.poisonUnits_mem (s : State) (l : List Nat) : (s.poisonUnits l).mem = s.mem := rfl

/-! ### Strands and their images -/

theorem State.strandSend_wf {s : State} (n : Nat) (l : List Nat) (m : Msg) (h : Memory.wf s.mem = true) :
    Memory.wf (s.strandSend n l m).mem = true := State.sendMsg_wf (s := s.countSent n) _ _ _ h

theorem State.saveImage_wf {s : State} (n k : Nat) (b : Option Target) (v : Nat) (h : Memory.wf s.mem = true) :
    Memory.wf (s.saveImage n k b v).mem = true := by
  unfold State.saveImage
  split
  · exact State.writeTarget_wf (s := s.modStrand n _) _ _ _ h
  · exact h
  · exact h

theorem State.targetCorrect_wf {s : State} (c : Nat) (t : Target) (off n : Nat) (h : Memory.wf s.mem = true) :
    Memory.wf (s.targetCorrect c t off n).mem = true := by
  cases t
  · exact State.correct_wf _ _ _ h
  · exact h

theorem State.loadFrom_wf {s : State} (n : Nat) (f : Strand → List Byte → Strand) (h : Memory.wf s.mem = true) :
    Memory.wf (s.loadFrom n f).mem = true := by
  unfold State.loadFrom
  split
  · exact State.targetCorrect_wf _ _ _ _ h
  · exact h

theorem State.strandRecord_wf {s : State} (n : Nat) (x : BitVec 12) (i : Word) (f : FaultRec)
    (h : Memory.wf s.mem = true) : Memory.wf (s.strandRecord n x i f).mem = true := State.faultRecord_wf _ _ h

theorem State.imageState_wf {s : State} (n : Nat) (f : Nat → Nat) (h : Memory.wf s.mem = true) :
    Memory.wf (s.imageState n f).mem = true := by
  unfold State.imageState
  split
  · exact State.writeTarget_wf _ _ _ h
  · exact h

theorem State.imageField_wf {s : State} (n o : Nat) (bs : List Byte) (h : Memory.wf s.mem = true) :
    Memory.wf (s.imageField n o bs).mem = true := by
  unfold State.imageField
  split
  · exact State.writeTarget_wf _ _ _ h
  · exact h

theorem State.capture_wf {s : State} (n : Nat) (h : Memory.wf s.mem = true) : Memory.wf (s.capture n).mem = true := by
  unfold State.capture; dsimp only
  refine wf_foldl _ (fun _ _ h => State.strandRecord_wf _ _ _ _ h) _ ?_
  split
  · exact State.setFlt_wf _ (State.saveImage_wf (s := s.modStrand n _) _ _ _ _ h)
  · exact State.saveImage_wf (s := s.modStrand n _) _ _ _ _ h

theorem State.regain_wf {s : State} (c : Nat) (h : Memory.wf s.mem = true) : Memory.wf (s.regain c).mem = true := by
  unfold State.regain
  split
  · exact h
  · suffices H : ∀ (l : List Nat) (a : State × Nat × Bool), Memory.wf a.1.mem = true →
        Memory.wf (l.foldl (fun (acc : State × Nat × Bool) k =>
          let (s, free, stop) := acc
          let n := 4 * c + k
          let st := s.strand n
          if st.phase ≠ .savedPre ∨ stop then (s, free, stop)
          else if free < blocksOf st then (s, free, true)
          else if st.pend.isEmpty then (s.loadFrom n Strand.regained, free - blocksOf st, false)
          else (s, free - blocksOf st, false)) a).1.mem = true from H _ _ h
    intro l
    induction l with
    | nil => intro a h; exact h
    | cons x r ih =>
      intro a h
      refine ih _ ?_
      dsimp only
      split
      · exact h
      · split
        · exact h
        · split
          · exact State.loadFrom_wf _ _ h
          · exact h

theorem State.release_wf {s : State} (n : Nat) (h : Memory.wf s.mem = true) : Memory.wf (s.release n).mem = true := by
  unfold State.release; dsimp only
  refine State.regain_wf _ ?_
  split
  · exact (State.strandReply_mem s n true zeroArgs).symm ▸ h
  · exact h

theorem State.tryResume_wf {s : State} (n : Nat) (h : Memory.wf s.mem = true) :
    Memory.wf (s.tryResume n).mem = true := by
  unfold State.tryResume; dsimp only
  split
  · exact State.loadFrom_wf _ _ h
  · split
    · exact State.regain_wf _ h
    · exact h

theorem State.recordLate_wf {s : State} (n : Nat) (x : BitVec 12) (i : Word) (f : FaultRec)
    (h : Memory.wf s.mem = true) : Memory.wf (s.recordLate n x i f).mem = true := by
  unfold State.recordLate
  refine State.strandRecord_wf _ _ _ _ ?_
  split
  · exact State.setFlt_wf _ h
  · exact h

theorem State.raiseLate_wf {s : State} (n r : Nat) (x : BitVec 12) (f : FaultRec) (h : Memory.wf s.mem = true) :
    Memory.wf (s.raiseLate n r x f).mem = true := by
  unfold State.raiseLate; dsimp only
  split
  · exact State.recordLate_wf _ _ _ _ h
  · split
    · exact h
    · exact h
    · exact h
    · exact State.recordLate_wf _ _ _ _ h
    · exact State.recordLate_wf _ _ _ _ h
    · exact State.recordLate_wf _ _ _ _
        (State.imageField_wf _ _ _ (State.imageState_wf (s := s.modStrand n _) _ _ h))

end Sys2Proof.Machine
end

