-- ==== Sys2Proof/Tests/Slice0.lean ====
section
/-! SUPPORT. Tests of the model: ill-formed instructions are refused, words of the specification's examples decode,
single steps give what its tables and examples say, and states that meet the hypotheses of the statements. -/

set_option Elab.async false

namespace Sys2Proof.Tests

open Sys2Proof Sys2Proof.Machine Sys2Proof.Claims

/-! ### Ill-formed instructions: each check of WellFormed refuses one (R89, R99, R102 to R110, R176) -/

theorem test_wf_bfx : (Instr.bfx 8 9 60 4).wf = false ∧ (Instr.bfx 8 9 60 3).wf = true := by decide
theorem test_wf_bfxu : (Instr.bfxu 8 9 63 1).wf = false ∧ (Instr.bfxu 8 9 0 63).wf = true := by decide
theorem test_wf_bfi : (Instr.bfi 8 9 1 63).wf = false ∧ (Instr.bfi 8 9 1 62).wf = true := by decide
theorem test_wf_fcvt : (Instr.fcvt 8 9 .f32 .f32).wf = false ∧ (Instr.fcvt 8 9 .i32 .u32).wf = false := by decide
theorem test_wf_loop : (Instr.loop 8 0).wf = false ∧ (Instr.loop 8 1).wf = true := by decide
theorem test_wf_send : (Instr.send 8 9 10 false).wf = false ∧ (Instr.sendr 8 9 10 false).wf = false ∧
    (Instr.sendl 8 9 10 false).wf = false ∧ (Instr.send 8 9 10 true).wf = true := by decide
theorem test_wf_mcast : (Instr.mcast 8 9 10 false).wf = false ∧ (Instr.mcastl 8 9 10 false true false).wf = false := by
  decide
theorem test_wf_armw : (Instr.armw 8 9 6).wf = false ∧ (Instr.armw 8 9 5).wf = true := by decide
theorem test_wf_queues : (Instr.qpush 8 0).wf = false ∧ (Instr.qpop 8 1).wf = false ∧ (Instr.qpeek 8 3).wf = false ∧
    (Instr.qpush 8 3).wf = true := by decide
theorem test_wf_cpyq : (Instr.cpyq 8 9 3 0).wf = false ∧ (Instr.cpyq 8 9 2 0).wf = true := by decide
theorem test_wf_mst : (Instr.mst 8 9 10 false 6 0).wf = false ∧ (Instr.mst 8 9 10 false 5 0).wf = true := by decide
theorem test_wf_gstat : (Instr.gstat 8 true true).wf = false := by decide
theorem test_wf_sysr : (Instr.sysr 8 0x004).wf = false ∧ (Instr.sysr 8 0x10D).wf = true := by decide
theorem test_wf_sysw : (Instr.sysw 8 0x001).wf = false ∧ (Instr.sysw 8 0x106).wf = true := by decide
theorem test_wf_vadd : (Instr.vadd 1 2 3 0 .df8 false).wf = false ∧ (Instr.vsub 1 2 3 0 .f32 true).wf = false ∧
    (Instr.vmul 1 2 3 0 .rns true).wf = false := by decide
theorem test_wf_vfma : (Instr.vfma 1 2 3 0 .rns false).wf = false ∧ (Instr.vmin 1 2 3 0 .f32 true).wf = false ∧
    (Instr.vmax 1 2 3 0 .rns false).wf = false := by decide
theorem test_wf_vabs : (Instr.vabs 1 2 0 .rns false).wf = false ∧ (Instr.vneg 1 2 0 .df8 false).wf = false := by decide
theorem test_wf_shifts : (Instr.vshl 1 2 3 0 .f32).wf = false ∧ (Instr.vshr 1 2 3 0 .rns).wf = false ∧
    (Instr.vsar 1 2 3 0 .df8).wf = false := by decide
theorem test_wf_vcmp : (Instr.vcmp 1 2 3 0 .i32 false 4).wf = false ∧ (Instr.vcmp 1 2 3 0 .f32 true 0).wf = false ∧
    (Instr.vcmp 1 2 3 0 .rns false 2).wf = false := by decide
theorem test_wf_gather : (Instr.vgth 1 8 2 0 .f16 false).wf = false ∧ (Instr.vsct 1 8 2 0 .i8 false).wf = false := by
  decide
theorem test_wf_vqueue : (Instr.vqpush 15 0 1).wf = false ∧ (Instr.vqpop 15 0 .i32 1).wf = false ∧
    (Instr.vqpop 1 0 .i8 0).wf = false ∧ (Instr.vqpush 15 0 0).wf = true := by decide
theorem test_wf_vcvt : (Instr.vcvt 1 2 0 .f32 .f32).wf = false ∧ (Instr.vcvt 1 2 0 .rns .i8).wf = false ∧
    (Instr.vcvt 0 13 0 .i8 .f32).wf = false ∧ (Instr.vcvt 0 12 0 .i8 .f32).wf = true := by decide
theorem test_wf_rns : (Instr.vtorns 13 1 0 .i8).wf = false ∧ (Instr.vtorns 1 2 0 .f32).wf = false ∧
    (Instr.vfrns 1 2 8 0 .bf16 2).wf = false ∧ (Instr.vfrns 1 2 8 0 .i16 0).wf = false := by decide
theorem test_wf_vqnt : (Instr.vqnt 1 2 8 0 .f32 0).wf = false ∧ (Instr.vqnt 1 2 8 0 .f16 2).wf = false := by decide
theorem test_wf_vaddq : (Instr.vaddq 1 2 3 0 .rns 1).wf = false := by decide
theorem test_wf_special : (Instr.vexp2 1 2 0 .i32).wf = false ∧ (Instr.vlog2 1 2 0 .df8).wf = false ∧
    (Instr.vrcp 1 2 0 .i8).wf = false ∧ (Instr.vrsq 1 2 0 .rns).wf = false ∧ (Instr.vtanh 1 2 0 .i16).wf = false ∧
    (Instr.vsig 1 2 0 .i32).wf = false := by decide
theorem test_wf_reductions : (Instr.vred 1 2 0 .f32 false 3).wf = false ∧ (Instr.vred 1 2 0 .rns false 1).wf = false ∧
    (Instr.vscan 1 2 0 .i32 false true 0).wf = false ∧ (Instr.vscan 1 2 0 .f32 false true 1).wf = false := by decide
theorem test_wf_vtopk : (Instr.vtopk 1 2 8 0 .df8 false false).wf = false ∧
    (Instr.vtopk 1 2 8 0 .f32 false true).wf = false := by decide
theorem test_wf_vrng : (Instr.vrng 1 0 .i8).wf = false ∧ (Instr.vrng 1 0 .f32).wf = true := by decide

/-! ### Words of the specification's examples -/

/-- The examples after R109. -/
theorem test_decode_formats : decode 0x11800000 = some (.ori 12 0 0) ∧ decode 0x21811140 = some (.insh 12 1 0x1140) ∧
    decode 0x21827000 = some (.insh 12 2 0x7000) ∧ decode 0xE048D000 = some (.vadd 1 2 3 2 .f32 false) ∧
    decode 0x08000000 = some (.addi 0 0 0) ∧ decode 0x48A4FFFE = some (.beq 5 4 0xFFFE) := by decide
/-- R134, R135. -/
theorem test_decode_integer : decode 0x05042800 = some (.add 8 4 5) ∧ decode 0x05842B63 = some (.sel 12 4 5 3) := by decide
/-- R142, R143, R146, R148. -/
theorem test_decode_bits : decode 0x29098102 = some (.bfi 8 9 4 2) ∧ decode 0x2C89F85D = some (.pcmpi 4 9 31 .ge 5) ∧
    decode 0x328C68C0 = some (.ffma 20 12 13) ∧ decode 0x31090241 = some (.fcvt 8 9 .f32 .bf16) := by decide
/-- R151, R153, R154, R155. -/
theorem test_decode_control : decode 0x43FFFFFC = some (.br 0x3FFFFFC) ∧ decode 0x44000340 = some (.call 0x340) ∧
    decode 0x61800005 = some (.bp 3 false 5) ∧ decode 0x640C0000 = some (.jr 12) ∧ decode 0x640D0040 = some (.callr 13) ∧
    decode 0x64000080 = some .ret ∧ decode 0x680C0002 = some (.loop 12 2) := by decide
/-- R159, R160, R165, R168. -/
theorem test_decode_memory : decode 0x89090010 = some (.ldw 8 9 16) ∧ decode 0xAA82FFF8 = some (.std 20 2 0xFFF8) ∧
    decode 0xAD095014 = some (.ldx 8 9 10 .w true) ∧ decode 0xB1095001 = some (.aadd 8 9 10 true) ∧
    decode 0xB1095240 = some (.acas 8 9 10 false) ∧ decode 0xB4000023 = some (.fence .full .device) ∧
    decode 0xB4000002 = some (.fence .acquire .tile) := by decide
/-- R180 to R199. -/
theorem test_decode_vector : decode 0xE048C601 = some (.vadd 1 2 3 0 .i8 true) ∧ decode 0xE048C600 = some (.vadd 1 2 3 0 .i8 false) ∧
    decode 0xEE080030 = some (.mpop 8 2) ∧ decode 0xF2248431 = some (.vgth 8 9 2 0 .i32 true) ∧
    decode 0xF0100751 = some (.vqpush 4 0 1) ∧ decode 0xF4100600 = some (.vcvt 0 4 0 .i8 .f32) ∧
    decode 0xF6040610 = some (.vtorns 8 1 0 .i8) ∧ decode 0xF4A14121 = some (.vfrns 2 8 5 0 .bf16 1) := by decide
/-- R206 to R208. -/
theorem test_decode_ranks : decode 0xF8C58092 = some (.vtopk 3 1 6 0 .f32 true false) ∧
    decode 0xF8C000B0 = some (.vrng 3 0 .f32) ∧ decode 0xF81000C0 = some (.rngseed 4) := by decide
/-- R224 to R232, with the worked examples. -/
theorem test_decode_messages : decode 0xB98D4001 = some (.send 12 13 8 true) ∧ decode 0xB8004100 = some (.reply 8) ∧
    decode 0xBC000000 = some .endH ∧ decode 0xBC042881 = none ∧ decode 0xBC042880 = some (.htset 4 5) ∧
    decode 0xBC0400C0 = some (.htclr 4) ∧ decode 0xBC042845 = some (.armw 4 5 5) ∧ decode 0xBC042846 = none := by decide
/-- R257, R267, R284. -/
theorem test_decode_queues : decode 0xC4040001 = some (.qpush 4 1) ∧ decode 0xC5800040 = some (.qpop 12 0) ∧
    decode 0xC0040100 = some (.barr 0 4) ∧ decode 0xC18D3200 = some (.bwait 12 13 6) ∧
    decode 0xB98D2183 = some (.mcastl 12 13 4 false true true) ∧ decode 0xB80541C1 = some (.gred 5 8 1) := by decide
/-- R297 to R316. -/
theorem test_decode_copies : decode 0xC9844000 = some (.cpy 12 4 8) ∧ decode 0xC984008B = some (.cpyq 12 4 1 3) ∧
    decode 0xC9A44901 = some (.gath 13 4 9 true) ∧ decode 0xC84C0180 = some (.jpoll 2 12) ∧
    decode 0xC80C01C0 = some (.jwait 0 12) ∧ decode 0xC9A60203 = some (.jcwait 13 6 true true) ∧
    decode 0xC80C3240 = some (.armj 12 6) := by decide
/-- R321 to R328. -/
theorem test_decode_matrix : decode 0xCD840006 = some (.mma 12 4 0 true 2) ∧ decode 0xCD844040 = some (.mmag 12 4 8 false 0) ∧
    decode 0xCDA600A6 = some (.mst 13 6 0 true 1 2) ∧ decode 0xCDC000C9 = some (.mzr 14 true 1) ∧
    decode 0xCC0E7902 = some (.mscl 14 15 2) := by decide
/-- R350, R377. -/
theorem test_decode_graph_loop : decode 0xD1844000 = some (.gload 12 4 8) ∧ decode 0xD1A00040 = some (.gswap 13) ∧
    decode 0xD1C40080 = some (.gbind 14 4) ∧ decode 0xD1E000C0 = some (.gdrain 15) ∧
    decode 0xD0A00101 = some (.gstat 5 false true) ∧ decode 0xD40C2000 = some (.cplb 12 4) ∧
    decode 0xD5AC0040 = some (.cplr 13 12 0) ∧ decode 0xD40C4080 = some (.cplu 12 8 false) ∧
    decode 0xD40400C0 = some (.wgt 4) := by decide
/-- R417 to R420, R438. -/
theorem test_decode_system : decode 0xD9800001 = some (.sysr 12 1) ∧ decode 0xD80C1106 = some (.sysw 12 0x106) ∧
    decode 0xD8002FFF = some (.trap 0xFFF) ∧ decode 0xD8003001 = some (.brk 1) ∧ decode 0xD80F4000 = some (.resume 15) ∧
    decode 0xD9845000 = some (.probe 12 4) := by decide
/-- R110: opcode 0, a reserved opcode, a nonzero field that must be zero, and an empty loop body. -/
theorem test_decode_refused : decode 0x00000000 = none ∧ decode 0xFC000000 = none ∧ decode 0x64010080 = none ∧
    decode 0x680C0000 = none := by decide

/-! ### Single steps -/

/-- A register file with some registers set. -/
def regs (l : List (GReg × Word)) : Vector Word 32 := l.foldl (fun v e => v.set e.1 e.2) (Vector.replicate 32 0)
/-- Strand 0 runs at 0x10000 with 32 registers; a kernel of context 0 holds tile 0. -/
def st0 (l : List (GReg × Word)) : Strand := { phase := .running, code := 3, pc := 0x10000, g := regs l }
/-- The machine in which that strand issues. -/
def on (st : Strand) : State := { State.reset.withText 0 with strands := [(0, st)], cur := 0 }
def demo (l : List (GReg × Word)) : State := on (st0 l)
/-- The state after an outcome. -/
def out : Out → State
  | .next t => t
  | .fault _ => {}
  | .refused _ => {}
/-- The strand after an outcome. -/
def me (o : Out) : Strand := (out o).strand 0
/-- Its register. -/
def g (r : GReg) (o : Out) : Word := (me o).g[r]
/-- `n` bytes of the slice of tile 0 after an outcome. -/
def slice (off n : Nat) (o : Out) : Nat := leNat ((out o).readRaw (sliceAddr 0 off) n)
/-- A vector register of elements of `w` bits. -/
def vec (w : Nat) (l : List Nat) : VecWord := BitVec.ofNat 512 ((List.range l.length).map fun j => l.getD j 0 * 2 ^ (w * j)).sum
/-- Element `j` of a vector register. -/
def el (w j : Nat) (r : WReg) (o : Out) : Nat := (me o).w[r].toNat / 2 ^ (w * j) % 2 ^ w
def vecs (l : List (WReg × VecWord)) : Vector VecWord 16 := l.foldl (fun v e => v.set e.1 e.2) (Vector.replicate 16 0)
def vdemo (l : List (GReg × Word)) (v : List (WReg × VecWord)) : State := on { st0 l with w := vecs v }
/-- The own-tile alias of an offset (R59). -/
def here (off : Nat) : Word := BitVec.ofNat 64 (0x7F0000000000 + off)
/-- The state with bytes in the slice of tile 0. -/
def holding (s : State) (off n v : Nat) : State := s.writeRaw (sliceAddr 0 off) (leBytes n v)

/-- R135: results are taken modulo 2^64. -/
theorem test_add_wraps : g 8 (exec (.add 8 9 10) (demo [(9, 0xFFFFFFFFFFFFFFFF), (10, 2)])) = 1 := by decide
theorem test_sub_order : g 8 (exec (.sub 8 9 10) (demo [(9, 3), (10, 5)])) = 0xFFFFFFFFFFFFFFFE := by decide
theorem test_andn : g 8 (exec (.andn 8 9 10) (demo [(9, 0xFF), (10, 0x0F)])) = 0xF0 := by decide
theorem test_sar_sign : g 8 (exec (.sar 8 9 10) (demo [(9, 0x8000000000000000), (10, 63)])) = 0xFFFFFFFFFFFFFFFF := by decide
/-- R135: a shift takes the six low bits of its count. -/
theorem test_shl_count : g 8 (exec (.shl 8 9 10) (demo [(9, 3), (10, 65)])) = 6 := by decide
theorem test_ror : g 8 (exec (.ror 8 9 10) (demo [(9, 1), (10, 4)])) = 0x1000000000000000 := by decide
theorem test_min_signed : g 8 (exec (.min 8 9 10) (demo [(9, 1), (10, 0xFFFFFFFFFFFFFFFF)])) = 0xFFFFFFFFFFFFFFFF := by decide
theorem test_minu : g 8 (exec (.minu 8 9 10) (demo [(9, 1), (10, 0xFFFFFFFFFFFFFFFF)])) = 1 := by decide
theorem test_mulh_signed : g 8 (exec (.mulh 8 9 10) (demo [(9, 0xFFFFFFFFFFFFFFFF), (10, 2)])) = 0xFFFFFFFFFFFFFFFF := by decide
theorem test_mulhu : g 8 (exec (.mulhu 8 9 10) (demo [(9, 0xFFFFFFFFFFFFFFFF), (10, 2)])) = 1 := by decide
/-- R136: division by 0, the one overflow, and the sign of a remainder. -/
theorem test_div_zero : g 8 (exec (.div 8 9 10) (demo [(9, 7), (10, 0)])) = 0xFFFFFFFFFFFFFFFF := by decide
theorem test_div_overflow : g 8 (exec (.div 8 9 10) (demo [(9, 0x8000000000000000), (10, 0xFFFFFFFFFFFFFFFF)])) =
    0x8000000000000000 := by decide
theorem test_rem_sign : g 8 (exec (.rem 8 9 10) (demo [(9, 0xFFFFFFFFFFFFFFF9), (10, 3)])) = 0xFFFFFFFFFFFFFFFF := by decide
theorem test_remu_zero : g 8 (exec (.remu 8 9 10) (demo [(9, 7), (10, 0)])) = 7 := by decide
theorem test_clz_zero : g 8 (exec (.clz 8 9) (demo [])) = 64 := by decide
theorem test_ctz : g 8 (exec (.ctz 8 9) (demo [(9, 8)])) = 3 := by decide
/-- R134: SEL with p0 selects a. -/
theorem test_sel_p0 : g 8 (exec (.sel 8 9 10 0) (demo [(9, 1), (10, 2)])) = 1 := by decide
/-- R138: SLTIU with −1 writes 1 for every value but all ones. -/
theorem test_sltiu : g 8 (exec (.sltiu 8 9 0x7FFF) (demo [(9, 0xFFFFFFFFFFFFFFFE)])) = 1 ∧
    g 8 (exec (.sltiu 8 9 0x7FFF) (demo [(9, 0xFFFFFFFFFFFFFFFF)])) = 0 := by decide
theorem test_andi_clears : g 8 (exec (.andi 8 9 0xFFFF) (demo [(9, 0xFFFFFFFFFFFF1234)])) = 0x1234 := by decide
/-- The examples after R109. -/
theorem test_insh : g 12 (exec (.insh 12 2 0x7000) (demo [(12, 0x11400000)])) = 0x700011400000 := by decide
/-- R142's example. -/
theorem test_bfi : g 8 (exec (.bfi 8 9 4 2) (demo [(8, 0xFFFFFFFFFFFFFFFF), (9, 5)])) = 0xFFFFFFFFFFFFFFDF := by decide
theorem test_bfx : g 10 (exec (.bfx 10 8 4 3) (demo [(8, 0xFFFFFFFFFFFFFFDF)])) = 0xFFFFFFFFFFFFFFFD := by decide
theorem test_aupc : g 8 (exec (.aupc 8 0xFFFF) (demo [])) = 0 := by decide
/-- R85: a write of g0 is discarded. -/
theorem test_write_g0 : g 0 (exec (.add 0 9 10) (demo [(9, 1), (10, 2)])) = 0 := by decide
/-- R88: a register beyond the budget. -/
theorem test_budget : (me (exec (.add 8 9 10) (on { st0 [] with code := 0 }))).cause = 1 ∧
    (me (exec (.add 7 6 5) (on { st0 [] with code := 0 }))).phase = .running := by decide
/-- R171: sp below SLIM. -/
theorem test_stack_limit : let o := exec (.addi 2 0 16) (on { st0 [] with slim := 32 });
    (me o).phase = .faulted ∧ g 2 o = 0 ∧ (me o).badva = 16 := by decide
/-- R143, R144. -/
theorem test_pcmpi : (me (exec (.pcmpi 4 9 31 .ge 5) (demo [(9, 0xFFFFFFFFFFFFFFFD)]))).p.getLsbD 4 = true ∧
    (me (exec (.pcmpi 4 9 31 .ge 5) (demo [(9, 0xFFFFFFFFFFFFFFFC)]))).p.getLsbD 4 = false := by decide
theorem test_pcmp_unsigned : (me (exec (.pcmp 1 9 10 .ltu) (demo [(9, 1), (10, 0xFFFFFFFFFFFFFFFF)]))).p.getLsbD 1 = true ∧
    (me (exec (.pcmp 1 9 10 .lt) (demo [(9, 1), (10, 0xFFFFFFFFFFFFFFFF)]))).p.getLsbD 1 = false := by decide
/-- R146's example: a tie goes to even and sets NX. -/
theorem test_ffma : let o := exec (.ffma 20 12 13) (demo [(20, 0x3F800000), (12, 0x39800000), (13, 0x39800000)]);
    g 20 o = 0x3F800000 ∧ (me o).flags = 1 := by decide
/-- R148's examples. -/
theorem test_fcvt_bf16 : g 8 (exec (.fcvt 8 9 .f32 .bf16) (demo [(9, 0x3F808000)])) = 0x3F80 := by decide
theorem test_fcvt_int : g 8 (exec (.fcvt 8 9 .f32 .i32) (demo [(9, 0xC1C80000)])) = 0xFFFFFFFFFFFFFFE7 ∧
    g 8 (exec (.fcvt 8 9 .f32 .i32) (demo [(9, 0x4F32D05E)])) = 0x7FFFFFFF := by decide
/-- R147: −0 equals +0. -/
theorem test_fcmp_zero : g 8 (exec (.fcmp 8 9 10 .eq) (demo [(9, 0x80000000), (10, 0)])) = 1 := by decide

/-- R149 to R156. -/
theorem test_callr_link : let o := exec (.callr 1) (demo [(1, 0x20000)]); (me o).pc = 0x20000 ∧ g 1 o = 0x10004 := by decide
theorem test_jr_misaligned : let o := exec (.jr 12) (demo [(12, 0x20002)]);
    (me o).phase = .faulted ∧ (me o).badva = 0x20002 ∧ (me o).pc = 0x10000 := by decide
theorem test_beq_back : (me (exec (.beq 5 4 0xFFFE) (demo [(4, 1), (5, 1)]))).pc = 0xFFF8 ∧
    (me (exec (.beq 5 4 0xFFFE) (demo [(4, 1), (5, 2)]))).pc = 0x10004 := by decide
theorem test_bp_p0 : (me (exec (.bp 0 true 4) (demo []))).pc = 0x10010 ∧ (me (exec (.bp 0 false 4) (demo []))).pc = 0x10004 := by
  decide
theorem test_loop : (me (exec (.loop 12 2) (demo [(12, 3)]))).le = 0x10008 ∧ (me (exec (.loop 12 2) (demo []))).pc = 0x1000C := by
  decide
theorem test_loop_back : let o := exec (.addi 0 0 0) (on { st0 [] with lc := 2, ls := 0xFF00, le := 0x10000 });
    (me o).pc = 0xFF00 ∧ (me o).lc = 1 := by decide
theorem test_loop_ends : let o := exec (.addi 0 0 0) (on { st0 [] with lc := 1, ls := 0xFF00, le := 0x10000 });
    (me o).pc = 0x10004 ∧ (me o).lc = 0 := by decide

/-- R159: LDW extends its sign. -/
theorem test_ldw_sign : g 8 (exec (.ldw 8 9 16) (holding (demo [(9, here 0x400)]) 0x410 4 0x80000001)) = 0xFFFFFFFF80000001 := by
  decide
theorem test_ldwu : g 8 (exec (.ldwu 8 9 16) (holding (demo [(9, here 0x400)]) 0x410 4 0x80000001)) = 0x80000001 := by decide
/-- R160's example. -/
theorem test_ldx_scaled : g 8 (exec (.ldx 8 9 10 .w true) (holding (demo [(9, here 0x1000), (10, 3)]) 0x100C 4 7)) = 7 := by decide
/-- R160: STX stores the register of its d field. -/
theorem test_stx_source : slice 0x1000 2 (exec (.stx 8 9 10 .h false) (demo [(8, 0x12345678), (9, here 0x0FF0), (10, 16)])) = 0x5678 := by
  decide
theorem test_std_offset : slice 0x3F8 8 (exec (.std 20 2 0xFFF8) (demo [(20, 5), (2, here 0x400)])) = 5 := by decide
theorem test_load_misaligned : let o := exec (.ldd 8 9 0) (demo [(9, here 0x404)]);
    (me o).phase = .faulted ∧ (me o).badva = here 0x404 := by decide
/-- R58: the reserved end of a slice's window. -/
theorem test_load_bounds : (me (exec (.ldd 8 9 0) (demo [(9, here 0x300000)]))).phase = .faulted := by decide
/-- R165's examples. -/
theorem test_acas : let s := holding (demo [(8, 5), (9, here 0x400), (10, 9)]) 0x400 4 5;
    g 8 (exec (.acas 8 9 10 false) s) = 5 ∧ slice 0x400 4 (exec (.acas 8 9 10 false) s) = 9 := by decide
theorem test_afadd : let s := holding (demo [(9, here 0x400), (10, 0x33800000)]) 0x400 4 0x3F800000;
    g 8 (exec (.afadd 8 9 10) s) = 0x3F800000 ∧ slice 0x400 4 (exec (.afadd 8 9 10) s) = 0x3F800000 := by decide
theorem test_amin_signed : slice 0x400 8 (exec (.amin 8 9 10 true) (holding (demo [(9, here 0x400), (10, 0xFFFFFFFFFFFFFFFF)]) 0x400 8 1)) =
    0xFFFFFFFFFFFFFFFF := by decide

/-- R180's example: 100 + 90, saturated and wrapped. -/
theorem test_vadd_i8 : let s := vdemo [] [(2, vec 8 [100]), (3, vec 8 [90])];
    el 8 0 1 (exec (.vadd 1 2 3 0 .i8 true) s) = 127 ∧ el 8 0 1 (exec (.vadd 1 2 3 0 .i8 false) s) = 190 := by decide +kernel
/-- R195's example: element 17 comes from lane 1 of w5. -/
theorem test_vcvt_i8 : el 8 17 0 (exec (.vcvt 0 4 0 .i8 .f32) (vdemo [] [(5, vec 32 [0, 0xC1C80000])])) = 0xE7 := by decide +kernel
/-- R197's example. -/
theorem test_vtorns : let o := exec (.vtorns 8 1 0 .i8) (vdemo [] [(1, vec 8 [0xFB, 100])]);
    el 32 0 8 o = 0xF4FCFAFB ∧ el 32 1 8 o = 0xC8646464 := by decide +kernel
/-- R198's example. -/
theorem test_vfrns : el 16 16 2 (exec (.vfrns 2 8 5 0 .bf16 1) (vdemo [(5, 0x3F000000)] [(8, vec 32 [0xF4FCFAFB])])) = 0xC020 := by
  decide +kernel
/-- R206's example. -/
theorem test_vtopk : let o := exec (.vtopk 3 1 6 0 .f32 true false) (vdemo [(6, 6)] [(1, vec 32 [0x40400000, 0x7FC00000, 0x40A00000,
    0x40A00000, 0x80000000, 0, 0x3F800000, 0xBF800000, 0xBF800000, 0xBF800000, 0xBF800000, 0xBF800000, 0xBF800000, 0xBF800000,
    0xBF800000, 0xBF800000])]); (List.range 8).map (fun j => el 32 j 3 o) = [1, 2, 3, 0, 6, 5, 0, 0] := by decide +kernel
/-- R207's example. -/
theorem test_vrng : let o := exec (.vrng 3 0 .f32) (demo []); el 32 0 3 o = 0x3ECC4FD0 ∧ (me o).rngctr = 4 := by decide +kernel
theorem test_vcmp_group : (me (exec (.vcmp 2 1 3 0 .i32 false 0) (vdemo [] [(1, vec 32 [4, 5]), (3, vec 32 [4, 6])]))).m[2].getLsbD 1 = false := by
  decide +kernel
theorem test_vred_add : el 32 0 1 (exec (.vred 1 2 0 .i32 false 0) (vdemo [] [(2, vec 32 [1, 2, 3, 4])])) = 10 := by decide +kernel
theorem test_vscan_exclusive : el 32 2 1 (exec (.vscan 1 2 0 .i32 true false 0) (vdemo [] [(2, vec 32 [1, 2, 3, 4])])) = 3 := by decide +kernel
theorem test_vst : slice 0x400 8 (exec (.vst 1 9 0 .i32) (vdemo [(9, here 0x400)] [(1, vec 32 [1, 2])])) = 0x200000001 := by decide +kernel
theorem test_vld : el 32 1 1 (exec (.vld 1 9 0 .i32) (holding (demo [(9, here 0x400)]) 0x400 8 0x200000001)) = 2 := by decide +kernel

/-- R417: SYSR of the strand's number; R418: a register that software may not write. -/
theorem test_sysr : g 8 (exec (.sysr 8 0x012) (on { st0 [] with lc := 7 })) = 7 := by decide
theorem test_sysw_head : ((out (exec (.sysw 12 0x106) (demo [(12, 1)]))).ctx 0).frhead = 0 := by decide
theorem test_trap : let o := exec (.trap 5) (demo []); (me o).phase = .faulted ∧ (me o).epc = 0x10004 ∧ (me o).badva = 5 := by decide
/-- R228: REPLY of a strand that owes none. -/
theorem test_reply_orphan : (me (exec (.reply 8) (demo []))).phase = .faulted := by decide
theorem test_end : (me (exec .endH (demo []))).phase = .idle := by decide
/-- R232, R233: the entry changes at the end of the clock. -/
theorem test_htset : let x := (out (exec (.htset 4 5) (demo [(4, 0x30), (5, 0x8000FF0000000400)]))).tile 0
    x.handlers.get 0 0x30 = 0 ∧ x.applySets.handlers.get 0 0x30 = 0x8000FF0000000400 := by decide
theorem test_htset_reserved : let o := exec (.htset 4 5) (demo [(4, 0xFF0), (5, 0)]); (me o).phase = .faulted ∧ (me o).badva = 0xFF0 := by
  decide
/-- R258: QPUSH of q1 fills the inbound queue of the next core. -/
theorem test_qpush : ((out (exec (.qpush 8 1) (demo [(8, 42)]))).core 1).inq = [42] := by decide
theorem test_qpop_empty : (me (exec (.qpop 8 0) (demo []))).phase ≠ .running ∧ (me (exec (.qpop 8 0) (demo []))).pc = 0x10000 := by decide
/-- R268, R270: BINIT and the arrival that completes a phase. -/
theorem test_binit : slice 0x400 8 (exec (.binit 8 9) (demo [(8, here 0x400), (9, 2)])) ≠ 0 := by decide
/-- R351: with nothing loaded GSWAP gives 0; its result may not put sp below SLIM. -/
theorem test_gswap : g 8 (exec (.gswap 8) (demo [(8, 9)])) = 0 ∧
    (me (exec (.gswap 2) (on { st0 [] with slim := 32 }))).phase = .faulted := by decide
theorem test_wgt : (me (exec (.wgt 4) (demo [(4, 65)]))).phase = .faulted ∧ (me (exec (.wgt 4) (demo [(4, 64)]))).phase = .running := by
  decide
/-- R438's result of an absent page. -/
theorem test_probe_absent : (me (exec (.probe 12 4) (demo [(4, 0x8000000000)]))).phase = .running := by decide
/-- R96 to R110: the step runs the word at the program counter. -/
theorem test_step : g 8 (step ((State.reset.withFetchWord 32 0x11000007))) = 7 := by decide

/-! ### States that meet the hypotheses of the statements -/

/-- `demo` with its agenda naming strand 0. -/
def issues : State := { demo [] with agenda := [.issue 0] }

theorem witness_step : issues.agenda = .issue 0 :: [] ∧ issues.permitted = true ∧ (issues.strand 0).phase.issues = true ∧
    (State.reset.withFetchWord 32 0x11000007).fetch 0 = .word 0x11000007 ∧ decode 0x11000007 = some (.ori 8 0 7) := by decide
theorem witness_step_event : ∃ (s : State) (i : Instr), s.agenda = .event i :: [] ∧ Instr.isStep i = true ∧ s.alive = true ∧
    stoppedByFatal i = false := ⟨{ demo [] with agenda := [.event .attest] }, .attest, rfl, by decide⟩
/-- The ends of the scratchpad window and of the alias, the absent page, the page without execute permission and the word. -/
theorem witness_fetch : (windowOf 0x700000000000).isSome = true ∧ (aliasOf 0x7F00002FFFFF).isSome = true ∧
    (demo []).xlate 0 0x40000000 { x := true } = .absent ∧ (demo []).xlate 0 0x10000 { x := true } = .ok (.mem 0x10000 none) ∧
    (demo []).poisoned 0x10000 4 = false ∧ windowOf 0x10000 = none ∧ aliasOf 0x10000 = none ∧ r58 0x10000 = none := by decide
theorem witness_fetch_denied : ∃ s : State, s.xlate 0 0x10000 { x := true } = .denied :=
  ⟨(demo []).writeRaw 0x200000 (leBytes 8 10), by decide⟩
theorem witness_bad_word : (demo []).fetch 0 = .word 0 ∧ decode 0 = none ∧
    (on { st0 [] with pc := 0x40000000 }).fetch 0 = .bad .pageAbsent 0x40000000 := by decide
theorem witness_encode : (Instr.add 8 9 10).wf = true ∧ Instr.isStep (.add 8 9 10) = false ∧
    (Instr.bfi 8 9 1 62).wf = true ∧ Instr.isStep (.bfi 8 9 1 62) = false := by decide
theorem witness_memory_form : ∃ s t : State, s.memOk = true ∧ step s = .next t := ⟨issues, _, by decide, rfl⟩
theorem witness_reset_form : State.reset.memOk = true := by decide
/-- Registers that may issue, sp and g0 among them, and the last one. -/
theorem witness_can_issue : (demo []).canIssue { g := [8, 9, 10] } = true ∧ (demo []).canIssue { g := [0, 2, 31] } = true ∧
    (demo []).canIssue {} = true ∧ (demo []).canIssue { g := [1] } = true := by decide
theorem witness_writes_sp : (demo []).me.spBad 2 0 = false ∧ (on { st0 [] with slim := 32 }).me.spBad 2 31 = true := by decide
theorem witness_bit_field : (63 : BitVec 6).toNat + (0 : BitVec 6).toNat + 1 ≤ 64 ∧ (0 : BitVec 6).toNat + (63 : BitVec 6).toNat + 1 ≤ 64 := by
  decide
theorem witness_register_checks : instrUses (.add 8 9 10) = some { g := [8, 9, 10] } ∧
    ({} : State).me.phase.issues = false ∧ (on { st0 [] with code := 0 }).me.phase.issues = true ∧
    8 * ((on { st0 [] with code := 0 }).me.code.toNat + 1) ≤ 8 ∧
    (∃ p ∈ (on { st0 [] with pend := [{ g := some 8 }] }).me.pend, p.blocks { g := [8, 9, 10] } = true) := by decide
theorem witness_loop_back : (demo []).me.stepMode = false ∧ (demo []).me.phase ≠ .faulted ∧
    (on { st0 [] with lc := 2, le := 0x10000 }).me.lc ≠ 1 ∧ (on { st0 [] with lc := 1, le := 0x10000 }).me.pc.setWidth 64 =
    (on { st0 [] with lc := 1, le := 0x10000 }).me.le := by decide
theorem witness_step_mode : let s := on { st0 [] with stepMode := true }; s.me.stepMode = true ∧ s.me.phase ≠ .faulted ∧
    s.me.faults = [] := by decide
theorem witness_psave : ∃ v : Word, (∀ k : Fin 8, v.getLsbD k.val = readP (demo []).me k) ∧ v.toNat < 256 := ⟨1, by decide⟩
/-- Both outcomes of each jump check, at their bounds. -/
theorem witness_jumps : (0xFFFFFFFFFFFC : Word).toNat < 2 ^ 48 ∧ (0xFFFFFFFFFFFC : Word).toNat % 4 = 0 ∧
    2 ^ 48 ≤ (0x1000000000000 : Word).toNat ∧ (0xFFFFFFFFFFFF : Word).toNat % 4 ≠ 0 ∧ readG (demo [(12, 4)]).me 12 = 4 := by decide
theorem witness_loop : readG (demo []).me 12 = 0 ∧ readG (demo [(12, 1)]).me 12 ≠ 0 := by decide

/-- Each outcome of the check of an access at a boundary of its range. -/
theorem witness_checks : let s := demo []; (1 : Nat) % 8 ≠ 0 ∧ (0x800000000000 : Nat) % 8 = 0 ∧
    s.checkAccess 0 0x800000000000 8 8 needR = .bad .pageAbsent 0x800000000000 ∧
    s.checkAccess 0 0x7F0000300000 8 8 needR = .bad .scratchBounds 0x7F0000300000 ∧
    s.checkAccess 0 0x700000300000 8 8 needR = .bad .scratchBounds 0x700000300000 ∧
    s.inPlacement (s.ctxOf 0) 1 = false ∧ s.inPlacement (s.ctxOf 0) 0 = true ∧ isGateway 0 = false ∧
    s.checkAccess 0 (here 0x2FFFF8) 8 8 needR = .ok (.mem (sliceAddr 0 0x2FFFF8) none) false ∧
    s.xlate 0 0x40000000 needR = .absent ∧ s.xlate 0 0x10000 needW = .ok (.mem 0x10000 none) := by decide
theorem witness_check_lock : let s := (demo []).modTile 0 fun x => { x with locks := [{ lo := 0x7F0000000400, hi := 0x7F0000000407, dst := true }] };
    lockHit (s.tile (tileOf 0)).locks (0x7F0000000400) 8 false = some 0x7F0000000400 ∧
    s.checkAccess 0 (here 0x400) 8 8 needR = .bad .rangeLock (here 0x400) := by decide
theorem witness_check_denied : let s := (demo []).writeRaw 0x200000 (leBytes 8 10);
    s.xlate (s.ctxOf 0) 0x10000 needW = .denied ∧ s.checkAccess 0 0x10000 8 8 needW = .bad .pagePermission 0x10000 := by decide
/-- A page of a lease that is not ACTIVE. -/
theorem witness_check_revoked : let s := (demo []).writeRaw 0x200000 (leBytes 8 (2 + 8 + 16 + 64));
    let s := s.modBorrower 0 fun b => { b with size := 1 }; s.xlate (s.ctxOf 0) 0x10000 needR = .revoked := by decide
theorem witness_failed_check : let s := demo [(8, 1), (9, here 0x401)]; s.canIssue { g := [8, 9] } = true ∧
    (Instr.ldd 8 9 0, [8, 9], here 0x401, 8, false) ∈ loads s.me 8 9 10 0 false ∧
    s.checkAccess s.cur (here 0x401) 8 8 needR = .bad .misaligned (here 0x401) ∧
    (Instr.std 8 9 0, [8, 9], here 0x401, 8) ∈ stores s.me 8 9 10 0 false ∧
    s.checkAccess s.cur (here 0x401) 8 8 needW = .bad .misaligned (here 0x401) ∧
    s.checkAccess s.cur (readG s.me 9) 8 8 (atomicNeed (.aadd 8 9 10 true)) = .bad .misaligned (here 0x401) := by decide
/-- The first and the last doubleword of a slice's window. -/
theorem witness_load : let s := demo [(9, here 0x2FFFF8)]; s.canIssue { g := [8, 9] } = true ∧
    (Instr.ldd 8 9 0, [8, 9], here 0x2FFFF8, 8, false) ∈ loads s.me 8 9 10 0 false ∧
    OwnAt s (here 0x2FFFF8) 8 needR (sliceAddr 0 0x2FFFF8) ∧ Sound s (sliceAddr 0 0x2FFFF8) 8 ∧
    OwnAt s (here 0) 8 needR (sliceAddr 0 0) := by unfold OwnAt Sound; decide
theorem witness_poison : let s := { demo [(9, here 0x400)] with poison := [sliceAddr 0 0x400] }; s.me.faults = [] ∧
    OwnAt s (here 0x400) 8 needR (sliceAddr 0 0x400) ∧ s.poisoned (sliceAddr 0 0x400) 8 = true ∧
    OwnAt s (here 0x404) 4 needW (sliceAddr 0 0x404) ∧ s.partlyPoisoned (sliceAddr 0 0x404) 4 = true ∧
    OwnAt s (here 0x400) 8 (atomicNeed (.acas 8 9 10 true)) (sliceAddr 0 0x400) := by unfold OwnAt; decide
theorem witness_store : let s := demo [(9, here 0x400)]; s.canIssue { g := [8, 9, 10] } = true ∧
    OwnAt s (here 0x400) 8 needW (sliceAddr 0 0x400) ∧ s.partlyPoisoned (sliceAddr 0 0x400) 8 = false := by unfold OwnAt; decide
theorem witness_unwatched : Unwatched (demo [(9, here 0x400)]) (sliceAddr 0 0x400) 8 := fun _ _ _ _ h => nomatch h
theorem witness_atomic : let s := demo [(9, here 0x400)]; OwnAt s (readG s.me 9) 8 (atomicNeed (.aadd 8 9 10 true)) (sliceAddr 0 0x400) ∧
    OwnAt s (readG s.me 9) 4 { r := true, w := true, atomic := true } (sliceAddr 0 0x400) ∧ Sound s (sliceAddr 0 0x400) 8 := by
  unfold OwnAt Sound; decide
/-- An access to HBM, translated by the text's page table. -/
theorem witness_elsewhere : let s := demo [(9, 0x10000)]; isOwn s.myCore (.mem 0x10000 none) = false ∧
    s.checkAccess s.cur 0x10000 8 8 needR = .ok (.mem 0x10000 none) false ∧
    s.checkAccess s.cur 0x10000 8 8 needW = .ok (.mem 0x10000 none) false ∧
    s.checkAccess s.cur 0x10000 8 8 (atomicNeed (.acas 8 9 10 true)) = .ok (.mem 0x10000 none) false := by decide
theorem witness_fence : let s := { demo [] with acc := [{ strand := 0, kind := .load }] }; s.canIssue {} = true ∧
    (s.acc.filter fun a => a.strand == s.cur && a.run == s.me.run) ≠ [] ∧ (demo []).acc = [] := by decide

theorem witness_faults : (demo []).me.faults = [] ∧ (on { st0 [] with faults := [{ cause := .poison, ord := 1 }] }).me.faults = [{ cause := .poison, ord := 1 }] ∧
    ({ cause := .poison, ord := 1 } : FaultRec).ord ≠ ({ cause := .poison, ord := 2 } : FaultRec).ord := by decide
/-- Both states of the floating-point queue and of the loads; an unassigned and a read-only register. -/
theorem witness_system : (demo []).fpBusy = false ∧ (demo []).loadsOut = false ∧
    ({ demo [] with acc := [{ strand := 0, kind := .load }] } : State).loadsOut = true ∧
    ((demo []).setCore 0 { sfq := [{ strand := 0 }] }).fpBusy = true := by decide
theorem witness_system_numbers : (∀ e ∈ strandRegs {} ++ contextRegs {} ++ fpRegs {}, e.1 ≠ 0x00F) ∧
    (∀ e ∈ strandWrites {} 0 ++ fpWrites {} 0, e.1 ≠ 0x001) := by
  simp [strandRegs, contextRegs, fpRegs, strandWrites, fpWrites]
theorem witness_resume : let s := demo [(8, 31)]; isGateway 31 = false ∧ (s.ctx (s.ctxOf s.cur)).kst = .running ∧
    (s.ctx (s.ctxOf s.cur)).covers (tileOf 31) = true ∧ (s.ctx (s.ctxOf s.cur)).covers (tileOf 32) = false := by decide

/-- Rows 23 and 24 of a destination. -/
theorem witness_rows : (23 : BitVec 5).toNat < 24 ∧ 24 ≤ (24 : BitVec 5).toNat := by decide
theorem witness_send : let s := demo []; s.canIssue { g := 12 :: 13 :: run 8 4 } = true ∧ isGateway s.cur = false ∧
    ((s.core (s.cur / 4)).replies.get {} 0).reserved = false ∧
    (∀ k < 64, ((({ replies := (List.range 64).map fun k => (k, { reserved := true }) } : Core).replies.get {} k)).reserved = true) := by
  decide
theorem witness_gateway : isGateway (24576 : Nat) = true ∧ ({ demo [] with cur := 24576 } : State).cur = 24576 := by decide
/-- The last doubleword of the slice, by the alias and by the window address. -/
theorem witness_sendl : OwnRange (demo []) 0x7F00002FFFF8 8 (sliceAddr 0 0x2FFFF8) ∧
    OwnRange (demo []) 0x7000002FFFF8 8 (sliceAddr 0 0x2FFFF8) ∧ ownLock (demo []) 0x7F00002FFFF8 8 = none :=
  ⟨.inl ⟨rfl, 0x2FFFF8, by decide, rfl, .inl rfl⟩, .inl ⟨rfl, 0x2FFFF8, by decide, rfl, .inr rfl⟩, by decide⟩
theorem witness_sendl_outside : ∀ pa, ¬ OwnRange (demo []) 0x7F0000300000 1 pa := by
  rintro pa (⟨-, off, h1, -, h2 | h2⟩ | ⟨h, -⟩)
  · omega
  · have : tileOf (demo []).cur = 0 := by decide
    omega
  · exact absurd h (by decide)
theorem witness_sendl_lock : let s := (demo []).modTile 0 fun x => { x with locks := [{ lo := 0x7F0000000400, hi := 0x7F0000000407, dst := true }] };
    ownLock s 0x7F0000000400 8 = some 0x7F0000000400 ∧ ({ s with poison := [sliceAddr 0 0x400] } : State).poisoned (sliceAddr 0 0x400) 8 = true := by
  decide
/-- Four strands run and the handler admits core 0: the child runs inline. -/
def inlineState (sp : Word) : State :=
  { demo [(4, 0x21), (2, sp)] with
    strands := [(0, st0 [(4, 0x21), (2, sp)]), (1, st0 []), (2, st0 []), (3, st0 [])],
    tiles := [(0, { handlers := [(0x21, 0x8000FF0000000400)] })] }
theorem witness_spawn_inline : let s := inlineState (here 0x440); let e := (s.tile (tileOf s.cur)).handlers.get 0 0x21;
    s.canIssue { g := 4 :: run 8 4 ++ [1, 2, 3] } = true ∧ (readG s.me 4).toNat % 4096 = 0x21 ∧
    (∀ k < 4, (s.strand (s.cur / 4 * 4 + k)).phase ≠ .idle) ∧ e.getLsbD 63 = true ∧ e.getLsbD 40 = true ∧
    e.getLsbD 62 = false ∧ e.getLsbD 61 = false ∧ e.toNat / 2 ^ 36 % 4 ≤ s.me.code.toNat ∧ s.me.inl.toNat < 15 ∧
    s.me.slim.toNat ≤ (readG s.me 2 - 64).toNat ∧ (readG s.me 2 - 64).toNat = 0x7F0000000000 + 0x400 ∧
    (s.tile (tileOf s.cur)).locks = [] ∧ (s.tile (tileOf s.cur)).watches = [] ∧ s.me.stepMode = false := by decide
theorem witness_spawn_stack : let s := on { st0 [] with slim := 0xFFFFFFFFFFFFFFFF }; (readG s.me 2 - 64).toNat < s.me.slim.toNat := by
  decide
theorem witness_spawn_posts : ((demo []).tile 0).handlers.get 0 0 = 0 ∧ (0 : Word).getLsbD 63 = false ∧
    (demo []).canIssue { g := 4 :: run 8 4 ++ [1, 2, 3] } = true := by decide
theorem witness_reply : let s := on { st0 [] with owed := true }; s.canIssue { g := run 8 4 } = true ∧ s.me.owed = true ∧
    s.me.replied = false ∧ (demo []).me.owed = false := by decide
theorem witness_end : let s := demo []; s.canIssue { g := [1, 3] } = true ∧ s.me.inl = 0 ∧ s.loadsPending = false ∧
    (∀ k < 4, (s.strand (s.cur / 4 * 4 + k)).phase ≠ .savedPre) ∧
    (on { st0 [] with pend := [{ g := some 8 }] }).loadsPending = true := by decide
theorem witness_end_inline : let s := holding (on { st0 [(2, here 0x400)] with inl := 1 }) 0x400 8 0x10004;
    s.canIssue { g := [1, 3] } = true ∧ s.me.inl ≠ 0 ∧ s.me.pend = [] ∧ s.me.landing = [] ∧ s.me.stepMode = false ∧
    (readG s.me 2).toNat = 0x7F0000000000 + 0x400 ∧ (s.tile (tileOf s.cur)).locks = [] ∧ Sound s (sliceAddr 0 0x400) 24 ∧
    memNat s (sliceAddr 0 0x400) 8 < 2 ^ 48 ∧ memNat s (sliceAddr 0 0x400) 8 % 4 = 0 ∧
    s.me.slim.toNat ≤ (readG s.me 2 + 64).toNat := by unfold Sound; decide
/-- Indices 0xFEF, 0xFF0, 0xFFD and 0xFFE, and the entries that are checked. -/
theorem witness_handlers : ¬ (0xFF0 ≤ (0xFEF : Word).toNat % 4096) ∧ 0xFF0 ≤ (0xFF0 : Word).toNat % 4096 ∧
    (0xFFD : Word).toNat % 4096 ≤ 0xFFD ∧ ¬ ((0xFFE : Word).toNat % 4096 ≤ 0xFFD) ∧ (0x8000000000000002 : Word).getLsbD 63 = true ∧
    (0x8000000000000002 : Word).toNat % 4 ≠ 0 := by decide
theorem witness_armw : let s := demo [(4, here 0x2FFFF8)]; s.canIssue { g := 4 :: run 8 6 } = true ∧ isGateway s.cur = false ∧
    (readG s.me 4).toNat % 8 = 0 ∧ (readG s.me 4).toNat = 0x7F0000000000 + 0x2FFFF8 ∧ (s.tile (tileOf s.cur)).watches.length < 64 ∧
    64 ≤ (List.replicate 64 ({} : Watch)).length := by decide
theorem witness_armw_outside : ∀ off, off + 8 ≤ 0x300000 → (here 0x300000).toNat ≠ 0x7F0000000000 + off ∧
    (here 0x300000).toNat ≠ 0x700000000000 + tileOf (demo []).cur * 0x400000 + off := fun off h => by
  have h1 : (here 0x300000).toNat = 0x7F0000300000 := by decide
  have h2 : tileOf (demo []).cur = 0 := by decide
  omega
theorem witness_redlv : let s := holding (demo [(9, here 0x400)]) 0x400 8 1; s.canIssue { g := [8, 9, 10] } = true ∧
    s.checkAccess s.cur (readG s.me 9) 384 64 { r := true, w := true, atomic := true } = .ok (.mem (sliceAddr 0 0x400) none) false ∧
    isOwn s.myCore (.mem (sliceAddr 0 0x400) none) = true ∧ s.poisoned (sliceAddr 0 0x400) 384 = false ∧
    memNat s (sliceAddr 0 0x400) 8 % 2 = 1 ∧ memNat (demo []) (sliceAddr 0 0x400) 8 % 2 = 0 := by decide
/-- An armed counter at, below and above its threshold, with the largest count. -/
theorem witness_counters : ({ st := .armed, thresh := 5, count := 4 } : Counter).thresh.toNat ≤ min (4 + 1) (2 ^ 32 - 1) ∧
    min (4 + 0) (2 ^ 32 - 1) < ({ st := .armed, thresh := 5, count := 4 } : Counter).thresh.toNat ∧
    min ((0xFFFFFFFF : BitVec 32).toNat + 1) (2 ^ 32 - 1) = 2 ^ 32 - 1 ∧ (demo []).ctxOf 0 < 256 ∧
    (destOf (BitVec.ofNat 64 (23 * 32)) (0, 0)).2 < 24 := by decide

/-- A fabric whose queues are bound to core 0. -/
def bound : State := (demo []).modTile 0 fun x => { x with fabric := { x.fabric with bind := [0x10101], inClosed := false, outFifo := [{ elems := List.replicate 64 7 }] } }
theorem witness_queue_registers : let s := demo []; isGateway s.cur = false ∧ s.canIssue { g := [8] } = true ∧
    (s.core 1).inq.length < 16 ∧ s.pushWaits 1 = false ∧ (s.core 0).inq = [] ∧ 16 ≤ ({ inq := List.replicate 16 0 } : Core).inq.length ∧
    (s.setCore 0 { inq := [5] }).core 0 = { inq := [5] } := by decide
theorem witness_bound : inputBound (bound.tile (tileOf bound.cur)).fabric 0 ∧ outputBound (bound.tile (tileOf bound.cur)).fabric 0 ∧
    (bound.tile (tileOf bound.cur)).fabric.inFifo.length < 32 ∧ ¬ inputBound ((demo []).tile (tileOf bound.cur)).fabric 0 ∧
    ¬ outputBound ((demo []).tile (tileOf bound.cur)).fabric 0 := by unfold inputBound outputBound; decide
theorem witness_vector_queue : bound.canIssue { w := run 0 1 } = true ∧ (15 : Fin 16).val + (0 : BitVec 2).toNat < 16 ∧
    (12 : Fin 16).val + (3 : BitVec 2).toNat < 16 ∧
    (bound.tile (tileOf bound.cur)).fabric.outFifo = { elems := List.replicate 64 7 } :: [] := by decide

/-- A barrier object of `v` in its first word at 0x400 of the slice. -/
def barrier (o : BarObj) (l : List (GReg × Word)) : State := (demo l).writeRaw (sliceAddr 0 0x400) o.bytes
theorem witness_barrier : let s := barrier { init := true, expect := 2 } [(9, here 0x400), (10, 1)];
    BarrierAt s (readG s.me 9) (sliceAddr 0 0x400) ∧ s.canIssue { g := [8, 9, 10] } = true ∧ (barrierIn s (sliceAddr 0 0x400)).init = true ∧
    (barrierIn s (sliceAddr 0 0x400)).arrived ≠ (barrierIn s (sliceAddr 0 0x400)).expect ∧
    ¬ completing (arrivedIn (barrierIn s (sliceAddr 0 0x400)) 0 false) ∧
    (s.tile (tileOf s.cur)).conts = [] := by unfold BarrierAt OwnAt Sound completing; decide
theorem witness_barrier_completes : let s := barrier { init := true, expect := 1 } [(9, here 0x400)];
    completing (arrivedIn (barrierIn s (sliceAddr 0 0x400)) 0 false) := by unfold completing; decide
theorem witness_barrier_overrun : let s := barrier { init := true } [(9, here 0x400)];
    (barrierIn s (sliceAddr 0 0x400)).arrived = (barrierIn s (sliceAddr 0 0x400)).expect ∧ s.me.faults = [] ∧
    (barrierIn (demo []) (sliceAddr 0 0x400)).init = false ∧ isReservedByte (sliceAddr 0 0x400) = false := by decide
/-- Each answer of BWAIT: closed, waiting, over, and late. -/
theorem witness_bwait : let o := barrierIn (barrier { init := true, expect := 1 } []) (sliceAddr 0 0x400);
    o.init = true ∧ o.phase = false ∧ o.phase ≠ true ∧ (barrierIn (demo []) (sliceAddr 0 0x400)).init = false ∧
    (demo []).canIssue { g := 8 :: 9 :: run 10 6 } = true ∧ (destOf 0 (0, 0)).2 < 24 ∧
    ((1 : Nat) ≠ 0 ∧ 1 ≤ ((1 : Word).toNat % 2 ^ 32 + 2 ^ 32 - o.dbase) % 2 ^ 32) := by decide
theorem witness_barrier_elsewhere : let s := demo [(9, 0x10000)]; isOwn s.myCore (.mem 0x10000 none) = false ∧
    s.checkAccess s.cur (readG s.me 9) 32 32 { r := true, w := true, atomic := true } = .ok (.mem 0x10000 none) false := by decide

/-- An ACTIVE reduction group of context 0, rooted at tile 0. -/
def grouped : State := (demo [(13, 5)]).modTile 0 fun x => { x with groups := [(5, (BitVec.ofNat 64 (2 * 2 ^ 62 + 2 ^ 53 + 7 * 2 ^ 37 + 2 ^ 17), 0))] }
theorem witness_group : groupUsable grouped ((grouped.tile (tileOf grouped.cur)).groups.get (0, 0) 5) ∧
    ¬ groupUsable grouped ((grouped.tile (tileOf grouped.cur)).groups.get (0, 0) 6) ∧ (readG grouped.me 13).getLsbD 12 = false ∧
    grouped.canIssue { g := 12 :: 13 :: run 8 4 } = true ∧ ((grouped.tile (tileOf grouped.cur)).groups.get (0, 0) 5).1.getLsbD 17 = true ∧
    ((grouped.tile (tileOf grouped.cur)).groups.get (0, 0) 5).1.getLsbD 53 = true ∧
    grouped.openRounds 5 0 0 (grouped.rootOf 5 treeFuel 0) = 0 := by unfold groupUsable; decide
theorem witness_group_domain : (0x1005 : Word).getLsbD 12 = true ∧ groupUsable { demo [] with domains := [(5, (BitVec.ofNat 64 (2 * 2 ^ 62), 0))] }
    (BitVec.ofNat 64 (2 * 2 ^ 62), 0) ∧ ({ demo [] with mcasts := [] } : State).canIssue { g := 12 :: 13 :: run 8 5 } = true := by
  unfold groupUsable; decide
theorem witness_group_rounds : let s := grouped.modTile 0 fun x => { x with rounds := [{ gid := 5, parts := [(0, {}, 0)] }, { gid := 5, parts := [(0, {}, 0)] }] };
    2 ≤ s.openRounds 5 0 0 (s.rootOf 5 treeFuel 0) := by decide

/-- A copy of 64 bytes from HBM to the slice, its completion run absent, a word without an action, and a run of three. -/
def copying : State := demo [(4, 0x10000), (5, here 0x400), (6, 64)]
theorem witness_copy : isGateway copying.cur = false ∧ copying.canIssue { g := 12 :: 0 :: run 4 3 } = true ∧
    Completion copying 0 (0, 0, 0) ∧ Completion copying 8 (0, 0, 0) ∧
    (copyOrders copying 4 false).head? ≠ none := ⟨by decide, by decide, rfl, rfl, by simp [copyOrders]⟩
theorem witness_completion : let s := demo [(8, 1), (9, 2), (10, 3)]; (readG s.me 8).toNat % 8 ≠ 0 ∧
    s.canIssue { g := run 8 3 } = true ∧ readRun s.me 8 3 = [1, 2, 3] ∧
    budget (on { st0 [] with code := 0 }).me.code ≤ 6 + 2 := by decide
/-- Each check of a command: the reserved action, the limit, the alignment, the bounds and the overlap. -/
theorem witness_command_checks : (6 : Nat) ≤ (6 : Word).toNat % 8 ∧ 2 ^ 32 < (0x100000001 : Word).toNat ∧ (here 0x401).toNat % 8 ≠ 0 ∧
    boundsOf copying [(true, 0x7F0000300000, 64)] = [some (.scratchBounds, 0x7F0000300000)] ∧
    boundsOf copying [(false, 0x10000, 64), (true, 0x7F0000000400, 64)] = [none, none] ∧ overlaps 0 8 7 8 :=
  ⟨by decide, by decide, by decide, by decide, by decide, ⟨7, by decide⟩⟩
theorem witness_job_slot : ((copying.core (copying.cur / 4)).jobs.get {} 0).st = .free ∧
    64 < (List.replicate 64 ({ lo := 0, hi := 0 } : RangeLock)).length + 1 ∧
    (∀ k < 16, (({ jobs := (List.range 16).map fun k => (k, { st := .running }) } : Core).jobs.get {} k).st ≠ .free) := by decide
theorem witness_array : isGateway (demo []).cur = false ∧ (5 : BitVec 3).toNat < 6 ∧ (demo []).canIssue { g := 12 :: 0 :: run 4 4 } = true ∧
    (arrayOrders (demo []) 4 true 0 false 0).length = 4 := ⟨by decide, by decide, by decide, by simp [arrayOrders]⟩
theorem witness_waiting : let c : Core := { jobs := [(3, { st := .running })] }; let s := (demo [(8, 3)]).setCore 0 c;
    (((s.core (s.cur / 4)).jobs.get {} 3).st ≠ .free ∧ ((s.core (s.cur / 4)).jobs.get {} 3).strand = s.cur ∧
      ((s.core (s.cur / 4)).jobs.get {} 3).run = s.me.run) ∧ (s.core 0).jwatches.length < 16 ∧
    ¬ (((demo []).core 0).jobs.get {} 3).st ≠ .free ∧ s.me.jc0.toNat < 1 ∧ 0 ≤ s.me.jc0.toNat ∧
    s.canIssue { g := 4 :: run 8 5 } = true ∧ [3].Pairwise (· < ·) ∧ s.me.jstat.toList.getD 3 0 = 0 := by decide
theorem witness_status : let st := { st0 [] with jstat := (Vector.replicate 16 0).set 3 5 }; st.jstat.toList.getD 3 0 ≠ 0 ∧
    (∀ i < 3, st.jstat.toList.getD i 0 = 0) := by decide
theorem witness_array_queue : ((demo []).tile (tileOf 0)).queue.length < 16 ∧
    16 ≤ (List.replicate 16 (ArrayOp.mma 0 0)).length := by decide
theorem witness_scales : let s := demo [(4, here 0x400), (5, here 0x600)]; s.canIssue { g := [4, 5] } = true ∧ s.me.landing = [] ∧
    s.me.pend = [] ∧ (readG s.me 4).toNat % 64 = 0 ∧ (here 0x420).toNat % 64 ≠ 0 ∧
    (∀ i < 8, OwnAt s (here 0x400 + BitVec.ofNat 64 (64 * i)) 64 needR (sliceAddr 0 0x400 + 64 * i)) ∧
    Sound s (sliceAddr 0 0x400) 512 ∧ ((s.tile 0).slots.get {} 0).staged = none := by unfold OwnAt Sound; decide
/-- Fabrics in the states that the graph commands tell apart. -/
def fabricOf (a b : SlotState) (n : Nat) : State := (demo []).modTile 0 fun x => { x with fabric :=
  { x.fabric with a := { st := a }, b := { st := b }, front := false, cmds := List.replicate n (.gload 0 0) } }
theorem witness_graph : let f := fun (a b : SlotState) (n : Nat) => ((fabricOf a b n).tile (tileOf (fabricOf a b n).cur)).fabric;
    ((fabricOf .active .ready 0).tile 0).vacated = false ∧ (fabricOf .active .ready 0).me.resumeWait = false ∧
    (f .active .ready 0).cmds = [] ∧ 8 ≤ (f .empty .empty 8).cmds.length ∧ (f .active .ready 0).a.st = .active ∧
    (f .active .ready 0).b.st = .ready ∧ (f .frozen .loading 0).b.st = .loading ∧ (f .frozen .loading 0).a.st = .frozen ∧
    (f .ready .empty 0).a.st = .ready := by decide
theorem witness_graph_bind : let s := demo [(4, 2 + 4 + 0x101 * 256), (5, here 0x400), (6, here 0x2FFF00), (7, 0x100000000)];
    s.canIssue { g := 12 :: run 4 4 } = true ∧ (readRun s.me 4 4) = [2 + 4 + 0x101 * 256, here 0x400, here 0x2FFF00, 0x100000000] ∧
    0x2FFF00 + 256 * 1 ≤ 0x300000 ∧ (0x1000001 : Nat) / 2 ^ 24 % 1024 = 1 ∧ s.inPlacement (s.ctxOf s.cur) 1 = false ∧
    s.inPlacement (s.ctxOf s.cur) 0 = true := by decide
/-- A loop of kind 3 on the two core actuators passes the three steps; its slot is then bound. -/
theorem witness_loop_slots : ((demo []).tile 0).loops.get {} 0 = {} ∧ ({} : Loop).st = .unbound ∧ ({} : Loop).upd = none ∧
    ({} : Loop).due = false ∧ ({ st := .running } : Loop).due = true ∧
    (demo []).canIssue { g := 4 :: run 8 3 } = true ∧ ((demo []).tile 0).otherLoops 0 = [] := by decide
theorem witness_loop_illegal : loopIllegal (demo []) 0 { bind := 5 } [] := .inl (by decide)
theorem witness_cycle : hasCycle [(1, 2), (2, 1)] = true ∧ hasCycle [(1, 2), (2, 3)] = false := by decide
theorem witness_weight : (64 : Word).toNat ≤ 64 ∧ 1 ≤ (1 : Word).toNat ∧ 64 < (65 : Word).toNat := by decide

theorem witness_vector : (vdemo [] []).canIssue { w := [1, 2, 3] } = true ∧ (vdemo [] []).canIssue { g := [8], w := [1, 2, 3] } = true ∧
    (vdemo [] []).canIssue { g := [8, 9], w := [1] } = true ∧ (VType.f32, Fmt.f32) ∈ floatTypes ∧ VType.i8 ∈ [VType.i32, .i16, .i8] := by
  decide
theorem witness_compare : ∀ x y j, laneCompare (st0 []) .i32 6 (elemOf .i32 x j) (elemOf .i32 y j) ≠ none := fun _ _ _ h =>
  nomatch h
theorem witness_conversion : (0 : Fin 16).val + max 64 16 / 64 ≤ 16 ∧ (12 : Fin 16).val + max 64 16 / 16 ≤ 16 ∧
    (demo []).canIssue { w := run 0 1 ++ run 12 4 } = true ∧ 16 * (3 : BitVec 2).toNat + 16 ≤ VType.lanes .i8 ∧
    16 * (1 : BitVec 2).toNat + 16 ≤ VType.lanes .bf16 := by decide
theorem witness_reduction : VType.i32 ≠ .df8 ∧ (2 : BitVec 2) ≠ 3 ∧ VType.i32 ∈ [VType.i32, .i16, .i8] ∧
    (demo []).canIssue { w := [1, 2] } = true := by decide
theorem witness_special : ((demo []).core 0).sfq.length < 8 ∧ 8 ≤ (List.replicate 8 ({ strand := 0 } : SfEntry)).length := by decide
theorem witness_vector_memory : let s := vdemo [(9, here 0x400)] []; s.canIssue { g := [9], w := [1] } = true ∧
    (∀ j < 16, OwnAt s (BitVec.ofNat 64 ((here 0x400).toNat + j * 4)) 4 needR (sliceAddr 0 (0x400 + 4 * j)) ∧
      Sound s (sliceAddr 0 (0x400 + 4 * j)) 4) ∧
    s.checkAccess s.cur (here 0x401) 4 4 needR = .bad .misaligned (here 0x401) := by unfold OwnAt Sound; decide
theorem witness_vector_elsewhere : let s := vdemo [(9, 0x10000)] []; ∀ j < 16,
    s.checkAccess s.cur (BitVec.ofNat 64 (0x10000 + j * 4)) 4 4 needR = .ok (.mem (0x10000 + j * 4) none) false ∧
    isOwn s.myCore (.mem (0x10000 + j * 4) none) = false := by decide

/-- Strand 0 of gateway core 6144 runs for context 0; the gateways of its die are on, their ring at 0x20000. -/
def gw (l : List (GReg × Word)) : State :=
  let s := demo []
  { s with strands := [(24576, st0 l)], cur := 24576, gateways := [(0, { enable := true, qbase := 0x20000, szlog2 := 4 })] }
theorem witness_probe : (demo [(4, 0x10000)]).canIssue { g := 4 :: run 12 2 } = true ∧
    (on { st0 [(4, 0x10000)] with slim := 0x20000 }).me.spBad 2 0x10000 = true := by decide
theorem witness_gateway_take : let s := (gw []).writeRaw 0x20000 [1]; s.canIssue { g := [8] } = true ∧ isGateway s.cur = true ∧
    (s.gateway 0).enable = true ∧ s.checkAccess s.cur 0x20000 8 8 { r := true } = .ok (.mem 0x20000 none) false ∧
    s.poisoned 0x20000 8 = false ∧ leNat (s.readPlain 0x20000 none 8) % 2 = 1 ∧
    leNat ((gw []).readPlain 0x20000 none 8) % 2 = 0 ∧ (s.gateway 1).enable = false ∧
    s.checkAccess s.cur 0x40000000 8 8 { r := true } = .bad .pageAbsent 0x40000000 := by decide
theorem witness_gateway_done : let s := (gw [(8, 0x20000)]).modMe fun st => { st with taken := [0x20000] }; readG s.me 8 ∈ s.me.taken ∧
    s.fenceWaits s.cur .release .domain = false ∧ s.checkAccess s.cur 0x20000 64 8 { r := true, w := true } = .ok (.mem 0x20000 none) false ∧
    s.poisoned 0x20000 64 = false ∧ isOwn (s.cur / 4) (.mem 0x20000 none) = false ∧ readG (gw [(8, 0x20000)]).me 8 ∉ (gw []).me.taken ∧
    ({ s with acc := [{ strand := 24576, kind := .load }] } : State).fenceWaits s.cur .release .domain = true ∧
    s.ctxOf s.cur < 256 := by decide
theorem witness_gateway_control : (gw []).windows = true ∧ ((gw []).gateway 0).enable = true ∧ ((gw []).gateway 1).enable = false := by decide
theorem witness_frame : ∃ f t, mayWrite (.vadd 1 2 3 0 .f32 false) = some f ∧ exec (.vadd 1 2 3 0 .f32 false) (vdemo [] []) = .next t :=
  ⟨_, _, rfl, rfl⟩

/-- A link in a state, on a machine whose time is `t`. -/
def linked (l : Nat) (k : Link) (t : Word) : State := { demo [] with links := [(l, k)], time := t }
theorem witness_links : ((linked 3088 { st := .training } 0x100000).link 3088).st = .training ∧
    ((linked 3088 { st := .training } 0x100000).link 3088).since + 2 ^ 20 ≤ (0x100000 : Word).toNat ∧
    (0xFFFFF : Word).toNat < ({} : Link).since + 2 ^ 20 ∧ ((linked 0 { st := .up } 0).link 0).st = .up ∧ (linked 0 {} 0).windows = true ∧
    3072 ≤ 3088 ∧ ¬ 3072 ≤ 3071 ∧ min 3 4 = 3 := by decide
theorem witness_flits : let f : Flit := { pid := 7, first := true, last := true }; let s := { linked 0 { st := .up, flits := [f] } 0 with net := [{ id := 7, dst := 0, body := .chainCredit }] };
    (s.link 0).flits = f :: [] ∧ (s.link 0).nak = none ∧ (s.net.find? fun q => q.id == f.pid) = some { id := 7, dst := 0, body := .chainCredit } ∧
    ((linked 0 { st := .up, nak := some 0, repeats := 7 } 0).link 0).nak.isSome = true ∧ 8 ≤ ((linked 0 { st := .up, nak := some 0, repeats := 7 } 0).link 0).repeats + 1 ∧
    ((linked 0 { st := .up, nak := some 0, repeats := 6 } 0).link 0).repeats + 1 < 8 := by decide
/-- A lease in each state that an event asks for. -/
theorem witness_leases : let s := { demo [] with lenders := [(4095, { st := .active, peer := 3, size := 1, w := true })], borrowers := [(4095, { st := .revoking })] };
    s.windows = true ∧ (s.lender 4095).st = .active ∧ (s.borrower 4095).st = .revoking ∧ (s.lender 0).st ≠ .active ∧
    (s.acc.any fun a => a.status.open && decide (s.time.toNat < a.sentAt + 2 ^ 20) && (match a.target with | .lease k _ _ => k == 4095 | .mem _ _ => false)) = false ∧
    ((s.lender 4095).peer.toNat = 3 ∧ 0x1FFFFF < (s.lender 4095).size.toNat * 0x200000 ∧ (s.lender 4095).w = true) ∧
    s.partlyPoisoned ((s.lender 4095).base.toNat * 0x200000) 8 = false ∧ atomicNew 0 32 1 2 0 = some 3 := by decide
theorem witness_lease_granted : (({ demo [] with borrowers := [(0, { st := .granted })] } : State).borrower 0).st = .granted ∧
    (({ demo [] with borrowers := [(0, { st := .active })] } : State).borrower 0).st = .active ∧
    (({ demo [] with lenders := [(0, { st := .offered })] } : State).lender 0).st = .offered := by decide
theorem witness_invalidation : let a : Access := { va := 0x10000, status := .sent, ctx := 0, kind := .load }; let s := { demo [] with tinvBusy := true, tinv := 0x10000, acc := [a] };
    (demo []).tinvBusy = false ∧ s.tinvBusy = true ∧ windowOf a.va.toNat = none ∧ aliasOf a.va.toNat = none ∧
    s.tinv.toNat / 2 ^ 56 = a.ctx ∧ s.tinv.toNat / 2 % 4 = 0 ∧ s.tinv.toNat / 2 ^ 16 % 2 ^ 32 = a.va.toNat / 2 ^ 16 ∧
    ((demo []).spinel 15).rfmEn = true := by decide

/-- A packet of context 0 that has come to tile 0. -/
def came (b : Body) : State := { demo [] with net := [{ id := 7, body := b }] }
/-- The same, with a handler entry 5 for core 0, and levels of two entries. -/
def ready (e : Word) (b : Body) : State :=
  ((came b).modTile 0 fun x => { x with handlers := [(5, e)] }).modLevel 0 0 fun v => { v with depth := 2, lwm := 1 }
def toFive : Hdr := { hidx := 5 }
theorem witness_arrived : Arrived (came .chainCredit) 0 { id := 7, body := .chainCredit } := ⟨by decide, rfl, rfl, by decide, by decide⟩
theorem witness_waits : ¬ Arrived { came .chainCredit with net := [{ id := 7, moving := true, body := .chainCredit }] } 0
    { id := 7, moving := true, body := .chainCredit } := fun h => nomatch h.2.2.1
/-- A message for each reason for which a router refuses it, and one that is taken. -/
theorem witness_refused : let e : Word := 0x8000010000000000; let s := ready e (.msg { hdr := toFive });
    refusedFor { s with fuses := [0] } 0 toFive = some 2 ∧ refusedFor s 0 { toFive with ctx := 1 } = some 3 ∧
    refusedFor s 0 { toFive with hidx := 0xFF0 } = some 4 ∧ refusedFor s 0 { toFive with hidx := 0xFEF } = some 0 ∧
    refusedFor s 0 { toFive with dcore := 1 } = some 1 ∧ refusedFor s 0 { toFive with lclass := 1 } = some 5 ∧
    refusedFor s 0 { toFive with kind := 1 } = some 5 ∧ refusedFor s 0 toFive = none := by decide +kernel
/-- Room at a level, none with a ring that is full, and none with a ring that takes the entry (R248: a page of it). -/
theorem witness_level : let e : Word := 0x8000010000000000; let m : Msg := { hdr := toFive }; let s := ready e (.msg m);
    let v := s.level 0 0; v.st = .empty ∧ v.entries.length < v.depth.toNat ∧ (s.core 0).pool = [] ∧
    ringSize s 0 < v.count + 1 + 5 * v.depth.toNat ∧
    (let s := (came (.msg m)).modTile 0 fun x => { x with handlers := [(5, e)] };
      let s := s.modCtx 0 fun k => { k with spbase := 0x10000 + 11, savebase := 0x10000 };
      ¬ (s.level 0 0).entries.length < (s.level 0 0).depth.toNat ∧ ringSize s 0 = 2048 ∧
      ((without s 0).ringPutEntry 0 0 0 (entryMade s 0 m)).isSome = true) ∧
    refusedFor (ready 0xC000010000000000 (.msg m)) 0 { toFive with lclass := 1 } = none := by decide +kernel
theorem witness_ring_absent : let s := (came (.msg { hdr := toFive })).modCtx 0 fun k => { k with spbase := 0x40000000 + 11 };
    (without s 0).ringPutEntry 0 0 0 {} = none := by decide +kernel
theorem witness_replies : let h : Hdr := { toFive with kind := 1 }; let s := ready 0xA000010000000000 (.reply { hdr := h });
    refusedFor s 0 h = none ∧ (s.core 0).frozen = false ∧ refusedFor (came (.reply { hdr := h })) 0 h = some 0 ∧
    ((s.modCore 0 fun c => { c with frozen := true }).core 0).frozen = true ∧ 0 ∉ s.fuses ∧
    s.inPlacement 0 0 = true ∧ s.inPlacement 1 0 = false := by decide +kernel
/-- A level that refills, one that has enough, and one whose next entry is long while no position is free. -/
theorem witness_refill : let on := fun (v : Level) => ((came .chainCredit).modCtx 0 fun k => { k with spbase := 0x10000 + 11 }).modLevel 0 0 fun _ => v;
    let s := on { st := .spilling, depth := 2, lwm := 1, count := 1, tail := 1, ring := [(1, 0)] };
    (s.level 0 0).st = .spilling ∧ (s.level 0 0).ring.drop 0 = [(1, 0)] ∧ (s.ringRead 0 0 1 0).isSome = true ∧
    ((on { st := .spilling, lwm := 0 }).level 0 0).lwm.toNat ≤ 0 ∧ ((on { st := .spilling, lwm := 1, depth := 0, count := 1 }).level 0 0).depth.toNat ≤ 0 ∧
    ((on { st := .refilling, entries := [{ landed := false, ringAt := 1 }], count := 1, ring := [(1, 0)], unread := 1 }).level 0 0).entries =
      [] ++ { landed := false, ringAt := 1 } :: [] := by decide +kernel
/-- A core that dispatches, with an entry of a level and with a reply; both of the choices of R246. -/
def entering (r : List Nat) (aged : Bool) (t : Word) (e : QEntry) : State :=
  ({ demo [] with time := t }.modLevel 0 1 fun v => { v with entries := [e], st := .filling }).modCore 0 fun c =>
    { c with replyOrder := r, lastPromoted := aged }
theorem witness_dispatch : let s := entering [] false 0 {}; (0 < 6144 ∧ (s.core 0).frozen = false ∧ (s.tile 0).vacated = false ∧ s.mgmt.st ≠ .fatal ∧
    ∀ k < 4, (s.strand (4 * 0 + k)).phase ≠ .savedPre) ∧ (s.strand 1).phase = .idle ∧ (s.strand 0).phase ≠ .idle ∧
    s.chooseHead 0 = some ((some 1, {}), false) ∧ 1 ≤ s.freeBlocks 0 ∧ (demo []).chooseHead 0 = none ∧ (s.level 0 1).entries = {} :: [] := by decide +kernel
/-- Three strands hold the core's register blocks. -/
theorem witness_no_block : let s := { entering [] false 0 {} with strands := [(0, st0 []), (1, st0 []), (2, st0 [])] };
    s.freeBlocks 0 < 1 ∧ (s.strand 3).phase = .idle ∧ s.chooseHead 0 = some ((some 1, {}), false) := by decide +kernel
theorem witness_aged : let s := entering [3] false 4097 {}; s.chooseHead 0 = some ((some 1, {}), true) ∧
    (entering [3] false 4096 {}).chooseHead 0 = some ((none, {}), false) ∧ (s.core 0).lastPromoted = false ∧
    max 256 (s.ctx ((s.holder 0).getD 0)).agelim.toNat < (s.time.setWidth 32 - (0 : BitVec 32)).toNat ∧
    ¬ max 256 (s.ctx ((s.holder 0).getD 0)).agelim.toNat < ((4096 : Word).setWidth 32 - (0 : BitVec 32)).toNat := by decide +kernel
theorem witness_no_strand : ¬ DispatchesHere (demo []) 6144 := fun h => absurd h.1 (by decide)

/-- An access of strand 0 to HBM at 0x10000. -/
def asks (k : AccKind) (st : AccStatus) : Access := { grp := 9, size := 8, kind := k, target := .mem 0x10000 none, dest := .g 8 8 false, status := st }
def asking (k : AccKind) (st : AccStatus) : State := { demo [] with acc := [asks k st] }
theorem alone_asks (k : AccKind) (st : AccStatus) : Alone (asking k st) 0 (asks k st) :=
  ⟨rfl, fun j b h hj => by
    match j, hj with
    | j + 1, _ => exact absurd h (by simp [asking]), fun _ hp => nomatch hp⟩
theorem witness_access : MayPerform (asking .load .sent) (asks .load .sent) ∧
    MayPerform (asking (.store (leBytes 8 1)) .sent) (asks (.store (leBytes 8 1)) .sent) ∧ Alone (asking .load .sent) 0 (asks .load .sent) ∧
    (asking .load .sent).soft = [] ∧
    (asking .load .sent).poisoned 0x10000 8 = false ∧ { asking .load .sent with poison := [0x10000] }.poisoned 0x10000 8 = true ∧
    { asking .load .sent with poison := [0x10000] }.partlyPoisoned 0x10000 4 = true ∧ (leBytes 8 1).length = 8 ∧
    ¬ MayPerform (asking .load (.failed .poison)) (asks .load (.failed .poison)) := by
  unfold MayPerform; exact ⟨by decide +kernel, by decide +kernel, alone_asks _ _, by decide +kernel⟩
/-- A request whose packet is still on its way, and one that has come home. -/
theorem witness_on_way : let a := asks .load .sent; let p : Packet := { id := 7, dst := 1, body := .request [0] };
    let s := { asking .load .sent with net := [p] }; s.onWay a = true ∧ ¬ MayPerform s a ∧ (s.net.map (·.id)).Nodup ∧
    ({ s with net := [{ p with pos := 1 }] } : State).onWay a = false ∧
    ({ s with net := [{ id := 6, dst := 1, body := .chainCredit }, { p with pos := 1 }] } : State).onWay a = true := by unfold MayPerform; decide +kernel
theorem witness_access_reply : let s := asking .load (.done (leBytes 8 5)); s.acc = [] ++ asks .load (.done (leBytes 8 5)) :: [] ∧
    (s.strand 0).run = 0 ∧ (s.strand 0).phase = .running ∧ (s.strand 0).resumeWait = false ∧ (s.strand 0).spBad 8 5 = false ∧
    Cause.poison.code.toNat < 256 ∧ (s.strand 0).faults = [] := by decide +kernel
/-- A leased access while a port is usable, while none is, and once it has left by one. -/
theorem witness_leased : let a : Access := { asks .load .sent with target := .lease 0 0 none };
    let s := { (demo []).modBorrower 0 (fun b => { b with port := 3 }) with acc := [a], links := [(3072, { st := .up }), (3075, { st := .up })] };
    s.leasePort 0 = some 3 ∧ MayPerform s a ∧ a.port = none ∧ s.onWay a = false ∧ { s with links := [] }.leasePort 0 = none ∧
    a.sentAt + 2 ^ 20 ≤ (0x100000 : Word).toNat ∧ (0xFFFFF : Word).toNat < a.sentAt + 2 ^ 20 ∧ ({ a with port := some 3 } : Access).port ≠ none := by
  unfold MayPerform; decide +kernel
/-- A barrier object at 0x10000 that expects two, one of which has arrived. -/
def objAt (o : BarObj) (a : Access) : State := { (demo []).writeRaw 0x10000 o.bytes with acc := [a], time := 100 }
def half : BarObj := { init := true, expect := 2, arrived := 1, pending := 0, head := 65535 }
theorem witness_barrier_home : let a := asks (.barrier (.arrive 0 false)) .sent; let s := objAt half a;
    s.acc[0]? = some a ∧ MayPerform s a ∧ s.soft = [] ∧ s.poisoned 0x10000 32 = false ∧ barrierIn s 0x10000 = half ∧
    completing (arrivedIn half 0 false) ∧ s.pool (unitOfPlace 0x10000) = [] ∧ { s with poison := [0x10000] }.poisoned 0x10000 32 = true ∧
    ¬ completing (arrivedIn { half with arrived := 0 } 0 false) ∧ half.arrived ≠ half.expect ∧ { half with arrived := 2 }.arrived = half.expect ∧
    ¬ ((arrivedIn { half with arrived := 0 } 0 false).arrived = half.expect) := by unfold MayPerform completing; decide +kernel
theorem witness_deadline : let c : Cont := { obj := 0x10000, deadline := 100, phase := false, hdr := { dy := 23 } };
    let s := (objAt { half with head := 3, nwait := 1 } (asks .load .sent)).modTile 0 fun x => { x with conts := [(3, c)] };
    let o := barrierIn s 0x10000; (s.tile 0).conts = [(3, c)] ∧ o.init = true ∧ o.phase = c.phase ∧ o.head = 3 ∧
    c.deadline.toNat ≤ (s.time.toNat % 2 ^ 32 + 2 ^ 32 - o.dbase) % 2 ^ 32 ∧ ¬ (101 ≤ (s.time.toNat % 2 ^ 32 + 2 ^ 32 - o.dbase) % 2 ^ 32) := by
  decide +kernel
/-- A strand FAULTED with one fault; its image has an address, or it has none; its ring has room, or is full. -/
def faulty : State := (on { st0 [] with phase := .faulted, faults := [{ cause := .misaligned }] }).modCtx 0 fun k => { k with frbase := 0x10000 + 4 }
theorem witness_capture : let f : FaultRec := { cause := .misaligned }; let s := faulty; (s.strand 0).phase = .faulted ∧ (s.strand 0).faults = [f] ∧
    s.saveTarget 0 ((s.ctx 0).coreRecord 0) = some (.mem ((s.ctx 0).coreRecord 0) none) ∧ (s.ctx 0).coreRecord 0 + 8192 ≤ 2 ^ 40 ∧
    (s.modCtx 0 fun k => { k with savebase := 0x40000000 }).saveTarget 0 (({ s.ctx 0 with savebase := 0x40000000 } : Ctx).coreRecord 0) = none ∧
    ((s.ctx 0).frtail - (s.ctx 0).frhead).toNat ≠ 2 ^ 4 ∧ ((16 : BitVec 32) - 0).toNat = 2 ^ 4 ∧
    (s.vaWriteAll 0 8 0x10000 (recordOf s 0 f 0 0)).isSome = true := by decide +kernel
theorem witness_special_completes : let e : SfEntry := { ty := .f32, d := 1, mask := 0x1 }; let s := (demo []).modCore 0 fun c => { c with sfq := [e] };
    (s.core 0).sfq = e :: [] ∧ (s.strand 0).run = e.run ∧ (s.strand 0).phase = .running ∧ (s.strand 0).resumeWait = false ∧
    ((on {}).strand 0).phase = .idle ∧ e.mask.getLsbD (16 * 0 / 16) = true ∧ e.mask.getLsbD (16 * 15 / 16) ≠ true := by decide +kernel
theorem witness_freeze : let s := came (.freeze 7 0); (s.ctx 0).kst ≠ .loading ∧ (s.ctx 0).cmd ≠ .destroy ∧ (s.core 7).frozen = false ∧
    ((s.modCtx 0 fun k => { k with kst := .loading }).ctx 0).kst = .loading ∧ ((s.modCore 7 fun c => { c with frozen := true }).core 7).frozen = true ∧
    (s.strand 0).phase.issues = true ∧ (s.strand 1).phase = .idle ∧ (s.core 7).sfq = [] ∧ (s.tile 0).loops = [] := by decide +kernel
/-- A strand's image in the core's record that says each SST of R403. -/
theorem witness_recorded_sst : let r := fun n => ((came (.unfreeze 0 0)).writeRaw 0x10510 [n]).modCore 0 fun c =>
      { c with frozen := true, record := some (.mem 0x10000 none) };
    (r 0).recordSst 0 0 = 0 ∧ (r 1).recordSst 0 0 = 1 ∧ (r 2).recordSst 0 0 = 2 ∧ (r 3).recordSst 0 0 = 3 ∧ (r 4).recordSst 0 0 = 4 := by
  decide +kernel
theorem witness_resume_packet : let s := (came (.resume 0 0)).modStrand 0 fun st => { st with phase := .savedFault .none, hasImage := true, imageVa := 0x10000 };
    let s := s.writeRaw 0x10510 [2]; s.savedSst 0 = 2 ∧ (came (.resume 0 0)).savedSst 0 ≠ 2 ∧ (s.core 0).frozen = false ∧ (s.strand 0).pend = [] ∧
    (0x10000 : Word).toNat / 2 ^ 16 % 2 = 1 ∧ (0 : Word).toNat / 2 ^ 16 % 2 ≠ 1 ∧ s.savedImage 0 = some (.mem 0x10000 none) := by decide +kernel

/-- Queue 63 runs for context 0, its ring in the host's memory; the packet at HEAD holds these words. -/
def queued (ws : List Word) : State :=
  { demo [] with queues := [(63, { enable := true, st := .running, tail := 1, szlog2 := 4 })] }.writeRaw (hostAddr 0)
    (ws.flatMap fun (w : Word) => leBytes 8 w.toNat)
/-- The words of a packet, filled up with zeros. -/
def pkt (w0 w1 w2 w3 : Word) : List Word := [w0, w1, w2, w3, 0, 0, 0, 0]
theorem witness_host_queue : (demo []).mgmt.st = .ready ∧ ((queued []).queue 63).st ≠ .idle ∧ ((demo []).queue 0).st = .stopped ∧
    (({ demo [] with queues := [(0, { st := .idle })] } : State).queue 0).st = .idle ∧ ((queued []).queue 63).enable = true ∧
    ((demo []).queue 0).enable = false ∧ ((queued []).queue 63).pending = none ∧ (1 : Word).getLsbD 0 = true ∧ (2 : Word).getLsbD 0 = false := by
  decide +kernel
/-- A packet of each opcode at HEAD, and one that waits for the packet before it. -/
theorem witness_head : HeadHolds (queued (pkt 0 0 0 0)) 63 (pkt 0 0 0 0) := by unfold HeadHolds; decide +kernel
theorem witness_head_cond : HeadHolds (queued (pkt 4 0x10000 0 0x10010)) 63 (pkt 4 0x10000 0 0x10010) := by unfold HeadHolds; decide +kernel
theorem witness_clean_nop : Clean (pkt 0 0 0 0) 0 := by unfold Clean; decide
theorem witness_clean_launch : Clean (pkt 1 0x20000 0 0) 1 := by unfold Clean; decide
theorem witness_clean_copy : Clean (pkt 2 0x10000 0x20000 64) 2 := by unfold Clean; decide
theorem witness_clean_signal : Clean (pkt 3 0x10000 5 1) 3 := by unfold Clean; decide
theorem witness_clean_cond : Clean (pkt 4 0x10000 0 0x10010) 4 := by unfold Clean; decide
theorem witness_not_fenced : NotFenced (queued (pkt 4 0x10000 0 0x10010)) 63 4 (pkt 4 0x10000 0 0x10010) ∧ 4 < (5 : Word).toNat % 256 := by
  unfold NotFenced; decide +kernel
/-- The same queue while an earlier packet is in progress. -/
def behind (ws : List Word) : State := (queued ws).modQueue 63 fun k => { k with started := [{}] }
theorem witness_fenced : HeadHolds (behind (pkt 0x200 0 0 0)) 63 (pkt 0x200 0 0 0) := by unfold HeadHolds; decide +kernel
theorem witness_fenced_nop : Clean (pkt 0x200 0 0 0) 0 ∧ ¬ NotFenced (behind (pkt 0x200 0 0 0)) 63 0 (pkt 0x200 0 0 0) ∧
    ¬ NotFenced (behind (pkt 3 0 0 0)) 63 3 (pkt 3 0 0 0) := by unfold Clean NotFenced; decide +kernel
/-- COPY, SIGNAL and COND at the bounds of their checks. -/
theorem witness_copy_packet : let s := queued (pkt 2 0x10000 0x10040 64); ¬ (0x10000 < 0x10040 + 64 ∧ 0x10040 < 0x10000 + 64) ∧
    (0x10000 < 0x1003F + 64 ∧ 0x1003F < 0x10000 + 64) ∧ (s.agateX 0 0x10000 64 needR).isSome = true ∧
    s.agateX 0 0x40000000 64 needW = none := by decide +kernel
theorem witness_signal : let s := queued (pkt 3 0x10000 5 1); s.agateX 0 0x10000 8 needW = some (.mem 0x10000 none) ∧ s.agateX 0 0x10000 8 needR = some (.mem 0x10000 none) ∧
    s.poisoned 0x10000 8 = false ∧ s.partlyPoisoned 0x10000 8 = false ∧ s.soft = [] ∧ 0x10001 % 8 ≠ 0 ∧ s.agateX 0 0x40000000 8 needW = none := by
  decide +kernel
theorem witness_cond : let s := queued (pkt 4 0x10000 0 0x10010); armCond 0 0 0 = true ∧ armCond 0 0 1 = false ∧ leNat (s.readRaw 0x10000 8) = 0 ∧
    (1 + 16 - 0) % 16 = 1 ∧ 0 + 1 ≤ 1 ∧ (15 + 1) % 16 = 0 := by decide +kernel
theorem witness_packets : let r : PktRun := {}; let s := (queued []).modQueue 63 fun k => { k with started := [r] }; (s.queue 63).started[0]? = some r ∧
    r.pieces = [] ∧ (s.queue 63).head.toNat < ringLen (s.queue 63) ∧ (s.queue 63).condAt = none ∧ (s.queue 63).st = .running ∧
    s.agateX 0 0x20000 64 needR = some (.mem 0x20000 none) ∧ s.agateX 0 0x30000 64 needW = some (.mem 0x30000 none) ∧ s.poison = [] ∧
    s.agateX 0 0x40000000 64 needW = none ∧ s.agateX 0 0x40000000 64 needR = none := by decide +kernel
theorem witness_retest : let s := ({ queued (pkt 4 0x10000 0 0x10010) with time := 256 }).modQueue 63 fun k => { k with condAt := some 0 };
    (s.queue 63).condAt = some 0 ∧ 256 ≤ (s.time - 0).toNat ∧ HeadHolds (s.modQueue 63 fun k => { k with condAt := none }) 63 (pkt 4 0x10000 0 0x10010) := by
  unfold HeadHolds; dsimp only; decide +kernel

/-- An image of one tile at 0x20000 with one section of text. -/
def imaged (s : State) : State := s.writeRaw 0x20000 ([0x14B4C4F4C, 0x2004000010000, 1, 0, 0, 0, 0, 0, 0x1, 0x4000010000].flatMap (leBytes 8))
theorem witness_launch : let s := (imaged (queued (pkt 1 0x20000 0 0))).modCtx 0 fun k => { k with kst := .free, st := .created };
    HeadHolds s 63 (pkt 1 0x20000 0 0) ∧ (s.parseKernel 0 0x20000).isOk = true ∧ (s.parseKernel 0 0x20001).isOk = false ∧ (s.ctx 0).kst = .free ∧
    (s.ctx 0).st ≠ .free ∧ ((demo []).ctx 0).kst ≠ .free ∧ ((demo []).ctx 1).st = .free ∧ 24 ≤ (0x180001 : Word).toNat / 2 ^ 16 % 32 ∧
    ¬ 24 ≤ (0x170001 : Word).toNat / 2 ^ 16 % 32 := by unfold HeadHolds; dsimp only; decide +kernel
/-- A kernel being placed while another holds tile 0; and one that asks for a tile that is fused off. -/
def placing (w2 w3 : Word) : State :=
  ((demo []).modCtx 1 fun k => { k with kst := .placing, st := .created, launchQ := 3 }).modQueue 3 fun k =>
    { k with ctx := 1, pending := some { words := pkt 1 0 w2 w3 } }
theorem witness_placement : let s := placing 1 2; (s.ctx 1).kst = .placing ∧ (s.queue 3).pending = some { words := pkt 1 0 1 2 } ∧
    (s.queue 3).ctx.toNat = 1 ∧ (∀ j < 3, s.launchDue j = false) ∧ rectangle 1 1 0 0 = [0] ∧ s.holder 0 = some 0 ∧ 0 ∉ s.fuses ∧
    (let s := placing 0x101 0; rectangle 1 1 1 0 = [1] ∧ s.holder 1 = none) ∧ (2 : Word).getLsbD 1 = true := by decide +kernel
theorem witness_loading : let s := (imaged (demo [])).modCtx 0 fun k => { k with kst := .loading, imageBase := 0x20000 }; (s.ctx 0).kst = .loading ∧
    (s.parseKernel 0 (s.ctx 0).imageBase).isOk = true ∧ ((demo []).parseKernel 0 0).isOk = false ∧ ((demo []).ctx 0).kst ≠ .loading ∧
    (s.ctx 0).stop = false ∧ s.imageRead 0 0x20000 0 0 = some [] := by decide +kernel
theorem witness_wave : let s := (demo []).modCtx 0 fun k => { k with wave := some (0, 0) }; (s.ctx 0).st ≠ .destroying ∧ (s.ctx 0).kst = .running ∧
    (s.ctx 0).wave = some (0, 0) ∧ ((demo []).ctx 0).wave = none ∧ s.unsunk 0 ≠ 0 ∧ { s with strands := [] }.unsunk 0 = 0 ∧
    (∀ t ∈ tilesOf (s.ctx 0), (s.tile t).watches = []) ∧ s.contsOf 0 = [] := by decide +kernel
theorem witness_retiring : let s := (demo []).modCtx 0 fun k => { k with kst := .retiring, st := .destroying, launchQ := 63 };
    let r : PktRun := { words := pkt 1 0 0 1 }; let s := s.modQueue 63 fun k => { k with started := [r] };
    (s.ctx 0).kst = .retiring ∧ r ∈ (s.queue (s.ctx 0).launchQ).started ∧ r.idx = (s.ctx 0).launchIdx ∧ (s.ctx 0).st = .destroying ∧
    (pkt 1 0 0 1).getD 3 0 = 1 ∧ s.mgmt.st = .ready ∧ ((demo []).ctx 1).kst = .free := by decide +kernel
theorem witness_commands : (demo []).mgmt.st = .ready ∧ ((demo []).ctx 255).busy = false ∧ ((demo []).ctx 255).st = .free ∧ ((demo []).ctx 0).st = .active ∧
    (({ savebase := 0x100000 } : Ctx).savebase.toNat % 2 ^ 21 ≠ 0) ∧ ((demo []).modCtx 255 fun k => { k with spbase := 11, savebase := 0x200000, ptroot := 0x200000, frbase := 0x10006, udbase := 0x20006, evbase := 0x30006 }).createErr 255 = 0 ∧
    (tilesOf ((demo []).ctx 0))[0]? = some 0 ∧ (∀ x ∈ [0], (demo []).saveTarget 0 (((demo []).ctx 0).coreRecord x) ≠ none) ∧
    (tilesOf ((demo []).ctx 0))[1]? = none ∧ (0x40000 : Word).getLsbD 18 = true ∧
    ((demo []).modCtx 0 fun k => { k with savebase := 0x40000000 }).saveTarget 0 (({ savebase := 0x40000000 } : Ctx).coreRecord 0) = none := by
  decide +kernel
theorem witness_command_ends : ∃ k : Ctx, k.busy = true ∧ k.cmd = .preempt ∧ k.waiting = [] := ⟨{ busy := true, cmd := .preempt }, rfl, rfl, rfl⟩
theorem witness_command_waits : ∃ k : Ctx, k.busy = true ∧ k.cmd = .destroy ∧ k.waiting ≠ [] := ⟨{ busy := true, cmd := .destroy, waiting := [0] }, rfl, rfl, by decide⟩
theorem witness_vacate : let s := (demo []).modCtx 0 fun k => { k with st := .suspended }; (s.tileTargets 0).isSome = true ∧
    (∀ x ∈ coresOf (s.ctx 0), s.saveTarget 0 ((s.ctx 0).coreRecord x) ≠ none) ∧ (∀ t ∈ tilesOf (s.ctx 0), s.tileQuiet t = true) ∧
    ((demo []).modCtx 0 fun k => { k with savebase := 0x40000000 }).tileTargets 0 = none ∧
    ((demo []).modTile 0 fun x => { x with fabric := { a := { st := .reloading } } }).tileQuiet 0 = false := by decide +kernel

theorem memByte_unlisted (m : List Host.Cell) (a : Nat) (h : ∀ e ∈ m, e.1 < a) : memByte m a = 0 := by
  induction m with
  | nil => rfl
  | cons e r ih =>
    have := h e (by simp)
    simp only [memByte, show ¬ e.1 = a by omega, if_false]
    exact ih fun x hx => h x (by simp [hx])
theorem readRaw_unlisted (s : State) (n : Nat) : ∀ a, (∀ e ∈ s.mem, e.1 < a) → s.readRaw a n = List.replicate n 0 := by
  induction n with
  | zero => intro a _; rfl
  | succ n ih =>
    intro a h
    rw [State.readRaw, State.byte, memByte_unlisted _ _ h, ih (a + 1) fun e he => Nat.lt_succ_of_lt (h e he), List.replicate_succ]
theorem fieldAt_zeros (n off k : Nat) : fieldAt (List.replicate n 0) off k = 0 := by
  have : ∀ m, leNat (List.replicate m (0 : Byte)) = 0 := by
    intro m; induction m with
    | zero => rfl
    | succ m ih => rw [List.replicate_succ, leNat, ih]; rfl
  rw [fieldAt, List.drop_replicate, List.take_replicate, this]
theorem getSaved_zeros (s : State) (l : List (Nat × Target))
    (h : ∀ e ∈ l, ∃ pa, e.2 = .mem pa none ∧ ∀ x ∈ s.mem, x.1 < pa) (fuel : Nat) :
    ∀ va n, ∃ m, s.getSaved l fuel va n = List.replicate m 0 := by
  induction fuel with
  | zero => exact fun _ _ => ⟨0, rfl⟩
  | succ fuel ih =>
    intro va n
    unfold State.getSaved
    split
    · exact ⟨0, rfl⟩
    · obtain ⟨m, hm⟩ := ih (va + min n (65536 - va % 65536)) (n - min n (65536 - va % 65536))
      dsimp only
      rw [hm]
      split
      · rename_i e he
        obtain ⟨pa, ht, hp⟩ := h e (List.mem_of_find?_eq_some he)
        rw [ht, State.readTarget, State.readPlain, readRaw_unlisted s _ _ fun x hx => Nat.lt_of_lt_of_le (hp x hx) (Nat.le_add_right ..),
          List.replicate_append_replicate]
        exact ⟨_, rfl⟩
      · rw [List.replicate_append_replicate]; exact ⟨_, rfl⟩
/-- A context whose tile record, never written, is all zero. -/
def vacant : State := (demo []).modCtx 0 fun k => { k with st := .vacated }
def vacantPages : List (Nat × Target) := (List.range 8).map fun i => (100663296 + 65536 * i, Target.mem (100663296 + 65536 * i) none)
theorem vacant_ok (m : Nat) : vacant.recordOk 0 (List.replicate m 0) = true := by
  have hl : ∀ k, (vacant.tile 0).loops.get {} k = {} := fun _ => rfl
  simp only [State.recordOk, queueRecordsOf, fabricOk, List.drop_replicate, List.take_replicate, fieldAt_zeros, hl, Loop.restored,
    Nat.zero_div, Nat.zero_mod, List.range_zero, List.map_nil]
  decide
theorem witness_restore : ∃ l, vacant.tileTargets 0 = some l ∧
    ∀ t ∈ tilesOf (vacant.ctx 0), vacant.recordOk t (vacant.getSaved l 10 ((vacant.ctx 0).tileRecord t) 524288) = true := by
  refine ⟨vacantPages, by decide +kernel, fun t ht => ?_⟩
  have h0 : tilesOf (vacant.ctx 0) = [0] := by decide +kernel
  obtain ⟨m, hm⟩ := getSaved_zeros vacant vacantPages (fun e he => by
    obtain ⟨i, _, rfl⟩ := List.mem_map.1 he
    refine ⟨_, rfl, fun x hx => ?_⟩
    have : ∀ x ∈ vacant.mem, x.1 < 100663296 := by decide +kernel
    have := this x hx
    omega) 10 ((vacant.ctx 0).tileRecord t) 524288
  rw [hm]
  rw [h0] at ht
  rw [List.mem_singleton.1 ht]
  exact vacant_ok m
/-- A record of 17 queue entries breaks a limit of R408. -/
theorem witness_restore_bad : vacant.recordOk 0 (List.replicate 270370 0 ++ [17]) = false ∧ tilesOf (vacant.ctx 0) = [0] := by
  refine ⟨?_, by decide +kernel⟩
  have h : fieldAt (List.replicate 270370 0 ++ [17]) 270368 8 = 17 * 65536 := by
    rw [fieldAt, List.drop_append, List.drop_replicate, List.length_replicate]; rfl
  have hq : (queueRecordsOf (List.replicate 270370 0 ++ [17])).length = 17 := by
    simp only [queueRecordsOf, h, List.length_map, List.length_range]
  simp only [State.recordOk, hq]
  rfl
/-- A job in slot 15 of core 0, issued by strand 0. -/
def working (j : Job) : State := (demo []).modJob 0 15 fun _ => j
def cpy (st : JobState) (ps : List Piece) : Job := { st := st, kind := .cpy, desc := [0x10000, 0x20000, 64, 0], pieces := ps }
/-- What a job's end asks of its places: a target that can be written, one that is absent, one that is bad; R295's packets. -/
theorem witness_ends : let s := working (cpy .running []); s.engX 0 0 0x20000 8 needW = .ok (.mem 0x20000 none) ∧
    (match s.engX 0 0 0x7F0000300000 8 needW with | .fail _ _ => true | _ => false) = true ∧ s.engX 0 0 0x40000000 8 needW = .absent ∧
    (destOf 0 (0, 0)).2 < 24 ∧ s.engX 0 0 0x10000 32 needBarrier = .ok (.mem 0x10000 none) ∧ s.pool (unitOfPlace 0x10000) = [] ∧
    ¬ ((barrierIn s 0x10000).init = true) := by decide +kernel
theorem witness_writable : Writable (working (cpy .running [])) 0x20000 8 := ⟨by unfold Sound; decide +kernel, fun _ _ h w hw =>
  absurd h (by rw [show sliceOf 0x20000 = none by decide +kernel]; exact fun h => nomatch h), by decide +kernel⟩
theorem witness_job_turn : let s := working (cpy .issued []); (s.job 0 15).st = .issued ∧ s.released (s.job 0 15).after = true ∧
    s.inOrder 0 0 0 15 = true ∧ (s.job 0 15).kind ≠ .gload ∧ ((demo []).job 0 15).st ≠ .issued := by decide +kernel
theorem witness_gather : let s := working { st := .issued, kind := .gath, desc := [0x10000, 0x20000, 0x30000, 0x20040, 64] };
    s.engX 0 0 0x10000 (2 * 4) needR = .ok (.mem 0x10000 none) ∧ (s.job 0 15).desc.getD 3 0 = 0x20040 ∧ Sound s 0x10000 (2 * 4) := by
  unfold Sound; decide +kernel
theorem witness_piece : let p : Piece := { src := 0x10000, dst := 0x20000, len := 64, st := .ready }; let s := working (cpy .running [p]);
    s.pieceX 0 (s.job 0 15) p = .ok [(.mem 0x10000 none, .mem 0x20000 none, 0x10000, 0x20000, 64)] ∧ p.st = .ready ∧ (s.job 0 15).comp = 0 ∧
    (s.job 0 15).err = none ∧ (s.job 0 15).pieces = [p] ∧ (s.spinel 0).waiting = [] ∧ Sound s 0x10000 64 := by unfold Sound; decide +kernel
theorem witness_spinel : let p : Piece := { src := 0x10000, dst := 0x20000, len := 64, st := .spinel 1 };
    let s := { working (cpy .running [p]) with spinels := [(1, { waiting := [(0, 15, 0)] })] }; (s.spinel 1).waiting = [(0, 15, p.idx)] ∧
    s.pieceX 0 (s.job 0 15) p = .ok [(.mem 0x10000 none, .mem 0x20000 none, 0x10000, 0x20000, 64)] := by decide +kernel
/-- A piece that waits for one credit less than the rate, and for one more. -/
theorem witness_refill_credit : let p : Piece := { len := 64 * 256 + 1 }; let s := (working (cpy .running [p])).modTile 0 fun x => { x with refillDue := true };
    (s.tile 0).refillDue = true ∧ ((demo []).tile 0).refillDue = false ∧ (s.tile 0).copyRate < (p.len + 255) / 256 - 0 ∧
    (p.len - 1 + 255) / 256 - 0 ≤ (s.tile 0).copyRate ∧ p.st = .todo ∧ (s.job 0 15).pieces = [p] ∧
    (∀ d < 8, ∀ l < 16, (d, l) ≠ (0, 15) → (s.job (8 * 0 + d) l).kind.moves = false ∨ ((s.job (8 * 0 + d) l).st ≠ .running ∧
      (s.job (8 * 0 + d) l).st ≠ .translating)) := by decide +kernel
theorem witness_job_end : let d := MmaDesc.of [0, 0, 0x1C80, 0]; (d.m + 127) / 128 * ((d.n + 127) / 128) = 2 ∧
    [1, 0].Perm (List.range 2) ∧ 1 ∉ [0] ∧ ArrayOp.mma 0 15 ∈ [ArrayOp.mma 0 15] ∧ ArrayOp.mst 0 15 ∉ [ArrayOp.mma 0 15] := by decide
theorem witness_push : let j := { cpy .completing [] with action := .pushing 5, comp1 := 7 }; let s := working j; (s.job 0 15).action = .pushing 5 ∧
    (s.tile 0).vacated = false ∧ (s.core 7).inq.length < inqDepth ∧ s.strandPushes 7 = false ∧
    ¬ ((s.modCore 7 fun c => { c with inq := List.replicate 16 0 }).core 7).inq.length < inqDepth := by decide +kernel
/-- The rotation of R255 when a strand of the core before waits to push. -/
theorem witness_rival : let s := { demo [] with strands := [(28, { st0 [] with phase := .stalled .queueFull })] };
    let s := s.writeRaw 0x10000 (leBytes 4 (encode (.qpush 8 1))); s.strandPushes 0 = true := by decide +kernel
theorem witness_job_free : let s := working { cpy .completing [] with action := .done, comp := 8 }; (s.job 0 15).st = .completing ∧ (s.job 0 15).action = .done ∧
    (s.strand (s.job 0 15).strand).run = (s.job 0 15).run ∧ (s.strand 0).phase ≠ .idle ∧ (s.job 0 15).comp.toNat / 8 % 4 = 1 := by decide +kernel
theorem witness_requests : let s := { demo [] with tsrs := [(0, { base := 0x40 })] }; (∀ r ∈ s.tsrReqs, r.sent = true) ∧
    ((s.tsr 0).tail - (s.tsr 0).head).toNat < 2 ^ ((s.tsr 0).base.toNat / 16 % 16) ∧ sliceOf (hostAddr 0) = none ∧ sliceOf (hostAddr 31) = none ∧
    2 ^ 4 ≤ ((16 : BitVec 32) - 0).toNat ∧ halfOf 0 = 0 := by decide +kernel
theorem witness_response : let p : Piece := { src := 0x10000, dst := 0x20000, len := 64, st := .held 3 };
    let r : TsrReq := { tag := 3, who := .piece 0 15 0, sent := true, va := 0x20000 }; let s := { working (cpy .translating [p]) with tsrReqs := [r] };
    s.tsrReqs = [] ++ r :: [] ∧ (s.job 0 15).pieces = [] ++ p :: [] ∧ (s.job 0 15).err = none ∧ p.idx < 2 ^ 33 ∧
    s.pieceX 0 (s.job 0 15) p = .ok [(.mem 0x10000 none, .mem 0x20000 none, 0x10000, 0x20000, 64)] ∧
    s.pieceX 0 (s.job 0 15) { p with dst := 0x40000000 } = .absent 0x40000000 true := by decide +kernel
theorem witness_response_own : let p : Piece := { src := here 0x1000, dst := here 0x2000, len := 64, st := .held 3 };
    let s := working { cpy .translating [p] with desc := [here 0x1000, here 0x2000, 64, 0] };
    ∃ l, s.pieceX 0 (s.job 0 15) p = .ok l ∧ (s.job 0 15).spinelOf l = none :=
  ⟨[(.mem (sliceAddr 0 0x1000) none, .mem (sliceAddr 0 0x2000) none, 0x7F0000001000, 0x7F0000002000, 64)], by decide +kernel⟩
theorem witness_response_action : let r : TsrReq := { tag := 3, who := .action 0 15, sent := true };
    let s := { working { cpy .completing [] with action := .held 3 } with tsrReqs := [r] }; (s.job 0 15).action = .held 3 ∧
    r.tag = 3 ∧ r.unit = 0 ∧ (4294967299 : Word).toNat % 2 ^ 32 = 3 ∧ (4294967299 : Word).toNat / 2 ^ 32 % 2 = 1 := by decide +kernel

/-- An array job of slot 15 of core 0 at the head of the queue of tile 0: M = N = 1, one step, both operands at 0x1000 and 0x2000. -/
def array (k : JobKind) (fn : Nat) (desc : List Word) (q : List ArrayOp) : State :=
  ((demo []).modJob 0 15 fun _ => { st := .issued, kind := k, fn := fn, desc := desc }).modTile 0 fun x => { x with queue := q }
theorem witness_mma : let s := array .mma 0 [here 0x1000, here 0x2000, 0x100000000, 0x0000004000000040] [.mma 0 15]; let d := MmaDesc.of (s.job 0 15).desc;
    (s.tile 0).vacated = false ∧ (s.tile 0).supplies = [] ∧ (s.tile 0).queue = .mma 0 15 :: [] ∧ s.released (s.job 0 15).after = true ∧
    s.inOrder 0 0 0 15 = true ∧ (s.job 0 15).st = .issued ∧ d.m ≤ 128 ∧ d.n ≤ 128 ∧ ((s.tile 0).slots.get {} 0).parity = [] ∧
    d.a = 0x7F0000000000 + 0x1000 ∧ d.b = 0x7F0000000000 + 0x2000 ∧ d.k = 1 ∧ (d.ta, d.tb) ∈ [(0, 0), (1, 1), (2, 2), (3, 3)] ∧
    ((s.tile 0).slots.get {} 0).int32 = false ∧ 0x1000 + 0 * d.sa + vectorBytes d.ta d.m ≤ 0x300000 ∧
    Sound s (sliceAddr 0 0x1000) (vectorBytes d.ta d.m) ∧ Sound s (sliceAddr 0 0x2000) (vectorBytes d.tb d.n) := by unfold Sound; decide +kernel
theorem witness_mma_int : let d := MmaDesc.of [here 0x1000, here 0x2000, 0x100161FC7F, 0x0000004000000040]; (d.ta, d.tb) = (4, 5) ∧ d.m = 128 ∧ d.n = 128 ∧
    d.k = 16 := by decide
theorem witness_mst : let s := array .mst 0 [here 0x1000, 0x0] [.mst 0 15]; (s.job 0 15).pieces = [] ∧ (s.job 0 15).err = none ∧
    ((s.tile 0).slots.get {} 0).perr = false ∧ s.engX 0 0 0x7F0000001000 4 needW = .ok (.mem (sliceAddr 0 0x1000) none) ∧ 0x1000 + 4 ≤ 0x2F0800 ∧
    (0x7F0000000000 + 0x1000) % 65536 + 4 ≤ 65536 ∧ ((demo []).tile 767).queue = [] := by decide +kernel
theorem witness_mst_writable : Writable (array .mst 0 [here 0x1000, 0x0] [.mst 0 15]) (sliceAddr 0 0x1000) 4 := by
  refine ⟨by unfold Sound; decide +kernel, ?_, by decide +kernel⟩
  intro t off h w hw
  have hs : sliceOf (sliceAddr 0 0x1000) = some (0, 0x1000) := by decide +kernel
  rw [hs] at h
  rw [← (Prod.mk.inj (Option.some.inj h)).1] at hw
  have hn : ((array .mst 0 [here 0x1000, 0x0] [.mst 0 15]).tile 0).watches = [] := by decide +kernel
  rw [hn] at hw
  exact nomatch hw
theorem witness_mzr : let a : Access := asks .load .sent; let s := array .mst 0 [] [.mzr a 3 true false]; (s.tile 0).queue = .mzr a 3 true false :: [] ∧
    a.kind = .load ∧ (s.strand a.strand).run = a.run ∧ (s.strand a.strand).phase = .running ∧ (s.strand a.strand).resumeWait = false ∧
    a.dest = .g 8 8 false ∧ (s.strand a.strand).spBad 8 7 = false := by decide +kernel
theorem witness_mscl : let s := (array .mst 0 [] [.mscl 3 0]).modTile 0 fun x => { x with slots := [(3, { staged := some ([], []) })] };
    (s.tile 0).queue = .mscl 3 0 :: [] ∧ ((s.tile 0).slots.get {} 3).staged = some ([], []) := by decide +kernel
/-- An MMAG of two members, tiles 0 and 32: M = 256, N = 128. -/
def mmag (b : Body) (x : MmagOrigin) : State := (came b).modJob 0 15 fun _ =>
  { st := .issued, kind := .mmag, desc := [here 0x1000, here 0x2000, 0x10003FC7F, 0x0000004000000040], mmag := x }
theorem witness_offer : let s := mmag (.mmagOffer 0 0 15 0) {}; let d := MmaDesc.of (s.job 0 15).desc; membersOf d = 2 ∧ memberAt d 0 0 = 0 ∧ memberAt d 0 1 = 32 ∧
    (s.tile 0).queue.length < 16 ∧ (s.tile 0).vacated = false ∧ (∀ y < 2, y ∉ [0] → memberAt d 0 y ≠ 0) ∧ (∀ y < 2, y ∈ [1, 0]) ∧
    ¬ (List.replicate 16 (ArrayOp.mma 0 0)).length < 16 := by decide +kernel
theorem witness_offer_arrives : Arrived (mmag (.mmagOffer 0 0 15 0) {}) 0 { id := 7, body := .mmagOffer 0 0 15 0 } :=
  ⟨rfl, rfl, rfl, by decide, by decide⟩
theorem witness_refused_part : let s := { mmag (.mmagAnswer 0 15 0 false) { accepted := [0], refusedAt := some 0 } with time := 64 };
    (s.job 0 15).mmag.refusedAt = some 0 ∧ 0 + 64 ≤ s.time.toNat ∧ (63 : Word).toNat < 0 + 64 ∧ (s.job 0 15).kind = .mmag ∧
    (s.job 0 15).mmag.accepted = [0] ∧ ((demo []).job 0 15).mmag.refusedAt = none ∧ (s.job 0 15).mmag.started = false := by decide +kernel
theorem witness_part : let q : Part := { origin := 0, core := 0, job := 15, started := true }; let s := (mmag .chainCredit {}).modTile 0 fun x => { x with queue := [.part q] };
    (s.tile 0).queue = [.part q] ∧ (s.tile 0).supplies = [] ∧ q.begun = false ∧ q.cause = none ∧ ((s.tile 0).slots.get {} 0).parity = [] := by decide +kernel
theorem witness_credit : let q : Supply := { core := 0, job := 15, isA := true, addr := here 0x1000, stride := 64, ty := 0, count := 1, steps := 1, credits := [(0, 0), (1, 1)], locked := true };
    let s := (mmag (.mmagCredit 0 0 15 0 true 8) {}).modTile 0 fun x => { x with supplies := [q] }; (s.tile 0).supplies = [q] ∧ q.k < q.steps ∧
    s.released (s.job 0 15).after = true ∧ s.inOrder 0 0 0 15 = true ∧ q.addr = BitVec.ofNat 64 (0x7F0000000000 + 0x1000) ∧
    0x1000 + q.k * q.stride + vectorBytes q.ty q.count ≤ 0x300000 ∧ Sound s (sliceAddr 0 0x1000) 4 ∧
    (q.credits.map fun e => if e.1 = 0 then (e.1, e.2 + 1) else e) = [(0, 1), (1, 1)] ∧
    (q.credits.map fun e => if e.1 = 1 then (e.1, e.2 + 1) else e) = [(0, 0), (1, 2)] := by unfold Sound; decide +kernel
theorem witness_step_arrives : let q : Part := { core := 0, job := 15, started := true, begun := true, stepsB := [{ k := 0, vals := [0x3F800000] }] };
    let s := (mmag (.mmagStep 0 0 15 0 true 0 [0x3F800000] none) {}).modTile 0 fun x => { x with queue := [.part q] }; (s.tile 0).queue = [.part q] ∧ q.stepsA = [] ∧
    q.k < (MmaDesc.of (s.job 0 15).desc).k ∧ q.k + 1 = (MmaDesc.of (s.job 0 15).desc).k ∧ (MmaDesc.of (s.job 0 15).desc).ta < 3 ∧
    ((s.tile 0).slots.get {} 0).int32 = false := by decide +kernel
theorem witness_report : let s := mmag (.mmagReport 0 15 1 (some 5) 0) {}; Arrived s 0 { id := 7, body := .mmagReport 0 15 1 (some 5) 0 } ∧ (s.job 0 15).err = none :=
  ⟨⟨rfl, rfl, rfl, by decide, by decide⟩, by decide⟩

/-- A graph image with one input, one output and one stage; its bytes at 0x20000. -/
def graphWords : List Nat := [0x14C595242, 0x100010001, 0, 72, 0, 0, 0, 0, 0]
def graphBytes : List Byte := graphWords.flatMap (leBytes 8)
def weaving (f : Fabric) : State := ((demo []).writeRaw 0x20000 graphBytes).modTile 0 fun x => { x with fabric := f }
theorem witness_graph_outputs : let g : GSlot := { outs := [5] }; g.outs[0]? = some 5 := rfl
theorem witness_fabric : let s := weaving { b := { st := .active, depth := 1, outs := [0] }, front := true, stages := [none], inFifo := [[1]] }; let f := (s.tile 0).fabric;
    (if f.front then f.b else f.a).st = .active ∧ f.held = [] ∧ f.stages = [] ++ [none] ∧ f.outFifo.length < 32 ∧ (f.bind.getD 0 0).toNat % 4 ≠ 2 ∧
    f.inClosed = true ∧ (f.bind.getD 0 0).toNat / 4 % 4 = 0 ∧ (f.bind.getD 0 0).toNat / 16 % 2 = 0 ∧ (s.tile 0).vacated = false ∧
    32 ≤ (List.replicate 32 ({} : BEntry)).length ∧ ((demo []).tile 0).fabric.a.st ≠ .active := by decide +kernel
theorem witness_image : graphBytes.length = 72 ∧ (parseImage graphBytes).isOk = true ∧ (parseImage []).isOk = false ∧
    leNat ((graphBytes.drop 24).take 8) = 72 ∧ ¬ (1 ≤ 0) ∧ 16 < 17 := by decide +kernel
theorem witness_gload : let p : Piece := { src := 0x20000, len := 72, st := .ready };
    let s := (weaving { front := true, cmds := [.gload 0 15] }).modJob 0 15 fun _ => { st := .running, kind := .gload, desc := [0x20000, 72], pieces := [p] };
    let f := (s.tile 0).fabric; let j := s.job 0 15; j.kind = .gload ∧ j.comp = 0 ∧ f.cmds.head? = some (.gload 0 15) ∧ f.cmds.drop 1 = [] ∧ j.err = none ∧
    j.pieces = [p] ∧ p.len = (j.desc.getD 1 0).toNat % 2 ^ 32 ∧ s.engX j.ctx 0 p.src.toNat 72 needR = .ok (.mem 0x20000 none) ∧ Sound s 0x20000 72 ∧
    (if f.front then f.a else f.b).damaged = [] ∧ s.readRaw 0x20000 72 = graphBytes := by unfold Sound; decide +kernel
theorem witness_gload_starts : let s := (weaving { front := true, cmds := [.gload 0 15] }).modJob 0 15 fun _ => { st := .issued, kind := .gload, desc := [0x20000, 72] };
    let f := (s.tile 0).fabric; (s.job 0 15).st = .issued ∧ (if f.front then f.a else f.b).st ≠ .reloading ∧ s.released (s.job 0 15).after = true ∧
    s.inOrder 0 0 0 15 = true := by decide +kernel
theorem witness_drained : let a : Access := asks .load .sent; let s := weaving { b := { st := .draining, depth := 1 }, front := true, stages := [none], cmds := [.gswap a false true] };
    let f := (s.tile 0).fabric; f.b.st = .draining ∧ f.drainLeft = 0 ∧ (∀ x ∈ f.stages, x = none) ∧ f.cmds = [.gswap a false true] ∧ (s.tile 0).vacated = false := by
  decide +kernel
theorem witness_awaits : Awaits (weaving {}) (asks .load .sent) 8 1 ∧ Awaits (weaving {}) (asks .load .sent) 8 2 := by unfold Awaits; decide +kernel
theorem witness_chain : let a : Access := asks .load .sent; let s := { weaving { bind := [16], cmds := [.gbind a [8, 0, 0, 0] true] } with net := [{ id := 7, body := .chainBind 5 }] };
    let f := (s.tile 0).fabric; Arrived s 0 { id := 7, body := .chainBind 5 } ∧ (f.bind.getD 0 0).toNat / 16 % 2 = 1 ∧ f.chainSender = none ∧
    f.cmds = [.gbind a [8, 0, 0, 0] true] ∧ (0 : Word).toNat / 16 % 2 ≠ 1 :=
  ⟨⟨rfl, rfl, rfl, by decide, by decide⟩, by decide⟩
/-- A slot whose image gives its damaged region the same words, one whose image does not, and one whose page is absent. -/
theorem witness_config : let g : GSlot := { st := .frozen, damaged := [0], addr := 0x20000, len := 72, inputs := 1, outputs := 1, depth := 1, outs := [0] };
    let s := weaving { a := g }; s.imageGap 0 g = none ∧ s.imageGap 0 { g with addr := 0x40000000 } = some 0x40000000 ∧ (s.tile 0).fabric.a.st = .frozen ∧
    g.lost = false ∧ g.tag = none ∧ g.absent = false ∧ (s.tile 0).fabric.cmds = [] ∧ (s.tile 0).fabric.b.st = .empty ∧
    ({ st := .reloading } : GSlot).st = .reloading ∧ 7 ∉ g.damaged := by decide +kernel
theorem witness_reload : let g : GSlot := { st := .frozen, damaged := [0], addr := 0x20000, len := 72, inputs := 1, outputs := 1, depth := 1, outs := [0] };
    let s := weaving { a := g }; (match s.imageBytes 0 g with | (u, some bs) => decide (u = s ∧ g.signed bs = true) | _ => false) = true ∧
    (match s.imageBytes 0 { g with addr := 0x20040 } with | (u, some bs) => decide (u = s ∧ g.signed bs = false) | _ => false) = true := by decide +kernel
theorem witness_reload_answer : let g : GSlot := { st := .frozen, damaged := [0], addr := 0x20000, len := 72, tag := some 3 };
    let r : TsrReq := { tag := 3, who := .reload 0 0, sent := true, va := 0x20000 }; let s := { weaving { a := g } with tsrReqs := [r] };
    (s.tile 0).fabric.a.tag = some 3 ∧ s.engX r.ctx 0 r.va.toNat 1 needR = .ok (.mem 0x20000 none) ∧ s.engX r.ctx 0 0x40000000 1 needR = .absent := by
  decide +kernel
/-- A loop on the inbound queue of core 7 that is due, and one that is not. -/
def looping (l : Loop) : State := (demo []).modTile 0 fun x => { x with loops := [(15, l)] }
theorem witness_loop_due : let l : Loop := { st := .bound, bind := 0x238, kp := 2, ki := 5, ilim := 32767, period := 16, wmin := 1, wmax := 64, basep := 64, basec := 1, setpoint := 1 };
    let s := looping l; (s.tile 0).loops.get {} 15 = l ∧ l.hold = false ∧ l.timer = 0 ∧ (s.tile 0).vacated = false ∧ l.bind.toNat % 8 < 4 ∧
    (∀ m < 16, m ≠ 15 → ((s.tile 0).loops.get {} m).live = false) ∧ l.actuator false ≠ l.actuator true ∧ l.upd = none ∧
    { l with timer := 1 }.timer ≠ 0 ∧ ((demo []).tile 0).loops.get {} 15 = {} := by decide +kernel

/-- Group 4095 of tile 0 with these words, and a packet of it that has come to tile 0. -/
def grouping (w0 w1 : Word) (m : Msg) (work : GroupWork) (climb : Bool) : State :=
  (came (.group m 4095 work climb 0)).modTile 0 fun x => { x with groups := [(4095, (w0, w1))] }
theorem witness_group_states : let e := fun n : Nat => (BitVec.ofNat 64 (n * 2 ^ 62) : Word); let s := fun n => grouping (e n) 0 {} .message true;
    (groupOf (s 0) 0 4095).1.toNat / 2 ^ 62 = 0 ∧ (groupOf (s 1) 0 4095).1.toNat / 2 ^ 62 = 1 ∧ (groupOf (s 2) 0 4095).1.toNat / 2 ^ 62 = 2 ∧
    (groupOf (s 3) 0 4095).1.toNat / 2 ^ 62 = 3 ∧ (groupOf (s 2) 768 4095).1.toNat / 2 ^ 62 = 0 ∧ (s 3).net.any (fun p => p.ofGroup 0 4095) = true ∧
    ¬ (e 1).toNat / 2 ^ 19 % 2 = 1 := by decide +kernel
theorem witness_group_arrives : Arrived (grouping 0 0 {} .message true) 0 { id := 7, body := .group {} 4095 .message true 0 } :=
  ⟨rfl, rfl, rfl, by decide, by decide⟩
/-- An ACTIVE root that sends east only, and one that takes the only copy, its filter off; the filter of word 1. -/
theorem witness_group_root : let root : Nat := 2 * 2 ^ 62 + 7 * 2 ^ 37; let s := grouping (BitVec.ofNat 64 (root + 2 ^ 49)) 0 {} .message true;
    let e := (s.tile 0).groups.get (0, 0) 4095; e.1.toNat / 2 ^ 37 % 8 = 7 ∧ e.1.toNat / 2 ^ 62 = 2 ∧ s.mcasts = [] ∧ ¬ e.1.toNat / 2 ^ (48 + 5) % 2 = 1 ∧
    e.2.toNat / 2 ^ 30 % 4 = 0 ∧ (List.range 4).filter (fun i => decide (e.1.toNat / 2 ^ (48 + i) % 2 = 1)) = [1] ∧
    (0xC0000005 : Word).toNat / 2 ^ 30 % 4 = 3 ∧ (0xC0000005 : Word).toNat / 2 ^ 27 % 8 = 0 ∧ (0xC0000005 : Word).toNat % 2 ^ 16 = 5 := by decide +kernel
theorem witness_group_climbs : let w : Word := BitVec.ofNat 64 (2 * 2 ^ 62 + 3 * 2 ^ 37); w.toNat / 2 ^ 37 % 8 < 4 ∧ 2 ≤ w.toNat / 2 ^ 62 ∧
    4 ≤ (BitVec.ofNat 64 (4 * 2 ^ 37) : Word).toNat / 2 ^ 37 % 8 ∧ (BitVec.ofNat 64 (4 * 2 ^ 37) : Word).toNat / 2 ^ 62 < 2 := by decide
theorem witness_group_copy : let w : Word := BitVec.ofNat 64 (2 * 2 ^ 62 + 7 * 2 ^ 37 + 2 ^ 53 + 2 ^ 47 + 2 ^ 28); let m : Msg := { hdr := { hidx := 5 } };
    let s := ((grouping w 0 m .message true).modTile 0 fun x => { x with handlers := [(5, 0x8000800000000000)] }).modLevel 7 0 fun v => { v with depth := 1 };
    let e := (s.tile 0).groups.get (0, 0) 4095; e.1.toNat / 2 ^ 53 % 2 = 1 ∧ e.1.toNat / 2 ^ 40 % 256 = 2 ^ 7 ∧
    (List.range 4).filter (fun i => decide (e.1.toNat / 2 ^ (48 + i) % 2 = 1)) = [] ∧ e.1.toNat / 2 ^ 28 % 512 = 1 ∧ e.1.toNat / 2 ^ 20 % 256 = 0 ∧
    refusedFor s 0 { hidx := 5, dcore := 7 } = none ∧ (s.level 7 0).st = .empty ∧ (s.level 7 0).entries.length < (s.level 7 0).depth.toNat := by decide +kernel
theorem witness_group_store : let s := grouping 0 0 { payload := [1] } (.store (here 0x400)) false;
    s.checkFor 0 0 (here 0x400) 1 1 needW = .ok (.mem (sliceAddr 0 0x400) none) false ∧ (here 0x400).toNat % 8 = 0 ∧ (here 0x401).toNat % 8 ≠ 0 := by
  decide +kernel
theorem witness_reduction_round : let w : Word := BitVec.ofNat 64 (2 * 2 ^ 62 + 7 * 2 ^ 37 + 2 ^ 19 + 2 * 2 ^ 28 + 2 ^ 49); w.toNat / 2 ^ 19 % 2 = 1 ∧ 1 < w.toNat / 2 ^ 28 % 512 ∧
    ((([(0, ({} : Msg), 2)] : List (Nat × Msg × BitVec 2)) ++ [(1, ({} : Msg), 2)]).map fun (z : Nat × Msg × BitVec 2) => z.1) = List.range 2 := by decide
theorem witness_domain : let x : MCast := { domain := true, id := 0 }; let w : Word := BitVec.ofNat 64 (2 * 2 ^ 62 + 0x1000);
    let s := { came (.domain {} 4095 0 false 0) with domains := [(4095, (w, 0))], mcasts := [x] }; let e := s.domains.get (0, 0) 4095;
    s.mcasts = [x] ∧ e.1.toNat / 2 ^ 62 = 2 ∧ e.1.toNat / 2 ^ 54 % 256 = 0 ∧ e.1.toNat / 2 ^ 47 % 128 + 1 = 1 ∧ e.1.toNat % 2 ^ 45 * 16 = 0x10000 ∧
    s.xlate 0 0x10000 needR = .ok (.mem 0x10000 none) ∧ isHbm 0x10000 = true ∧ s.poisoned 0x10000 16 = false ∧ s.xlate 0 0x40000000 needR = .absent := by
  decide +kernel
theorem witness_member : let y : Member := { used := some 3, first := 3 }; let x : MCast := { domain := true, admitted := true, members := [y] };
    let s := { demo [] with mcasts := [x], links := [(3075, { st := .up })] }; x.members = [] ++ y :: [] ∧ y.code = none ∧ y.used ≠ none ∧ s.portState 3 = .up ∧
    s.choosePort 3 0 = some 3 ∧ (demo []).portState 3 = .down ∧ (demo []).choosePort 3 0 = none ∧ x.sentAt + 2 ^ 20 ≤ (0x100000 : Word).toNat := by decide +kernel

/-- The firmware's verdict on an image is open; each of the other premises of a reset is met. -/
theorem witness_firmware (b : List Byte) : Config.firmwareAccepts b = true ∨ Config.firmwareAccepts b = false := by
  cases Config.firmwareAccepts b <;> simp
theorem witness_update : let s := demo []; s.mgmt.st = .ready ∧ s.mgmt.updating = false ∧ s.mgmt.arg2.toNat % 4096 = 0 ∧ (∀ e ∈ s.queues, e.2.started = []) ∧
    ¬ (∀ e ∈ s.ctxs, e.2.kst = .free) ∧ (∀ e ∈ State.reset.ctxs, e.2.kst = .free) ∧
    ¬ (∀ e ∈ ((queued []).modQueue 63 fun k => { k with started := [{}] }).queues, e.2.started = []) := by decide +kernel
theorem witness_updating : let s := { demo [] with mgmt := { st := .updating, layout := some 0x1000 } }; s.mgmt.st = .updating ∧ s.mgmt.layout = some 0x1000 ∧
    (s.byte (hostAddr 0x1000 + 4)).toNat ≤ 1 ∧ 1 < ((s.writeRaw (hostAddr 0x1000) [0, 0, 0, 0, 2]).byte (hostAddr 0x1000 + 4)).toNat := by decide +kernel
theorem witness_power : (demo []).mgmt.st ≠ .booting ∧ (∃ t ∈ [1681], 105 * 16 < t) ∧ ¬ (∃ t ∈ [1680], 105 * 16 < t) ∧ (∃ t ∈ [1841], 115 * 16 < t) ∧
    (demo []).mgmt.updating = false ∧ State.reset.mgmt.st ≠ .ready := by decide +kernel
/-- The windows are open in READY, closed in RECOVERY but for management, and closed in BOOTING. -/
theorem witness_windows : ((demo []).mgmt.st = .ready ∨ (demo []).mgmt.st = .fatal) ∧
    ¬ (({ st := .recovery } : Mgmt).st = .ready ∨ ({ st := .recovery } : Mgmt).st = .fatal) ∧ ({} : Mgmt).st ≠ .recovery ∧
    1000 ≤ (1000 : Word).toNat % 2 ^ 13 ∧ (6000 : Word).toNat % 2 ^ 13 ≤ 6000 ∧ 0x2F07FF < 0x2F0800 := by decide +kernel


/-! ### States that meet the premises of ports, queues within a clock, fences, packets and engines -/

/-- Strand 0 when its tile's port is taken by a packet that waits there. -/
def portTaken : State := { demo [] with net := [{ id := 7, dst := 1, body := .chainCredit }] }
theorem witness_port : (demo []).portTakes 0 false = true ∧ (demo []).portTakes 0 true = true ∧ portTaken.portTakes 0 false = false ∧
    portTaken.portTakes 0 true = true ∧ ({ portTaken with net := [{ id := 7, dst := 1, vn1 := true, body := .chainCredit }] } : State).portTakes 0 true = false := by
  decide
/-- Before and after the clock in which a strand may issue, and in a chip that has stopped or that its power limits. -/
theorem witness_issue : (st0 []).startAt.toNat ≤ (0 : Word).toNat ∧ (demo []).alive = true ∧ (demo []).permitted = true ∧
    stoppedByFatal (.jobStart 0 0) = true ∧ stoppedByFatal (.doorbell 0 0) = false ∧ engineRow (.arrayOperation 0) = true ∧
    engineRow (.doorbell 0 0) = false := by decide
/-- A result that may acquire, and one of sp, is owed; other results bar no issue. -/
theorem witness_barred : let st := fun p : Pend => { st0 [] with pend := [p] }; (st { g := some 8, acq := true }).barred = true ∧
    (st { g := some 2 }).barred = true ∧ (st { g := some 8 }).barred = false ∧ (∀ p ∈ (st { g := some 8 }).pend, p.acq = false ∧ p.g ≠ some 2) := by decide
/-- A divider that is free, and one that works until the next clock. -/
theorem witness_divider : ((demo []).core (demo []).myCore).divUntil.toNat ≤ (demo []).time.toNat ∧ (demo []).dividing = false ∧
    (let s := (demo []).modCore 0 fun c => { c with divUntil := 1 }; s.time.toNat < (s.core s.myCore).divUntil.toNat) := by decide
/-- An access of the strand that a fence waits for, one that it acquired from another strand, and one that only orders. -/
theorem witness_fence_orders : let mine := fun k => (asking k .sent).acc.filter fun a => a.strand == 0 && a.run == 0 && a.kind.ordered;
    mine .load ≠ [] ∧ (asks .load .sent).kind = .load ∧ mine (.store [1]) = [asks (.store [1]) .sent] ∧ (demo []).acc = [] ∧
    (let s := (asking (.store [1]) .sent).modTile 0 fun x => { x with fenced := [(0, some 0)] };
      (0, some 0) ∈ (s.tile s.myTile).fenced ∧ (∃ a ∈ s.acc, a.id = 0 ∧ a.status = .sent)) := by decide
/-- A record to be sent again of each kind. -/
theorem witness_redlv_kinds : ({ kind := 1 } : Hdr).kind = 1 ∧ ({ kind := 2 } : Hdr).kind = 2 ∧
    ({ kind := 6 } : Hdr).kind ≠ 1 ∧ ({ dy := 23 } : Hdr).dy.toNat < 24 ∧ 24 ≤ ({ dy := 24 } : Hdr).dy.toNat := by decide
/-- What has entered a queue in this clock is not taken in it. -/
theorem witness_queue_clock : let s := (demo []).setCore 0 { inq := [5], inqFresh := 1 }; (s.core 0).inq.length ≤ (s.core 0).inqFresh ∧
    (((demo []).setCore 0 { inq := [5] }).core 0).inqFresh < (((demo []).setCore 0 { inq := [5] }).core 0).inq.length ∧
    (s.core 0).inqFresh ≠ 0 ∧ (bound.tile 0).fabric.outFresh < (bound.tile 0).fabric.outFifo.length := by decide
/-- A kernel that entered DRAINING in this clock, and one that did so before. -/
theorem witness_draining : let s := fun t => { demo [] with time := t }.modCtx 0 fun k => { k with kst := .draining, drainAt := 5 };
    ((s 5).ctx 0).drainAt = (s 5).time ∧ ((s 6).ctx 0).drainAt ≠ (s 6).time ∧ ((s 5).ctx 0).kst = .draining := by decide
theorem witness_loop_port : ((demo []).tile (tileOf (demo []).cur)).loopServed = false ∧
    (((demo []).modTile 0 fun x => { x with loopServed := true }).tile 0).loopServed = true := by decide
theorem witness_handler_sets : let t : Tile := { sets := [] ++ [(0x30, some 0x8000FF0000000400)] }; t.sets = [] ++ [(0x30, some 0x8000FF0000000400)] ∧
    ({} : Tile).sets = [] := by decide
/-- The page that PROBE found, as its access holds it. -/
theorem witness_probe_reply : let x : Access := { id := 9, grp := 9, kind := .probe 5 6, dest := .g 8 8 false, status := .done [] };
    let s := { demo [] with acc := [x] }; s.acc = [] ++ x :: [] ∧ (s.strand x.strand).run = x.run ∧ (s.strand x.strand).phase = .running ∧
    (s.strand x.strand).spBad 8 5 = false ∧ (s.strand x.strand).spBad 9 6 = false ∧ ({ st0 [] with slim := 0x20000 } : Strand).spBad 2 0x10000 = true := by decide

/-- A packet that leaves its router, one whose channel is full, and one whose link holds 64 flits. -/
theorem witness_leaves : let p : Packet := { id := 7, dst := 1, body := .chainCredit }; let s := { demo [] with net := [p] };
    s.mayLeave p = true ∧ s.released p.after = true ∧ p.pos ≠ p.dst ∧
    (let q : Packet := { id := 6, src := 5, pos := 0, dst := 1, moving := true, via := some (4 * 0 + routePort 0 1), body := .msg { payload := List.replicate 256 0 } };
      ({ s with net := [{ q with id := 5 }, q, p] } : State).mayLeave p = false) ∧
    ({ s with links := [(4 * 0 + routePort 0 1, { flits := List.replicate 64 { pid := 1, first := true, last := true } })] } : State).mayLeave p = false ∧
    enters p { p with moving := true, via := some (4 * 0 + routePort 0 1) } := by unfold enters; decide +kernel
theorem witness_flit_words : ({ pid := 0, first := true, last := true, data := List.replicate 64 1 } : Flit).data.length = 64 ∧
    (let f : Flit := { pid := 0, first := true, last := true, data := List.replicate 64 1 };
      flitGood (f.wire 0 ^^^ 0) 0 = true ∧ flitGood (f.wire 0 ^^^ 1) 0 = false ∧ unsent { flits := [f, f], taken := 1 } = [f]) := by decide +kernel
/-- A ring whose turn it is to be read, and a tile that has read one in this clock. -/
def spilled : State := ((came .chainCredit).modCtx 0 fun k => { k with spbase := 0x10000 + 11 }).modLevel 0 0 fun _ =>
  { st := .spilling, depth := 2, lwm := 1, count := 1, tail := 1, ring := [(1, 0)] }
theorem witness_ring_turn : wantsEntry spilled 0 0 ∧ (spilled.tile 0).ringRead = false ∧ ((spilled.tile 0).ringNext + 32 - 0) % 32 = 0 ∧
    ¬ turnToRead (spilled.modTile 0 fun x => { x with ringRead := true }) 0 0 := by
  refine ⟨⟨.inr ⟨by decide +kernel, by decide +kernel⟩, by decide +kernel, 1, 0, by decide +kernel, .inl rfl⟩, by decide +kernel, by decide +kernel, fun h => ?_⟩
  exact absurd h.1 (by decide +kernel)
/-- Pieces of a copy whose requests are all under way, or some of them; a generator that is free, and none. -/
theorem witness_pieces : let p : Piece := { src := 0x10000, dst := 0x20000, len := 64, st := .ready, asked := 1 }; let s := working (cpy .running [p]);
    s.pieceX 0 (s.job 0 15) p = .ok [(.mem 0x10000 none, .mem 0x20000 none, 0x10000, 0x20000, 64)] ∧ (p.len + 255) / 256 = p.asked ∧ p.wrote = 0 ∧
    (s.job 0 15).comp = 0 ∧ (s.job 0 15).err = none ∧ (s.job 0 15).pieces = [p] := by decide +kernel
theorem witness_pieces_partly : let p : Piece := { src := 0x10000, dst := 0x20000, len := 600, st := .ready, asked := 1 };
    let s := (working (cpy .running [p])).modTile 0 fun x => { x with copyCredit := 0 }; 256 * p.asked < p.len ∧ (s.tile 0).copyCredit = 0 ∧
    s.pieceX 0 (s.job 0 15) { p with len := 256 * p.asked } = .ok [(.mem 0x10000 none, .mem 0x20000 none, 0x10000, 0x20000, 256)] ∧ Sound s 0x10000 256 := by
  unfold Sound; decide +kernel
theorem witness_generators : let p : Piece := { src := 0x10000, dst := 0x20000, len := 64, st := .spinel 1 };
    let s := { working (cpy .running [p]) with spinels := [(1, { waiting := [(0, 15, 0)] })] }; (s.spinel 1).gens.length < 8 ∧
    (s.job 0 15).pieces = [] ++ p :: [] ∧ 8 ≤ ({ gens := List.replicate 8 (0, 0, 0) } : Spinel).gens.length := by decide +kernel
theorem witness_array_runs : let s := array .mma 0 [here 0x1000, here 0x2000, 0x100000000, 0x0000004000000040] [.mma 0 15];
    let s := s.modJob 0 15 fun j => { j with st := .running }; (s.job 0 15).st = .running ∧ (s.job 0 15).k < (MmaDesc.of (s.job 0 15).desc).k ∧
    (∀ o ∈ ([] : List ArrayOp), (s.opJob 0 o).st ≠ .running ∧ s.opReady 0 o = false) ∧
    (let s := (array .mst 0 [here 0x1000, 0x0] [.mst 0 15]).modJob 0 15 fun j => { j with st := .running }; (s.job 0 15).st = .running ∧ (s.job 0 15).k = 0) := by
  decide +kernel
/-- A lane of a torus link broken at boot, a link without lanes, and one with all. -/
theorem witness_lanes : lanesAt [(0, 0)] 0 = 0 ∧ lanesAt [(0, 2)] 0 = 2 ∧ lanesAt [] 0 = 4 ∧ lanesAt [(0, 9)] 0 = 4 := by decide
theorem witness_member_late : let y : Member := { used := some 3, first := 3, sentAt := 5 }; let s := { demo [] with links := [(3075, { st := .up })], time := 0x100005 };
    y.sentAt + 2 ^ 20 ≤ s.time.toNat ∧ s.portState 3 = .up ∧ ¬ y.sentAt + 2 ^ 20 ≤ (0x100004 : Word).toNat ∧ (demo []).portState 3 = .down := by decide +kernel

theorem witness_head_copy : HeadHolds (queued (pkt 2 0x10000 0x20000 64)) 63 (pkt 2 0x10000 0x20000 64) := by unfold HeadHolds; decide +kernel
theorem witness_head_signal : HeadHolds (queued (pkt 3 0x10000 5 0)) 63 (pkt 3 0x10000 5 0) ∧ Clean (pkt 3 0x10000 5 0) 3 := by
  unfold HeadHolds Clean; decide +kernel
theorem witness_head_cond_fails : let s := queued (pkt 4 0x10000 1 0); HeadHolds s 63 (pkt 4 0x10000 1 0) ∧ Clean (pkt 4 0x10000 1 0) 4 ∧
    armCond 0 (BitVec.ofNat 64 (leNat (s.readRaw 0x10000 8))) 1 = false := by unfold HeadHolds Clean; dsimp only; decide +kernel
theorem witness_placed_anywhere : let s := placing 0 0; (s.ctx 1).kst = .placing ∧ (s.queue (s.ctx 1).launchQ).pending = some { words := pkt 1 0 0 0 } ∧
    (s.queue (s.ctx 1).launchQ).ctx.toNat = 1 ∧ (∀ j < (s.ctx 1).launchQ, s.launchDue j = false) ∧
    (∀ t ∈ rectangle 1 1 (1 % 32) (1 / 32), t ∉ s.fuses ∧ s.holder t = none) := by decide +kernel
theorem witness_all_cores : let s := (demo []).modCtx 0 fun k => { k with w1 := 0x40000 }; (s.ctx 0).w1.getLsbD 18 = true ∧ (s.ctx 0).busy = false ∧
    (s.ctx 0).st = .active ∧ (∀ x ∈ coresOf (s.ctx 0), s.saveTarget 0 ((s.ctx 0).coreRecord x) ≠ none) ∧ s.holder 0 = some 0 ∧ (2047 : Nat) < 2048 := by
  decide +kernel
theorem witness_unfreeze_ends : ∃ k : Ctx, k.busy = true ∧ k.cmd = .unfreeze ∧ k.waiting = [] := ⟨{ busy := true, cmd := .unfreeze }, rfl, rfl, rfl⟩
theorem witness_push_open : let j := { cpy .completing [] with action := .pushing 5, comp1 := 7 }; let s := working j; (s.tile 0).replays = [] ∧
    (s.core 7).inqFresh = 0 ∧ s.strandPushes 7 = false ∧ (s.job 0 15).st = .completing := by decide +kernel
theorem witness_answer_refuses : let r : TsrReq := { tag := 3, who := .action 0 15, sent := true }; (3 : Word).toNat % 2 ^ 32 = r.tag ∧
    (3 : Word).getLsbD 32 = false ∧ r.sent = true := by decide

/-- R260: the block of queue 5 starts at 0x140 and its HEAD lies 0x18 further; R462: the domain table lies at 48 MiB. -/
theorem test_register_places : HostReg.place (.qhead 5) = some (3, 0x158) ∧ HostReg.place (.groupWord 768 0 0) = some (4, 48 * 2 ^ 20) := by
  decide

end Sys2Proof.Tests
end

section
/-! SUPPORT. Memory as runs of bytes and as numbers: a run that is read again, the number in a run and its parts,
and what dropping places leaves of each byte (R2, R385). -/

namespace Sys2Proof.Machine

open Sys2Proof.Claims

/-! ### Runs of bytes -/

theorem State.readRaw_eq_map (s : State) (a n : Nat) :
    s.readRaw a n = (List.range n).map fun i => s.byte (a + i) := by
  induction n generalizing a with
  | zero => rfl
  | succ n ih =>
    rw [State.readRaw, ih, List.range_succ_eq_map, List.map_cons, List.map_map]
    simp only [Function.comp_def, Nat.add_zero, Nat.succ_eq_add_one, Nat.add_assoc, Nat.add_comm 1]

@[simp] theorem State.readRaw_length (s : State) (a n : Nat) : (s.readRaw a n).length = n := by
  simp [State.readRaw_eq_map]

/-- Two runs are the same when their bytes are. -/
theorem State.readRaw_eq_iff {s u : State} {a b n : Nat} :
    u.readRaw a n = s.readRaw b n ↔ ∀ i < n, u.byte (a + i) = s.byte (b + i) := by
  simp only [State.readRaw_eq_map, List.map_inj_left, List.mem_range]

theorem State.readRaw_congr {s u : State} {a n : Nat} (h : ∀ i < n, u.byte (a + i) = s.byte (a + i)) :
    u.readRaw a n = s.readRaw a n := State.readRaw_eq_iff.mpr h

theorem State.readRaw_add (s : State) (a m n : Nat) :
    s.readRaw a (m + n) = s.readRaw a m ++ s.readRaw (a + m) n := by
  simp only [State.readRaw_eq_map, List.range_add, List.map_append, List.map_map, Function.comp_def, Nat.add_assoc]

/-- A part of a run that has been written reads as written, outside the reserved places. -/
theorem State.readRaw_writeRaw (s : State) (a : Nat) (bs : List Byte) {off n : Nat} (h : off + n ≤ bs.length)
    (hr : ∀ i < bs.length, isReservedByte (a + i) = false) :
    (s.writeRaw a bs).readRaw (a + off) n = (bs.drop off).take n := by
  refine List.ext_getElem (by simp; omega) fun i h₁ _ => ?_
  have hi : i < n := by simpa using h₁
  simp only [State.readRaw_eq_map, List.getElem_map, List.getElem_range, List.getElem_take, List.getElem_drop]
  rw [Nat.add_assoc, State.byte_writeRaw s a bs (off + i) (by omega) (hr _ (by omega))]

/-- Host memory has no reserved place (R385, R424). -/
theorem isReservedByte_hostAddr (bus : Nat) : isReservedByte (hostAddr bus) = false := by
  have h : sliceOf (hostAddr bus) = none := if_neg (by unfold hostAddr; omega)
  simp [isReservedByte, h]

theorem hostAddr_add (a b : Nat) : hostAddr (a + b) = hostAddr a + b := (Nat.add_assoc ..).symm

/-- What a part of a run written to host memory reads as. -/
theorem State.readRaw_hostWrite (s : State) (bus : Nat) (bs : List Byte) {off n : Nat} (h : off + n ≤ bs.length) :
    (s.hostWrite bus bs).readRaw (hostAddr bus + off) n = (bs.drop off).take n :=
  State.readRaw_writeRaw s _ bs h fun i _ => by rw [← hostAddr_add]; exact isReservedByte_hostAddr _

theorem State.hostWrite_outside (s : State) (bus : Nat) (bs : List Byte) :
    SameBytesOutside s (s.hostWrite bus bs) (hostAddr bus) bs.length := fun _ h =>
  State.byte_writeRaw_outside s _ bs h

/-- A write to host memory changes memory and nothing else. -/
theorem State.hostWrite_eq (s : State) (bus : Nat) (bs : List Byte) :
    s.hostWrite bus bs = { s with mem := (s.hostWrite bus bs).mem } := State.writeRaw_eq _ _ _

@[simp] theorem State.hostWrite_mgmt (s : State) (bus : Nat) (bs : List Byte) : (s.hostWrite bus bs).mgmt = s.mgmt := by
  rw [State.hostWrite_eq]
@[simp] theorem State.hostWrite_msix (s : State) (bus : Nat) (bs : List Byte) : (s.hostWrite bus bs).msix = s.msix := by
  rw [State.hostWrite_eq]
@[simp] theorem State.hostWrite_strands (s : State) (bus : Nat) (bs : List Byte) :
    (s.hostWrite bus bs).strands = s.strands := by rw [State.hostWrite_eq]

/-! ### The number in a run -/

theorem memNat_succ (s : State) (a n : Nat) : memNat s a (n + 1) = (s.byte a).toNat + 256 * memNat s (a + 1) n := by
  simp only [memNat, List.range_succ_eq_map, List.map_cons, List.map_map, List.sum_cons, Function.comp_def, Nat.add_zero,
    Nat.pow_zero, Nat.mul_one, Nat.succ_eq_add_one, ← List.sum_map_mul_left, Nat.pow_succ]
  congr 2
  refine List.map_congr_left fun i _ => ?_
  rw [show a + (i + 1) = a + 1 + i by omega]
  ring

theorem memNat_eq_leNat (s : State) (a n : Nat) : memNat s a n = leNat (s.readRaw a n) := by
  induction n generalizing a with
  | zero => rfl
  | succ n ih => rw [memNat_succ, State.readRaw, leNat, ih]

theorem memNat_lt (s : State) (a n : Nat) : memNat s a n < 256 ^ n := by
  induction n generalizing a with
  | zero => simp [memNat]
  | succ n ih =>
    have h := ih (a + 1)
    have hb := (s.byte a).isLt
    rw [memNat_succ, Nat.pow_succ]; omega

theorem memNat_add (s : State) (a m n : Nat) : memNat s a (m + n) = memNat s a m + 256 ^ m * memNat s (a + m) n := by
  induction m generalizing a with
  | zero => simp [memNat]
  | succ m ih =>
    rw [show m + 1 + n = m + n + 1 by omega, memNat_succ, memNat_succ, ih, Nat.pow_succ,
      show a + 1 + m = a + (m + 1) by omega]
    ring

/-- The low bytes of a number in memory. -/
theorem memNat_mod (s : State) (a m n : Nat) : memNat s a (m + n) % 256 ^ m = memNat s a m := by
  rw [memNat_add, Nat.add_mul_mod_self_left, Nat.mod_eq_of_lt (memNat_lt s a m)]

/-- The bytes of a number in memory above its low ones. -/
theorem memNat_div (s : State) (a m n : Nat) : memNat s a (m + n) / 256 ^ m = memNat s (a + m) n := by
  rw [memNat_add, Nat.add_mul_div_left _ _ (by positivity), Nat.div_eq_of_lt (memNat_lt s a m), Nat.zero_add]

/-- The low bits of a number in memory are those of its first byte. -/
theorem memNat_mod_byte (s : State) (a n : Nat) {k : Nat} (h : k ∣ 256) :
    memNat s a (n + 1) % k = (s.byte a).toNat % k := by
  obtain ⟨c, hc⟩ := h
  rw [memNat_succ, hc, Nat.mul_assoc, Nat.add_mul_mod_self_left]

theorem State.byte_of_mem {s u : State} (h : u.mem = s.mem) (a : Nat) : u.byte a = s.byte a := by
  rw [State.byte, h, ← State.byte]

theorem memNat_congr {s u : State} {a n : Nat} (h : ∀ i < n, u.byte (a + i) = s.byte (a + i)) :
    memNat u a n = memNat s a n := by
  rw [memNat_eq_leNat, memNat_eq_leNat, State.readRaw_congr h]

theorem memNat_of_mem {s u : State} (h : u.mem = s.mem) (a n : Nat) : memNat u a n = memNat s a n :=
  memNat_congr fun _ _ => State.byte_of_mem h _

/-- A field of a record that has been read from memory is the number at its place. -/
theorem fieldAt_readRaw (s : State) (a : Nat) {n off k : Nat} (h : off + k ≤ n) :
    fieldAt (s.readRaw a n) off k = memNat s (a + off) k := by
  obtain ⟨r, rfl⟩ := Nat.exists_eq_add_of_le h
  rw [fieldAt, memNat_eq_leNat, Nat.add_assoc, State.readRaw_add, State.readRaw_add]
  simp

/-! ### Memory with places dropped -/

theorem memByte_filter (m : List Host.Cell) (p : Nat → Bool) (a : Nat) :
    memByte (m.filter fun e => p e.1) a = if p a then memByte m a else 0 := by
  induction m with
  | nil => simp [memByte]
  | cons e r ih =>
    obtain ⟨k, v⟩ := e
    by_cases hk : k = a
    · subst hk
      cases h : p k <;> simp_all [memByte]
    · cases h : p k <;> simp [memByte, hk, h, ih]

end Sys2Proof.Machine
end


section
/-! SUPPORT. The torus links in pairs of ends, the sequence of the boot, and what the resets leave (R8, R17, R445, R459,
R460). -/

namespace Sys2Proof.Machine

open Sys2Proof.Claims

/-! ### The two ends of a torus link (R8, R443) -/

theorem partnerPort_lt {l : Nat} (h : l < 3072) : partnerPort l < 3072 := by
  unfold partnerPort neighbour tileX tileY
  split <;> dsimp only <;> omega

theorem partnerPort_partnerPort {l : Nat} (h : l < 3072) : partnerPort (partnerPort l) = l := by
  obtain ⟨t, p, hp, rfl⟩ : ∃ t p, p < 4 ∧ l = 4 * t + p := ⟨l / 4, l % 4, by omega, by omega⟩
  have e : ∀ x y, y < 4 → partnerPort (4 * x + y) = 4 * neighbour x y + (y + 2) % 4 := fun x y hy => by
    rw [partnerPort, show (4 * x + y) / 4 = x by omega, show (4 * x + y) % 4 = y by omega]
  rw [e t p hp, e _ _ (by omega)]
  interval_cases p <;> simp only [neighbour, tileX, tileY] <;> omega

theorem partnerPort_ne (l : Nat) : partnerPort l ≠ l := by
  unfold partnerPort; omega

/-- Half of the torus ports are the lower end of their link: the other end of each is none. -/
theorem torusLinks_length : torusLinks.length = 1536 := by
  let lower := (Finset.range 3072).filter fun l => l ≤ partnerPort l
  let upper := (Finset.range 3072).filter fun l => ¬ l ≤ partnerPort l
  have hsame : lower.card = upper.card := by
    refine Finset.card_bij' (fun l _ => partnerPort l) (fun l _ => partnerPort l) ?_ ?_ ?_ ?_ <;>
      intro l hl <;> obtain ⟨hr, hl⟩ := Finset.mem_filter.mp hl <;> have hlt := Finset.mem_range.mp hr <;>
      have hback := partnerPort_partnerPort hlt
    · have := partnerPort_ne l
      exact Finset.mem_filter.mpr ⟨Finset.mem_range.mpr (partnerPort_lt hlt), by omega⟩
    · exact Finset.mem_filter.mpr ⟨Finset.mem_range.mpr (partnerPort_lt hlt), by omega⟩
    · exact hback
    · exact hback
  have hsum : lower.card + upper.card = 3072 := by
    rw [Finset.card_filter_add_card_filter_not, Finset.card_range]
  have hlist : torusLinks.length = lower.card := rfl
  omega

/-- The boot gives both ends of a torus link the same lanes. -/
theorem bootLanes_partnerPort (lanes : List (Nat × Nat)) {l : Nat} (h : l < 3072) :
    bootLanes lanes (partnerPort l) = bootLanes lanes l := by
  have hp := partnerPort_lt h
  have hf : fullWidth (partnerPort l) = fullWidth l := by
    rw [fullWidth, fullWidth, if_neg (by omega), if_neg (by omega)]
  simp [bootLanes, isTorus, h, hp, partnerPort_partnerPort h, Bool.or_comm, hf]

theorem bootLanes_eq_lanesAt (lanes : List (Nat × Nat)) {l : Nat} (h : l < 3072) : bootLanes lanes l = lanesAt lanes l := by
  have hf : fullWidth l = 4 := if_neg (by omega)
  simp [bootLanes, lanesAt, isTorus, h, hf, partnerPort]

theorem lanesAt_le (lanes : List (Nat × Nat)) (l : Nat) : lanesAt lanes l ≤ 4 := by
  have h : ∀ o : Option (Nat × Nat), (o.map fun e => min e.2 4).getD 4 ≤ 4 := fun o => by cases o <;> simp
  exact h _

/-- A link without lanes is found at one of its ends. -/
theorem torusLinks_any_lanes (lanes : List (Nat × Nat)) :
    (torusLinks.any fun l => bootLanes lanes l == 0) = true ↔ ∃ l < 3072, lanesAt lanes l = 0 := by
  simp only [torusLinks, List.any_eq_true, List.mem_filter, List.mem_range, decide_eq_true_eq, beq_iff_eq]
  constructor
  · rintro ⟨l, ⟨hl, _⟩, h⟩
    exact ⟨l, hl, bootLanes_eq_lanesAt lanes hl ▸ h⟩
  · rintro ⟨l, hl, h⟩
    rw [← bootLanes_eq_lanesAt lanes hl] at h
    by_cases hlow : l ≤ partnerPort l
    · exact ⟨l, ⟨hl, hlow⟩, h⟩
    · exact ⟨partnerPort l, ⟨partnerPort_lt hl, by rw [partnerPort_partnerPort hl]; omega⟩,
        (bootLanes_partnerPort lanes hl).trans h⟩

/-! ### Trained links (R445) -/

/-- A map listed by increasing numbers gives each its record. -/
theorem SMap.get_map_range {α : Type} (f : Nat → α) (b d : Nat) (r : SMap α) (x : α) (n k : Nat) :
    SMap.get (((List.range' b n).map fun l => (d + l, f l)) ++ r) x (d + k) =
      if b ≤ k ∧ k < b + n then f k else SMap.get r x (d + k) := by
  induction n generalizing b with
  | zero => rw [if_neg (by omega)]; rfl
  | succ n ih =>
    rw [List.range'_succ, List.map_cons, List.cons_append, SMap.get, ih]
    by_cases hk : b = k
    · subst hk; rw [if_pos rfl, if_pos (by omega)]
    · rw [if_neg (by omega)]
      exact if_congr (by omega) rfl rfl

theorem trainedLinks_torus (lanes : List (Nat × Nat)) {l : Nat} (h : l < 3072) :
    (trainedLinks lanes).get {} l = trainedLink l (lanesAt lanes l) := by
  have e := SMap.get_map_range (fun l => trainedLink l (bootLanes lanes l)) 0 0
    ((List.range 17).map fun p => (3072 + p, { st := .training })) ({} : Link) 3072 l
  simp only [Nat.zero_add, ← List.range_eq_range', Nat.zero_le, true_and, if_pos h] at e
  rw [← bootLanes_eq_lanesAt lanes h]
  exact e

theorem trainedLinks_edge (lanes : List (Nat × Nat)) {p : Nat} (h : p < 17) :
    ((trainedLinks lanes).get {} (3072 + p)).st = .training := by
  have e := SMap.get_map_range (fun l => trainedLink l (bootLanes lanes l)) 0 0
    ((List.range 17).map fun p => (3072 + p, { st := .training })) ({} : Link) 3072 (3072 + p)
  have e' := SMap.get_map_range (fun _ => ({ st := .training } : Link)) 0 3072 [] {} 17 p
  simp only [Nat.zero_add, ← List.range_eq_range', Nat.zero_le, true_and, if_pos h, List.append_nil,
    if_neg (show ¬ 3072 + p < 3072 by omega)] at e e'
  rw [show (trainedLinks lanes).get {} (3072 + p) = _ from e, e']

theorem trainedLink_fields {l n : Nat} (h : l < 3072) (hn : n ≤ 4) :
    (trainedLink l n).width.toNat = n ∧
      (trainedLink l n).st = (if n = 0 then .down else if n = 4 then .up else .degraded) := by
  have hf : fullWidth l = 4 := if_neg (by omega)
  unfold trainedLink
  by_cases h0 : n = 0
  · subst h0; exact ⟨rfl, rfl⟩
  · rw [if_neg h0, if_neg h0, hf]
    exact ⟨Nat.mod_eq_of_lt (by omega), rfl⟩

/-! ### The boot (R460) -/

/-- An image whose signature does not verify: the boot stops in RECOVERY. -/
theorem State.booted_rejected {s : State} (h : Config.firmwareAccepts s.mgmt.image = false) (ok : Bool)
    (lanes : List (Nat × Nat)) : s.booted ok lanes =
      { s with mgmt := { s.mgmt with ver := Config.firmwareVersion s.mgmt.image, st := .recovery } } := by
  have h' : Config.firmwareAccepts ({ s.mgmt with ver := Config.firmwareVersion s.mgmt.image } : Mgmt).image = false := h
  simp [State.booted, h']

/-- A stack that fails its test: FATAL with code 3. -/
theorem State.booted_stackFails {s : State} (h : Config.firmwareAccepts s.mgmt.image = true)
    (lanes : List (Nat × Nat)) : s.booted false lanes =
      ({ s with mgmt := { s.mgmt with ver := Config.firmwareVersion s.mgmt.image } } : State).fatal 3 := by
  have h' : Config.firmwareAccepts ({ s.mgmt with ver := Config.firmwareVersion s.mgmt.image } : Mgmt).image = true := h
  simp [State.booted, h']

/-- The state of a boot whose links have trained. -/
def State.linksTrained (s : State) (lanes : List (Nat × Nat)) : State :=
  ({ s with mgmt := { s.mgmt with ver := Config.firmwareVersion s.mgmt.image }, links := trainedLinks lanes } : State).logTraining
    lanes

/-- The training changes the management window, the links and the interrupts alone. -/
theorem State.linksTrained_shape (s : State) (lanes : List (Nat × Nat)) :
    ∃ m ls x, s.linksTrained lanes = { s with mgmt := m, links := ls, msix := x } := by
  simp only [State.linksTrained, State.logTraining]
  exact ⟨_, _, _, rfl⟩

/-- What the training of the links leaves in the windows, and the interrupt for each of its 3,089 changes (R463, R466). -/
theorem State.linksTrained_windows (s : State) (lanes : List (Nat × Nat)) : let u := s.linksTrained lanes
    u.links = trainedLinks lanes ∧ u.mgmt.logCount = 3089 ∧ u.mgmt.err = s.mgmt.err ∧ u.mgmt.vec = s.mgmt.vec ∧
      u.msix = s.msix ++ List.replicate 3089 s.mgmt.vec := by
  have hn : 2 * torusLinks.length + 17 = 3089 := by rw [torusLinks_length]
  simp only [State.linksTrained, State.logTraining, hn]
  exact ⟨trivial, rfl, trivial, trivial, trivial⟩

/-- Once the image and the stacks are good the links train, and the boot ends in FATAL with code 1 if one has no lanes,
otherwise in READY. -/
theorem State.booted_trained {s : State} (h : Config.firmwareAccepts s.mgmt.image = true) (lanes : List (Nat × Nat)) :
    ((∃ l < 3072, lanesAt lanes l = 0) → s.booted true lanes = (s.linksTrained lanes).fatal 1) ∧
    ((∀ l < 3072, lanesAt lanes l ≠ 0) → s.booted true lanes =
      { (s.linksTrained lanes).powerDown with mgmt := { (s.linksTrained lanes).mgmt with st := .ready } }) := by
  have h' : Config.firmwareAccepts ({ s.mgmt with ver := Config.firmwareVersion s.mgmt.image } : Mgmt).image = true := h
  have hany := torusLinks_any_lanes lanes
  constructor
  · intro hl
    simp only [State.booted, h', hany.mpr hl]
    rfl
  · intro hl
    have hno : (torusLinks.any fun l => bootLanes lanes l == 0) = false :=
      Bool.eq_false_iff.mpr fun he => by
        obtain ⟨l, hlt, h0⟩ := hany.mp he
        exact hl l hlt h0
    simp only [State.booted, h', hno]
    rfl

/-- Everything a boot can do to a state that has been cleared: the management window, the links and the interrupts
are its own, and in READY the defective tiles are powered down. -/
theorem State.booted_cases (s : State) (ok : Bool) (lanes : List (Nat × Nat)) : ∃ m ls x,
    s.booted ok lanes = { s with mgmt := m, links := ls, msix := x } ∨
      s.booted ok lanes = { s.powerDown with mgmt := m, links := ls, msix := x } := by
  cases hacc : Config.firmwareAccepts s.mgmt.image with
  | false => exact ⟨_, _, _, .inl (State.booted_rejected hacc ok lanes)⟩
  | true =>
    cases ok with
    | false => exact ⟨_, _, _, .inl (State.booted_stackFails hacc lanes)⟩
    | true =>
      obtain ⟨hfail, hready⟩ := State.booted_trained hacc lanes
      obtain ⟨m, ls, x, he⟩ := s.linksTrained_shape lanes
      by_cases hl : ∃ l < 3072, lanesAt lanes l = 0
      · rw [hfail hl, he]
        exact ⟨_, _, _, .inl rfl⟩
      · have hl' : ∀ l < 3072, lanesAt lanes l ≠ 0 := fun l hlt h0 => hl ⟨l, hlt, h0⟩
        rw [hready hl', he]
        exact ⟨_, _, _, .inr rfl⟩

/-! ### What powering down, a boot and a clear leave (R17, R459) -/

/-- Whether powering down leaves a place: it is in no slice of a defective tile. -/
def State.lit (s : State) (pa : Nat) : Bool := (sliceOf pa).all fun e => !s.fuses.contains e.1

/-- A byte of a tile that is powered down reads 0; every other byte is unchanged. -/
theorem State.byte_powerDown (s : State) (pa : Nat) : s.powerDown.byte pa = if s.lit pa then s.byte pa else 0 := by
  have hlit : s.powerDown.mem = s.mem.filter fun e => s.lit e.1 := by
    refine List.filter_congr fun e _ => ?_
    simp only [State.lit]
    cases sliceOf e.1 <;> rfl
  rw [State.byte, hlit]
  exact memByte_filter _ _ _

theorem State.byte_powerDown_of_zero {s : State} {pa : Nat} (h : s.byte pa = 0) : s.powerDown.byte pa = 0 := by
  rw [State.byte_powerDown, h, ite_self]

/-- Outside the slices nothing of memory is powered down. -/
theorem State.byte_powerDown_outside (s : State) {pa : Nat} (h : sliceOf pa = none) : s.powerDown.byte pa = s.byte pa := by
  rw [State.byte_powerDown, if_pos]; simp [State.lit, h]

theorem sliceOf_outside {pa : Nat} (h : pa < 2 ^ 40 ∨ 2 ^ 64 ≤ pa) : sliceOf pa = none := if_neg (by omega)

/-- Which bytes a clear keeps: host memory, and HBM if it is told to. -/
theorem State.byte_cleared (s : State) (keepHbm : Bool) (pa : Nat) :
    (s.cleared keepHbm).byte pa = if isHost pa || (keepHbm && isHbm pa) then s.byte pa else 0 :=
  memByte_filter s.mem (fun pa => isHost pa || (keepHbm && isHbm pa)) pa

/-- What every boot leaves of a cleared module (R459). -/
structure Cleared (s u : State) : Prop where
  fuses : u.fuses = s.fuses
  net : u.net = []
  acc : u.acc = []
  tsrReqs : u.tsrReqs = []
  mcasts : u.mcasts = []
  strands : u.strands = []
  ctxs : u.ctxs = []
  queues : u.queues = []
  lenders : u.lenders = []
  borrowers : u.borrowers = []

/-- A reset clears everything but what lies outside the module, the fuses and the flash, whatever the boot turns out. -/
theorem State.resets_cleared (s : State) (keepHbm ok : Bool) (lanes : List (Nat × Nat)) :
    Cleared s ((s.cleared keepHbm).booted ok lanes) := by
  obtain ⟨m, ls, x, h | h⟩ := (s.cleared keepHbm).booted_cases ok lanes <;> rw [h] <;> constructor <;> rfl

/-- The bytes after a reset: those kept, but for the slices, and 0 elsewhere. -/
theorem State.resets_byte (s : State) (keepHbm ok : Bool) (lanes : List (Nat × Nat)) (pa : Nat) :
    ((isHost pa || (keepHbm && isHbm pa)) = false → ((s.cleared keepHbm).booted ok lanes).byte pa = 0) ∧
    ((isHost pa || (keepHbm && isHbm pa)) = true → sliceOf pa = none →
      ((s.cleared keepHbm).booted ok lanes).byte pa = s.byte pa) := by
  have hc := s.byte_cleared keepHbm pa
  obtain ⟨m, ls, x, h | h⟩ := (s.cleared keepHbm).booted_cases ok lanes <;> rw [h] <;>
    refine ⟨fun hk => ?_, fun hk hs => ?_⟩ <;> rw [hk] at hc
  · exact hc
  · exact hc
  · exact State.byte_powerDown_of_zero hc
  · exact (State.byte_powerDown_outside _ hs).trans hc

end Sys2Proof.Machine
end


section
/-! SUPPORT. Resets and fatal errors, as O57 states them (R459, R460, R466). -/

namespace Sys2Proof.Machine

open Sys2Proof.Claims

theorem exec_coldReset (ok : Bool) (lanes : List (Nat × Nat)) (s : State) :
    exec (.coldReset ok lanes) s = .next ((s.cleared false).booted ok lanes) := rfl

theorem exec_fatalError (code : Nat) (s : State) : exec (.fatalError code) s = .next (s.fatal code) := rfl

/-- What a cold reset leaves of the module's parts and of memory (R459). -/
theorem State.coldReset_clears (s : State) (ok : Bool) (lanes : List (Nat × Nat)) :
    let u := (s.cleared false).booted ok lanes
    (∀ pa, pa < 2 ^ 64 → u.byte pa = 0) ∧ (∀ pa, 2 ^ 64 ≤ pa → u.byte pa = s.byte pa) ∧ Cleared s u := by
  have hhost : ∀ pa, (isHost pa || (false && isHbm pa)) = decide (2 ^ 64 ≤ pa) := fun pa => by simp [isHost]
  refine ⟨fun pa hpa => ?_, fun pa hpa => ?_, s.resets_cleared false ok lanes⟩
  · exact (s.resets_byte false ok lanes pa).1 (by rw [hhost]; exact decide_eq_false (by omega))
  · exact (s.resets_byte false ok lanes pa).2 (by rw [hhost]; exact decide_eq_true hpa) (sliceOf_outside (.inr hpa))

/-- The links after a boot whose links have trained (R445). -/
theorem State.links_of_trained {u : State} {lanes : List (Nat × Nat)} (h : u.links = trainedLinks lanes) :
    (∀ l < 3072, let n := lanesAt lanes l; (u.link l).width.toNat = n ∧
      (u.link l).st = (if n = 0 then .down else if n = 4 then .up else .degraded)) ∧
    (∀ p < 17, (u.link (3072 + p)).st = .training) := by
  unfold State.link
  rw [h]
  refine ⟨fun l hl => ?_, fun p hp => trainedLinks_edge lanes hp⟩
  rw [trainedLinks_torus lanes hl]
  exact trainedLink_fields hl (lanesAt_le lanes l)

/-- The verdict of the boot of a cleared module (R460, R463, R466). -/
theorem State.cleared_booted (s : State) (keepHbm ok : Bool) (lanes : List (Nat × Nat)) :
    let u := (s.cleared keepHbm).booted ok lanes
    (Config.firmwareAccepts s.mgmt.image = false →
      u.mgmt.st = .recovery ∧ (∀ l, (u.link l).st = .down) ∧ u.msix = s.msix) ∧
    (Config.firmwareAccepts s.mgmt.image = true → ok = false →
      u.mgmt.st = .fatal ∧ u.mgmt.fatal = 3 ∧ u.msix = s.msix ++ [0]) ∧
    (Config.firmwareAccepts s.mgmt.image = true → ok = true →
      u.links = trainedLinks lanes ∧ u.mgmt.logCount = 3089 ∧
      ((∃ l < 3072, lanesAt lanes l = 0) →
        u.mgmt.st = .fatal ∧ u.mgmt.fatal = 1 ∧ u.msix = s.msix ++ List.replicate 3090 0) ∧
      ((∀ l < 3072, lanesAt lanes l ≠ 0) →
        u.mgmt.st = .ready ∧ u.mgmt.err = 0 ∧ u.msix = s.msix ++ List.replicate 3089 0)) := by
  intro u
  refine ⟨fun hacc => ?_, fun hacc hok => ?_, fun hacc hok => ?_⟩
  · have hu : u = _ := State.booted_rejected (s := s.cleared keepHbm) hacc ok lanes
    rw [hu]
    exact ⟨rfl, fun l => rfl, rfl⟩
  · subst hok
    have hu : u = _ := State.booted_stackFails (s := s.cleared keepHbm) hacc lanes
    rw [hu]
    exact ⟨rfl, rfl, rfl⟩
  · subst hok
    obtain ⟨hfail, hready⟩ := State.booted_trained (s := s.cleared keepHbm) hacc lanes
    obtain ⟨hlinks, hcount, herr, hvec, hmsix⟩ := (s.cleared keepHbm).linksTrained_windows lanes
    by_cases hl : ∃ l < 3072, lanesAt lanes l = 0
    · have hu : u = _ := hfail hl
      rw [hu]
      refine ⟨hlinks, hcount, fun _ => ⟨rfl, rfl, ?_⟩, fun hall => ?_⟩
      · rw [State.fatal, State.interrupt, hmsix, hvec, List.append_assoc]
        exact congrArg (s.msix ++ ·) List.replicate_succ'.symm
      · obtain ⟨l, hlt, h0⟩ := hl
        exact absurd h0 (hall l hlt)
    · have hu : u = _ := hready fun l hlt h0 => hl ⟨l, hlt, h0⟩
      rw [hu]
      exact ⟨hlinks, hcount, fun he => absurd he hl, fun _ => ⟨rfl, herr, hmsix⟩⟩

/-- The part of O57 about cold resets and fatal errors. -/
theorem resetsAndFatalErrors : ResetsAndFatalErrors := by
  intro s ok lanes code image
  obtain ⟨hzero, hhost, hcl⟩ := s.coldReset_clears ok lanes
  obtain ⟨hrej, hstack, htrain⟩ := s.cleared_booted false ok lanes
  refine ⟨⟨_, exec_coldReset ok lanes s, hzero, hhost, hcl.fuses, hcl.net, hcl.acc, hcl.tsrReqs, hcl.mcasts,
    fun n => ?_, fun c => ?_, fun q => ?_, fun i => ?_, hrej, hstack, fun hacc hok => ?_⟩, exec_fatalError code s⟩
  · rw [State.strand, hcl.strands]; rfl
  · rw [State.ctx, hcl.ctxs]; exact ⟨rfl, rfl⟩
  · rw [State.queue, hcl.queues]; rfl
  · rw [State.lender, State.borrower, hcl.lenders, hcl.borrowers]; exact ⟨rfl, rfl⟩
  · obtain ⟨hlinks, hcount, hverdict⟩ := htrain hacc hok
    obtain ⟨htorus, hedge⟩ := State.links_of_trained hlinks
    exact ⟨htorus, hedge, hcount, hverdict⟩

end Sys2Proof.Machine
end


section
/-! SUPPORT. The saved layout of R465: where the fields of a queue lie in it, and what is restored from it. -/

namespace Sys2Proof.Machine

open Sys2Proof.Claims

/-! ### Records of one size, one after another -/

theorem leBytes_take (m n v : Nat) : (leBytes (m + n) v).take m = leBytes m v := by
  induction m generalizing v with
  | zero => rfl
  | succ m ih =>
    rw [show m + 1 + n = m + n + 1 by omega, leBytes, leBytes, List.take_succ_cons, ih]

theorem flatMap_range_length {α : Type} (f : Nat → List α) {k : Nat} (n : Nat) (hf : ∀ i, (f i).length = k) :
    ((List.range n).flatMap f).length = k * n := by
  simp [List.length_flatMap, hf, Nat.mul_comm]

/-- A part of one of several records of `k` bytes. -/
theorem flatMap_range_part {α : Type} (f : Nat → List α) {k n q off len : Nat} (hf : ∀ i, (f i).length = k) (hq : q < n)
    (h : off + len ≤ k) :
    (((List.range n).flatMap f).drop (k * q + off)).take len = ((f q).drop off).take len := by
  obtain ⟨r, rfl⟩ := Nat.exists_eq_add_of_lt hq
  have hsplit : (List.range (q + r + 1)).flatMap f =
      (List.range q).flatMap f ++ (f q ++ ((List.range r).map fun i => q + (1 + i)).flatMap f) := by
    rw [Nat.add_assoc, Nat.add_comm r 1, List.range_add, List.range_add, List.flatMap_append, List.map_append,
      List.flatMap_append, List.map_map]
    simp [Function.comp_def]
  rw [hsplit, ← List.drop_drop, List.drop_left' (flatMap_range_length f q hf),
    List.drop_append_of_le_length (by rw [hf]; omega), List.take_append_of_le_length (by rw [List.length_drop, hf]; omega)]

/-! ### The fields of the layout -/

theorem HostQ.layoutBytes_length (k : HostQ) : k.layoutBytes.length = 64 := by
  simp [HostQ.layoutBytes, leBytes_length]

/-- The base, TAIL and HEAD of a queue in its 64 bytes. -/
theorem HostQ.layoutBytes_fields (k : HostQ) :
    (k.layoutBytes.drop 0).take 8 = leBytes 8 k.qbase.toNat ∧
    (k.layoutBytes.drop 16).take 8 = leBytes 8 k.tail.toNat ∧
    (k.layoutBytes.drop 24).take 8 = leBytes 8 k.head.toNat := by
  refine ⟨?_, ?_, ?_⟩ <;> simp [HostQ.layoutBytes, List.drop_append, List.drop_of_length_le, leBytes_length]

/-- The 36,928 bytes are the head, 64 queues and 256 contexts. -/
theorem State.layoutBytes_length (s : State) : s.layoutBytes.length = 36928 := by
  rw [State.layoutBytes, List.length_append, List.length_append, leBytes_length,
    flatMap_range_length _ 64 fun q => HostQ.layoutBytes_length _,
    flatMap_range_length _ 256 fun c => flatMap_range_length _ 16 fun i => leBytes_length 8 _]

theorem State.layoutBytes_head (s : State) :
    (s.layoutBytes.drop 0).take 8 = leBytes 8 (layoutMagic + layoutVersion * 2 ^ 32 + 64 * 2 ^ 40) := by
  rw [State.layoutBytes, List.append_assoc, List.drop_zero, List.take_append_of_le_length (by simp [leBytes_length])]
  exact leBytes_take 8 56 _

/-- Where the layout holds a part of a queue. -/
theorem State.layoutBytes_queue (s : State) {q off len : Nat} (hq : q < 64) (h : off + len ≤ 64) :
    (s.layoutBytes.drop (64 + 64 * q + off)).take len = ((s.queue q).layoutBytes.drop off).take len := by
  rw [State.layoutBytes, List.append_assoc, Nat.add_assoc, ← List.drop_drop,
    List.drop_left' (leBytes_length ..), List.drop_append_of_le_length, List.take_append_of_le_length,
    flatMap_range_part (fun q => (s.queue q).layoutBytes) (fun i => HostQ.layoutBytes_length _) hq h]
  all_goals simp only [List.length_drop, flatMap_range_length _ 64 fun q => HostQ.layoutBytes_length (s.queue q)]
  all_goals omega

/-- What host memory holds after the layout has been written to it. -/
theorem State.layout_written (s : State) (bus : Nat) : let u := s.hostWrite bus s.layoutBytes; let a := hostAddr bus
    SameBytesOutside s u a 36928 ∧ memNat u a 8 = 0x51534C4C + 2 ^ 32 + 64 * 2 ^ 40 ∧
    ∀ q < 64, let k := s.queue q; memNat u (a + 64 + 64 * q) 8 = k.qbase.toNat ∧
      memNat u (a + 80 + 64 * q) 8 = k.tail.toNat ∧ memNat u (a + 88 + 64 * q) 8 = k.head.toNat := by
  intro u a
  have part : ∀ off, off + 8 ≤ 36928 → memNat u (a + off) 8 = leNat ((s.layoutBytes.drop off).take 8) := fun off h => by
    rw [memNat_eq_leNat, State.readRaw_hostWrite _ _ _ (by rw [State.layoutBytes_length]; omega)]
  have hout := s.hostWrite_outside bus s.layoutBytes
  rw [State.layoutBytes_length] at hout
  refine ⟨hout, ?_, fun q hq => ?_⟩
  · rw [← Nat.add_zero a, part 0 (by omega), State.layoutBytes_head, leNat_leBytes]; rfl
  · intro k
    obtain ⟨hbase, htail, hhead⟩ := k.layoutBytes_fields
    have field : ∀ off v, off + 8 ≤ 64 → v < 2 ^ 64 → (k.layoutBytes.drop off).take 8 = leBytes 8 v →
        memNat u (a + (64 + 64 * q + off)) 8 = v := fun off v ho hv he => by
      rw [part _ (by omega), s.layoutBytes_queue hq ho, he, leNat_leBytes, Nat.mod_eq_of_lt hv]
    refine ⟨?_, ?_, ?_⟩
    · rw [← field 0 _ (by omega) k.qbase.isLt hbase]; congr 1; omega
    · rw [← field 16 _ (by omega) (by have := k.tail.isLt; omega) htail]; congr 1; omega
    · rw [← field 24 _ (by omega) (by have := k.head.isLt; omega) hhead]; congr 1; omega

/-! ### Restoring (R465) -/

/-- A queue's ring is empty when TAIL and HEAD name one packet. -/
theorem HostQ.avail_eq_zero (k : HostQ) : k.avail = 0 ↔ k.tail.toNat % k.size = k.head.toNat % k.size := by
  have hpos : 0 < k.size := Nat.two_pow_pos _
  have ht := Nat.mod_lt k.tail.toNat hpos
  have hh := Nat.mod_lt k.head.toNat hpos
  unfold HostQ.avail HostQ.at_
  generalize k.tail.toNat % k.size = x at *
  generalize k.head.toNat % k.size = y at *
  constructor
  · intro h
    by_cases hxy : x + k.size - y < k.size
    · rw [Nat.mod_eq_of_lt hxy] at h; omega
    · rw [Nat.mod_eq_sub_mod (by omega), Nat.mod_eq_of_lt (by omega)] at h; omega
  · rintro rfl
    rw [Nat.add_sub_cancel_left, Nat.mod_self]

theorem HostQ.ofLayout_fields {k : HostQ} {bs : List Byte} (hk : k = HostQ.ofLayout bs) :
    k.qbase = BitVec.ofNat 64 (fieldAt bs 0 8) ∧ k.enable = (fieldAt bs 8 8 % 2 == 1) ∧
    k.tail = BitVec.ofNat 16 (fieldAt bs 16 8) ∧ k.head = BitVec.ofNat 16 (fieldAt bs 24 8) ∧
    k.szlog2 = BitVec.ofNat 4 (fieldAt bs 8 8 / 2 ^ 32) ∧ k.st = k.restoredState (fieldAt bs 32 8 % 8) :=
  hk ▸ ⟨rfl, rfl, rfl, rfl, rfl, rfl⟩

/-- What a queue restored from 64 bytes of memory is. -/
theorem HostQ.ofLayout_readRaw (s : State) (f : Nat) : let k := HostQ.ofLayout (s.readRaw f 64)
    k.qbase.toNat = memNat s f 8 ∧ k.enable = decide ((s.byte (f + 8)).toNat % 2 = 1) ∧ k.tail.toNat = memNat s (f + 16) 2 ∧
    k.head.toNat = memNat s (f + 24) 2 ∧
    k.st = (if (s.byte (f + 32)).toNat % 8 = 4 then .error else if (s.byte (f + 8)).toNat % 2 = 0 then .stopped
      else if memNat s (f + 16) 2 % 2 ^ ((s.byte (f + 12)).toNat % 16) = memNat s (f + 24) 2 % 2 ^ ((s.byte (f + 12)).toNat % 16)
        then .idle else .running) := by
  intro k
  obtain ⟨hbase, hen, htail, hhead, hszlog2, hst⟩ := HostQ.ofLayout_fields (k := k) rfl
  have hfield : ∀ off, off + 8 ≤ 64 → fieldAt (s.readRaw f 64) off 8 = memNat s (f + off) 8 := fun off h => fieldAt_readRaw s f h
  have hsz : memNat s (f + 8) 8 / 2 ^ 32 = memNat s (f + 12) 4 := memNat_div s (f + 8) 4 4
  rw [hfield _ (by omega), memNat_mod_byte s _ 7 (by decide)] at hen hst
  rw [hfield _ (by omega)] at hbase htail hhead hszlog2
  rw [hsz] at hszlog2
  have htail' : k.tail.toNat = memNat s (f + 16) 2 := by
    rw [htail, BitVec.toNat_ofNat]; exact memNat_mod s (f + 16) 2 6
  have hhead' : k.head.toNat = memNat s (f + 24) 2 := by
    rw [hhead, BitVec.toNat_ofNat]; exact memNat_mod s (f + 24) 2 6
  have hsize : k.size = 2 ^ ((s.byte (f + 12)).toNat % 16) := by
    rw [HostQ.size, hszlog2, BitVec.toNat_ofNat, memNat_mod_byte s (f + 12) 3 (by decide)]
  have hempty := k.avail_eq_zero
  rw [htail', hhead', hsize] at hempty
  refine ⟨?_, hen, htail', hhead', ?_⟩
  · rw [hbase, BitVec.toNat_ofNat]; exact Nat.mod_eq_of_lt (memNat_lt s f 8)
  · rw [hst, HostQ.restoredState, hen]
    refine if_congr Iff.rfl rfl (if_congr ?_ rfl (if_congr hempty rfl rfl))
    simp

/-- Queues replaced one after another, each by what memory holds for it: nothing else changes. -/
theorem State.foldl_modQueue (g : State → Nat → HostQ) (hg : ∀ s ks q, g { s with queues := ks } q = g s q) (s : State)
    (n : Nat) : ∃ ks, (List.range n).foldl (fun (s : State) q => s.modQueue q fun _ => g s q) s = { s with queues := ks } ∧
      ∀ q < n, ks.get {} q = g s q := by
  induction n with
  | zero => exact ⟨_, rfl, fun q hq => absurd hq (Nat.not_lt_zero q)⟩
  | succ n ih =>
    obtain ⟨ks, he, hq⟩ := ih
    rw [List.range_succ, List.foldl_append, he]
    refine ⟨ks.set n (g { s with queues := ks } n), rfl, fun q hlt => ?_⟩
    rw [hg]
    by_cases hqn : q = n
    · rw [hqn, SMap.get_set_same]
    · rw [SMap.get_set_ne _ _ _ hqn, hq q (by omega)]

theorem State.foldl_setCtx (g : State → Nat → Ctx) (l : List Nat) (s : State) :
    ∃ cs, l.foldl (fun (s : State) c => s.setCtx c (g s c)) s = { s with ctxs := cs } := by
  induction l generalizing s with
  | nil => exact ⟨_, rfl⟩
  | cons c l ih =>
    obtain ⟨cs, he⟩ := ih (s.setCtx c (g s c))
    exact ⟨cs, he⟩

theorem State.layout_version (s : State) (bus : Nat) :
    fieldAt (s.hostRead bus 64) 4 1 = (s.byte (hostAddr bus + 4)).toNat := by
  rw [State.hostRead, fieldAt_readRaw s _ (by omega), memNat_succ]
  simp [memNat]

/-- A layout of a version that this firmware knows: every queue is its own record, and only queues and contexts
change. -/
theorem State.restoreLayout_known {s : State} {bus : Nat} (h : (s.byte (hostAddr bus + 4)).toNat ≤ 1) :
    ∃ ks cs, s.restoreLayout bus = some { s with queues := ks, ctxs := cs } ∧
      ∀ q < 64, ks.get {} q = HostQ.ofLayout (s.readRaw (hostAddr bus + 64 + 64 * q) 64) := by
  have hver : ¬ layoutVersion < fieldAt (s.hostRead bus 64) 4 1 := by
    rw [State.layout_version]; exact Nat.not_lt.mpr h
  obtain ⟨ks, hks, hq⟩ := State.foldl_modQueue (fun s q => HostQ.ofLayout (s.hostRead (bus + 64 + 64 * q) 64))
    (fun s ks q => congrArg HostQ.ofLayout (State.readRaw_congr fun _ _ => rfl)) s 64
  obtain ⟨cs, hcs⟩ := State.foldl_setCtx (fun s c => Ctx.ofLayout (s.hostRead (bus + 4160 + 128 * c) 128)) (List.range 256)
    { s with queues := ks }
  refine ⟨ks, cs, ?_, fun q hlt => ?_⟩
  · rw [State.restoreLayout, if_neg hver]
    dsimp only
    rw [hks, hcs]
  · rw [hq q hlt, State.hostRead, hostAddr_add, hostAddr_add]

/-- A layout of a higher version is not restored. -/
theorem State.restoreLayout_unknown {s : State} {bus : Nat} (h : 1 < (s.byte (hostAddr bus + 4)).toNat) :
    s.restoreLayout bus = none := by
  have hver : layoutVersion < fieldAt (s.hostRead bus 64) 4 1 := by rw [State.layout_version]; exact h
  rw [State.restoreLayout, if_pos hver]

end Sys2Proof.Machine
end


section
/-! SUPPORT. UPDATE and the firmware reset, as O57 states them (R459, R464, R465). -/

namespace Sys2Proof.Machine

open Sys2Proof.Claims

theorem exec_update (s : State) (h : s.mgmt.st = .ready ∨ s.mgmt.st = .recovery) : exec .update s = .next s.startUpdate := by
  show execUpdate s = _
  rcases h with h | h <;> simp [execUpdate, h]

theorem exec_update_ignored (s : State) (h : s.mgmt.st = .updating ∨ s.mgmt.st = .fatal) : exec .update s = .next s := by
  show execUpdate s = _
  rcases h with h | h <;> simp [execUpdate, h]

/-- UPDATING has the reset performed; otherwise an accepted UPDATE goes on. -/
theorem exec_firmwareReset (ok : Bool) (lanes : List (Nat × Nat)) (s : State) :
    exec (.firmwareReset ok lanes) s = .next (if s.mgmt.st = .updating then s.firmwareReset ok lanes
      else if s.mgmt.updating then s.updateGoes else s) := rfl

@[simp] theorem State.mgmtResult_mgmt (s : State) (n : Nat) :
    (s.mgmtResult n).mgmt = { s.mgmt with err := BitVec.ofNat 8 n, updating := false } := rfl
@[simp] theorem State.mgmtResult_msix (s : State) (n : Nat) : (s.mgmtResult n).msix = s.msix ++ [s.mgmt.vec] := rfl
@[simp] theorem State.mgmtResult_mem (s : State) (n : Nat) : (s.mgmtResult n).mem = s.mem := rfl

/-! ### Steps 3 and 4 of UPDATE (R464) -/

theorem State.packetsDone_iff (s : State) : s.packetsDone = true ↔ ∀ e ∈ s.queues, e.2.started = [] := by
  simp [State.packetsDone]

theorem State.kernelHeld_iff (s : State) :
    (s.ctxs.any fun e => e.2.kst != .free) = true ↔ ¬ ∀ e ∈ s.ctxs, e.2.kst = .free := by simp

theorem State.updateGoes_waits {s : State} (h : ¬ ∀ e ∈ s.queues, e.2.started = []) : s.updateGoes = s := by
  rw [State.updateGoes, if_pos]
  rwa [Bool.not_eq_true', ← Bool.not_eq_true, State.packetsDone_iff]

theorem State.updateGoes_refuses {s : State} (h : ∀ e ∈ s.queues, e.2.started = []) (hk : ¬ ∀ e ∈ s.ctxs, e.2.kst = .free) :
    s.updateGoes = s.mgmtResult 3 := by
  rw [State.updateGoes, s.packetsDone_iff.mpr h, if_neg (by decide), if_pos (s.kernelHeld_iff.mpr hk)]

theorem State.updateGoes_writes {s : State} (h : ∀ e ∈ s.queues, e.2.started = []) (hk : ∀ e ∈ s.ctxs, e.2.kst = .free) :
    s.updateGoes.mgmt =
      { s.mgmt with st := .updating, updating := false, flash := some s.updateImage, layout := some s.mgmt.arg2 } ∧
    s.updateGoes.mem = (s.hostWrite s.mgmt.arg2.toNat s.layoutBytes).mem := by
  rw [State.updateGoes, s.packetsDone_iff.mpr h, if_neg (by decide), if_neg fun he => s.kernelHeld_iff.mp he hk]
  simp only [State.hostWrite_mgmt]
  exact ⟨trivial, trivial⟩

/-- Where the queues are saved once no packet and no kernel is in the way. -/
theorem State.updateGoes_saves {s : State} (h : ∀ e ∈ s.queues, e.2.started = []) (hk : ∀ e ∈ s.ctxs, e.2.kst = .free) :
    let u := s.updateGoes; let a := hostAddr s.mgmt.arg2.toNat
    SameBytesOutside s u a 36928 ∧ memNat u a 8 = 0x51534C4C + 2 ^ 32 + 64 * 2 ^ 40 ∧
    ∀ q < 64, let k := s.queue q; memNat u (a + 64 + 64 * q) 8 = k.qbase.toNat ∧
      memNat u (a + 80 + 64 * q) 8 = k.tail.toNat ∧ memNat u (a + 88 + 64 * q) 8 = k.head.toNat := by
  obtain ⟨-, hmem⟩ := State.updateGoes_writes h hk
  obtain ⟨hout, hhead, hqueues⟩ := s.layout_written s.mgmt.arg2.toNat
  have hnum := memNat_of_mem hmem
  refine ⟨fun c hc => (State.byte_of_mem hmem c).trans (hout c hc), (hnum _ _).trans hhead, fun q hq => ?_⟩
  rw [hnum, hnum, hnum]
  exact hqueues q hq

/-! ### The reset (R459, R465) -/

/-- A firmware reset that boots to READY keeps the link to the host and restores the layout, and is in RECOVERY if it
cannot. -/
theorem State.firmwareReset_of_ready {s r : State} {ok : Bool} {lanes : List (Nat × Nat)} {a : Word}
    (hready : ((s.cleared true).booted ok lanes).mgmt.st = .ready) (hl : s.mgmt.layout = some a)
    (hr : r = ((s.cleared true).booted ok lanes).modLink 3088 fun _ => s.link 3088) :
    s.firmwareReset ok lanes = (r.restoreLayout a.toNat).elim { r with mgmt := { r.mgmt with st := .recovery } }
      fun u => { u with mgmt := { u.mgmt with layout := some a } } := by
  have hst : r.mgmt.st = .ready := hr ▸ hready
  have hne : ¬ ((s.cleared true).booted ok lanes).mgmt.st = .recovery := by rw [hready]; decide
  rw [State.firmwareReset]
  dsimp only
  rw [if_neg hne, ← hr, hl, hst]
  dsimp only
  cases r.restoreLayout a.toNat <;> rfl

/-- HBM and host memory are kept by a firmware reset, and nothing else (R459). -/
theorem State.byte_firmwareBoot (s : State) (ok : Bool) (lanes : List (Nat × Nat)) :
    let r := (s.cleared true).booted ok lanes
    (∀ pa, pa < 2 ^ 40 ∨ 2 ^ 64 ≤ pa → r.byte pa = s.byte pa) ∧ ∀ pa, 2 ^ 40 ≤ pa → pa < 2 ^ 64 → r.byte pa = 0 := by
  refine ⟨fun pa hpa => ?_, fun pa hlo hhi => ?_⟩
  · exact (s.resets_byte true ok lanes pa).2 (by simp [isHost, isHbm]; omega) (sliceOf_outside hpa)
  · exact (s.resets_byte true ok lanes pa).1 (by simp [isHost, isHbm]; omega)

/-- What a firmware reset that boots to READY leaves (R459, R465). -/
theorem State.firmwareReset_restores {s : State} {lanes : List (Nat × Nat)} {a : Word} (hl : s.mgmt.layout = some a)
    (hacc : Config.firmwareAccepts s.mgmt.image = true) (hlanes : ∀ l < 3072, lanesAt lanes l ≠ 0) :
    let u := s.firmwareReset true lanes; let b := hostAddr a.toNat
    (∀ pa, u.byte pa = ((s.cleared true).booted true lanes).byte pa) ∧ u.link 3088 = s.link 3088 ∧ u.strands = [] ∧
    (1 < (s.byte (b + 4)).toNat → u.mgmt.st = .recovery) ∧
    ((s.byte (b + 4)).toNat ≤ 1 → u.mgmt.st = .ready ∧
      ∀ q < 64, u.queue q = HostQ.ofLayout (s.readRaw (b + 64 + 64 * q) 64)) := by
  intro u b
  obtain ⟨-, -, -, hready⟩ := (s.cleared_booted true true lanes).2.2 hacc rfl
  have hst := (hready hlanes).1
  have hstrands := (s.resets_cleared true true lanes).strands
  obtain ⟨hkept, -⟩ := s.byte_firmwareBoot true lanes
  have hu : u = _ := State.firmwareReset_of_ready hst hl rfl
  generalize (s.cleared true).booted true lanes = c at hst hstrands hkept hu
  let r := c.modLink 3088 fun _ => s.link 3088
  have hlink : r.link 3088 = s.link 3088 := SMap.get_set_same _ _ _ _
  have hver : r.byte (b + 4) = s.byte (b + 4) := hkept _ (.inr (by simp only [b, hostAddr]; omega))
  rcases Nat.lt_or_ge 1 (s.byte (b + 4)).toNat with hnew | hold
  · rw [State.restoreLayout_unknown (by rw [hver]; exact hnew)] at hu
    rw [hu]
    exact ⟨fun _ => rfl, hlink, hstrands, fun _ => rfl, fun h => absurd hnew (Nat.not_lt.mpr h)⟩
  · obtain ⟨ks, cs, hsome, hq⟩ := State.restoreLayout_known (s := r) (bus := a.toNat) (by rw [hver]; exact hold)
    rw [hsome] at hu
    rw [hu]
    refine ⟨fun _ => rfl, hlink, hstrands, fun h => absurd h (Nat.not_lt.mpr hold), fun _ => ⟨hst, fun q hlt => ?_⟩⟩
    refine (hq q hlt).trans (congrArg HostQ.ofLayout (State.readRaw_congr fun i _ => ?_))
    exact hkept _ (.inr (by simp only [hostAddr]; omega))

/-! ### The part of O57 about UPDATE and the firmware reset -/

theorem updatesResetTheFirmware : UpdatesResetTheFirmware := by
  intro s ok lanes m at_ image idle free ends goes
  let t : State := { s with mgmt := { m with updating := true } }
  have ended : ∀ i n, exec i s = .next (s.mgmtResult n) ∨ exec i s = .next (t.mgmtResult n) → ends i n := by
    rintro i n (he | he) <;> exact ⟨_, he, rfl, rfl, rfl⟩
  have gone : ∀ i, exec i s = .next t.updateGoes → goes i := by
    intro i he
    refine ⟨fun hidle => ?_, fun hidle hfree => ?_, fun hidle hfree => ?_⟩
    · rw [State.updateGoes_waits (s := t) hidle] at he
      exact ⟨_, he, rfl, rfl⟩
    · rw [State.updateGoes_refuses (s := t) hidle hfree] at he
      exact ended i 3 (.inr he)
    · have himage : t.updateImage = image := State.readRaw_congr fun _ _ => rfl
      have hmgmt := (State.updateGoes_writes (s := t) hidle hfree).1
      rw [himage] at hmgmt
      exact ⟨_, he, hmgmt, State.updateGoes_saves (s := t) hidle hfree⟩
  have ht : m.updating = true → t = s := fun h =>
    show ({ s with mgmt := { m with updating := true } } : State) = s by rw [← h]
  have himg : s.updateImage = image := rfl
  refine ⟨fun hst => ⟨fun hup => ?_, fun hup halign => ?_, fun hup halign hacc => ?_, fun hup halign hacc => ?_⟩,
    exec_update_ignored s, fun hst hup => ?_, fun hst hup => gone _ ?_, fun a hst hl hacc hok hlanes => ?_⟩
  · refine ⟨_, exec_update s hst, ?_⟩
    rw [State.startUpdate, if_pos hup]
    exact ⟨rfl, rfl⟩
  · refine ended _ 4 (.inl ?_)
    rw [exec_update s hst, State.startUpdate, if_neg (Bool.eq_false_iff.mp hup), if_pos halign]
  · refine ended _ 2 (.inl ?_)
    rw [exec_update s hst, State.startUpdate, if_neg (Bool.eq_false_iff.mp hup), if_neg (not_not.mpr halign), if_pos (by rw [himg, hacc]; rfl)]
  · refine gone _ ?_
    rw [exec_update s hst, State.startUpdate, if_neg (Bool.eq_false_iff.mp hup), if_neg (not_not.mpr halign), if_neg (by rw [himg, hacc]; decide)]
  · rw [exec_firmwareReset, if_neg hst, if_neg (Bool.eq_false_iff.mp hup)]
  · rw [exec_firmwareReset, if_neg hst, if_pos hup, ht hup]
  · subst hok
    obtain ⟨hbytes, hlink, hstrands, hnew, hknown⟩ := State.firmwareReset_restores hl hacc hlanes
    obtain ⟨hkept, hcleared⟩ := s.byte_firmwareBoot true lanes
    refine ⟨s.firmwareReset true lanes, by rw [exec_firmwareReset, if_pos hst], fun pa h => ?_, fun pa h h' => ?_, hlink,
      fun n => ?_, hnew, fun h => ?_⟩
    · rw [hbytes, hkept pa h]
    · rw [hbytes, hcleared pa h h']
    · rw [State.strand, hstrands]; rfl
    · refine ⟨(hknown h).1, fun q hq => ?_⟩
      rw [(hknown h).2 q hq]
      exact HostQ.ofLayout_readRaw s _

end Sys2Proof.Machine
end


section
/-! SUPPORT. Power and attestation, as O57 states them (R466 to R468). -/

namespace Sys2Proof.Machine

open Sys2Proof.Claims

/-! ### Power (R467) -/

/-- The state after a period, before a temperature can be fatal. -/
def State.afterPeriod (s : State) (watts amps peak : Nat) (temps : List Nat) : State :=
  { s with mgmt := { s.mgmt with
      thr := BitVec.ofNat 7 (if temps.any fun t => decide (105 * 16 < t) then 8
        else nextThr s.mgmt.thr.toNat s.mgmt.capw.toNat watts peak),
      watt := BitVec.ofNat 13 watts, amps := BitVec.ofNat 16 amps, temps := temps.map (BitVec.ofNat 16) } }

theorem exec_powerPeriod {s : State} (h : s.mgmt.st ≠ .booting) (watts amps peak : Nat) (temps : List Nat) :
    exec (.powerPeriod watts amps peak temps) s = .next (if temps.any fun t => decide (115 * 16 < t)
      then (s.afterPeriod watts amps peak temps).fatal 4 else s.afterPeriod watts amps peak temps) := by
  show execPowerPeriod watts amps peak temps s = _
  rw [execPowerPeriod, if_neg h]
  rfl

theorem any_hotter_iff (temps : List Nat) (k : Nat) :
    (temps.any fun t => decide (k < t)) = true ↔ ∃ t ∈ temps, k < t := by simp

/-! ### The digests (R468) -/

theorem natBytes_length (n v : Nat) : (natBytes n v).length = n := by
  induction n generalizing v with
  | zero => rfl
  | succ n ih => rw [natBytes, List.length_cons, ih]

theorem keccakRound_length (a : List Nat) (rc : Nat) : (keccakRound a rc).length = 25 := by
  simp only [keccakRound, List.length_map, List.length_range]

theorem keccakF_length {a : List Nat} (h : a.length = 25) : (keccakF a).length = 25 := by
  unfold keccakF
  exact List.foldlRecOn (motive := fun a => a.length = 25) keccakRc keccakRound h fun b _ rc _ => keccakRound_length b rc

theorem sha3Absorb_length (n : Nat) {a : List Nat} (m : List Nat) (h : a.length = 25) : (sha3Absorb n a m).length = 25 := by
  induction n generalizing a m with
  | zero => exact h
  | succ n ih => exact ih _ (keccakF_length (by simp only [List.length_map, List.length_range]))

theorem digest_length (bs : List Byte) : (digest bs).length = 64 := by
  have hlanes : ∀ l : List Nat, 8 ≤ l.length → ((l.take 8).map (natBytes 8)).flatten.length = 64 := fun l hl => by
    simp [List.length_flatten, Function.comp_def, natBytes_length, Nat.min_eq_left hl]
  rw [digest, List.length_map, sha3_512]
  exact hlanes _ (by rw [sha3Absorb_length _ _ List.length_replicate]; decide)

/-! ### The report (R468) -/

/-- The three digests of a report. -/
def State.reportDigests (s : State) : List Byte :=
  digest s.mgmt.image ++ digest (tileMap s.fuses) ++ digest (Config.capabilityList s.fuses)

theorem State.reportDigests_length (s : State) : s.reportDigests.length = 192 := by
  simp only [State.reportDigests, List.length_append, digest_length]

theorem padTo_length {n : Nat} {bs : List Byte} (h : bs.length ≤ n) : (padTo n bs).length = n := by
  rw [padTo, List.length_append, List.length_replicate]; omega

/-- A report over 64 bytes is the nonce, the digests, and 7,219 bytes of key and signature. -/
theorem State.report_eq (s : State) (nonce : List Byte) : ∃ sig, sig.length = 7219 ∧
    s.report nonce = nonce ++ (s.reportDigests ++ sig) := by
  let body := nonce ++ digest s.mgmt.image ++ digest (tileMap s.fuses) ++ digest (Config.capabilityList s.fuses)
  refine ⟨padTo 2592 (Config.identityKey.take 2592) ++ padTo 4627 ((Config.identitySign (digest body)).take 4627), ?_, ?_⟩
  · rw [List.length_append, padTo_length (List.length_take_le ..), padTo_length (List.length_take_le ..)]
  · simp only [State.report, State.reportDigests, body, List.append_assoc]

/-- What host memory holds after a report over a nonce of 64 bytes has been written to it. -/
theorem State.report_written (s : State) (bus : Nat) {nonce : List Byte} (h : nonce.length = 64) :
    let u := s.hostWrite bus (s.report nonce); let a := hostAddr bus
    SameBytesOutside s u a 7475 ∧ u.readRaw a 64 = nonce ∧ u.readRaw (a + 64) 192 = s.reportDigests := by
  obtain ⟨sig, hsig, he⟩ := s.report_eq nonce
  have hd := s.reportDigests_length
  have hlen : (s.report nonce).length = 7475 := by rw [he, List.length_append, List.length_append, h, hd, hsig]
  have hout := s.hostWrite_outside bus (s.report nonce)
  rw [hlen] at hout
  refine ⟨hout, ?_, ?_⟩
  · have := s.readRaw_hostWrite bus (s.report nonce) (off := 0) (n := 64) (by omega)
    rw [Nat.add_zero] at this
    rw [this, he, List.drop_zero, List.take_left' h]
  · rw [s.readRaw_hostWrite bus (s.report nonce) (by omega), he, List.drop_left' h, List.take_left' hd]

theorem exec_attest_ignored (s : State) (h : s.mgmt.st ≠ .ready) : exec .attest s = .next s := by
  show execAttest s = _
  rw [execAttest, if_pos h]

theorem exec_attest_busy (s : State) (h : s.mgmt.st = .ready) (hu : s.mgmt.updating = true) :
    exec .attest s = .next { s with mgmt := { s.mgmt with err := 1 } } := by
  show execAttest s = _
  rw [execAttest, if_neg (not_not.mpr h), if_pos hu]

theorem exec_attest (s : State) (h : s.mgmt.st = .ready) (hu : s.mgmt.updating = false) :
    exec .attest s =
      .next ((s.hostWrite s.mgmt.arg1.toNat (s.report (s.hostRead s.mgmt.arg0.toNat 64))).mgmtResult 0) := by
  show execAttest s = _
  rw [execAttest, if_neg (not_not.mpr h), hu, if_neg (by decide)]

/-- The part of O57 about power and attestation. -/
theorem powerAndAttestation : PowerAndAttestation := by
  intro s m
  refine ⟨?_, exec_attest_ignored s, fun hst hup => ⟨_, exec_attest_busy s hst hup, rfl, rfl⟩, ?_⟩
  · intro watts amps peak temps hst n hot trip v
    have he := exec_powerPeriod hst watts amps peak temps
    have hhot : hot → (s.afterPeriod watts amps peak temps).mgmt.thr = 8 := fun h => by
      rw [State.afterPeriod]; dsimp only; rw [if_pos ((any_hotter_iff _ _).mpr h)]; rfl
    have hcool : ¬ hot → (s.afterPeriod watts amps peak temps).mgmt.thr = BitVec.ofNat 7 v := fun h => by
      rw [State.afterPeriod]; dsimp only; rw [if_neg fun h' => h ((any_hotter_iff _ _).mp h')]; rfl
    by_cases ht : trip
    · rw [if_pos ((any_hotter_iff _ _).mpr ht)] at he
      exact ⟨_, he, rfl, rfl, hhot, hcool, rfl, rfl, rfl, fun h => absurd ht h, fun _ => ⟨rfl, rfl, rfl⟩⟩
    · rw [if_neg fun h' => ht ((any_hotter_iff _ _).mp h')] at he
      exact ⟨_, he, rfl, rfl, hhot, hcool, rfl, rfl, rfl, fun _ => ⟨rfl, rfl⟩, fun h => absurd h ht⟩
  · intro hst hup at_ nonce
    have he := exec_attest s hst hup
    obtain ⟨hout, hnonce, hdigests⟩ := s.report_written m.arg1.toNat (s.readRaw_length nonce 64)
    have hmgmt := s.hostWrite_mgmt m.arg1.toNat (s.report (s.readRaw nonce 64))
    have hmsix := s.hostWrite_msix m.arg1.toNat (s.report (s.readRaw nonce 64))
    change exec .attest s = .next ((s.hostWrite m.arg1.toNat (s.report (s.readRaw nonce 64))).mgmtResult 0) at he
    generalize s.hostWrite m.arg1.toNat (s.report (s.readRaw nonce 64)) = w at he hout hnonce hdigests hmgmt hmsix
    have hbyte : ∀ c, (w.mgmtResult 0).byte c = w.byte c := fun _ => rfl
    refine ⟨_, he, ?_, ?_, hout, fun i hi => ?_, (State.readRaw_congr fun _ _ => hbyte _).trans hdigests⟩
    · rw [State.mgmtResult_mgmt, hmgmt, ← hup]; rfl
    · rw [State.mgmtResult_msix, hmgmt, hmsix]
    · rw [hbyte]
      exact State.readRaw_eq_iff.mp hnonce i hi

end Sys2Proof.Machine
end


section
/-! SUPPORT. The host's writes to registers and soft errors, as O57 states them (R3, R83, R163, R260, R331, R374, R396,
R433, R434, R439, R448, R452, R457, R463). -/

namespace Sys2Proof.Machine

open Sys2Proof.Claims

/-! ### A part that has been changed -/

@[simp] theorem State.queue_modQueue (s : State) (q : Nat) (f : HostQ → HostQ) : (s.modQueue q f).queue q = f (s.queue q) :=
  SMap.get_set_same _ _ _ _
@[simp] theorem State.ctx_modCtx (s : State) (c : Nat) (f : Ctx → Ctx) : (s.modCtx c f).ctx c = f (s.ctx c) :=
  SMap.get_set_same _ _ _ _
@[simp] theorem State.lender_modLender (s : State) (i : Nat) (f : Lender → Lender) :
    (s.modLender i f).lender i = f (s.lender i) := SMap.get_set_same _ _ _ _
@[simp] theorem State.borrower_modBorrower (s : State) (i : Nat) (f : Borrower → Borrower) :
    (s.modBorrower i f).borrower i = f (s.borrower i) := SMap.get_set_same _ _ _ _
@[simp] theorem State.spinel_modSpinel (s : State) (k : Nat) (f : Spinel → Spinel) :
    (s.modSpinel k f).spinel k = f (s.spinel k) := SMap.get_set_same _ _ _ _
@[simp] theorem State.link_modLink (s : State) (l : Nat) (f : Link → Link) : (s.modLink l f).link l = f (s.link l) :=
  SMap.get_set_same _ _ _ _
@[simp] theorem State.gateway_modGateway (s : State) (i : Nat) (f : Gateway → Gateway) :
    (s.modGateway i f).gateway i = f (s.gateway i) := SMap.get_set_same _ _ _ _
@[simp] theorem State.tsr_modTsr (s : State) (i : Nat) (f : Tsr → Tsr) : (s.modTsr i f).tsr i = f (s.tsr i) :=
  SMap.get_set_same _ _ _ _
@[simp] theorem State.tile_modTile (s : State) (t : Nat) (f : Tile → Tile) : (s.modTile t f).tile t = f (s.tile t) :=
  SMap.get_set_same _ _ _ _

/-! ### Bits of a word written -/

theorem getLsbD_eq_decide (v : Word) (k : Nat) : v.getLsbD k = decide (v.toNat / 2 ^ k % 2 = 1) :=
  Nat.testBit_eq_decide_div_mod_eq

/-- A word without its two low bits. -/
theorem toNat_and_not_three (v : Word) : (v &&& ~~~3#64).toNat = v.toNat / 4 * 4 := by
  have h : v &&& ~~~3#64 = v >>> 2 <<< 2 := by
    refine BitVec.eq_of_getLsbD_eq fun i hi => ?_
    have h3 : (3 : Nat).testBit i = decide (i < 2) := Nat.testBit_two_pow_sub_one 2 i
    simp only [BitVec.getLsbD_and, BitVec.getLsbD_not, BitVec.getLsbD_shiftLeft, BitVec.getLsbD_ushiftRight,
      BitVec.getLsbD_ofNat, h3, hi, decide_true, Bool.true_and]
    by_cases hi2 : i < 2
    · simp [hi2]
    · simp [hi2, Nat.add_sub_cancel' (Nat.le_of_not_lt hi2)]
  rw [h, BitVec.toNat_shiftLeft, BitVec.toNat_ushiftRight, Nat.shiftRight_eq_div_pow, Nat.shiftLeft_eq]
  omega

/-! ### Which windows answer (R460, R464) -/

theorem State.windows_iff (s : State) : s.windows = true ↔ s.mgmt.st = .ready ∨ s.mgmt.st = .fatal := by
  unfold State.windows
  cases s.mgmt.st <;> decide

theorem State.mgmtWindow_iff (s : State) :
    s.mgmtWindow = true ↔ (s.mgmt.st = .ready ∨ s.mgmt.st = .fatal) ∨ s.mgmt.st = .recovery := by
  rw [State.mgmtWindow, Bool.or_eq_true, s.windows_iff, beq_iff_eq]

/-- The registers whose window answers only when the firmware runs: all but those of the management window, and no
place of host memory. -/
def HostReg.inWindow : HostReg → Bool
  | .fwarg _ | .mgmtvec | .pwrcap | .hostMem _ => false
  | _ => true

theorem exec_registerWrite {r : HostReg} (h : HostReg.inWindow r = true) (v : Word) (s : State) :
    exec (.registerWrite r v) s = .next (if s.windows then s.windowWrite r v else s) := by
  cases r <;> cases h <;> rfl

/-- A write to a register whose window does not answer does nothing. -/
theorem exec_registerWrite_closed {r : HostReg} (h : HostReg.inWindow r = true) (v : Word) {s : State}
    (hw : s.windows = false) : exec (.registerWrite r v) s = .next s := by
  rw [exec_registerWrite h, hw]; rfl

/-- What a write to a register of an open window reaches. -/
theorem reaches_registerWrite {r : HostReg} {v : Word} {s u : State} {P : State → Prop} (h : HostReg.inWindow r = true)
    (hw : s.windows = true) (he : s.windowWrite r v = u) (hs : u.strands = s.strands) (hp : P u) :
    Reaches (.registerWrite r v) s fun u => u.strands = s.strands ∧ P u := by
  refine ⟨u, ?_, hs, hp⟩
  rw [exec_registerWrite h, hw, if_pos rfl, he]

/-! ### The management window (R463) -/

theorem State.mgmtWrite_open {s : State} (h : s.mgmtWindow = true) (f : Mgmt → Mgmt) :
    s.mgmtWrite f = { s with mgmt := f s.mgmt } := if_pos h

theorem State.mgmtWrite_closed {s : State} (h : ¬ s.mgmtWindow = true) (f : Mgmt → Mgmt) : s.mgmtWrite f = s := if_neg h

theorem exec_write_fwarg (k : Nat) (v : Word) (s : State) :
    exec (.registerWrite (.fwarg k) v) s = .next (s.mgmtWrite fun m => m.writeArg k v) := rfl

theorem exec_write_mgmtvec (v : Word) (s : State) :
    exec (.registerWrite .mgmtvec v) s = .next (s.mgmtWrite fun m => { m with vec := BitVec.ofNat 16 v.toNat }) := rfl

theorem exec_write_pwrcap (v : Word) (s : State) :
    exec (.registerWrite .pwrcap v) s = .next (s.mgmtWrite fun m =>
      if 1000 ≤ v.toNat % 2 ^ 13 ∧ v.toNat % 2 ^ 13 ≤ 6000 then { m with capw := BitVec.ofNat 13 v.toNat } else m) := rfl

theorem exec_write_hostMem (bus : Nat) (v : Word) (s : State) :
    exec (.registerWrite (.hostMem bus) v) s = .next (s.hostWrite bus (leBytes 8 v.toNat)) := rfl

/-- A write to host memory is the word's 8 bytes there. -/
theorem reaches_write_hostMem (bus : Nat) (v : Word) (s : State) : Reaches (.registerWrite (.hostMem bus) v) s fun u =>
    u.strands = s.strands ∧ memNat u (hostAddr bus) 8 = v.toNat ∧ SameBytesOutside s u (hostAddr bus) 8 := by
  refine ⟨_, exec_write_hostMem bus v s, s.hostWrite_strands _ _, ?_, ?_⟩
  · have h := s.readRaw_hostWrite bus (leBytes 8 v.toNat) (off := 0) (n := 8) (by rw [leBytes_length])
    rw [Nat.add_zero, List.drop_zero, List.take_of_length_le (by rw [leBytes_length])] at h
    rw [memNat_eq_leNat, h, leNat_leBytes, Nat.mod_eq_of_lt v.isLt]
  · have h := s.hostWrite_outside bus (leBytes 8 v.toNat)
    rwa [leBytes_length] at h

/-- Every register of the management window, where that window answers. -/
theorem reaches_mgmtWrite {s : State} {v : Word} (h : s.mgmtWindow = true) :
    let sets := fun (r : HostReg) (m : Mgmt) => Reaches (.registerWrite r v) s fun u => u.strands = s.strands ∧ u.mgmt = m
    (∀ k, sets (.fwarg k) (s.mgmt.writeArg k v)) ∧ sets .mgmtvec { s.mgmt with vec := BitVec.ofNat 16 v.toNat } ∧
    sets .pwrcap (if 1000 ≤ v.toNat % 2 ^ 13 ∧ v.toNat % 2 ^ 13 ≤ 6000 then { s.mgmt with capw := BitVec.ofNat 13 v.toNat }
      else s.mgmt) := by
  refine ⟨fun k => ⟨_, exec_write_fwarg k v s, ?_⟩, ⟨_, exec_write_mgmtvec v s, ?_⟩, ⟨_, exec_write_pwrcap v s, ?_⟩⟩ <;>
    rw [State.mgmtWrite_open h] <;> exact ⟨rfl, rfl⟩

/-! ### Host queues (R260, R265) -/

/-- QCFG: VEC always, CTX and the size only while ENABLE = 0. -/
theorem HostQ.writeCfg_fields (k : HostQ) (v : Word) : let u := k.writeCfg v
    u.vec = BitVec.ofNat 16 (v.toNat / 2 ^ 16) ∧ u.enable = k.enable ∧
    (k.enable = true → u.ctx = k.ctx ∧ u.szlog2 = k.szlog2) ∧
    (k.enable = false → u.ctx = BitVec.ofNat 8 (v.toNat / 2 ^ 40) ∧ u.szlog2 = BitVec.ofNat 4 (v.toNat / 2 ^ 32)) := by
  cases h : k.enable <;> simp [HostQ.writeCfg, h]

/-! ### Context descriptors (R396) -/

theorem Ctx.mem_skewed (k : Ctx) (i : Nat) (v low : Word) : i ∈ (k.skewed i v low).skew ↔ v &&& low ≠ 0 := by
  by_cases h : v &&& low = 0
  · rw [Ctx.skewed, if_pos h]
    exact iff_of_false (by simp) (not_not.mpr h)
  · rw [Ctx.skewed, if_neg h]
    exact iff_of_true (List.mem_cons_self ..) h

/-- Word 2 while the context is FREE or CREATED, and after. -/
theorem Ctx.writeWord_two (k : Ctx) (v : Word) :
    k.writeWord 2 v = if k.st = .free ∨ k.st = .created then { k with ptroot := v &&& 0xFFFFE00000 } else k := by
  simp [Ctx.writeWord]

/-- Word 4 while the context is FREE or CREATED, and after. -/
theorem Ctx.writeWord_four (k : Ctx) (v : Word) : let x := k.writeWord 4 v; let free := k.st = .free ∨ k.st = .created
    x = { k with savebase := x.savebase, skew := x.skew } ∧
    x.savebase = (if free then v &&& 0xFFFFFFE00000 else k.savebase) ∧
    (4 ∈ x.skew ↔ if free then v &&& 0x1FFFFF ≠ 0 else 4 ∈ k.skew) := by
  have hx : k.writeWord 4 v = if k.st = .free ∨ k.st = .created
      then { k.skewed 4 v 0x1FFFFF with savebase := v &&& 0xFFFFFFE00000 } else k := by simp [Ctx.writeWord]
  dsimp only
  rw [hx]
  by_cases h : k.st = .free ∨ k.st = .created
  · simp only [if_pos h]
    exact ⟨rfl, trivial, k.mem_skewed 4 v 0x1FFFFF⟩
  · simp only [if_neg h]
    exact ⟨trivial, trivial, trivial⟩

/-! ### Leases (R433, R434) -/

theorem Lender.write_zero (l : Lender) (v : Word) : l.write 0 v = if l.st = .revoked then { l with
    peer := BitVec.ofNat 10 (v.toNat / 2 ^ 51), w := decide (v.toNat / 2 ^ 50 % 2 = 1),
    r := decide (v.toNat / 2 ^ 49 % 2 = 1) } else l := ite_not ..

theorem Lender.write_one (l : Lender) (v : Word) : l.write 1 v = if l.st = .revoked then { l with
    size := BitVec.ofNat 20 (v.toNat / 2 ^ 44), base := BitVec.ofNat 19 (v.toNat / 2 ^ 21) } else l := ite_not ..

theorem Borrower.write_zero (b : Borrower) (v : Word) : b.write 0 v = if b.st = .revoked then { b with
    peer := BitVec.ofNat 10 (v.toNat / 2 ^ 51), lidx := BitVec.ofNat 12 (v.toNat / 2 ^ 39),
    port := BitVec.ofNat 4 (v.toNat / 2 ^ 35), altport := BitVec.ofNat 4 (v.toNat / 2 ^ 31) } else b := ite_not ..

theorem Borrower.write_one (b : Borrower) (v : Word) : b.write 1 v = if b.st = .revoked then { b with
    size := BitVec.ofNat 20 (v.toNat / 2 ^ 44) } else b := ite_not ..

/-! ### Soft errors (R83, R163, R331) -/

/-- An error that cannot be corrected poisons its unit, and no other. -/
theorem State.strike_poisons (s : State) (pa : Nat) : let unit := pa / 8 * 8; let u := s.strike pa false
    u.mem = s.mem ∧ unit ∈ u.poison ∧ unit ∉ u.soft ∧ ∀ x, x ≠ unit → (x ∈ u.poison ↔ x ∈ s.poison) := by
  intro unit u
  have hp : u.poison = unit :: s.poison.filter fun x => !([unit].contains x) := rfl
  have hs : u.soft = s.soft.filter (· != unit) := rfl
  rw [hp, hs]
  exact ⟨rfl, List.mem_cons_self .., by simp, fun x hx => by simp [hx]⟩

/-- One that can be corrected waits in its unit to be read, where none has been found before. -/
theorem State.strike_correctable (s : State) (pa : Nat) : let unit := pa / 8 * 8
    (unit ∈ s.soft ∨ unit ∈ s.poison) ∧ s.strike pa true = s ∨ s.strike pa true = { s with soft := unit :: s.soft } := by
  intro unit
  rw [State.strike, if_pos rfl]
  split
  · next h => exact .inl ⟨by simpa using h, rfl⟩
  · exact .inr rfl

theorem State.strike_waits (s : State) (pa : Nat) : let unit := pa / 8 * 8; let u := s.strike pa true
    u.mem = s.mem ∧ u.poison = s.poison ∧ (unit ∉ s.poison → unit ∈ u.soft) := by
  obtain ⟨h, he⟩ | he := s.strike_correctable pa <;> dsimp only <;> rw [he]
  · exact ⟨rfl, rfl, fun hn => h.resolve_right hn⟩
  · exact ⟨rfl, rfl, fun _ => List.mem_cons_self ..⟩

theorem exec_softError_slice {t off : Nat} (ht : t < 768) (ho : off < 0x2F0800) (fixed : Bool) (s : State) :
    exec (.softError (.slice t off) fixed) s = .next (s.strike (sliceAddr t off) fixed) :=
  congrArg Host.Outcome.next (if_neg (by omega))

/-- The parity of element (`i`, `j`) broken. -/
def AccSlot.breakParity (a : AccSlot) (i j : Nat) : AccSlot :=
  { a with parity := (128 * i + j) :: a.parity.filter (· != 128 * i + j) }

theorem exec_softError_accumulator {t k i j : Nat} (ht : t < 768) (hk : k < 4) (hi : i < 128) (hj : j < 128) (fixed : Bool)
    (s : State) : exec (.softError (.accumulator t k i j) fixed) s = .next (s.modTile t fun x =>
      { x with slots := x.slots.set k ((x.slots.get {} k).breakParity i j) }) :=
  congrArg Host.Outcome.next (if_neg (by omega))

theorem exec_softError_loopSlot (t k : Nat) (s : State) :
    exec (.softError (.loopSlot t k) true) s = .next s ∧
      exec (.softError (.loopSlot t k) false) s = exec (.loopFault t k) s := ⟨rfl, rfl⟩

/-! ### The part of O57 about registers and soft errors -/

theorem registerWritesAndSoftErrors : RegisterWritesAndSoftErrors := by
  intro s v n opened w mg sets
  have hopen : opened → s.windows = true := s.windows_iff.mpr
  have hclosed : ¬ opened → s.windows = false := fun h => Bool.eq_false_iff.mpr fun hw => h (s.windows_iff.mp hw)
  refine ⟨fun bus => reaches_write_hostMem bus v s, fun hm => ?_, fun hm => ?_, fun hc i j => ?_, fun ho q hq => ?_,
    fun ho c hc => ?_, fun ho i hi => ?_, fun ho k hk => ?_, fun ho l hl => ?_, fun ho i hi => ?_, ?_, ?_,
    fun t k => exec_softError_loopSlot t k s⟩
  · obtain ⟨harg, hvec, hcap⟩ := reaches_mgmtWrite (v := v) (s.mgmtWindow_iff.mpr hm)
    exact ⟨harg 0, harg 1, harg 2, hvec, hcap⟩
  · have hw : ¬ s.mgmtWindow = true := fun h => hm (s.mgmtWindow_iff.mp h)
    refine ⟨(exec_write_pwrcap v s).trans ?_, (exec_write_mgmtvec v s).trans ?_, fun k => (exec_write_fwarg k v s).trans ?_⟩ <;>
      rw [State.mgmtWrite_closed hw]
  · have closed : ∀ {r}, HostReg.inWindow r = true → exec (w r) s = .next s := fun h =>
      exec_registerWrite_closed h v (hclosed hc)
    exact ⟨closed rfl, closed rfl, closed rfl, closed rfl, closed rfl, closed rfl, closed rfl, closed rfl, closed rfl⟩
  · intro k
    have hq' : ¬ 64 ≤ q := Nat.not_le.mpr hq
    refine ⟨reaches_registerWrite rfl (hopen ho) (if_neg hq') rfl ?_, reaches_registerWrite rfl (hopen ho) (if_neg hq') rfl ?_,
      reaches_registerWrite rfl (hopen ho) (if_neg hq') rfl ?_⟩ <;> rw [State.queue_modQueue]
    · exact k.writeCfg_fields v
    · split <;> rfl
  · intro k free
    have hc' : ¬ 256 ≤ c := Nat.not_le.mpr hc
    refine ⟨reaches_registerWrite rfl (hopen ho) (if_neg hc') rfl ?_, reaches_registerWrite rfl (hopen ho) (if_neg hc') rfl ?_,
      reaches_registerWrite rfl (hopen ho) (if_neg hc') rfl ?_, reaches_registerWrite rfl (hopen ho) (if_neg hc') rfl ?_⟩ <;>
      rw [State.ctx_modCtx]
    · rfl
    · exact k.writeWord_two v
    · exact k.writeWord_four v
    · rw [getLsbD_eq_decide]
  · intro l b
    have hi' : ¬ leaseCount ≤ i := Nat.not_le.mpr hi
    refine ⟨reaches_registerWrite rfl (hopen ho) (if_neg hi') rfl ?_, reaches_registerWrite rfl (hopen ho) (if_neg hi') rfl ?_,
      reaches_registerWrite rfl (hopen ho) (if_neg hi') rfl ?_, reaches_registerWrite rfl (hopen ho) (if_neg hi') rfl ?_⟩
    · rw [State.lender_modLender]; exact l.write_zero v
    · rw [State.lender_modLender]; exact l.write_one v
    · rw [State.borrower_modBorrower]; exact b.write_zero v
    · rw [State.borrower_modBorrower]; exact b.write_one v
  · intro lo hi x
    refine reaches_registerWrite rfl (hopen ho) (if_neg (Nat.not_le.mpr hk)) rfl ?_
    rw [State.spinel_modSpinel, Spinel.writeRfm, getLsbD_eq_decide]
    rfl
  · refine reaches_registerWrite rfl (hopen ho) (if_pos (decide_eq_true (by omega))) rfl ?_
    rw [State.link_modLink]
    exact ⟨rfl, rfl, rfl⟩
  · intro g
    have hi' : ¬ 2 ≤ i := Nat.not_le.mpr hi
    refine ⟨reaches_registerWrite rfl (hopen ho) (if_neg hi') rfl ?_, reaches_registerWrite rfl (hopen ho) (if_neg hi') rfl ?_,
      reaches_registerWrite rfl (hopen ho) (if_neg hi') rfl (State.tsr_modTsr ..)⟩ <;> rw [State.gateway_modGateway]
    · rfl
    · rw [Gateway.write]
      split
      · rfl
      · exact toNat_and_not_three v
  · intro t off fixed ht hoff unit
    refine ⟨_, exec_softError_slice ht hoff fixed s, ?_⟩
    cases fixed with
    | false =>
      obtain ⟨hmem, hin, hsoft, hothers⟩ := s.strike_poisons (sliceAddr t off)
      exact ⟨hmem, fun _ => ⟨hin, hsoft, hothers⟩, fun h => absurd h (by decide)⟩
    | true =>
      obtain ⟨hmem, hpoison, hwaits⟩ := s.strike_waits (sliceAddr t off)
      exact ⟨hmem, fun h => absurd h (by decide), fun _ => ⟨hpoison, hwaits⟩⟩
  · intro t k i j fixed ht hk hi hj
    refine ⟨_, exec_softError_accumulator ht hk hi hj fixed s, ?_⟩
    dsimp only
    rw [State.tile_modTile]
    dsimp only
    rw [SMap.get_set_same]
    exact ⟨List.mem_cons_self .., rfl⟩

/-- Settles O57: each of its four parts is a theorem above. -/
theorem resetsManagementAndRegisters : Obligations.ResetsManagementAndRegisters :=
  ⟨resetsAndFatalErrors, updatesResetTheFirmware, powerAndAttestation, registerWritesAndSoftErrors⟩

end Sys2Proof.Machine
end

section
/-! SUPPORT. Scalar FP32: what a form that sets flags comes to (R34, R145 to R148, R171). -/

namespace Sys2Proof.Machine

open Sys2Proof.Claims

theorem State.modMe_modMe (s : State) (f g : Strand → Strand) : (s.modMe f).modMe g = s.modMe fun st => g (f st) := by
  simp only [State.modMe, State.modStrand, State.setStrand, State.strand, SMap.get_set_same, SMap.set_set]

/-- A result with flags: STACK_LIMIT leaves the flags alone too (R34, R171). -/
theorem State.finish_putFlags (s : State) (d : GReg) (v : Word) (f : BitVec 5) :
    s.finish (s.putFlags d v f) =
      if s.me.spBad d v then s.raiseAtIssue s.cur .stackLimit v else s.completes (writeG (mergeFlags s.me f) d v) := by
  rw [State.putFlags, State.finish_putGAnd, State.modMe_modMe, State.goesOn_modMe]

/-- A scalar FP32 form that can issue writes its result and merges its flags. -/
theorem writesFlags_of_fpForm {i : Instr} {s : State} {g : List Nat} {d : GReg} {f : Strand → Word × BitVec 5}
    {r : Word × BitVec 5} (h : s.canIssue { g := g } = true) (hi : exec i s = s.fpForm i g d f) (hr : f s.me = r) :
    WritesFlags i s d r := by
  subst hr
  have he : exec i s = .next (s.finish (s.putFlags d (f s.me).1 (f s.me).2)) := by
    rw [hi, State.fpForm, State.issue_of_canIssue h]
  rw [State.finish_putFlags] at he
  constructor <;> intro hsp <;> rw [he, hsp] <;> rfl

/-- FCMP writes 1 or 0 by its condition (R147). -/
theorem writesFlags_fcmp {s : State} {d a b : GReg} (h : s.canIssue { g := [d, a, b] } = true) (c : FCond) :
    WritesFlags (.fcmp d a b c) s d (bitWord (fpCompare (FCond.number c) (s.me.fp32 a) (s.me.fp32 b)).1,
      (fpCompare (FCond.number c) (s.me.fp32 a) (s.me.fp32 b)).2) :=
  writesFlags_of_fpForm h (Eq.refl (execFcmp d a b c s)) rfl

/-- Settles O11: each instruction is a form whose result and flags are those of its table. -/
theorem scalarFloatResults : Obligations.ScalarFloatResults := by
  refine ⟨fun s d a b h => ⟨fun e he => ?_, fun e he => ?_⟩, fun s d a h => ⟨?_, ?_, fun src tgt => ?_⟩⟩
  · simp only [floatResults, List.mem_cons, List.not_mem_nil, or_false] at he
    obtain rfl | rfl | rfl | rfl | rfl | rfl := he
    · exact writesFlags_of_fpForm h (Eq.refl (execFadd d a b s)) rfl
    · exact writesFlags_of_fpForm h (Eq.refl (execFsub d a b s)) rfl
    · exact writesFlags_of_fpForm h (Eq.refl (execFmul d a b s)) rfl
    · exact writesFlags_of_fpForm h (Eq.refl (execFfma d a b s)) rfl
    · exact writesFlags_of_fpForm h (Eq.refl (execFmin d a b s)) rfl
    · exact writesFlags_of_fpForm h (Eq.refl (execFmax d a b s)) rfl
  · simp only [fcmpTable, List.mem_cons, List.not_mem_nil, or_false] at he
    obtain rfl | rfl | rfl | rfl | rfl := he <;> exact writesFlags_fcmp h _
  · exact writesFlags_of_fpForm h (Eq.refl (execFneg d a s)) rfl
  · exact writesFlags_of_fpForm h (Eq.refl (execFabs d a s)) rfl
  · exact writesFlags_of_fpForm h (Eq.refl (execFcvt d a src tgt s)) rfl

end Sys2Proof.Machine
end


section
/-! SUPPORT. The frame of the instructions on registers alone fails at the stored bit of p0 (R95). -/

namespace Sys2Proof.Machine

open Sys2Proof.Claims

/-- A running strand with 1 in g4, where PLOAD is about to issue; its stored predicates are all 0. -/
def ploadStrand : Strand := { phase := .running, g := (Vector.replicate 32 0).set 4 1 }

/-- The state whose strand 0 is `ploadStrand`. -/
def ploadState : State := { strands := [(0, ploadStrand)] }

/-- PLOAD stores the low byte of its register whole, bit 0 with it. -/
theorem exec_pload_ploadState : exec (.pload 4) ploadState = .next (ploadState.completes { ploadStrand with p := 1 }) := rfl

/-- Refutes O37: PLOAD of 1 sets the stored bit of p0, which is none of the predicates p1 to p7 that it names. -/
theorem not_registerInstructionsFrame : ¬ Obligations.RegisterInstructionsFrame := by
  intro h
  obtain ⟨-, -, -, -, -, -, -, hp, -⟩ := h (.pload 4) _ ploadState _ rfl exec_pload_ploadState
  exact absurd (hp 0 (by decide) (by decide)) (by decide)

end Sys2Proof.Machine
end


section
/-! SUPPORT. Elements of vector registers: what a packed register reads as, lane by lane, and which lanes a mask and a
run change (R29, R34, R176, R177). -/

namespace Sys2Proof.Machine

open Sys2Proof.Claims

/-! ### Types -/

theorem VType.lanes_pos (t : VType) : 0 < VType.lanes t := by cases t <;> decide

theorem VType.bits_pos (t : VType) : 0 < VType.bits t := by cases t <;> decide

theorem VType.bits_mul_lanes (t : VType) : VType.bits t * VType.lanes t = 512 := by cases t <;> decide

/-! ### Packing -/

/-- Element `j` of packed elements, each of `n` bits. -/
theorem packLanes_div_mod (n : Nat) (l : List Nat) (j : Nat) :
    packLanes n l / 2 ^ (n * j) % 2 ^ n = l.getD j 0 % 2 ^ n := by
  induction l generalizing j with
  | nil => simp [packLanes]
  | cons x r ih =>
    cases j with
    | zero => simp [packLanes]
    | succ j =>
      have hd : packLanes n (x :: r) / 2 ^ n = packLanes n r := by
        rw [packLanes, Nat.add_mul_div_left _ _ (Nat.two_pow_pos n), Nat.div_eq_of_lt (Nat.mod_lt _ (Nat.two_pow_pos n)),
          Nat.zero_add]
      rw [show n * (j + 1) = n + n * j by ring, Nat.pow_add, ← Nat.div_div_eq_div_mul, hd, ih]
      rfl

theorem packLanes_lt (n : Nat) (l : List Nat) : packLanes n l < 2 ^ (n * l.length) := by
  induction l with
  | nil => simp [packLanes]
  | cons x r ih =>
    rw [packLanes, List.length_cons, show n * (r.length + 1) = n + n * r.length by ring, Nat.pow_add]
    have hx := Nat.mod_lt x (Nat.two_pow_pos n)
    calc x % 2 ^ n + 2 ^ n * packLanes n r
        < 2 ^ n * (packLanes n r + 1) := by rw [Nat.mul_succ]; omega
      _ ≤ 2 ^ n * 2 ^ (n * r.length) := Nat.mul_le_mul_left _ ih

/-- Element `j` of a register packed from its elements. -/
theorem elemOf_vecOf (t : VType) {l : List Nat} (hl : l.length = VType.lanes t) (j : Nat) :
    elemOf t (vecOf t l) j = l.getD j 0 % 2 ^ VType.bits t := by
  have hlt := packLanes_lt (VType.bits t) l
  rw [hl] at hlt
  have hv : (vecOf t l).toNat = packLanes (VType.bits t) l := by
    rw [VType.bits_mul_lanes] at hlt
    exact Nat.mod_eq_of_lt hlt
  rw [elemOf, hv, packLanes_div_mod]

theorem elemOf_lt (t : VType) (v : VecWord) (j : Nat) : elemOf t v j < 2 ^ VType.bits t :=
  Nat.mod_lt _ (Nat.two_pow_pos _)

theorem elemOf_mod (t : VType) (v : VecWord) (j : Nat) : elemOf t v j % 2 ^ VType.bits t = elemOf t v j :=
  Nat.mod_eq_of_lt (elemOf_lt t v j)

@[simp] theorem length_lanesOf (t : VType) (v : VecWord) : (lanesOf t v).length = VType.lanes t := by simp [lanesOf]

theorem getD_map_range (f : Nat → Nat) {n j : Nat} (h : j < n) : ((List.range n).map f).getD j 0 = f j := by
  simp [List.getD_eq_getElem?_getD, h]

theorem getD_lanesOf (t : VType) (v : VecWord) {j : Nat} (h : j < VType.lanes t) :
    (lanesOf t v).getD j 0 = elemOf t v j := getD_map_range _ h

/-- A register whose element `j` is `f j`. -/
theorem elemOf_vecOf_map (t : VType) (f : Nat → Nat) {j : Nat} (h : j < VType.lanes t) :
    elemOf t (vecOf t ((List.range (VType.lanes t)).map f)) j = f j % 2 ^ VType.bits t := by
  rw [elemOf_vecOf t (by simp), getD_map_range f h]

/-! ### Masks and flags -/

theorem enabled_iff (m : MaskWord) (e j : Nat) : enabled m e j = true ↔ governs m e j := by
  rw [enabled, governs, Nat.mul_comm]

@[simp] theorem length_maskInto (m : MaskWord) (old new : List Nat) : (maskInto m old new).length = old.length := by
  simp [maskInto]

theorem getD_maskInto (m : MaskWord) (old new : List Nat) {j : Nat} (h : j < old.length) :
    (maskInto m old new).getD j 0 = if enabled m old.length j then new.getD j 0 else old.getD j 0 :=
  getD_map_range _ h

/-- The flags gathered by a fold over a list are those of its members. -/
theorem getLsbD_foldl_or (f : Nat → BitVec 5) (l : List Nat) (v : BitVec 5) (k : Nat) :
    (l.foldl (fun fl j => fl ||| f j) v).getLsbD k = true ↔ v.getLsbD k = true ∨ ∃ j ∈ l, (f j).getLsbD k = true := by
  induction l generalizing v with
  | nil => simp
  | cons x r ih => rw [List.foldl_cons, ih]; simp [or_assoc]

theorem merged_foldl {on : Nat → Prop} {b : Nat → Bool} (hb : ∀ j, b j = true ↔ on j) (n : Nat) (f : Nat → BitVec 5) :
    Merged (((List.range n).filter b).foldl (fun fl j => fl ||| f j) flagNone) on n f := by
  intro k _
  rw [getLsbD_foldl_or]
  simp [flagNone, hb, and_assoc]

/-- Merged flags depend only on the flags of the enabled elements. -/
theorem merged_congr {fl : BitVec 5} {on : Nat → Prop} {n : Nat} {f g : Nat → BitVec 5} (h : Merged fl on n f)
    (hfg : ∀ j < n, on j → f j = g j) : Merged fl on n g := by
  intro k hk
  rw [h k hk]
  refine exists_congr fun j => and_congr_right fun hj => and_congr_right fun ho => ?_
  rw [hfg j hj ho]

theorem getD_eachLane (m : MaskWord) (e : Nat) (f : Nat → Nat × BitVec 5) {j : Nat} (h : j < e) :
    (eachLane m e f).1.getD j 0 = (f j).1 := by
  simp [eachLane, List.getD_eq_getElem?_getD, h]

theorem merged_eachLane (m : MaskWord) (e : Nat) (f : Nat → Nat × BitVec 5) :
    Merged (eachLane m e f).2 (governs m e) e fun j => (f j).2 := by
  refine merged_congr (merged_foldl (enabled_iff m e) e fun j => (((List.range e).map f).getD j (0, 0)).2) fun j hj _ => ?_
  simp [List.getD_eq_getElem?_getD, hj]

/-! ### The elementwise form -/

/-- An instruction that changes its own strand alone goes on with the next one. -/
theorem State.issue_go_modMe {s : State} {u : Uses} (h : s.canIssue u = true) (i : Instr) (F : State → Strand → Strand) :
    s.issue i u (fun s => .go (s.modMe (F s))) = s.completes (F s s.me) := by
  rw [State.issue_of_canIssue h, State.finish_go, State.goesOn_modMe]

/-- An elementwise form writes the enabled elements and merges their flags (R177). -/
theorem lanewise_of_laneForm {i : Instr} {s : State} {u : Uses} {d : WReg} {m : MReg} {t : VType}
    {f : Strand → Nat → Nat × BitVec 5} {g : Nat → Nat × BitVec 5} (h : s.canIssue u = true)
    (hi : exec i s = s.laneForm i u d m t f) (hfg : ∀ j < VType.lanes t, f s.me j = g j)
    (hg : ∀ j < VType.lanes t, (g j).1 < 2 ^ VType.bits t) : Lanewise i s d m t g := by
  refine ⟨vecOf t (maskInto (readM s.me m) (lanesOf t (readW s.me d)) (eachLane (readM s.me m) (VType.lanes t) (f s.me)).1),
    (eachLane (readM s.me m) (VType.lanes t) (f s.me)).2, ?_, ?_, fun j hj => ?_⟩
  · rw [hi, State.laneForm, State.issue_go_modMe h]
    rfl
  · exact merged_congr (merged_eachLane _ _ _) fun j hj _ => by rw [hfg j hj]
  · have hj' : j < (lanesOf t (readW s.me d)).length := by rwa [length_lanesOf]
    rw [elemOf_vecOf t (by simp), getD_maskInto _ _ _ hj', length_lanesOf, getD_eachLane _ _ _ hj, getD_lanesOf _ _ hj,
      hfg j hj, ← enabled_iff]
    refine ⟨fun ho => ?_, fun ho => ?_⟩
    · rw [if_pos ho, Nat.mod_eq_of_lt (hg j hj)]
    · rw [if_neg ho, elemOf_mod]

end Sys2Proof.Machine
end


section
/-! SUPPORT. The codes that rounding, clamping and residues give stay within their width (R28, R32, R37, R39, R42, R45). -/

namespace Sys2Proof.Machine

/-! ### Rounded magnitudes -/

theorem lt_two_pow_log2_add (m k : Nat) : m * 2 ^ k < 2 ^ (Nat.log2 m + k + 1) := by
  have h : m < 2 ^ (Nat.log2 m + 1) := Nat.lt_log2_self
  calc m * 2 ^ k < 2 ^ (Nat.log2 m + 1) * 2 ^ k := Nat.mul_lt_mul_of_pos_right h (Nat.two_pow_pos k)
    _ = 2 ^ (Nat.log2 m + k + 1) := by rw [← Nat.pow_add]; congr 1; omega

/-- A magnitude no smaller than its unit is not rounded. -/
theorem roundMag_of_le (rm : BitVec 2) (neg : Bool) (m : Nat) {e q : Int} (h : q ≤ e) :
    roundMag rm neg m e q = (m * 2 ^ (e - q).toNat, false) := if_pos h

/-- Otherwise it is cut off, or cut off and counted up. -/
theorem roundMag_of_lt (rm : BitVec 2) (neg : Bool) (m : Nat) {e q : Int} (h : e < q) :
    (roundMag rm neg m e q).1 ≤ m / 2 ^ (q - e).toNat + 1 := by
  rw [roundMag, if_neg (Int.not_le.mpr h)]
  dsimp only
  split
  · exact Nat.le_succ _
  · generalize (if rm = 0 then _ else _ : Bool) = up
    cases up
    · exact Nat.le_succ _
    · exact Nat.le_refl _

/-- A magnitude below `2^(q+k+1)`, rounded to a multiple of `2^q`, is at most `2^(k+1)` of them. -/
theorem roundMag_le (rm : BitVec 2) (neg : Bool) {m : Nat} {e q : Int} {k : Nat} (h : floorLog m e ≤ q + k) :
    (roundMag rm neg m e q).1 ≤ 2 ^ (k + 1) := by
  unfold floorLog at h
  obtain hq | hq := le_or_gt q e
  · rw [roundMag_of_le rm neg m hq]
    have hk : Nat.log2 m + (e - q).toNat + 1 ≤ k + 1 := by omega
    exact (lt_two_pow_log2_add m _).le.trans (Nat.pow_le_pow_right (by decide) hk)
  · refine (roundMag_of_lt rm neg m hq).trans ?_
    show m / 2 ^ (q - e).toNat < 2 ^ (k + 1)
    rw [Nat.div_lt_iff_lt_mul (Nat.two_pow_pos _), ← Nat.pow_add]
    have hk : Nat.log2 m + 0 + 1 ≤ k + 1 + (q - e).toNat := by omega
    simpa using (lt_two_pow_log2_add m 0).trans_le (Nat.pow_le_pow_right (by decide) hk)

theorem Fmt.two_bias (f : Fmt) : 2 * f.bias + 2 = 2 ^ f.ebits := by cases f <;> rfl

theorem Fmt.infBits_lt (f : Fmt) (n : Bool) : f.infBits n < 2 ^ f.width := by cases f <;> cases n <;> decide

theorem Fmt.maxBits_lt (f : Fmt) (n : Bool) : f.maxBits n < 2 ^ f.width := (Nat.sub_le _ _).trans_lt (f.infBits_lt n)

theorem Fmt.nanBits_lt (f : Fmt) : f.nanBits < 2 ^ f.width := by cases f <;> decide

theorem Fmt.sign_lt (f : Fmt) (n : Bool) : n.toNat * 2 ^ (f.ebits + f.frac) < 2 ^ f.width := by
  cases f <;> cases n <;> decide

theorem packFp_lt (f : Fmt) (n : Bool) {r : Nat} {q : Int} (hr : r < 2 ^ (f.frac + 1)) (hq : q + f.frac ≤ f.bias) :
    packFp f n r q < 2 ^ f.width := by
  have hn : n.toNat ≤ 1 := Bool.toNat_le n
  have hE : (q + f.frac + f.bias).toNat ≤ 2 * f.bias := by omega
  unfold packFp
  dsimp only
  generalize (q + f.frac + f.bias).toNat = E at hE
  split_ifs <;> cases f <;> simp only [Fmt.frac, Fmt.ebits, Fmt.bias, Fmt.width] at * <;> omega

/-- The binade of a magnitude rounded to the precision of a format, exponents unbounded (R32). -/
def roundedLog (f : Fmt) (rm : BitVec 2) (n : Bool) (m : Nat) (e : Int) : Int :=
  if decide (2 ^ (f.frac + 1) ≤ (roundMag rm n m e (floorLog m e - f.frac)).1) then floorLog m e + 1 else floorLog m e

/-- The unit of a magnitude in a format: that of its binade, or of the subnormal numbers. -/
def unitLog (f : Fmt) (m : Nat) (e : Int) : Int := max (floorLog m e) f.emin - f.frac

/-- A magnitude in its unit, rounded. -/
def unitMag (f : Fmt) (rm : BitVec 2) (n : Bool) (m : Nat) (e : Int) : Nat := (roundMag rm n m e (unitLog f m e)).1

/-- The significand of a rounded magnitude, after a carry into the next binade. -/
def roundedSig (f : Fmt) (rm : BitVec 2) (n : Bool) (m : Nat) (e : Int) : Nat :=
  if 2 ^ (f.frac + 1) ≤ unitMag f rm n m e then unitMag f rm n m e / 2 else unitMag f rm n m e

/-- Its unit. -/
def roundedUnit (f : Fmt) (rm : BitVec 2) (n : Bool) (m : Nat) (e : Int) : Int :=
  if 2 ^ (f.frac + 1) ≤ unitMag f rm n m e then unitLog f m e + 1 else unitLog f m e

theorem unitMag_le (f : Fmt) (rm : BitVec 2) (n : Bool) (m : Nat) (e : Int) :
    unitMag f rm n m e ≤ 2 ^ (f.frac + 1) := roundMag_le rm n (by unfold unitLog; omega)

theorem roundedSig_lt (f : Fmt) (rm : BitVec 2) (n : Bool) (m : Nat) (e : Int) :
    roundedSig f rm n m e < 2 ^ (f.frac + 1) := by
  have h := unitMag_le f rm n m e
  have hp := Nat.two_pow_pos (f.frac + 1)
  unfold roundedSig
  split <;> omega

/-- A number below the normal ones rounds to the smallest of them at most, which is no carry. -/
theorem unitMag_le_of_tiny (f : Fmt) (rm : BitVec 2) (n : Bool) {m : Nat} {e : Int} (h : floorLog m e < f.emin) :
    unitMag f rm n m e ≤ 2 ^ f.frac := by
  obtain ⟨k, hk⟩ : ∃ k, f.frac = k + 1 := ⟨f.frac - 1, by cases f <;> rfl⟩
  rw [hk]
  exact roundMag_le rm n (by unfold unitLog; omega)

theorem roundedUnit_le (f : Fmt) (rm : BitVec 2) (n : Bool) (m : Nat) (e : Int)
    (h : roundedLog f rm n m e ≤ f.bias) : roundedUnit f rm n m e + f.frac ≤ f.bias := by
  obtain hn | ht := le_or_gt f.emin (floorLog m e)
  · have hu : unitLog f m e = floorLog m e - f.frac := by unfold unitLog; omega
    unfold roundedLog at h
    unfold roundedUnit unitMag
    rw [hu]
    simp only [decide_eq_true_eq] at h
    split <;> rename_i hc
    · rw [if_pos hc] at h; omega
    · rw [if_neg hc] at h; omega
  · have hm := unitMag_le_of_tiny f rm n ht
    have hp := Nat.pow_lt_pow_succ (a := 2) (n := f.frac) (by decide)
    have hb : (1 : Int) ≤ 2 * f.bias := by cases f <;> decide
    rw [roundedUnit, if_neg (by omega), unitLog]
    unfold Fmt.emin at ht ⊢
    omega

/-- The code a nonzero magnitude rounds to (R32, R35). -/
theorem roundFmt_fin (f : Fmt) (rm : BitVec 2) (fz n : Bool) {m : Nat} (e : Int) (hm : m ≠ 0) :
    (roundFmt f rm fz (.fin n m e)).1 =
      if (f.bias : Int) < roundedLog f rm n m e then
        if (if rm = 0 then true else if rm = 1 then false else if rm = 2 then n else !n) then f.infBits n else f.maxBits n
      else if fz && decide (roundedSig f rm n m e < 2 ^ f.frac) && roundedSig f rm n m e != 0 then
        n.toNat * 2 ^ (f.ebits + f.frac)
      else packFp f n (roundedSig f rm n m e) (roundedUnit f rm n m e) := by
  unfold roundFmt
  simp only [if_neg hm, apply_ite Prod.fst, decide_eq_true_eq]
  simp only [roundedLog, roundedSig, roundedUnit, unitMag, unitLog, decide_eq_true_eq]
  rfl

/-- A rounded code is a code of its format (R28, R32). -/
theorem roundFmt_lt (f : Fmt) (rm : BitVec 2) (fz : Bool) (x : FNum) : (roundFmt f rm fz x).1 < 2 ^ f.width := by
  cases x with
  | nan b => exact f.nanBits_lt
  | inf n => exact f.infBits_lt n
  | fin n m e =>
    by_cases hm : m = 0
    · rw [roundFmt, if_pos hm]; exact f.sign_lt n
    rw [roundFmt_fin f rm fz n e hm]
    generalize (if rm = 0 then _ else _ : Bool) = toInf
    split_ifs with hov hinf hfl
    · exact f.infBits_lt n
    · exact f.maxBits_lt n
    · exact f.sign_lt n
    · exact packFp_lt f n (roundedSig_lt f rm n m e) (roundedUnit_le f rm n m e (not_lt.1 hov))

theorem exactBits_lt (f : Fmt) (x : FNum) : exactBits f x < 2 ^ f.width := roundFmt_lt f 0 false x

/-- A DF8 code is a byte (R36, R37). -/
theorem toDf8_lt (x : FNum) : (toDf8 x).1 < 2 ^ 8 := by
  cases x with
  | nan b => exact (by decide : 0x80 < 2 ^ 8)
  | inf n => cases n <;> decide
  | fin n m e =>
    have hn : n.toNat ≤ 1 := Bool.toNat_le n
    have hr : (roundMag 0 n m e (max (floorLog m e) (-6) - 3)).1 ≤ 16 := roundMag_le 0 n (k := 3) (by omega)
    unfold toDf8
    simp only [apply_ite Prod.fst]
    generalize (roundMag 0 n m e (max (floorLog m e) (-6) - 3)).1 = r at hr
    generalize max (floorLog m e) (-6) - 3 = q
    simp only [decide_eq_true_eq]
    split_ifs <;> omega

/-! ### Integers -/

theorem wrap_lt (n : Nat) (i : Int) : wrap n i < 2 ^ n := by
  have h1 : i % (2 : Int) ^ n < 2 ^ n := Int.emod_lt_of_pos i (by positivity)
  have h0 : 0 ≤ i % (2 : Int) ^ n := Int.emod_nonneg i (by positivity)
  unfold wrap
  zify
  omega

theorem clampInt_eq {x lo hi : Int} (h : lo ≤ hi) : clampInt x lo hi = max lo (min hi x) := by
  unfold clampInt
  split_ifs <;> omega

/-- The signed value of the low bits is the residue nearest to zero (R11). -/
theorem sextNat_eq_bmod {n : Nat} (hn : 0 < n) (v : Nat) : sextNat n v = (v : Int).bmod (2 ^ n) := by
  obtain ⟨k, rfl⟩ : ∃ k, n = k + 1 := ⟨n - 1, by omega⟩
  have hp : 2 ^ (k + 1) = 2 * 2 ^ k := by rw [Nat.pow_succ, Nat.mul_comm]
  have hv : ((v : Int) % ((2 ^ (k + 1) : Nat) : Int)) = ((v % 2 ^ (k + 1) : Nat) : Int) := by push_cast; rfl
  unfold sextNat Int.bmod
  dsimp only
  rw [hv]
  generalize v % 2 ^ (k + 1) = t
  rw [hp, Nat.add_sub_cancel]
  have hz : ((2 : Int) ^ (k + 1)) = 2 * ((2 ^ k : Nat) : Int) := by push_cast; ring
  rw [hz]
  generalize 2 ^ k = P
  push_cast
  split_ifs <;> omega

/-! ### Residues -/

theorem rnsPack_lt {a b c k : Nat} (ha : a < 256) (hb : b < 255) (hc : c < 257) (hk : k < 127) :
    rnsPack a b c k < 2 ^ 32 := by
  unfold rnsPack
  omega

theorem rnsMap2_lt (op : Nat → Nat → Nat) (x y : Nat) : rnsMap2 op x y < 2 ^ 32 :=
  rnsPack_lt (Nat.mod_lt _ (by decide)) (Nat.mod_lt _ (by decide)) (Nat.mod_lt _ (by decide)) (Nat.mod_lt _ (by decide))

theorem modNat_lt (x : Int) {m : Nat} (hm : 0 < m) : modNat x m < m := by
  have h1 := Int.emod_lt_of_pos x (Int.natCast_pos.mpr hm)
  have h0 := Int.emod_nonneg x (Int.natCast_pos.mpr hm).ne'
  unfold modNat
  omega

theorem rnsOfInt_lt (v : Int) : rnsOfInt v < 2 ^ 32 :=
  rnsPack_lt (modNat_lt v (by decide)) (modNat_lt v (by decide)) (modNat_lt v (by decide)) (modNat_lt v (by decide))

end Sys2Proof.Machine
end


section
/-! SUPPORT. The vector conversions: elements of runs, what one element converts to, and the forms (R176, R195 to R199). -/

namespace Sys2Proof.Machine

open Sys2Proof.Claims

/-! ### One element -/

theorem vTarget_lt (st : Strand) (t : VType) (x : FNum) : (vTarget st t x).1 < 2 ^ VType.bits t := by
  cases t with
  | f32 | bf16 | f16 => exact roundFmt_lt _ _ _ _
  | df8 => exact toDf8_lt x
  | i32 | i16 | i8 => exact wrap_lt _ _
  | rns => exact Nat.two_pow_pos _

theorem vTarget_eq_roundedTo (st : Strand) {t : VType} (ht : t ≠ .rns) (x : FNum) : vTarget st t x = roundedTo st t x := by
  cases t with
  | rns => exact absurd rfl ht
  | _ => rfl

theorem vSource_eq_sourceValue (st : Strand) {t : VType} (ht : t ≠ .rns) (x : Nat) :
    vSource st t x = sourceValue st t x := by
  cases t with
  | rns => exact absurd rfl ht
  | i32 | i16 | i8 => exact congrArg FNum.ofInt (sextNat_eq_bmod (by decide) x)
  | _ => rfl

theorem vConvert_lt (st : Strand) (t src : VType) (x : Nat) : (vConvert st t src x).1 < 2 ^ VType.bits t := by
  unfold vConvert
  split
  · exact wrap_lt _ _
  · exact vTarget_lt _ _ _

theorem VType.isInt_iff (t : VType) : VType.isInt t = true ↔ t ∈ [VType.i32, .i16, .i8] := by
  cases t <;> decide

theorem clampInt_signed (n : Nat) (x : Int) :
    clampInt x (-(2 : Int) ^ (n - 1)) ((2 : Int) ^ (n - 1) - 1) = max (-2 ^ (n - 1)) (min (2 ^ (n - 1) - 1) x) := by
  have hp : (0 : Int) < 2 ^ (n - 1) := by positivity
  exact clampInt_eq (by omega)

theorem vConvert_eq_converted (st : Strand) {t src : VType} (ht : t ≠ .rns) (hs : src ≠ .rns) (x : Nat) :
    vConvert st t src x = converted st t src x := by
  have hc : (VType.isInt src && VType.isInt t) = true ↔ src ∈ [VType.i32, .i16, .i8] ∧ t ∈ [VType.i32, .i16, .i8] := by
    rw [Bool.and_eq_true, VType.isInt_iff, VType.isInt_iff]
  unfold vConvert converted
  by_cases h : (VType.isInt src && VType.isInt t) = true
  · rw [if_pos h, if_pos (hc.1 h), sextNat_eq_bmod (VType.bits_pos src)]
    dsimp only
    rw [clampInt_signed]
    rfl
  · rw [if_neg h, if_neg (mt hc.2 h), vTarget_eq_roundedTo st ht, vSource_eq_sourceValue st hs]

theorem toRns_eq (t : VType) (x : Nat) :
    toRns t x = (rnsOfInt (max (-8388480) (min 8388479 ((x : Int).bmod (2 ^ VType.bits t)))),
      if max (-8388480) (min 8388479 ((x : Int).bmod (2 ^ VType.bits t))) = (x : Int).bmod (2 ^ VType.bits t) then 0
      else 16) := by
  unfold toRns
  rw [sextNat_eq_bmod (VType.bits_pos t)]
  dsimp only
  rw [clampInt_eq (by decide), flagIf]
  by_cases h : max (-8388480) (min 8388479 ((x : Int).bmod (2 ^ VType.bits t))) = (x : Int).bmod (2 ^ VType.bits t)
  · rw [if_pos h, h]; simp [flagNone]
  · rw [if_neg h, if_pos (bne_iff_ne.mpr h)]; rfl

theorem vAddq_eq (st : Strand) {t : VType} (ht : t ≠ .rns) (k x y : Nat) :
    vAddq st t k x y =
      let v := (sourceValue st t x).add (decide (st.rm = 2)) (sourceValue st t y)
      let r := roundedTo st t (v.1.scale (-(k : Int)))
      (r.1, v.2 ||| r.2) := by
  unfold vAddq
  dsimp only
  rw [vTarget_eq_roundedTo st ht, vSource_eq_sourceValue st ht, vSource_eq_sourceValue st ht]
  rfl

theorem fpExit_code (f : Fmt) (y : FNum) : (exitConvert.fpExit f y).code = (roundFmt f 0 false y).1 := by
  cases y <;> rfl

/-- An exit code fits its target (R48). -/
theorem exitConvert_lt (v scale : Nat) {t : VType} {e : ExitFmt}
    (h : (t, e) ∈ ([(.f32, .f32), (.bf16, .bf16), (.i8, .i8)] : List (VType × ExitFmt))) :
    (exitConvert v scale e).code < 2 ^ VType.bits t := by
  simp only [List.mem_cons, Prod.mk.injEq, List.not_mem_nil, or_false] at h
  rw [exitConvert]
  dsimp only
  obtain ⟨rfl, rfl⟩ | ⟨rfl, rfl⟩ | ⟨rfl, rfl⟩ := h <;> split
  · exact (by decide : 0x7FFFFFFF < 2 ^ 32)
  · rw [fpExit_code]; exact roundFmt_lt .f32 _ _ _
  · exact (by decide : 0x7FFF < 2 ^ 16)
  · rw [fpExit_code]; exact roundFmt_lt .bf16 _ _ _
  · exact (by decide : 0x80 < 2 ^ 8)
  · dsimp only
    split
    · exact (by decide : 0 < 2 ^ 8)
    · exact wrap_lt 8 _

/-! ### Elements of a run -/

theorem getElem?_chunks {α : Type} (k n : Nat) (l : List α) (i : Nat) :
    (chunks k n l)[i]? = if i < n then some ((l.drop (k * i)).take k) else none := by
  induction n generalizing l i with
  | zero => simp [chunks]
  | succ n ih =>
    cases i with
    | zero => simp [chunks]
    | succ i =>
      have hk : k + k * i = k * (i + 1) := by ring
      simp [chunks, ih, List.drop_drop, hk]

theorem length_flatten_range {L : Nat} {f : Nat → List Nat} (hf : ∀ i, (f i).length = L) (n : Nat) :
    ((List.range n).map f).flatten.length = n * L := by
  simp [List.length_flatten, Function.comp_def, hf]

/-- Element `e` of lists of one length put behind each other. -/
theorem getD_flatten_range {L : Nat} (hL : 0 < L) {f : Nat → List Nat} (hf : ∀ i, (f i).length = L) {n e : Nat}
    (he : e < n * L) : ((List.range n).map f).flatten.getD e 0 = (f (e / L)).getD (e % L) 0 := by
  induction n with
  | zero => omega
  | succ n ih =>
    have hlen := length_flatten_range hf n
    rw [List.range_succ, List.map_append, List.flatten_append]
    obtain hlt | hge := Nat.lt_or_ge e (n * L)
    · rw [List.getD_append _ _ _ _ (by rwa [hlen]), ih hlt]
    · obtain ⟨j, rfl⟩ := Nat.exists_eq_add_of_le' hge
      have hj : j < L := by rw [Nat.succ_mul] at he; omega
      rw [List.getD_append_right _ _ _ _ (by omega), hlen, Nat.add_sub_cancel, Nat.add_mul_div_right _ _ hL,
        Nat.add_mul_mod_self_right, Nat.div_eq_of_lt hj, Nat.mod_eq_of_lt hj]
      simp

@[simp] theorem length_runLanes (st : Strand) (t : VType) (r : WReg) (n : Nat) :
    (runLanes st t r n).length = n * VType.lanes t := length_flatten_range (fun _ => length_lanesOf t _) n

theorem wAt_eq_readW (st : Strand) {k : Nat} (h : k < 16) : wAt st k = readW st (Fin.ofNat 16 k) := by
  simp [wAt, readW, List.getD_eq_getElem?_getD, h, Nat.mod_eq_of_lt h]

theorem getD_runLanes (st : Strand) (t : VType) {r : WReg} {n e : Nat} (hr : r.val + n ≤ 16)
    (he : e < n * VType.lanes t) : (runLanes st t r n).getD e 0 = runElem st t r e := by
  have hq : e / VType.lanes t < n := Nat.div_lt_of_lt_mul (by rwa [Nat.mul_comm])
  have hL := VType.lanes_pos t
  rw [runLanes, getD_flatten_range hL (fun _ => length_lanesOf t _) he, getD_lanesOf _ _ (Nat.mod_lt e hL), runElem,
    wAt_eq_readW st (by omega)]

/-- A run of `n` registers written from its elements: element `e` of it. -/
theorem runElem_writeRun (st : Strand) (t : VType) {d : WReg} {n e : Nat} {l : List Nat} (hd : d.val + n ≤ 16)
    (hl : l.length = n * VType.lanes t) (he : e < n * VType.lanes t) :
    runElem (writeRun st t d l) t d e = l.getD e 0 % 2 ^ VType.bits t := by
  have hL := VType.lanes_pos t
  have hq : e / VType.lanes t < n := Nat.div_lt_of_lt_mul (by rwa [Nat.mul_comm])
  have hlen : ((l.drop (VType.lanes t * (e / VType.lanes t))).take (VType.lanes t)).length = VType.lanes t := by
    have hle : VType.lanes t * (e / VType.lanes t) + VType.lanes t ≤ n * VType.lanes t := by
      rw [← Nat.mul_succ, Nat.mul_comm n]; exact Nat.mul_le_mul_left _ hq
    simp only [List.length_take, List.length_drop, hl]
    omega
  have hw : readW (writeRun st t d l) (Fin.ofNat 16 (d.val + e / VType.lanes t)) =
      vecOf t ((l.drop (VType.lanes t * (e / VType.lanes t))).take (VType.lanes t)) := by
    have hi : (d.val + e / VType.lanes t) % 16 = d.val + e / VType.lanes t := Nat.mod_eq_of_lt (by omega)
    have hdi : ¬ d.val + e / VType.lanes t < d.val := Nat.not_lt.mpr (Nat.le_add_right _ _)
    simp [readW, writeRun, getElem?_chunks, hl, Nat.mul_div_cancel _ hL, hi, hq, Fin.lt_def, hdi]
  have hj := Nat.mod_lt e hL
  rw [runElem, hw, elemOf_vecOf t hlen]
  simp [List.getD_eq_getElem?_getD, hj, Nat.div_add_mod]

theorem writeRun_w_outside (st : Strand) (t : VType) {d : WReg} {n : Nat} {l : List Nat}
    (hl : l.length = n * VType.lanes t) {k : Fin 16} (hk : k.val < d.val ∨ d.val + n ≤ k.val) :
    (writeRun st t d l).w[k] = st.w[k] := by
  have hL := VType.lanes_pos t
  simp only [writeRun, hl, Nat.mul_div_cancel _ hL, getElem?_chunks, Fin.getElem_fin, Vector.getElem_ofFn]
  split
  · rw [if_neg (by omega)]
  · rfl

/-- A form over runs writes the enabled elements and merges their flags. -/
theorem runLanewise_of_runForm {i : Instr} {s : State} {d a : WReg} {m : MReg} {t src : VType} {n k ks : Nat}
    {f : Strand → Nat → Nat × BitVec 5} {g : Nat → Nat × BitVec 5}
    (hn : n = k * VType.lanes t) (hns : n = ks * VType.lanes src) (hd : d.val + k ≤ 16) (ha : a.val + ks ≤ 16)
    (h : s.canIssue { w := run d.val k ++ run a.val ks } = true) (hi : exec i s = s.runForm i d a m t src n f)
    (hfg : ∀ e < n, f s.me (runElem s.me src a e) = g e) (hg : ∀ e < n, (g e).1 < 2 ^ VType.bits t) :
    RunLanewise i s d m t n g := by
  have hk : regsFor t n = k := by rw [regsFor, hn, Nat.mul_div_cancel _ (VType.lanes_pos t)]
  have hks : regsFor src n = ks := by rw [regsFor, hns, Nat.mul_div_cancel _ (VType.lanes_pos src)]
  let lanes := eachLane (readM s.me m) n fun e => f s.me ((runLanes s.me src a ks).getD e 0)
  let new := maskInto (readM s.me m) (runLanes s.me t d k) lanes.1
  have hf : ∀ e < n, f s.me ((runLanes s.me src a ks).getD e 0) = g e := fun e he => by
    rw [getD_runLanes s.me src ha (hns ▸ he), hfg e he]
  have hold : (runLanes s.me t d k).length = n := by rw [length_runLanes, hn]
  have hnew : new.length = k * VType.lanes t := by rw [length_maskInto, hold, hn]
  refine ⟨(writeRun s.me t d new).w, lanes.2, ?_, merged_congr (merged_eachLane _ _ _) fun e he _ => by rw [hf e he],
    fun e he => ?_, fun j hj => ?_⟩
  · rw [hi, State.runForm, hk, hks, State.issue_go_modMe h]
    rfl
  · have he' : e < k * VType.lanes t := hn ▸ he
    have hval : runElem (writeRun s.me t d new) t d e =
        (if enabled (readM s.me m) n e then (g e).1 else runElem s.me t d e) % 2 ^ VType.bits t := by
      rw [runElem_writeRun s.me t hd hnew he', getD_maskInto _ _ _ (hold.symm ▸ he), hold, getD_eachLane _ _ _ he,
        hf e he, getD_runLanes s.me t hd he']
    rw [← enabled_iff]
    refine ⟨fun ho => hval.trans ?_, fun ho => hval.trans ?_⟩
    · rw [if_pos ho, Nat.mod_eq_of_lt (hg e he)]
    · rw [if_neg ho]; exact elemOf_mod _ _ _
  · rw [hn, Nat.mul_div_cancel _ (VType.lanes_pos t)] at hj
    exact writeRun_w_outside s.me t hnew hj

/-! ### A position of the target -/

/-- An instruction whose enabled elements of position `p` receive `g` of the lanes of `a`, their flags merged; the others
keep their values. -/
def AtPosition (i : Instr) (s : State) (d a : WReg) (m : MReg) (t : VType) (p : BitVec 2) (g : Nat → Nat × BitVec 5) : Prop :=
  ∃ v fl, exec i s = .next (s.completes { s.me with w := s.me.w.set d v, flags := s.me.flags ||| fl }) ∧
    Merged fl (fun j => (readM s.me m).getLsbD j = true) 16 (fun j => (g (elemOf .f32 (readW s.me a) j)).2) ∧
    ∀ j < VType.lanes t,
      if 16 * p.toNat ≤ j ∧ j < 16 * p.toNat + 16 ∧ (readM s.me m).getLsbD (j - 16 * p.toNat) = true
      then elemOf t v j = (g (elemOf .f32 (readW s.me a) (j - 16 * p.toNat))).1
      else elemOf t v j = elemOf t (readW s.me d) j

/-- A form at a position writes the enabled elements of that position and merges their flags (R197, R198). -/
theorem atPosition_of_positionForm {i : Instr} {s : State} {d a : WReg} {b : GReg16} {m : MReg} {t : VType}
    {p : BitVec 2} {f : Strand → Nat → Nat → Nat × BitVec 5} {g : Nat → Nat × BitVec 5}
    (h : s.canIssue { g := [b.val], w := [d.val, a.val] } = true) (hi : exec i s = s.positionForm i d a b m t p f)
    (hfg : ∀ e, f s.me e ((readG s.me (g16 b)).toNat % 2 ^ 32) = g e) (hg : ∀ e, (g e).1 < 2 ^ VType.bits t) :
    AtPosition i s d a m t p g := by
  have hon : ∀ j, enabled (readM s.me m) 16 j = (readM s.me m).getLsbD j := fun j => by
    rw [enabled, Nat.mul_div_cancel _ (by decide)]
  let lanes := eachLane (readM s.me m) 16 fun j => g (elemOf .f32 (readW s.me a) j)
  let new := fun j => if 16 * p.toNat ≤ j ∧ j < 16 * p.toNat + 16 ∧ enabled (readM s.me m) 16 (j - 16 * p.toNat) then
    lanes.1.getD (j - 16 * p.toNat) 0 else elemOf t (readW s.me d) j
  refine ⟨vecOf t ((List.range (VType.lanes t)).map new), lanes.2, ?_, ?_, fun j hj => ?_⟩
  · rw [hi, State.positionForm, State.issue_go_modMe h]
    simp only [hfg]
    rfl
  · intro k hk
    rw [merged_eachLane _ _ _ k hk]
    simp only [← enabled_iff, hon]
  · rw [elemOf_vecOf_map t new hj]
    simp only [new, hon]
    split
    · rename_i hc
      rw [getD_eachLane _ _ _ (by omega), Nat.mod_eq_of_lt (hg _)]
    · exact elemOf_mod _ _ _

/-! ### The instructions -/

theorem ne_rns_of_mem {t : VType} (h : t ∈ [VType.f32, .bf16, .f16, .df8, .i32, .i16, .i8]) : t ≠ .rns := by
  rintro rfl
  exact absurd h (by decide)

theorem VType.lanes_dvd_max (t u : VType) : max (VType.lanes t) (VType.lanes u) % VType.lanes t = 0 := by
  cases t <;> cases u <;> rfl

theorem max_lanes_eq (t u : VType) : max (VType.lanes t) (VType.lanes u) =
    max (VType.lanes t) (VType.lanes u) / VType.lanes t * VType.lanes t :=
  (Nat.div_mul_cancel (Nat.dvd_of_mod_eq_zero (VType.lanes_dvd_max t u))).symm

theorem vcvt_runLanewise {s : State} {d a : WReg} (m : MReg) {t src : VType} (ht : t ≠ .rns) (hs : src ≠ .rns)
    (hd : d.val + max (VType.lanes t) (VType.lanes src) / VType.lanes t ≤ 16)
    (ha : a.val + max (VType.lanes t) (VType.lanes src) / VType.lanes src ≤ 16)
    (h : s.canIssue { w := (run d.val (max (VType.lanes t) (VType.lanes src) / VType.lanes t) ++
      run a.val (max (VType.lanes t) (VType.lanes src) / VType.lanes src)) } = true) :
    RunLanewise (.vcvt d a m t src) s d m t (max (VType.lanes t) (VType.lanes src)) fun e =>
      converted s.me t src (runElem s.me src a e) :=
  runLanewise_of_runForm (max_lanes_eq t src) (by rw [Nat.max_comm]; exact max_lanes_eq src t) hd ha h
    (Eq.refl (execVcvt d a m t src s)) (fun e _ => vConvert_eq_converted s.me ht hs _)
    fun e _ => by rw [← vConvert_eq_converted s.me ht hs]; exact vConvert_lt _ _ _ _

theorem vtorns_runLanewise {s : State} {d a : WReg} (m : MReg) {src : VType}
    (hd : d.val + VType.lanes src / 16 ≤ 16) (h : s.canIssue { w := run d.val (VType.lanes src / 16) ++ run a.val 1 } = true) :
    RunLanewise (.vtorns d a m src) s d m .rns (VType.lanes src) fun e =>
      let v := (runElem s.me src a e : Int).bmod (2 ^ VType.bits src); let c := max (-8388480) (min 8388479 v);
      (rnsOfInt c, if c = v then 0 else 16) :=
  runLanewise_of_runForm (by cases src <;> rfl) (Nat.one_mul _).symm hd a.isLt h (Eq.refl (execVtorns d a m src s))
    (fun e _ => toRns_eq src _) fun e _ => rnsOfInt_lt _

theorem fst_lt_of_eq {p : Nat × BitVec 5} {c n : Nat} {fl : BitVec 5} (h : p = (c, fl)) (hc : c < n) : p.1 < n := h ▸ hc

theorem vfrns_atPosition {s : State} {d a : WReg} {b : GReg16} (m : MReg) {t : VType} {e : ExitFmt} (p : BitVec 2)
    (h : s.canIssue { g := [b.val], w := [d.val, a.val] } = true)
    (he : (t, e) ∈ ([(.f32, .f32), (.bf16, .bf16), (.i8, .i8)] : List (VType × ExitFmt))) :
    AtPosition (.vfrns d a b m t p) s d a m t p fun x =>
      ((exitConvert x ((readG s.me (g16 b)).toNat % 2 ^ 32) e).code,
        if (exitConvert x ((readG s.me (g16 b)).toNat % 2 ^ 32) e).poisoned then 16 else 0) := by
  have hexit : exitOf t = e := by
    simp only [List.mem_cons, Prod.mk.injEq, List.not_mem_nil, or_false] at he
    obtain ⟨rfl, rfl⟩ | ⟨rfl, rfl⟩ | ⟨rfl, rfl⟩ := he <;> rfl
  refine atPosition_of_positionForm h (Eq.refl (execVfrns d a b m t p s)) (fun x => ?_) fun x => ?_
  · rw [← hexit]; rfl
  · exact fst_lt_of_eq rfl (exitConvert_lt x _ he)

theorem vqnt_atPosition {s : State} {d a : WReg} {b : GReg16} (m : MReg) {t : VType} (ht : t ≠ .rns) (p : BitVec 2)
    (h : s.canIssue { g := [b.val], w := [d.val, a.val] } = true) :
    AtPosition (.vqnt d a b m t p) s d a m t p fun x =>
      let y := (flushIn .f32 s.me.fz x).mul (flushIn .f32 s.me.fz ((readG s.me (g16 b)).toNat % 2 ^ 32));
      ((roundedTo s.me t y.1).1, y.2 ||| (roundedTo s.me t y.1).2) := by
  refine atPosition_of_positionForm h (Eq.refl (execVqnt d a b m t p s)) (fun x => ?_) fun x => ?_ <;> dsimp only <;>
    rw [← vTarget_eq_roundedTo s.me ht]
  · rfl
  · exact vTarget_lt _ _ _

theorem vaddq_lanewise {s : State} {d a b : WReg} (m : MReg) {t : VType} (ht : t ≠ .rns) (k : BitVec 4)
    (h : s.canIssue { w := [d.val, a.val, b.val] } = true) :
    Lanewise (.vaddq d a b m t k) s d m t fun j =>
      let v := fun (r : WReg) => sourceValue s.me t (elemOf t (readW s.me r) j);
      let y := (v a).add (decide (s.me.rm = 2)) (v b); let r := roundedTo s.me t (y.1.scale (-(k.toNat : Int)));
      (r.1, y.2 ||| r.2) := by
  refine lanewise_of_laneForm h (Eq.refl (execVaddq d a b m t k s)) (fun j _ => vAddq_eq s.me ht _ _ _) fun j _ => ?_
  dsimp only
  rw [← vTarget_eq_roundedTo s.me ht]
  exact vTarget_lt _ _ _

/-- R47, R48, R195 to R199: the conversions, the exit, the quantization and the shifted sum. -/
theorem vectorConversions : Claims.VectorConversions := by
  intro s d a b g m t src p k types l n x scale
  refine ⟨fun ht hs hd ha h => vcvt_runLanewise m (ne_rns_of_mem ht) (ne_rns_of_mem hs) hd ha h,
    fun _ hd h => vtorns_runLanewise m hd h, fun h _ => ⟨?_, fun ht => ?_⟩,
    fun h ht => vaddq_lanewise m (ne_rns_of_mem ht) k h⟩
  · rintro ⟨t', e⟩ he rfl
    exact vfrns_atPosition m p h he
  · have ht' : t ≠ .rns := by rintro rfl; exact absurd ht (by decide)
    exact vqnt_atPosition m ht' p h

end Sys2Proof.Machine
end


section
/-! SUPPORT. The random number instructions: the words of a draw, and the lanes VRNG writes (R55, R207, R208). -/

namespace Sys2Proof.Machine

open Sys2Proof.Claims

/-- A block of Philox: four words of 32 bits. -/
def Words (c : Nat × Nat × Nat × Nat) : Prop := c.1 < 2 ^ 32 ∧ c.2.1 < 2 ^ 32 ∧ c.2.2.1 < 2 ^ 32 ∧ c.2.2.2 < 2 ^ 32

theorem words_philoxRound {c : Nat × Nat × Nat × Nat} {k0 k1 : Nat} (hc : Words c) (h0 : k0 < 2 ^ 32) (h1 : k1 < 2 ^ 32) :
    Words (philoxRound c k0 k1) := by
  obtain ⟨c0, c1, c2, c3⟩ := c
  obtain ⟨hc0, hc1, hc2, hc3⟩ := hc
  dsimp only at hc0 hc1 hc2 hc3
  have hp : 0xD2511F53 * c0 / 2 ^ 32 < 2 ^ 32 := by omega
  have hq : 0xCD9E8D57 * c2 / 2 ^ 32 < 2 ^ 32 := by omega
  exact ⟨Nat.xor_lt_two_pow (Nat.xor_lt_two_pow hq hc1) h0, Nat.mod_lt _ (by decide),
    Nat.xor_lt_two_pow (Nat.xor_lt_two_pow hp hc3) h1, Nat.mod_lt _ (by decide)⟩

/-- One round, and `F` of what it gives with the next keys. -/
def afterRound (F : Nat × Nat × Nat × Nat → Nat → Nat → Nat × Nat × Nat × Nat) (c : Nat × Nat × Nat × Nat) (k0 k1 : Nat) :
    Nat × Nat × Nat × Nat :=
  F (philoxRound c k0 k1) ((k0 + 0x9E3779B9) % 2 ^ 32) ((k1 + 0xBB67AE85) % 2 ^ 32)

/-- `n + 1` rounds are a round and `n` rounds: an equation of functions, for the kernel would evaluate applied ones. -/
theorem philox_succ (n : Nat) : philox (n + 1) = afterRound (philox n) := rfl

theorem words_philox (n : Nat) {c : Nat × Nat × Nat × Nat} {k0 k1 : Nat} (hc : Words c) (h0 : k0 < 2 ^ 32)
    (h1 : k1 < 2 ^ 32) : Words (philox n c k0 k1) := by
  induction n generalizing c k0 k1 with
  | zero => exact hc
  | succ n ih =>
    rw [philox_succ]
    exact ih (words_philoxRound hc h0 h1) (Nat.mod_lt _ (by decide)) (Nat.mod_lt _ (by decide))

/-- The block of counter `ctr + b` of a stream. -/
def drawBlock (ctr stream : Word) (k0 k1 b : Nat) : Nat × Nat × Nat × Nat :=
  let c := (ctr.toNat + b) % 2 ^ 64
  philox 10 (c % 2 ^ 32, c / 2 ^ 32, stream.toNat % 2 ^ 32, stream.toNat / 2 ^ 32) k0 k1

/-- The four words of a block. -/
def blockWords (u : Nat × Nat × Nat × Nat) : List Nat := [u.1, u.2.1, u.2.2.1, u.2.2.2]

theorem words_drawBlock (ctr stream : Word) {k0 k1 : Nat} (h0 : k0 < 2 ^ 32) (h1 : k1 < 2 ^ 32) (b : Nat) :
    Words (drawBlock ctr stream k0 k1 b) := by
  have hs := stream.isLt
  exact words_philox 10 ⟨Nat.mod_lt _ (by decide), by dsimp only; omega, Nat.mod_lt _ (by decide), by dsimp only; omega⟩ h0 h1

theorem getD_blockWords_lt {u : Nat × Nat × Nat × Nat} (hu : Words u) (j : Nat) : (blockWords u).getD j 0 < 2 ^ 32 := by
  obtain ⟨h0, h1, h2, h3⟩ := hu
  match j with
  | 0 => exact h0
  | 1 => exact h1
  | 2 => exact h2
  | 3 => exact h3
  | _ + 4 => exact Nat.two_pow_pos 32

@[simp] theorem length_blockWords (u : Nat × Nat × Nat × Nat) : (blockWords u).length = 4 := rfl

theorem drawLanes_eq (ctr stream : Word) (k0 k1 : Nat) :
    drawLanes ctr stream k0 k1 = ((List.range 4).map fun b => blockWords (drawBlock ctr stream k0 k1 b)).flatten := rfl

theorem getD_drawLanes (ctr stream : Word) (k0 k1 : Nat) {j : Nat} (hj : j < 16) :
    (drawLanes ctr stream k0 k1).getD j 0 = (blockWords (drawBlock ctr stream k0 k1 (j / 4))).getD (j % 4) 0 := by
  rw [drawLanes_eq, getD_flatten_range (by decide) (fun _ => length_blockWords _) hj]

theorem length_drawLanes (ctr stream : Word) (k0 k1 : Nat) : (drawLanes ctr stream k0 k1).length = 16 := by
  rw [drawLanes_eq, length_flatten_range (fun _ => length_blockWords _)]

/-- VRNG writes the enabled lanes with the draw, each as `f` makes of it (R207). -/
theorem vrng_lanes {s : State} {d : WReg} (m : MReg) {t : VType} {f : Nat → Nat} (ht : VType.lanes t = 16)
    (hf : ∀ x, (if t = .f32 then exactBits .f32 (.fin false (x / 256) (-24)) else x) = f x)
    (hlt : ∀ x < 2 ^ 32, f x < 2 ^ VType.bits t) (h : s.canIssue { w := [d.val] } = true) :
    let k := s.ctx (s.ctxOf s.cur)
    let k0 := k.rngkey0.toNat % 2 ^ 32
    let k1 := k.rngkey1.toNat % 2 ^ 32
    ∃ v, exec (.vrng d m t) s = .next (s.completes { s.me with w := s.me.w.set d v, rngctr := s.me.rngctr + 4 }) ∧
      ∀ j < 16, elemOf t v j = if (readM s.me m).getLsbD j = true
        then f ((blockWords (drawBlock s.me.rngctr s.me.rngstream k0 k1 (j / 4))).getD (j % 4) 0)
        else elemOf t (readW s.me d) j := by
  intro k k0 k1
  have h0 : k0 < 2 ^ 32 := Nat.mod_lt _ (by decide)
  have h1 : k1 < 2 ^ 32 := Nat.mod_lt _ (by decide)
  let vals := (drawLanes s.me.rngctr s.me.rngstream k0 k1).map f
  have hlen : (maskInto (readM s.me m) (lanesOf t (readW s.me d)) vals).length = VType.lanes t := by simp
  refine ⟨vecOf t (maskInto (readM s.me m) (lanesOf t (readW s.me d)) vals), ?_, fun j hj => ?_⟩
  · show Host.Outcome.next _ = _
    rw [State.issue_go_modMe h]
    simp only [hf]
    rfl
  · have hw := getD_blockWords_lt (words_drawBlock s.me.rngctr s.me.rngstream h0 h1 (j / 4)) (j % 4)
    have hv : vals.getD j 0 = f ((drawLanes s.me.rngctr s.me.rngstream k0 k1).getD j 0) := by
      simp [vals, List.getD_eq_getElem?_getD, length_drawLanes, hj]
    have hl : j < (lanesOf t (readW s.me d)).length := by rw [length_lanesOf, ht]; exact hj
    rw [elemOf_vecOf t hlen, getD_maskInto _ _ _ hl, hv, getD_drawLanes _ _ _ _ hj, length_lanesOf, ht, enabled,
      Nat.mul_div_cancel _ (by decide), getD_lanesOf _ _ (ht ▸ hj)]
    split
    · exact Nat.mod_eq_of_lt (hlt _ hw)
    · exact elemOf_mod _ _ _

/-- R55, R56, R207, R208: the draw, the seed, and the rounds of the generator. -/
theorem randomNumbers : Claims.RandomNumbers := by
  intro s d m g k st lane
  refine ⟨fun h e he => ?_, fun h => ?_, fun c0 c1 c2 c3 k0 k1 n => ⟨rfl, by rw [philox_succ]; rfl⟩⟩
  · simp only [List.mem_cons, List.not_mem_nil, or_false] at he
    obtain rfl | rfl := he
    · exact vrng_lanes m rfl (fun x => if_neg (by decide)) (fun x hx => hx) h
    · exact vrng_lanes m rfl (fun x => if_pos rfl) (fun x _ => exactBits_lt .f32 _) h
  · exact congrArg Host.Outcome.next (State.issue_go_modMe h _ _)

end Sys2Proof.Machine
end


section
/-! SUPPORT. Codes of a floating-point format in the order of their values: what a code decodes to, that it is given back
exactly, and how two of them compare (R28, R31, R35, R206). -/

namespace Sys2Proof.Machine

open Sys2Proof.Claims

/-- The exponent of the unit of the subnormal numbers. -/
def Fmt.low (f : Fmt) : Int := f.emin - f.frac

/-- The magnitude of the code `c` of a format, in units of its smallest subnormal number. -/
def magValue (f : Fmt) (c : Nat) : Nat :=
  if c < 2 ^ f.frac then c else (2 ^ f.frac + c % 2 ^ f.frac) * 2 ^ (c / 2 ^ f.frac - 1)

theorem magValue_lt_succ (f : Fmt) (c : Nat) : magValue f c < magValue f (c + 1) := by
  have hp := Nat.two_pow_pos f.frac
  unfold magValue
  generalize 2 ^ f.frac = P at hp ⊢
  obtain hlt | heq | hgt := Nat.lt_trichotomy (c + 1) P
  · rw [if_pos (by omega), if_pos hlt]; omega
  · rw [if_pos (by omega), if_neg (by omega), heq, Nat.mod_self, Nat.div_self hp]
    simp only [Nat.sub_self, Nat.pow_zero]
    omega
  rw [if_neg (by omega), if_neg (by omega)]
  obtain ⟨a, b, hb, rfl⟩ : ∃ a b, b < P ∧ c = P * (a + 1) + b := by
    have hq : 1 ≤ c / P := (Nat.one_le_div_iff hp).mpr (by omega)
    exact ⟨c / P - 1, c % P, Nat.mod_lt c hp, by rw [Nat.sub_add_cancel hq, Nat.div_add_mod]⟩
  have hd : (P * (a + 1) + b) / P = a + 1 := by rw [Nat.mul_add_div hp, Nat.div_eq_of_lt hb, Nat.add_zero]
  have hm : (P * (a + 1) + b) % P = b := by rw [Nat.mul_add_mod, Nat.mod_eq_of_lt hb]
  rw [hd, hm]
  have h2 := Nat.two_pow_pos a
  obtain hb' | hb' := Nat.lt_or_ge (b + 1) P
  · have hd' : (P * (a + 1) + b + 1) / P = a + 1 := by
      rw [Nat.add_assoc, Nat.mul_add_div hp, Nat.div_eq_of_lt hb', Nat.add_zero]
    have hm' : (P * (a + 1) + b + 1) % P = b + 1 := by rw [Nat.add_assoc, Nat.mul_add_mod, Nat.mod_eq_of_lt hb']
    rw [hd', hm', Nat.add_sub_cancel]
    exact Nat.mul_lt_mul_of_pos_right (by omega) h2
  · have hc : P * (a + 1) + b + 1 = P * (a + 2) := by rw [Nat.mul_succ P (a + 1)]; omega
    have hpow : 2 ^ (a + 1) = 2 * 2 ^ a := Nat.pow_succ'
    rw [hc, Nat.mul_div_cancel_left _ hp, Nat.mul_mod_right, Nat.add_sub_cancel, Nat.add_zero,
      show a + 2 - 1 = a + 1 from rfl, hpow, ← Nat.mul_assoc]
    exact Nat.mul_lt_mul_of_pos_right (by omega) h2

theorem magValue_strictMono (f : Fmt) : StrictMono (magValue f) := strictMono_nat_of_lt_succ (magValue_lt_succ f)

theorem magValue_zero (f : Fmt) : magValue f 0 = 0 := if_pos (Nat.two_pow_pos _)

/-- The datum `p` is the value of the sign `n` and the magnitude code `c`: an infinity, or a finite number. -/
def Coded (f : Fmt) (p : FNum) (n : Bool) (c : Nat) : Prop :=
  (c = f.infBits false ∧ p = .inf n) ∨
  (c < f.infBits false ∧ ∃ m e, p = .fin n m e ∧ f.low ≤ e ∧
    (c < 2 ^ f.frac → m = c ∧ (e = f.low ∨ c = 0)) ∧
    (2 ^ f.frac ≤ c → m = 2 ^ f.frac + c % 2 ^ f.frac ∧ e = f.low + (c / 2 ^ f.frac - 1 : Nat)))

/-- A code that is no NaN's decodes to the value of its sign and its magnitude (R28). -/
theorem coded_decodeFp (f : Fmt) {x : Nat} (hx : (decodeFp f x).isNan = false) :
    Coded f (decodeFp f x) (x / 2 ^ (f.frac + f.ebits) % 2 == 1) (x % 2 ^ (f.frac + f.ebits)) := by
  have hp := Nat.two_pow_pos f.frac
  have hfr := Nat.mod_lt x hp
  have hex := Nat.mod_lt (x / 2 ^ f.frac) (Nat.two_pow_pos f.ebits)
  have hc : x % 2 ^ (f.frac + f.ebits) = 2 ^ f.frac * (x / 2 ^ f.frac % 2 ^ f.ebits) + x % 2 ^ f.frac := by
    rw [Nat.pow_add, Nat.mod_mul, Nat.add_comm]
  have hinf : f.infBits false = 2 ^ f.frac * (2 ^ f.ebits - 1) := by
    rw [Fmt.infBits, Bool.toNat_false, Nat.zero_mul, Nat.zero_add, Nat.mul_comm]
  unfold decodeFp at hx ⊢
  unfold Coded
  rw [hc, hinf]
  dsimp only at hx ⊢
  generalize (x / 2 ^ (f.frac + f.ebits) % 2 == 1) = n at hx ⊢
  generalize x % 2 ^ f.frac = fr at hx hfr hex ⊢
  generalize x / 2 ^ f.frac % 2 ^ f.ebits = ex at hx hex ⊢
  have hd : (2 ^ f.frac * ex + fr) / 2 ^ f.frac = ex := by rw [Nat.mul_add_div hp, Nat.div_eq_of_lt hfr, Nat.add_zero]
  have hm : (2 ^ f.frac * ex + fr) % 2 ^ f.frac = fr := by rw [Nat.mul_add_mod, Nat.mod_eq_of_lt hfr]
  rw [hd, hm]
  by_cases he : ex = 2 ^ f.ebits - 1
  · rw [if_pos he] at hx ⊢
    by_cases h0 : fr = 0
    · rw [if_pos h0]
      exact .inl ⟨by rw [he, h0, Nat.add_zero], rfl⟩
    · rw [if_neg h0] at hx; cases hx
  · rw [if_neg he]
    have hlt : 2 ^ f.frac * ex + fr < 2 ^ f.frac * (2 ^ f.ebits - 1) :=
      calc 2 ^ f.frac * ex + fr < 2 ^ f.frac * (ex + 1) := by rw [Nat.mul_succ]; omega
        _ ≤ 2 ^ f.frac * (2 ^ f.ebits - 1) := Nat.mul_le_mul_left _ (by omega)
    refine .inr ⟨hlt, ?_⟩
    by_cases h0 : ex = 0
    · rw [if_pos h0]
      subst h0
      rw [Nat.mul_zero, Nat.zero_add]
      exact ⟨fr, _, rfl, le_refl _, fun _ => ⟨rfl, .inl rfl⟩, fun h => absurd h (by omega)⟩
    · rw [if_neg h0]
      have hge : 2 ^ f.frac ≤ 2 ^ f.frac * ex + fr := (Nat.le_mul_of_pos_right _ (by omega)).trans (Nat.le_add_right _ _)
      refine ⟨_, _, rfl, ?_, fun h => absurd h (by omega), fun _ => ⟨rfl, ?_⟩⟩ <;> unfold Fmt.low Fmt.emin <;> omega

/-- Reading a source, a subnormal as a zero under FZ (R35). -/
theorem coded_flushIn (f : Fmt) (fz : Bool) {x : Nat} (hx : (flushIn f fz x).isNan = false) :
    ∃ n c, Coded f (flushIn f fz x) n c := by
  have hd : (decodeFp f x).isNan = false := by
    unfold flushIn at hx
    cases h : decodeFp f x with
    | nan b => rw [h] at hx; cases hx
    | inf n => rfl
    | fin n m e => rfl
  obtain ⟨hc, hp⟩ | ⟨hc, m, e, hp, hlow, hs⟩ := coded_decodeFp f hd
  · exact ⟨_, _, .inl ⟨hc, by rw [flushIn, hp]⟩⟩
  · rw [flushIn, hp]
    dsimp only
    split
    · have hpos : 0 < f.infBits false := by cases f <;> decide
      have hlow0 : f.low ≤ 0 := by cases f <;> decide
      exact ⟨_, 0, .inr ⟨hpos, 0, 0, rfl, hlow0, fun _ => ⟨rfl, .inr rfl⟩, fun h => absurd h (by
        have := Nat.two_pow_pos f.frac; omega)⟩⟩
    · exact ⟨_, _, .inr ⟨hc, m, e, rfl, hlow, hs⟩⟩

/-! ### A value of the format is its own rounding -/

/-- A magnitude already in its unit is not rounded (R32). -/
theorem roundFmt_of_unit (f : Fmt) (rm : BitVec 2) (n : Bool) {m : Nat} {e : Int} (hm : m ≠ 0) (hu : unitLog f m e = e)
    (hb : floorLog m e ≤ f.bias) : (roundFmt f rm false (.fin n m e)).1 = packFp f n m e := by
  have hlog : Nat.log2 m ≤ f.frac := by unfold unitLog floorLog at hu; omega
  have hmlt : ¬ 2 ^ (f.frac + 1) ≤ m := by
    have h := lt_two_pow_log2_add m 0
    have h' : 2 ^ (Nat.log2 m + 0 + 1) ≤ 2 ^ (f.frac + 1) := Nat.pow_le_pow_right (by decide) (by omega)
    omega
  have hmag : unitMag f rm n m e = m := by
    rw [unitMag, hu, roundMag_of_le rm n m (le_refl e)]
    simp
  have hq : floorLog m e - f.frac ≤ e := by unfold floorLog; omega
  have hrl : roundedLog f rm n m e = floorLog m e := by
    have h := lt_two_pow_log2_add m (e - (floorLog m e - f.frac)).toNat
    have h' : Nat.log2 m + (e - (floorLog m e - f.frac)).toNat + 1 = f.frac + 1 := by unfold floorLog; omega
    rw [h'] at h
    rw [roundedLog, roundMag_of_le rm n m hq, if_neg]
    simpa using h
  rw [roundFmt_fin f rm false n e hm, hrl, if_neg (not_lt.2 hb), roundedSig, roundedUnit, hmag, if_neg hmlt, if_neg hmlt, hu]
  rfl

/-- A value of the format is given back as its code (R31). -/
theorem exactBits_of_coded {f : Fmt} {p : FNum} {n : Bool} {c : Nat} (h : Coded f p n c) :
    exactBits f p = n.toNat * 2 ^ (f.ebits + f.frac) + c := by
  have hP := Nat.two_pow_pos f.frac
  obtain ⟨rfl, rfl⟩ | ⟨hc, m, e, rfl, hlow, hsub, hnorm⟩ := h
  · simp [exactBits, roundFmt, Fmt.infBits]
  have hbias := f.two_bias
  have hdef : f.low = 1 - f.bias - f.frac := rfl
  obtain hs | hn := Nat.lt_or_ge c (2 ^ f.frac)
  · obtain ⟨rfl, he⟩ := hsub hs
    by_cases hm : m = 0
    · subst hm
      simp [exactBits, roundFmt]
    obtain rfl := he.resolve_right hm
    have hlog : Nat.log2 m < f.frac := (Nat.log2_lt hm).mpr hs
    have hu : unitLog f m f.low = f.low := by unfold unitLog floorLog Fmt.emin; omega
    have hb : floorLog m f.low ≤ f.bias := by unfold floorLog; omega
    rw [exactBits, roundFmt_of_unit f 0 n hm hu hb, packFp, if_pos hs]
  · obtain ⟨rfl, rfl⟩ := hnorm hn
    have hfr := Nat.mod_lt c hP
    have hk : 1 ≤ c / 2 ^ f.frac := (Nat.one_le_div_iff hP).mpr hn
    have hk' : c / 2 ^ f.frac < 2 ^ f.ebits - 1 := by
      rw [Nat.div_lt_iff_lt_mul hP]
      simpa [Fmt.infBits] using hc
    have hdm := Nat.div_add_mod c (2 ^ f.frac)
    have hlog : Nat.log2 (2 ^ f.frac + c % 2 ^ f.frac) = f.frac := by
      rw [Nat.log2_eq_iff (by omega), Nat.pow_succ]
      omega
    generalize c / 2 ^ f.frac = k at hk hk' hdm hlow ⊢
    have hu : unitLog f (2 ^ f.frac + c % 2 ^ f.frac) (f.low + (k - 1 : Nat)) = f.low + (k - 1 : Nat) := by
      unfold unitLog floorLog Fmt.emin; rw [hlog]; omega
    have hb : floorLog (2 ^ f.frac + c % 2 ^ f.frac) (f.low + (k - 1 : Nat)) ≤ f.bias := by
      unfold floorLog; rw [hlog]; omega
    have hexp : (f.low + (k - 1 : Nat) + f.frac + f.bias).toNat = k := by omega
    rw [exactBits, roundFmt_of_unit f 0 n (by omega) hu hb, packFp, if_neg (by omega), hexp, Nat.add_sub_cancel_left,
      Nat.add_assoc, Nat.mul_comm k, hdm]

/-! ### Order -/

/-- The magnitude of a coded value in units of the smallest subnormal number. -/
theorem alignTo_of_coded {f : Fmt} {n n' : Bool} {m c : Nat} {e : Int} (h : Coded f (.fin n m e) n' c) :
    n = n' ∧ c < f.infBits false ∧ f.low ≤ e ∧ alignTo n m e f.low = signed n (magValue f c) := by
  obtain ⟨-, hp⟩ | ⟨hc, m', e', hp, hlow, hsub, hnorm⟩ := h
  · cases hp
  cases hp
  refine ⟨rfl, hc, hlow, ?_⟩
  unfold alignTo magValue
  obtain hs | hn := Nat.lt_or_ge c (2 ^ f.frac)
  · obtain ⟨rfl, he⟩ := hsub hs
    rw [if_pos hs]
    obtain rfl | rfl := he
    · simp
    · simp
  · obtain ⟨rfl, rfl⟩ := hnorm hn
    rw [if_neg (Nat.not_lt.mpr hn)]
    congr 3
    omega

/-- Alignment to a smaller unit scales by a power of two. -/
theorem alignTo_of_le (n : Bool) (m : Nat) {e e0 e1 : Int} (h : e0 ≤ e1) (h1 : e1 ≤ e) :
    alignTo n m e e0 = alignTo n m e e1 * 2 ^ (e1 - e0).toNat := by
  have he : (e - e0).toNat = (e - e1).toNat + (e1 - e0).toNat := by omega
  unfold alignTo signed
  rw [he, Nat.pow_add, ← Nat.mul_assoc]
  split <;> push_cast <;> ring

theorem magValue_lt_inf {f : Fmt} {c : Nat} (h : c < f.infBits false) : magValue f c < magValue f (f.infBits false) :=
  magValue_strictMono f h

/-- Values compare as their signed magnitudes (R31). -/
theorem lt_iff_of_coded {f : Fmt} {p q : FNum} {n n' : Bool} {c c' : Nat} (hp : Coded f p n c) (hq : Coded f q n' c') :
    p.lt q = true ↔ signed n (magValue f c) < signed n' (magValue f c') := by
  have hinf : 0 < f.infBits false := by cases f <;> decide
  have hpos : 0 < magValue f (f.infBits false) := (magValue_zero f).symm.trans_lt (magValue_lt_inf hinf)
  cases p with
  | nan b => simp [Coded] at hp
  | inf a =>
    have hp' : c = f.infBits false ∧ a = n := by simpa [Coded] using hp
    obtain ⟨rfl, rfl⟩ := hp'
    cases q with
    | nan b => simp [Coded] at hq
    | inf b =>
      have hq' : c' = f.infBits false ∧ b = n' := by simpa [Coded] using hq
      obtain ⟨rfl, rfl⟩ := hq'
      cases a <;> cases b <;> simp [FNum.lt, signed] <;> omega
    | fin b m e =>
      have hlt : magValue f c' < magValue f (f.infBits false) := magValue_lt_inf (alignTo_of_coded hq).2.1
      cases a <;> cases n' <;> simp [FNum.lt, signed] <;> omega
  | fin a m e =>
    cases q with
    | nan b => simp [Coded] at hq
    | inf b =>
      have hq' : c' = f.infBits false ∧ b = n' := by simpa [Coded] using hq
      obtain ⟨rfl, rfl⟩ := hq'
      have hlt : magValue f c < magValue f (f.infBits false) := magValue_lt_inf (alignTo_of_coded hp).2.1
      cases n <;> cases b <;> simp [FNum.lt, signed] <;> omega
    | fin b m' e' =>
      obtain ⟨rfl, -, hlow, hv⟩ := alignTo_of_coded hp
      obtain ⟨rfl, -, hlow', hv'⟩ := alignTo_of_coded hq
      have hmin : f.low ≤ min e e' := le_min hlow hlow'
      rw [← hv, ← hv', alignTo_of_le a m hmin (min_le_left e e'), alignTo_of_le b m' hmin (min_le_right e e'),
        mul_lt_mul_iff_of_pos_right (by positivity)]
      simp [FNum.lt]

theorem isZero_of_coded {f : Fmt} {p : FNum} {n : Bool} {c : Nat} (h : Coded f p n c) : p.isZero = true ↔ c = 0 := by
  have hP := Nat.two_pow_pos f.frac
  obtain ⟨rfl, rfl⟩ | ⟨-, m, e, rfl, -, hsub, hnorm⟩ := h
  · have hinf : f.infBits false ≠ 0 := by cases f <;> decide
    simp [FNum.isZero, hinf]
  · have hz : (FNum.fin n m e).isZero = true ↔ m = 0 := by simp [FNum.isZero]
    rw [hz]
    obtain hs | hn := Nat.lt_or_ge c (2 ^ f.frac)
    · rw [(hsub hs).1]
    · rw [(hnorm hn).1]
      omega

theorem isNeg_of_coded {f : Fmt} {p : FNum} {n : Bool} {c : Nat} (h : Coded f p n c) : p.isNeg = n := by
  obtain ⟨-, rfl⟩ | ⟨-, m, e, rfl, -⟩ := h <;> rfl

theorem le_inf_of_coded {f : Fmt} {p : FNum} {n : Bool} {c : Nat} (h : Coded f p n c) : c ≤ f.infBits false := by
  obtain ⟨rfl, -⟩ | ⟨h, -⟩ := h
  · exact le_refl _
  · exact h.le

/-- The rank of a code by its sign and magnitude: −0 stands just below +0 (R206). -/
def codeRank (n : Bool) (c : Nat) : Int := if n then -(c : Int) - 1 else c

/-- One value ranks above another where it is larger, or is +0 and the other −0 (R206). -/
theorem codeRank_lt_iff {f : Fmt} {p q : FNum} {n n' : Bool} {c c' : Nat} (hp : Coded f p n c) (hq : Coded f q n' c') :
    codeRank n' c' < codeRank n c ↔
      q.lt p = true ∨ (p.isZero = true ∧ q.isZero = true ∧ p.isNeg = false ∧ q.isNeg = true) := by
  rw [lt_iff_of_coded hq hp, isZero_of_coded hp, isZero_of_coded hq, isNeg_of_coded hp, isNeg_of_coded hq]
  have hlt := (magValue_strictMono f).lt_iff_lt (a := c) (b := c')
  have hlt' := (magValue_strictMono f).lt_iff_lt (a := c') (b := c)
  have h0 := (magValue_strictMono f).injective.eq_iff (a := c) (b := 0)
  have h0' := (magValue_strictMono f).injective.eq_iff (a := c') (b := 0)
  rw [magValue_zero] at h0 h0'
  generalize magValue f c = V at *
  generalize magValue f c' = V' at *
  cases n <;> cases n' <;> simp [codeRank, signed] <;> omega

end Sys2Proof.Machine
end


section
/-! SUPPORT. Ranking: the key of an element rises with its rank, and the enabled elements are put in the order of
their keys (R206). -/

namespace Sys2Proof.Machine

open Sys2Proof.Claims

/-! ### Keys -/

theorem VType.bits_of_isFp {t : VType} (h : VType.isFp t = true) :
    VType.bits t - 1 = (VType.fmt t).ebits + (VType.fmt t).frac := by
  cases t with
  | f32 | bf16 | f16 => rfl
  | _ => cases h

theorem Fmt.infBits_lt_sign (f : Fmt) : f.infBits false < 2 ^ (f.ebits + f.frac) := by cases f <;> decide

/-- The key of a number of a floating-point type is the rank of its code. -/
theorem rankKey_of_coded {st : Strand} {t : VType} (u : Bool) {x : Nat} {n : Bool} {c : Nat} (ht : VType.isFp t = true)
    (h : Coded (VType.fmt t) (flushIn (VType.fmt t) st.fz x) n c) : rankKey st t u x = codeRank n c := by
  have hnan : (flushIn (VType.fmt t) st.fz x).isNan = false := by
    obtain ⟨-, hp⟩ | ⟨-, m, e, hp, -⟩ := h <;> rw [hp] <;> rfl
  have hc := (le_inf_of_coded h).trans_lt (VType.fmt t).infBits_lt_sign
  unfold rankKey
  rw [if_pos ht]
  dsimp only
  rw [hnan, exactBits_of_coded h, VType.bits_of_isFp ht]
  cases n
  · simp [codeRank, hc]
  · simp [codeRank]

theorem rankKey_of_nan {st : Strand} {t : VType} (u : Bool) {x : Nat} (ht : VType.isFp t = true)
    (h : (flushIn (VType.fmt t) st.fz x).isNan = true) : rankKey st t u x = 2 ^ 40 := by
  unfold rankKey
  rw [if_pos ht]
  dsimp only
  rw [if_pos h]

theorem codeRank_lt_nan {f : Fmt} {p : FNum} {n : Bool} {c : Nat} (h : Coded f p n c) : codeRank n c < 2 ^ 40 := by
  have hi : f.infBits false < 2 ^ 40 := by cases f <;> decide
  have hc := (le_inf_of_coded h).trans_lt hi
  unfold codeRank
  split <;> omega

/-- An element ranks above another by the order of R206. -/
def ranksAbove (p q : FNum) : Prop :=
  q.isNan = false ∧ (p.isNan = true ∨ q.lt p = true ∨
    (p.isZero = true ∧ q.isZero = true ∧ p.isNeg = false ∧ q.isNeg = true))

theorem ranksAbove_iff (st : Strand) {t : VType} (u : Bool) (ht : VType.isFp t = true) (x y : Nat) :
    ranksAbove (flushIn (VType.fmt t) st.fz x) (flushIn (VType.fmt t) st.fz y) ↔ rankKey st t u y < rankKey st t u x := by
  unfold ranksAbove
  cases hq : (flushIn (VType.fmt t) st.fz y).isNan
  · obtain ⟨n', c', hcq⟩ := coded_flushIn _ _ hq
    rw [rankKey_of_coded u ht hcq]
    cases hp : (flushIn (VType.fmt t) st.fz x).isNan
    · obtain ⟨n, c, hcp⟩ := coded_flushIn _ _ hp
      rw [rankKey_of_coded u ht hcp, codeRank_lt_iff hcp hcq]
      simp
    · rw [rankKey_of_nan u ht hp]
      simpa using codeRank_lt_nan hcq
  · rw [rankKey_of_nan u ht hq]
    cases hp : (flushIn (VType.fmt t) st.fz x).isNan
    · obtain ⟨n, c, hcp⟩ := coded_flushIn _ _ hp
      rw [rankKey_of_coded u ht hcp]
      simpa using (codeRank_lt_nan hcp).le
    · rw [rankKey_of_nan u ht hp]
      simp

/-- Elements rank in the order of their keys (R206). -/
theorem above_iff (st : Strand) {t : VType} {u : Bool} (ht : t ≠ .df8) (ht' : t ≠ .rns)
    (hu : u = true → t ∈ [VType.i32, .i16, .i8]) (x y : Nat) :
    Claims.above st t u x y ↔ rankKey st t u y < rankKey st t u x := by
  have hint : VType.isFp t = false → rankKey st t u = fun x : Nat => if u then (x : Int) else (x : Int).bmod (2 ^ VType.bits t) := by
    intro h
    funext x
    rw [rankKey, h, if_neg (by decide), sextNat_eq_bmod (VType.bits_pos t)]
  cases t with
  | df8 => exact absurd rfl ht
  | rns => exact absurd rfl ht'
  | f32 => exact ranksAbove_iff (t := .f32) st u rfl x y
  | bf16 => exact ranksAbove_iff (t := .bf16) st u rfl x y
  | f16 => exact ranksAbove_iff (t := .f16) st u rfl x y
  | i32 | i16 | i8 =>
    rw [hint rfl]
    cases u <;> simp [Claims.above]

/-! ### Ranking -/

/-- One entry stands before another: its key is larger, or equal and its element's number smaller. -/
def ranksBefore (a b : Int × Nat) : Prop := b.1 < a.1 ∨ (a.1 = b.1 ∧ a.2 < b.2)

theorem rankInsert_perm (e : Int × Nat) (l : List (Int × Nat)) : (rankInsert e l).Perm (e :: l) := by
  induction l with
  | nil => exact .refl _
  | cons x r ih =>
    unfold rankInsert
    split
    · exact .refl _
    · exact (ih.cons x).trans (.swap e x r)

/-- An entry later than all others goes behind those of its key. -/
theorem rankInsert_pairwise {e : Int × Nat} {l : List (Int × Nat)} (h : l.Pairwise ranksBefore) (he : ∀ x ∈ l, x.2 < e.2) :
    (rankInsert e l).Pairwise ranksBefore := by
  induction l with
  | nil => exact List.pairwise_singleton _ _
  | cons x r ih =>
    obtain ⟨hx, hr⟩ := List.pairwise_cons.1 h
    unfold rankInsert
    split
    · rename_i hlt
      refine List.pairwise_cons.2 ⟨fun y hy => .inl ?_, h⟩
      obtain rfl | hy := List.mem_cons.1 hy
      · exact hlt
      · obtain hlt' | ⟨heq, -⟩ := hx y hy
        · exact hlt'.trans hlt
        · exact heq ▸ hlt
    · rename_i hge
      refine List.pairwise_cons.2 ⟨fun y hy => ?_, ih hr fun y hy => he y (List.mem_cons_of_mem _ hy)⟩
      obtain rfl | hy := List.mem_cons.1 ((rankInsert_perm e r).mem_iff.1 hy)
      · have hx2 := he x List.mem_cons_self
        obtain hlt | heq := (not_lt.1 hge).lt_or_eq
        · exact .inl hlt
        · exact .inr ⟨heq.symm, hx2⟩
      · exact hx y hy

/-- The entries of elements in rising order, ranked by the keys `key`. -/
def rankedEntries (key : Nat → Int) (l : List Nat) : List (Int × Nat) :=
  l.foldl (fun acc j => rankInsert (key j, j) acc) []

theorem rankedEntries_perm (key : Nat → Int) (l : List Nat) : (rankedEntries key l).Perm (l.map fun j => (key j, j)) := by
  induction l using List.reverseRecOn with
  | nil => exact .refl _
  | append_singleton l j ih =>
    rw [rankedEntries, List.foldl_append, List.map_append]
    exact (rankInsert_perm _ _).trans ((ih.cons _).trans (List.perm_append_singleton _ _).symm)

theorem rankedEntries_pairwise (key : Nat → Int) {l : List Nat} (hl : l.Pairwise (· < ·)) :
    (rankedEntries key l).Pairwise ranksBefore := by
  induction l using List.reverseRecOn with
  | nil => exact .nil
  | append_singleton l j ih =>
    obtain ⟨hl', -, hj⟩ := List.pairwise_append.1 hl
    rw [rankedEntries, List.foldl_append]
    refine rankInsert_pairwise (ih hl') fun x hx => ?_
    obtain ⟨i, hi, rfl⟩ := List.mem_map.1 ((rankedEntries_perm key l).mem_iff.1 hx)
    exact hj i hi j (List.mem_singleton_self j)

/-- The ranked elements are the given ones, each once, in the order of their keys. -/
theorem rankedEntries_spec (key : Nat → Int) {l : List Nat} (hl : l.Pairwise (· < ·)) :
    let order := (rankedEntries key l).map (·.2)
    order.Perm l ∧ order.Pairwise fun i j => key j < key i ∨ (key i = key j ∧ i < j) := by
  intro order
  have hperm := rankedEntries_perm key l
  have hkey : ∀ e ∈ rankedEntries key l, e.1 = key e.2 := fun e he => by
    obtain ⟨i, -, rfl⟩ := List.mem_map.1 (hperm.mem_iff.1 he)
    rfl
  refine ⟨by simpa [Function.comp_def] using hperm.map (·.2), List.pairwise_map.2 ?_⟩
  refine (rankedEntries_pairwise key hl).imp_of_mem fun ha hb h => ?_
  rw [← hkey _ ha, ← hkey _ hb]
  exact h

/-! ### VTOPK -/

theorem ranked_eq (st : Strand) (t : VType) (u : Bool) (m : MaskWord) (v : VecWord) :
    ranked st t u m (lanesOf t v) = (rankedEntries (fun j => rankKey st t u ((lanesOf t v).getD j 0))
      ((List.range (VType.lanes t)).filter (enabled m (VType.lanes t)))).map (·.2) := by
  rw [ranked, length_lanesOf]
  rfl

theorem rankValue_eq (st : Strand) (t : VType) (x : Nat) :
    rankValue st t x = match floatTypes.find? (·.1 == t) with
      | some q => exactBits q.2 (flushIn q.2 st.fz x)
      | none => x := by
  cases t <;> rfl

theorem rankValue_lt (st : Strand) (t : VType) {x : Nat} (hx : x < 2 ^ VType.bits t) :
    rankValue st t x < 2 ^ VType.bits t := by
  cases t with
  | f32 | bf16 | f16 => exact exactBits_lt _ _
  | _ => exact hx

/-- The flag a ranked element raises (R206). -/
theorem rankFlag_eq (t : VType) (x : Nat) :
    flagIf (VType.isFp t && (decodeFp (VType.fmt t) x).isSnan) flagNV =
      match floatTypes.find? (·.1 == t) with
        | some q => if (decodeFp q.2 x).isSnan then (16 : BitVec 5) else 0
        | none => 0 := by
  cases t <;> rfl

theorem getLsbD_flagIf (b : Bool) (v : BitVec 5) (k : Nat) :
    (flagIf b v).getLsbD k = true ↔ b = true ∧ v.getLsbD k = true := by
  cases b <;> simp [flagIf, flagNone]

/-- One flag for all elements is the flags of each, merged. -/
theorem merged_flagIf {b : Bool} {on : Nat → Prop} {n : Nat} {c : Nat → Bool} (v : BitVec 5)
    (h : b = true ↔ ∃ j < n, on j ∧ c j = true) : Merged (flagIf b v) on n fun j => flagIf (c j) v := by
  intro k _
  simp only [getLsbD_flagIf, h]
  constructor
  · rintro ⟨⟨j, hj, ho, hc⟩, hv⟩
    exact ⟨j, hj, ho, hc, hv⟩
  · rintro ⟨j, hj, ho, hc, hv⟩
    exact ⟨⟨j, hj, ho, hc⟩, hv⟩

/-- The ranked enabled elements of a register. -/
def topOrder (s : State) (a : WReg) (m : MReg) (t : VType) (u : Bool) : List Nat :=
  ranked s.me t u (readM s.me m) (lanesOf t (readW s.me a))

/-- What VTOPK writes at place `p`. -/
def topElem (s : State) (a : WReg) (g : GReg16) (m : MReg) (t : VType) (idx u : Bool) (p : Nat) : Nat :=
  if p < min (readG s.me (g16 g)).toNat (VType.lanes t) then
    match (topOrder s a m t u)[p]? with
    | some j => if idx then j else rankValue s.me t ((lanesOf t (readW s.me a)).getD j 0)
    | none => if idx then 2 ^ VType.bits t - 1 else 0
  else 0

section
variable {s : State} {a : WReg} {g : GReg16} {m : MReg} {t : VType} {idx u : Bool}

theorem topOrder_spec :
    (topOrder s a m t u).Perm ((List.range (VType.lanes t)).filter (enabled (readM s.me m) (VType.lanes t))) ∧
    (topOrder s a m t u).Pairwise fun i j =>
      rankKey s.me t u ((lanesOf t (readW s.me a)).getD j 0) < rankKey s.me t u ((lanesOf t (readW s.me a)).getD i 0) ∨
      (rankKey s.me t u ((lanesOf t (readW s.me a)).getD i 0) = rankKey s.me t u ((lanesOf t (readW s.me a)).getD j 0) ∧
        i < j) := by
  rw [topOrder, ranked_eq]
  exact rankedEntries_spec _ (List.pairwise_lt_range.filter _)

theorem mem_topOrder {j : Nat} :
    j ∈ topOrder s a m t u ↔ j < VType.lanes t ∧ enabled (readM s.me m) (VType.lanes t) j = true := by
  rw [topOrder_spec.1.mem_iff, List.mem_filter, List.mem_range]

theorem VType.lanes_lt (t : VType) : VType.lanes t < 2 ^ VType.bits t := by cases t <;> decide

theorem topElem_lt (p : Nat) : topElem s a g m t idx u p < 2 ^ VType.bits t := by
  have hpos := Nat.two_pow_pos (VType.bits t)
  unfold topElem
  split
  · split
    · rename_i j hj
      have hm := (mem_topOrder.1 (List.mem_of_getElem? hj)).1
      split
      · exact hm.trans (VType.lanes_lt t)
      · rw [getD_lanesOf _ _ hm]
        exact rankValue_lt _ _ (elemOf_lt _ _ _)
    · split <;> omega
  · exact hpos

theorem exec_vtopk {d : WReg} (h : s.canIssue { g := [g.val], w := [d.val, a.val] } = true) :
    exec (.vtopk d a g m t idx u) s = .next (s.completes { s.me with
      w := s.me.w.set d (vecOf t ((List.range (VType.lanes t)).map (topElem s a g m t idx u))),
      flags := s.me.flags ||| flagIf (VType.isFp t && (topOrder s a m t u).any fun j =>
        (decodeFp (VType.fmt t) ((lanesOf t (readW s.me a)).getD j 0)).isSnan) flagNV }) :=
  congrArg Host.Outcome.next (State.issue_go_modMe h _ _)

end

end Sys2Proof.Machine
end


section
/-! SUPPORT. Reductions and scans: one step of an operation, folds over the enabled elements, and the pairwise tree
(R53, R203, R204). -/

namespace Sys2Proof.Machine

open Sys2Proof.Claims

/-! ### One step -/

theorem fpArith_lt (st : Strand) (f : Fmt) (op : VArith) (x y z : Nat) : (fpArith st f op x y z).1 < 2 ^ f.width := by
  cases op with
  | add | sub | mul | fma => exact roundFmt_lt _ _ _ _
  | min | max | abs | neg => exact exactBits_lt _ _

theorem intArith_lt (op : VArith) (n : Nat) (sat u : Bool) (x y z : Nat) : intArith op n sat u x y z < 2 ^ n := by
  have hr : ∀ i, intResult n sat i < 2 ^ n := fun i => by
    unfold intResult
    split <;> exact wrap_lt _ _
  cases op with
  | min | max => exact wrap_lt _ _
  | _ => exact hr _

theorem rnsArith_lt (op : VArith) (x y : Nat) : rnsArith op x y < 2 ^ 32 := by
  have hc : rnsCanon x < 2 ^ 32 :=
    rnsPack_lt (Nat.mod_lt _ (by decide)) (Nat.mod_lt _ (by decide)) (Nat.mod_lt _ (by decide)) (Nat.mod_lt _ (by decide))
  have hn : rnsNeg x < 2 ^ 32 :=
    rnsPack_lt (Nat.mod_lt _ (by decide)) (Nat.mod_lt _ (by decide)) (Nat.mod_lt _ (by decide)) (Nat.mod_lt _ (by decide))
  cases op with
  | add | sub | mul => exact rnsMap2_lt _ _ _
  | neg => exact hn
  | _ => exact hc

theorem vArith_lt (st : Strand) {t : VType} (ht : t ≠ .df8) (op : VArith) (sat u : Bool) (x y z : Nat) :
    (vArith st t op sat u x y z).1 < 2 ^ VType.bits t := by
  cases t with
  | df8 => exact absurd rfl ht
  | f32 | bf16 | f16 => exact fpArith_lt _ _ _ _ _ _
  | i32 | i16 | i8 => exact intArith_lt _ _ _ _ _ _ _
  | rns => exact rnsArith_lt _ _ _

/-- The step of an operation of VRED and VSCAN. -/
def redStep (st : Strand) (t : VType) (u : Bool) (o : BitVec 2) (x y : Nat) : Nat × BitVec 5 :=
  vArith st t (redOp o) false u x y 0

theorem wrap_ofNat {n x : Nat} (hx : x < 2 ^ n) : wrap n (x : Int) = x := by
  have h : (x : Int) % (2 : Int) ^ n = ((x % 2 ^ n : Nat) : Int) := by push_cast; rfl
  rw [wrap, h, Nat.mod_eq_of_lt hx]
  rfl

theorem wrap_sextNat {n x : Nat} (hn : 0 < n) (hx : x < 2 ^ n) : wrap n (sextNat n x) = x := by
  have h : sextNat n x % (2 : Int) ^ n = (x : Int) % (2 : Int) ^ n := by
    rw [sextNat_eq_bmod hn, show (2 : Int) ^ n = ((2 ^ n : Nat) : Int) by push_cast; rfl, Int.bmod_emod]
  rw [wrap, h]
  exact wrap_ofNat hx

/-- The value of an integer element, signed or not. -/
def elemValue (n : Nat) (u : Bool) (x : Nat) : Int := if u then ((x % 2 ^ n : Nat) : Int) else sextNat n x

theorem wrap_elemValue {n x : Nat} (hn : 0 < n) (hx : x < 2 ^ n) (u : Bool) : wrap n (elemValue n u x) = x := by
  cases u
  · exact wrap_sextNat hn hx
  · rw [elemValue, if_pos rfl, Nat.mod_eq_of_lt hx]
    exact wrap_ofNat hx

theorem elemValue_lt_iff {n x y : Nat} (hn : 0 < n) (hx : x < 2 ^ n) (hy : y < 2 ^ n) (u : Bool) :
    elemValue n u x < elemValue n u y ↔
      if u then x < y else (x : Int).bmod (2 ^ n) < (y : Int).bmod (2 ^ n) := by
  unfold elemValue
  rw [sextNat_eq_bmod hn, sextNat_eq_bmod hn, Nat.mod_eq_of_lt hx, Nat.mod_eq_of_lt hy]
  cases u <;> simp

/-- An integer minimum is one of the two elements, the first where neither is smaller. -/
theorem intArith_min {n : Nat} (hn : 0 < n) (sat u : Bool) {x y : Nat} (hx : x < 2 ^ n) (hy : y < 2 ^ n) (z : Nat) :
    intArith .min n sat u x y z =
      if (if u then y < x else (y : Int).bmod (2 ^ n) < (x : Int).bmod (2 ^ n)) then y else x := by
  have he : intArith .min n sat u x y z =
      wrap n (if elemValue n u x ≤ elemValue n u y then elemValue n u x else elemValue n u y) := rfl
  simp only [he, ← elemValue_lt_iff hn hy hx u, apply_ite (wrap n), wrap_elemValue hn hx, wrap_elemValue hn hy]
  by_cases hlt : elemValue n u y < elemValue n u x
  · rw [if_pos hlt, if_neg (not_le.2 hlt)]
  · rw [if_neg hlt, if_pos (not_lt.1 hlt)]

theorem intArith_max {n : Nat} (hn : 0 < n) (sat u : Bool) {x y : Nat} (hx : x < 2 ^ n) (hy : y < 2 ^ n) (z : Nat) :
    intArith .max n sat u x y z =
      if (if u then x < y else (x : Int).bmod (2 ^ n) < (y : Int).bmod (2 ^ n)) then y else x := by
  have he : intArith .max n sat u x y z =
      wrap n (if elemValue n u x ≤ elemValue n u y then elemValue n u y else elemValue n u x) := rfl
  simp only [he, ← elemValue_lt_iff hn hx hy u, apply_ite (wrap n), wrap_elemValue hn hx, wrap_elemValue hn hy]
  obtain hlt | heq | hgt := lt_trichotomy (elemValue n u x) (elemValue n u y)
  · rw [if_pos hlt, if_pos hlt.le]
  · have hxy : x = y := by rw [← wrap_elemValue hn hx u, heq, wrap_elemValue hn hy u]
    rw [hxy, ite_self, ite_self]
  · rw [if_neg hgt.not_gt, if_neg (not_le.2 hgt)]

/-- What VRED and VSCAN accept (R203, R204). -/
def Reduces (t : VType) (u : Bool) (o : BitVec 2) : Prop :=
  t ≠ .df8 ∧ o ≠ 3 ∧ (t = .rns → o = 0) ∧ (u = true → o ≠ 0 ∧ t ∈ [VType.i32, .i16, .i8])

theorem redOp_cases {o : BitVec 2} (h : o ≠ 3) : o = 0 ∨ o = 1 ∨ o = 2 := by
  have hall : ∀ o : BitVec 2, o ≠ 3 → o = 0 ∨ o = 1 ∨ o = 2 := by decide
  exact hall o h

/-- An integer step is that of the table. -/
theorem intStep_eq {n : Nat} (hn : 0 < n) (t : VType) {u : Bool} {o : BitVec 2} (h3 : o ≠ 3) (hu : u = true → o ≠ 0)
    {x y : Nat} (hx : x < 2 ^ n) (hy : y < 2 ^ n) :
    intArith (redOp o) n false u x y 0 =
      (((intLanes n false u 0 0 0 0 t).map (·.2)).getD ([0, 4, 5].getD o.toNat 0) fun _ _ _ => 0) x y 0 := by
  obtain rfl | rfl | rfl := redOp_cases h3
  · obtain rfl : u = false := by
      cases u
      · rfl
      · exact absurd rfl (hu rfl)
    show wrap n (sextNat n x + sextNat n y) = _
    rw [sextNat_eq_bmod hn, sextNat_eq_bmod hn]
    rfl
  · exact intArith_min hn false u hx hy 0
  · exact intArith_max hn false u hx hy 0

/-- A floating-point step is that of the table. -/
theorem floatStep_eq (st : Strand) (f : Fmt) (t : VType) {o : BitVec 2} (h3 : o ≠ 3) (x y : Nat) :
    fpArith st f (redOp o) x y 0 =
      (((floatLanes st f 0 0 0 0 t).map (·.2)).getD ([0, 4, 5].getD o.toNat 0) fun _ _ _ => (0, 0)) x y 0 := by
  obtain rfl | rfl | rfl := redOp_cases h3 <;> rfl

/-- A step is that of the tables (R181, R203). -/
theorem redStep_eq_combine (st : Strand) {t : VType} {u : Bool} {o : BitVec 2} (h : Reduces t u o) {x y : Nat}
    (hx : x < 2 ^ VType.bits t) (hy : y < 2 ^ VType.bits t) : redStep st t u o x y = combine st t u o.toNat x y := by
  obtain ⟨hdf, h3, hr, hu⟩ := h
  have hu0 : u = true → o ≠ 0 := fun h => (hu h).1
  cases t with
  | df8 => exact absurd rfl hdf
  | f32 => exact floatStep_eq st .f32 .f32 h3 x y
  | bf16 => exact floatStep_eq st .bf16 .bf16 h3 x y
  | f16 => exact floatStep_eq st .f16 .f16 h3 x y
  | i32 => exact congrArg (·, flagNone) (intStep_eq (by decide) .i32 h3 hu0 hx hy)
  | i16 => exact congrArg (·, flagNone) (intStep_eq (by decide) .i16 h3 hu0 hx hy)
  | i8 => exact congrArg (·, flagNone) (intStep_eq (by decide) .i8 h3 hu0 hx hy)
  | rns => rw [hr rfl]; rfl

theorem combine_lt (st : Strand) {t : VType} {u : Bool} {o : BitVec 2} (h : Reduces t u o) {x y : Nat}
    (hx : x < 2 ^ VType.bits t) (hy : y < 2 ^ VType.bits t) : (combine st t u o.toNat x y).1 < 2 ^ VType.bits t := by
  rw [← redStep_eq_combine st h hx hy]
  exact vArith_lt st h.1 _ _ _ _ _ _

theorem identity_eq_foldStart {t : VType} {u : Bool} {o : BitVec 2} (h : Reduces t u o) :
    identity t o u = foldStart t u o.toNat := by
  obtain ⟨hdf, h3, hr, -⟩ := h
  obtain rfl | rfl | rfl := redOp_cases h3
  · rfl
  all_goals cases t with
    | rns => exact absurd (hr rfl) (by decide)
    | df8 => exact absurd rfl hdf
    | _ => rfl

theorem identity_lt (t : VType) (o : BitVec 2) (u : Bool) : identity t o u < 2 ^ VType.bits t := by
  have hp := Nat.two_pow_pos (VType.bits t)
  have hh : 2 ^ (VType.bits t - 1) < 2 ^ VType.bits t := Nat.pow_lt_pow_right (by decide) (Nat.sub_lt (VType.bits_pos t) (by decide))
  unfold identity
  dsimp only
  split
  · exact hp
  split
  · rename_i hf
    cases t with
    | f32 | bf16 | f16 => exact Fmt.nanBits_lt _
    | _ => cases hf
  · split <;> split <;> omega

end Sys2Proof.Machine
end


section
/-! SUPPORT. Folds, scans and pairwise trees over the elements of a register, for any step (R53, R203, R204). -/

namespace Sys2Proof.Machine

open Sys2Proof.Claims

section
variable (f op : Nat → Nat → Nat × BitVec 5) (x : Nat → Nat) (on : Nat → Bool)

/-! ### Folds -/

/-- The value of a fold before element `j`. -/
def foldBefore (start j : Nat) : Nat := ((List.range j).filter on).foldl (fun acc i => (f acc (x i)).1) start

theorem foldBefore_succ (start j : Nat) : foldBefore f x on start (j + 1) =
    if on j = true then (f (foldBefore f x on start j) (x j)).1 else foldBefore f x on start j := by
  unfold foldBefore
  rw [List.range_succ, List.filter_append, List.foldl_append]
  cases h : on j <;> simp [h]

variable {f op x} {N : Nat} (hop : ∀ a < N, ∀ b < N, op a b = f a b) (hf : ∀ a < N, ∀ b < N, (f a b).1 < N)
  (hx : ∀ i, x i < N)
include hf hx

theorem foldBefore_lt {start : Nat} (hs : start < N) (j : Nat) : foldBefore f x on start j < N := by
  induction j with
  | zero => exact hs
  | succ j ih =>
    rw [foldBefore_succ]
    split
    · exact hf _ ih _ (hx j)
    · exact ih

include hop

/-- A fold over the enabled elements, with the flags of its steps (R203). -/
theorem foldElems_upto {start : Nat} (hs : start < N) (n : Nat) :
    (foldElems op start (((List.range n).filter on).map x)).1 = foldBefore f x on start n ∧
    ∀ k, (foldElems op start (((List.range n).filter on).map x)).2.getLsbD k = true ↔
      ∃ j < n, on j = true ∧ (f (foldBefore f x on start j) (x j)).2.getLsbD k = true := by
  induction n with
  | zero => exact ⟨rfl, fun k => by simp [foldElems, flagNone]⟩
  | succ n ih =>
    obtain ⟨hv, hfl⟩ := ih
    have hb := foldBefore_lt on hf hx hs n
    rw [foldBefore_succ, List.range_succ, List.filter_append, List.map_append]
    unfold foldElems at hv hfl ⊢
    rw [List.foldl_append]
    cases h : on n
    · simp only [List.filter_cons, h, List.filter_nil, List.map_nil, List.foldl_nil, Bool.false_eq_true, if_false]
      refine ⟨hv, fun k => (hfl k).trans ?_⟩
      rw [Nat.exists_lt_succ_right]
      simp [h]
    · simp only [List.filter_cons, h, List.filter_nil, if_true, List.map_cons, List.map_nil, List.foldl_cons, List.foldl_nil,
        hv, hop _ hb _ (hx n)]
      refine ⟨trivial, fun k => ?_⟩
      rw [BitVec.getLsbD_or, Bool.or_eq_true, hfl k, Nat.exists_lt_succ_right]
      simp [h]

/-- A scan from element `j` on (R204). -/
theorem scanFrom_spec {start : Nat} (hs : start < N) (excl : Bool) (old : Nat → Nat) (k : Nat) :
    ∀ (j : Nat) (xs : List Nat), xs.length = k → (∀ i < k, xs.getD i 0 = x (j + i)) →
      (∀ i < k, (scanFrom op on excl old k j (foldBefore f x on start j) xs).1.getD i 0 =
        if on (j + i) = true then foldBefore f x on start (if excl then j + i else j + i + 1) else old (j + i)) ∧
      (scanFrom op on excl old k j (foldBefore f x on start j) xs).1.length = k ∧
      ∀ b, (scanFrom op on excl old k j (foldBefore f x on start j) xs).2.getLsbD b = true ↔
        ∃ i < k, on (j + i) = true ∧ (f (foldBefore f x on start (j + i)) (x (j + i))).2.getLsbD b = true := by
  induction k with
  | zero => exact fun j xs _ _ => ⟨fun i hi => absurd hi (Nat.not_lt_zero i), rfl, fun b => by simp [scanFrom, flagNone]⟩
  | succ k ih =>
    intro j xs hlen hxs
    obtain _ | ⟨y, ys⟩ := xs
    · cases hlen
    have hy : y = x j := hxs 0 (Nat.succ_pos k)
    have hb := foldBefore_lt on hf hx hs j
    have hys : ∀ i < k, ys.getD i 0 = x (j + 1 + i) := fun i hi => by
      rw [Nat.add_right_comm]; exact hxs (i + 1) (Nat.succ_lt_succ hi)
    obtain ⟨ih1, ih2, ih3⟩ := ih (j + 1) ys (Nat.succ.inj hlen) hys
    have hnext := foldBefore_succ f x on start j
    have hshift : ∀ i, j + 1 + i = j + (i + 1) := fun i => by omega
    rw [scanFrom]
    cases h : on j
    · rw [h, if_neg (by decide)] at hnext
      rw [hnext] at ih1 ih2 ih3
      rw [if_neg (by decide)]
      refine ⟨fun i hi => ?_, congrArg (· + 1) ih2, fun b => ?_⟩
      · cases i with
        | zero => simp [h]
        | succ i => rw [List.getD_cons_succ, ih1 i (Nat.lt_of_succ_lt_succ hi), hshift]
      · rw [ih3 b, Nat.exists_lt_succ_left]
        simp [h, hshift]
    · rw [h, if_pos rfl] at hnext
      rw [hnext] at ih1 ih2 ih3
      rw [if_pos rfl, hy, hop _ hb _ (hx j)]
      refine ⟨fun i hi => ?_, congrArg (· + 1) ih2, fun b => ?_⟩
      · cases i with
        | zero => cases excl <;> simp [h, hnext]
        | succ i => rw [List.getD_cons_succ, ih1 i (Nat.lt_of_succ_lt_succ hi), hshift]
      · dsimp only
        rw [BitVec.getLsbD_or, Bool.or_eq_true, ih3 b, Nat.exists_lt_succ_left]
        simp [h, hshift]

end

/-! ### The pairwise tree -/

/-- The flags of `2^k` steps from step `2^k * i` on. -/
def orTree (g : Nat → BitVec 5) : Nat → Nat → BitVec 5
  | 0, i => g i
  | k + 1, i => orTree g k (2 * i) ||| orTree g k (2 * i + 1)

/-- The tree of one more level: a level of pairs, then the tree above it. -/
theorem treeOf_succ (f : Nat → Nat → Nat × BitVec 5) (x : Nat → Nat) (k i : Nat) :
    treeOf f x (k + 1) i =
      ((treeOf f (fun j => (f (x (2 * j)) (x (2 * j + 1))).1) k i).1,
        orTree (fun j => (f (x (2 * j)) (x (2 * j + 1))).2) k i |||
          (treeOf f (fun j => (f (x (2 * j)) (x (2 * j + 1))).1) k i).2) := by
  induction k generalizing i with
  | zero => simp [treeOf, orTree]
  | succ k ih =>
    rw [treeOf, ih, ih]
    dsimp only
    conv_rhs => rw [treeOf]
    dsimp only [orTree]
    refine Prod.ext rfl ?_
    dsimp only
    ac_rfl

theorem pairSum_map_range (op : Nat → Nat → Nat × BitVec 5) (x : Nat → Nat) (m : Nat) :
    pairSum op ((List.range (2 * m)).map x) =
      ((List.range m).map fun j => (op (x (2 * j)) (x (2 * j + 1))).1,
        ((List.range m).map fun j => (op (x (2 * j)) (x (2 * j + 1))).2).foldr (· ||| ·) flagNone) := by
  induction m generalizing x with
  | zero => rfl
  | succ m ih =>
    have h2 : (List.range (2 * (m + 1))).map x = x 0 :: x 1 :: (List.range (2 * m)).map fun i => x (i + 2) := by
      rw [show 2 * (m + 1) = 2 * m + 1 + 1 by ring, List.range_succ_eq_map, List.range_succ_eq_map]
      simp [Function.comp_def]
    rw [h2, pairSum, ih, List.range_succ_eq_map]
    simp [Function.comp_def, Nat.mul_succ]

theorem getLsbD_orTree (g : Nat → BitVec 5) (k i b : Nat) :
    (orTree g k i).getLsbD b = true ↔ ∃ j < 2 ^ k, (g (2 ^ k * i + j)).getLsbD b = true := by
  induction k generalizing i with
  | zero => simp [orTree]
  | succ k ih =>
    have h1 : 2 ^ k * (2 * i) = 2 ^ (k + 1) * i := by ring
    have h2 : 2 ^ k * (2 * i + 1) = 2 ^ (k + 1) * i + 2 ^ k := by ring
    rw [orTree, BitVec.getLsbD_or, Bool.or_eq_true, ih, ih, h1, h2, Nat.pow_succ]
    constructor
    · rintro (⟨j, hj, h⟩ | ⟨j, hj, h⟩)
      · exact ⟨j, by omega, h⟩
      · exact ⟨2 ^ k + j, by omega, by rwa [← Nat.add_assoc]⟩
    · rintro ⟨j, hj, h⟩
      obtain hlt | hge := Nat.lt_or_ge j (2 ^ k)
      · exact .inl ⟨j, hlt, h⟩
      · exact .inr ⟨j - 2 ^ k, by omega, by rwa [Nat.add_assoc, Nat.add_sub_cancel' hge]⟩

theorem getLsbD_foldr_or (l : List (BitVec 5)) (b : Nat) :
    (l.foldr (· ||| ·) flagNone).getLsbD b = true ↔ ∃ v ∈ l, v.getLsbD b = true := by
  induction l with
  | nil => simp [flagNone]
  | cons v l ih => simp [ih]

theorem foldr_or_eq_orTree (g : Nat → BitVec 5) (k : Nat) :
    ((List.range (2 ^ k)).map g).foldr (· ||| ·) flagNone = orTree g k 0 := by
  refine BitVec.eq_of_getLsbD_eq fun b _ => Bool.eq_iff_iff.mpr ?_
  rw [getLsbD_foldr_or, getLsbD_orTree]
  simp

/-- The levels of `treeSum` beyond those that pair elements change nothing. -/
theorem treeSum_singleton (op : Nat → Nat → Nat × BitVec 5) (k v : Nat) : treeSum op k [v] = (v, flagNone) := by
  induction k with
  | zero => rfl
  | succ k ih => simp [treeSum, pairSum, ih, flagNone]

/-- The tree of R53 over `2^k` elements. -/
theorem treeSum_eq_treeOf (op : Nat → Nat → Nat × BitVec 5) (x : Nat → Nat) {k K : Nat} (h : k ≤ K) :
    treeSum op K ((List.range (2 ^ k)).map x) = treeOf op x k 0 := by
  induction k generalizing K x with
  | zero => exact treeSum_singleton op K (x 0)
  | succ k ih =>
    obtain ⟨K, rfl⟩ : ∃ K', K = K' + 1 := ⟨K - 1, by omega⟩
    rw [treeSum, Nat.pow_succ', pairSum_map_range, treeOf_succ]
    dsimp only
    rw [ih _ (Nat.le_of_succ_le_succ h), foldr_or_eq_orTree]

/-- Trees of steps that agree on elements of a type. -/
theorem treeOf_congr {f op : Nat → Nat → Nat × BitVec 5} {x : Nat → Nat} {N : Nat}
    (hop : ∀ a < N, ∀ b < N, op a b = f a b) (hf : ∀ a < N, ∀ b < N, (f a b).1 < N) (hx : ∀ i, x i < N) (k i : Nat) :
    treeOf op x k i = treeOf f x k i ∧ (treeOf f x k i).1 < N := by
  induction k generalizing i with
  | zero => exact ⟨rfl, hx i⟩
  | succ k ih =>
    obtain ⟨e1, h1⟩ := ih (2 * i)
    obtain ⟨e2, h2⟩ := ih (2 * i + 1)
    refine ⟨?_, hf _ h1 _ h2⟩
    rw [treeOf, treeOf, e1, e2, hop _ h1 _ h2]

/-! ### The instructions -/

section
variable {s : State} {a : WReg} {m : MReg} {t : VType} {u : Bool} {o : BitVec 2}

theorem enabled_eq (m : MaskWord) (e : Nat) : enabled m e = fun j => m.getLsbD (16 * j / e) := by
  funext j
  rw [enabled, Nat.mul_comm]

/-- The value and the flags of VRED. -/
def redResult (s : State) (a : WReg) (m : MReg) (t : VType) (u : Bool) (o : BitVec 2) : Nat × BitVec 5 :=
  let e := VType.lanes t
  let on := enabled (readM s.me m) e
  if o = 0 then treeSum (redStep s.me t u o) 6 ((List.range e).map fun j => if on j then laneAt s.me t a j else 0)
  else foldElems (redStep s.me t u o) (identity t o u) (((List.range e).filter on).map (laneAt s.me t a))

theorem exec_vred {d : WReg} (h : s.canIssue { w := [d.val, a.val] } = true) :
    exec (.vred d a m t u o) s = .next (s.completes { s.me with
      w := s.me.w.set d (BitVec.ofNat 512 ((redResult s a m t u o).1 % 2 ^ VType.bits t)),
      flags := s.me.flags ||| (redResult s a m t u o).2 }) :=
  congrArg Host.Outcome.next (State.issue_go_modMe h _ _)

/-- A sum is the tree over the elements, those that are off taken as zero (R53, R203). -/
theorem redResult_sum (ht : Reduces t u 0) :
    let l := VType.lanes t
    let on := fun j => (readM s.me m).getLsbD (16 * j / l)
    let r := treeOf (combine s.me t u 0) (fun j => if on j = true then elemOf t (readW s.me a) j else 0)
      (if l = 16 then 4 else if l = 32 then 5 else 6) 0
    redResult s a m t u 0 = r ∧ r.1 < 2 ^ VType.bits t := by
  intro l on r
  have hx : ∀ j, (if on j = true then elemOf t (readW s.me a) j else 0) < 2 ^ VType.bits t := fun j => by
    split
    · exact elemOf_lt _ _ _
    · exact Nat.two_pow_pos _
  have hk : ∃ k ≤ 6, l = 2 ^ k ∧ (if l = 16 then 4 else if l = 32 then 5 else 6) = k := by
    cases t with
    | f32 | i32 | rns => exact ⟨4, by decide, rfl, rfl⟩
    | bf16 | f16 | i16 => exact ⟨5, by decide, rfl, rfl⟩
    | i8 | df8 => exact ⟨6, by decide, rfl, rfl⟩
  obtain ⟨k, hk6, hl, hk⟩ := hk
  obtain ⟨hcongr, hlt⟩ := treeOf_congr (fun x hx y hy => redStep_eq_combine s.me ht hx hy)
    (fun x hx y hy => combine_lt s.me ht hx hy) hx k 0
  simp only [r, hk]
  refine ⟨Eq.trans ?_ hcongr, hlt⟩
  unfold redResult
  rw [if_pos rfl, enabled_eq]
  change treeSum _ 6 ((List.range l).map fun j => if on j = true then elemOf t (readW s.me a) j else 0) = _
  rw [hl]
  exact treeSum_eq_treeOf _ _ hk6

/-- A minimum or maximum is the fold over the enabled elements (R203). -/
theorem redResult_fold (ho : o ≠ 0) (ht : Reduces t u o) :
    let l := VType.lanes t
    let x := elemOf t (readW s.me a)
    let on := fun j => (readM s.me m).getLsbD (16 * j / l)
    let f := combine s.me t u o.toNat
    let before := foldBefore f x on (foldStart t u o.toNat)
    (redResult s a m t u o).1 = before l ∧ before l < 2 ^ VType.bits t ∧
      Merged (redResult s a m t u o).2 (fun j => on j = true) l fun j => (f (before j) (x j)).2 := by
  intro l x on f before
  have hs : foldStart t u o.toNat < 2 ^ VType.bits t := identity_eq_foldStart ht ▸ identity_lt t o u
  have hr : redResult s a m t u o = foldElems (redStep s.me t u o) (foldStart t u o.toNat)
      (((List.range l).filter on).map x) := by
    unfold redResult
    rw [if_neg ho, enabled_eq, identity_eq_foldStart ht]
    rfl
  obtain ⟨hv, hfl⟩ := foldElems_upto on (fun x hx y hy => redStep_eq_combine s.me ht hx hy)
    (fun x hx y hy => combine_lt s.me ht hx hy) (elemOf_lt t (readW s.me a)) hs l
  rw [hr]
  exact ⟨hv, foldBefore_lt on (fun x hx y hy => combine_lt s.me ht hx hy) (elemOf_lt t (readW s.me a)) hs l,
    fun k _ => hfl k⟩

/-- The elements and the flags of VSCAN. -/
def scanResult (s : State) (d a : WReg) (m : MReg) (t : VType) (excl u : Bool) (o : BitVec 2) : List Nat × BitVec 5 :=
  scanFrom (redStep s.me t u o) (enabled (readM s.me m) (VType.lanes t)) excl (laneAt s.me t d) (VType.lanes t) 0
    (identity t o u) (lanesOf t (readW s.me a))

theorem exec_vscan {d : WReg} {excl : Bool} (h : s.canIssue { w := [d.val, a.val] } = true) :
    exec (.vscan d a m t excl u o) s = .next (s.completes { s.me with
      w := s.me.w.set d (vecOf t (scanResult s d a m t excl u o).1),
      flags := s.me.flags ||| (scanResult s d a m t excl u o).2 }) :=
  congrArg Host.Outcome.next (State.issue_go_modMe h _ _)

/-- A scan gives each enabled element the fold up to it (R204). -/
theorem scanResult_spec (d : WReg) (excl : Bool) (ht : Reduces t u o) :
    let l := VType.lanes t
    let x := elemOf t (readW s.me a)
    let on := fun j => (readM s.me m).getLsbD (16 * j / l)
    let f := combine s.me t u o.toNat
    let before := foldBefore f x on (foldStart t u o.toNat)
    Merged (scanResult s d a m t excl u o).2 (fun j => on j = true) l (fun j => (f (before j) (x j)).2) ∧
      ∀ j < l, elemOf t (vecOf t (scanResult s d a m t excl u o).1) j =
        if on j = true then before (if excl then j else j + 1) else elemOf t (readW s.me d) j := by
  intro l x on f before
  have hs : foldStart t u o.toNat < 2 ^ VType.bits t := identity_eq_foldStart ht ▸ identity_lt t o u
  have hlt := foldBefore_lt on (fun x hx y hy => combine_lt s.me ht hx hy) (elemOf_lt t (readW s.me a)) hs
  have hr : scanResult s d a m t excl u o = scanFrom (redStep s.me t u o) on excl (laneAt s.me t d) l 0
      (foldBefore f x on (foldStart t u o.toNat) 0) (lanesOf t (readW s.me a)) := by
    unfold scanResult
    rw [enabled_eq, identity_eq_foldStart ht]
    rfl
  obtain ⟨hv, hlen, hfl⟩ := scanFrom_spec on (fun x hx y hy => redStep_eq_combine s.me ht hx hy)
    (fun x hx y hy => combine_lt s.me ht hx hy) (elemOf_lt t (readW s.me a)) hs excl (laneAt s.me t d) l 0
    (lanesOf t (readW s.me a)) (length_lanesOf _ _) fun i hi => by rw [getD_lanesOf _ _ hi, Nat.zero_add]
  simp only [Nat.zero_add] at hv hfl
  rw [hr]
  refine ⟨fun k _ => hfl k, fun j hj => ?_⟩
  rw [elemOf_vecOf t hlen, hv j hj]
  split
  · exact Nat.mod_eq_of_lt (hlt _)
  · exact elemOf_mod _ _ _

end

/-- R53, R203, R204, R206: the reductions, the scans and the ranking. -/
theorem vectorReduceScanAndRank : Claims.VectorReduceScanAndRank := by
  intro s d a g m t u idx excl o l n x on accepted f before writes
  refine ⟨fun h ht => ⟨?_, ?_⟩, fun h ht ht' hu => ?_⟩
  · by_cases ho : o = 0
    · subst ho
      obtain ⟨hr, hlt⟩ := redResult_sum (s := s) (a := a) (m := m) ht
      refine ⟨(redResult s a m t u 0).2, ?_⟩
      rw [if_pos rfl]
      refine ⟨?_, congrArg Prod.snd hr⟩
      have he := exec_vred (o := 0) (u := u) (m := m) (t := t) h
      rw [hr, Nat.mod_eq_of_lt hlt] at he
      rw [hr]
      exact he
    · obtain ⟨hv, hlt, hfl⟩ := redResult_fold (s := s) (a := a) (m := m) ho ht
      refine ⟨(redResult s a m t u o).2, ?_⟩
      rw [if_neg ho]
      have he := exec_vred (o := o) (u := u) (m := m) (t := t) h
      rw [hv, Nat.mod_eq_of_lt hlt] at he
      exact ⟨he, hfl⟩
  · obtain ⟨hfl, hv⟩ := scanResult_spec (s := s) (a := a) (m := m) d excl ht
    exact ⟨_, _, exec_vscan h, hfl, hv⟩
  · obtain ⟨hperm, hsort⟩ := topOrder_spec (s := s) (a := a) (m := m) (t := t) (u := u)
    have hmem : ∀ j, j ∈ topOrder s a m t u ↔ j < l ∧ on j = true := fun j => by
      rw [mem_topOrder, enabled_eq]
    have hget : ∀ j < l, (lanesOf t (readW s.me a)).getD j 0 = x j := fun j hj => getD_lanesOf _ _ hj
    refine ⟨topOrder s a m t u, _, _, exec_vtopk h, ?_, hmem, ?_, fun p hp => ?_, ?_⟩
    · exact hperm.nodup_iff.2 (List.nodup_range.filter _)
    · refine hsort.imp_of_mem fun hi hj hij => ?_
      rw [hget _ ((hmem _).1 hi).1, hget _ ((hmem _).1 hj).1] at hij
      rw [above_iff s.me ht ht' hu, above_iff s.me ht ht' hu]
      obtain hlt | ⟨heq, hlt⟩ := hij
      · exact .inl hlt
      · exact .inr ⟨heq.not_lt, hlt⟩
    · rw [elemOf_vecOf_map t _ hp, Nat.mod_eq_of_lt (topElem_lt p), topElem]
      cases hj : (topOrder s a m t u)[p]? with
      | none => rfl
      | some j =>
        have hjl : j < l := ((hmem j).1 (List.mem_of_getElem? hj)).1
        dsimp only
        rw [hget j hjl, rankValue_eq] <;> rfl
    · refine merged_congr (merged_flagIf flagNV (c := fun j => VType.isFp t && (decodeFp (VType.fmt t) (x j)).isSnan) ?_)
        fun j _ _ => rankFlag_eq t (x j)
      rw [Bool.and_eq_true, List.any_eq_true]
      constructor
      · rintro ⟨hf, j, hj, hs⟩
        obtain ⟨hjl, hon⟩ := (hmem j).1 hj
        rw [hget j hjl] at hs
        exact ⟨j, hjl, hon, by rw [Bool.and_eq_true]; exact ⟨hf, hs⟩⟩
      · rintro ⟨j, hjl, hon, hc⟩
        obtain ⟨hf, hs⟩ := Bool.and_eq_true_iff.1 hc
        exact ⟨hf, j, (hmem j).2 ⟨hjl, hon⟩, by rwa [hget j hjl]⟩

/-- Settles O35: the conversions, the reductions with scans and ranking, and the random numbers, each by its form. -/
theorem vectorConversionsReductionsRandom : Obligations.VectorConversionsReductionsRandom :=
  ⟨vectorConversions, vectorReduceScanAndRank, randomNumbers⟩

end Sys2Proof.Machine
end


section
/-! SUPPORT. MSCL that loads a line of its own slice with a correctable error there: the correction reports itself in
the event ring of the context, so bytes of memory change (R83, R413). -/

namespace Sys2Proof.Machine

open Sys2Proof.Claims

/-- A running strand with the first line of its own slice in g4 and a translated address in g5. -/
def scaleStrand : Strand := { phase := .running, g := ((Vector.replicate 32 0).set 4 0x7F0000000000).set 5 0x2000 }

/-- The first unit of the slice holds a correctable error; context 0 has its event ring at 0x1000 in the readable and
writable GiB that the entry 26 at address 0 maps. -/
def scaleState : State :=
  { strands := [(0, scaleStrand)], mem := [(0, 26)], soft := [sliceAddr 0 0], ctxs := [(0, { evbase := 0x1000 })] }

/-- The first byte of that event ring after an instruction. -/
def ringByteAfter : Out → Nat
  | .next u => (u.byte 0x1000).toNat
  | .fault _ => 0
  | .refused _ => 0

/-- The physical place of line `i` of the two ranges of `scaleState`. -/
def scaleLine (i : Nat) : Target := .mem (if i < 8 then sliceAddr 0 (64 * i) else 0x2000 + 64 * (i % 8)) none

/-- Every line of the two ranges passes its check. -/
theorem checkAccess_scaleState : ∀ i < 16,
    scaleState.checkAccess 0 ((if i < 8 then 0x7F0000000000 else 0x2000) + BitVec.ofNat 64 (64 * (i % 8))) 64 64 needR =
      .ok (scaleLine i) false := by
  decide

/-- The record of the corrected error begins with the code of SOFT_CORRECTED. -/
theorem ringByteAfter_mscl_scaleState : ringByteAfter (exec (.mscl 4 5 0) scaleState) = 64 := rfl

/-- Refutes O31: while MSCL waits for its lines elsewhere, the correctable error in a line of its own slice has been
corrected, and the event record of that (SOFT_CORRECTED) has been written to memory. -/
theorem not_arrayAndGraphCommands : ¬ Obligations.ArrayAndGraphCommands := by
  rintro ⟨-, -, hscale⟩
  obtain ⟨-, -, -, hlines, -⟩ := hscale scaleState 4 5 0 (by decide) (by decide) rfl rfl
  obtain ⟨u, xs, hexec, -, hbytes, -⟩ := hlines (by decide) (by decide) (by decide)
    (fun i hi => ⟨_, _, checkAccess_scaleState i hi⟩) ⟨8, by decide, _, _, checkAccess_scaleState 8 (by decide), by decide⟩
  have hring : ringByteAfter (.next u) = 64 := hexec ▸ ringByteAfter_mscl_scaleState
  have hsame : ringByteAfter (.next u) = 0 := congrArg BitVec.toNat (hbytes 0x1000)
  omega

end Sys2Proof.Machine
end


section
/-! SUPPORT. The turn of a tile's array: what decides whether an operation may begin, and what one ARRAY_OPERATION makes
of its queue (R320, R336). -/

namespace Sys2Proof.Machine

open Sys2Proof.Claims

/-! ### Jobs -/

@[simp] theorem State.job_modJob_same (s : State) (c k : Nat) (f : Job → Job) : (s.modJob c k f).job c k = f (s.job c k) := by
  simp [State.job, State.modJob]

theorem State.job_modJob_ne (s : State) {c k a b : Nat} (f : Job → Job) (h : (a, b) ≠ (c, k)) :
    (s.modJob c k f).job a b = s.job a b := by
  unfold State.job State.modJob
  by_cases hc : a = c
  · subst hc
    have hb : b ≠ k := fun hb => h (hb ▸ rfl)
    rw [State.modCore_core_same, SMap.get_set_ne _ _ _ hb]
  · rw [State.modCore_core_ne _ _ _ hc]

@[simp] theorem State.job_modTile (s : State) (t c k : Nat) (f : Tile → Tile) : (s.modTile t f).job c k = s.job c k := rfl
@[simp] theorem State.tile_modJob (s : State) (t c k : Nat) (f : Job → Job) : (s.modJob c k f).tile t = s.tile t := rfl

/-! ### What translation rests on (R422 to R426) -/

/-- Two states translate alike: their page tables, all of them in local HBM, their contexts and their leases agree. -/
structure SameMaps (s u : State) : Prop where
  bytes : ∀ a < 2 ^ 41, u.byte a = s.byte a
  ctxs : u.ctxs = s.ctxs
  borrowers : u.borrowers = s.borrowers

section
variable {s u : State} (h : SameMaps s u)
include h

theorem SameMaps.word64_eq {a : Nat} (ha : a + 8 ≤ 2 ^ 41) : u.word64 a = s.word64 a :=
  congrArg leNat (State.readRaw_congr fun i hi => h.bytes _ (by omega))

theorem SameMaps.ctx_eq (c : Nat) : u.ctx c = s.ctx c := congrArg (SMap.get · ({} : Ctx) c) h.ctxs

theorem SameMaps.borrower_eq (i : Nat) : u.borrower i = s.borrower i := congrArg (SMap.get · ({} : Borrower) i) h.borrowers

theorem SameMaps.regionOf_eq {desc : Nat} (hd : desc + 24 ≤ 2 ^ 41) (va : Nat) (level1 : Bool) :
    u.regionOf desc va level1 = s.regionOf desc va level1 := by
  simp only [State.regionOf, h.word64_eq (a := desc) (by omega), h.word64_eq (a := desc + 8) (by omega),
    h.word64_eq (a := desc + 16) (by omega)]

theorem SameMaps.walk_eq (c va : Nat) : u.walk c va = s.walk c va := by
  unfold State.walk
  rw [h.ctx_eq c]
  by_cases hva : 0x700000000000 ≤ va
  · rw [if_pos hva, if_pos hva]
  · rw [if_neg hva, if_neg hva]
    have hroot := h.word64_eq (a := (s.ctx c).ptroot.toNat / 0x200000 % 0x80000 * 0x200000 + 8 * (va / 0x40000000)) (by omega)
    have htable := fun x y : Nat => h.word64_eq (a := x / 256 % 0x100000000 * 256 + 8 * (y % 512)) (by omega)
    have htable' := fun x y : Nat => h.word64_eq (a := x / 256 % 0x100000000 * 256 + 8 * (y % 32)) (by omega)
    have hregion := fun (x : Nat) => h.regionOf_eq (desc := x / 32 % 0x800000000 * 32) (by omega) va
    simp only [hroot, htable, htable', hregion]

theorem SameMaps.xlate_eq (c va : Nat) (need : Need) : u.xlate c va need = s.xlate c va need := by
  simp only [State.xlate, h.walk_eq, h.ctx_eq, h.borrower_eq]

theorem SameMaps.resolve_eq (c core va : Nat) (need : Need) : u.resolve c core va need = s.resolve c core va need := by
  simp only [State.resolve, h.xlate_eq]

theorem SameMaps.placesOf_eq (c t fuel va n : Nat) : u.placesOf c t fuel va n = s.placesOf c t fuel va n := by
  induction fuel generalizing va n with
  | zero => rfl
  | succ fuel ih => simp only [State.placesOf, h.resolve_eq, ih]

theorem SameMaps.conflicts_eq (t : Nat) (a b : RangeLock) : u.conflicts t a b = s.conflicts t a b := by
  simp only [State.conflicts, State.lockPlaces, h.placesOf_eq]

end

/-! ### Operations that may begin -/

/-- The state of every job, the accesses in flight and the order of the ranges of tile `t` are as before. -/
structure SameTurns (s u : State) (t : Nat) : Prop where
  maps : SameMaps s u
  acc : u.acc = s.acc
  locks : (u.tile t).locks = (s.tile t).locks
  jobs : ∀ c k, (u.job c k).st = (s.job c k).st ∧ (u.job c k).after = (s.job c k).after

section
variable {s u : State} {t : Nat} (h : SameTurns s u t)
include h

theorem SameTurns.opJob_st (o : ArrayOp) : (u.opJob t o).st = (s.opJob t o).st := by
  cases o with
  | mma c k => exact (h.jobs _ _).1
  | mst c k => exact (h.jobs _ _).1
  | mzr a n i st => rfl
  | mscl n c => rfl
  | part p => exact (h.jobs _ _).1

theorem SameTurns.inOrder_eq (origin core slot : Nat) : u.inOrder t origin core slot = s.inOrder t origin core slot := by
  simp only [State.inOrder, h.locks, h.maps.conflicts_eq]

theorem SameTurns.opReady_eq (o : ArrayOp) : u.opReady t o = s.opReady t o := by
  have hready : ∀ c k, ((u.job (8 * t + c) k).st == .issued && u.released (u.job (8 * t + c) k).after &&
      u.inOrder t t (8 * t + c) k) = ((s.job (8 * t + c) k).st == .issued && s.released (s.job (8 * t + c) k).after &&
      s.inOrder t t (8 * t + c) k) := fun c k => by
    rw [(h.jobs _ _).1, (h.jobs _ _).2, h.inOrder_eq, State.released, State.released, h.acc]
  cases o with
  | mma c k => exact hready c k
  | mst c k => exact hready c k
  | mzr a n i st => rfl
  | mscl n c => rfl
  | part p => rfl

theorem SameTurns.behind {r : List ArrayOp} (hr : Behind s t r) : Behind u t r := fun o ho => by
  rw [h.opJob_st, h.opReady_eq]
  exact hr o ho

end

/-- Nothing of a queue begins where nothing of it can. -/
theorem State.pickOp_none {s : State} {t : Nat} {r : List ArrayOp} (h : ∀ o ∈ r, s.opReady t o = false) (slots : List Nat)
    (busy : Bool) : s.pickOp t slots busy r = none := by
  induction r generalizing slots busy with
  | nil => rfl
  | cons o r ih =>
    rw [State.pickOp, h o List.mem_cons_self]
    simp only [Bool.and_false, Bool.false_eq_true, if_false]
    split
    · rfl
    · exact ih (fun x hx => h x (List.mem_cons_of_mem _ hx)) _ _

theorem State.pickOp_head {s : State} {t : Nat} {o : ArrayOp} {r : List ArrayOp} (h : s.opReady t o = true) :
    s.pickOp t [] false (o :: r) = some o := by
  rw [State.pickOp, h]
  simp

/-! ### One turn -/

/-- An operation of a job that does not run does no work. -/
theorem State.workOp_idle {s : State} {t : Nat} {o : ArrayOp} (h : (s.opJob t o).st ≠ .running) : s.workOp t o = s := by
  cases o with
  | mma c k => exact if_neg h
  | mst c k => exact if_neg h
  | mzr a n i st => rfl
  | mscl n c => rfl
  | part p => rfl

theorem State.foldl_workOp_idle {s : State} {t : Nat} {r : List ArrayOp} (h : ∀ o ∈ r, (s.opJob t o).st ≠ .running) :
    r.foldl (fun s o => s.workOp t o) s = s := by
  induction r with
  | nil => rfl
  | cons o r ih =>
    rw [List.foldl_cons, State.workOp_idle (h o List.mem_cons_self)]
    exact ih fun x hx => h x (List.mem_cons_of_mem _ hx)

/-- The queue of tile `t` once: every operation under way takes its step, and then the next one begins. -/
def State.arrayTurn (s : State) (t : Nat) : State :=
  let w := (s.tile t).queue.foldl (fun s o => s.workOp t o) s
  match w.nextOp t with
  | some o => w.runOp t o
  | none => w

theorem exec_arrayOperation {s : State} {t : Nat} (hv : (s.tile t).vacated = false) (hs : (s.tile t).supplies = []) :
    exec (.arrayOperation t) s = .next (s.arrayTurn t) := by
  have hsupply : s.supply t = s := by simp [State.supply, hv, hs]
  show Host.Outcome.next _ = _
  simp only [hsupply, hv]
  rfl

theorem reaches_arrayTurn {s w : State} {t : Nat} {P : State → Prop} (hv : (s.tile t).vacated = false)
    (hs : (s.tile t).supplies = []) (hw : s.arrayTurn t = w) (h : P w) : Reaches (.arrayOperation t) s P :=
  ⟨w, hw ▸ exec_arrayOperation hv hs, h⟩

theorem State.arrayTurn_empty {s : State} {t : Nat} (h : (s.tile t).queue = []) : s.arrayTurn t = s := by
  unfold State.arrayTurn State.nextOp
  simp only [h, List.foldl_nil, State.pickOp]

/-- The head of the queue begins when it may and nothing is under way. -/
theorem State.arrayTurn_begins {s : State} {t : Nat} {o : ArrayOp} {r : List ArrayOp} (hq : (s.tile t).queue = o :: r)
    (ho : (s.opJob t o).st ≠ .running) (hr : ∀ x ∈ r, (s.opJob t x).st ≠ .running) (hready : s.opReady t o = true) :
    s.arrayTurn t = s.runOp t o := by
  unfold State.arrayTurn State.nextOp
  have hidle : (o :: r).foldl (fun s o => s.workOp t o) s = s :=
    State.foldl_workOp_idle fun x hx => (List.mem_cons.1 hx).elim (fun e => e ▸ ho) (hr x)
  simp only [hq, hidle, State.pickOp_head hready]

/-- Where only the head of the queue is under way and nothing behind it can begin, the turn is its step. -/
theorem State.arrayTurn_works {s w : State} {t : Nat} {o : ArrayOp} {r : List ArrayOp} (hq : (s.tile t).queue = o :: r)
    (hw : s.workOp t o = w) (hr : Behind s t r) (ht : SameTurns s w t) (ho : s.opReady t o = false)
    (hwq : (w.tile t).queue = r ∨ (w.tile t).queue = o :: r) : s.arrayTurn t = w := by
  unfold State.arrayTurn State.nextOp
  have hidle : r.foldl (fun s o => s.workOp t o) w = w := State.foldl_workOp_idle fun x hx => (ht.behind hr x hx).1
  have hnone : w.pickOp t [] false (w.tile t).queue = none := State.pickOp_none (fun x hx => by
    rw [ht.opReady_eq]
    obtain hwq | hwq := hwq
    · exact (hr x (hwq ▸ hx)).2
    · rw [hwq] at hx
      exact (List.mem_cons.1 hx).elim (fun e => e ▸ ho) fun hx => (hr x hx).2) _ _
  simp only [hq, List.foldl_cons, hw, hidle, hnone]

end Sys2Proof.Machine
end


section
/-! SUPPORT. The elements of an accumulator slot after the steps of a product (R51, R317, R325). -/

namespace Sys2Proof.Machine

open Sys2Proof.Claims

/-! ### Sparse maps of elements -/

theorem SMap.get_filter_key {α : Type} (m : SMap α) (p : Nat → Bool) (d : α) (k : Nat) :
    SMap.get (m.filter fun e => p e.1) d k = if p k then SMap.get m d k else d := by
  induction m with
  | nil => simp [SMap.get]
  | cons e r ih =>
    obtain ⟨i, v⟩ := e
    by_cases hp : p i = true
    · rw [List.filter_cons, if_pos hp, SMap.get, SMap.get, ih]
      by_cases hi : i = k
      · subst hi; simp [hp]
      · simp [hi]
    · rw [List.filter_cons, if_neg hp, ih]
      by_cases hi : i = k
      · subst hi; simp [hp]
      · simp [SMap.get, hi]

/-- Codes listed before the rest of a map; a code of 0 is left out, as the map's default. -/
theorem SMap.get_codes (l : List (Nat × Nat × Bool)) (v : Nat → Nat) (hl : ∀ e ∈ l, e.2.1 = v e.1) (r : SMap (BitVec 32))
    (k : Nat) :
    SMap.get ((l.filterMap fun e => if e.2.1 = 0 then none else some (e.1, BitVec.ofNat 32 e.2.1)) ++ r) 0 k =
      if (∃ e ∈ l, e.1 = k) ∧ v k ≠ 0 then BitVec.ofNat 32 (v k) else SMap.get r 0 k := by
  induction l with
  | nil => simp
  | cons e l ih =>
    have he := hl e List.mem_cons_self
    replace ih := ih fun x hx => hl x (List.mem_cons_of_mem _ hx)
    by_cases hz : e.2.1 = 0
    · rw [List.filterMap_cons_none (a := e) (if_pos hz), ih]
      by_cases hk : e.1 = k
      · have hvk : v k = 0 := by rw [← hk, ← he, hz]
        simp [hvk]
      · simp only [hk, List.mem_cons, exists_eq_or_imp, false_or]
    · rw [List.filterMap_cons_some (a := e) (if_neg hz), List.cons_append, SMap.get]
      by_cases hk : e.1 = k
      · have hvk : v k = e.2.1 := by rw [← hk, he]
        rw [if_pos hk, if_pos ⟨⟨e, List.mem_cons_self, hk⟩, hvk ▸ hz⟩, hvk]
      · simp only [hk, if_false, ih, List.mem_cons, exists_eq_or_imp, false_or]

/-! ### A block after its steps -/

/-- Element (i, l) of a slot after steps: its code and whether an INT32 sum left its range. -/
def AccSlot.stepped (a : AccSlot) (d : MmaDesc) (xs : List (List Nat × List Nat)) (i l : Nat) : Nat × Bool :=
  stepElem a.int32 d.ta d.tb (a.elem i l) (xs.map fun x => (x.1.getD i 0, x.2.getD l 0))

/-- The elements of the block, with their places. -/
def AccSlot.block (a : AccSlot) (d : MmaDesc) (m n : Nat) (xs : List (List Nat × List Nat)) : List (Nat × Nat × Bool) :=
  (List.range m).flatMap fun i => (List.range n).map fun l => (128 * i + l, a.stepped d xs i l)

theorem AccSlot.step_eq (a : AccSlot) (d : MmaDesc) (m n : Nat) (xs : List (List Nat × List Nat)) :
    a.step d m n xs = { a with
      elems := ((a.block d m n xs).filterMap fun e => if e.2.1 = 0 then none else some (e.1, BitVec.ofNat 32 e.2.1)) ++
        a.elems.filter fun e => !decide (e.1 / 128 < m ∧ e.1 % 128 < n)
      ovf := a.ovf || (a.block d m n xs).any fun e => e.2.2 } := rfl

theorem AccSlot.mem_block {a : AccSlot} {d : MmaDesc} {m n : Nat} {xs : List (List Nat × List Nat)} {e : Nat × Nat × Bool} :
    e ∈ a.block d m n xs ↔ ∃ i < m, ∃ l < n, e = (128 * i + l, a.stepped d xs i l) := by
  simp only [AccSlot.block, List.mem_flatMap, List.mem_range, List.mem_map, eq_comm]

/-- A step gives the elements of its block and leaves the others. -/
theorem AccSlot.step_elem (a : AccSlot) (d : MmaDesc) {m n : Nat} (hn : n ≤ 128) (xs : List (List Nat × List Nat)) {i l : Nat}
    (hl : l < 128) : (a.step d m n xs).elems.get 0 (128 * i + l) =
      if i < m ∧ l < n then BitVec.ofNat 32 (a.stepped d xs i l).1 else a.elems.get 0 (128 * i + l) := by
  have hrow : (128 * i + l) / 128 = i := by omega
  have hcol : (128 * i + l) % 128 = l := by omega
  have hcodes : ∀ e ∈ a.block d m n xs, e.2.1 = (a.stepped d xs (e.1 / 128) (e.1 % 128)).1 := fun e he => by
    obtain ⟨x, -, y, hy, rfl⟩ := AccSlot.mem_block.1 he
    have hx : (128 * x + y) / 128 = x := by omega
    have hy' : (128 * x + y) % 128 = y := by omega
    simp only [hx, hy']
  have hin : (∃ e ∈ a.block d m n xs, e.1 = 128 * i + l) ↔ i < m ∧ l < n := by
    constructor
    · rintro ⟨e, he, hk⟩
      obtain ⟨x, hx, y, hy, rfl⟩ := AccSlot.mem_block.1 he
      have hk' : 128 * x + y = 128 * i + l := hk
      omega
    · rintro ⟨hi, hj⟩
      exact ⟨_, AccSlot.mem_block.2 ⟨i, hi, l, hj, rfl⟩, rfl⟩
  rw [AccSlot.step_eq]
  refine (SMap.get_codes _ (fun k => (a.stepped d xs (k / 128) (k % 128)).1) hcodes _ _).trans ?_
  rw [SMap.get_filter_key a.elems (fun k => !decide (k / 128 < m ∧ k % 128 < n))]
  simp only [hin, hrow, hcol]
  by_cases hb : i < m ∧ l < n
  · by_cases hz : (a.stepped d xs i l).1 = 0
    · simp [hb, hz]
    · simp [hb, hz]
  · simp [hb]

theorem AccSlot.step_ovf (a : AccSlot) (d : MmaDesc) (m n : Nat) (xs : List (List Nat × List Nat)) :
    (a.step d m n xs).ovf = true ↔ a.ovf = true ∨ ∃ i < m, ∃ l < n, (a.stepped d xs i l).2 = true := by
  rw [AccSlot.step_eq, Bool.or_eq_true, List.any_eq_true]
  refine or_congr Iff.rfl ⟨?_, ?_⟩
  · rintro ⟨e, he, hv⟩
    obtain ⟨i, hi, l, hl, rfl⟩ := AccSlot.mem_block.1 he
    exact ⟨i, hi, l, hl, hv⟩
  · rintro ⟨i, hi, l, hl, hv⟩
    exact ⟨_, AccSlot.mem_block.2 ⟨i, hi, l, hl, rfl⟩, hv⟩

end Sys2Proof.Machine
end


section
/-! SUPPORT. Operand vectors in a tile's own slice, and what a step of a product makes of one element (R41, R51, R323). -/

namespace Sys2Proof.Machine

open Sys2Proof.Claims

/-! ### Reading an operand vector -/

theorem State.correct_of_sound {s : State} {pa n : Nat} (h : Sound s pa n) (c : Nat) : s.correct c pa n = s := by
  have hnone : (unitsOf pa n).filter s.soft.contains = [] :=
    List.filter_eq_nil_iff.2 fun u hu => by simpa using (h u hu).2
  simp [State.correct, hnone]

theorem poisoned_units_of_sound {s : State} {pa n : Nat} (h : Sound s pa n) :
    (unitsOf pa n).filter s.poison.contains = [] :=
  List.filter_eq_nil_iff.2 fun u hu => by simpa using (h u hu).1

theorem sound_zero (s : State) (pa : Nat) : Sound s pa 0 := fun u hu => by simp [unitsOf] at hu

theorem opBits_eq (t : Nat) : opBits t = [32, 16, 16, 8, 8, 4].getD t 4 := by
  match t with
  | 0 => rfl
  | 1 => rfl
  | 2 => rfl
  | 3 => rfl
  | 4 => rfl
  | 5 => rfl
  | _ + 6 => rfl

theorem opBytes_eq (t n : Nat) : opBytes t n = vectorBytes t n := by rw [opBytes, opBits_eq, vectorBytes]

theorem vectorBytes_pos {t n : Nat} (hn : 0 < n) : 0 < vectorBytes t n := by
  have ht : 4 ≤ opBits t := by
    match t with
    | 0 | 1 | 2 | 3 | 4 | 5 => decide
    | _ + 6 => exact Nat.le_refl 4
  have hle := Nat.mul_le_mul hn ht
  rw [← opBytes_eq, opBytes]
  omega

/-- The bytes of whole elements read from a vector. -/
theorem leNat_drop_readRaw (s : State) (pa : Nat) {k n i : Nat} (h : i * k + k ≤ n) :
    leNat (((s.readRaw pa n).drop (i * k)).take k) = memNat s (pa + i * k) k := fieldAt_readRaw s pa h

/-- An element of a vector as its bytes give it. -/
theorem opElem_readRaw (s : State) (pa : Nat) {t n i : Nat} (ht : t < 6) (hi : i < n) :
    opElem t (s.readRaw pa (opBytes t n)) i = codeAt s pa t i := by
  have hbyte : ∀ x < opBytes t n, (s.readRaw pa (opBytes t n)).getD x 0 = s.byte (pa + x) := fun x hx => by
    rw [State.readRaw_eq_map, List.getD_eq_getElem _ _ (by simpa using hx)]
    simp
  by_cases h5 : t = 5
  · subst h5
    rw [opElem, codeAt, if_pos rfl, if_pos rfl, hbyte _ (by simp only [opBytes, opBits]; omega)]
  · rw [opElem, codeAt, if_neg h5, if_neg h5]
    have hk : opBits t / 8 = [4, 2, 2, 1, 1].getD t 1 ∧ opBytes t n = n * (opBits t / 8) := by
      have hcases : t = 0 ∨ t = 1 ∨ t = 2 ∨ t = 3 ∨ t = 4 := by omega
      rcases hcases with rfl | rfl | rfl | rfl | rfl <;> exact ⟨rfl, by simp only [opBytes, opBits]; omega⟩
    rw [hk.2, ← hk.1]
    exact leNat_drop_readRaw s pa (by rw [← Nat.succ_mul]; exact Nat.mul_le_mul_right _ hi)

theorem ownOff_alias (t : Nat) {off : Nat} (h : off < 0x300000) : ownOff t (0x7F0000000000 + off) = some off := by
  have ha : aliasOf (0x7F0000000000 + off) = some off := by
    rw [aliasOf, if_pos (by omega), Nat.add_sub_cancel_left]
  rw [ownOff, ha]

/-- A vector that lies in the own slice and meets no error is read as it is. -/
theorem State.operandVec_sound {s : State} {t off ty n : Nat} (hty : ty < 6) (hoff : off + vectorBytes ty n ≤ 0x300000)
    (h : Sound s (sliceAddr t off) (vectorBytes ty n)) (c : Nat) :
    s.operandVec c t (0x7F0000000000 + off) ty n = (s, (List.range n).map (codeAt s (sliceAddr t off) ty), none) := by
  rcases Nat.eq_zero_or_pos n with rfl | hn
  · have hlen : opBytes ty 0 = 0 := by simp [opBytes]
    have hunits : ∀ pa, unitsOf pa 0 = [] := fun _ => rfl
    simp only [State.operandVec, hlen, State.correct_of_sound (sound_zero s _), hunits]
    rfl
  · have hpos := vectorBytes_pos (t := ty) hn
    have hown := ownOff_alias t (off := off) (by omega)
    simp only [State.operandVec, hown, Option.getD_some, opBytes_eq, State.correct_of_sound h, poisoned_units_of_sound h]
    have hbytes : ((s.readRaw (sliceAddr t off) (vectorBytes ty n)).mapIdx fun i b =>
        if ([] : List Nat).contains ((sliceAddr t off + i) / 8 * 8) = true then 0 else b) =
        s.readRaw (sliceAddr t off) (vectorBytes ty n) :=
      List.ext_getElem (by simp) fun i _ _ => by simp
    rw [hbytes, ← opBytes_eq]
    refine Prod.ext rfl (Prod.ext (List.map_congr_left fun i hi => ?_) rfl)
    exact opElem_readRaw s _ hty (List.mem_range.1 hi)

/-- The codes of step `p` of a product whose operands begin at `oa` and `ob` of tile `t`'s slice. -/
def operandCodes (s : State) (t : Nat) (d : MmaDesc) (oa ob p : Nat) : List Nat × List Nat :=
  ((List.range d.m).map (codeAt s (sliceAddr t (oa + p * d.sa)) d.ta),
    (List.range d.n).map (codeAt s (sliceAddr t (ob + p * d.sb)) d.tb))

/-- Steps whose vectors lie in the own slice and meet no error are read as they are. -/
theorem State.readSteps_sound {s : State} {t oa ob : Nat} {d : MmaDesc} (hta : d.ta < 6) (htb : d.tb < 6)
    (ha : d.a = 0x7F0000000000 + oa) (hb : d.b = 0x7F0000000000 + ob) (core slot : Nat) (ks : List Nat)
    (h : ∀ p ∈ ks, oa + p * d.sa + vectorBytes d.ta d.m ≤ 0x300000 ∧ ob + p * d.sb + vectorBytes d.tb d.n ≤ 0x300000 ∧
      Sound s (sliceAddr t (oa + p * d.sa)) (vectorBytes d.ta d.m) ∧
      Sound s (sliceAddr t (ob + p * d.sb)) (vectorBytes d.tb d.n)) :
    s.readSteps t core slot d ks = (s, ks.map (operandCodes s t d oa ob), false) := by
  induction ks with
  | nil => rfl
  | cons p ks ih =>
    obtain ⟨hla, hlb, hsa, hsb⟩ := h p List.mem_cons_self
    simp only [State.readSteps, ha, hb, Nat.add_assoc, State.operandVec_sound hta hla hsa, State.operandVec_sound htb hlb hsb,
      ih fun x hx => h x (List.mem_cons_of_mem _ hx)]
    rfl

/-! ### One element after the steps of an operation -/

theorem sextNat_toNat {n : Nat} (hn : 0 < n) (v : BitVec n) : sextNat n v.toNat = v.toInt := by
  rw [sextNat_eq_bmod hn, BitVec.toInt_eq_toNat_bmod]

theorem ofNat_wrap (n : Nat) (v : Int) : BitVec.ofNat n (wrap n v) = BitVec.ofInt n v :=
  BitVec.eq_of_toNat_eq (by
    rw [BitVec.toNat_ofNat, BitVec.toNat_ofInt, Nat.mod_eq_of_lt (wrap_lt n v), wrap]
    push_cast
    rfl)

theorem opInt_eq {t : Nat} (ht : t = 4 ∨ t = 5) (c : Nat) : opInt t c = operandInt t c := by
  obtain rfl | rfl := ht
  · exact sextNat_eq_bmod (by decide) c
  · exact sextNat_eq_bmod (by decide) c

theorem opNum_eq (t c : Nat) : opNum t c = operandNum t c := by
  match t with
  | 0 => rfl
  | 1 => rfl
  | 2 => rfl
  | _ + 3 => rfl

/-- Whether a sum lies outside INT32. -/
def offInt32 (v : Int) : Bool := decide (v < -2147483648 ∨ 2147483647 < v)

/-- Sums taken one after another: the last one, and whether one of them left the range. -/
theorem foldl_sums (f : Nat → Int) (c : Int) (n : Nat) :
    (List.range n).foldl (fun (acc : Int × Bool) p => (acc.1 + f p, acc.2 || offInt32 (acc.1 + f p))) (c, false) =
      (c + ((List.range n).map f).sum, (List.range n).any fun p => offInt32 (c + ((List.range (p + 1)).map f).sum)) := by
  induction n with
  | zero => simp
  | succ n ih =>
    rw [List.range_succ, List.foldl_append, ih]
    simp [List.range_succ, Int.add_assoc]

/-- An INT32 element after `m` steps. -/
theorem stepElem_int {ta tb : Nat} (hta : ta = 4 ∨ ta = 5) (htb : tb = 4 ∨ tb = 5) (x y : Nat → Nat) (v : BitVec 32) (m : Nat) :
    let sum := fun p => v.toInt + ((List.range p).map fun e => operandInt ta (x e) * operandInt tb (y e)).sum
    stepElem true ta tb v.toNat ((List.range m).map fun p => (x p, y p)) =
      (wrap 32 (sum m), (List.range m).any fun p => offInt32 (sum (p + 1))) := by
  intro sum
  have hfold := foldl_sums (fun e => operandInt ta (x e) * operandInt tb (y e)) v.toInt m
  simp only [stepElem, if_true, List.foldl_map, sextNat_toNat (by decide : 0 < 32), opInt_eq hta, opInt_eq htb]
  exact congrArg (fun z : Int × Bool => (wrap 32 z.1, z.2)) hfold

/-- A floating-point element after one step, or after the two of a pair. -/
theorem stepElem_float {ta m : Nat} (hta : ta < 4) (hm : m = 1 ∨ m = 2 ∧ ta = 3) (tb : Nat) (x y : Nat → Nat) (c : Nat) :
    stepElem false ta tb c ((List.range m).map fun p => (x p, y p)) = (accumulated ta tb m x y c, false) := by
  unfold stepElem accumulated
  by_cases h3 : ta = 3
  · subst h3
    obtain rfl | ⟨rfl, -⟩ := hm
    · simp [pairedType, opNum_eq, List.range_succ]
    · simp [pairedType, opNum_eq, List.range_succ]
  · obtain rfl : m = 1 := by omega
    have hpair : pairedType ta = false := decide_eq_false (by omega)
    simp [hpair, h3, opNum_eq, List.range_succ]

end Sys2Proof.Machine
end


section
/-! SUPPORT. MMA at the head of the array's queue: its beginning and its steps (R320, R325, R336). -/

namespace Sys2Proof.Machine

open Sys2Proof.Claims

/-! ### Tiles and jobs changed together -/

theorem State.modTile_modTile (s : State) (t : Nat) (f g : Tile → Tile) :
    (s.modTile t f).modTile t g = s.modTile t fun x => g (f x) := by
  unfold State.modTile
  rw [State.setTile_tile_same]
  unfold State.setTile
  simp only [SMap.set_set]

theorem State.modJob_modTile (s : State) (t c k : Nat) (f : Tile → Tile) (g : Job → Job) :
    (s.modJob c k g).modTile t f = (s.modTile t f).modJob c k g := rfl

theorem SameTurns.refl (s : State) (t : Nat) : SameTurns s s t := ⟨⟨fun _ _ => rfl, rfl, rfl⟩, rfl, rfl, fun _ _ => ⟨rfl, rfl⟩⟩

/-- A tile changed but for its range locks leaves every turn as it was. -/
theorem SameTurns.modTile {s u : State} {t : Nat} (h : SameTurns s u t) {f : Tile → Tile} (hf : ∀ x, (f x).locks = x.locks) :
    SameTurns s (u.modTile t f) t where
  maps := ⟨h.maps.bytes, h.maps.ctxs, h.maps.borrowers⟩
  acc := h.acc
  locks := by rw [State.modTile_tile_same, hf, h.locks]
  jobs := h.jobs

/-- So does a job changed but for its state and its release set. -/
theorem SameTurns.modJob {s u : State} {t : Nat} (h : SameTurns s u t) {c k : Nat} {g : Job → Job}
    (hg : ∀ j, (g j).st = j.st ∧ (g j).after = j.after) : SameTurns s (u.modJob c k g) t where
  maps := ⟨h.maps.bytes, h.maps.ctxs, h.maps.borrowers⟩
  acc := h.acc
  locks := h.locks
  jobs := fun a b => by
    by_cases he : (a, b) = (c, k)
    · obtain ⟨rfl, rfl⟩ := Prod.mk.inj he
      rw [State.job_modJob_same, (hg _).1, (hg _).2]
      exact h.jobs a b
    · rw [State.job_modJob_ne _ _ he]
      exact h.jobs a b

theorem SameTurns.modTile_modJob {s u : State} {t : Nat} (h : SameTurns s u t) (f : Tile → Tile) (g : Job → Job) (c k : Nat)
    (hf : ∀ x, (f x).locks = x.locks) (hg : ∀ j, (g j).st = j.st ∧ (g j).after = j.after) :
    SameTurns s ((u.modTile t f).modJob c k g) t := (h.modTile hf).modJob hg

/-! ### The beginning -/

/-- What a slot holds once a product with Z has begun in it. -/
def AccSlot.begun (a : AccSlot) (j : Job) : AccSlot :=
  if j.zero then a.zeroed ((pairAcc j.mma.ta j.mma.tb).getD false) else a

theorem State.beginMma_facts (s : State) (t core k : Nat) : let j := s.job core k; let u := s.beginMma t core k
    (u.tile t).queue = (s.tile t).queue ∧ u.job core k = { j with st := .running } ∧
      (u.tile t).slots.get {} j.accNo = ((s.tile t).slots.get {} j.accNo).begun j ∧
      (∀ e, e ≠ j.accNo → (u.tile t).slots.get {} e = (s.tile t).slots.get {} e) ∧ u.mem = s.mem ∧ u.strands = s.strands := by
  intro j u
  have hu : u = (if j.zero then s.modAcc t j.accNo fun a => a.zeroed ((pairAcc j.mma.ta j.mma.tb).getD false) else s).modJob
      core k fun j => { j with st := .running } := rfl
  rw [hu]
  by_cases hz : j.zero = true
  · simp only [hz, if_true, AccSlot.begun, State.modAcc]
    refine ⟨by simp, by rw [State.job_modJob_same]; rfl, by simp, fun e he => ?_, rfl, rfl⟩
    rw [State.tile_modJob, State.modTile_tile_same]
    exact SMap.get_set_ne _ _ _ he
  · simp only [hz, if_false, AccSlot.begun, Bool.false_eq_true]
    exact ⟨rfl, by rw [State.job_modJob_same], rfl, fun _ _ => rfl, rfl, rfl⟩

/-! ### A step -/

theorem stepsAt_eq {d : MmaDesc} {q : Nat} (hq : q < d.k) :
    stepsAt d q = (List.range (if 3 ≤ d.ta ∧ q + 1 < d.k then 2 else 1)).map (q + ·) := by
  unfold stepsAt pairedType
  rw [if_neg (Nat.not_le.2 hq)]
  by_cases h : 3 ≤ d.ta ∧ q + 1 < d.k
  · rw [if_pos h, if_pos (by simpa using h)]
    rfl
  · rw [if_neg h, if_neg (by simpa using h)]
    rfl

/-- No parity error is met where the slot holds none. -/
theorem State.parityCheck_clean {s : State} {t n : Nat} (h : (s.acc4 t n).parity = []) (r0 c0 m c : Nat) :
    s.parityCheck t n r0 c0 m c = (s, false) := by
  simp [State.parityCheck, AccSlot.parityIn, h]

/-- The steps of an operation whose vectors lie in the own slice and meet no error enter the slot. -/
theorem State.stepMma_sound {s : State} {t core k oa ob m : Nat} {d : MmaDesc} (hd : (s.job core k).mma = d)
    (hta : d.ta < 6) (htb : d.tb < 6) (hq : (s.job core k).k < d.k)
    (hm : m = if 3 ≤ d.ta ∧ (s.job core k).k + 1 < d.k then 2 else 1)
    (hp : (s.acc4 t (s.job core k).accNo).parity = []) (ha : d.a = 0x7F0000000000 + oa) (hb : d.b = 0x7F0000000000 + ob)
    (h : ∀ p, (s.job core k).k ≤ p → p < (s.job core k).k + m → oa + p * d.sa + vectorBytes d.ta d.m ≤ 0x300000 ∧
      ob + p * d.sb + vectorBytes d.tb d.n ≤ 0x300000 ∧ Sound s (sliceAddr t (oa + p * d.sa)) (vectorBytes d.ta d.m) ∧
      Sound s (sliceAddr t (ob + p * d.sb)) (vectorBytes d.tb d.n)) :
    s.stepMma t core k = (s.modTile t fun x => { x with
        slots := x.slots.set (s.job core k).accNo ((x.slots.get {} (s.job core k).accNo).step d d.m d.n
          ((List.range m).map fun e => operandCodes s t d oa ob ((s.job core k).k + e)))
        queue := if d.k ≤ (s.job core k).k + m then x.queue.erase (.mma (core % 8) k) else x.queue }).modJob core k
      fun j => { j with k := j.k + m } := by
  have hks := stepsAt_eq hq
  rw [← hm] at hks
  have hreads : s.readSteps t core k d (stepsAt d (s.job core k).k) =
      (s, (List.range m).map fun e => operandCodes s t d oa ob ((s.job core k).k + e), false) := by
    rw [hks, State.readSteps_sound hta htb ha hb core k _ fun p hpm => ?_, List.map_map]
    · rfl
    · obtain ⟨e, he, rfl⟩ := List.mem_map.1 hpm
      exact h _ (Nat.le_add_right ..) (Nat.add_lt_add_left (List.mem_range.1 he) _)
  have hlen : (stepsAt d (s.job core k).k).length = m := by simp [hks]
  simp only [State.stepMma, hd, State.parityCheck_clean hp, hreads, hlen, Bool.false_eq_true, if_false, Bool.or_false]
  by_cases hlast : d.k ≤ (s.job core k).k + m
  · simp only [hlast, if_true, State.dequeue, State.modAcc, State.modJob_modTile, State.modTile_modTile]
    rfl
  · simp only [hlast, if_false]
    rfl

/-- What such an operation leaves. -/
theorem State.stepMma_facts {s : State} {t core k oa ob m : Nat} {d : MmaDesc} (hd : (s.job core k).mma = d)
    (hta : d.ta < 6) (htb : d.tb < 6) (hq : (s.job core k).k < d.k)
    (hm : m = if 3 ≤ d.ta ∧ (s.job core k).k + 1 < d.k then 2 else 1)
    (hp : (s.acc4 t (s.job core k).accNo).parity = []) (ha : d.a = 0x7F0000000000 + oa) (hb : d.b = 0x7F0000000000 + ob)
    (h : ∀ p, (s.job core k).k ≤ p → p < (s.job core k).k + m → oa + p * d.sa + vectorBytes d.ta d.m ≤ 0x300000 ∧
      ob + p * d.sb + vectorBytes d.tb d.n ≤ 0x300000 ∧ Sound s (sliceAddr t (oa + p * d.sa)) (vectorBytes d.ta d.m) ∧
      Sound s (sliceAddr t (ob + p * d.sb)) (vectorBytes d.tb d.n)) :
    let j := s.job core k; let u := s.stepMma t core k
    SameTurns s u t ∧ (u.tile t).queue = (if d.k ≤ j.k + m then (s.tile t).queue.erase (.mma (core % 8) k) else (s.tile t).queue) ∧
      u.job core k = { j with k := j.k + m } ∧
      (u.tile t).slots.get {} j.accNo = ((s.tile t).slots.get {} j.accNo).step d d.m d.n
        ((List.range m).map fun e => operandCodes s t d oa ob (j.k + e)) ∧
      (∀ e, e ≠ j.accNo → (u.tile t).slots.get {} e = (s.tile t).slots.get {} e) ∧ u.mem = s.mem ∧ u.strands = s.strands := by
  intro j u
  have hu : u = _ := State.stepMma_sound hd hta htb hq hm hp ha hb h
  rw [hu]
  refine ⟨(SameTurns.refl s t).modTile_modJob _ _ _ _ (fun _ => rfl) fun _ => ⟨rfl, rfl⟩, ?_, ?_, ?_, fun e he => ?_, rfl, rfl⟩
  · rw [State.tile_modJob, State.modTile_tile_same]
  · rw [State.job_modJob_same]
    rfl
  · rw [State.tile_modJob, State.modTile_tile_same]
    exact SMap.get_set_same ..
  · rw [State.tile_modJob, State.modTile_tile_same]
    exact SMap.get_set_ne _ _ _ he

end Sys2Proof.Machine
end


section
/-! SUPPORT. The products of the array: what MMA leaves in its slot (R51, R325, R336). -/

namespace Sys2Proof.Machine

open Sys2Proof.Claims

/-- The element codes of one operation's steps. -/
theorem stepped_operandCodes (s : State) (t oa ob q m : Nat) (a : AccSlot) (d : MmaDesc) {i l : Nat} (hi : i < d.m) (hl : l < d.n) :
    a.stepped d ((List.range m).map fun e => operandCodes s t d oa ob (q + e)) i l =
      stepElem a.int32 d.ta d.tb (a.elem i l) ((List.range m).map fun e =>
        (codeAt s (sliceAddr t (oa + (q + e) * d.sa)) d.ta i, codeAt s (sliceAddr t (ob + (q + e) * d.sb)) d.tb l)) := by
  rw [AccSlot.stepped, List.map_map]
  refine congrArg (stepElem a.int32 d.ta d.tb (a.elem i l)) (List.map_congr_left fun e _ => ?_)
  simp only [Function.comp_apply, operandCodes]
  rw [getD_map_range _ hi, getD_map_range _ hl]

/-- An element of the block of an INT32 product, and whether a sum for it left the range. -/
theorem stepped_int {s : State} {t oa ob q m : Nat} {a : AccSlot} {d : MmaDesc} (ha : a.int32 = true)
    (hta : d.ta = 4 ∨ d.ta = 5) (htb : d.tb = 4 ∨ d.tb = 5) {i l : Nat} (hi : i < d.m) (hl : l < d.n) :
    let sum := fun p => (a.elems.get 0 (128 * i + l)).toInt + ((List.range p).map fun e =>
      operandInt d.ta (codeAt s (sliceAddr t (oa + (q + e) * d.sa)) d.ta i) *
        operandInt d.tb (codeAt s (sliceAddr t (ob + (q + e) * d.sb)) d.tb l)).sum
    a.stepped d ((List.range m).map fun e => operandCodes s t d oa ob (q + e)) i l =
      (wrap 32 (sum m), (List.range m).any fun p => offInt32 (sum (p + 1))) := by
  intro sum
  rw [stepped_operandCodes s t oa ob q m a d hi hl, ha]
  exact stepElem_int hta htb _ _ _ m

/-- A sum leaves the range after one of `m` steps, or none did: what the accumulator held before lies in it. -/
theorem any_offInt32_iff {sum : Nat → Int} {v : BitVec 32} (h0 : sum 0 = v.toInt) (m : Nat) :
    ((List.range m).any fun p => offInt32 (sum (p + 1))) = true ↔
      ∃ p ≤ m, sum p < -2147483648 ∨ 2147483647 < sum p := by
  simp only [List.any_eq_true, List.mem_range, offInt32, decide_eq_true_eq]
  constructor
  · rintro ⟨p, hp, h⟩
    exact ⟨p + 1, hp, h⟩
  · rintro ⟨p, hp, h⟩
    cases p with
    | zero =>
      have hlo := BitVec.le_toInt v
      have hhi := BitVec.toInt_lt (x := v)
      rw [h0] at h
      norm_num at hlo hhi
      omega
    | succ p => exact ⟨p, hp, h⟩

theorem pairAcc_eq {ta tb : Nat} (h : (ta, tb) ∈ [(0, 0), (1, 1), (2, 2), (3, 3), (4, 4), (4, 5), (5, 5)]) :
    (pairAcc ta tb).getD false = true ↔ 4 ≤ ta := by
  simp only [List.mem_cons, List.not_mem_nil, or_false, Prod.mk.injEq] at h
  rcases h with ⟨rfl, rfl⟩ | ⟨rfl, rfl⟩ | ⟨rfl, rfl⟩ | ⟨rfl, rfl⟩ | ⟨rfl, rfl⟩ | ⟨rfl, rfl⟩ | ⟨rfl, rfl⟩ <;> decide

theorem Job.zero_iff (j : Job) : j.zero = true ↔ j.fn / 4 % 2 = 1 := by simp [Job.zero]

/-- R50, R51, R317 to R320, R322, R323, R325, R336: the products of the array. -/
theorem productsAccumulate : ProductsAccumulate := by
  intro s t c k r core j d n z slot q hc hv hs hqueue hbehind others
  have hcore : core % 8 = c := by omega
  have hopJob : s.opJob t (.mma c k) = j := rfl
  refine ⟨fun hst hrel hord => ?_, ?_⟩
  · have hready : s.opReady t (.mma c k) = true := by
      show (j.st == .issued && s.released j.after && s.inOrder t t core k) = true
      rw [hst, hrel, hord]
      rfl
    have hturn : s.arrayTurn t = s.beginMma t core k :=
      State.arrayTurn_begins hqueue (by rw [hopJob, hst]; decide) (fun o ho => (hbehind o ho).1) hready
    obtain ⟨huq, huj, hun, hue, hum, hus⟩ := s.beginMma_facts t core k
    refine reaches_arrayTurn hv hs hturn ⟨huq.trans hqueue, congrArg Job.st huj, (congrArg Job.k huj).trans rfl,
      ⟨fun a => State.byte_of_mem hum a, hus, (congrArg Job.err huj).trans rfl, fun e _ he => hue e he⟩, fun hz => ?_, fun hz => ?_⟩
    · exact hun.trans (if_neg fun h => hz ((Job.zero_iff j).1 h))
    · have hvn : ((s.beginMma t core k).tile t).slots.get {} n = slot.zeroed ((pairAcc d.ta d.tb).getD false) :=
        hun.trans (if_pos ((Job.zero_iff j).2 hz))
      rw [hvn]
      exact ⟨rfl, rfl, rfl, rfl, fun h => pairAcc_eq h, fun _ _ _ _ => rfl⟩
  · intro oa ob m hm x y old sum hst hq hdm hdn hpar ha hb hvec gives
    have hgives : d.ta < 6 → d.tb < 6 → ∀ P : AccSlot → Prop,
        P (slot.step d d.m d.n ((List.range m).map fun e => operandCodes s t d oa ob (q + e))) → gives P := by
      intro hta htb P hP
      obtain ⟨hturns, huq, huj, hun, hue, hum, hus⟩ :=
        State.stepMma_facts (s := s) (t := t) (core := core) (k := k) (m := m) rfl hta htb hq hm hpar ha hb hvec
      have hready : s.opReady t (.mma c k) = false := by
        show (j.st == .issued && s.released j.after && s.inOrder t t core k) = false
        rw [hst]
        rfl
      have hqueue' : ((s.stepMma t core k).tile t).queue = if d.k ≤ q + m then r else .mma c k :: r := by
        rw [huq, hqueue, hcore, List.erase_cons_head]
        rfl
      have hturn := State.arrayTurn_works hqueue (if_pos hst : s.workOp t (.mma c k) = s.stepMma t core k) hbehind hturns
        hready (by rw [hqueue']; exact ite_eq_or_eq _ _ _)
      refine reaches_arrayTurn hv hs hturn ⟨hqueue', (congrArg Job.st huj).trans hst, (congrArg Job.k huj).trans rfl,
        ⟨fun a => State.byte_of_mem hum a, hus, (congrArg Job.err huj).trans rfl, fun e _ he => hue e he⟩, ?_⟩
      have hslot : ((s.stepMma t core k).tile t).slots.get {} n =
          slot.step d d.m d.n ((List.range m).map fun e => operandCodes s t d oa ob (q + e)) := hun
      rw [hslot]
      exact ⟨rfl, rfl, rfl, rfl, fun i _ l hl hil => (slot.step_elem d hdn _ hl).trans (if_neg (by omega)), hP⟩
    clear_value gives
    refine ⟨fun hty hint => ?_, fun hty hint => ?_⟩
    · have hty' : (d.ta = 4 ∨ d.ta = 5) ∧ (d.tb = 4 ∨ d.tb = 5) := by
        simp only [List.mem_cons, List.not_mem_nil, or_false, Prod.mk.injEq] at hty
        omega
      have hel := fun {i l : Nat} (hi : i < d.m) (hl : l < d.n) =>
        stepped_int (s := s) (t := t) (oa := oa) (ob := ob) (q := q) (m := m) hint hty'.1 hty'.2 hi hl
      apply hgives (by omega) (by omega)
      refine ⟨fun i hi l hl => ?_, (slot.step_ovf d _ _ _).trans (or_congr Iff.rfl ?_)⟩
      · rw [slot.step_elem d hdn _ (by omega), if_pos ⟨hi, hl⟩, hel hi hl]
        exact ofNat_wrap 32 _
      · constructor
        · rintro ⟨i, hi, l, hl, h⟩
          rw [hel hi hl] at h
          obtain ⟨p, hp, h⟩ := (any_offInt32_iff (sum := fun p => sum p i l) (Int.add_zero _) m).1 h
          exact ⟨p, hp, i, hi, l, hl, h⟩
        · rintro ⟨p, hp, i, hi, l, hl, h⟩
          refine ⟨i, hi, l, hl, ?_⟩
          rw [hel hi hl]
          exact (any_offInt32_iff (sum := fun p => sum p i l) (Int.add_zero _) m).2 ⟨p, hp, h⟩
    · have hty' : d.ta < 4 ∧ d.ta = d.tb := by
        simp only [List.mem_cons, List.not_mem_nil, or_false, Prod.mk.injEq] at hty
        omega
      have hm' : m = 1 ∨ m = 2 ∧ d.ta = 3 := by
        rw [hm]
        split <;> omega
      have hel : ∀ i < d.m, ∀ l < d.n, slot.stepped d ((List.range m).map fun e => operandCodes s t d oa ob (q + e)) i l =
          (accumulated d.ta d.tb m (fun p => x (q + p) i) (fun p => y (q + p) l) (old i l).toNat, false) := fun i hi l hl => by
        rw [stepped_operandCodes s t oa ob q m slot d hi hl, hint]
        exact stepElem_float hty'.1 hm' _ _ _ _
      apply hgives (by omega) (by omega)
      refine ⟨Bool.eq_iff_iff.2 ((slot.step_ovf d _ _ _).trans (or_iff_left ?_)), fun i hi l hl => ?_⟩
      · rintro ⟨i, hi, l, hl, h⟩
        rw [hel i hi l hl] at h
        exact Bool.false_ne_true h
      · rw [slot.step_elem d hdn _ (by omega), if_pos ⟨hi, hl⟩, hel i hi l hl]

end Sys2Proof.Machine
end


section
/-! SUPPORT. The rows of MST: how a row is cut into runs, and a store that meets no watch and no error (R163, R330). -/

namespace Sys2Proof.Machine

open Sys2Proof.Claims

/-! ### The runs of one row -/

/-- A run within one granule is not cut. -/
theorem cuts_single {a w : Nat} (hw : 0 < w) (h : a % 65536 + w ≤ 65536) : cuts a a w = [(a, a, w)] := by
  have hmin : min w (min (65536 - a % 65536) (65536 - a % 65536)) = w := by omega
  have hfuel : 2 * (w / 65536) + 4 = 2 * (w / 65536) + 2 + 1 + 1 := rfl
  rw [cuts, hfuel, cutAt, if_neg (by omega)]
  simp only [hmin, Nat.sub_self]
  rw [cutAt, if_pos rfl]

theorem map_snd_filter_mapIdx {α : Type} (p : α → Bool) (l : List α) :
    ((l.mapIdx fun k x => (k, x)).filter fun x => p x.2).map Prod.snd = l.filter p := by
  rw [List.mapIdx_eq_zipIdx_map, List.filter_map, List.map_map]
  have h := List.filter_map (f := Prod.fst) (p := p) (l := l.zipIdx)
  rw [List.zipIdx_map_fst] at h
  exact h.symm

theorem flatMap_range_only {α : Type} (g : Nat → List α) {i m : Nat} (hi : i < m) (hg : ∀ o, o ≠ i → g o = []) :
    (List.range m).flatMap g = g i := by
  have hall : ∀ m, (List.range m).flatMap g = if i < m then g i else [] := fun m => by
    induction m with
    | zero => rfl
    | succ m ih =>
      rw [List.range_succ, List.flatMap_append, ih, List.flatMap_singleton]
      by_cases hm : m = i
      · subst hm; simp
      · rw [hg m hm, List.append_nil]
        exact if_congr (by omega) rfl rfl
  rw [hall, if_pos hi]

/-- The runs of the rows of a stream, row by row. -/
theorem outRuns_eq (base : Nat → Nat) (w m : Nat) (f : Nat → List Byte × List Nat) :
    outRuns base w ((List.range m).map fun o => some (f o)) =
      ((List.range m).flatMap fun o => (cuts (base o) (base o) w).map fun x => (o, x.1 - base o, x.1, x.2.2)).mapIdx
        fun k x => (k, x) := by
  unfold outRuns
  refine congrArg (fun l => (List.flatten l).mapIdx fun k x => (k, x)) ?_
  exact List.ext_getElem (by simp) fun i _ _ => by simp

/-- A row within one granule is one run. -/
theorem outRuns_filter {base : Nat → Nat} {w m i : Nat} (f : Nat → List Byte × List Nat) (hi : i < m) (hw : 0 < w)
    (h : base i % 65536 + w ≤ 65536) :
    ∃ k, ((outRuns base w ((List.range m).map fun o => some (f o))).filter fun x => x.2.1 == i) = [(k, i, 0, base i, w)] := by
  have hrow : (((List.range m).flatMap fun o => (cuts (base o) (base o) w).map fun x => (o, x.1 - base o, x.1, x.2.2)).filter
      fun x => x.1 == i) = [(i, 0, base i, w)] := by
    rw [List.filter_flatMap, flatMap_range_only _ hi, cuts_single hw h]
    · simp
    · intro o ho
      rw [List.filter_eq_nil_iff]
      rintro x hx
      obtain ⟨y, -, rfl⟩ := List.mem_map.1 hx
      simpa using ho
  obtain ⟨⟨k, x⟩, hx, hsnd⟩ := List.map_eq_singleton_iff.1 ((map_snd_filter_mapIdx (fun x : Nat × Nat × Nat × Nat => x.1 == i) _).trans hrow)
  exact ⟨k, (outRuns_eq base w m f) ▸ hx.trans (by rw [show x = _ from hsnd])⟩

/-! ### A store that meets nothing -/

/-- A tile changed into itself. -/
theorem State.tile_modTile_id (s : State) (t k : Nat) (f : Tile → Tile) (hf : f (s.tile t) = s.tile t) :
    (s.modTile t f).tile k = s.tile k := by
  by_cases hk : k = t
  · rw [hk, State.modTile_tile_same, hf]
  · rw [State.modTile_tile_ne _ _ _ hk]

theorem State.evalWatches_unwatched {s : State} {t off n : Nat}
    (h : ∀ w ∈ (s.tile t).watches, off + n ≤ w.off ∨ w.off + 8 ≤ off) :
    s.evalWatches t off n = s.modTile t fun x => { x with watches := (s.tile t).watches } := by
  have hmiss : ∀ w ∈ (s.tile t).watches, (decide (w.off < off + n ∧ off < w.off + 8) && s.watchHolds t w) = false :=
    fun w hw => by
      have := h w hw
      rw [decide_eq_false (by omega), Bool.false_and]
  have hnone : (s.tile t).watches.filter (fun w => decide (w.off < off + n ∧ off < w.off + 8) && s.watchHolds t w) = [] :=
    List.filter_eq_nil_iff.2 fun w hw => Bool.eq_false_iff.1 (hmiss w hw)
  have hall : (s.tile t).watches.filter (fun w => !(decide (w.off < off + n ∧ off < w.off + 8) && s.watchHolds t w)) =
      (s.tile t).watches := List.filter_eq_self.2 fun w hw => by rw [hmiss w hw]; rfl
  simp only [State.evalWatches, hnone, hall, List.foldl_nil]

/-- Bytes stored where no watch looks and no error is: they are there, and nothing else changes but the marks of errors. -/
theorem State.storeAt_writable {s : State} {pa : Nat} {bs : List Byte} (h : Writable s pa bs.length) :
    let u := s.storeAt pa none bs
    (∀ i < bs.length, u.byte (pa + i) = bs.getD i 0) ∧ SameBytesOutside s u pa bs.length ∧ u.strands = s.strands ∧
      u.cores = s.cores ∧ (∀ t, u.tile t = s.tile t) ∧ u.acc = s.acc ∧ u.ctxs = s.ctxs ∧ u.borrowers = s.borrowers := by
  intro u
  obtain ⟨-, hwatch, hres⟩ := h
  have hrest : u.mem = (s.writeRaw pa bs).mem ∧ u.strands = s.strands ∧ u.cores = s.cores ∧
      (∀ t, u.tile t = s.tile t) ∧ u.acc = s.acc ∧ u.ctxs = s.ctxs ∧ u.borrowers = s.borrowers := by
    have hu : u = s.storeAt pa none bs := rfl
    rw [State.storeAt, State.writePlain, State.writeRaw_eq] at hu
    cases hslice : sliceOf pa with
    | none =>
      simp only [hslice] at hu
      rw [hu]
      exact ⟨rfl, rfl, rfl, fun _ => rfl, rfl, rfl, rfl⟩
    | some x =>
      have hmiss : ∀ v : State, v.tile x.1 = s.tile x.1 → v.evalWatches x.1 x.2 bs.length =
          v.modTile x.1 fun y => { y with watches := (v.tile x.1).watches } :=
        fun v hv => State.evalWatches_unwatched (hv ▸ hwatch x.1 x.2 hslice)
      simp only [hslice] at hu
      rw [hu.trans (hmiss _ rfl)]
      exact ⟨rfl, rfl, rfl, fun t => State.tile_modTile_id _ _ t _ rfl, rfl, rfl, rfl⟩
  obtain ⟨hmem, hrest⟩ := hrest
  refine ⟨fun i hi => ?_, fun c hc => ?_, hrest⟩
  · rw [State.byte_of_mem hmem, State.byte_writeRaw s pa bs i hi (hres i hi), List.getD_eq_getElem _ _ hi]
  · rw [State.byte_of_mem hmem, State.byte_writeRaw_outside s pa bs hc]

end Sys2Proof.Machine
end


section
/-! SUPPORT. One row of MST: the bytes of its elements and their store (R52, R330). -/

namespace Sys2Proof.Machine

open Sys2Proof.Claims

/-! ### The bytes of a row -/

theorem mstSize_eq (f : Nat) : mstSize f = [4, 2, 2, 1, 4, 1].getD f 1 := by
  match f with
  | 0 => rfl
  | 1 => rfl
  | 2 => rfl
  | 3 => rfl
  | 4 => rfl
  | 5 => rfl
  | _ + 6 => rfl

theorem wrap_eq_ofInt (n : Nat) (v : Int) : wrap n v = (BitVec.ofInt n v).toNat := by
  rw [← ofNat_wrap, BitVec.toNat_ofNat, Nat.mod_eq_of_lt (wrap_lt n v)]

/-- Round(x, fmt) of R330, format by format. -/
theorem mstRound_eq {f : Nat} (hf : f < 6) (x : FNum) : mstRound f x = storedElem f none x := by
  have hcases : f = 0 ∨ f = 1 ∨ f = 2 ∨ f = 3 ∨ f = 4 ∨ f = 5 := by omega
  rcases hcases with rfl | rfl | rfl | rfl | rfl | rfl
  · rfl
  · rfl
  · rfl
  · rfl
  · simp only [mstRound, wrap_eq_ofInt]
    rfl
  · simp only [mstRound, wrap_eq_ofInt]
    rfl

theorem mstValue_eq {f : Nat} (hf : f < 6) (sc : Option (Nat × Nat)) (x : FNum) : mstValue f sc x = storedElem f sc x := by
  cases sc with
  | none => exact mstRound_eq hf x
  | some p => exact mstRound_eq hf _

/-- A stored element fits its format. -/
theorem mstRound_lt {f : Nat} (hf : f < 6) (x : FNum) : mstRound f x < 2 ^ (8 * mstSize f) := by
  have hcases : f = 0 ∨ f = 1 ∨ f = 2 ∨ f = 3 ∨ f = 4 ∨ f = 5 := by omega
  rcases hcases with rfl | rfl | rfl | rfl | rfl | rfl
  · exact roundFmt_lt .f32 rmRNE false x
  · exact roundFmt_lt .bf16 rmRNE false x
  · exact roundFmt_lt .f16 rmRNE false x
  · exact toDf8_lt x
  · simp only [mstRound]
    split
    · exact Nat.two_pow_pos _
    · exact wrap_lt 32 _
  · simp only [mstRound]
    split
    · exact Nat.two_pow_pos _
    · exact wrap_lt 8 _

theorem mstValue_lt {f : Nat} (hf : f < 6) (sc : Option (Nat × Nat)) (x : FNum) : mstValue f sc x < 2 ^ (8 * mstSize f) := by
  cases sc with
  | none => exact mstRound_lt hf x
  | some p => exact mstRound_lt hf _

/-- Element `l` of row `i` of an MST's window as it is stored. -/
def Job.mstCell (j : Job) (a : AccSlot) (i l : Nat) : Nat :=
  let row := (j.d 1).toNat % 128
  let col := (j.d 1).toNat / 2 ^ 8 % 128
  let v := a.elem (row + i) (col + l)
  mstValue j.mstFmt (if j.mstScaled then some (scaleOf a.sa (row + i), scaleOf a.sb (col + l)) else none)
    (if a.int32 then FNum.ofInt (sextNat 32 v) else decodeFp .f32 v)

/-- Columns of an MST's window. -/
def Job.mstCols (j : Job) : Nat := (j.d 1).toNat / 2 ^ 24 % 128 + 1

/-- The bytes of row `i`. -/
def Job.mstBytes (j : Job) (a : AccSlot) (i : Nat) : List Byte :=
  ((List.range j.mstCols).map fun l => leBytes (mstSize j.mstFmt) (j.mstCell a i l)).flatten

theorem Job.mstRows_eq (j : Job) (a : AccSlot) : j.mstRows a = (List.range ((j.d 1).toNat / 2 ^ 16 % 128 + 1)).map fun i =>
    some (j.mstBytes a i, if a.perr then List.range (j.mstCols * mstSize j.mstFmt) else []) := rfl

theorem Job.mstBytes_length (j : Job) (a : AccSlot) (i : Nat) : (j.mstBytes a i).length = j.mstCols * mstSize j.mstFmt := by
  rw [Job.mstBytes, ← List.flatMap_def, flatMap_range_length _ _ fun l => leBytes_length _ _, Nat.mul_comm]

/-- Element `l` of a row's bytes. -/
theorem Job.leNat_mstBytes (j : Job) (a : AccSlot) (i : Nat) (hf : j.mstFmt < 6) {l : Nat} (hl : l < j.mstCols) :
    leNat (((j.mstBytes a i).drop (l * mstSize j.mstFmt)).take (mstSize j.mstFmt)) = j.mstCell a i l := by
  have hpart := flatMap_range_part (fun l => leBytes (mstSize j.mstFmt) (j.mstCell a i l)) (k := mstSize j.mstFmt) (off := 0)
    (len := mstSize j.mstFmt) (fun l => leBytes_length _ _) hl (Nat.le_of_eq (Nat.zero_add _))
  rw [Job.mstBytes, ← List.flatMap_def, Nat.mul_comm l]
  refine (congrArg leNat hpart).trans ?_
  rw [List.drop_zero, List.take_of_length_le (Nat.le_of_eq (leBytes_length _ _)), leNat_leBytes]
  exact Nat.mod_eq_of_lt (mstValue_lt hf _ _)

/-! ### Its store -/

/-- An engine's write to bytes that hold no error is a store of them. -/
theorem State.engineWrite_sound {s : State} {pa : Nat} {bs : List Byte} (hs : Sound s pa bs.length) (hb : bs ≠ []) :
    s.engineWrite (.mem pa none) bs [] = (s.storeAt pa none bs, none, bs.length) := by
  have hpart : (unitsOf pa bs.length).filter (fun u => s.poison.contains u && !(coveredUnits pa bs.length).contains u) = [] :=
    List.filter_eq_nil_iff.2 fun u hu => by simp [(hs u hu).1]
  obtain ⟨n, hn⟩ : ∃ n, bs.length = n + 1 := Nat.exists_eq_succ_of_ne_zero fun h => hb (List.length_eq_zero_iff.1 h)
  have hkeep : (List.range bs.length).isEmpty = false := by rw [hn, List.range_succ_eq_map]; rfl
  have hlo : (List.range bs.length).headD 0 = 0 := by rw [hn, List.range_succ_eq_map]; rfl
  have hfilter : (List.range bs.length).filter (fun _ => true) = List.range bs.length := List.filter_eq_self.2 fun _ _ => rfl
  simp only [State.engineWrite, hpart, List.contains_nil, Bool.not_false, hfilter, hkeep, hlo]
  simp

/-- A run of a row written whole. -/
theorem State.writeOut_sound {s : State} {core slot k i va pa : Nat} {bs : List Byte} (hb : bs ≠ [])
    (he : s.engX (s.job core slot).ctx core va bs.length needW = .ok (.mem pa none)) (hs : Sound s pa bs.length) :
    s.writeOut core slot (k, i, 0, va, bs.length) (bs, []) =
      ((s.storeAt pa none bs).modJob core slot fun j => { j with bytes := j.bytes + bs.length }, true) := by
  simp [State.writeOut, he, State.engineWrite_sound hs hb]

end Sys2Proof.Machine
end


section
/-! SUPPORT. A row of MST at the head of the array's queue (R320, R330, R336). -/

namespace Sys2Proof.Machine

open Sys2Proof.Claims

theorem State.modJob_modJob (s : State) (c k : Nat) (f g : Job → Job) :
    (s.modJob c k f).modJob c k g = s.modJob c k fun j => g (f j) := by
  unfold State.modJob State.modCore
  rw [State.setCore_core_same]
  unfold State.setCore
  simp only [SMap.set_set, SMap.get_set_same]

/-- The bytes between two rows of an MST's destination. -/
def Job.mstStride (j : Job) : Nat := (j.d 1).toNat / 2 ^ 32
/-- Rows of an MST's window. -/
def Job.mstCount (j : Job) : Nat := (j.d 1).toNat / 2 ^ 16 % 128 + 1

/-- The runs of the next row of an MST. -/
def Job.nextRuns (j : Job) (a : AccSlot) : List OutRun :=
  (outRuns (fun i => (j.d 0).toNat + i * j.mstStride) (j.mstCols * mstSize j.mstFmt) (j.mstRows a)).filter
    fun x => x.2.1 == j.k

theorem State.rowMst_eq (s : State) (t core slot : Nat) : s.rowMst t core slot =
    let j := s.job core slot
    let rs := j.nextRuns (s.acc4 t j.accNo)
    match s.holdOut core slot rs with
    | some s => s
    | none =>
      let (s, _) := s.parityCheck t j.accNo ((j.d 1).toNat % 128 + j.k) ((j.d 1).toNat / 2 ^ 8 % 128) 1 j.mstCols
      let s := if (s.acc4 t j.accNo).perr then s.notePoison core slot (outIdx ((rs.map (·.1)).headD 0)) else s
      let s := (s.writeRows core slot (j.mstRows (s.acc4 t j.accNo)) rs).modJob core slot fun j =>
        { j with rows := 0, k := j.k + 1 }
      if j.mstCount ≤ j.k + 1 then s.dequeue t (.mst (core % 8) slot) else s := rfl

/-- A row whose page is there is not held. -/
theorem State.holdOut_present {s : State} {core slot k i va n : Nat} {x : Target}
    (h : s.engX (s.job core slot).ctx core va n needW = .ok x) : s.holdOut core slot [(k, i, 0, va, n)] = none := by
  have hnone : s.outAbsent core (s.job core slot) [(k, i, 0, va, n)] = [] := by simp [State.outAbsent, h]
  rw [State.holdOut, hnone]

/-- Where the page is there and neither a watch nor an error is met, the next row of an MST is stored. -/
theorem State.rowMst_sound {s : State} {t core slot pa va : Nat} {bs : List Byte} {j : Job} (hj : s.job core slot = j)
    (hi : j.k < j.mstCount) (hva : va = (j.d 0).toNat + j.k * j.mstStride) (hp : (s.acc4 t j.accNo).parity = [])
    (he : (s.acc4 t j.accNo).perr = false) (hbs : bs = j.mstBytes (s.acc4 t j.accNo) j.k) (hpos : 0 < bs.length)
    (hpage : va % 65536 + bs.length ≤ 65536) (hx : s.engX j.ctx core va bs.length needW = .ok (.mem pa none))
    (hs : Sound s pa bs.length) :
    let u := (s.storeAt pa none bs).modJob core slot fun x =>
      { x with bytes := x.bytes + bs.length, rows := 0, k := x.k + 1 }
    s.rowMst t core slot = if j.mstCount ≤ j.k + 1 then u.dequeue t (.mst (core % 8) slot) else u := by
  have hrows := j.mstRows_eq (s.acc4 t j.accNo)
  simp only [he, Bool.false_eq_true, if_false] at hrows
  have hlen : j.mstCols * mstSize j.mstFmt = bs.length := by rw [hbs, Job.mstBytes_length]
  obtain ⟨idx, hruns⟩ := outRuns_filter (base := fun i => (j.d 0).toNat + i * j.mstStride)
    (fun i => (j.mstBytes (s.acc4 t j.accNo) i, ([] : List Nat))) hi hpos (by rw [← hva]; exact hpage)
  have hnext : j.nextRuns (s.acc4 t j.accNo) = [(idx, j.k, 0, va, bs.length)] := by
    rw [Job.nextRuns, hlen, hrows, hva]
    exact hruns
  have hrow : (j.mstRows (s.acc4 t j.accNo)).getD j.k none = some (bs, []) := by
    rw [hrows, List.getD_eq_getElem _ _ (by simpa [Job.mstCount] using hi), hbs]
    simp
  have hout := State.writeOut_sound (s := s) (core := core) (slot := slot) (k := idx) (i := j.k) (va := va)
    (List.length_pos_iff.1 hpos) (hj.symm ▸ hx) hs
  rw [State.rowMst_eq, hj]
  simp only [hnext, State.holdOut_present (hj.symm ▸ hx), State.parityCheck_clean hp, he, Bool.false_eq_true, if_false,
    State.writeRows, List.foldl_cons, List.foldl_nil, hrow, hout, State.modJob_modJob]

/-- What such a row leaves. -/
theorem State.rowMst_facts {s : State} {t core slot pa va : Nat} {bs : List Byte} {j : Job} (hj : s.job core slot = j)
    (hi : j.k < j.mstCount) (hva : va = (j.d 0).toNat + j.k * j.mstStride) (hp : (s.acc4 t j.accNo).parity = [])
    (he : (s.acc4 t j.accNo).perr = false) (hbs : bs = j.mstBytes (s.acc4 t j.accNo) j.k) (hpos : 0 < bs.length)
    (hpage : va % 65536 + bs.length ≤ 65536) (hx : s.engX j.ctx core va bs.length needW = .ok (.mem pa none))
    (hs : Writable s pa bs.length) (hpa : 2 ^ 41 ≤ pa) : let u := s.rowMst t core slot
    SameTurns s u t ∧ (u.tile t).queue = (if j.mstCount ≤ j.k + 1 then (s.tile t).queue.erase (.mst (core % 8) slot)
        else (s.tile t).queue) ∧ (u.tile t).slots = (s.tile t).slots ∧
      u.job core slot = { j with bytes := j.bytes + bs.length, rows := 0, k := j.k + 1 } ∧ u.strands = s.strands ∧
      (∀ i < bs.length, u.byte (pa + i) = bs.getD i 0) ∧ SameBytesOutside s u pa bs.length := by
  intro u
  obtain ⟨hbytes, hout, hstrands, hcores, htiles, hacc, hctxs, hborrowers⟩ := State.storeAt_writable hs
  have hjobs : ∀ c k, (s.storeAt pa none bs).job c k = s.job c k := fun c k =>
    congrArg (fun m => (SMap.get m ({} : Core) c).jobs.get ({} : Job) k) hcores
  have hturns : SameTurns s (s.storeAt pa none bs) t := {
    maps := ⟨fun a ha => hout a (.inl (by omega)), hctxs, hborrowers⟩
    acc := hacc
    locks := by rw [htiles]
    jobs := fun c k => by rw [hjobs]; exact ⟨rfl, rfl⟩ }
  have hrow : u = _ := State.rowMst_sound hj hi hva hp he hbs hpos hpage hx hs.1
  have hjob : ∀ v : State, v.job core slot = j → (v.modJob core slot fun x =>
      { x with bytes := x.bytes + bs.length, rows := 0, k := x.k + 1 }).job core slot =
        { j with bytes := j.bytes + bs.length, rows := 0, k := j.k + 1 } := fun v hv => by
    rw [State.job_modJob_same, hv]
  by_cases hlast : j.mstCount ≤ j.k + 1
  · rw [if_pos hlast, State.dequeue, State.modJob_modTile] at hrow
    rw [hrow, if_pos hlast]
    refine ⟨hturns.modTile_modJob _ _ _ _ (fun _ => rfl) fun _ => ⟨rfl, rfl⟩, ?_, ?_, hjob _ ((hjobs _ _).trans hj), hstrands,
      hbytes, hout⟩
    · rw [State.tile_modJob, State.modTile_tile_same, htiles]
    · rw [State.tile_modJob, State.modTile_tile_same, htiles]
  · rw [if_neg hlast] at hrow
    rw [hrow, if_neg hlast]
    exact ⟨hturns.modJob fun _ => ⟨rfl, rfl⟩, congrArg Tile.queue (htiles t), congrArg Tile.slots (htiles t),
      hjob _ ((hjobs _ _).trans hj), hstrands, hbytes, hout⟩

end Sys2Proof.Machine
end


section
/-! SUPPORT. The answer to MZR, and O51: the operations at the head of the array's queue (R318, R320, R327, R328, R330). -/

namespace Sys2Proof.Machine

open Sys2Proof.Claims

/-! ### A result that reaches a running strand -/

theorem State.savedImage_running {s : State} {n : Nat} (h : (s.strand n).phase = .running) : s.savedImage n = none := by
  simp [State.savedImage, h, Phase.saved]

theorem State.imageField_running {s : State} {n : Nat} (h : (s.strand n).phase = .running) (off : Nat) (bs : List Byte) :
    s.imageField n off bs = s := by rw [State.imageField, State.savedImage_running h]

theorem State.imagePend_running {s : State} {n : Nat} (h : (s.strand n).phase = .running) : s.imagePend n = s := by
  unfold State.imagePend State.imageState
  rw [State.savedImage_running h]

theorem writeG_phase (x : Strand) (d : GReg) (v : Word) : (writeG x d v).phase = x.phase := by rw [writeG_eq]
theorem writeG_resumeWait (x : Strand) (d : GReg) (v : Word) : (writeG x d v).resumeWait = x.resumeWait := by rw [writeG_eq]
theorem writeG_pend (x : Strand) (d : GReg) (v : Word) : (writeG x d v).pend = x.pend := by rw [writeG_eq]

/-- A word delivered to a general register of a running strand. -/
theorem State.deliver_running {s : State} {a : Access} {d : GReg} {v : Word} (hd : a.dest = .g d 8 false)
    (hph : (s.strand a.strand).phase = .running) (hsp : (s.strand a.strand).spBad d v = false) :
    let u := s.deliver a (leBytes 8 v.toNat)
    u.mem = s.mem ∧ u.tiles = s.tiles ∧ SameStrandsBut a.strand s u ∧ u.strand a.strand = writeG (s.strand a.strand) d v := by
  intro u
  have hv : loadWord 8 false (leBytes 8 v.toNat) = v := by
    rw [loadWord, if_neg Bool.false_ne_true, leNat_leBytes, Nat.mod_eq_of_lt v.isLt, BitVec.ofNat_toNat, BitVec.setWidth_eq]
  have hu : u = if d = 0 then s else s.putLate a.strand (fun st => writeG st d v) (8 * d.val) (leBytes 8 v.toNat) := by
    show s.deliver a _ = _
    simp [State.deliver, hd, hv, hsp]
  by_cases h0 : d = 0
  · rw [hu, if_pos h0, h0]
    exact ⟨rfl, rfl, fun _ _ => rfl, (writeG_zero _ v).symm⟩
  · have hrun : ((s.modStrand a.strand fun st => writeG st d v).strand a.strand).phase = .running := by
      rw [State.modStrand_strand_same, writeG_phase, hph]
    rw [hu, if_neg h0, State.putLate, State.imageField_running hrun]
    exact ⟨rfl, rfl, fun k hk => State.modStrand_strand_ne _ _ _ hk, State.modStrand_strand_same _ _ _⟩

/-- The answer to a load of a running strand: its register is written and it no longer awaits the group. -/
theorem State.answer_running {s : State} {a : Access} {d : GReg} {v : Word} (hk : a.kind = .load) (hd : a.dest = .g d 8 false)
    (hdone : a.status = .done (leBytes 8 v.toNat)) (hrun : (s.strand a.strand).run = a.run)
    (hph : (s.strand a.strand).phase = .running) (hres : (s.strand a.strand).resumeWait = false)
    (hsp : (s.strand a.strand).spBad d v = false) :
    let u := s.answer [a]
    u.mem = s.mem ∧ u.tiles = s.tiles ∧ SameStrandsBut a.strand s u ∧ u.strand a.strand =
      { writeG (s.strand a.strand) d v with pend := (s.strand a.strand).pend.filter fun q => q.id != a.grp } := by
  intro u
  have hlive : s.accessLive a = true := by simp [State.accessLive, hrun, hph]
  have hsettle : s.settleGroup [a] true = s.deliver a (leBytes 8 v.toNat) := by
    simp [State.settleGroup, worst, hdone, AccStatus.cause, AccStatus.bytes, State.deliverKind, hk]
  have hu : u = ((s.deliver a (leBytes 8 v.toNat)).unpend a.strand a.grp).tryResume a.strand := by
    show s.answer [a] = _
    simp [State.answer, hlive, hsettle]
  obtain ⟨hm, ht, hothers, hme⟩ := State.deliver_running (s := s) hd hph hsp
  generalize s.deliver a (leBytes 8 v.toNat) = w at *
  have hph' : ((w.modStrand a.strand fun st => { st with pend := st.pend.filter fun p => p.id != a.grp }).strand
      a.strand).phase = .running := by
    rw [State.modStrand_strand_same, hme]
    exact (writeG_phase _ d v).trans hph
  have hres' : ((w.modStrand a.strand fun st => { st with pend := st.pend.filter fun p => p.id != a.grp }).strand
      a.strand).resumeWait = false := by
    rw [State.modStrand_strand_same, hme]
    exact (writeG_resumeWait _ d v).trans hres
  rw [State.unpend, State.imagePend_running hph', State.tryResume] at hu
  simp only [hres', Bool.false_and, Bool.false_eq_true, if_false, hph', reduceCtorEq] at hu
  rw [hu]
  refine ⟨hm, ht, fun k hk => ?_, ?_⟩
  · rw [State.modStrand_strand_ne _ _ _ hk, hothers k hk]
  · rw [State.modStrand_strand_same, hme, writeG_pend]

/-! ### The operations at the head of the queue -/

theorem readRaw_of_bytes {u : State} {pa : Nat} {bs : List Byte} (h : ∀ i < bs.length, u.byte (pa + i) = bs.getD i 0)
    {off n : Nat} (ho : off + n ≤ bs.length) : u.readRaw (pa + off) n = (bs.drop off).take n := by
  refine List.ext_getElem (by simp; omega) fun i hi _ => ?_
  have hn : i < n := by simpa using hi
  rw [List.getElem_take, List.getElem_drop]
  simp only [State.readRaw_eq_map, List.getElem_map, List.getElem_range]
  rw [Nat.add_assoc, h (off + i) (by omega), List.getD_eq_getElem _ _ (by omega)]

/-- An element of a row as R52 states it. -/
theorem Job.mstCell_eq (j : Job) (a : AccSlot) (i l : Nat) (hf : j.mstFmt < 6) :
    let row := (j.d 1).toNat % 128
    let col := (j.d 1).toNat / 2 ^ 8 % 128
    let e := a.elems.get 0 (128 * (row + i) + col + l)
    j.mstCell a i l = storedElem j.mstFmt (if j.fn / 32 % 2 = 1 then
        some ((a.sa.get 0x3F800000 (row + i)).toNat, (a.sb.get 0x3F800000 (col + l)).toNat) else none)
      (if a.int32 then FNum.ofInt e.toInt else decodeFp .f32 e.toNat) := by
  intro row col e
  have he : a.elem (row + i) (col + l) = e.toNat := by
    rw [AccSlot.elem, ← Nat.add_assoc]
  have hsc : (j.mstScaled = true) = (j.fn / 32 % 2 = 1) := propext beq_iff_eq
  rw [Job.mstCell]
  simp only [hsc]
  rw [mstValue_eq hf, he, sextNat_toNat (by decide)]
  rfl

/-- A slot whose staged scales have become its scales. -/
def AccSlot.unstaged (x : AccSlot) : AccSlot :=
  match x.staged with
  | some (sa, sb) => { x with sa := sa, sb := sb, staged := none }
  | none => x

/-- The head of the queue taken off, and a slot changed. -/
theorem State.dequeue_modAcc_tile {s : State} {t : Nat} {o : ArrayOp} {r : List ArrayOp} (hq : (s.tile t).queue = o :: r)
    (n : Nat) (f : AccSlot → AccSlot) : let u := (s.dequeue t o).modAcc t n f
    (u.tile t).queue = r ∧ (u.tile t).slots.get {} n = f (s.acc4 t n) := by
  intro u
  have hu : u.tile t = { s.tile t with
      queue := (s.tile t).queue.erase o, slots := (s.tile t).slots.set n (f ((s.tile t).slots.get {} n)) } := by
    simp [u, State.dequeue, State.modAcc]
  rw [hu]
  exact ⟨by simp [hq], SMap.get_set_same ..⟩

/-- The head of the queue taken off. -/
theorem State.dequeue_tile {s : State} {t : Nat} {o : ArrayOp} {r : List ArrayOp} (hq : (s.tile t).queue = o :: r) :
    ((s.dequeue t o).tile t).queue = r ∧ ((s.dequeue t o).tile t).slots = (s.tile t).slots := by
  simp [State.dequeue, hq]

/-- MZR answers a running strand with the status word its slot had. -/
theorem State.runMzr_facts {s : State} {t n : Nat} {a : Access} {c st : Bool} {r : List ArrayOp} {d : GReg}
    (hq : (s.tile t).queue = .mzr a n c st :: r) (hk : a.kind = .load) (hrun : (s.strand a.strand).run = a.run)
    (hph : (s.strand a.strand).phase = .running) (hres : (s.strand a.strand).resumeWait = false) (hd : a.dest = .g d 8 false)
    (hsp : (s.strand a.strand).spBad d (s.acc4 t n).statusWord = false) : let u := s.runOp t (.mzr a n c st)
    u.mem = s.mem ∧ (u.tile t).queue = r ∧ SameStrandsBut a.strand s u ∧ u.strand a.strand =
        { writeG (s.strand a.strand) d (s.acc4 t n).statusWord with
          pend := (s.strand a.strand).pend.filter fun q => q.id != a.grp } ∧
      (st = true → (u.tile t).slots.get {} n = s.acc4 t n) ∧
      (st = false → (u.tile t).slots.get {} n = (s.acc4 t n).zeroed c) := by
  intro u
  cases st with
  | true =>
    obtain ⟨hqueue, hslots⟩ := State.dequeue_tile hq
    obtain ⟨hm, ht, hothers, hme⟩ := State.answer_running (s := s.dequeue t (.mzr a n c true))
      (a := { a with status := .done (leBytes 8 (s.acc4 t n).statusWord.toNat) }) hk hd rfl hrun hph hres hsp
    have hut : u.tile t = (s.dequeue t (.mzr a n c true)).tile t := congrArg (·.get {} t) ht
    exact ⟨hm, hut ▸ hqueue, hothers, hme, fun _ => (congrArg (·.slots.get {} n) hut).trans (congrArg (·.get {} n) hslots), nofun⟩
  | false =>
    obtain ⟨hqueue, hslot⟩ := State.dequeue_modAcc_tile hq n fun x => x.zeroed c
    obtain ⟨hm, ht, hothers, hme⟩ := State.answer_running
      (s := (s.dequeue t (.mzr a n c false)).modAcc t n fun x => x.zeroed c)
      (a := { a with status := .done (leBytes 8 (s.acc4 t n).statusWord.toNat) }) hk hd rfl hrun hph hres hsp
    have hut : u.tile t = ((s.dequeue t (.mzr a n c false)).modAcc t n fun x => x.zeroed c).tile t := congrArg (·.get {} t) ht
    exact ⟨hm, hut ▸ hqueue, hothers, hme, nofun, fun _ => (congrArg (·.slots.get {} n) hut).trans hslot⟩

/-- R318, R320, R327, R328, R330, R331, R336: the stores, zeroings and scalings of the array. -/
theorem slotsAreStoredZeroedAndScaled : SlotsAreStoredZeroedAndScaled := by
  intro s t r ht tile slot hv hs
  refine ⟨fun hq => ?_, ?_, ?_, ?_⟩
  · rw [exec_arrayOperation hv hs, State.arrayTurn_empty hq]
  · intro c k off core j n f i v row col rows cols size w at_ pa a exact_ scales hc hq hbehind
    have hcore : core % 8 = c := by omega
    have hopJob : s.opJob t (.mst c k) = j := rfl
    refine ⟨fun hst hrel hord => ?_, fun hst hf hi hpieces herr hpar hperr hd0 hend hpage hx hw => ?_⟩
    · have hready : s.opReady t (.mst c k) = true := by
        show (j.st == .issued && s.released j.after && s.inOrder t t core k) = true
        rw [hst, hrel, hord]
        rfl
      have hturn : s.arrayTurn t = s.modJob core k fun j => { j with st := .running } :=
        State.arrayTurn_begins hq (by rw [hopJob, hst]; decide) (fun o ho => (hbehind o ho).1) hready
      exact reaches_arrayTurn hv hs hturn ⟨rfl, State.job_modJob_same .., rfl, fun _ => rfl, rfl⟩
    · have hd : (j.d 0).toNat = 0x7F0000000000 + off := by
        rw [Job.d, hd0, BitVec.toNat_ofNat, Nat.mod_eq_of_lt (by omega)]
      have hlen : (j.mstBytes a i).length = w := by
        rw [Job.mstBytes_length, mstSize_eq]
        rfl
      have hpos : 0 < w := Nat.mul_pos (Nat.succ_pos _) (by
        have h6 : f = 0 ∨ f = 1 ∨ f = 2 ∨ f = 3 ∨ f = 4 ∨ f = 5 := by omega
        rcases h6 with h | h | h | h | h | h <;> simp [size, h])
      have hpa : 2 ^ 41 ≤ pa := by
        show 2 ^ 41 ≤ 0x100000000000 + t * 0x400000 + at_
        omega
      have hva : 0x7F0000000000 + at_ = (j.d 0).toNat + i * j.mstStride := by
        rw [hd, Nat.add_assoc]
        rfl
      obtain ⟨hturns, huq, hslots, hjob, hstrands, hbytes, hout⟩ := State.rowMst_facts (s := s) (t := t) (core := core) (slot := k)
        (pa := pa) (bs := j.mstBytes a i) rfl hi hva hpar hperr rfl (hlen ▸ hpos) (hlen ▸ hpage) (hlen ▸ hx) (hlen ▸ hw) hpa
      have hready : s.opReady t (.mst c k) = false := by
        show (j.st == .issued && s.released j.after && s.inOrder t t core k) = false
        rw [hst]
        rfl
      have hqueue' : ((s.rowMst t core k).tile t).queue = if rows ≤ i + 1 then r else tile.queue := by
        rw [huq, hq, hcore, List.erase_cons_head]
        rfl
      have hturn := State.arrayTurn_works hq (if_pos hst : s.workOp t (.mst c k) = s.rowMst t core k) hbehind hturns
        hready (by rw [hqueue', hq]; exact ite_eq_or_eq _ _ _)
      refine reaches_arrayTurn hv hs hturn ⟨hqueue', (congrArg Job.st hjob).trans hst, (congrArg Job.k hjob).trans rfl,
        (congrArg Job.err hjob).trans herr, (congrArg Job.bytes hjob).trans (by rw [hlen]), hstrands, hslots,
        fun l hl => ?_, hlen ▸ hout⟩
      have hsize : size = mstSize j.mstFmt := (mstSize_eq f).symm
      have hl' : l * mstSize j.mstFmt + mstSize j.mstFmt ≤ (j.mstBytes a i).length := by
        rw [Job.mstBytes_length, ← Nat.succ_mul]
        exact Nat.mul_le_mul_right _ hl
      rw [hsize, memNat_eq_leNat, readRaw_of_bytes hbytes hl', Job.leNat_mstBytes j a i hf hl]
      exact Job.mstCell_eq j a i l hf
  · intro a n c st hq hidle o x v hk hrun hph hres d hd hsp
    have hturn : s.arrayTurn t = s.runOp t (.mzr a n c st) := State.arrayTurn_begins hq nofun hidle rfl
    have hword : (s.acc4 t n).statusWord = v := by
      simp only [v, AccSlot.statusWord, Nat.mul_comm 2, Nat.mul_comm 4]
      rfl
    rw [← hword] at hsp
    obtain ⟨hm, hq', hothers, hme, hkeep, hzero⟩ := State.runMzr_facts (st := st) (c := c) (n := n) hq hk hrun hph hres hd hsp
    rw [hword] at hme
    refine reaches_arrayTurn hv hs hturn ⟨hq', hm, hothers, hme, hkeep, fun h => ?_⟩
    rw [hzero h]
    exact ⟨rfl, rfl, rfl, rfl, rfl, fun _ _ _ _ => rfl⟩
  · intro n c sa sb hq hidle hstaged
    have hturn : s.arrayTurn t = s.runOp t (.mscl n c) := State.arrayTurn_begins hq nofun hidle rfl
    obtain ⟨hqueue, hslot⟩ := State.dequeue_modAcc_tile hq n AccSlot.unstaged
    refine reaches_arrayTurn hv hs hturn ⟨hqueue, rfl, rfl, hslot.trans ?_⟩
    have hstaged' : (s.acc4 t n).staged = some (sa, sb) := hstaged
    rw [AccSlot.unstaged, hstaged']
    rfl

/-- Settles O51: the products step by step, then the stores, zeroings and scalings at the head of the queue. -/
theorem arrayOperations : Obligations.ArrayOperations := ⟨productsAccumulate, slotsAreStoredZeroedAndScaled⟩

end Sys2Proof.Machine
end


section
/-! SUPPORT. Packets sent and taken: what a packet sent with no release to wait for does to the network, and to nothing
else (R214, R218). -/

namespace Sys2Proof.Machine

open Sys2Proof.Claims

/-! ### The network alone decides how a packet is sent -/

/-- Two states have one network. -/
structure SameNet (s u : State) : Prop where
  net : u.net = s.net
  nextId : u.nextId = s.nextId
  links : u.links = s.links

theorem SameNet.refl (s : State) : SameNet s s := ⟨rfl, rfl, rfl⟩

/-- A source counted leaves the network as it was. -/
theorem SameNet.source {s u : State} (h : SameNet s u) (c : Nat) : SameNet s (u.source c) := ⟨h.net, h.nextId, h.links⟩

theorem SameNet.modTile {s u : State} (h : SameNet s u) (t : Nat) (f : Tile → Tile) : SameNet s (u.modTile t f) :=
  ⟨h.net, h.nextId, h.links⟩

theorem SameNet.modJob {s u : State} (h : SameNet s u) (c k : Nat) (f : Job → Job) : SameNet s (u.modJob c k f) :=
  ⟨h.net, h.nextId, h.links⟩

theorem SameNet.mayLeave {s u : State} (h : SameNet s u) {p : Packet} (hp : p.after = []) : u.mayLeave p = s.mayLeave p := by
  unfold State.mayLeave State.vcUsed State.link
  rw [h.net, h.links, hp]
  rfl

theorem SameNet.sendOn {s u : State} (h : SameNet s u) {p : Packet} (hp : p.after = []) : SameNet (s.sendOn p) (u.sendOn p) := by
  unfold State.sendOn
  rw [h.mayLeave hp]
  split
  · exact ⟨congrArg (List.map _) h.net, h.nextId, by simp only [State.modLink, State.link, h.links]⟩
  · exact h

theorem SameNet.inject {s u : State} (h : SameNet s u) (t d : Nat) (v : Bool) (c : Nat) (b : Body) :
    SameNet (s.inject t d v c [] b) (u.inject t d v c [] b) := by
  unfold State.inject State.route
  rw [h.nextId]
  refine SameNet.sendOn ?_ rfl
  exact ⟨congrArg (· ++ _) h.net, rfl, h.links⟩

/-! ### What sending leaves -/

/-- A state but for the network and the sources counted is as another. -/
structure SameButNet (s u : State) : Prop where
  tiles : u.tiles = s.tiles
  cores : u.cores = s.cores
  time : u.time = s.time

theorem SameButNet.refl (s : State) : SameButNet s s := ⟨rfl, rfl, rfl⟩

theorem SameButNet.tile_eq {s u : State} (h : SameButNet s u) (t : Nat) : u.tile t = s.tile t := congrArg (·.get {} t) h.tiles

theorem SameButNet.job_eq {s u : State} (h : SameButNet s u) (c k : Nat) : u.job c k = s.job c k :=
  congrArg (fun x : SMap Core => (x.get {} c).jobs.get {} k) h.cores

theorem SameButNet.source {s u : State} (h : SameButNet s u) (c : Nat) : SameButNet s (u.source c) := ⟨h.tiles, h.cores, h.time⟩

theorem SameButNet.inject {s u : State} (h : SameButNet s u) (t d : Nat) (v : Bool) (c : Nat) (b : Body) :
    SameButNet s (u.inject t d v c [] b) := by
  unfold State.inject State.route State.sendOn
  split <;> exact ⟨h.tiles, h.cores, h.time⟩

/-! ### Packets sent one after another -/

/-- Packets sent for context `c`, each from one more source. -/
def State.sends (s : State) (t c : Nat) (l : List (Nat × Bool × Body)) : State :=
  l.foldl (fun s x => (s.source c).inject t x.1 x.2.1 c [] x.2.2) s

theorem SameNet.sends {s u : State} (h : SameNet s u) (t c : Nat) (l : List (Nat × Bool × Body)) :
    SameNet (l.foldl (fun s x => s.inject t x.1 x.2.1 c [] x.2.2) s) (u.sends t c l) := by
  induction l generalizing s u with
  | nil => exact h
  | cons x l ih => exact ih ((h.source c).inject t x.1 x.2.1 c x.2.2)

theorem SameButNet.sends {s u : State} (h : SameButNet s u) (t c : Nat) (l : List (Nat × Bool × Body)) :
    SameButNet s (u.sends t c l) := by
  induction l generalizing u with
  | nil => exact h
  | cons x l ih => exact ih ((h.source c).inject t x.1 x.2.1 c x.2.2)

/-- Where the networks are one, `sends` sends what R214 states. -/
theorem SameNet.sends_claim {s u : State} (h : SameNet s u) (t c : Nat) (l : List (Nat × Bool × Body)) :
    Sends s (u.sends t c l) t c l := (h.sends t c l).net

@[simp] theorem State.tile_sends (s : State) (t c : Nat) (l : List (Nat × Bool × Body)) (k : Nat) :
    (s.sends t c l).tile k = s.tile k := ((SameButNet.refl s).sends t c l).tile_eq k

@[simp] theorem State.job_sends (s : State) (t c : Nat) (l : List (Nat × Bool × Body)) (a k : Nat) :
    (s.sends t c l).job a k = s.job a k := ((SameButNet.refl s).sends t c l).job_eq a k

/-! ### A packet taken -/

/-- A packet that has arrived is delivered. -/
theorem State.deliverPacket_arrived {s : State} {k : Nat} {p : Packet} (h : Arrived s k p) (f : State → Packet → State) :
    s.deliverPacket k f = f (without s k) p := by
  obtain ⟨hp, hpos, hmoving, hreleased, hfirst⟩ := h
  have hstream : (s.net.take k).all (fun q => !p.sameStream q) = true := List.all_eq_true.2 fun q hq => by
    have hne := hfirst q hq
    cases hsame : p.sameStream q with
    | false => rfl
    | true =>
      refine absurd ?_ hne
      simpa [Packet.sameStream, and_assoc] using hsame
  have hdel : s.deliverable k = true := by
    simp only [State.deliverable, hp, hpos, hmoving, hreleased, hstream, beq_self_eq_true, Bool.not_false, Bool.and_true]
  simp only [State.deliverPacket, hp, hdel, if_true]
  rfl

end Sys2Proof.Machine
end


section
/-! SUPPORT. The members of an MMAG in their order, and a part that one of them takes (R324, R332 to R334). -/

namespace Sys2Proof.Machine

open Sys2Proof.Claims

/-! ### The members -/

theorem MmaDesc.memberTile_eq (d : MmaDesc) (t x : Nat) : d.memberTile t x = memberAt d t x := rfl

theorem MmaDesc.order_perm (d : MmaDesc) (t : Nat) : (d.order t).Perm (List.range (membersOf d)) :=
  List.perm_insertionSort _ _

theorem MmaDesc.mem_order {d : MmaDesc} {t x : Nat} : x ∈ d.order t ↔ x < membersOf d := by
  rw [(d.order_perm t).mem_iff, List.mem_range]

theorem MmaDesc.order_pairwise (d : MmaDesc) (t : Nat) :
    (d.order t).Pairwise fun a b => memberAt d t a ≤ memberAt d t b :=
  @List.pairwise_insertionSort _ (fun a b => d.memberTile t a ≤ d.memberTile t b) _ ⟨fun _ _ => Nat.le_total _ _⟩
    ⟨fun _ _ _ => Nat.le_trans⟩ _

/-- The first member in order that is left stands on the lowest tile. -/
theorem MmaDesc.order_find {d : MmaDesc} {t : Nat} {l : List Nat} (h : ∃ y < membersOf d, y ∉ l) :
    ∃ x < membersOf d, x ∉ l ∧ (∀ y < membersOf d, y ∉ l → memberAt d t x ≤ memberAt d t y) ∧
      (d.order t).find? (fun i => !l.contains i) = some x := by
  obtain ⟨y, hy, hyl⟩ := h
  have hsome : ((d.order t).find? fun i => !l.contains i).isSome :=
    List.find?_isSome.2 ⟨y, MmaDesc.mem_order.2 hy, by simpa using hyl⟩
  obtain ⟨x, hx⟩ := Option.isSome_iff_exists.1 hsome
  obtain ⟨hxl, as, bs, heq, has⟩ := List.find?_eq_some_iff_append.1 hx
  have hmem : x ∈ d.order t := heq ▸ List.mem_append_right _ List.mem_cons_self
  refine ⟨x, MmaDesc.mem_order.1 hmem, by simpa using hxl, fun z hz hzl => ?_, hx⟩
  have hsorted := heq ▸ d.order_pairwise t
  obtain ⟨-, htail, -⟩ := List.pairwise_append.1 hsorted
  obtain hz' | hz' := List.mem_append.1 (heq ▸ MmaDesc.mem_order.2 hz)
  · exact absurd (by simpa using has z hz' : z ∈ l) hzl
  · obtain rfl | hz' := List.mem_cons.1 hz'
    · exact Nat.le_refl _
    · exact (List.pairwise_cons.1 htail).1 z hz'

theorem MmaDesc.order_find_none {d : MmaDesc} {t : Nat} {l : List Nat} (h : ∀ y < membersOf d, y ∈ l) :
    (d.order t).find? (fun i => !l.contains i) = none :=
  List.find?_eq_none.2 fun x hx => by simpa using h x (MmaDesc.mem_order.1 hx)

/-! ### The supplies of a member -/

/-- A map of supplies that may only register their ranges. -/
def OnlyLocks (g : Supply → Supply) : Prop := ∀ q, ∃ b, g q = { q with locked := b }

theorem OnlyLocks.comp {f g : Supply → Supply} (hf : OnlyLocks f) (hg : OnlyLocks g) : OnlyLocks (g ∘ f) := fun q => by
  obtain ⟨b, hb⟩ := hf q
  obtain ⟨c, hc⟩ := hg (f q)
  exact ⟨c, by rw [Function.comp_apply, hc, hb]⟩

/-- Tile `t` of a state is as before, and so is the network, but for ranges registered. -/
structure Registers (s u : State) (t : Nat) : Prop where
  net : SameNet s u
  queue : (u.tile t).queue = (s.tile t).queue
  supplies : ∃ g, OnlyLocks g ∧ (u.tile t).supplies = (s.tile t).supplies.map g

/-- One range registered. -/
def State.lockSupply (s : State) (t : Nat) (p : Supply) : State :=
  if p.locked ∨ (s.tile t).freeLocks = 0 then s
  else s.modTile t fun x =>
    { x with locks := x.locks ++ [p.lock p.ctx],
             supplies := x.supplies.map fun q => if q = p then { q with locked := true } else q }

theorem State.lockSupplies_eq (s : State) (t : Nat) :
    s.lockSupplies t = (s.tile t).supplies.foldl (fun s p => s.lockSupply t p) s := rfl

theorem Registers.lockSupply {s u : State} {t : Nat} (h : Registers s u t) (p : Supply) : Registers s (u.lockSupply t p) t := by
  obtain ⟨g, hg, hu⟩ := h.supplies
  unfold State.lockSupply
  split
  · exact h
  · have hone : OnlyLocks fun q => if q = p then { q with locked := true } else q := fun q => by
      by_cases hq : q = p
      · exact ⟨true, if_pos hq⟩
      · exact ⟨q.locked, if_neg hq⟩
    exact ⟨h.net.modTile t _, by rw [State.modTile_tile_same, h.queue],
      _, hg.comp hone, by rw [State.modTile_tile_same, hu, List.map_map]⟩

theorem State.lockSupplies_registers (s : State) (t : Nat) : Registers s (s.lockSupplies t) t := by
  rw [State.lockSupplies_eq]
  have hfold : ∀ (l : List Supply) (u : State), Registers s u t → Registers s (l.foldl (fun s p => s.lockSupply t p) u) t :=
    fun l => by
      induction l with
      | nil => exact fun _ hu => hu
      | cons p l ih => exact fun u hu => ih _ (hu.lockSupply p)
  exact hfold _ s ⟨SameNet.refl s, rfl, id, fun q => ⟨q.locked, rfl⟩, (List.map_id _).symm⟩

/-- Registered ranges leave nothing to register. -/
theorem State.lockSupplies_locked {s : State} {t : Nat} (h : ∀ p ∈ (s.tile t).supplies, p.locked = true) :
    s.lockSupplies t = s := by
  rw [State.lockSupplies_eq]
  generalize (s.tile t).supplies = l at h
  induction l with
  | nil => rfl
  | cons p l ih =>
    have hp : s.lockSupply t p = s := if_pos (Or.inl (h p List.mem_cons_self))
    rw [List.foldl_cons, hp]
    exact ih fun q hq => h q (List.mem_cons_of_mem _ hq)

/-! ### A part taken -/

theorem pairAcc_eq_some_iff {a b : Nat} {c : Bool} : pairAcc a b = some c ↔ (a, b, c) ∈ typePairs := by
  simp only [pairAcc, typePairs, List.mem_cons, Prod.mk.injEq, List.not_mem_nil, or_false]
  by_cases hfloat : a = b ∧ a < 4
  · rw [if_pos hfloat]
    cases c <;> simp <;> omega
  · rw [if_neg hfloat]
    by_cases hint : (a = 4 ∨ a = 5) ∧ b = 5 ∨ a = 4 ∧ b = 4
    · rw [if_pos hint]
      cases c <;> simp <;> omega
    · rw [if_neg hint]
      simp
      omega

/-- The part that a member enters into its queue. -/
def State.partTaken (s : State) (t origin core slot member : Nat) : Part :=
  let j := s.job (8 * origin + core) slot
  { origin := origin, core := core, job := slot, member := member
    cause := if j.zero || pairAcc j.mma.ta j.mma.tb == some (s.ctAfter t j.accNo) then none
      else some Cause.illegalCombination.code }

/-- The supplies that a member adds to its tile's. -/
def State.suppliesTaken (s : State) (t origin core slot member : Nat) : List Supply :=
  let j := s.job (8 * origin + core) slot
  (j.mma.supplies origin core slot member).map fun p => { p with locked := t == origin, ctx := j.ctx }

theorem State.partTaken_cause {s : State} {t origin core slot member : Nat} :
    let j := s.job (8 * origin + core) slot; let q := s.partTaken t origin core slot member
    (q.cause = none ↔ j.fn / 4 % 2 = 1 ∨ (j.mma.ta, j.mma.tb, s.ctAfter t (j.fn % 4)) ∈ typePairs) ∧
      (q.cause ≠ none → q.cause = some Cause.illegalCombination.code) := by
  intro j q
  have hok : (j.zero || pairAcc j.mma.ta j.mma.tb == some (s.ctAfter t j.accNo)) = true ↔
      j.fn / 4 % 2 = 1 ∨ (j.mma.ta, j.mma.tb, s.ctAfter t (j.fn % 4)) ∈ typePairs := by
    rw [Bool.or_eq_true, beq_iff_eq, pairAcc_eq_some_iff, Job.zero, beq_iff_eq]
    rfl
  have hq : q.cause = if j.zero || pairAcc j.mma.ta j.mma.tb == some (s.ctAfter t j.accNo) then none
      else some Cause.illegalCombination.code := rfl
  rw [hq, ← hok]
  cases j.zero || pairAcc j.mma.ta j.mma.tb == some (s.ctAfter t j.accNo) with
  | true => exact ⟨⟨fun _ => rfl, fun _ => rfl⟩, fun h => absurd rfl h⟩
  | false => exact ⟨⟨nofun, nofun⟩, fun _ => rfl⟩

theorem State.takePart_eq (s : State) (t origin core slot x : Nat) : s.takePart t origin core slot x =
    ((s.modTile t fun y => { y with queue := y.queue ++ [.part (s.partTaken t origin core slot x)] }).modTile t fun y =>
      { y with supplies := y.supplies ++ s.suppliesTaken t origin core slot x }).lockSupplies t := rfl

theorem State.takePart_facts (s : State) (t origin core slot x : Nat) : let u := s.takePart t origin core slot x
    SameNet s u ∧ (u.tile t).queue = (s.tile t).queue ++ [.part (s.partTaken t origin core slot x)] ∧
      ∃ g, OnlyLocks g ∧ (u.tile t).supplies = ((s.tile t).supplies ++ s.suppliesTaken t origin core slot x).map g := by
  intro u
  have hu : u = _ := State.takePart_eq s t origin core slot x
  rw [State.modTile_modTile] at hu
  obtain ⟨hnet, hqueue, g, hg, hsupplies⟩ := hu ▸ State.lockSupplies_registers
    (s.modTile t fun y => { y with queue := y.queue ++ [ArrayOp.part (s.partTaken t origin core slot x)]
                                   supplies := y.supplies ++ s.suppliesTaken t origin core slot x }) t
  rw [State.modTile_tile_same] at hqueue hsupplies
  exact ⟨⟨hnet.net, hnet.nextId, hnet.links⟩, hqueue, g, hg, hsupplies⟩

/-- What the supplies hold that a member adds (R332). -/
theorem State.suppliesTaken_facts (s : State) (t origin core slot x : Nat) : let j := s.job (8 * origin + core) slot
    let d := j.mma; let w := (d.n + 127) / 128; let l := s.suppliesTaken t origin core slot x
    (x % w ≠ 0 → w ≤ x → l = []) ∧
      (x % w = 0 → ∃ q ∈ l, q.isA = true ∧ q.origin = origin ∧ q.core = core ∧ q.job = slot ∧
        q.addr = BitVec.ofNat 64 d.a ∧ q.k = 0 ∧ q.steps = d.k) ∧
      (x < w → ∃ q ∈ l, q.isA = false ∧ q.origin = origin ∧ q.core = core ∧ q.job = slot ∧
        q.addr = BitVec.ofNat 64 d.b ∧ q.k = 0 ∧ q.steps = d.k) := by
  intro j d w l
  have hl : l = (d.supplies origin core slot x).map fun p => { p with locked := t == origin, ctx := j.ctx } := rfl
  have hw : d.shape.2 = w := rfl
  rw [hl]
  refine ⟨fun hc hr => ?_, fun hc => ?_, fun hr => ?_⟩
  · have hpos : 0 < w := by
      show 0 < (d.n + 127) / 128
      have hn : 0 < d.n := Nat.succ_pos _
      omega
    have hr' : x / w ≠ 0 := (Nat.div_pos hr hpos).ne'
    simp only [MmaDesc.supplies, hw, hc, hr', if_false, List.append_nil, List.map_nil]
  · simp only [MmaDesc.supplies, hw, hc, if_true, List.cons_append, List.nil_append, List.map_cons]
    exact ⟨_, List.mem_cons_self, rfl, rfl, rfl, rfl, rfl, rfl, rfl⟩
  · simp only [MmaDesc.supplies, hw, Nat.div_eq_of_lt hr, if_true, List.map_append]
    exact ⟨_, List.mem_append_right _ List.mem_cons_self, rfl, rfl, rfl, rfl, rfl, rfl, rfl⟩

end Sys2Proof.Machine
end


section
/-! SUPPORT. Offers, answers and starts of the parts of MMAG (R332 to R334). -/

namespace Sys2Proof.Machine

open Sys2Proof.Claims

/-! ### What the packets of MMAG do -/

/-- An offered part taken or refused, and the answer. -/
def State.offered (s : State) (t c origin core slot x : Nat) : State :=
  let ok := s.arrayRoom t && !(s.tile t).vacated
  (if ok then s.takePart t origin core slot x else s).sends t c [(origin, true, .mmagAnswer core slot x ok)]

theorem exec_mmagOffer {s : State} {k : Nat} {p : Packet} {origin core slot x : Nat} (h : Arrived s k p)
    (hb : p.body = .mmagOffer origin core slot x) :
    exec (.mmagOffer k) s = .next ((without s k).offered p.dst p.ctx origin core slot x) := by
  refine (congrArg Host.Outcome.next (State.deliverPacket_arrived h _)).trans ?_
  simp only [hb]
  rfl

/-- An answer learned by the origin. -/
def State.answered (s : State) (origin core slot x : Nat) (ok : Bool) : State :=
  if ok then
    (s.modMmag origin core slot fun m => { m with accepted := x :: m.accepted, offering := none }).offerNext origin core slot 16
  else s.modMmag origin core slot fun m => { m with refusedAt := some s.time.toNat, offering := none }

theorem exec_mmagAcceptance {s : State} {k : Nat} {p : Packet} {core slot x : Nat} {ok : Bool} (h : Arrived s k p)
    (hb : p.body = .mmagAnswer core slot x ok) :
    exec (.mmagAcceptance k) s = .next ((without s k).answered p.dst core slot x ok) := by
  refine (congrArg Host.Outcome.next (State.deliverPacket_arrived h _)).trans ?_
  simp only [hb]
  rfl

theorem exec_mmagStart {s : State} {k : Nat} {p : Packet} {origin core slot x : Nat} (h : Arrived s k p)
    (hb : p.body = .mmagStart origin core slot x) :
    exec (.mmagStart k) s = .next (((without s k).modPart p.dst origin core slot fun q => { q with started := true }).modJob
      (8 * origin + core) slot fun j => { j with st := .running }) := by
  refine (congrArg Host.Outcome.next (State.deliverPacket_arrived h _)).trans ?_
  simp only [hb]

section
variable {s : State} {origin core slot : Nat}

theorem exec_mmagReoffer_none (h : (s.job (8 * origin + core) slot).mmag.refusedAt = none) :
    exec (.mmagReoffer (8 * origin + core) slot) s = .next s := by
  show execMmagReoffer _ _ _ = _
  simp only [execMmagReoffer, h]

variable {a : Nat} (h : (s.job (8 * origin + core) slot).mmag.refusedAt = some a)
include h

theorem exec_mmagReoffer_early (ha : s.time.toNat < a + 64) : exec (.mmagReoffer (8 * origin + core) slot) s = .next s := by
  show execMmagReoffer _ _ _ = _
  simp only [execMmagReoffer, h]
  rw [if_neg fun hdue => Nat.not_le_of_lt ha hdue.2.2]

theorem exec_mmagReoffer_due (hcore : core < 8) (hkind : (s.job (8 * origin + core) slot).kind = .mmag)
    (hvac : (s.tile origin).vacated = false) (ha : a + 64 ≤ s.time.toNat) :
    exec (.mmagReoffer (8 * origin + core) slot) s = .next (s.offerNext origin core slot 16) := by
  have htile : (8 * origin + core) / 8 = origin := by omega
  have hrow : (8 * origin + core) % 8 = core := by omega
  show execMmagReoffer _ _ _ = _
  simp only [execMmagReoffer, h, htile, hrow]
  rw [if_pos ⟨hkind, by rw [hvac]; rfl, ha⟩]

end

/-! ### The origin's next offer -/

theorem State.modMmag_job (s : State) (origin core slot : Nat) (f : MmagOrigin → MmagOrigin) :
    (s.modMmag origin core slot f).job (8 * origin + core) slot =
      { s.job (8 * origin + core) slot with mmag := f (s.job (8 * origin + core) slot).mmag } := State.job_modJob_same ..

theorem SameNet.modMmag {s u : State} (h : SameNet s u) (origin core slot : Nat) (f : MmagOrigin → MmagOrigin) :
    SameNet s (u.modMmag origin core slot f) := h.modJob _ _ _

/-- While a member of another tile is left, it is the one on the lowest tile that is offered its part. -/
theorem State.offerNext_offers {s : State} {origin core slot : Nat} {j : Job} (hj : s.job (8 * origin + core) slot = j)
    (fuel : Nat) : let n := membersOf j.mma; let u := s.offerNext origin core slot (fuel + 1)
    (∃ y < n, y ∉ j.mmag.accepted) → (∀ y < n, y ∉ j.mmag.accepted → memberAt j.mma origin y ≠ origin) →
      ∃ x < n, x ∉ j.mmag.accepted ∧ (∀ y < n, y ∉ j.mmag.accepted → memberAt j.mma origin x ≤ memberAt j.mma origin y) ∧
        (∀ w, SameNet w s → Sends w u origin j.ctx [(memberAt j.mma origin x, false, .mmagOffer origin core slot x)]) ∧
        u.job (8 * origin + core) slot = { j with mmag := { j.mmag with offering := some x, refusedAt := none } } := by
  subst hj
  intro n u hleft hfar
  obtain ⟨x, hx, hxl, hmin, hfind⟩ := MmaDesc.order_find (t := origin) hleft
  have hu : u = (s.modMmag origin core slot fun m => { m with offering := some x, refusedAt := none }).sends origin
      (s.job (8 * origin + core) slot).ctx [(memberAt (s.job (8 * origin + core) slot).mma origin x, false, .mmagOffer origin core slot x)] := by
    have hne : (s.job (8 * origin + core) slot).mma.memberTile origin x ≠ origin := hfar x hx hxl
    show s.offerNext origin core slot (fuel + 1) = _
    rw [State.offerNext]
    simp only [hfind, hne, ne_eq, not_false_eq_true, if_true]
    rfl
  refine ⟨x, hx, hxl, hmin, fun w hw => ?_, ?_⟩
  · rw [hu]
    exact (hw.modMmag _ _ _ _).sends_claim _ _ _
  · rw [hu, State.job_sends, State.modMmag_job]

/-- Once every member has accepted, each is sent its start. -/
theorem State.offerNext_starts {s : State} {origin core slot : Nat} {j : Job} (hj : s.job (8 * origin + core) slot = j)
    (fuel : Nat) : let u := s.offerNext origin core slot (fuel + 1)
    (∀ y < membersOf j.mma, y ∈ j.mmag.accepted) → j.mmag.started = false →
      (∀ w, SameNet w s → Sends w u origin j.ctx ((j.mma.order origin).map fun y =>
        (memberAt j.mma origin y, true, .mmagStart origin core slot y))) ∧ (u.job (8 * origin + core) slot).mmag.started = true := by
  subst hj
  intro u hall hstarted
  have hfind := MmaDesc.order_find_none (t := origin) hall
  have hu : u = (s.modMmag origin core slot fun m => { m with started := true, offering := none }).sends origin
      (s.job (8 * origin + core) slot).ctx (((s.job (8 * origin + core) slot).mma.order origin).map fun y =>
        (memberAt (s.job (8 * origin + core) slot).mma origin y, true, .mmagStart origin core slot y)) := by
    show s.offerNext origin core slot (fuel + 1) = _
    rw [State.offerNext, State.sends, List.foldl_map]
    simp only [hfind, hstarted, Bool.false_eq_true, if_false]
    rfl
  refine ⟨fun w hw => ?_, ?_⟩
  · rw [hu]
    exact (hw.modMmag _ _ _ _).sends_claim _ _ _
  · rw [hu, State.job_sends, State.modMmag_job]

/-! ### A part in a queue -/

/-- A part changed if it is of the job. -/
def ArrayOp.changed (origin core slot : Nat) (f : Part → Part) : ArrayOp → ArrayOp
  | .part p => if p.origin = origin ∧ p.core = core ∧ p.job = slot then .part (f p) else .part p
  | .mma c k => .mma c k
  | .mst c k => .mst c k
  | .mzr a n i st => .mzr a n i st
  | .mscl n c => .mscl n c

theorem ArrayOp.changed_mine {q : Part} {origin core slot : Nat} (h : q.origin = origin ∧ q.core = core ∧ q.job = slot)
    (f : Part → Part) : ArrayOp.changed origin core slot f (.part q) = .part (f q) := if_pos h

theorem ArrayOp.changed_other {origin core slot : Nat} {o : ArrayOp}
    (h : ∀ z, o = .part z → z.origin ≠ origin ∨ z.core ≠ core ∨ z.job ≠ slot) (f : Part → Part) :
    o.changed origin core slot f = o := by
  cases o with
  | part z =>
    refine if_neg fun hz => ?_
    obtain h | h | h := h z rfl
    · exact h hz.1
    · exact h hz.2.1
    · exact h hz.2.2
  | mma c k => rfl
  | mst c k => rfl
  | mzr a n i st => rfl
  | mscl n c => rfl

theorem State.modPart_tile (s : State) (t origin core slot : Nat) (f : Part → Part) :
    (s.modPart t origin core slot f).tile t =
      { s.tile t with queue := (s.tile t).queue.map (ArrayOp.changed origin core slot f) } := by
  rw [State.modPart, State.modTile_tile_same]
  refine congrArg (fun q => { s.tile t with queue := q }) (List.map_congr_left fun o _ => ?_)
  cases o <;> rfl

/-- R332 to R334: the offers of the parts of MMAG, the answers and the starts. -/
theorem partsAreOfferedAndStarted : PartsAreOfferedAndStarted := by
  intro s origin core slot hcore own j d n tile offers
  refine ⟨?_, ?_, ?_, ?_⟩
  · intro k p x harr hb t s1 room
    have hexec := exec_mmagOffer harr hb
    have hok : ((s1.arrayRoom t && !(s1.tile t).vacated) = true) = room := by
      simp only [Bool.and_eq_true, State.arrayRoom, decide_eq_true_eq, Bool.not_eq_true']
      rfl
    refine ⟨fun hroom => ⟨_, hexec, ?_⟩, fun hroom => ⟨_, hexec, ?_⟩⟩
    · obtain ⟨hnet, hqueue, g, hg, hsupplies⟩ := State.takePart_facts s1 t origin core slot x
      obtain ⟨hnone, hA, hB⟩ := State.suppliesTaken_facts s1 t origin core slot x
      have hu : s1.offered t p.ctx origin core slot x = (s1.takePart t origin core slot x).sends t p.ctx
          [(origin, true, .mmagAnswer core slot x true)] := by
        rw [State.offered, hok.mpr hroom]
        rfl
      have hin : ∀ q ∈ s1.suppliesTaken t origin core slot x, ∃ b, { q with locked := b } ∈
          ((s1.takePart t origin core slot x).tile t).supplies := fun q hq => by
        obtain ⟨b, hb⟩ := hg q
        exact ⟨b, hsupplies ▸ hb ▸ List.mem_map_of_mem (List.mem_append_right _ hq)⟩
      rw [hu]
      rw [← State.tile_sends _ t p.ctx [(origin, true, .mmagAnswer core slot x true)]] at hqueue hsupplies hin
      refine ⟨hnet.sends_claim _ _ _, ⟨_, hqueue, rfl, rfl, rfl, rfl, rfl, rfl, rfl, State.partTaken_cause⟩,
        fun hc hr => ?_, fun hc => ?_, fun hr => ?_⟩
      · rw [hsupplies, hnone hc hr, List.append_nil, List.length_map]
        rfl
      · obtain ⟨q, hq, hfields⟩ := hA hc
        obtain ⟨b, hb⟩ := hin q hq
        exact ⟨_, hb, hfields⟩
      · obtain ⟨q, hq, hfields⟩ := hB hr
        obtain ⟨b, hb⟩ := hin q hq
        exact ⟨_, hb, hfields⟩
    · have hu : s1.offered t p.ctx origin core slot x = s1.sends t p.ctx [(origin, true, .mmagAnswer core slot x false)] := by
        have hno : (s1.arrayRoom t && !(s1.tile t).vacated) = false := Bool.eq_false_iff.2 fun h => hroom (hok.mp h)
        rw [State.offered, hno]
        rfl
      rw [hu]
      exact ⟨(SameNet.refl s1).sends_claim _ _ _, congrArg Tile.queue (State.tile_sends ..),
        congrArg Tile.supplies (State.tile_sends ..)⟩
  · intro k p x ok harr hdst hb s1
    have hexec := hdst ▸ exec_mmagAcceptance harr hb
    refine ⟨fun hok => ?_, fun hok => ?_⟩
    · subst hok
      exact ⟨_, hexec, rfl, State.modMmag_job s1 origin core slot fun m =>
        { m with refusedAt := some s1.time.toNat, offering := none }⟩
    subst hok
    intro done
    refine ⟨fun hleft hfar => ?_, fun hall hstarted => ?_⟩
    · have hj := State.modMmag_job s1 origin core slot fun m => { m with accepted := x :: m.accepted, offering := none }
      obtain ⟨y, hy, hyl, hmin, hsends, hjob⟩ := State.offerNext_offers hj 15 hleft hfar
      refine ⟨_, hexec, ⟨y, hy, hyl, hmin, hsends s1 ((SameNet.refl s1).modMmag _ _ _ _), ?_, ?_⟩, ?_⟩
      · exact congrArg (fun z : Job => z.mmag.offering) hjob
      · exact congrArg (fun z : Job => z.mmag.refusedAt) hjob
      · exact congrArg (fun z : Job => z.mmag.accepted) hjob
    · have hj := State.modMmag_job s1 origin core slot fun m => { m with accepted := x :: m.accepted, offering := none }
      obtain ⟨hsends, hjob⟩ := State.offerNext_starts hj 15 hall hstarted
      exact ⟨_, hexec, hjob, _, d.order_perm origin, d.order_pairwise origin, hsends s1 ((SameNet.refl s1).modMmag _ _ _ _)⟩
  · intro hkind hvac
    refine ⟨fun hnone => ?_, fun a hsome => ⟨fun hlate => ?_, fun hdue hleft hfar => ?_⟩⟩
    · exact exec_mmagReoffer_none hnone
    · exact exec_mmagReoffer_early hsome hlate
    · obtain ⟨y, hy, hyl, hmin, hsends, hjob⟩ := State.offerNext_offers (j := j) rfl 15 hleft hfar
      refine ⟨_, exec_mmagReoffer_due hsome hcore hkind hvac hdue, y, hy, hyl, hmin, hsends s (SameNet.refl s), ?_, ?_⟩
      · exact congrArg (fun z : Job => z.mmag.offering) hjob
      · exact congrArg (fun z : Job => z.mmag.refusedAt) hjob
  · intro k p x q r harr hb hq ho hc hk hother
    refine ⟨_, exec_mmagStart harr hb, ?_, congrArg Job.st (State.job_modJob_same ..)⟩
    rw [State.tile_modJob, State.modPart_tile]
    have hq' : ((without s k).tile p.dst).queue = .part q :: r := hq
    show List.map _ _ = _
    rw [hq', List.map_cons, ArrayOp.changed_mine ⟨ho, hc, hk⟩]
    refine congrArg (_ :: ·) ((List.map_congr_left fun o hmem => ?_).trans (List.map_id r))
    exact ArrayOp.changed_other (fun z hz => hother z (hz ▸ hmem)) _

end Sys2Proof.Machine
end


section
/-! SUPPORT. A part that begins, and the supplies that credits set going (R325, R333, R334). -/

namespace Sys2Proof.Machine

open Sys2Proof.Claims

/-! ### Credits -/

/-- The tiles that supply a member's operands, A's first. -/
def Part.suppliers (q : Part) (d : MmaDesc) : Nat × Nat :=
  let w := (d.n + 127) / 128
  (memberAt d q.origin (q.member / w * w), memberAt d q.origin (q.member % w))

/-- The two packets that return credits to a part's suppliers. -/
def Part.credits (q : Part) (d : MmaDesc) (m : Nat) : List (Nat × Bool × Body) :=
  [((q.suppliers d).1, true, .mmagCredit q.origin q.core q.job q.member true m),
    ((q.suppliers d).2, true, .mmagCredit q.origin q.core q.job q.member false m)]

theorem State.sendCredit_eq (s : State) (t : Nat) (q : Part) (forA : Bool) (m : Nat) :
    let j := s.job (8 * q.origin + q.core) q.job
    s.sendCredit t q forA m = s.sends t j.ctx
      [(if forA then (q.suppliers j.mma).1 else (q.suppliers j.mma).2, true,
        .mmagCredit q.origin q.core q.job q.member forA m)] := by
  cases forA <;> rfl

theorem State.sendCredits_eq (s : State) (t : Nat) (q : Part) (m : Nat) : let j := s.job (8 * q.origin + q.core) q.job
    (s.sendCredit t q true m).sendCredit t q false m = s.sends t j.ctx (q.credits j.mma m) := by
  intro j
  rw [State.sendCredit_eq (s.sendCredit t q true m), State.sendCredit_eq s, State.job_sends]
  rfl

/-! ### A part that begins -/

theorem State.arrayTurn_part {s : State} {t : Nat} {q : Part} (hq : (s.tile t).queue = [.part q]) (hs : q.started = true)
    (hb : q.begun = false) : s.arrayTurn t = s.beginPart t q := by
  have hready : s.opReady t (.part q) = true := by
    show (q.started && !q.begun) = true
    rw [hs, hb]
    rfl
  have hwork : [ArrayOp.part q].foldl (fun s o => s.workOp t o) s = s := rfl
  unfold State.arrayTurn State.nextOp
  simp only [hq, hwork, State.pickOp_head hready]
  rfl

/-- The slot of a job's product as its beginning leaves it. -/
def State.beginSlot (s : State) (t : Nat) (j : Job) : State :=
  if j.zero then s.modAcc t j.accNo fun a => a.zeroed ((pairAcc j.mma.ta j.mma.tb).getD false) else s

theorem State.beginSlot_facts (s : State) (t : Nat) (j : Job) : let u := s.beginSlot t j
    SameNet s u ∧ (u.tile t).queue = (s.tile t).queue ∧
      (u.tile t).slots.get {} j.accNo = ((s.tile t).slots.get {} j.accNo).begun j := by
  by_cases hz : j.zero = true
  · simp only [State.beginSlot, AccSlot.begun, if_pos hz, State.modAcc, State.modTile_tile_same, SMap.get_set_same]
    exact ⟨(SameNet.refl s).modTile t _, trivial, trivial⟩
  · simp only [State.beginSlot, AccSlot.begun, if_neg hz]
    exact ⟨SameNet.refl s, trivial, trivial⟩

/-- A part begun: its slot zeroed under Z, its state, and eight credits for each supplier. -/
theorem State.beginPart_eq (s : State) (t : Nat) (q : Part) : let j := s.job (8 * q.origin + q.core) q.job
    s.beginPart t q = ((s.beginSlot t j).modPart t q.origin q.core q.job fun _ => { q with begun := true }).sends t j.ctx
      (q.credits j.mma 8) := by
  intro j
  have hsends := State.sendCredits_eq ((s.beginSlot t j).modPart t q.origin q.core q.job fun _ => { q with begun := true })
    t { q with begun := true } 8
  have hj : (s.beginSlot t j).job (8 * q.origin + q.core) q.job = j := by
    unfold State.beginSlot
    split <;> rfl
  refine hsends.trans ?_
  show State.sends _ _ ((s.beginSlot t j).job (8 * q.origin + q.core) q.job).ctx
    (Part.credits _ ((s.beginSlot t j).job (8 * q.origin + q.core) q.job).mma 8) = _
  rw [hj]
  rfl

theorem State.beginPart_facts {s : State} {t : Nat} {q : Part} (hq : (s.tile t).queue = [.part q]) :
    let j := s.job (8 * q.origin + q.core) q.job; let u := s.beginPart t q
    (u.tile t).queue = [.part { q with begun := true }] ∧ Sends s u t j.ctx (q.credits j.mma 8) ∧
      (u.tile t).slots.get {} j.accNo = ((s.tile t).slots.get {} j.accNo).begun j := by
  intro j u
  have hu : u = _ := State.beginPart_eq s t q
  obtain ⟨hnet, hqueue, hslot⟩ := State.beginSlot_facts s t j
  rw [hu, State.tile_sends, State.modPart_tile]
  refine ⟨?_, (hnet.modTile t _).sends_claim _ _ _, hslot⟩
  show List.map _ ((s.beginSlot t j).tile t).queue = _
  rw [hqueue, hq, List.map_cons, ArrayOp.changed_mine ⟨rfl, rfl, rfl⟩, List.map_nil]

/-! ### The supplies of a tile -/

/-- A supply whose range is registered, and that can neither send nor end, leaves its tile as it is. -/
theorem State.supplyStep_waits {s : State} {t : Nat} {q : Supply} (hs : (s.tile t).supplies = [q]) (hl : q.locked = true)
    (hm : s.maySend t q = false) (ho : q.over = false) : s.supplyStep t = s := by
  have hlock : s.lockSupplies t = s := State.lockSupplies_locked (by simp [hs, hl])
  simp only [State.supplyStep, hlock, hs, List.find?_cons, hm, ho, List.find?_nil]

theorem State.supplyStep_sends {s : State} {t : Nat} {q : Supply} (hs : (s.tile t).supplies = [q]) (hl : q.locked = true)
    (hm : s.maySend t q = true) : s.supplyStep t = s.sendStep t q := by
  have hlock : s.lockSupplies t = s := State.lockSupplies_locked (by simp [hs, hl])
  simp only [State.supplyStep, hlock, hs, List.find?_cons, hm]

/-- A supply sends what one round sends where nothing more can be sent after it. -/
theorem State.supply_settles {s u : State} {t : Nat} {q : Supply} (hv : (s.tile t).vacated = false)
    (hs : (s.tile t).supplies = [q]) (hu : s.supplyStep t = u) (hfix : u.supplyStep t = u) : s.supply t = u := by
  have hstep : (List.range 9).foldl (fun s _ => s.supplyStep t) s = u := by
    rw [List.foldl_const, List.length_range, Function.iterate_succ_apply, hu]
    exact Function.iterate_fixed hfix 8
  simpa [State.supply, hv, hs] using hstep

/-- A supply that lacks a member's credit does not send. -/
theorem State.maySend_uncredited {q : Supply} {c : Nat × Nat} (hc : c ∈ q.credits) (h0 : c.2 = 0) (s : State) (t : Nat) :
    s.maySend t q = false := by
  have hall : (q.credits.all fun c => c.2 != 0) = false := List.all_eq_false.2 ⟨c, hc, by simp [h0]⟩
  simp [State.maySend, hall]

/-- It is not over either: a member owes it a step. -/
theorem Supply.over_uncredited {q : Supply} {c : Nat × Nat} (hc : c ∈ q.credits) (h0 : c.2 = 0) : q.over = false := by
  have hall : (q.credits.all fun c => c.2 == 8) = false := List.all_eq_false.2 ⟨c, hc, by simp [h0]⟩
  simp [Supply.over, hall]

/-- A supply after one more step sent. -/
def Supply.sent (q : Supply) : Supply := { q with k := q.k + 1, credits := q.credits.map fun c => (c.1, c.2 - 1) }

/-- The packets of a supply's next step, with its values. -/
def Supply.packets (q : Supply) (d : MmaDesc) (vals : List Nat) : List (Nat × Bool × Body) :=
  q.credits.map fun c => (memberAt d q.origin c.1, false, .mmagStep q.origin q.core q.job c.1 q.isA q.k vals none)

/-- A step whose vector lies in the own slice and meets no error is sent as it is. -/
theorem State.sendStep_sound {s : State} {t off : Nat} {q : Supply} (hty : q.ty < 6)
    (haddr : q.addr = BitVec.ofNat 64 (0x7F0000000000 + off))
    (hoff : off + q.k * q.stride + vectorBytes q.ty q.count ≤ 0x300000)
    (h : Sound s (sliceAddr t (off + q.k * q.stride)) (vectorBytes q.ty q.count)) :
    let j := s.job (8 * q.origin + q.core) q.job
    s.sendStep t q = (s.modTile t fun x => { x with supplies := x.supplies.map fun p => if p = q then p.sent else p }).sends t j.ctx
      (q.packets j.mma ((List.range q.count).map (codeAt s (sliceAddr t (off + q.k * q.stride)) q.ty))) := by
  intro j
  have hva : q.addr.toNat + q.k * q.stride = 0x7F0000000000 + (off + q.k * q.stride) := by
    rw [haddr, BitVec.toNat_ofNat, Nat.mod_eq_of_lt (by omega), Nat.add_assoc]
  rw [State.sendStep, hva, State.operandVec_sound hty hoff h, State.sends, Supply.packets, List.foldl_map]
  rfl

/-- A supply with one credit from a member sends one step, and then waits. -/
theorem State.supply_sends_step {s : State} {t off : Nat} {q : Supply} {c : Nat × Nat} (hv : (s.tile t).vacated = false)
    (hs : (s.tile t).supplies = [q]) (hl : q.locked = true) (hm : s.maySend t q = true) (hc : c ∈ q.credits) (h1 : c.2 = 1)
    (hty : q.ty < 6) (haddr : q.addr = BitVec.ofNat 64 (0x7F0000000000 + off))
    (hoff : off + q.k * q.stride + vectorBytes q.ty q.count ≤ 0x300000)
    (h : Sound s (sliceAddr t (off + q.k * q.stride)) (vectorBytes q.ty q.count)) :
    let j := s.job (8 * q.origin + q.core) q.job; let u := s.supply t
    (u.tile t).supplies = [q.sent] ∧ ∀ w, SameNet w s → Sends w u t j.ctx
      (q.packets j.mma ((List.range q.count).map (codeAt s (sliceAddr t (off + q.k * q.stride)) q.ty))) := by
  intro j u
  have hsent : s.sendStep t q = _ := State.sendStep_sound hty haddr hoff h
  have hsupplies : ((s.sendStep t q).tile t).supplies = [q.sent] := by
    rw [hsent, State.tile_sends, State.modTile_tile_same]
    show List.map _ (s.tile t).supplies = _
    rw [hs, List.map_cons, if_pos rfl, List.map_nil]
  have hc' : (c.1, c.2 - 1) ∈ q.sent.credits := List.mem_map_of_mem (f := fun c => (c.1, c.2 - 1)) hc
  have h0 : (c.1, c.2 - 1).2 = 0 := by simp [h1]
  have hu : u = s.sendStep t q := State.supply_settles hv hs (State.supplyStep_sends hs hl hm)
    (State.supplyStep_waits hsupplies hl (State.maySend_uncredited hc' h0 _ t) (Supply.over_uncredited hc' h0))
  rw [hu]
  exact ⟨hsupplies, fun w hw => hsent ▸ (hw.modTile t _).sends_claim _ _ _⟩

end Sys2Proof.Machine
end


section
/-! SUPPORT. The steps that a part consumes, and its report (R51, R334, R335). -/

namespace Sys2Proof.Machine

open Sys2Proof.Claims

/-! ### What the packets of a part do -/

/-- The state in which a supply has received its credits. -/
def State.credited (s : State) (k t origin core slot x : Nat) (isA : Bool) (m : Nat) : State :=
  (without s k).modTile t fun y => { y with supplies := creditFirst origin core slot x isA m y.supplies }

theorem exec_mmagCredit {s : State} {k m x : Nat} {p : Packet} {origin core slot : Nat} {isA : Bool} (h : Arrived s k p)
    (hb : p.body = .mmagCredit origin core slot x isA m) :
    exec (.mmagCredit k) s = .next ((s.credited k p.dst origin core slot x isA m).supply p.dst) := by
  refine (congrArg Host.Outcome.next (State.deliverPacket_arrived h _)).trans ?_
  simp only [hb]
  rfl

theorem State.partOf_mine {s : State} {t origin core slot : Nat} {q : Part} (hq : (s.tile t).queue = [.part q])
    (hm : q.origin = origin ∧ q.core = core ∧ q.job = slot) : s.partOf t origin core slot = some q := by
  simp [State.partOf, hq, hm]

/-- A step added to those that a part holds of one operand. -/
def Part.take (q : Part) (isA : Bool) (x : MStep) : Part :=
  if isA then { q with stepsA := q.stepsA ++ [x] } else { q with stepsB := q.stepsB ++ [x] }

section
variable {s : State} {k e x : Nat} {p : Packet} {q : Part} {origin core slot : Nat} {isA : Bool} {v : List Nat} {b : Option Word}
  (h : Arrived s k p) (hb : p.body = .mmagStep origin core slot x isA e v b)
  (hq : (s.tile p.dst).queue = [.part q]) (hm : q.origin = origin ∧ q.core = core ∧ q.job = slot)
include h hb hq hm

theorem exec_mmagStep_new (he : ¬ e < q.k) : exec (.mmagStep k) s = .next (((without s k).modPart p.dst origin core slot fun q =>
    q.take isA { k := e, vals := v, bad := b }).advancePart p.dst origin core slot) := by
  have hpart : (without s k).partOf p.dst origin core slot = some q := State.partOf_mine hq hm
  refine (congrArg Host.Outcome.next (State.deliverPacket_arrived h _)).trans ?_
  simp only [hb, hpart, he, decide_false, Bool.false_eq_true, if_false]
  rfl

theorem exec_mmagStep_old (he : e < q.k) : exec (.mmagStep k) s =
    .next ((without s k).sendCredit p.dst { origin := origin, core := core, job := slot, member := x } isA 1) := by
  have hpart : (without s k).partOf p.dst origin core slot = some q := State.partOf_mine hq hm
  refine (congrArg Host.Outcome.next (State.deliverPacket_arrived h _)).trans ?_
  simp only [hb, hpart, he, decide_true, if_true]

end

/-- A failure reported for a job: that of the lowest member stands. -/
def Job.reportFailure (j : Job) (x : Nat) (cause : Option (BitVec 8)) (a : Word) (t : Nat) (now : Word) : Job :=
  match cause with
  | some c =>
    if j.err.isNone ∨ x < j.errIdx then { j with err := some c, errIdx := x, errAddr := a, errTile := t, errTime := now }
    else j
  | none => j

theorem exec_mmagReport {s : State} {k x : Nat} {p : Packet} {core slot : Nat} {cause : Option (BitVec 8)} {a : Word}
    (h : Arrived s k p) (hb : p.body = .mmagReport core slot x cause a) :
    let j := s.job (8 * p.dst + core) slot
    exec (.mmagReport k) s = .next (((without s k).modMmag p.dst core slot fun m => { m with reported := x :: m.reported }).modJob
      (8 * p.dst + core) slot fun i => i.reportFailure x cause a (memberAt j.mma p.dst x) s.time) := by
  intro j
  refine (congrArg Host.Outcome.next (State.deliverPacket_arrived h _)).trans ?_
  simp only [hb]
  rfl

/-! ### A step consumed -/

/-- The operands a part holds of a step. -/
def Part.operands (q : Part) (k : Nat) : Option (MStep × MStep) :=
  match q.stepsA.find? (fun x => x.k == k), q.stepsB.find? (fun x => x.k == k) with
  | some a, some b => some (a, b)
  | _, _ => none

theorem Part.operands_none {q : Part} (h : q.stepsA = [] ∨ q.stepsB = []) (k : Nat) : q.operands k = none := by
  obtain h | h := h
  · simp [Part.operands, h]
  · cases hA : q.stepsA.find? (fun x => x.k == k) <;> simp [Part.operands, h, hA]

theorem Part.next_eq (q : Part) (d : MmaDesc) :
    q.next d = (let l := (List.range (if pairedType d.ta ∧ q.k + 1 < d.k then 2 else 1)).map fun i => q.operands (q.k + i)
      if q.k < d.k ∧ l.all (·.isSome) then some (l.filterMap id) else none) := rfl

/-- A part that lacks an operand has no step to take. -/
theorem Part.next_none {q : Part} (h : q.stepsA = [] ∨ q.stepsB = []) (d : MmaDesc) : q.next d = none := by
  have hpos : 0 < if pairedType d.ta ∧ q.k + 1 < d.k then 2 else 1 := by split <;> decide
  rw [Part.next_eq]
  refine if_neg fun hall => ?_
  have hfirst := List.all_eq_true.1 hall.2 (q.operands (q.k + 0)) (List.mem_map_of_mem (List.mem_range.2 hpos))
  rw [Part.operands_none h] at hfirst
  exact Bool.false_ne_true hfirst

theorem Part.next_single {q : Part} {d : MmaDesc} {x y : MStep} (hta : d.ta < 3) (hk : q.k < d.k) (hA : q.stepsA = [x])
    (hB : q.stepsB = [y]) (hx : x.k = q.k) (hy : y.k = q.k) : q.next d = some [(x, y)] := by
  have hpair : ¬ (pairedType d.ta = true ∧ q.k + 1 < d.k) := fun hp => absurd (of_decide_eq_true hp.1) (by omega)
  have hops : q.operands q.k = some (x, y) := by simp [Part.operands, hA, hB, hx, hy]
  rw [Part.next_eq, if_neg hpair]
  simp [hops, hk]

theorem State.consume_none {q : Part} (h : q.stepsA = [] ∨ q.stepsB = []) (s : State) (t : Nat) :
    s.consume t q = (s, q, false) := by
  simp only [State.consume, Part.next_none h]

/-- A part that lacks an operand takes no step. -/
theorem State.advancePart_waits {s : State} {t : Nat} {q : Part} (hv : (s.tile t).vacated = false)
    (hq : (s.tile t).queue = [.part q]) (hbegun : q.begun = true) (h : q.stepsA = [] ∨ q.stepsB = [])
    (hk : q.k < (s.job (8 * q.origin + q.core) q.job).mma.k) :
    s.advancePart t q.origin q.core q.job = s.modPart t q.origin q.core q.job fun _ => q := by
  have hstay : s.consumeAll t q 8 = (s, q) := by
    simp only [State.consumeAll, State.consume_none h]
  simp only [State.advancePart, State.partOf_mine hq ⟨rfl, rfl, rfl⟩, hbegun, hv, hstay, hk, Bool.not_true, Bool.or_self,
    Bool.false_eq_true, if_false, if_true]

theorem SameNet.modAcc {s u : State} (h : SameNet s u) (t n : Nat) (f : AccSlot → AccSlot) : SameNet s (u.modAcc t n f) :=
  h.modTile t _

theorem SameNet.modPart {s u : State} (h : SameNet s u) (t origin core slot : Nat) (f : Part → Part) :
    SameNet s (u.modPart t origin core slot f) := h.modTile t _

/-- A part after the step it has taken. -/
def Part.stepped (q : Part) : Part := { q with k := q.k + 1, stepsA := [], stepsB := [] }

/-- A slot after a part's step. -/
def AccSlot.partStep (o : AccSlot) (d : MmaDesc) (q : Part) (x y : MStep) : AccSlot :=
  { o.step d (d.rows (q.member / d.shape.2)) (d.cols (q.member % d.shape.2)) [(x.vals, y.vals)] with perr := o.perr }

/-- The state after a part's step, before what its last one does. -/
def State.partStepped (s : State) (t : Nat) (j : Job) (q : Part) (x y : MStep) : State :=
  ((s.modAcc t j.accNo fun o => o.partStep j.mma q x y).sends t j.ctx (q.credits j.mma 1)).modPart t q.origin q.core q.job
    fun _ => q.stepped

section
variable {s : State} {t : Nat} {q : Part} {x y : MStep} {j : Job} (hj : s.job (8 * q.origin + q.core) q.job = j)
  (hA : q.stepsA = [x]) (hB : q.stepsB = [y]) (hx : x.k = q.k) (hy : y.k = q.k) (hxb : x.bad = none) (hyb : y.bad = none)
  (hcause : q.cause = none) (hta : j.mma.ta < 3) (hk : q.k < j.mma.k) (hpar : (s.acc4 t j.accNo).parity = [])
include hj hA hB hx hy hxb hyb hcause hta hk hpar

/-- The step of a part that holds one step of each operand. -/
theorem State.consume_single : s.consume t q =
    ((s.modAcc t j.accNo fun o => o.partStep j.mma q x y).sends t j.ctx (q.credits j.mma 1), q.stepped, true) := by
  have hoff : decide (q.cause = some Cause.illegalCombination.code) = false := by simp [hcause]
  have hparity : s.partParity t q = (s, q) := by
    simp only [State.partParity, hj, State.parityCheck_clean hpar]
  have hfA : q.stepsA.filter (fun z => decide (q.k + 1 ≤ z.k)) = [] := by simp [hA, hx]
  have hfB : q.stepsB.filter (fun z => decide (q.k + 1 ≤ z.k)) = [] := by simp [hB, hy]
  have hcredits := State.sendCredits_eq (s.modAcc t j.accNo fun o => o.partStep j.mma q x y) t q.stepped 1
  have hjob : (s.modAcc t j.accNo fun o => o.partStep j.mma q x y).job (8 * q.origin + q.core) q.job = j := hj
  simp only [Part.stepped, hjob] at hcredits
  simp only [State.consume, hj, Part.next_single hta hk hA hB hx hy, hoff, hparity, Bool.false_eq_true, if_false,
    List.findSome?_cons, List.findSome?_nil, hxb, hyb, Option.or_none, List.length_singleton, hfA, hfB, Option.isSome_none,
    Bool.or_false]
  exact Prod.ext hcredits rfl

theorem State.advancePart_eq (hv : (s.tile t).vacated = false) (hq : (s.tile t).queue = [.part q]) (hbegun : q.begun = true) :
    s.advancePart t q.origin q.core q.job =
      if q.k + 1 < j.mma.k then s.partStepped t j q x y
      else ((s.partStepped t j q x y).modTile t fun z => { z with queue := z.queue.erase (.part q.stepped) }).sends t j.ctx
        [(q.origin, true, .mmagReport q.core q.job q.member none q.addr)] := by
  have hone := State.consume_single hj hA hB hx hy hxb hyb hcause hta hk hpar
  have hall : s.consumeAll t q 8 =
      ((s.modAcc t j.accNo fun o => o.partStep j.mma q x y).sends t j.ctx (q.credits j.mma 1), q.stepped) := by
    simp only [State.consumeAll, hone, State.consume_none (q := q.stepped) (.inl rfl)]
  simp only [State.advancePart, State.partOf_mine hq ⟨rfl, rfl, rfl⟩, hbegun, hv, hall, hj, Bool.not_true, Bool.or_self,
    Bool.false_eq_true, if_false]
  rw [← hcause]
  rfl

/-- A part with one step of each operand takes it, and reports if it was its last. -/
theorem State.advancePart_steps (hv : (s.tile t).vacated = false) (hq : (s.tile t).queue = [.part q]) (hbegun : q.begun = true) :
    let d := j.mma; let u := s.advancePart t q.origin q.core q.job
    (u.tile t).slots.get {} j.accNo = ((s.tile t).slots.get {} j.accNo).partStep d q x y ∧
      (u.tile t).queue = (if q.k + 1 = d.k then [] else [.part q.stepped]) ∧
      ∀ w, SameNet w s → Sends w u t j.ctx (q.credits d 1 ++
        if q.k + 1 = d.k then [(q.origin, true, .mmagReport q.core q.job q.member none q.addr)] else []) := by
  intro d u
  have hqueue : ((s.partStepped t j q x y).tile t).queue = [.part q.stepped] := by
    rw [State.partStepped, State.modPart_tile, State.tile_sends, State.modAcc, State.modTile_tile_same, hq, List.map_cons,
      List.map_nil, ArrayOp.changed_mine ⟨rfl, rfl, rfl⟩]
  have hslot : ((s.partStepped t j q x y).tile t).slots.get {} j.accNo =
      ((s.tile t).slots.get {} j.accNo).partStep d q x y := by
    rw [State.partStepped, State.modPart_tile, State.tile_sends, State.modAcc, State.modTile_tile_same]
    exact SMap.get_set_same ..
  have hsends : ∀ w, SameNet w s → SameNet ((q.credits d 1).foldl (fun s x => s.inject t x.1 x.2.1 j.ctx [] x.2.2) w)
      (s.partStepped t j q x y) := fun w hw => ((hw.modAcc t _ _).sends t j.ctx _).modPart ..
  have hu : u = _ := State.advancePart_eq hj hA hB hx hy hxb hyb hcause hta hk hpar hv hq hbegun
  have hk' : q.k < d.k := hk
  by_cases hlast : q.k + 1 = d.k
  · rw [if_neg (show ¬ q.k + 1 < d.k by omega)] at hu
    rw [hu, State.tile_sends, State.modTile_tile_same, if_pos hlast, if_pos hlast]
    refine ⟨hslot, ?_, fun w hw => ?_⟩
    · show List.erase _ _ = _
      rw [hqueue, List.erase_cons_head]
    · rw [Sends, List.foldl_append]
      exact (((hsends w hw).modTile t _).sends_claim t j.ctx _)
  · rw [if_pos (show q.k + 1 < d.k by omega)] at hu
    rw [hu, if_neg hlast, if_neg hlast, List.append_nil]
    exact ⟨hslot, hqueue, fun w hw => (hsends w hw).net⟩

end

end Sys2Proof.Machine
end


section
/-! SUPPORT. O52: the parts of MMAG (R51, R325, R333 to R335). -/

namespace Sys2Proof.Machine

open Sys2Proof.Claims

/-! ### Parts and slots -/

theorem AccSlot.begun_kept {a : AccSlot} {j : Job} (h : ¬ j.fn / 4 % 2 = 1) : a.begun j = a :=
  if_neg fun hz => h (beq_iff_eq.1 hz)

theorem AccSlot.begun_zeroed {a : AccSlot} {j : Job} (h : j.fn / 4 % 2 = 1) :
    a.begun j = a.zeroed ((pairAcc j.mma.ta j.mma.tb).getD false) := if_pos (beq_iff_eq.2 h)

/-- An element of a slot after a part's step. -/
theorem AccSlot.partStep_elem {o : AccSlot} {d : MmaDesc} (q : Part) (x y : MStep) (hint : o.int32 = false) (hta : d.ta < 3)
    {i l : Nat} (hl : l < 128) : (o.partStep d q x y).elems.get 0 (128 * i + l) =
      if i < d.rows (q.member / d.shape.2) ∧ l < d.cols (q.member % d.shape.2) then
        BitVec.ofNat 32 (accumulated d.ta d.tb 1 (fun _ => x.vals.getD i 0) (fun _ => y.vals.getD l 0)
          (o.elems.get 0 (128 * i + l)).toNat)
      else o.elems.get 0 (128 * i + l) := by
  have hval : (o.stepped d [(x.vals, y.vals)] i l).1 = accumulated d.ta d.tb 1 (fun _ => x.vals.getD i 0)
      (fun _ => y.vals.getD l 0) (o.elems.get 0 (128 * i + l)).toNat := by
    rw [AccSlot.stepped, hint]
    exact congrArg Prod.fst (stepElem_float (by omega) (.inl rfl) d.tb (fun _ => x.vals.getD i 0) (fun _ => y.vals.getD l 0) _)
  rw [← hval]
  exact AccSlot.step_elem o d (Nat.min_le_left _ _) _ hl

/-! ### Credits that arrive -/

section
variable {s : State} {k m x : Nat} {p : Packet} {q : Supply} {c : Nat × Nat} {origin core slot : Nat}
  (h : Arrived s k p) (hb : p.body = .mmagCredit origin core slot x q.isA m) (hv : (s.tile p.dst).vacated = false)
  (hs : (s.tile p.dst).supplies = [q]) (hm : q.origin = origin ∧ q.core = core ∧ q.job = slot) (hl : q.locked = true)
include h hb hv hs hm hl

/-- A supply with credits received. -/
def Supply.credited (q : Supply) (x m : Nat) : Supply :=
  { q with credits := q.credits.map fun e => if e.1 = x then (e.1, e.2 + m) else e }

omit h hb hv hl in
theorem State.credited_supplies :
    ((s.credited k p.dst origin core slot x q.isA m).tile p.dst).supplies = [q.credited x m] := by
  have hs' : ((without s k).tile p.dst).supplies = [q] := hs
  have hone : creditFirst origin core slot x q.isA m [q] = [q.credited x m] := by
    rw [creditFirst, if_pos ⟨hm.1, hm.2.1, hm.2.2, rfl⟩]
    rfl
  rw [State.credited, State.modTile_tile_same, ← hone, ← hs']

omit h hb hs hm hl in
theorem State.credited_vacated {isA : Bool} : ((s.credited k p.dst origin core slot x isA m).tile p.dst).vacated = false := by
  rw [State.credited, State.modTile_tile_same]
  exact hv

/-- While another member owes a credit, nothing is sent. -/
theorem reaches_mmagCredit_waits (hc : c ∈ (q.credited x m).credits) (h0 : c.2 = 0) :
    Reaches (.mmagCredit k) s fun u => u.net = (without s k).net ∧ (u.tile p.dst).supplies = [q.credited x m] := by
  have hsupplies := State.credited_supplies (x := x) (m := m) (k := k) hs hm
  have hstay : (s.credited k p.dst origin core slot x q.isA m).supplyStep p.dst = _ :=
    State.supplyStep_waits hsupplies hl (State.maySend_uncredited hc h0 _ _) (Supply.over_uncredited hc h0)
  have hexec := exec_mmagCredit h hb
  rw [State.supply_settles (State.credited_vacated hv) hsupplies hstay hstay] at hexec
  exact ⟨_, hexec, rfl, hsupplies⟩

/-- A supply that has a credit from each member, and only one from one of them, sends its next step. -/
theorem reaches_mmagCredit_sends {off : Nat} (hk : q.k < q.steps) (hc : c ∈ (q.credited x m).credits) (h1 : c.2 = 1)
    (hall : ∀ e ∈ (q.credited x m).credits, 0 < e.2) (hrel : s.released (s.job (8 * origin + core) slot).after = true)
    (hord : s.inOrder p.dst origin core slot = true) (hty : q.ty < 6) (haddr : q.addr = BitVec.ofNat 64 (0x7F0000000000 + off))
    (hoff : off + q.k * q.stride + vectorBytes q.ty q.count ≤ 0x300000)
    (hsound : Sound s (sliceAddr p.dst (off + q.k * q.stride)) (vectorBytes q.ty q.count)) :
    let j := s.job (8 * origin + core) slot
    Reaches (.mmagCredit k) s fun u => (u.tile p.dst).supplies = [(q.credited x m).sent] ∧
      Sends (without s k) u p.dst j.ctx ((q.credited x m).packets j.mma
        ((List.range q.count).map (codeAt s (sliceAddr p.dst (off + q.k * q.stride)) q.ty))) := by
  intro j
  have hsupplies := State.credited_supplies (x := x) (m := m) (k := k) hs hm
  have hmay : (s.credited k p.dst origin core slot x q.isA m).maySend p.dst (q.credited x m) = true := by
    have hturns : SameTurns s (s.credited k p.dst origin core slot x q.isA m) p.dst :=
      (show SameTurns s (without s k) p.dst from ⟨⟨fun _ _ => rfl, rfl, rfl⟩, rfl, rfl, fun _ _ => ⟨rfl, rfl⟩⟩).modTile
        fun _ => rfl
    have hcredited : ((q.credited x m).credits.all fun e => e.2 != 0) = true :=
      List.all_eq_true.2 fun e he => bne_iff_ne.2 (hall e he).ne'
    have horder := (hturns.inOrder_eq origin core slot).trans hord
    obtain ⟨rfl, rfl, rfl⟩ := hm
    simp only [State.maySend, hcredited, Bool.and_true, Bool.and_eq_true, decide_eq_true_eq]
    exact ⟨⟨⟨hl, hk⟩, hrel⟩, horder⟩
  obtain ⟨hsent, hsends⟩ := State.supply_sends_step (s := s.credited k p.dst origin core slot x q.isA m) (q := q.credited x m)
    (State.credited_vacated hv) hsupplies hl hmay hc h1 hty haddr hoff hsound
  obtain ⟨rfl, rfl, rfl⟩ := hm
  exact ⟨_, exec_mmagCredit h hb, hsent, hsends _ ((SameNet.refl _).modTile _ _)⟩

end

/-! ### Steps that arrive -/

section
variable {s : State} {k x : Nat} {p : Packet} {q : Part} {v : List Nat} {origin core slot : Nat}
  (h : Arrived s k p) (hb : p.body = .mmagStep origin core slot x true q.k v none)
  (hv : (s.tile p.dst).vacated = false) (hq : (s.tile p.dst).queue = [.part q])
  (hm : q.origin = origin ∧ q.core = core ∧ q.job = slot) (hbegun : q.begun = true) (hA : q.stepsA = [])
  (hk : q.k < (s.job (8 * origin + core) slot).mma.k)
include h hb hv hq hm hbegun hA hk

omit h hb hv hbegun hk in
/-- The tile once the step has been added to the part's. -/
theorem State.stepTaken_tile : ((without s k).modPart p.dst origin core slot fun i => i.take true { k := q.k, vals := v }).tile
    p.dst = { s.tile p.dst with queue := [.part { q with stepsA := [{ k := q.k, vals := v }] }] } := by
  have hq' : ((without s k).tile p.dst).queue = [.part q] := hq
  have htake : q.take true { k := q.k, vals := v } = { q with stepsA := [{ k := q.k, vals := v }] } := by
    rw [Part.take, if_pos rfl, hA, List.nil_append]
  rw [State.modPart_tile, hq', List.map_cons, List.map_nil, ArrayOp.changed_mine hm, htake]
  rfl

/-- A step of A alone waits for the one of B. -/
theorem reaches_mmagStep_waits (hB : q.stepsB = []) : Reaches (.mmagStep k) s fun u => u.net = (without s k).net ∧
    (u.tile p.dst).queue = [.part { q with stepsA := [{ k := q.k, vals := v }] }] ∧
    (u.tile p.dst).slots = (s.tile p.dst).slots := by
  have htile := State.stepTaken_tile (k := k) (v := v) hq hm hA
  have hexec := exec_mmagStep_new h hb hq hm (Nat.lt_irrefl _)
  obtain ⟨rfl, rfl, rfl⟩ := hm
  have hwaits := State.advancePart_waits (q := { q with stepsA := [{ k := q.k, vals := v }] })
    ((congrArg Tile.vacated htile).trans hv) (congrArg Tile.queue htile) hbegun (.inr hB) hk
  refine ⟨_, hexec.trans (congrArg Host.Outcome.next hwaits), rfl, ?_⟩
  rw [State.modPart_tile, htile, List.map_cons, List.map_nil, ArrayOp.changed_mine ⟨rfl, rfl, rfl⟩]
  exact ⟨rfl, rfl⟩

/-- With the one of B there, the part takes the step. -/
theorem reaches_mmagStep_steps {y : MStep} (hB : q.stepsB = [y]) (hy : y.k = q.k) (hyb : y.bad = none)
    (hta : (s.job (8 * origin + core) slot).mma.ta < 3) (hcause : q.cause = none)
    (hpar : (s.acc4 p.dst (s.job (8 * origin + core) slot).accNo).parity = []) :
    let j := s.job (8 * origin + core) slot; let d := j.mma
    Reaches (.mmagStep k) s fun u =>
      (u.tile p.dst).slots.get {} j.accNo =
          ((s.tile p.dst).slots.get {} j.accNo).partStep d q { k := q.k, vals := v } y ∧
        (u.tile p.dst).queue = (if q.k + 1 = d.k then [] else [.part q.stepped]) ∧
        Sends (without s k) u p.dst j.ctx (q.credits d 1 ++
          if q.k + 1 = d.k then [(origin, true, .mmagReport core slot q.member none q.addr)] else []) := by
  have htile := State.stepTaken_tile (k := k) (v := v) hq hm hA
  have hexec := exec_mmagStep_new h hb hq hm (Nat.lt_irrefl _)
  obtain ⟨rfl, rfl, rfl⟩ := hm
  obtain ⟨hslot, hqueue, hsends⟩ := State.advancePart_steps (q := { q with stepsA := [{ k := q.k, vals := v }] })
    (s := (without s k).modPart p.dst q.origin q.core q.job fun i => i.take true { k := q.k, vals := v })
    rfl rfl hB rfl hy rfl hyb hcause hta hk ((congrArg (fun x : Tile => (x.slots.get {} _).parity) htile).trans hpar)
    ((congrArg Tile.vacated htile).trans hv) (congrArg Tile.queue htile) hbegun
  rw [htile] at hslot
  exact ⟨_, hexec, hslot, hqueue, hsends _ ((SameNet.refl _).modPart ..)⟩

end

/-! ### Reports -/

theorem Job.reportFailure_mmag (j : Job) (x : Nat) (cause : Option (BitVec 8)) (a : Word) (t : Nat) (now : Word) :
    (j.reportFailure x cause a t now).mmag = j.mmag := by
  cases cause with
  | none => rfl
  | some c =>
    rw [Job.reportFailure]
    split <;> rfl

/-- A failure of no lower member leaves the job's. -/
theorem Job.reportFailure_kept {j : Job} {x : Nat} {cause : Option (BitVec 8)} (h : cause = none ∨ (j.err ≠ none ∧ j.errIdx ≤ x))
    (a : Word) (t : Nat) (now : Word) : j.reportFailure x cause a t now = j := by
  cases cause with
  | none => rfl
  | some c =>
    obtain ⟨herr, hle⟩ := h.resolve_left nofun
    rw [Job.reportFailure, if_neg]
    simp [herr]
    omega

theorem Job.reportFailure_lower {j : Job} {x : Nat} (h : j.err = none ∨ x < j.errIdx) (c : BitVec 8) (a : Word) (t : Nat)
    (now : Word) : j.reportFailure x (some c) a t now =
      { j with err := some c, errIdx := x, errAddr := a, errTile := t, errTime := now } := by
  rw [Job.reportFailure, if_pos]
  simpa using h

/-- A job that has the report of a member. -/
def Job.reportedBy (j : Job) (x : Nat) : Job := { j with mmag := { j.mmag with reported := x :: j.mmag.reported } }

theorem reaches_mmagReport {s : State} {k x origin : Nat} {p : Packet} {core slot : Nat} {cause : Option (BitVec 8)} {a : Word}
    (h : Arrived s k p) (hdst : p.dst = origin) (hb : p.body = .mmagReport core slot x cause a) :
    let j := s.job (8 * origin + core) slot
    Reaches (.mmagReport k) s fun u => u.net = (without s k).net ∧ u.job (8 * origin + core) slot =
      (j.reportedBy x).reportFailure x cause a (memberAt j.mma origin x) s.time := by
  subst hdst
  refine ⟨_, exec_mmagReport h hb, rfl, ?_⟩
  rw [State.job_modJob_same, State.modMmag_job]
  rfl

/-- R51, R325, R333 to R335: the credits, steps and reports of the parts of MMAG. -/
theorem partsConsumeTheirSteps : PartsConsumeTheirSteps := by
  intro s origin core slot hcore own j d n z w credit suppliers mine
  have hcredits : ∀ q m, mine q → q.credits d m =
      [((suppliers q).1, true, credit q true m), ((suppliers q).2, true, credit q false m)] := fun q m hmine => by
    obtain ⟨ho, hc, hk⟩ := hmine
    rw [Part.credits, Part.suppliers, ho, hc, hk]
  refine ⟨?_, ?_, ?_, ?_, ?_⟩
  · intro t q hv hs hq hmine hst hb hcause
    have hj : s.job (8 * q.origin + q.core) q.job = j := by rw [hmine.1, hmine.2.1, hmine.2.2]
    obtain ⟨hqueue, hsends, hslot⟩ := State.beginPart_facts hq
    rw [hj] at hsends hslot
    have hslot' : ((s.beginPart t q).tile t).slots.get {} n = ((s.tile t).slots.get {} n).begun j := hslot
    refine reaches_arrayTurn hv hs (State.arrayTurn_part hq hst hb)
      ⟨hqueue, hcredits q 8 hmine ▸ hsends, fun hz => ?_, fun hz => ?_⟩
    · rw [hslot', AccSlot.begun_kept hz]
    · rw [hslot', AccSlot.begun_zeroed hz]
      exact ⟨rfl, rfl, fun _ _ _ _ => rfl⟩
  · intro k p q x m c off harr hb t credits size pa hv hs ho hc hj hl hk hrel hord haddr hoff hty hsound
    refine ⟨fun hmem h0 => reaches_mmagCredit_waits harr hb hv hs ⟨ho, hc, hj⟩ hl hmem h0, fun hmem h1 hall => ?_⟩
    obtain ⟨u, hu, hsupplies, hsends⟩ := reaches_mmagCredit_sends harr hb hv hs ⟨ho, hc, hj⟩ hl hk hmem h1 hall hrel hord
      (by omega) haddr hoff hsound
    have hvals : (List.range q.count).map (codeAt s pa q.ty) = (List.range q.count).map fun i => memNat s (pa + i * size) size :=
      List.map_congr_left fun i _ => if_neg (by omega)
    have hpackets : (q.credited x m).packets d ((List.range q.count).map (codeAt s pa q.ty)) = credits.map fun e =>
        (memberAt d origin e.1, false, .mmagStep origin core slot e.1 q.isA q.k
          ((List.range q.count).map fun i => memNat s (pa + i * size) size) none) := by
      rw [hvals, ← ho, ← hc, ← hj]
      rfl
    exact ⟨u, hu, hsupplies, hpackets ▸ hsends⟩
  · intro k p q x v harr t o hv hq hmine hbegun hA hk hb step
    refine ⟨fun hB => reaches_mmagStep_waits harr hb hv hq hmine hbegun hA hk hB, fun y hB hy hyb hta hcause hint hpar => ?_⟩
    intro last rows cols
    obtain ⟨u, hu, hslot, hqueue, hsends⟩ := reaches_mmagStep_steps harr hb hv hq hmine hbegun hA hk hB hy hyb hta hcause hpar
    refine ⟨u, hu, fun i _ l hl => ?_, hqueue, ?_⟩
    · exact (congrArg (fun a : AccSlot => a.elems.get 0 (128 * i + l)) hslot).trans (AccSlot.partStep_elem q step y hint hta hl)
    · rw [← hcredits q 1 hmine]
      exact hsends
  · intro k p q x v isA b e harr t hq hmine he hx hb
    have hexec := exec_mmagStep_old harr hb hq hmine he
    subst hx
    refine ⟨_, hexec, ?_, ?_⟩
    · rw [State.sendCredit_eq, State.tile_sends]
      exact hq
    · rw [State.sendCredit_eq]
      exact (SameNet.refl _).sends_claim _ _ _
  · intro k p x cause a harr hdst hb
    obtain ⟨u, hu, hnet, hjob⟩ := reaches_mmagReport harr hdst hb
    have hi : u.job own slot = (j.reportedBy x).reportFailure x cause a (memberAt d origin x) s.time := hjob
    refine ⟨u, hu, ?_, hnet, fun h => ?_, fun c hc h => ?_⟩
    · rw [hi, Job.reportFailure_mmag]
      rfl
    · rw [hi, Job.reportFailure_kept (j := j.reportedBy x) h]
      exact ⟨rfl, rfl⟩
    · rw [hi, hc, Job.reportFailure_lower (j := j.reportedBy x) h]
      exact ⟨rfl, rfl, rfl, rfl, rfl⟩

/-- Settles O52: the parts of MMAG are offered and started, and then take their steps. -/
theorem arraysOfSeveralTiles : Obligations.ArraysOfSeveralTiles := ⟨partsAreOfferedAndStarted, partsConsumeTheirSteps⟩

end Sys2Proof.Machine
end

section
/-! SUPPORT. The memory invariant: every function of the units leaves memory alone, or keeps its canonical form
(R57, R66): a lemma for each, in the order of the model. A name that ends in `_mem` says that memory is unchanged, one
that ends in `_wf` that its form is kept. -/

namespace Sys2Proof.Machine

open Sys2Proof

/-- A fold of operations that leave memory alone leaves it alone. -/
theorem mem_foldl {α : Type} (f : State → α → State) (hf : ∀ s x, (f s x).mem = s.mem) (l : List α) (s : State) :
    (l.foldl f s).mem = s.mem := by
  induction l generalizing s with
  | nil => rfl
  | cons x r ih => exact (ih (f s x)).trans (hf s x)

/-- A fold that carries a value beside the state keeps the form of memory when each of its steps does. -/
theorem wf_foldl_fst {α β : Type} (f : State × β → α → State × β)
    (hf : ∀ a x, Memory.wf a.1.mem = true → Memory.wf (f a x).1.mem = true) (l : List α) {a : State × β}
    (h : Memory.wf a.1.mem = true) : Memory.wf (l.foldl f a).1.mem = true := by
  induction l generalizing a with
  | nil => exact h
  | cons x r ih => exact ih (hf a x h)

theorem wf_fst {β : Type} {x : State × β} {s : State} {y : β} (e : x = (s, y)) (h : Memory.wf x.1.mem = true) :
    Memory.wf s.mem = true := by
  subst e; exact h


/-! ### The named operations over the parts of the state -/

@[simp] theorem State.raise_mem (s : State) (n : Nat) (f : FaultRec) : (s.raise n f).mem = s.mem := rfl

/-! ### Headers -/

@[simp] theorem State.pump_mem (s : State) : s.pump.mem = s.mem := by
  refine mem_foldl _ (fun s p => ?_) _ _
  split
  · exact State.sendOn_mem _ _
  · rfl

@[simp] theorem State.forward_mem (s : State) (t dst ctx : Nat) (lines : Bool × Bool) (b : Body) :
    (s.forward t dst ctx lines b).mem = s.mem := by
  simp [State.forward, State.route_mem]

@[simp] theorem State.freeBytes_mem (s : State) (n : Nat) : (s.freeBytes n).1.mem = s.mem := rfl

@[simp] theorem State.sendLease_mem (s : State) (port i off : Nat) (op : PeerOp) :
    (s.sendLease port i off op).mem = s.mem := rfl

@[simp] theorem State.askBytes_mem (s : State) (port i off : Nat) (key : Option Nat) (n : Nat) :
    (s.askBytes port i off key n).mem = s.mem := by
  unfold State.askBytes
  split <;> rfl

@[simp] theorem State.peerRead_mem (s : State) (i off : Nat) (key : Option Nat) (n : Nat) :
    (s.peerRead i off key n).1.mem = s.mem := by
  grind [State.peerRead, State.peerVerdict_mem, State.askBytes_mem]

@[simp] theorem State.unitSeq_mem (s : State) (t unit : Nat) : (s.unitSeq t unit).2.mem = s.mem := rfl

@[simp] theorem State.memberCode_mem (s : State) (id idx code : Nat) : (s.memberCode id idx code).mem = s.mem := by
  unfold State.memberCode
  dsimp only

theorem State.vaCorrect_wf {s : State} (c fuel i j : Nat) (h : Memory.wf s.mem = true) :
    Memory.wf (s.vaCorrect c fuel i j).mem = true := by
  induction fuel generalizing s i j with
  | zero => exact h
  | succ n ih =>
    unfold State.vaCorrect
    dsimp only
    split
    · exact h
    · refine ih _ _ ?_
      split
      · exact State.correct_wf _ _ _ h
      all_goals exact h

/-! ### Capture and return of strands -/

@[simp] theorem State.countSent_mem (s : State) (n : Nat) : (s.countSent n).mem = s.mem := rfl

theorem State.imageSst_wf {s : State} (n sst : Nat) (h : Memory.wf s.mem = true) :
    Memory.wf (s.imageSst n sst).mem = true := by
  simp [State.imageSst, State.imageState_wf, h]

theorem State.imagePend_wf {s : State} (n : Nat) (h : Memory.wf s.mem = true) :
    Memory.wf (s.imagePend n).mem = true := by
  simp [State.imagePend, State.imageState_wf, h]

/-! ### Loads -/

theorem State.storeQuiet_wf {s : State} (pa : Nat) (key : Option Nat) (bs : List Byte) (h : Memory.wf s.mem = true) :
    Memory.wf (s.storeQuiet pa key bs).mem = true := by
  simp [State.storeQuiet, State.writePlain_wf, h]

theorem State.lineWatches_wf {s : State} (a : Access) (h : Memory.wf s.mem = true) :
    Memory.wf (s.lineWatches a).mem = true := by
  grind [State.lineWatches, State.evalWatches_wf]

theorem State.performMem_wf {s : State} (a : Access) (pa : Nat) (key : Option Nat) (h : Memory.wf s.mem = true) :
    Memory.wf (s.performMem a pa key).1.mem = true := by
  unfold State.performMem
  dsimp only
  repeat' split
  all_goals simp [h, State.correct_wf, State.storeAt_wf, State.storeQuiet_wf]

theorem State.perform_wf {s : State} (a : Access) (h : Memory.wf s.mem = true) :
    Memory.wf (s.perform a).1.mem = true := by
  grind [State.perform, State.performMem_wf]

theorem State.putLate_wf {s : State} (n : Nat) (f : Strand → Strand) (off : Nat) (bs : List Byte)
    (h : Memory.wf s.mem = true) :
    Memory.wf (s.putLate n f off bs).mem = true := by
  simp [State.putLate, State.imageField_wf, h]

theorem State.deliver_wf {s : State} (a : Access) (bs : List Byte) (h : Memory.wf s.mem = true) :
    Memory.wf (s.deliver a bs).mem = true := by
  unfold State.deliver
  dsimp only
  repeat' split
  all_goals apply_rules [State.imageField_wf, State.raiseLate_wf, State.putLate_wf]

theorem State.redeliver_wf {s : State} (t : Nat) (m : Msg) (h : Memory.wf s.mem = true) :
    Memory.wf (s.redeliver t m).mem = true := by
  unfold State.redeliver
  dsimp only
  repeat' split
  all_goals simp [h, State.inject_mem, State.source_mem, State.undeliverable_wf]

theorem State.deliverProbe_wf {s : State} (a : Access) (v w : Word) (h : Memory.wf s.mem = true) :
    Memory.wf (s.deliverProbe a v w).mem = true := by
  unfold State.deliverProbe
  dsimp only
  repeat' split
  all_goals simp [h, State.deliver_wf]

theorem State.deliverKind_wf {s : State} (a : Access) (bs : List Byte) (h : Memory.wf s.mem = true) :
    Memory.wf (s.deliverKind a bs).mem = true := by
  unfold State.deliverKind
  dsimp only
  repeat' split
  all_goals simp [h, State.deliver_wf, State.redeliver_wf, State.deliverProbe_wf]

theorem State.unpend_wf {s : State} (n grp : Nat) (h : Memory.wf s.mem = true) :
    Memory.wf (s.unpend n grp).mem = true := by
  simp [State.unpend, State.imagePend_wf, h]

theorem State.settleGroup_wf {s : State} (as : List Access) (live : Bool) (h : Memory.wf s.mem = true) :
    Memory.wf (s.settleGroup as live).mem = true := by
  unfold State.settleGroup
  split
  · exact State.raiseLate_wf _ _ _ _ h
  · split
    · refine wf_foldl _ (fun s x h => ?_) _ h
      split
      · exact State.deliverKind_wf _ _ h
      · exact h
    · exact h

theorem State.answer_wf {s : State} (as : List Access) (h : Memory.wf s.mem = true) :
    Memory.wf (s.answer as).mem = true := by
  unfold State.answer
  dsimp only
  repeat' split
  all_goals apply_rules [State.tryResume_wf, State.unpend_wf, State.settleGroup_wf]

theorem State.performOwn_wf {s : State} (core : Nat) (as : List Access) (h : Memory.wf s.mem = true) :
    Memory.wf (s.performOwn core as).1.mem = true := by
  induction as generalizing s with
  | nil => exact h
  | cons a r ih =>
    unfold State.performOwn
    dsimp only
    split
    · exact ih (State.perform_wf a h)
    · exact ih h

@[simp] theorem State.sendRequests_mem (s : State) (as : List Access) : (s.sendRequests as).mem = s.mem := by
  refine mem_foldl _ (fun s g => ?_) _ _
  split
  · rfl
  · exact State.inject_mem _ _ _ _ _ _ _

theorem State.issueGroup_wf {s : State} (as : List Access) (p : Option Pend) (h : Memory.wf s.mem = true) :
    Memory.wf (s.issueGroup as p).mem = true := by
  unfold State.issueGroup
  extract_lets g s1
  split
  rename_i s2 as2 hx
  have hp : Memory.wf s2.mem = true := wf_fst hx (State.performOwn_wf _ _ h)
  extract_lets s3 src s4 s5
  have hl : Memory.wf s3.mem = true := by
    dsimp only [s3]
    split
    · exact State.lineWatches_wf _ hp
    · exact hp
  have h5 : Memory.wf s5.mem = true := by
    rw [State.sendRequests_mem]; exact hl
  split
  · exact State.settleGroup_wf _ _ hl
  · split <;> exact h5

@[simp] theorem State.sendAnswer_mem (s : State) (a : Access) (ids : List Nat) :
    (s.sendAnswer a ids).mem = s.mem := by
  simp [State.sendAnswer, State.inject_mem]

theorem State.performAt_wf {s : State} (i : Nat) (h : Memory.wf s.mem = true) :
    Memory.wf (s.performAt i).mem = true := by
  unfold State.performAt
  dsimp only
  repeat' split
  all_goals simp [h, State.perform_wf]

@[simp] theorem State.sendOut_mem (s : State) (a : Access) (p i off : Nat) (key : Option Nat) :
    (s.sendOut a p i off key).mem = s.mem := by
  grind [State.sendOut, State.sendLease_mem, State.sendBytes_mem, State.askBytes_mem]

@[simp] theorem State.leaveBy_mem (s : State) (k : Nat) (a : Access) : (s.leaveBy k a).mem = s.mem := by
  unfold State.leaveBy
  dsimp only
  repeat' split
  all_goals simp

theorem State.accessRequest_wf {s : State} (k : Nat) (h : Memory.wf s.mem = true) :
    Memory.wf (s.accessRequest k).mem = true := by
  unfold State.accessRequest
  split
  · exact h
  · split
    · rw [State.leaveBy_mem]; exact h
    · split
      · rw [State.sendAnswer_mem]
        exact State.lineWatches_wf _ (wf_foldl _ (fun _ _ h => State.performAt_wf _ h) _ h)
      · exact h

@[simp] theorem State.portTimeout_mem (s : State) (k : Nat) : (s.portTimeout k).mem = s.mem := by
  grind [State.portTimeout, State.sendAnswer_mem]

@[simp] theorem State.peerReply_mem (s : State) (k : Nat) (a : Access) (p : PeerAnswer) :
    (s.peerReply k a p).mem = s.mem := by
  grind [State.peerReply, State.sendAnswer_mem]

theorem State.sinkAnswer_wf {s : State} (a : Access) (h : Memory.wf s.mem = true) :
    Memory.wf (s.sinkAnswer a).mem = true := by
  unfold State.sinkAnswer
  dsimp only
  repeat' split
  all_goals simp [h, State.answer_wf]

theorem State.accessReply_wf {s : State} (k : Nat) (p : PeerAnswer) (h : Memory.wf s.mem = true) :
    Memory.wf (s.accessReply k p).mem = true := by
  grind [State.accessReply, State.peerReply_mem, State.sinkAnswer_wf]

/-! ### Scalar loads and stores -/

@[simp] theorem State.fenceAcquires_mem (s : State) : s.fenceAcquires.mem = s.mem := rfl

@[simp] theorem State.fenceReleases_mem (s : State) (sc : Scope) : (s.fenceReleases sc).mem = s.mem := rfl

@[simp] theorem State.fenced_mem (s : State) (k : FenceKind) (sc : Scope) : (s.fenced k sc).mem = s.mem := by
  unfold State.fenced
  dsimp only
  repeat' split
  all_goals simp

/-! ### Vector memory -/

theorem State.sfComplete_wf {s : State} (core : Nat) (h : Memory.wf s.mem = true) :
    Memory.wf (s.sfComplete core).mem = true := by
  unfold State.sfComplete
  split
  · exact h
  · dsimp only
    split
    · exact h
    · exact State.tryResume_wf _ (State.unpend_wf _ _ (State.imageField_wf _ _ _ (State.putLate_wf _ _ _ _ h)))

/-! ### Messages -/

theorem State.addCount_wf {s : State} (t i v : Nat) (h : Memory.wf s.mem = true) :
    Memory.wf (s.addCount t i v).mem = true := wf_foldl _ (fun _ _ h => State.post_wf _ _ _ _ h) _ h

theorem State.sendCount_wf {s : State} (t : Nat) (after : List Nat) (h : Hdr) (cw : Word) (v : BitVec 32)
    (hw : Memory.wf s.mem = true) :
    Memory.wf (s.sendCount t after h cw v).mem = true := by
  unfold State.sendCount
  dsimp only
  split
  · rw [State.inject_mem]; exact hw
  · exact State.undeliverable_wf _ _ _ hw

/-! ### The coupling loops of the Jasper controllers -/

@[simp] theorem State.modLevel_mem (s : State) (c l : Nat) (f : Level → Level) : (s.modLevel c l f).mem = s.mem := rfl

@[simp] theorem State.modFabric_mem (s : State) (t : Nat) (f : Fabric → Fabric) : (s.modFabric t f).mem = s.mem := rfl

@[simp] theorem State.updateHold_mem (s : State) (t : Nat) : (s.updateHold t).mem = s.mem := rfl

theorem State.sampleLoop_wf {s : State} (t k : Nat) (h : Memory.wf s.mem = true) :
    Memory.wf (s.sampleLoop t k).mem = true := by
  unfold State.sampleLoop
  lift_lets
  intros
  split
  · exact State.event_wf _ _ _ _ _ _ _ h
  · exact h

theorem State.faultLoop_wf {s : State} (t k : Nat) (h : Memory.wf s.mem = true) :
    Memory.wf (s.faultLoop t k).mem = true := by
  unfold State.faultLoop
  dsimp only
  repeat' split
  all_goals simp [h, State.event_wf]

theorem State.levelFaults_wf {s : State} (t : Nat) (h : Memory.wf s.mem = true) :
    Memory.wf (s.levelFaults t).mem = true := by
  refine wf_foldl _ (fun s k h => ?_) _ h
  dsimp only
  split
  · exact State.faultLoop_wf _ _ h
  · exact h

@[simp] theorem State.refillCredits_mem (s : State) (t : Nat) : (s.refillCredits t).mem = s.mem := rfl

/-! ### Handler-queue levels -/

@[simp] theorem State.takePacket_mem (s : State) (k : Nat) : (s.takePacket k).mem = s.mem := rfl

theorem State.deliverPacket_wf {s : State} (k : Nat) (f : State → Packet → State)
    (hf : ∀ s p, Memory.wf s.mem = true → Memory.wf (f s p).mem = true) (h : Memory.wf s.mem = true) :
    Memory.wf (s.deliverPacket k f).mem = true := by
  unfold State.deliverPacket
  split
  · split
    · exact hf _ _ ((State.takePacket_mem s k).symm ▸ h)
    · exact h
  · exact h

/-- The kernel would compute with the place of the entry if it compared the function with its own equation: the two
functions it calls are made variables before its recursion is unfolded. -/
theorem State.ringWrite_wf {s : State} {core l fuel i : Nat} {bs : List Byte} {s' : State}
    (h : Memory.wf s.mem = true) (e : s.ringWrite core l fuel i bs = some s') :
    Memory.wf s'.mem = true := by
  have hv := @State.vaWrite_wf
  obtain ⟨write, hw⟩ : ∃ w, w = @State.vaWrite := ⟨_, rfl⟩
  obtain ⟨place, hp⟩ : ∃ p, p = @State.ringEntry := ⟨_, rfl⟩
  delta State.ringWrite State.ringWrite._f at e
  rw [← hw] at hv
  rw [← hw, ← hp] at e
  clear hw hp
  induction fuel generalizing s i bs with
  | zero => cases e; exact h
  | succ n ih =>
    dsimp only [Nat.brecOn, Nat.brecOn.go] at e
    split at e
    · rename_i hx; exact ih (hv h hx) e
    · cases e

theorem State.ringPutEntry_wf {s : State} {core l i : Nat} {e : QEntry} {s' : State} (h : Memory.wf s.mem = true)
    (he : s.ringPutEntry core l i e = some s') :
    Memory.wf s'.mem = true := State.ringWrite_wf h he

theorem State.takePool_mem {s : State} {core : Nat} {s' : Nat × State} (e : s.takePool core = some s') :
    s'.2.mem = s.mem := by
  unfold State.takePool at e
  split at e
  · cases e
  · cases e; rfl

theorem State.writePool_wf {s : State} (core : Nat) (e : QEntry) (h : Memory.wf s.mem = true) :
    Memory.wf (s.writePool core e).mem = true := by
  grind [State.writePool, State.storeQuiet_wf]

theorem State.spillFull_wf {s : State} (t : Nat) (m : Msg) (h : Memory.wf s.mem = true) :
    Memory.wf (s.spillFull t m).mem = true := by
  unfold State.spillFull
  dsimp only
  repeat' split
  all_goals simp [h, State.setFlt_mem, State.faultRecord_wf, State.sendReply_mem]

theorem State.spill_wf {s : State} (core l : Nat) (e : QEntry) (h : Memory.wf s.mem = true) :
    Memory.wf (s.spill core l e).mem = true := by
  grind [State.spill, State.modLevel_mem, State.ringPutEntry_wf, State.spillFull_wf]

theorem State.arriveLevel_wf {s : State} (core l : Nat) (e : QEntry) (h : Memory.wf s.mem = true) :
    Memory.wf (s.arriveLevel core l e).mem = true := by
  unfold State.arriveLevel
  split
  · exact State.spill_wf _ _ _ h
  · split
    · split
      · exact State.spill_wf _ _ _ h
      · rename_i hx
        exact State.writePool_wf _ _ ((State.takePool_mem hx).symm ▸ h)
    · exact h

theorem State.arrive_wf {s : State} (t : Nat) (m : Msg) (h : Memory.wf s.mem = true) :
    Memory.wf (s.arrive t m).mem = true := by
  unfold State.arrive
  dsimp only
  repeat' split
  all_goals simp [h, State.undeliverable_wf, State.arriveLevel_wf]

theorem State.recordReply_wf {s : State} (core i : Nat) (h : Memory.wf s.mem = true) :
    Memory.wf (s.recordReply core i).mem = true := by
  unfold State.recordReply
  dsimp only
  repeat' split
  all_goals apply_rules [State.writeTarget_wf]

theorem State.arriveReply_wf {s : State} (t : Nat) (m : Msg) (h : Memory.wf s.mem = true) :
    Memory.wf (s.arriveReply t m).mem = true := by
  unfold State.arriveReply
  dsimp only
  repeat' split
  all_goals simp [h, State.undeliverable_wf, State.recordReply_wf]

theorem State.refillRead_wf {s : State} (core l : Nat) (h : Memory.wf s.mem = true) :
    Memory.wf (s.refillRead core l).mem = true := by
  unfold State.refillRead
  dsimp only
  split
  · exact h
  · split
    · exact h
    · split
      · exact h
      · have hf : ∀ (k : Nat) (l' : List Nat) (s : State), Memory.wf s.mem = true → True := fun _ _ _ _ => trivial
        split
        · exact wf_foldl _ (fun _ _ h => State.vaCorrect_wf _ _ _ _ h) _ h
        · split
          · exact wf_foldl _ (fun _ _ h => State.vaCorrect_wf _ _ _ _ h) _ h
          · rename_i hx
            rw [State.modLevel_mem, State.takePool_mem hx]
            exact wf_foldl _ (fun _ _ h => State.vaCorrect_wf _ _ _ _ h) _ h

theorem State.refillLand_wf {s : State} (core l : Nat) (h : Memory.wf s.mem = true) :
    Memory.wf (s.refillLand core l).mem = true := by
  unfold State.refillLand
  dsimp only
  repeat' split
  all_goals simp [h, State.writePool_wf]

@[simp] theorem State.takeHead_mem (s : State) (core : Nat) (as : Option Nat) : (s.takeHead core as).mem = s.mem := by
  unfold State.takeHead
  split <;> rfl

theorem State.startStrand_wf {s : State} (n : Nat) (e : QEntry) (lvl : Nat) (h : Memory.wf s.mem = true) :
    Memory.wf (s.startStrand n e lvl).mem = true := by
  unfold State.startStrand
  dsimp only
  rw [State.modStrand_mem, State.source_mem]
  exact State.storeQuiet_wf _ _ _ h

theorem State.dispatch_wf {s : State} (core : Nat) (h : Memory.wf s.mem = true) :
    Memory.wf (s.dispatch core).mem = true := by
  unfold State.dispatch
  dsimp only
  repeat' split
  all_goals simp [h, State.startStrand_wf]

theorem State.unqueue_wf {s : State} (core l : Nat) (as : List QEntry) (h : Memory.wf s.mem = true) :
    Memory.wf (s.unqueue core l as).mem = true := by
  induction as generalizing s with
  | nil => exact h
  | cons e r ih =>
    unfold State.unqueue
    dsimp only
    split
    · exact ih (State.spillFull_wf _ _ h)
    · split
      · exact ih (State.spillFull_wf _ _ h)
      · rename_i hx
        refine ih ?_
        rw [State.modLevel_mem]
        exact State.ringPutEntry_wf h hx

theorem State.freezeLevel_wf {s : State} (core l : Nat) (h : Memory.wf s.mem = true) :
    Memory.wf (s.freezeLevel core l).mem = true := by
  simp [State.freezeLevel, State.unqueue_wf, h]

theorem State.freezeLevels_wf {s : State} (core : Nat) (h : Memory.wf s.mem = true) :
    Memory.wf (s.freezeLevels core).mem = true := wf_foldl _ (fun _ _ h => State.freezeLevel_wf _ _ h) _ h

theorem State.pushStrand_mem {s : State} {core : Nat} {v : Word} {s' : State} (e : s.pushStrand core v = some s') :
    s'.mem = s.mem := by
  unfold State.pushStrand at e
  dsimp only at e
  split at e <;> cases e
  rfl

theorem State.pushFifo_mem {s : State} {e : List (BitVec 32)} {s' : State} (he : s.pushFifo e = some s') :
    s'.mem = s.mem := by
  unfold State.pushFifo at he
  dsimp only at he
  split at he <;> cases he
  rfl

@[simp] theorem State.outPop_mem (s : State) : s.outPop.mem = s.mem := rfl

theorem State.popWord_mem {s : State} {n : BitVec 2} {s' : Word × State} (e : s.popWord n = some s') :
    s'.2.mem = s.mem := by
  unfold State.popWord at e
  repeat' split at e
  all_goals cases e <;> rfl

/-! ### Barrier objects -/

@[simp] theorem State.setPool_mem (s : State) (u : Nat) (p : SMap Cont) : (s.setPool u p).mem = s.mem := by
  unfold State.setPool
  split <;> rfl

theorem State.postCont_wf {s : State} (u : Nat) (c : Cont) (tmo : Bool) (h : Memory.wf s.mem = true) :
    Memory.wf (s.postCont u c tmo).mem = true := by
  grind [State.postCont, State.post_wf]

theorem State.postConts_wf {s : State} (u pa : Nat) (o : BarObj) (tmo : Bool) (which : Cont → Bool)
    (h : Memory.wf s.mem = true) :
    Memory.wf (s.postConts u pa o tmo which).1.mem = true := by
  have hf : ∀ (p : SMap Cont) (out : List Nat) (s : State), Memory.wf s.mem = true →
      Memory.wf (out.foldl (fun s i => match poolEntry p i with
        | some c => s.postCont u c tmo
        | none => s) s).mem = true := fun p out s h => by
    refine wf_foldl _ (fun s i h => ?_) _ h
    split
    · exact State.postCont_wf _ _ _ h
    · exact h
  unfold State.postConts
  dsimp only
  split
  · exact hf _ _ _ ((State.setPool_mem _ _ _).symm ▸ h)
  · exact hf _ _ _ ((State.setPool_mem _ _ _).symm ▸ h)

theorem State.barComplete_wf {s : State} (u pa : Nat) (ctx : Option Nat) (o : BarObj) (h : Memory.wf s.mem = true) :
    Memory.wf (s.barComplete u pa ctx o).1.mem = true := by
  unfold State.barComplete
  dsimp only
  repeat' split
  all_goals simp [h, State.event_wf, State.postConts_wf]

theorem State.barArrive_wf {s : State} (u pa : Nat) (ctx : Option Nat) (add : Word) (drop : Bool) (o : BarObj)
    (h : Memory.wf s.mem = true) :
    Memory.wf (s.barArrive u pa ctx add drop o).1.mem = true := by
  unfold State.barArrive
  dsimp only
  repeat' split
  all_goals simp [h, State.barComplete_wf]

theorem State.barInit_wf {s : State} (u pa : Nat) (ctx : Option Nat) (e : BitVec 16) (y : BitVec 32) (o : BarObj)
    (h : Memory.wf s.mem = true) :
    Memory.wf (s.barInit u pa ctx e y o).1.mem = true := by
  unfold State.barInit
  dsimp only
  repeat' split
  all_goals simp [h, State.postConts_wf, State.barComplete_wf]

theorem State.barWait_wf {s : State} (u : Nat) (c : Cont) (o : BarObj) (h : Memory.wf s.mem = true) :
    Memory.wf (s.barWait u c o).1.mem = true := by
  unfold State.barWait
  dsimp only
  repeat' split
  all_goals simp [h, State.source_mem, State.postCont_wf]

theorem State.barrierAt_wf {s : State} (ctx : Option Nat) (pa : Nat) (key : Option Nat) (op : BarrierOp)
    (h : Memory.wf s.mem = true) :
    Memory.wf (s.barrierAt ctx pa key op).1.mem = true := by
  unfold State.barrierAt
  dsimp only
  repeat' split
  all_goals simp [h, State.storeAt_wf, State.barComplete_wf, State.barArrive_wf, State.barInit_wf, State.barWait_wf]

theorem State.performBarrier_wf {s : State} (a : Access) (h : Memory.wf s.mem = true) :
    Memory.wf (s.performBarrier a).1.mem = true := by
  grind [State.performBarrier, State.correct_wf, State.barrierAt_wf]

theorem State.barrierOperation_wf {s : State} (k : Nat) (h : Memory.wf s.mem = true) :
    Memory.wf (s.barrierOperation k).mem = true := by
  unfold State.barrierOperation
  dsimp only
  repeat' split
  all_goals simp [h, State.performBarrier_wf]

theorem State.deadlineCheck_wf {s : State} (u : Nat) (h : Memory.wf s.mem = true) :
    Memory.wf (s.deadlineCheck u).mem = true := by
  refine wf_foldl _ (fun s i h => ?_) _ h
  split
  · exact h
  · split
    · exact State.storeAt_wf _ _ _ (State.postCont_wf _ _ _ ((State.setPool_mem _ _ _).symm ▸ h))
    · exact h

/-! ### Groups on the module and in the UALink domain -/

@[simp] theorem State.setGroup_mem (s : State) (u gid : Nat) (e : GEntry) : (s.setGroup u gid e).mem = s.mem := by
  unfold State.setGroup
  split <;> rfl

@[simp] theorem State.groupBuild_mem (s : State) (u gid : Nat) : (s.groupBuild u gid).mem = s.mem := by
  unfold State.groupBuild
  dsimp only
  repeat' split
  all_goals simp

@[simp] theorem State.groupCommit_mem (s : State) (u gid : Nat) : (s.groupCommit u gid).mem = s.mem := by
  unfold State.groupCommit
  dsimp only
  repeat' split
  all_goals simp

theorem State.groupRevoke_wf {s : State} (u gid : Nat) (h : Memory.wf s.mem = true) :
    Memory.wf (s.groupRevoke u gid).mem = true := by
  unfold State.groupRevoke
  dsimp only
  split
  · exact h
  · split
    · rw [State.setGroup_mem]; exact h
    · exact wf_foldl _ (fun _ _ h => State.event_wf _ _ _ _ _ _ _ h) _ ((State.setGroup_mem s u gid _).symm ▸ h)

@[simp] theorem State.groupFreed_mem (s : State) (u gid : Nat) : (s.groupFreed u gid).mem = s.mem := by
  unfold State.groupFreed
  dsimp only
  repeat' split
  all_goals simp

theorem State.writeGroup_wf {s : State} (u gid w : Nat) (v : Word) (h : Memory.wf s.mem = true) :
    Memory.wf (s.writeGroup u gid w v).mem = true := by
  unfold State.writeGroup
  dsimp only
  repeat' split
  all_goals simp [h, State.groupRevoke_wf]

theorem State.arriveCounted_wf {s : State} (t : Nat) (m : Msg) (h : Memory.wf s.mem = true) :
    Memory.wf (s.arriveCounted t m).1.mem = true := by
  simp [State.arriveCounted, State.arrive_wf, h]

theorem State.memberStore_wf {s : State} (c t from_ : Nat) (addr : Word) (bs : List Byte)
    (h : Memory.wf s.mem = true) :
    Memory.wf (s.memberStore c t from_ addr bs).1.mem = true := by
  unfold State.memberStore
  dsimp only
  split
  · exact h
  · refine wf_foldl_fst _ (fun a x h => ?_) _ h
    split
    · exact h
    · split
      · exact h
      · exact State.storeAt_wf _ _ _ h
    · split
      · rename_i hx
        exact (congrArg (fun x => Memory.wf x.1.mem) hx).symm.trans ((State.peerStore_mem _ _ _ _ _).symm ▸ h)
      · rename_i hx
        exact (congrArg (fun x => Memory.wf x.1.mem) hx).symm.trans ((State.peerStore_mem _ _ _ _ _).symm ▸ h)

theorem State.memberCopy_wf {s : State} (t : Nat) (e : GEntry) (m : Msg) (work : GroupWork) (mc : Nat)
    (h : Memory.wf s.mem = true) :
    Memory.wf (s.memberCopy t e m work mc).mem = true := by
  unfold State.memberCopy
  extract_lets e r
  rw [State.memberCode_mem]
  dsimp only [r]
  split
  · refine wf_foldl_fst _ (fun a c h => ?_) _ ?_
    · exact State.arriveCounted_wf _ _ h
    · exact h
  · exact State.memberStore_wf _ _ _ _ _ h
  · exact h

@[simp] theorem State.forwardGroup_mem (s : State) (t port : Nat) (m : Msg) (gid : Nat) (work : GroupWork)
    (climb : Bool) (mc : Nat) (lines : Bool × Bool) :
    (s.forwardGroup t port m gid work climb mc lines).mem = s.mem := by
  simp [State.forwardGroup, State.source_mem]

theorem State.replicate_wf {s : State} (t : Nat) (m : Msg) (gid : Nat) (work : GroupWork) (mc : Nat)
    (lines : Bool × Bool) (h : Memory.wf s.mem = true) :
    Memory.wf (s.replicate t m gid work mc lines).mem = true := by
  unfold State.replicate
  dsimp only
  split
  · rw [mem_foldl _ fun s i => State.memberCode_mem s mc i 3]; exact h
  · split
    · refine State.memberCopy_wf _ _ _ _ _ ?_
      rw [mem_foldl]
      · exact h
      · intro s p; split <;> simp
    · rw [mem_foldl]
      · exact h
      · intro s p; split <;> simp

theorem State.finishRound_wf {s : State} (t gid : Nat) (h : Memory.wf s.mem = true) :
    Memory.wf (s.finishRound t gid).mem = true := by
  unfold State.finishRound
  dsimp only
  repeat' split
  all_goals simp [h, State.event_wf, State.replicate_wf]

theorem State.contribute_wf {s : State} (t gid : Nat) (m : Msg) (ty : BitVec 2) (i : Nat)
    (h : Memory.wf s.mem = true) :
    Memory.wf (s.contribute t gid m ty i).mem = true := by
  unfold State.contribute
  dsimp only
  repeat' split
  all_goals simp [h, State.event_wf, State.finishRound_wf]

@[simp] theorem State.modMcast_mem (s : State) (id : Nat) (f : MCast → MCast) : (s.modMcast id f).mem = s.mem := rfl

theorem State.atRoot_wf {s : State} (t : Nat) (m : Msg) (gid : Nat) (work : GroupWork) (mc : Nat)
    (lines : Bool × Bool) (h : Memory.wf s.mem = true) :
    Memory.wf (s.atRoot t m gid work mc lines).mem = true := by
  unfold State.atRoot
  dsimp only
  repeat' split
  all_goals simp [h, State.mcastRefused_mem, State.replicate_wf, State.contribute_wf]

theorem State.groupStage_wf {s : State} (t : Nat) (m : Msg) (gid : Nat) (work : GroupWork) (climb : Bool) (mc : Nat)
    (lines : Bool × Bool) (h : Memory.wf s.mem = true) :
    Memory.wf (s.groupStage t m gid work climb mc lines).mem = true := by
  unfold State.groupStage
  dsimp only
  repeat' split
  all_goals simp [h, State.mcastFinish_mem, State.mcastRefused_mem, State.replicate_wf, State.atRoot_wf]

@[simp] theorem State.takePorts_mem (s : State) : s.takePorts.mem = s.mem := rfl

theorem State.domainMulticast_wf {s : State} (m : Msg) (gid : Nat) (off : Word) (alt : Bool) (mc : Nat)
    (h : Memory.wf s.mem = true) :
    Memory.wf (s.domainMulticast m gid off alt mc).mem = true := by
  unfold State.domainMulticast
  dsimp only
  split
  · rw [State.mcastRefused_mem]; exact h
  · rw [State.mcastFinish_mem, State.modMcast_mem]
    split
    · exact State.event_wf _ _ _ _ _ _ _ (State.vaCorrect_wf _ _ _ _ h)
    · exact State.vaCorrect_wf _ _ _ _ h

@[simp] theorem State.groupSend_mem (s : State) (m : Msg) (dom : Bool) (mk : Nat → Body) :
    (s.groupSend m dom mk).mem = s.mem := by
  unfold State.groupSend
  dsimp only
  repeat' split
  all_goals simp [State.inject_mem, State.source_mem]

/-! ### Jobs -/

@[simp] theorem State.modJob_mem (s : State) (core slot : Nat) (f : Job → Job) :
    (s.modJob core slot f).mem = s.mem := rfl

@[simp] theorem State.modPiece_mem (s : State) (core slot idx : Nat) (f : Piece → Piece) :
    (s.modPiece core slot idx f).mem = s.mem := rfl

@[simp] theorem State.setPiece_mem (s : State) (core slot idx : Nat) (st : PieceState) :
    (s.setPiece core slot idx st).mem = s.mem := rfl

@[simp] theorem State.newJob_mem (s : State) (slot : Nat) (comp comp1 comp2 : Word) (q : Cmd) :
    (s.newJob slot comp comp1 comp2 q).mem = s.mem := rfl

theorem State.engineRead_wf {s : State} (c : Nat) (t : Target) (n : Nat) (h : Memory.wf s.mem = true) :
    Memory.wf (s.engineRead c t n).1.mem = true := by
  unfold State.engineRead
  split
  · extract_lets s1 bs bad
    have h1 : Memory.wf s1.mem = true := State.correct_wf _ _ _ h
    split
    · exact h1
    · exact h1
  · rename_i i off key
    have h1 : Memory.wf (s.peerRead i off key n).1.mem = true := (State.peerRead_mem s i off key n).symm ▸ h
    split
    · rename_i hx; exact (State.freeBytes_mem _ n).symm ▸ wf_fst hx h1
    · rename_i hx; exact (State.freeBytes_mem _ n).symm ▸ wf_fst hx h1
    · rename_i hx; exact wf_fst hx h1

theorem State.engineWrite_wf {s : State} (t : Target) (bs : List Byte) (bad : List Nat) (h : Memory.wf s.mem = true) :
    Memory.wf (s.engineWrite t bs bad).1.mem = true := by
  unfold State.engineWrite
  split
  · extract_lets part keep lo s1 us s2 first
    have h1 : Memory.wf s1.mem = true := by
      dsimp only [s1]
      split
      · exact h
      · exact State.storeAt_wf _ _ _ h
    dsimp only [s2]
    split <;> exact h1
  · rename_i i off key
    have h1 : Memory.wf (s.peerStore i off key bs).1.mem = true := (State.peerStore_mem s i off key bs).symm ▸ h
    split
    all_goals rename_i hx; exact wf_fst hx h1

theorem State.writeTsr_wf {s : State} (u : Nat) (h : Memory.wf s.mem = true) :
    Memory.wf (s.writeTsr u).mem = true := by
  unfold State.writeTsr
  dsimp only
  repeat' split
  all_goals simp [h, State.writeRaw_wf]

theorem State.flushTsr_wf {s : State} (u : Nat) (h : Memory.wf s.mem = true) :
    Memory.wf (s.flushTsr u).mem = true := wf_foldl _ (fun _ _ h => State.writeTsr_wf _ h) _ h

theorem State.request_wf {s : State} (who : TsrFor) (ctx t va : Nat) (write : Bool) (stack : Option Nat)
    (h : Memory.wf s.mem = true) :
    Memory.wf (s.request who ctx t va write stack).1.mem = true := by
  simp [State.request, State.flushTsr_wf, h]

theorem State.startPieces_wf {s : State} (core : Nat) (j : Job) (h : Memory.wf s.mem = true) :
    Memory.wf (s.startPieces core j).1.mem = true := by
  unfold State.startPieces
  dsimp only
  repeat' split
  all_goals simp [h, State.correct_wf]

@[simp] theorem State.freeSpinel_mem (s : State) (core slot idx : Nat) (as : PieceState) :
    (s.freeSpinel core slot idx as).mem = s.mem := by
  unfold State.freeSpinel
  split <;> rfl

theorem State.holdPiece_wf {s : State} (core slot : Nat) (p : Piece) (va : Nat) (write : Bool)
    (h : Memory.wf s.mem = true) :
    Memory.wf (s.holdPiece core slot p va write).mem = true := by
  unfold State.holdPiece
  dsimp only
  repeat' split
  all_goals simp [h, State.request_wf]

@[simp] theorem State.endPiece_mem (s : State) (core slot : Nat) (p : Piece) (st : PieceState) :
    (s.endPiece core slot p st).mem = s.mem := by
  simp [State.endPiece]

@[simp] theorem State.failPiece_mem (s : State) (core slot : Nat) (p : Piece) (c : Cause) (a : Nat) :
    (s.failPiece core slot p c a).mem = s.mem := by
  simp [State.failPiece]

theorem State.formPiece_wf {s : State} (core slot : Nat) (p : Piece) (h : Memory.wf s.mem = true) :
    Memory.wf (s.formPiece core slot p).mem = true := by
  unfold State.formPiece
  dsimp only
  repeat' split
  all_goals simp [h, State.holdPiece_wf]

theorem State.copyRun_wf {s : State} (core slot idx : Nat) (x : Target × Target × Nat × Nat × Nat)
    (h : Memory.wf s.mem = true) :
    Memory.wf (s.copyRun core slot idx x).1.mem = true := by
  unfold State.copyRun
  dsimp only
  repeat' split
  all_goals simp [h, State.engineRead_wf, State.engineWrite_wf]

theorem State.copyRuns_wf {s : State} (core slot idx : Nat) (as : List (Target × Target × Nat × Nat × Nat))
    (h : Memory.wf s.mem = true) :
    Memory.wf (s.copyRuns core slot idx as).1.mem = true := by
  induction as generalizing s with
  | nil => exact h
  | cons x r ih => exact ih (State.copyRun_wf _ _ _ _ h)

theorem State.performPiece_wf {s : State} (core slot : Nat) (p : Piece) (h : Memory.wf s.mem = true) :
    Memory.wf (s.performPiece core slot p).mem = true := by
  unfold State.performPiece
  dsimp only
  repeat' split
  all_goals simp [h, State.holdPiece_wf, State.copyRuns_wf]

@[simp] theorem State.settleJob_mem (s : State) (core slot : Nat) : (s.settleJob core slot).mem = s.mem := rfl

theorem State.grantPiece_wf {s : State} (core slot idx : Nat) (h : Memory.wf s.mem = true) :
    Memory.wf (s.grantPiece core slot idx).mem = true := by
  unfold State.grantPiece
  dsimp only
  repeat' split
  all_goals simp [h, State.formPiece_wf]

theorem State.grant_wf {s : State} (core slot : Nat) (h : Memory.wf s.mem = true) :
    Memory.wf (s.grant core slot).mem = true := by
  unfold State.grant
  dsimp only
  split
  · rw [State.settleJob_mem]
    exact wf_foldl _ (fun _ _ h => State.grantPiece_wf _ _ _ h) _ h
  · exact h

theorem State.rateRefill_wf {s : State} (t : Nat) (h : Memory.wf s.mem = true) :
    Memory.wf (s.rateRefill t).mem = true := by
  unfold State.rateRefill
  split
  · exact wf_foldl _ (fun _ _ h => State.grant_wf _ _ h) _ ((State.refillCredits_mem s t).symm ▸ h)
  · exact h

@[simp] theorem State.freeIndex_mem (s : State) (core slot : Nat) : (s.freeIndex core slot).mem = s.mem := rfl

@[simp] theorem State.spinelPiece_mem (s : State) (k : Nat) : (s.spinelPiece k).mem = s.mem := by
  unfold State.spinelPiece
  dsimp only
  repeat' split
  all_goals simp

theorem State.jobRecord_wf {s : State} (core slot : Nat) (h : Memory.wf s.mem = true) :
    Memory.wf (s.jobRecord core slot).mem = true := by
  unfold State.jobRecord
  dsimp only
  repeat' split
  all_goals simp [h, State.faultRecord_wf]

@[simp] theorem State.actDone_mem (s : State) (core slot : Nat) : (s.actDone core slot).mem = s.mem := rfl

theorem State.actFail_wf {s : State} (core slot : Nat) (c : Cause) (a : Nat) (h : Memory.wf s.mem = true) :
    Memory.wf (s.actFail core slot c a).mem = true := by
  simp [State.actFail, State.jobRecord_wf, h]

theorem State.actAt_wf {s : State} (core slot n : Nat) (need : Need) (final : Bool)
    (f : State → Target → State × Option Cause) (hf : ∀ t, Memory.wf (f s t).1.mem = true)
    (h : Memory.wf s.mem = true) : Memory.wf (s.actAt core slot n need final f).mem = true := by
  unfold State.actAt
  dsimp only
  split
  · exact State.actFail_wf _ _ _ _ h
  · split
    · exact State.actFail_wf _ _ _ _ h
    · exact State.request_wf _ _ _ _ _ _ h
  · rename_i t _
    split
    · rename_i hx; rw [State.actDone_mem]; exact wf_fst hx (hf t)
    · rename_i hx; exact State.actFail_wf _ _ _ _ (wf_fst hx (hf t))

theorem State.actBytes_wf {s : State} (j : Job) (t : Target) (h : Memory.wf s.mem = true) :
    Memory.wf (s.actBytes j t).1.mem = true := by
  unfold State.actBytes
  dsimp only
  repeat' split
  all_goals simp [h, State.peerVerdict_mem, State.correct_wf, State.barrierAt_wf]

theorem State.act_wf {s : State} (core slot : Nat) (final : Bool) (h : Memory.wf s.mem = true) :
    Memory.wf (s.act core slot final).mem = true := by
  unfold State.act
  extract_lets j t skip
  split
  · split
    · exact h
    · refine State.actAt_wf _ _ _ _ _ _ (fun t => ?_) h
      split
      rename_i hx
      exact wf_fst hx (State.engineWrite_wf _ _ _ h)
  · split
    · exact h
    · exact State.sendCount_wf _ _ _ _ _ h
  · split
    · exact h
    · exact State.actAt_wf _ _ _ _ _ _ (fun t => State.actBytes_wf _ _ h) h
  · exact State.post_wf _ _ _ _ h
  · exact h
  · exact h

theorem State.finishJob_wf {s : State} (core slot : Nat) (h : Memory.wf s.mem = true) :
    Memory.wf (s.finishJob core slot).mem = true := by
  simp [State.finishJob, State.jobRecord_wf, State.act_wf, h]

theorem State.filterSource_wf {s : State} (core slot : Nat) (as : List Piece) (h : Memory.wf s.mem = true) :
    Memory.wf (s.filterSource core slot as).1.mem = true := by
  induction as generalizing s with
  | nil => exact h
  | cons p r ih =>
    unfold State.filterSource
    extract_lets j lost
    split
    rename_i s1 bs hx
    refine ih ?_
    refine wf_fst hx ?_
    split
    · exact h
    · split
      · exact h
      · exact h
      · dsimp only
        split
        · exact State.engineRead_wf _ _ _ h
        · split
          · exact State.engineRead_wf _ _ _ h
          · exact State.engineRead_wf _ _ _ h

theorem State.writeOut_wf {s : State} (core slot : Nat) (x : OutRun) (r : List Byte × List Nat)
    (h : Memory.wf s.mem = true) :
    Memory.wf (s.writeOut core slot x r).1.mem = true := by
  unfold State.writeOut
  dsimp only
  repeat' split
  all_goals simp [h, State.engineWrite_wf]

theorem State.writeRows_wf {s : State} (core slot : Nat) (out : List FilterRow) (rs : List OutRun)
    (h : Memory.wf s.mem = true) :
    Memory.wf (s.writeRows core slot out rs).mem = true := by
  unfold State.writeRows
  rw [State.modJob_mem]
  refine wf_foldl_fst _ (fun a x h => ?_) _ ?_
  · dsimp only
    split
    · exact h
    · exact State.writeOut_wf _ _ _ _ h
  · exact h

theorem State.holdOut_wf {s : State} {core slot : Nat} {rs : List OutRun} {s' : State} (h : Memory.wf s.mem = true)
    (e : s.holdOut core slot rs = some s') :
    Memory.wf s'.mem = true := by
  grind [State.holdOut, State.modJob_mem, State.holdPiece_wf, State.settleJob_mem]

theorem State.holdSource_wf {s : State} {core slot : Nat} {src : List Piece} {s' : State}
    (h : Memory.wf s.mem = true) (e : s.holdSource core slot src = some s') :
    Memory.wf s'.mem = true := by
  unfold State.holdSource at e
  dsimp only at e
  split at e
  · cases e
  · cases e
    rw [State.settleJob_mem]
    exact wf_foldl _ (fun _ _ h => State.holdPiece_wf _ _ _ _ _ h) _ h

theorem State.filterFinish_wf {s : State} (core slot : Nat) (h : Memory.wf s.mem = true) :
    Memory.wf (s.filterFinish core slot).mem = true := by
  unfold State.filterFinish
  extract_lets j src
  split
  · rename_i hx; exact State.holdSource_wf h hx
  · split
    rename_i s1 bs hx
    have h1 : Memory.wf s1.mem = true := wf_fst hx (State.filterSource_wf _ _ _ h)
    extract_lets out rs
    split
    · rename_i hy; exact State.holdOut_wf h hy
    · exact State.finishJob_wf _ _ (State.writeRows_wf _ _ _ _ h1)

theorem State.jobStart_wf {s : State} (core slot : Nat) (h : Memory.wf s.mem = true) :
    Memory.wf (s.jobStart core slot).mem = true := by
  unfold State.jobStart
  dsimp only
  repeat' split
  all_goals simp [h, State.startPieces_wf, State.grant_wf, State.finishJob_wf]

theorem State.workPiece_wf {s : State} (core slot idx : Nat) (h : Memory.wf s.mem = true) :
    Memory.wf (s.workPiece core slot idx).mem = true := by
  unfold State.workPiece
  dsimp only
  repeat' split
  all_goals simp [h, State.performPiece_wf]

theorem State.jobComplete_wf {s : State} (core slot : Nat) (h : Memory.wf s.mem = true) :
    Memory.wf (s.jobComplete core slot).mem = true := by
  unfold State.jobComplete
  dsimp only
  have hf := wf_foldl (fun (s : State) (p : Piece) => s.workPiece core slot p.idx)
    (fun _ _ h => State.workPiece_wf _ _ _ h) (s.job core slot).pieces h
  split
  · split
    · rw [State.settleJob_mem]
      exact State.grant_wf _ _ hf
    · split
      · exact State.filterFinish_wf _ _ hf
      · exact State.finishJob_wf _ _ hf
  · exact h

@[simp] theorem State.completionPush_mem (s : State) (core slot : Nat) :
    (s.completionPush core slot).mem = s.mem := by
  unfold State.completionPush
  dsimp only
  repeat' split
  all_goals simp

@[simp] theorem State.replayOne_mem (s : State) (t : Nat) (r : Replay) : (s.replayOne t r).mem = s.mem := by
  unfold State.replayOne
  dsimp only
  repeat' split
  all_goals simp

@[simp] theorem State.replay_mem (s : State) (t : Nat) :
    (s.replay t).mem = s.mem := mem_foldl _ (fun s r => State.replayOne_mem s t r) _ _

theorem State.imageEnded_wf {s : State} (n slot : Nat) (j : Job) (h : Memory.wf s.mem = true) :
    Memory.wf (s.imageEnded n slot j).mem = true := by
  unfold State.imageEnded
  dsimp only
  repeat' split
  all_goals simp [h, State.imageField_wf]

theorem State.postWatch_wf {s : State} (core : Nat) (w : JobWatch) (h : Memory.wf s.mem = true) :
    Memory.wf (s.postWatch core w).mem = true := by
  simp [State.postWatch, State.post_wf, h]

theorem State.freeWatches_wf {s : State} (core slot : Nat) (h : Memory.wf s.mem = true) :
    Memory.wf (s.freeWatches core slot).mem = true :=
  wf_foldl _ (fun _ _ h => State.postWatch_wf _ _ h) _ (s := s.modCore core _) h

theorem State.jobFree_wf {s : State} (core slot : Nat) (h : Memory.wf s.mem = true) :
    Memory.wf (s.jobFree core slot).mem = true := by
  unfold State.jobFree
  dsimp only
  repeat' split
  all_goals simp [h, State.imageEnded_wf, State.freeWatches_wf]

theorem State.pieceAnswered_wf {s : State} (r : TsrReq) (core slot idx : Nat) (ok : Bool)
    (h : Memory.wf s.mem = true) :
    Memory.wf (s.pieceAnswered r core slot idx ok).mem = true := by
  unfold State.pieceAnswered
  dsimp only
  repeat' split
  all_goals simp [h, State.formPiece_wf]

theorem State.actAnswered_wf {s : State} (r : TsrReq) (core slot : Nat) (ok : Bool) (h : Memory.wf s.mem = true) :
    Memory.wf (s.actAnswered r core slot ok).mem = true := by
  grind [State.actAnswered, State.actFail_wf, State.act_wf]

@[simp] theorem State.reloadAnswered_mem (s : State) (r : TsrReq) (t slot : Nat) (ok : Bool) :
    (s.reloadAnswered r t slot ok).mem = s.mem := rfl

theorem State.translationResponse_wf {s : State} (u : Nat) (v : Word) (h : Memory.wf s.mem = true) :
    Memory.wf (s.translationResponse u v).mem = true := by
  unfold State.translationResponse
  dsimp only
  repeat' split
  all_goals simp [h, State.pieceAnswered_wf, State.actAnswered_wf]

/-! ### The outer-product array -/

@[simp] theorem State.modAcc_mem (s : State) (t n : Nat) (f : AccSlot → AccSlot) : (s.modAcc t n f).mem = s.mem := rfl

theorem State.operandVec_wf {s : State} (ctx t va ty n : Nat) (h : Memory.wf s.mem = true) :
    Memory.wf (s.operandVec ctx t va ty n).1.mem = true := by
  simp [State.operandVec, State.correct_wf, h]

@[simp] theorem State.enqueue_mem (s : State) (t : Nat) (o : ArrayOp) : (s.enqueue t o).mem = s.mem := rfl

@[simp] theorem State.freeAddr_mem (s : State) : s.freeAddr.1.mem = s.mem := rfl

@[simp] theorem State.parityCheck_mem (s : State) (t n r0 c0 m c : Nat) :
    (s.parityCheck t n r0 c0 m c).1.mem = s.mem := by
  unfold State.parityCheck
  split <;> rfl

@[simp] theorem State.notePoison_mem (s : State) (core slot idx : Nat) :
    (s.notePoison core slot idx).mem = s.mem := rfl

theorem State.readSteps_wf {s : State} (t core slot : Nat) (d : MmaDesc) (as : List Nat)
    (h : Memory.wf s.mem = true) :
    Memory.wf (s.readSteps t core slot d as).1.mem = true := by
  induction as generalizing s with
  | nil => exact h
  | cons k r ih =>
    refine ih ?_
    split
    · rw [State.modJob_mem]
      split
      · rw [State.modJob_mem]; exact State.operandVec_wf _ _ _ _ _ (State.operandVec_wf _ _ _ _ _ h)
      · exact State.operandVec_wf _ _ _ _ _ (State.operandVec_wf _ _ _ _ _ h)
    · split
      · rw [State.modJob_mem]; exact State.operandVec_wf _ _ _ _ _ (State.operandVec_wf _ _ _ _ _ h)
      · exact State.operandVec_wf _ _ _ _ _ (State.operandVec_wf _ _ _ _ _ h)

@[simp] theorem State.dequeue_mem (s : State) (t : Nat) (o : ArrayOp) : (s.dequeue t o).mem = s.mem := rfl

@[simp] theorem State.beginMma_mem (s : State) (t core slot : Nat) : (s.beginMma t core slot).mem = s.mem := by
  unfold State.beginMma
  dsimp only
  repeat' split
  all_goals simp

theorem State.stepMma_wf {s : State} (t core slot : Nat) (h : Memory.wf s.mem = true) :
    Memory.wf (s.stepMma t core slot).mem = true := by
  unfold State.stepMma
  dsimp only
  repeat' split
  all_goals simp [h, State.readSteps_wf]

theorem State.rowMst_wf {s : State} (t core slot : Nat) (h : Memory.wf s.mem = true) :
    Memory.wf (s.rowMst t core slot).mem = true := by
  unfold State.rowMst
  extract_lets j n
  split
  extract_lets runs rs
  split
  · rename_i hx; exact State.holdOut_wf h hx
  · split
    rename_i s1 _ hx
    extract_lets s2 s3
    have h2 : Memory.wf s2.mem = true := by
      dsimp only [s2]
      split
      · rw [State.notePoison_mem]; exact wf_fst hx ((State.parityCheck_mem ..).symm ▸ h)
      · exact wf_fst hx ((State.parityCheck_mem ..).symm ▸ h)
    have h3 : Memory.wf s3.mem = true := State.writeRows_wf _ _ _ _ h2
    split
    · rw [State.dequeue_mem]; exact h3
    · exact h3

@[simp] theorem State.stage_mem (s : State) (n : Nat) (bs : List Byte) : (s.stage n bs).mem = s.mem := rfl

@[simp] theorem State.enterPart_mem (s : State) (t origin core slot member : Nat) :
    (s.enterPart t origin core slot member).mem = s.mem := rfl

@[simp] theorem State.lockSupplies_mem (s : State) (t : Nat) : (s.lockSupplies t).mem = s.mem := by
  refine mem_foldl _ (fun s p => ?_) _ _
  split <;> rfl

theorem State.sendStep_wf {s : State} (t : Nat) (p : Supply) (h : Memory.wf s.mem = true) :
    Memory.wf (s.sendStep t p).mem = true := by
  unfold State.sendStep
  dsimp only
  rw [mem_foldl]
  · exact State.operandVec_wf _ _ _ _ _ h
  · intro s c; rw [State.inject_mem]; rfl

@[simp] theorem State.endSupply_mem (s : State) (t : Nat) (p : Supply) : (s.endSupply t p).mem = s.mem := rfl

theorem State.supplyStep_wf {s : State} (t : Nat) (h : Memory.wf s.mem = true) :
    Memory.wf (s.supplyStep t).mem = true := by
  unfold State.supplyStep
  dsimp only
  repeat' split
  all_goals simp [h, State.sendStep_wf]

theorem State.supply_wf {s : State} (t : Nat) (h : Memory.wf s.mem = true) : Memory.wf (s.supply t).mem = true := by
  unfold State.supply
  split
  · exact h
  · exact wf_foldl _ (fun _ _ h => State.supplyStep_wf _ h) _ h

@[simp] theorem State.takePart_mem (s : State) (t origin core slot member : Nat) :
    (s.takePart t origin core slot member).mem = s.mem := by
  simp [State.takePart]

@[simp] theorem State.modMmag_mem (s : State) (origin core slot : Nat) (f : MmagOrigin → MmagOrigin) :
    (s.modMmag origin core slot f).mem = s.mem := rfl

@[simp] theorem State.sendStarts_mem (s : State) (origin core slot : Nat) :
    (s.sendStarts origin core slot).mem = s.mem := by
  simp [State.sendStarts, mem_foldl, State.inject_mem, State.source_mem]

@[simp] theorem State.offerNext_mem (s : State) (origin core slot fuel : Nat) :
    (s.offerNext origin core slot fuel).mem = s.mem := by
  induction fuel generalizing s with
  | zero => rfl
  | succ n ih =>
    unfold State.offerNext
    dsimp only
    repeat' split
    all_goals simp [ih, State.inject_mem, State.source_mem]

@[simp] theorem State.modPart_mem (s : State) (t origin core slot : Nat) (f : Part → Part) :
    (s.modPart t origin core slot f).mem = s.mem := rfl

@[simp] theorem State.sendCredit_mem (s : State) (t : Nat) (p : Part) (forA : Bool) (n : Nat) :
    (s.sendCredit t p forA n).mem = s.mem := by
  simp [State.sendCredit, State.inject_mem, State.source_mem]

@[simp] theorem State.partParity_mem (s : State) (t : Nat) (p : Part) : (s.partParity t p).1.mem = s.mem := by
  grind [State.partParity, State.freeAddr_mem, State.parityCheck_mem]

@[simp] theorem State.consume_mem (s : State) (t : Nat) (p : Part) : (s.consume t p).1.mem = s.mem := by
  unfold State.consume
  dsimp only
  repeat' split
  all_goals simp

@[simp] theorem State.consumeAll_mem (s : State) (t : Nat) (p : Part) (fuel : Nat) :
    (s.consumeAll t p fuel).1.mem = s.mem := by
  induction fuel generalizing s p with
  | zero => rfl
  | succ n ih =>
    unfold State.consumeAll
    have hc := State.consume_mem s t p
    split
    · rename_i hx; rw [hx] at hc; exact (ih _ _).trans hc
    · rename_i hx; rw [hx] at hc; exact hc

@[simp] theorem State.advancePart_mem (s : State) (t origin core slot : Nat) :
    (s.advancePart t origin core slot).mem = s.mem := by
  unfold State.advancePart
  dsimp only
  repeat' split
  all_goals simp [State.inject_mem, State.source_mem]

@[simp] theorem State.beginPart_mem (s : State) (t : Nat) (p : Part) : (s.beginPart t p).mem = s.mem := by
  unfold State.beginPart
  dsimp only
  repeat' split
  all_goals simp

theorem State.runOp_wf {s : State} (t : Nat) (o : ArrayOp) (h : Memory.wf s.mem = true) :
    Memory.wf (s.runOp t o).mem = true := by
  unfold State.runOp
  dsimp only
  repeat' split
  all_goals simp [h, State.answer_wf]

theorem State.workOp_wf {s : State} (t : Nat) (o : ArrayOp) (h : Memory.wf s.mem = true) :
    Memory.wf (s.workOp t o).mem = true := by
  unfold State.workOp
  split
  · split
    · exact State.stepMma_wf _ _ _ h
    · exact h
  · split
    · exact State.rowMst_wf _ _ _ h
    · exact h
  all_goals exact h

theorem State.matrixComplete_wf {s : State} (core slot : Nat) (h : Memory.wf s.mem = true) :
    Memory.wf (s.matrixComplete core slot).mem = true := by
  unfold State.matrixComplete
  dsimp only
  repeat' split
  all_goals simp [h, State.finishJob_wf]

/-! ### The Beryl fabric -/

theorem State.streamOut_wf {s : State} (t : Nat) (e : BEntry) (h : Memory.wf s.mem = true) :
    Memory.wf (s.streamOut t e).mem = true := by
  unfold State.streamOut
  dsimp only
  split
  · refine State.sendCount_wf _ _ _ _ _ ?_
    rw [State.unitSeq_mem, State.modFabric_mem]
    split
    · exact State.storeAt_wf _ _ _ h
    · rw [State.poisonUnits_mem]; exact State.storeAt_wf _ _ _ h
  · rw [State.modFabric_mem]
    split
    · exact State.storeAt_wf _ _ _ h
    · rw [State.poisonUnits_mem]; exact State.storeAt_wf _ _ _ h

theorem State.outputEntry_wf {s : State} (t : Nat) (g : GSlot) (raw : BEntry) (h : Memory.wf s.mem = true) :
    Memory.wf (s.outputEntry t g raw).mem = true := by
  unfold State.outputEntry
  dsimp only
  repeat' split
  all_goals simp [h, State.inject_mem, State.source_mem, State.event_wf, State.streamOut_wf]

theorem State.streamIn_wf {s : State} (t : Nat) (h : Memory.wf s.mem = true) :
    Memory.wf (s.streamIn t).mem = true := by
  grind [State.streamIn, State.freeBytes_mem, State.faultRecord_wf, State.correct_wf, State.modFabric_mem]

theorem State.fabricAdvance_wf {s : State} (t : Nat) (h : Memory.wf s.mem = true) :
    Memory.wf (s.fabricAdvance t).mem = true := by
  unfold State.fabricAdvance
  dsimp only
  repeat' split
  all_goals simp [h, State.outputEntry_wf, State.streamIn_wf]

theorem State.give_wf {s : State} (a : Access) (v : Word) (h : Memory.wf s.mem = true) :
    Memory.wf (s.give a v).mem = true := by
  simp [State.give, State.answer_wf, h]

@[simp] theorem State.popCmd_mem (s : State) (t : Nat) : (s.popCmd t).mem = s.mem := rfl

theorem State.runCmd_wf {s : State} {t : Nat} {c : GCmd} {s' : State} (h : Memory.wf s.mem = true)
    (e : s.runCmd t c = some s') :
    Memory.wf s'.mem = true := by
  unfold State.runCmd at e
  dsimp only at e
  repeat' split at e
  all_goals cases e
  all_goals simp [State.give_wf, State.inject_mem, State.source_mem, h]

theorem State.runCmds_wf {s : State} (t fuel : Nat) (h : Memory.wf s.mem = true) :
    Memory.wf (s.runCmds t fuel).mem = true := by
  induction fuel generalizing s with
  | zero => exact h
  | succ n ih =>
    unfold State.runCmds
    split
    · exact h
    · split
      · exact h
      · rename_i hx; exact ih (State.runCmd_wf h hx)

theorem State.graphRun_wf {s : State} (t : Nat) (h : Memory.wf s.mem = true) :
    Memory.wf (s.graphRun t).mem = true := by
  grind [State.graphRun, State.runCmds_wf]

theorem State.gloadStart_wf {s : State} (core slot : Nat) (h : Memory.wf s.mem = true) :
    Memory.wf (s.gloadStart core slot).mem = true := by
  unfold State.gloadStart
  extract_lets j t f a ps s1
  split
  · rw [State.settleJob_mem]
    exact wf_foldl _ (fun _ _ h => State.formPiece_wf _ _ _ h) _ (s := s1) h
  · exact h

theorem State.readImage_wf {s : State} (core slot : Nat) (as : List Piece) (h : Memory.wf s.mem = true) :
    Memory.wf (s.readImage core slot as).1.mem = true := by
  induction as generalizing s with
  | nil => exact h
  | cons p r ih =>
    unfold State.readImage
    extract_lets j
    split
    rename_i s1 bs hx
    refine ih (wf_fst hx ?_)
    split
    · exact h
    · exact h
    · dsimp only
      split <;> exact State.engineRead_wf _ _ _ h

theorem State.rewritten_wf {s : State} (t : Nat) (regions : List Nat) (bySig : Bool) (foundAt : BitVec 32)
    (h : Memory.wf s.mem = true) :
    Memory.wf (s.rewritten t regions bySig foundAt).mem = true := by
  refine wf_foldl _ (fun s _ h => ?_) _ h
  dsimp only
  split <;> exact State.event_wf _ _ _ _ _ _ _ h

theorem State.gloadComplete_wf {s : State} (core slot : Nat) (h : Memory.wf s.mem = true) :
    Memory.wf (s.gloadComplete core slot).mem = true := by
  unfold State.gloadComplete
  extract_lets j t src
  split
  · split
    · rename_i hx; exact State.holdSource_wf h hx
    · split
      rename_i s1 bs hx
      have h1 : Memory.wf s1.mem = true := wf_fst hx (State.readImage_wf _ _ _ h)
      extract_lets damaged s2
      have h2 : Memory.wf s2.mem = true := by
        dsimp only [s2]
        split
        · exact h1
        · split
          · exact h1
          · exact State.rewritten_wf _ _ _ _ h1
      refine State.graphRun_wf _ ?_
      rw [State.popCmd_mem]
      exact State.finishJob_wf _ _ h2
  · exact h

theorem State.drainDone_wf {s : State} (t : Nat) (h : Memory.wf s.mem = true) :
    Memory.wf (s.drainDone t).mem = true := by
  unfold State.drainDone
  dsimp only
  repeat' split
  all_goals simp [h, State.give_wf, State.graphRun_wf]

theorem State.imageBytes_wf {s : State} (t : Nat) (g : GSlot) (h : Memory.wf s.mem = true) :
    Memory.wf (s.imageBytes t g).1.mem = true := by
  refine wf_foldl_fst _ (fun a x h => ?_) _ h
  split
  · exact h
  · split
    · exact h
    · exact h
    · exact State.engineRead_wf _ _ _ h

theorem State.reloadGood_wf {s : State} (t : Nat) (b : Bool) (h : Memory.wf s.mem = true) :
    Memory.wf (s.reloadGood t b).mem = true := by
  simp [State.reloadGood, State.graphRun_wf, State.rewritten_wf, h]

theorem State.reloadBad_wf {s : State} (t : Nat) (b : Bool) (h : Memory.wf s.mem = true) :
    Memory.wf (s.reloadBad t b).mem = true := by
  simp [State.reloadBad, State.faultRecord_wf, State.graphRun_wf, h]

theorem State.reloadComplete_wf {s : State} (t slot : Nat) (h : Memory.wf s.mem = true) :
    Memory.wf (s.reloadComplete t slot).mem = true := by
  grind [State.reloadComplete, State.modFabric_mem, State.request_wf, State.imageBytes_wf, State.reloadGood_wf,
    State.reloadBad_wf]

/-! ### The host command queues -/

@[simp] theorem State.interrupt_mem (s : State) (v : BitVec 16) : (s.interrupt v).mem = s.mem := rfl

@[simp] theorem State.doorbell_mem (s : State) (q : Nat) (v : Word) : (s.doorbell q v).mem = s.mem := by
  unfold State.doorbell
  split <;> rfl

@[simp] theorem State.queueEnable_mem (s : State) (q : Nat) (v : Word) : (s.queueEnable q v).mem = s.mem := by
  unfold State.queueEnable
  split <;> rfl

@[simp] theorem State.withdraw_mem (s : State) (q : Nat) : (s.withdraw q).mem = s.mem := by
  unfold State.withdraw
  split <;> rfl

@[simp] theorem State.queueDisable_mem (s : State) (q : Nat) (v : Word) : (s.queueDisable q v).mem = s.mem := by
  unfold State.queueDisable
  dsimp only
  repeat' split
  all_goals simp

theorem State.agateRead_wf {s : State} (c va n : Nat) (h : Memory.wf s.mem = true) :
    Memory.wf (s.agateRead c va n).1.mem = true := by
  unfold State.agateRead
  dsimp only
  repeat' split
  all_goals simp [h, State.engineRead_wf]

theorem State.agateWrite_wf {s : State} {c va : Nat} {bs : List Byte} {s' : State} (h : Memory.wf s.mem = true)
    (e : s.agateWrite c va bs = some s') :
    Memory.wf s'.mem = true := by
  grind [State.agateWrite, State.engineWrite_wf]

@[simp] theorem State.queueError_mem (s : State) (q idx code : Nat) : (s.queueError q idx code).mem = s.mem := rfl

theorem State.startPacket_wf {s : State} (q opc : Nat) (body : State → List Word → State)
    (hb : ∀ ws, Memory.wf (body s ws).mem = true) (h : Memory.wf s.mem = true) :
    Memory.wf (s.startPacket q opc body).mem = true := by
  unfold State.startPacket
  dsimp only
  repeat' split
  all_goals first
    | exact hb _
    | exact h

@[simp] theorem State.packetDone_mem (s : State) (q : Nat) (ws : List Word) : (s.packetDone q ws).mem = s.mem := by
  unfold State.packetDone
  split <;> rfl

@[simp] theorem State.passPacket_mem (s : State) (q : Nat) (ws : List Word) : (s.passPacket q ws).mem = s.mem := by
  simp [State.passPacket]

@[simp] theorem State.runPacket_mem (s : State) (q : Nat) (r : PktRun) : (s.runPacket q r).mem = s.mem := rfl

theorem State.copyPiece_wf {s : State} (q : Nat) (p : Piece) (h : Memory.wf s.mem = true) :
    Memory.wf (s.copyPiece q p).1.mem = true := by
  unfold State.copyPiece
  extract_lets c
  have hr : Memory.wf (s.agateRead c p.src.toNat p.len).1.mem = true := State.agateRead_wf _ _ _ h
  split
  · rename_i hx
    split
    · rename_i hy; exact State.agateWrite_wf (wf_fst hx hr) hy
    · exact wf_fst hx hr
  · rename_i hx _; exact wf_fst hx hr

theorem State.packetComplete_wf {s : State} (q k : Nat) (h : Memory.wf s.mem = true) :
    Memory.wf (s.packetComplete q k).mem = true := by
  unfold State.packetComplete
  dsimp only
  repeat' split
  all_goals simp [h, State.copyPiece_wf]

theorem State.cond_wf {s : State} (q : Nat) (ws : List Word) (h : Memory.wf s.mem = true) :
    Memory.wf (s.cond q ws).mem = true := by
  unfold State.cond
  extract_lets k w n act size
  split
  · exact h
  · split
    · exact h
    · have hr : Memory.wf (s.agateRead k.ctx.toNat (pw ws 1) 8).1.mem = true := State.agateRead_wf _ _ _ h
      split
      · rename_i hx
        rw [State.queueError_mem]; exact wf_fst hx hr
      · rename_i hx
        have h1 := wf_fst hx hr
        extract_lets next
        cases next with
        | error e => exact h1
        | ok i =>
          dsimp only
          split
          · exact h1
          · rw [State.packetDone_mem]; exact h1

/-! ### The kernel -/

theorem State.imageCorrect_wf {s : State} (c base : Nat) (i : KImage) (h : Memory.wf s.mem = true) :
    Memory.wf (s.imageCorrect c base i).mem = true := wf_foldl _ (fun _ _ h => State.vaCorrect_wf _ _ _ _ h) _ h

@[simp] theorem State.launch_mem (s : State) (q : Nat) (ws : List Word) : (s.launch q ws).mem = s.mem := by
  unfold State.launch
  dsimp only
  repeat' split
  all_goals simp

@[simp] theorem State.place_mem (s : State) (c : Nat) : (s.place c).mem = s.mem := by
  unfold State.place
  dsimp only
  repeat' split
  all_goals simp

theorem State.zeroSlices_wf {s : State} (ts : List Nat) (h : Memory.wf s.mem = true) :
    Memory.wf (s.zeroSlices ts).mem = true := Memory.wf_filter _ h

theorem State.writeRecord_wf {s : State} (core : Nat) (h : Memory.wf s.mem = true) :
    Memory.wf (s.writeRecord core).mem = true := by
  grind [State.writeRecord, State.writeTarget_wf]

theorem State.recordLevels_wf {s : State} (core : Nat) (h : Memory.wf s.mem = true) :
    Memory.wf (s.recordLevels core).mem = true := by
  grind [State.recordLevels, State.writeTarget_wf]

theorem State.loadTile_wf {s : State} (t i j : Nat) (k : KImage) (scratch : List Byte)
    (gs : List (List Word × GSlot)) (h : Memory.wf s.mem = true) :
    Memory.wf (s.loadTile t i j k scratch gs).mem = true := by
  unfold State.loadTile
  dsimp only
  apply_rules [State.writeRaw_wf, State.writeRecord_wf]

@[simp] theorem State.clearTile_mem (s : State) (t : Nat) : (s.clearTile t).mem = s.mem := by
  refine (mem_foldl _ (fun _ _ => ?_) _ _).trans ?_ <;> rfl

@[simp] theorem State.zeroKeys_mem (s : State) (c : Nat) : (s.zeroKeys c).mem = s.mem := rfl

@[simp] theorem State.releaseKernel_mem (s : State) (c : Nat) : (s.releaseKernel c).mem = s.mem := by
  have hf := mem_foldl (fun s t => s.clearTile t) (fun s t => State.clearTile_mem s t) (s.ctx c).tiles s
  unfold State.releaseKernel
  dsimp only
  split
  · exact (State.zeroKeys_mem _ c).trans hf
  · exact hf

@[simp] theorem State.modLaunch_mem (s : State) (c : Nat) (f : PktRun → Option PktRun) :
    (s.modLaunch c f).mem = s.mem := rfl

theorem State.dropCont_wf {s : State} (u i : Nat) (x : Cont) (h : Memory.wf s.mem = true) :
    Memory.wf (s.dropCont u i x).mem = true := by
  unfold State.dropCont
  dsimp only
  repeat' split
  all_goals simp [h, State.storeAt_wf]

theorem State.discardWaits_wf {s : State} (c : Nat) (h : Memory.wf s.mem = true) :
    Memory.wf (s.discardWaits c).mem = true := by
  unfold State.discardWaits
  dsimp only
  refine wf_foldl _ (fun _ _ h => State.dropCont_wf _ _ _ h) _ ?_
  rw [mem_foldl]
  · exact h
  · intro s t; rfl

@[simp] theorem State.drainKernel_mem (s : State) (c : Nat) : (s.drainKernel c).mem = s.mem := rfl

theorem State.drained_wf {s : State} (h : Memory.wf s.mem = true) :
    Memory.wf s.drained.mem = true := wf_foldl _ (fun _ _ h => State.discardWaits_wf _ h) _ h

theorem State.initMsg_wf {s : State} (c : Nat) (west : Bool) (r : List Word) (h : Memory.wf s.mem = true) :
    Memory.wf (s.initMsg c west r).mem = true := by
  simp [State.initMsg, State.post_wf, h]

@[simp] theorem State.loadFailed_mem (s : State) (c reason : Nat) : (s.loadFailed c reason).mem = s.mem := by
  simp [State.loadFailed]

theorem State.kernelLoaded_wf {s : State} (c : Nat) (h : Memory.wf s.mem = true) :
    Memory.wf (s.kernelLoaded c).mem = true := by
  unfold State.kernelLoaded
  extract_lets k base
  split
  · exact h
  · split
    · rw [State.loadFailed_mem]; exact h
    · rename_i i _
      extract_lets scratch gs s1 s2 s3 s4 s5
      have h1 : Memory.wf s1.mem = true := State.zeroSlices_wf _ (State.imageCorrect_wf _ _ _ h)
      have h2 : Memory.wf s2.mem = true := wf_foldl _ (fun _ _ h => State.loadTile_wf _ _ _ _ _ _ h) _ h1
      have h4 : Memory.wf s4.mem = true := wf_foldl _ (fun _ _ h => State.initMsg_wf _ _ _ h) _ (s := s3) h2
      have h5 : Memory.wf s5.mem = true := by
        unfold s5
        split
        · exact h4
        · rw [State.modLaunch_mem]; exact h4
      split
      · rw [State.drainKernel_mem]; exact h5
      · exact h5

@[simp] theorem State.quiescenceWave_mem (s : State) (c : Nat) : (s.quiescenceWave c).mem = s.mem := by
  unfold State.quiescenceWave
  dsimp only
  repeat' split
  all_goals simp []

theorem State.retirementComplete_wf {s : State} (c : Nat) (h : Memory.wf s.mem = true) :
    Memory.wf (s.retirementComplete c).mem = true := by
  grind [State.retirementComplete, State.releaseKernel_mem, State.modLaunch_mem, State.discardWaits_wf]

@[simp] theorem State.kernelStop_mem (s : State) (c : Nat) : (s.kernelStop c).mem = s.mem := by
  unfold State.kernelStop
  dsimp only
  repeat' split
  all_goals simp

/-! ### The context -/

@[simp] theorem State.startCommand_mem (s : State) (c err : Nat) (cmd : CtxCmd) :
    (s.startCommand c err cmd).mem = s.mem := rfl

theorem State.ctxCommand_wf {s : State} (c : Nat) (allowed : CtxState → Bool) (body : State → State)
    (hb : Memory.wf (body s).mem = true) (h : Memory.wf s.mem = true) :
    Memory.wf (s.ctxCommand c allowed body).mem = true := by
  unfold State.ctxCommand
  repeat' split
  · exact h
  · exact hb
  · exact h

theorem State.putSaved_wf {s : State} (l : List (Nat × Target)) (fuel i : Nat) (bs : List Byte)
    (h : Memory.wf s.mem = true) :
    Memory.wf (s.putSaved l fuel i bs).mem = true := by
  induction fuel generalizing s i bs with
  | zero => exact h
  | succ n ih =>
    unfold State.putSaved
    dsimp only
    split
    · exact h
    · refine ih _ _ ?_
      split
      · exact State.writeTarget_wf _ _ _ h
      · exact h

@[simp] theorem State.control_mem (s : State) (c : Nat) (cores : List Nat) (b : Nat → Body) :
    (s.control c cores b).mem = s.mem := by
  simp [State.control, mem_foldl, State.inject_mem, State.source_mem]

@[simp] theorem State.keepRecords_mem (s : State) (c : Nat) (cores : List Nat) :
    (s.keepRecords c cores).mem = s.mem := by
  refine mem_foldl _ (fun s x => ?_) _ _
  split <;> rfl

theorem State.captureStrand_wf {s : State} (n : Nat) (h : Memory.wf s.mem = true) :
    Memory.wf (s.captureStrand n).mem = true := by
  unfold State.captureStrand
  dsimp only
  repeat' split
  all_goals simp [h, State.writeTarget_wf, State.imageSst_wf, State.saveImage_wf, State.capture_wf]

theorem State.freezeCore_wf {s : State} (core : Nat) (h : Memory.wf s.mem = true) :
    Memory.wf (s.freezeCore core).mem = true := by
  unfold State.freezeCore
  split
  · exact h
  · dsimp only
    rw [State.updateHold_mem]
    refine State.writeRecord_wf _ ?_
    rw [State.modCore_mem]
    exact State.freezeLevels_wf _ (wf_foldl _ (fun _ _ h => State.captureStrand_wf _ h) _ h)

theorem State.purgeLevel_wf {s : State} (core l : Nat) (h : Memory.wf s.mem = true) :
    Memory.wf (s.purgeLevel core l).mem = true := by
  unfold State.purgeLevel
  dsimp only
  rw [mem_foldl]
  · rw [State.modLevel_mem, mem_foldl]
    · exact wf_foldl_fst _ (fun _ _ h => State.vaCorrect_wf _ _ _ _ h) _ h
    · intro s e; rfl
  · intro s m
    split
    · exact State.sendReply_mem _ _ _ _ _ _ _
    · rfl

theorem State.purgeCore_wf {s : State} (core : Nat) (h : Memory.wf s.mem = true) :
    Memory.wf (s.purgeCore core).mem = true := by
  unfold State.purgeCore
  dsimp only
  rw [mem_foldl]
  · exact wf_foldl _ (fun _ _ h => State.purgeLevel_wf _ _ h) _ h
  · intro s i; rfl

theorem State.destroyCores_wf {s : State} (c : Nat) (h : Memory.wf s.mem = true) :
    Memory.wf (s.destroyCores c).mem = true := by
  unfold State.destroyCores
  dsimp only
  rw [State.kernelStop_mem, mem_foldl]
  · refine wf_foldl _ (fun _ _ h => State.purgeCore_wf _ h) _ ?_
    refine wf_foldl _ (fun s x h => ?_) _ h
    refine wf_foldl _ (fun s k h => ?_) _ h
    split
    · exact h
    · exact State.release_wf _ h
  · intro s t
    split
    · rw [mem_foldl]
      · rfl
      · intro s k; rfl
    · rfl

theorem State.acknowledge_wf {s : State} (c core : Nat) (h : Memory.wf s.mem = true) :
    Memory.wf (s.acknowledge c core).mem = true := by
  unfold State.acknowledge
  dsimp only
  repeat' split
  all_goals simp [h, State.destroyCores_wf]

@[simp] theorem State.unfreezeStrand_mem (s : State) (core k : Nat) : (s.unfreezeStrand core k).mem = s.mem := by
  unfold State.unfreezeStrand
  split <;> rfl

theorem State.reloadCore_wf {s : State} (core : Nat) (h : Memory.wf s.mem = true) :
    Memory.wf (s.reloadCore core).mem = true := by
  unfold State.reloadCore
  dsimp only
  repeat' split
  all_goals apply_rules [State.targetCorrect_wf, State.modLevel_mem]

@[simp] theorem State.resumeHook_mem (s : State) (core back : Nat) : (s.resumeHook core back).mem = s.mem := by
  unfold State.resumeHook
  dsimp only
  repeat' split
  all_goals simp [State.source_mem]

theorem State.unfreezeCore_wf {s : State} (core : Nat) (h : Memory.wf s.mem = true) :
    Memory.wf (s.unfreezeCore core).mem = true := by
  unfold State.unfreezeCore
  dsimp only
  rw [State.updateHold_mem]
  refine State.regain_wf _ ?_
  rw [State.modCore_mem, State.resumeHook_mem, mem_foldl _ fun s k => State.unfreezeStrand_mem s core k]
  refine State.levelFaults_wf _ ?_
  rw [mem_foldl]
  · exact State.reloadCore_wf _ h
  · intro s l; rfl

theorem State.resumeAt_wf {s : State} (n c : Nat) (v : Word) (h : Memory.wf s.mem = true) :
    Memory.wf (s.resumeAt n c v).mem = true := by
  unfold State.resumeAt
  dsimp only
  repeat' split
  all_goals simp [h, State.event_wf, State.strandReply_mem, State.imageSst_wf, State.loadFrom_wf, State.release_wf]

theorem State.drainStage_wf {s : State} (t : Nat) (h : Memory.wf s.mem = true) :
    Memory.wf (s.drainStage t).mem = true := by
  unfold State.drainStage
  dsimp only
  repeat' split
  all_goals simp [h, State.outputEntry_wf]

@[simp] theorem State.drainFrozen_mem (s : State) (t : Nat) : (s.drainFrozen t).mem = s.mem := by
  refine (mem_foldl _ (fun _ _ => ?_) _ _).trans ?_ <;> rfl

theorem State.drainFabric_wf {s : State} (t : Nat) (h : Memory.wf s.mem = true) :
    Memory.wf (s.drainFabric t).mem = true := by
  unfold State.drainFabric
  split
  · rw [State.drainFrozen_mem]; exact h
  · split
    · exact wf_foldl _ (fun _ _ h => State.drainStage_wf _ h) _ h
    · exact h

theorem State.vacateTile_wf {s : State} (c t : Nat) (h : Memory.wf s.mem = true) :
    Memory.wf (s.vacateTile c t).mem = true := by
  unfold State.vacateTile
  dsimp only
  rw [State.modTile_mem]
  exact State.putSaved_wf _ _ _ _ (State.drainFabric_wf _ h)

theorem State.reloadSlot_wf {s : State} (t : Nat) (b : Bool) (h : Memory.wf s.mem = true) :
    Memory.wf (s.reloadSlot t b).mem = true := by
  unfold State.reloadSlot
  dsimp only
  repeat' split
  all_goals simp [h, State.faultRecord_wf, State.imageBytes_wf]

@[simp] theorem State.takeRecord_mem (s : State) (c t : Nat) (old : List ArrayOp) (r : List Nat) :
    (s.takeRecord c t old r).mem = s.mem := by
  unfold State.takeRecord
  split <;> rfl

@[simp] theorem State.endUnrecorded_mem (s : State) (t : Nat) (old : List ArrayOp) :
    (s.endUnrecorded t old).mem = s.mem := by
  refine mem_foldl _ (fun s o => ?_) _ _
  cases o <;> dsimp only
  case mma | mst => split <;> rfl

@[simp] theorem State.restoreQueue_mem (s : State) (c t : Nat) (rs : List (List Nat)) :
    (s.restoreQueue c t rs).mem = s.mem :=
  (State.endUnrecorded_mem _ _ _).trans (mem_foldl _ (fun s r => State.takeRecord_mem s c t _ r) _ _)

@[simp] theorem State.dropPushes_mem (s : State) (t : Nat) (l : List Replay) : (s.dropPushes t l).mem = s.mem := by
  refine mem_foldl _ (fun s p => ?_) _ _
  split
  · rfl
  · exact State.actDone_mem _ _ _

@[simp] theorem State.restoreTile_mem (s : State) (c t : Nat) (bs : List Byte) :
    (s.restoreTile c t bs).mem = s.mem := by
  refine (State.restoreQueue_mem _ _ _ _).trans ((mem_foldl _ (fun _ _ => ?_) _ _).trans ?_)
  · rfl
  · exact State.dropPushes_mem s t (s.restoredPushes t bs)

theorem State.wakeTile_wf {s : State} (t : Nat) (h : Memory.wf s.mem = true) :
    Memory.wf (s.wakeTile t).mem = true := by
  unfold State.wakeTile
  dsimp only
  rw [State.replay_mem]
  refine State.graphRun_wf _ (State.supply_wf _ ?_)
  rw [mem_foldl]
  · exact State.reloadSlot_wf _ _ (State.reloadSlot_wf _ _ h)
  · intro s o
    split
    · exact State.advancePart_mem _ _ _ _ _
    all_goals rfl

@[simp] theorem State.failWaiting_mem (s : State) (c : Nat) : (s.failWaiting c).mem = s.mem := by
  unfold State.failWaiting
  dsimp only
  repeat' split
  all_goals simp

@[simp] theorem State.dropRecords_mem (s : State) (c : Nat) : (s.dropRecords c).mem = s.mem := by
  refine mem_foldl _ (fun _ _ => ?_) _ _
  rfl

theorem State.commandComplete_wf {s : State} (c : Nat) (h : Memory.wf s.mem = true) :
    Memory.wf (s.commandComplete c).mem = true := by
  unfold State.commandComplete
  extract_lets k s1 s2
  have h1 : Memory.wf s1.mem = true := by
    unfold s1
    split
    · exact wf_foldl _ (fun _ _ h => State.vacateTile_wf _ _ h) _ h
    · split
      · rw [State.modCtx_mem, State.zeroKeys_mem]; exact h
      · exact h
    all_goals exact h
  have h2 : Memory.wf s2.mem = true := by
    unfold s2
    split
    · rw [State.dropRecords_mem]; exact h1
    · rw [State.dropRecords_mem]; exact h1
    all_goals exact h1
  split
  · exact h
  · exact h2

theorem State.wave_wf {s : State} (c : Nat) (h : Memory.wf s.mem = true) : Memory.wf (s.wave c).mem = true := by
  unfold State.wave
  dsimp only
  rw [State.quiescenceWave_mem]
  split
  · exact wf_foldl _ (fun _ _ h => State.purgeCore_wf _ h) _ h
  · exact h

/-! ### PROBE -/

@[simp] theorem State.revoking_mem (s : State) (side : LeaseSide) (i : Nat) : (s.revoking side i).mem = s.mem := by
  unfold State.revoking
  split <;> rfl

theorem State.peerPerform_wf {s : State} (pa : Nat) (op : PeerOp) (h : Memory.wf s.mem = true) :
    Memory.wf (s.peerPerform pa op).1.mem = true := by
  unfold State.peerPerform
  split
  · split <;> exact h
  · split
    · exact h
    · exact State.storeAt_wf _ _ _ h
  · extract_lets n old
    split
    · exact h
    · split
      · exact State.storeAt_wf _ _ _ h
      · exact h
  · rename_i k x y
    have hb := State.barrierAt_wf (s := s) none pa none (peerBarrier k x y) h
    split
    · exact h
    · split
      · rename_i hx; exact wf_fst hx hb
      · rename_i hx; exact wf_fst hx hb

/-! ### Links -/

@[simp] theorem State.fatal_mem (s : State) (code : Nat) : (s.fatal code).mem = s.mem := rfl

@[simp] theorem State.logLink_mem (s : State) (l : Nat) (st : LinkState) : (s.logLink l st).mem = s.mem := rfl

@[simp] theorem State.setLink_mem (s : State) (l : Nat) (st : LinkState) (lanes : Nat) :
    (s.setLink l st lanes).mem = s.mem := by
  have hf := mem_foldl (fun (s : State) e => s.modLink e fun k =>
    { k with st := st, width := BitVec.ofNat 5 lanes, since := s.time.toNat, nak := none, repeats := 0 })
    (fun _ _ => rfl) (endsOf l) s
  unfold State.setLink
  dsimp only
  split
  · simp [hf]
  · simp [hf]

@[simp] theorem State.hop_mem (s : State) (l pid : Nat) : (s.hop l pid).mem = s.mem := by
  unfold State.hop
  dsimp only
  repeat' split
  all_goals simp [State.sendOn_mem]

@[simp] theorem State.flitTaken_mem (s : State) (l : Nat) (f : Flit) : (s.flitTaken l f).mem = s.mem := by
  unfold State.flitTaken
  dsimp only
  repeat' split
  all_goals simp

@[simp] theorem State.flitBad_mem (s : State) (l : Nat) : (s.flitBad l).mem = s.mem := rfl

/-! ### Gateway cores -/

@[simp] theorem State.gatewayDrop_mem (s : State) (n : Nat) : (s.gatewayDrop n).mem = s.mem := rfl

@[simp] theorem State.gatewayRun_mem (s : State) (core : Nat) : (s.gatewayRun core).mem = s.mem := rfl

@[simp] theorem State.peek_mem (s : State) (t : Target) (off n : Nat) : (s.peek t off n).1.mem = s.mem := by
  unfold State.peek
  split <;> rfl

@[simp] theorem State.descPoison_mem (s : State) (ea : Word) : (s.descPoison ea).mem = s.mem := rfl

theorem State.gwCount_wf {s : State} (w6 w7 : Nat) (h : Memory.wf s.mem = true) :
    Memory.wf (s.gwCount w6 w7).mem = true := by
  unfold State.gwCount
  split
  · exact h
  · exact State.sendCount_wf _ _ _ _ _ h

/-! ### Resets and boot -/

theorem State.hostWrite_wf {s : State} (bus : Nat) (bs : List Byte) (h : Memory.wf s.mem = true) :
    Memory.wf (s.hostWrite bus bs).mem = true := by
  simp [State.hostWrite, State.writeRaw_wf, h]

theorem State.restoreLayout_mem {s : State} {bus : Nat} {s' : State} (e : s.restoreLayout bus = some s') :
    s'.mem = s.mem := by
  unfold State.restoreLayout at e
  dsimp only at e
  split at e
  · cases e
  · simp only [Option.some.injEq] at e
    subst e
    refine (mem_foldl _ (fun _ _ => ?_) _ _).trans (mem_foldl _ (fun _ _ => ?_) _ _) <;> rfl

theorem State.cleared_wf {s : State} (keepHbm : Bool) (h : Memory.wf s.mem = true) :
    Memory.wf (s.cleared keepHbm).mem = true := Memory.wf_filter _ h

@[simp] theorem State.logTraining_mem (s : State) (lanes : List (Nat × Nat)) : (s.logTraining lanes).mem = s.mem := by
  simp [State.logTraining]

theorem State.powerDown_wf {s : State} (h : Memory.wf s.mem = true) :
    Memory.wf s.powerDown.mem = true := Memory.wf_filter _ h

theorem State.booted_wf {s : State} (stacksOk : Bool) (lanes : List (Nat × Nat)) (h : Memory.wf s.mem = true) :
    Memory.wf (s.booted stacksOk lanes).mem = true := by
  unfold State.booted
  dsimp only
  repeat' split
  all_goals simp [h, State.powerDown_wf]

theorem State.updateGoes_wf {s : State} (h : Memory.wf s.mem = true) : Memory.wf s.updateGoes.mem = true := by
  unfold State.updateGoes
  dsimp only
  repeat' split
  all_goals simp [h, State.hostWrite_wf, State.mgmtResult_mem]

theorem State.startUpdate_wf {s : State} (h : Memory.wf s.mem = true) : Memory.wf s.startUpdate.mem = true := by
  unfold State.startUpdate
  dsimp only
  repeat' split
  all_goals simp [h, State.mgmtResult_mem, State.updateGoes_wf]

theorem State.firmwareReset_wf {s : State} (stacksOk : Bool) (lanes : List (Nat × Nat)) (h : Memory.wf s.mem = true) :
    Memory.wf (s.firmwareReset stacksOk lanes).mem = true := by
  unfold State.firmwareReset
  extract_lets host r1 r2
  have h1 : Memory.wf r1.mem = true := State.booted_wf _ _ (State.cleared_wf _ h)
  have h2 : Memory.wf r2.mem = true := by
    unfold r2
    split <;> exact h1
  split
  · split
    · rename_i hx
      have e := State.restoreLayout_mem hx
      exact e.symm ▸ h2
    · exact h2
  · exact h2

@[simp] theorem State.mgmtWrite_mem (s : State) (f : Mgmt → Mgmt) : (s.mgmtWrite f).mem = s.mem := by
  unfold State.mgmtWrite
  split <;> rfl

theorem State.windowWrite_wf {s : State} (r : HostReg) (v : Word) (h : Memory.wf s.mem = true) :
    Memory.wf (s.windowWrite r v).mem = true := by
  unfold State.windowWrite
  dsimp only
  repeat' split
  all_goals simp [h, State.levelFaults_wf, State.writeGroup_wf, State.flushTsr_wf, State.recordLevels_wf]

@[simp] theorem State.strike_mem (s : State) (pa : Nat) (fixed : Bool) : (s.strike pa fixed).mem = s.mem := by
  unfold State.strike
  dsimp only
  repeat' split
  all_goals simp [State.poisonUnits_mem]

/-! ### How the machine goes on -/

theorem State.fetchFar_wf {s : State} (t : Target) (h : Memory.wf s.mem = true) :
    Memory.wf (s.fetchFar t).mem = true := by
  grind [State.fetchFar, State.issueGroup_wf]

@[simp] theorem State.raiseFetch_mem (s : State) (n : Nat) (c : Cause) (b : Word) :
    (s.raiseFetch n c b).mem = s.mem := by
  grind [State.raiseFetch, State.raise_mem, State.raiseAtIssue_mem, State.holdAt_mem]

@[simp] theorem State.at_mem (s : State) (n : Nat) : (s.at_ n).mem = s.mem := rfl

@[simp] theorem State.rotate_mem (s : State) (ready : List Nat) : (s.rotate ready).mem = s.mem := by
  refine mem_foldl _ (fun _ _ => ?_) _ _
  rfl

@[simp] theorem State.select_mem (s : State) (core : Nat) (ready : List Nat) :
    (s.select core ready).1.mem = s.mem := by
  unfold State.select
  dsimp only
  repeat' split
  all_goals simp

@[simp] theorem State.nextAct_mem (s : State) : s.nextAct.1.mem = s.mem := by
  grind [State.nextAct]

end Sys2Proof.Machine
end

section
/-! SUPPORT. The memory invariant: what an instruction and an event of a unit come to, as far as the form of memory goes. -/

namespace Sys2Proof.Machine

open Sys2Proof

/-- The states that a result hands on have memory in its canonical form. -/
@[simp] def Res.Kept : Res → Prop
  | .go s | .goLc s | .jump s _ | .stop s _ _ | .ended s | .wait s _ | .trapIn s _ _ => Memory.wf s.mem = true
  | .hold _ | .trap _ _ | .trapOpen _ => True

theorem wf_mem {s t : State} (e : t.mem = s.mem) (h : Memory.wf s.mem = true) : Memory.wf t.mem = true := e ▸ h

/-- The next state of an outcome has memory in its canonical form. -/
structure Kept (o : Out) : Prop where
  wf : ∀ t, o = .next t → Memory.wf t.mem = true

theorem kept_next {s : State} (h : Memory.wf s.mem = true) : Kept (.next s) := by
  constructor; intro t e; cases e; exact h

theorem State.finish_wf {s : State} {r : Res} (h : Memory.wf s.mem = true) (hr : r.Kept) :
    Memory.wf (s.finish r).mem = true := by
  rw [State.finish_mem]
  cases r <;> first | exact hr | exact h

theorem State.issue_wf {s : State} (i : Instr) (u : Uses) (body : State → Res) (hb : (body s).Kept)
    (h : Memory.wf s.mem = true) : Memory.wf (s.issue i u body).mem = true := by
  rcases State.issue_cases s i u body with ⟨_, e⟩ | ⟨_, _, e⟩ | ⟨_, _, _, e⟩ | ⟨_, _, _, _, e⟩ | ⟨_, e⟩ <;>
    rw [e]
  · exact h
  · exact h
  · exact h
  · exact h
  · exact State.finish_wf h hb

theorem kept_issue {s : State} {i : Instr} {u : Uses} {body : State → Res} (h : Memory.wf s.mem = true)
    (hb : (body s).Kept) : Kept (.next (s.issue i u body)) := kept_next (State.issue_wf i u body hb h)

theorem tileOnly_kept {s : State} {i : Instr} {body : State → Res} (hb : (body s).Kept) :
    (tileOnly i body s).Kept := by
  unfold tileOnly; split
  · trivial
  · exact hb

theorem noReply_kept {s : State} {re : Bool} {body : State → Res} (hb : (body s).Kept) :
    (noReply re body s).Kept := by
  unfold noReply; split
  · trivial
  · exact hb

theorem State.injecting_kept {s : State} {vn1 : Bool} {r : Res} (hr : r.Kept) : (s.injecting vn1 r).Kept := by
  unfold State.injecting; split
  · exact hr
  · trivial

theorem State.putGAnd_kept {s s' : State} (d : GReg) (v : Word) (h : Memory.wf s'.mem = true) :
    (s.putGAnd s' d v).Kept := by
  unfold State.putGAnd; split
  · trivial
  · exact h

theorem State.putG_kept {s : State} (d : GReg) (v : Word) (h : Memory.wf s.mem = true) : (s.putG d v).Kept := by
  unfold State.putG; split
  · trivial
  · exact h

theorem State.putP_kept {s : State} (d : PReg) (b : Bool) (h : Memory.wf s.mem = true) : (s.putP d b).Kept := h

theorem State.putFlags_kept {s : State} (d : GReg) (v : Word) (f : BitVec 5) (h : Memory.wf s.mem = true) :
    (s.putFlags d v f).Kept := State.putGAnd_kept d v h

theorem State.branch_kept {s : State} (b : Bool) (t : BitVec 48) (h : Memory.wf s.mem = true) :
    (s.branch b t).Kept := by
  unfold State.branch; split <;> exact h

theorem jumpTo_kept {s : State} (t : Word) (h : Memory.wf s.mem = true) : (jumpTo s t).Kept := by
  unfold jumpTo; split
  · trivial
  · split
    · trivial
    · exact h

theorem pushRes_kept {o : Option State} (ho : ∀ s, o = some s → Memory.wf s.mem = true) : (pushRes o).Kept := by
  cases o with
  | none => trivial
  | some s => exact ho s rfl

theorem State.couple_kept {s : State} {body : State → Res}
    (hb : ∀ x : State, x.mem = s.mem → (body x).Kept) : (s.couple body).Kept := by
  unfold State.couple; split
  · trivial
  · exact hb _ rfl

theorem State.scalarAccess_kept {s : State} (ea : Word) (size : Nat) (need : Need) (kind : AccKind)
    (dest : Option (GReg × Bool)) (h : Memory.wf s.mem = true) : (s.scalarAccess ea size need kind dest).Kept := by
  unfold State.scalarAccess
  split
  · trivial
  · split
    · exact State.issueGroup_wf _ _ h
    · extract_lets a s1
      split
      · split
        rename_i s2 st hx
        have h2 : Memory.wf s2.mem = true := wf_fst hx (State.perform_wf (s := s1) _ h)
        split
        · extract_lets v
          split <;> exact h2
        · exact h2
        · exact h2
      · exact State.issueGroup_wf _ _ h

theorem State.barrierAccess_kept {s : State} (d : GReg) (ea : Word) (rel noLease : Bool) (op : BarrierOp)
    (h : Memory.wf s.mem = true) : (s.barrierAccess d ea rel noLease op).Kept := by
  unfold State.barrierAccess
  split
  · trivial
  · extract_lets after a a'
    split
    · trivial
    · split
      · split
        · trivial
        · split
          rename_i s2 st hx
          have h2 : Memory.wf s2.mem = true := wf_fst hx (State.performBarrier_wf _ h)
          split
          · extract_lets v
            split <;> exact h2
          · exact h2
          · exact h2
      · exact State.injecting_kept (State.issueGroup_wf _ _ h)

theorem State.vecAccess_kept {s : State} (t : VType) (es : List Elem) (need : Need) (kind : Nat → AccKind)
    (dest : Nat → Dest) (line : Bool) (p : Option Pend) (h : Memory.wf s.mem = true) :
    (s.vecAccess t es need kind dest line p).Kept := by
  unfold State.vecAccess
  dsimp only
  split
  · trivial
  · exact State.issueGroup_wf _ _ h

theorem State.vecLoad_kept {s : State} (t : VType) (d : WReg) (m : MReg) (addr : Nat → Word) (line : Bool)
    (h : Memory.wf s.mem = true) : (s.vecLoad t d m addr line).Kept := State.vecAccess_kept _ _ _ _ _ _ _ h

theorem State.vecStore_kept {s : State} (t : VType) (d : WReg) (m : MReg) (addr : Nat → Word) (line : Bool)
    (h : Memory.wf s.mem = true) : (s.vecStore t d m addr line).Kept := by
  unfold State.vecStore
  dsimp only
  exact State.vecAccess_kept _ _ _ _ _ _ _ h

theorem State.withReply_kept {s : State} (re : Bool) (d : GReg) {f : State → Nat → State}
    (hf : ∀ x k, Memory.wf x.mem = true → Memory.wf (f x k).mem = true) (h : Memory.wf s.mem = true) :
    (s.withReply re d f).Kept := by
  unfold State.withReply
  split
  · exact hf _ _ h
  · split
    · trivial
    · dsimp only
      split
      · trivial
      · exact hf _ _ h

theorem State.withPayload_kept {s : State} (desc : Word) (pa : Nat) (re : Bool) (d : GReg)
    {send : State → Nat → List Byte → State}
    (hs : ∀ x k bs, Memory.wf x.mem = true → Memory.wf (send x k bs).mem = true) (h : Memory.wf s.mem = true) :
    (s.withPayload desc pa re d send).Kept := by
  unfold State.withPayload
  refine State.withReply_kept _ _ (fun x k hx => ?_) h
  dsimp only
  split
  · split <;> exact hx
  · exact hs _ _ _ (State.correct_wf _ _ _ hx)

theorem State.spawnInline_kept {s : State} (entry : Nat) (args : List Word) (h : Memory.wf s.mem = true) :
    (s.spawnInline entry args).Kept := by
  unfold State.spawnInline
  dsimp only
  split
  · trivial
  · split
    · trivial
    · exact State.issueGroup_wf _ _ h

theorem State.inlineReturn_kept {s : State} (bs : List Byte) (h : Memory.wf s.mem = true) :
    (s.inlineReturn bs).Kept := by
  unfold State.inlineReturn
  dsimp only
  split
  · trivial
  · split
    · rename_i s' t hx
      have hj := hx ▸ jumpTo_kept (s := s.modMe _) _ h
      exact hj
    · exact jumpTo_kept _ h

theorem State.endInline_kept {s : State} (h : Memory.wf s.mem = true) : s.endInline.Kept := by
  unfold State.endInline
  extract_lets st
  split
  · exact State.inlineReturn_kept _ h
  · split
    · trivial
    · split
      · trivial
      · extract_lets s1
        have h1 : Memory.wf s1.mem = true := State.issueGroup_wf _ _ h
        split
        · exact State.inlineReturn_kept _ h1
        · exact h1

theorem State.withComp_kept {s : State} (i : Instr) (b : GReg) {f : Word → Word → Word → Res}
    (hf : ∀ x y z, (f x y z).Kept) : (s.withComp i b f).Kept := by
  unfold State.withComp
  dsimp only
  repeat' split
  all_goals first | trivial | exact hf _ _ _

/-- A command that is refused hands on no state. -/
theorem State.cmdFault_kept {s : State} {comp comp1 : Word} {q : Cmd} {r : Res}
    (e : s.cmdFault comp comp1 q = some r) : r.Kept := by
  unfold State.cmdFault at e
  repeat' split at e
  all_goals cases e
  all_goals trivial

theorem State.command_kept {s : State} (d : GReg) (comp comp1 comp2 : Word) (q : Cmd) (room : State → Bool)
    {enter : State → Nat → State} (he : ∀ x k, Memory.wf x.mem = true → Memory.wf (enter x k).mem = true)
    (h : Memory.wf s.mem = true) : (s.command d comp comp1 comp2 q room enter).Kept := by
  unfold State.command
  split
  · rename_i e; exact State.cmdFault_kept e
  · split
    · trivial
    · split
      · trivial
      · split
        · trivial
        · refine State.putGAnd_kept _ _ (he _ _ ?_)
          rw [State.newJob_mem]; exact h

theorem State.plainCommand_kept {s : State} (d : GReg) (comp comp1 comp2 : Word) (q : Cmd)
    (h : Memory.wf s.mem = true) : (s.plainCommand d comp comp1 comp2 q).Kept :=
  State.command_kept _ _ _ _ _ _ (fun _ _ h => h) h

theorem State.mzrForm_kept {s : State} (d : GReg) (n : Nat) (a b : Bool) (h : Memory.wf s.mem = true) :
    (s.mzrForm d n a b).Kept := by
  unfold State.mzrForm; split
  · trivial
  · exact h

theorem State.graphCmd_kept {s : State} (d : GReg) (mk : Access → GCmd) (h : Memory.wf s.mem = true) :
    (s.graphCmd d mk).Kept := by
  unfold State.graphCmd
  split
  · trivial
  · extract_lets id src a s1 s2
    have h2 : Memory.wf s2.mem = true := State.graphRun_wf _ h
    split <;> exact h2

/-! ### The forms of instruction -/

theorem kept_pushes {s : State} {o : Option State} (e : ∀ t, o = some t → t.mem = s.mem)
    (h : Memory.wf s.mem = true) : (pushRes o).Kept :=
  pushRes_kept fun t ht => e t ht ▸ h

section
variable {s : State} (h : Memory.wf s.mem = true)
include h

theorem State.alu2_kept (i : Instr) (d a b : GReg) (f : Word → Word → Word) : Kept (s.alu2 i d a b f) :=
  kept_issue h (State.putG_kept d _ h)

theorem State.divide_kept (i : Instr) (d a b : GReg) (f : Word → Word → Word) (q : Word → Word → Nat) :
    Kept (s.divide i d a b f q) := by
  refine kept_issue h ?_
  dsimp only
  split
  · trivial
  · exact State.putGAnd_kept d _ h

theorem State.alu1_kept (i : Instr) (d a : GReg) (f : Word → Word) : Kept (s.alu1 i d a f) :=
  kept_issue h (State.putG_kept d _ h)

theorem State.aluKeep_kept (i : Instr) (d a : GReg) (f : Word → Word → Word) : Kept (s.aluKeep i d a f) :=
  kept_issue h (State.putG_kept d _ h)

theorem State.predForm_kept (i : Instr) (d : PReg) (f : Strand → Bool) : Kept (s.predForm i d f) :=
  kept_issue h h

theorem State.fpForm_kept (i : Instr) (g : List Nat) (d : GReg) (f : Strand → Word × BitVec 5) :
    Kept (s.fpForm i g d f) := kept_issue h (State.putFlags_kept d _ _ h)

theorem State.compareBranch_kept (i : Instr) (b a : GReg) (o : BitVec 16) (c : Word → Word → Bool) :
    Kept (s.compareBranch i b a o c) := kept_issue h (State.branch_kept _ _ h)

theorem State.loadForm_kept (i : Instr) (u : List Nat) (d : GReg) (ea : Strand → Word) (n : Nat) (sg : Bool) :
    Kept (s.loadForm i u d ea n sg) := kept_issue h (State.scalarAccess_kept _ _ _ _ _ h)

theorem State.storeForm_kept (i : Instr) (u : List Nat) (b : GReg) (ea : Strand → Word) (n : Nat) :
    Kept (s.storeForm i u b ea n) := kept_issue h (State.scalarAccess_kept _ _ _ _ _ h)

theorem State.atomicForm_kept (i : Instr) (op : Nat) (d a b : GReg) (wide : Bool) :
    Kept (s.atomicForm i op d a b wide) := kept_issue h (State.scalarAccess_kept _ _ _ _ _ h)

theorem State.laneForm_kept (i : Instr) (u : Uses) (d : WReg) (m : MReg) (t : VType)
    (f : Strand → Nat → Nat × BitVec 5) : Kept (s.laneForm i u d m t f) := kept_issue h h

theorem State.arithForm_kept (i : Instr) (u : Uses) (op : VArith) (d a b : WReg) (m : MReg) (t : VType)
    (sat us : Bool) : Kept (s.arithForm i u op d a b m t sat us) := State.laneForm_kept h _ _ _ _ _ _

theorem State.logicForm_kept (i : Instr) (d a b : WReg) (m : MReg) (t : VType) (f : Nat → Nat → Nat) :
    Kept (s.logicForm i d a b m t f) := State.laneForm_kept h _ _ _ _ _ _

theorem State.maskForm_kept (i : Instr) (d : MReg) (f : Strand → MaskWord) : Kept (s.maskForm i d f) :=
  kept_issue h h

theorem State.runForm_kept (i : Instr) (d a : WReg) (m : MReg) (t src : VType) (e : Nat)
    (f : Strand → Nat → Nat × BitVec 5) : Kept (s.runForm i d a m t src e f) := kept_issue h h

theorem State.positionForm_kept (i : Instr) (d a : WReg) (b : GReg16) (m : MReg) (t : VType) (p : BitVec 2)
    (f : Strand → Nat → Nat → Nat × BitVec 5) : Kept (s.positionForm i d a b m t p f) := kept_issue h h

theorem State.sfForm_kept (i : Instr) (fn : Nat) (d a : WReg) (m : MReg) (t : VType) :
    Kept (s.sfForm i fn d a m t) := by
  refine kept_issue h ?_
  dsimp only
  split
  · trivial
  · exact h

theorem State.sendForm_kept (i : Instr) (d a b : GReg) (re rels : Bool) : Kept (s.sendForm i d a b re rels) :=
  kept_issue h (noReply_kept (State.injecting_kept (State.withReply_kept _ _
    (fun _ _ hx => State.strandSend_wf _ _ _ hx) h)))

end

/-! ### The instructions of a strand -/

section
variable {s : State} (h : Memory.wf s.mem = true)
include h

theorem execLoop_kept (a : GReg) (i : BitVec 16) : Kept (execLoop a i s) := by
  refine kept_issue h ?_
  dsimp only
  split <;> exact h

theorem execFence_kept (k : FenceKind) (c : Scope) : Kept (execFence k c s) := by
  refine kept_issue h ?_
  split
  · trivial
  · exact wf_mem (State.fenced_mem ..) h

theorem execSendl_kept (d a b : GReg) (re : Bool) : Kept (execSendl d a b re s) := by
  refine kept_issue h (noReply_kept ?_)
  dsimp only
  split
  · trivial
  · exact State.injecting_kept (State.withPayload_kept _ _ _ _ (fun _ _ _ hx => State.strandSend_wf _ _ _ hx) h)

theorem execSpawn_kept (a b : GReg) (c : BitVec 3) : Kept (execSpawn a b c s) := by
  refine kept_issue h ?_
  dsimp only
  split
  · exact State.spawnInline_kept _ _ h
  · exact State.injecting_kept (State.strandSend_wf _ _ _ h)

theorem execReply_kept (b : GReg) : Kept (execReply b s) := by
  refine kept_issue h ?_
  dsimp only
  split
  · trivial
  · exact State.injecting_kept (wf_mem (State.strandReply_mem ..) h)

theorem execMcast_kept (d a b : GReg) (re : Bool) : Kept (execMcast d a b re s) := by
  refine kept_issue h (noReply_kept ?_)
  dsimp only
  split
  · trivial
  · split
    · trivial
    · exact State.injecting_kept (State.withReply_kept _ _ (fun _ _ hx => wf_mem (State.groupSend_mem ..) hx) h)

theorem execMcastl_kept (d a b : GReg) (alt str re : Bool) : Kept (execMcastl d a b alt str re s) := by
  refine kept_issue h (noReply_kept ?_)
  extract_lets st w gid dom r e
  split
  · trivial
  · split
    · trivial
    · split
      · trivial
      · split
        · trivial
        · exact State.injecting_kept
            (State.withPayload_kept _ _ _ _ (fun _ _ _ hx => wf_mem (State.groupSend_mem ..) hx) h)

theorem execGred_kept (a b : GReg) (t : BitVec 2) : Kept (execGred a b t s) := by
  refine kept_issue h ?_
  dsimp only
  split
  · trivial
  · split
    · trivial
    · split
      · trivial
      · exact State.injecting_kept (wf_mem (State.groupSend_mem ..) h)

theorem execEndH_kept : Kept (execEndH s) := by
  refine kept_issue h ?_
  split
  · exact State.endInline_kept h
  · split
    · trivial
    · exact State.release_wf _ h

theorem execArmw_kept (a b : GReg) (c : BitVec 3) : Kept (execArmw a b c s) := by
  refine kept_issue h (tileOnly_kept ?_)
  dsimp only
  split
  · trivial
  · split
    · trivial
    · split
      · trivial
      · split
        · exact State.postWatch1_wf _ _ h
        · exact h

theorem execHtset_kept (a b : GReg) : Kept (execHtset a b s) := by
  refine kept_issue h ?_
  dsimp only
  split
  · trivial
  · split
    · trivial
    · exact h

theorem execHtclr_kept (a : GReg) : Kept (execHtclr a s) := by
  refine kept_issue h ?_
  dsimp only
  split
  · trivial
  · exact h

theorem execRedlv_kept (d a b : GReg) : Kept (execRedlv d a b s) := by
  refine kept_issue h ?_
  extract_lets st ea dest s1
  split
  · trivial
  · extract_lets a
    split
    · split
      rename_i s2 out hx
      have h2 : Memory.wf s2.mem = true := wf_fst hx (State.perform_wf (s := s1) _ h)
      split
      · extract_lets s3 v
        have h3 : Memory.wf s3.mem = true := by
          unfold s3
          split
          · exact h2
          · exact State.redeliver_wf _ _ h2
        split <;> exact h3
      · exact h2
      · exact h2
    · exact State.issueGroup_wf _ _ h

theorem execCnti_kept (a b : GReg) (keep : Bool) : Kept (execCnti a b keep s) :=
  kept_issue h (State.addCount_wf _ _ _ h)

theorem execCnta_kept (a b : GReg) (rel : Bool) : Kept (execCnta a b rel s) :=
  kept_issue h (State.injecting_kept (State.sendCount_wf _ _ _ _ _ h))

theorem execCntr_kept (d a : GReg) (clr : Bool) : Kept (execCntr d a clr s) := by
  refine kept_issue h (State.putGAnd_kept _ _ ?_)
  split <;> exact h

theorem execQpush_kept (a : GReg) (n : BitVec 2) : Kept (execQpush a n s) := by
  refine kept_issue h (tileOnly_kept ?_)
  dsimp only
  split
  · exact kept_pushes (fun _ e => State.pushStrand_mem e) h
  · exact kept_pushes (fun _ e => State.pushFifo_mem e) h

theorem execQpop_kept (d : GReg) (n : BitVec 2) : Kept (execQpop d n s) := by
  refine kept_issue h (tileOnly_kept ?_)
  split
  · rename_i e; exact State.putGAnd_kept _ _ (State.popWord_mem e ▸ h)
  · trivial

theorem execQpeek_kept (d : GReg) (n : BitVec 2) : Kept (execQpeek d n s) := by
  refine kept_issue h (tileOnly_kept ?_)
  split
  · exact State.putG_kept _ _ h
  · trivial

theorem execCpyq_kept (d a : GReg) (j : BitVec 2) (c : BitVec 3) : Kept (execCpyq d a j c s) := by
  refine kept_issue h (tileOnly_kept ?_)
  split
  · trivial
  · exact State.plainCommand_kept _ _ _ _ _ h

theorem execJwait_kept (d a : GReg) : Kept (execJwait d a s) := by
  refine kept_issue h ?_
  dsimp only
  split
  · trivial
  · exact State.putG_kept _ _ h

theorem execJwaitAll_kept (d : GReg) : Kept (execJwaitAll d s) := by
  refine kept_issue h ?_
  split
  · trivial
  · exact State.putG_kept _ _ h

theorem execJcwait_kept (d a : GReg) (u j : Bool) : Kept (execJcwait d a u j s) := by
  refine kept_issue h ?_
  extract_lets c n s1
  split
  · trivial
  · refine State.putGAnd_kept _ _ ?_
    unfold s1
    split
    · exact h
    · exact h

theorem execArmj_kept (a b : GReg) : Kept (execArmj a b s) := by
  refine kept_issue h (tileOnly_kept ?_)
  dsimp only
  split
  · trivial
  · split
    · exact State.postWatch_wf _ _ h
    · exact h

theorem execMma_kept (d a b : GReg) (z : Bool) (n : BitVec 2) : Kept (execMma d a b z n s) :=
  kept_issue h (tileOnly_kept (State.withComp_kept _ _ fun _ _ _ =>
    State.command_kept _ _ _ _ _ _ (fun _ _ hx => wf_mem (State.enqueue_mem ..) hx) h))

theorem execMmag_kept (d a b : GReg) (z : Bool) (n : BitVec 2) : Kept (execMmag d a b z n s) :=
  kept_issue h (tileOnly_kept (State.withComp_kept _ _ fun _ _ _ =>
    State.command_kept _ _ _ _ _ _ (fun _ _ hx => wf_mem (State.offerNext_mem ..) hx) h))

theorem execMst_kept (d a b : GReg) (sc : Bool) (f : BitVec 3) (n : BitVec 2) : Kept (execMst d a b sc f n s) :=
  kept_issue h (tileOnly_kept (State.withComp_kept _ _ fun _ _ _ =>
    State.command_kept _ _ _ _ _ _ (fun _ _ hx => wf_mem (State.enqueue_mem ..) hx) h))

theorem execMscl_kept (a b : GReg) (n : BitVec 2) : Kept (execMscl a b n s) := by
  refine kept_issue h (tileOnly_kept ?_)
  dsimp only
  split
  · trivial
  · split
    · exact wf_mem (State.stage_mem ..) h
    · split
      · trivial
      · split
        · trivial
        · split
          · trivial
          · split
            · trivial
            · trivial
            · have hi l p : Memory.wf (s.issueGroup l p).mem = true := State.issueGroup_wf l p h
              split
              · exact wf_mem (State.stage_mem ..) (hi _ _)
              · exact hi _ _

theorem execGload_kept (d a b : GReg) : Kept (execGload d a b s) :=
  kept_issue h (tileOnly_kept (State.withComp_kept _ _ fun _ _ _ =>
    State.command_kept _ _ _ _ _ _ (fun _ _ hx => wf_mem (State.modFabric_mem ..) hx) h))

theorem execGbind_kept (d a : GReg) : Kept (execGbind d a s) := by
  refine kept_issue h (tileOnly_kept ?_)
  dsimp only
  split
  · trivial
  · split
    · trivial
    · split
      · trivial
      · exact State.graphCmd_kept _ _ h

theorem execGstat_kept (d : GReg) (x c : Bool) : Kept (execGstat d x c s) := by
  refine kept_issue h (tileOnly_kept (State.putGAnd_kept _ _ ?_))
  split
  · exact h
  · exact wf_mem (State.modFabric_mem ..) h

theorem execCplb_kept (a b : GReg) : Kept (execCplb a b s) := by
  refine kept_issue h (tileOnly_kept (State.couple_kept fun x hx => ?_))
  have h' : Memory.wf x.mem = true := hx ▸ h
  dsimp only
  split
  · exact h'
  · split
    · trivial
    · split
      · trivial
      · exact wf_mem (State.updateHold_mem ..) h'

theorem execCplr_kept (d a : GReg) (sel : BitVec 2) : Kept (execCplr d a sel s) :=
  kept_issue h (tileOnly_kept (State.couple_kept fun _ hx => State.putG_kept _ _ (hx ▸ h)))

theorem execCplu_kept (a b : GReg) (rst : Bool) : Kept (execCplu a b rst s) := by
  refine kept_issue h (tileOnly_kept (State.couple_kept fun x hx => ?_))
  have h' : Memory.wf x.mem = true := hx ▸ h
  dsimp only
  split
  · trivial
  · split
    · trivial
    · exact h'

theorem execWgt_kept (a : GReg) : Kept (execWgt a s) := by
  refine kept_issue h (tileOnly_kept (State.couple_kept fun x hx => ?_))
  dsimp only
  split
  · trivial
  · exact wf_mem hx h

theorem execSysr_kept (d : GReg) (r : BitVec 12) : Kept (execSysr d r s) := by
  refine kept_issue h ?_
  split
  · trivial
  · split
    · trivial
    · exact State.putG_kept _ _ h

theorem execSysw_kept (a : GReg) (r : BitVec 12) : Kept (execSysw a r s) := by
  refine kept_issue h ?_
  dsimp only
  split
  · trivial
  · split
    · trivial
    · split
      · trivial
      · split
        · exact h
        · split <;> exact h

theorem execResume_kept (a : GReg) : Kept (execResume a s) := by
  refine kept_issue h ?_
  dsimp only
  split
  · trivial
  · exact State.injecting_kept (wf_mem (State.inject_mem ..) h)

theorem execProbe_kept (d a : GReg) : Kept (execProbe d a s) := by
  refine kept_issue h ?_
  dsimp only
  show Memory.wf (if _ then _ else _ : State).mem = true
  split <;> exact h

theorem execGwtake_kept (d : GReg) : Kept (execGwtake d s) := by
  refine kept_issue h ?_
  split
  · trivial
  · dsimp only
    split
    · trivial
    · split
      · trivial
      · split
        · exact wf_mem (State.descPoison_mem ..) h
        · have hp (t : Target) : Memory.wf (s.peek t 0 8).1.mem = true := wf_mem (State.peek_mem ..) h
          split
          · exact hp _
          · exact State.putGAnd_kept _ _ (hp _)

theorem execGwdone_kept (a : GReg) : Kept (execGwdone a s) := by
  refine kept_issue h ?_
  dsimp only
  split
  · trivial
  · split
    · trivial
    · split
      · trivial
      · split
        · trivial
        · split
          · exact wf_mem (State.descPoison_mem ..) h
          · exact State.issueGroup_wf _ _ (State.gwCount_wf _ _ (wf_mem (State.peek_mem ..) h))

theorem execVqpush_kept (a : WReg) (m : MReg) (n : BitVec 2) : Kept (execVqpush a m n s) :=
  kept_issue h (tileOnly_kept (kept_pushes (fun _ e => State.pushFifo_mem e) h))

theorem execVqpop_kept (d : WReg) (m : MReg) (t : VType) (n : BitVec 2) : Kept (execVqpop d m t n s) := by
  refine kept_issue h (tileOnly_kept ?_)
  dsimp only
  split
  · trivial
  · exact wf_mem (State.outPop_mem ..) h

end

/-! ### The events of the units -/

theorem kept_packet {s : State} {k : Nat} {f : State → Packet → State}
    (hf : ∀ x p, Memory.wf x.mem = true → Memory.wf (f x p).mem = true) (h : Memory.wf s.mem = true) :
    Kept (.next (s.deliverPacket k f)) := kept_next (State.deliverPacket_wf k f hf h)

/-- An event that acts on a condition and else does nothing. -/
theorem kept_ite {s x : State} {c : Prop} [Decidable c] (h : Memory.wf s.mem = true)
    (hx : Memory.wf x.mem = true) : Kept (.next (if c then s else x)) := by
  refine kept_next ?_
  split
  · exact h
  · exact hx

section
variable {s : State} (h : Memory.wf s.mem = true)
include h

theorem execMessageArrival_kept (k : Nat) : Kept (execMessageArrival k s) := by
  refine kept_packet (fun x p hx => ?_) h
  split
  · exact State.arrive_wf _ _ hx
  · exact h

theorem execReplyArrival_kept (k : Nat) : Kept (execReplyArrival k s) := by
  refine kept_packet (fun x p hx => ?_) h
  split
  · exact State.arriveReply_wf _ _ hx
  · exact h

theorem execCounterIncrement_kept (k : Nat) : Kept (execCounterIncrement k s) := by
  refine kept_packet (fun x p hx => ?_) h
  split
  · dsimp only
    split
    · exact State.undeliverable_wf _ _ _ hx
    · split
      · exact State.undeliverable_wf _ _ _ hx
      · exact State.addCount_wf _ _ _ hx
  · exact h

theorem execCoreFreeze_kept (k : Nat) : Kept (execCoreFreeze k s) := by
  refine kept_packet (fun x p hx => ?_) h
  split
  · refine State.acknowledge_wf _ _ ?_
    split
    · exact State.freezeCore_wf _ hx
    · exact hx
  · exact h

theorem execCoreUnfreeze_kept (k : Nat) : Kept (execCoreUnfreeze k s) := by
  refine kept_packet (fun x p hx => ?_) h
  split
  · dsimp only
    split
    · exact State.acknowledge_wf _ _ hx
    · split
      · exact h
      · exact State.acknowledge_wf _ _ (State.unfreezeCore_wf _ hx)
  · exact h

theorem execResumePacket_kept (k : Nat) : Kept (execResumePacket k s) := by
  refine kept_packet (fun x p hx => ?_) h
  split
  · exact State.resumeAt_wf _ _ _ hx
  · exact h

theorem execCaptureComplete_kept (n : Nat) : Kept (execCaptureComplete n s) :=
  kept_ite (State.capture_wf _ h) h

theorem execCopy_kept (q : Nat) : Kept (execCopy q s) := by
  refine kept_next (State.startPacket_wf _ _ _ (fun ws => ?_) h)
  dsimp only
  split
  · exact wf_mem (State.queueError_mem ..) h
  · exact wf_mem (State.runPacket_mem ..) h

theorem execSignal_kept (q : Nat) : Kept (execSignal q s) := by
  refine kept_next (State.startPacket_wf _ _ _ (fun ws => ?_) h)
  dsimp only
  split
  · exact wf_mem (State.queueError_mem ..) h
  · split
    · exact wf_mem (State.queueError_mem ..) h
    · have h' : Memory.wf (if pw ws 3 % 4 = 1 then s.agateRead (s.queue q).ctx.toNat (pw ws 1) 8
          else (s, some (leBytes 8 0))).1.mem = true := by
        split
        · exact State.agateRead_wf _ _ _ h
        · exact h
      split
      · exact wf_mem (State.queueError_mem ..) h
      · split
        · rename_i e; exact wf_mem (State.passPacket_mem ..) (State.agateWrite_wf h' e)
        · exact wf_mem (State.queueError_mem ..) h

theorem execCond_kept (q : Nat) : Kept (execCond q s) :=
  kept_ite h (State.startPacket_wf _ _ _ (fun _ => State.cond_wf _ _ h) h)

theorem execCondRetest_kept (q : Nat) : Kept (execCondRetest q s) := by
  refine kept_next ?_
  split
  · exact h
  · split
    · exact h
    · exact State.startPacket_wf _ _ _ (fun _ => State.cond_wf _ _ h) h

theorem execKernelStop_kept (c : Nat) : Kept (execKernelStop c s) :=
  kept_ite (wf_mem (State.kernelStop_mem ..) h) h

theorem execCreate_kept (c : Nat) : Kept (execCreate c s) := by
  refine kept_next (State.ctxCommand_wf _ _ _ ?_ h)
  dsimp only
  split
  · exact wf_mem (State.startCommand_mem ..) h
  · exact wf_mem (State.startCommand_mem ..) h

theorem execPreempt_kept (c : Nat) : Kept (execPreempt c s) := by
  refine kept_next (State.ctxCommand_wf _ _ _ ?_ h)
  split
  · exact wf_mem (State.startCommand_mem ..) h
  · split
    · exact wf_mem (State.startCommand_mem ..) h
    · refine wf_mem ?_ h
      rw [State.control_mem, State.modCtx_mem, State.startCommand_mem, State.keepRecords_mem]

theorem execUnfreeze_kept (c : Nat) : Kept (execUnfreeze c s) := by
  refine kept_next (State.ctxCommand_wf _ _ _ ?_ h)
  split
  · exact wf_mem (State.startCommand_mem ..) h
  · refine wf_mem ?_ h
    rw [State.control_mem, State.modCtx_mem, State.startCommand_mem]

theorem execVacate_kept (c : Nat) : Kept (execVacate c s) := by
  refine kept_next (State.ctxCommand_wf _ _ _ ?_ h)
  split
  · split
    · exact wf_mem (State.startCommand_mem ..) h
    · exact wf_mem (State.startCommand_mem s c 0 .vacate) h
  · exact wf_mem (State.startCommand_mem ..) h

theorem execRestore_kept (c : Nat) : Kept (execRestore c s) := by
  refine kept_next (State.ctxCommand_wf _ _ _ ?_ h)
  split
  · exact wf_mem (State.startCommand_mem ..) h
  · dsimp only
    have h1 (l : List (Nat × Target)) : Memory.wf (l.foldl (fun (s : State) (e : Nat × Target) =>
        s.targetCorrect c e.2 0 65536) s).mem = true :=
      wf_foldl _ (fun _ _ hx => State.targetCorrect_wf _ _ _ _ hx) _ h
    split
    · refine wf_mem (State.startCommand_mem ..)
        (wf_foldl _ (fun _ _ hx => State.wakeTile_wf _ hx) _ (wf_foldl _ (fun _ _ hx => ?_) _ (h1 _)))
      exact wf_mem (State.restoreTile_mem ..) hx
    · exact wf_mem (State.startCommand_mem ..) (h1 _)

theorem execClearf_kept (c : Nat) : Kept (execClearf c s) :=
  kept_next (State.ctxCommand_wf _ _ _ (wf_mem (State.startCommand_mem ..) h) h)

theorem execDestroy_kept (c : Nat) : Kept (execDestroy c s) := by
  refine kept_next (State.ctxCommand_wf _ _ _ ?_ h)
  have hd : (((s.startCommand c 0 .destroy).modCtx c fun k => { k with st := .destroying }).failWaiting c).mem
      = s.mem := by
    rw [State.failWaiting_mem, State.modCtx_mem, State.startCommand_mem]
  dsimp only
  split
  · refine wf_mem ?_ (wf_mem hd h)
    rw [State.control_mem, State.modCtx_mem, State.keepRecords_mem]
  · exact wf_mem hd h

theorem execKeyWrite_kept (slot : Nat) (key : BitVec 512) : Kept (execKeyWrite slot key s) := kept_ite h h

theorem execJobStart_kept (core slot : Nat) : Kept (execJobStart core slot s) :=
  kept_ite (State.gloadStart_wf _ _ h) (State.jobStart_wf _ _ h)

theorem execJobComplete_kept (core slot : Nat) : Kept (execJobComplete core slot s) := by
  refine kept_next ?_
  split
  · exact State.jobComplete_wf _ _ h
  · split
    · exact State.gloadComplete_wf _ _ h
    · exact State.matrixComplete_wf _ _ h

theorem execArrayOperation_kept (t : Nat) : Kept (execArrayOperation t s) := by
  refine kept_next ?_
  have hs : Memory.wf (s.supply t).mem = true := State.supply_wf t h
  split
  · exact hs
  · have hw (l : List ArrayOp) : Memory.wf (l.foldl (fun (s : State) o => s.workOp t o) (s.supply t)).mem = true :=
      wf_foldl _ (fun _ _ hx => State.workOp_wf _ _ hx) _ hs
    dsimp only
    split
    · exact State.runOp_wf _ _ (hw _)
    · exact hw _

theorem execMmagOffer_kept (k : Nat) : Kept (execMmagOffer k s) := by
  refine kept_packet (fun x p hx => ?_) h
  split
  · refine wf_mem (State.inject_mem ..) ?_
    show Memory.wf (if _ then _ else _ : State).mem = true
    split
    · exact wf_mem (State.takePart_mem ..) hx
    · exact hx
  · exact hx

theorem execMmagReoffer_kept (core slot : Nat) : Kept (execMmagReoffer core slot s) := by
  refine kept_next ?_
  split
  · split
    · exact wf_mem (State.offerNext_mem ..) h
    · exact h
  · exact h

theorem execMmagStart_kept (k : Nat) : Kept (execMmagStart k s) := by
  refine kept_packet (fun x p hx => ?_) h
  split
  · refine wf_mem ?_ hx
    rw [State.modJob_mem, State.modPart_mem]
  · exact hx

theorem execMmagCredit_kept (k : Nat) : Kept (execMmagCredit k s) := by
  refine kept_packet (fun x p hx => ?_) h
  split
  · exact State.supply_wf _ hx
  · exact hx

theorem execMmagStep_kept (k : Nat) : Kept (execMmagStep k s) := by
  refine kept_packet (fun x p hx => ?_) h
  split
  · extract_lets y old
    split
    · exact wf_mem (State.sendCredit_mem ..) hx
    · refine wf_mem ?_ hx
      rw [State.advancePart_mem, State.modPart_mem]
  · exact hx

theorem execMmagReport_kept (k : Nat) : Kept (execMmagReport k s) := by
  refine kept_packet (fun x p hx => ?_) h
  split
  · refine wf_mem ?_ hx
    rw [State.modJob_mem, State.modMmag_mem]
  · exact hx

theorem execMmagAcceptance_kept (k : Nat) : Kept (execMmagAcceptance k s) := by
  refine kept_packet (fun x p hx => ?_) h
  split
  · split
    · refine wf_mem ?_ hx
      rw [State.offerNext_mem, State.modMmag_mem]
    · exact wf_mem (State.modMmag_mem ..) hx
  · exact hx

theorem execChainEntry_kept (k : Nat) : Kept (execChainEntry k s) := by
  refine kept_packet (fun x p hx => ?_) h
  split
  · exact wf_mem (State.modFabric_mem ..) hx
  · exact hx

theorem execChainBindRequest_kept (k : Nat) : Kept (execChainBindRequest k s) := by
  refine kept_packet (fun x p hx => ?_) h
  split
  · refine wf_mem (State.inject_mem ..) ?_
    show Memory.wf (if _ then _ else _ : State).mem = true
    split
    · exact wf_mem (State.modFabric_mem ..) hx
    · exact hx
  · exact hx

theorem execChainBindAnswer_kept (k : Nat) : Kept (execChainBindAnswer k s) := by
  refine kept_packet (fun x p hx => ?_) h
  split
  · dsimp only
    split
    · have hp : Memory.wf (x.popCmd p.dst).mem = true := wf_mem (State.popCmd_mem ..) hx
      refine State.graphRun_wf _ ?_
      split
      · exact State.give_wf _ _ (wf_mem (State.modFabric_mem ..) hp)
      · exact State.give_wf _ _ hp
    · exact hx
  · exact hx

theorem execChainCredit_kept (k : Nat) : Kept (execChainCredit k s) := by
  refine kept_packet (fun x p hx => ?_) h
  split
  · exact wf_mem (State.modFabric_mem ..) hx
  · exact hx

theorem execConfigError_kept (t slot region : Nat) (double : Bool) :
    Kept (execConfigError t slot region double s) := by
  refine kept_next ?_
  split
  · exact h
  · split
    · exact wf_mem (State.modFabric_mem ..) h
    · split
      · exact h
      · exact State.event_wf _ _ _ _ _ _ _ (wf_mem (State.freeAddr_mem ..) h)

theorem execSignaturePass_kept (t : Nat) (bad : List Nat) : Kept (execSignaturePass t bad s) := by
  refine kept_next ?_
  split
  · exact h
  · split
    · exact wf_mem (State.modFabric_mem ..) h
    · exact wf_mem (State.modFabric_mem ..) h

theorem execLoopSample_kept (t k : Nat) : Kept (execLoopSample t k s) :=
  kept_ite (State.sampleLoop_wf _ _ h) h

theorem execTinv_kept (v : Word) : Kept (execTinv v s) := kept_ite h h

theorem execInvalidationComplete_kept : Kept (execInvalidationComplete s) := kept_ite h h

theorem execLeaseOffer_kept (i : Nat) : Kept (execLeaseOffer i s) := kept_ite h h

theorem execLeaseGrant_kept (i : Nat) : Kept (execLeaseGrant i s) := by
  refine kept_ite h ?_
  dsimp only
  split <;> exact h

theorem execLeaseRevoke_kept (side : LeaseSide) (i : Nat) : Kept (execLeaseRevoke side i s) :=
  kept_ite h (wf_mem (State.revoking_mem s side i) h)

theorem execRevocationNotice_kept (side : LeaseSide) (i : Nat) : Kept (execRevocationNotice side i s) :=
  kept_ite (wf_mem (State.revoking_mem s side i) h) h

theorem execBorrowerRevoked_kept (i : Nat) : Kept (execBorrowerRevoked i s) := kept_ite h h

theorem execLeaseAccess_kept (i peer off : Nat) (op : PeerOp) : Kept (execLeaseAccess i peer off op s) := by
  refine kept_next ?_
  split
  · exact h
  · exact h
  · exact State.peerPerform_wf _ _ h

theorem execRefreshManagement_kept (stack bank : Nat) : Kept (execRefreshManagement stack bank s) := kept_ite h h

theorem execGroupBuild_kept (u gid : Nat) : Kept (execGroupBuild u gid s) :=
  kept_ite (wf_mem (State.groupBuild_mem ..) h) h

theorem execGroupCommit_kept (u gid : Nat) : Kept (execGroupCommit u gid s) :=
  kept_ite (wf_mem (State.groupCommit_mem ..) h) h

theorem execGroupRevoke_kept (u gid : Nat) : Kept (execGroupRevoke u gid s) :=
  kept_ite (State.groupRevoke_wf _ _ h) h

theorem execGroupFreed_kept (u gid : Nat) : Kept (execGroupFreed u gid s) :=
  kept_ite (wf_mem (State.groupFreed_mem ..) h) h

theorem execGroupPacket_kept (k : Nat) : Kept (execGroupPacket k s) := by
  refine kept_packet (fun x p hx => ?_) h
  split
  · exact State.groupStage_wf _ _ _ _ _ _ _ hx
  · exact h

theorem execDomainMulticast_kept (k : Nat) : Kept (execDomainMulticast k s) := by
  refine kept_packet (fun x p hx => ?_) h
  split
  · exact State.domainMulticast_wf _ _ _ _ _ hx
  · exact h

theorem execUalinkWriteAnswer_kept (m i peer code : Nat) : Kept (execUalinkWriteAnswer m i peer code s) := by
  have hm v : Memory.wf ((s.memberCode m i v).mcastFinish m).mem = true :=
    wf_mem (State.mcastFinish_mem ..) (wf_mem (State.memberCode_mem ..) h)
  refine kept_next ?_
  split
  · exact h
  · split
    · exact hm _
    · split
      · exact h
      · exact hm _

theorem execMulticastTimeout_kept (m i : Nat) : Kept (execMulticastTimeout m i s) := by
  refine kept_next ?_
  split
  · exact h
  · split
    · exact wf_mem (State.mcastFinish_mem ..) (wf_mem (State.memberCode_mem ..) h)
    · exact h

theorem execFlitReceive_kept (l noise : Nat) : Kept (execFlitReceive l noise s) := by
  refine kept_next ?_
  dsimp only
  split
  · exact h
  · split
    · split
      · exact wf_mem (State.flitTaken_mem ..) h
      · exact wf_mem (State.flitBad_mem ..) h
    · split
      · exact h
      · split
        · exact h
        · exact wf_mem (State.flitBad_mem ..) h

theorem execLinkNak_kept (l : Nat) : Kept (execLinkNak l s) := by
  refine kept_ite h ?_
  dsimp only
  split
  · exact wf_mem (State.setLink_mem ..) h
  · exact h

theorem execLinkTrained_kept (l lanes : Nat) : Kept (execLinkTrained l lanes s) :=
  kept_ite h (wf_mem (State.setLink_mem ..) h)

theorem execTrainingTimeout_kept (l : Nat) : Kept (execTrainingTimeout l s) :=
  kept_ite h (wf_mem (State.setLink_mem ..) h)

theorem execLaneFailure_kept (l : Nat) : Kept (execLaneFailure l s) :=
  kept_ite (wf_mem (State.setLink_mem ..) h) h

theorem execPartnerLost_kept (l : Nat) : Kept (execPartnerLost l s) :=
  kept_ite h (wf_mem (State.setLink_mem ..) h)

theorem execLinkRetrain_kept (l : Nat) : Kept (execLinkRetrain l s) :=
  kept_ite h (wf_mem (State.setLink_mem ..) h)

theorem execLinkRetire_kept (l : Nat) : Kept (execLinkRetire l s) :=
  kept_ite h (wf_mem (State.setLink_mem ..) h)

theorem execGatewayEnable_kept (i : Nat) : Kept (execGatewayEnable i s) :=
  kept_ite h (wf_foldl _ (fun _ _ hx => wf_mem (State.gatewayRun_mem ..) hx) _ h)

theorem execGatewayDisable_kept (i : Nat) : Kept (execGatewayDisable i s) :=
  kept_ite h (wf_foldl _ (fun _ _ hx => wf_foldl _ (fun _ _ hy => wf_mem (State.gatewayDrop_mem ..) hy) _ hx) _ h)

theorem execGatewayRestart_kept (i : Nat) (mask : BitVec 16) : Kept (execGatewayRestart i mask s) :=
  kept_ite h (wf_foldl _ (fun _ _ hx => wf_mem (State.gatewayRun_mem ..) hx) _ h)

theorem execFirmwareReset_kept (ok : Bool) (lanes : List (Nat × Nat)) : Kept (execFirmwareReset ok lanes s) := by
  refine kept_ite (State.firmwareReset_wf _ _ h) ?_
  split
  · exact State.updateGoes_wf h
  · exact h

theorem execUpdate_kept : Kept (execUpdate s) := by
  refine kept_next ?_
  split
  · exact h
  · exact h
  · exact h
  · exact State.startUpdate_wf h
  · exact State.startUpdate_wf h

theorem execAttest_kept : Kept (execAttest s) := by
  refine kept_ite h ?_
  split
  · exact h
  · exact wf_mem (State.mgmtResult_mem ..) (State.hostWrite_wf _ _ h)

theorem execPowerPeriod_kept (watts amps peak : Nat) (temps : List Nat) :
    Kept (execPowerPeriod watts amps peak temps s) := by
  refine kept_ite h ?_
  dsimp only
  split
  · exact wf_mem (State.fatal_mem ..) h
  · exact h

theorem execRegisterWrite_kept (r : HostReg) (v : Word) : Kept (execRegisterWrite r v s) := by
  refine kept_next ?_
  split
  · exact wf_mem (State.mgmtWrite_mem ..) h
  · exact wf_mem (State.mgmtWrite_mem ..) h
  · exact wf_mem (State.mgmtWrite_mem ..) h
  · exact State.hostWrite_wf _ _ h
  · split
    · exact State.windowWrite_wf _ _ h
    · exact h

theorem execSoftError_kept (site : SoftSite) (fixed : Bool) : Kept (execSoftError site fixed s) := by
  refine kept_next ?_
  cases site with
  | slice t off =>
    dsimp only
    split
    · exact h
    · exact wf_mem (State.strike_mem ..) h
  | buffer k off =>
    dsimp only
    split
    · exact h
    · exact wf_mem (State.strike_mem ..) h
  | hbm pa =>
    dsimp only
    split
    · exact wf_mem (State.strike_mem ..) h
    · exact h
  | accumulator t slot i j =>
    dsimp only
    split <;> exact h
  | loopSlot t k =>
    dsimp only
    split
    · exact h
    · exact State.faultLoop_wf _ _ h

end

end Sys2Proof.Machine
end

section
/-! SUPPORT. The memory invariant: a step keeps the canonical form of memory (O7). -/

namespace Sys2Proof.Machine

open Sys2Proof

/-! ### Every instruction and every event -/

theorem exec_kept {s : State} (i : Instr) (h : Memory.wf s.mem = true) : Kept (exec i s) := by
  cases i with dsimp only [exec]
  | add | sub | and | or | xor | andn | shl | shr | sar | ror | min | max | minu | maxu | slt | sltu | seq | mul
  | mulh | mulhu | sel => exact State.alu2_kept h _ _ _ _ _
  | div | divu | rem | remu => exact State.divide_kept h _ _ _ _ _ _
  | clz | ctz | popc | addi | andi | ori | xori | slti | sltiu | shli | shri | sari | rori | bfx | bfxu =>
    exact State.alu1_kept h _ _ _ _
  | bfi => exact State.aluKeep_kept h _ _ _ _
  | insh | aupc | psave => exact kept_issue h (State.putG_kept _ _ h)
  | pcmp | pcmpi => exact kept_issue h (State.putP_kept _ _ h)
  | pand | por | pxor | pnot | pmov => exact State.predForm_kept h _ _ _
  | pload => exact kept_issue h h
  | fadd | fsub | fmul | ffma | fmin | fmax | fneg | fabs | fcmp | fcvt => exact State.fpForm_kept h _ _ _ _
  | br | call => exact kept_issue h h
  | beq | bne | blt | bge | bltu | bgeu => exact State.compareBranch_kept h _ _ _ _ _
  | bp => exact kept_issue h (State.branch_kept _ _ h)
  | jr | ret => exact kept_issue h (jumpTo_kept _ h)
  | callr => exact kept_issue h (jumpTo_kept _ h)
  | loop => exact execLoop_kept h _ _
  | ldb | ldh | ldw | ldd | ldbu | ldhu | ldwu | ldx => exact State.loadForm_kept h _ _ _ _ _ _
  | stb | sth | stw | std | stx => exact State.storeForm_kept h _ _ _ _ _
  | aadd | aand | aor | axor | amin | amax | aminu | amaxu | aswp | acas | afadd =>
    exact State.atomicForm_kept h _ _ _ _ _ _
  | fence => exact execFence_kept h _ _
  | send | sendr => exact State.sendForm_kept h _ _ _ _ _ _
  | sendl => exact execSendl_kept h _ _ _ _
  | spawn => exact execSpawn_kept h _ _ _
  | reply => exact execReply_kept h _
  | mcast => exact execMcast_kept h _ _ _ _
  | mcastl => exact execMcastl_kept h _ _ _ _ _ _
  | gred => exact execGred_kept h _ _ _
  | endH => exact execEndH_kept h
  | armw => exact execArmw_kept h _ _ _
  | htset => exact execHtset_kept h _ _
  | htclr => exact execHtclr_kept h _
  | redlv => exact execRedlv_kept h _ _ _
  | cnti => exact execCnti_kept h _ _ _
  | cnta => exact execCnta_kept h _ _ _
  | cntr => exact execCntr_kept h _ _ _
  | binit | barr | barrb | bdrop | btest | bbyte => exact kept_issue h (State.barrierAccess_kept _ _ _ _ _ h)
  | bwait => exact kept_issue h (tileOnly_kept (State.barrierAccess_kept _ _ _ _ _ h))
  | qpush => exact execQpush_kept h _ _
  | qpop => exact execQpop_kept h _ _
  | qcnt => exact kept_issue h (tileOnly_kept (State.putG_kept _ _ h))
  | qpeek => exact execQpeek_kept h _ _
  | cpy | cpy2 | cpyf | gath | scat =>
    exact kept_issue h (tileOnly_kept (State.withComp_kept _ _ fun _ _ _ => State.plainCommand_kept _ _ _ _ _ h))
  | cpyq => exact execCpyq_kept h _ _ _ _
  | jpoll => exact kept_issue h h
  | jwait => exact execJwait_kept h _ _
  | jwaitAll => exact execJwaitAll_kept h _
  | jcwait => exact execJcwait_kept h _ _ _ _
  | armj => exact execArmj_kept h _ _
  | mma => exact execMma_kept h _ _ _ _ _
  | mmag => exact execMmag_kept h _ _ _ _ _
  | mst => exact execMst_kept h _ _ _ _ _ _
  | mzr | mzrSt => exact kept_issue h (tileOnly_kept (State.mzrForm_kept _ _ _ _ h))
  | mscl => exact execMscl_kept h _ _ _
  | gload => exact execGload_kept h _ _ _
  | gswap | gswapKeep | gdrain => exact kept_issue h (tileOnly_kept (State.graphCmd_kept _ _ h))
  | gbind => exact execGbind_kept h _ _
  | gstat => exact execGstat_kept h _ _ _
  | cplb => exact execCplb_kept h _ _
  | cplr => exact execCplr_kept h _ _ _
  | cplu => exact execCplu_kept h _ _ _
  | wgt => exact execWgt_kept h _
  | sysr => exact execSysr_kept h _ _
  | sysw => exact execSysw_kept h _ _
  | trap | brk => exact kept_issue h h
  | resume => exact execResume_kept h _
  | probe => exact execProbe_kept h _ _
  | gwtake => exact execGwtake_kept h _
  | gwdone => exact execGwdone_kept h _
  | vadd | vsub | vmul | vfma | vmin | vmax | vabs | vneg => exact State.arithForm_kept h _ _ _ _ _ _ _ _ _ _
  | vand | vor | vxor | vshl | vshr | vsar => exact State.logicForm_kept h _ _ _ _ _ _ _
  | vmov | vbcast | vaddq | vshuf | vperm => exact State.laneForm_kept h _ _ _ _ _ _
  | vcmp | vsel | vins | vtopk | vrng | rngseed | vscan => exact kept_issue h h
  | vred => exact kept_issue h h
  | vext | mpop => exact kept_issue h (State.putG_kept _ _ h)
  | mand | mor | mnot => exact State.maskForm_kept h _ _ _
  | vld | vlds | vgth => exact kept_issue h (State.vecLoad_kept _ _ _ _ _ h)
  | vst | vsct => exact kept_issue h (State.vecStore_kept _ _ _ _ _ h)
  | vqpush => exact execVqpush_kept h _ _ _
  | vqpop => exact execVqpop_kept h _ _ _ _
  | vcvt | vtorns => exact State.runForm_kept h _ _ _ _ _ _ _ _
  | vfrns | vqnt => exact State.positionForm_kept h _ _ _ _ _ _ _ _
  | vexp2 | vlog2 | vrcp | vrsq | vtanh | vsig => exact State.sfForm_kept h _ _ _ _ _ _
  | messageArrival k => exact execMessageArrival_kept h k
  | dispatch c => exact kept_next (State.dispatch_wf c h)
  | replyArrival k => exact execReplyArrival_kept h k
  | counterIncrement k => exact execCounterIncrement_kept h k
  | accessRequest k => exact kept_next (State.accessRequest_wf k h)
  | accessReply k p => exact kept_next (State.accessReply_wf k p h)
  | barrierOperation k => exact kept_next (State.barrierOperation_wf k h)
  | barrierDeadlineCheck u => exact kept_next (State.deadlineCheck_wf u h)
  | captureComplete n => exact execCaptureComplete_kept h n
  | sfCompletion c => exact kept_next (State.sfComplete_wf c h)
  | refillRead c l => exact kept_next (State.refillRead_wf c l h)
  | refillLand c l => exact kept_next (State.refillLand_wf c l h)
  | coreFreeze k => exact execCoreFreeze_kept h k
  | coreUnfreeze k => exact execCoreUnfreeze_kept h k
  | resumePacket k => exact execResumePacket_kept h k
  | doorbell q v => exact kept_next (wf_mem (State.doorbell_mem ..) h)
  | queueEnable q v => exact kept_next (wf_mem (State.queueEnable_mem ..) h)
  | queueDisable q v => exact kept_next (wf_mem (State.queueDisable_mem ..) h)
  | nop q => exact kept_next (State.startPacket_wf _ _ _ (fun _ => wf_mem (State.passPacket_mem ..) h) h)
  | launch q => exact kept_next (State.startPacket_wf _ _ _ (fun _ => wf_mem (State.launch_mem ..) h) h)
  | copy q => exact execCopy_kept h q
  | signal q => exact execSignal_kept h q
  | cond q => exact execCond_kept h q
  | condRetest q => exact execCondRetest_kept h q
  | packetComplete q k => exact kept_next (State.packetComplete_wf q k h)
  | placement c => exact kept_next (wf_mem (State.place_mem ..) h)
  | kernelLoaded c => exact kept_next (State.kernelLoaded_wf c h)
  | quiescenceWave c => exact kept_next (State.wave_wf c h)
  | retirementComplete c => exact kept_next (State.retirementComplete_wf c h)
  | kernelStop c => exact execKernelStop_kept h c
  | create c => exact execCreate_kept h c
  | preempt c => exact execPreempt_kept h c
  | unfreeze c => exact execUnfreeze_kept h c
  | vacate c => exact execVacate_kept h c
  | restore c => exact execRestore_kept h c
  | clearf c => exact execClearf_kept h c
  | destroy c => exact execDestroy_kept h c
  | contextCommandComplete c => exact kept_next (State.commandComplete_wf c h)
  | keyWrite slot key => exact execKeyWrite_kept h slot key
  | spinelPiece k => exact kept_next (wf_mem (State.spinelPiece_mem ..) h)
  | translationResponse u v => exact kept_next (State.translationResponse_wf u v h)
  | jobStart c k => exact execJobStart_kept h c k
  | jobComplete c k => exact execJobComplete_kept h c k
  | completionPush c k => exact kept_next (wf_mem (State.completionPush_mem ..) h)
  | jobFree c k => exact kept_next (State.jobFree_wf c k h)
  | arrayOperation t => exact execArrayOperation_kept h t
  | mmagOffer k => exact execMmagOffer_kept h k
  | mmagReoffer c k => exact execMmagReoffer_kept h c k
  | mmagStart k => exact execMmagStart_kept h k
  | mmagCredit k => exact execMmagCredit_kept h k
  | mmagStep k => exact execMmagStep_kept h k
  | mmagReport k => exact execMmagReport_kept h k
  | fabricAdvance t => exact kept_next (State.fabricAdvance_wf t h)
  | graphDrainDone t => exact kept_next (State.drainDone_wf t h)
  | chainEntry k => exact execChainEntry_kept h k
  | configError t k r d => exact execConfigError_kept h t k r d
  | graphReloadComplete t k => exact kept_next (State.reloadComplete_wf t k h)
  | signaturePass t bad => exact execSignaturePass_kept h t bad
  | loopSample t k => exact execLoopSample_kept h t k
  | loopFault t k => exact kept_next (State.faultLoop_wf t k h)
  | rateCreditRefill t => exact kept_next (State.rateRefill_wf t h)
  | tinv v => exact execTinv_kept h v
  | invalidationComplete => exact execInvalidationComplete_kept h
  | leaseOffer i => exact execLeaseOffer_kept h i
  | leaseGrant i => exact execLeaseGrant_kept h i
  | leaseActivation | leaseAnswer | leaseActivationTimeout | lenderRevoked => exact kept_next h
  | leaseRevoke side i => exact execLeaseRevoke_kept h side i
  | revocationNotice side i => exact execRevocationNotice_kept h side i
  | borrowerRevoked i => exact execBorrowerRevoked_kept h i
  | leaseAccess i p off op => exact execLeaseAccess_kept h i p off op
  | refreshManagement k b => exact execRefreshManagement_kept h k b
  | groupBuild u g => exact execGroupBuild_kept h u g
  | groupCommit u g => exact execGroupCommit_kept h u g
  | groupRevoke u g => exact execGroupRevoke_kept h u g
  | groupFreed u g => exact execGroupFreed_kept h u g
  | groupPacket k => exact execGroupPacket_kept h k
  | domainMulticast k => exact execDomainMulticast_kept h k
  | ualinkWriteAnswer m i p c => exact execUalinkWriteAnswer_kept h m i p c
  | multicastTimeout m i => exact execMulticastTimeout_kept h m i
  | flitReceive l x => exact execFlitReceive_kept h l x
  | linkNak l => exact execLinkNak_kept h l
  | linkTrained l n => exact execLinkTrained_kept h l n
  | trainingTimeout l => exact execTrainingTimeout_kept h l
  | laneFailure l => exact execLaneFailure_kept h l
  | partnerLost l => exact execPartnerLost_kept h l
  | linkRetrain l => exact execLinkRetrain_kept h l
  | linkRetire l => exact execLinkRetire_kept h l
  | portWaitTimeout k => exact kept_next (wf_mem (State.portTimeout_mem ..) h)
  | gatewayEnable i => exact execGatewayEnable_kept h i
  | gatewayDisable i => exact execGatewayDisable_kept h i
  | gatewayRestart i m => exact execGatewayRestart_kept h i m
  | coldReset ok lanes => exact kept_next (State.booted_wf ok lanes (State.cleared_wf false h))
  | firmwareReset ok lanes => exact execFirmwareReset_kept h ok lanes
  | update => exact execUpdate_kept h
  | attest => exact execAttest_kept h
  | powerPeriod w a p ts => exact execPowerPeriod_kept h w a p ts
  | fatalError c => exact kept_next (wf_mem (State.fatal_mem ..) h)
  | registerWrite r v => exact execRegisterWrite_kept h r v
  | softError site fixed => exact execSoftError_kept h site fixed
  | mmagAcceptance k => exact execMmagAcceptance_kept h k
  | chainBindRequest k => exact execChainBindRequest_kept h k
  | chainBindAnswer k => exact execChainBindAnswer_kept h k
  | chainCredit k => exact execChainCredit_kept h k

/-! ### The schedule -/

section
variable {s : State} (h : Memory.wf s.mem = true)
include h

theorem outState_wf {o : Out} (ho : Kept o) : Memory.wf (outState s o).mem = true := by
  cases o with
  | next t => exact ho.wf t rfl
  | fault _ => exact h
  | refused _ => exact h

theorem State.issueHere_kept : Kept s.issueHere := by
  unfold State.issueHere
  split
  · exact kept_next h
  · split
    · exact kept_next (wf_mem (State.raiseFetch_mem ..) h)
    · exact kept_next (State.fetchFar_wf _ h)
    · split
      · exact exec_kept _ h
      · exact kept_next (wf_mem (State.raiseFetch_mem ..) h)

theorem State.issueStrand_kept (n : Nat) : Kept (s.issueStrand n) := by
  unfold State.issueStrand
  split
  · exact State.issueHere_kept (s := s.at_ n) h
  · exact kept_next h

theorem State.settle_wf (n : Nat) : Memory.wf (s.settle n).mem = true := by
  unfold State.settle
  split
  · exact h
  · split
    · exact h
    · exact outState_wf h (State.issueStrand_kept h n)

theorem State.selected_wf (core : Nat) : Memory.wf (s.selected core).1.mem = true :=
  wf_mem (State.select_mem ..) (wf_foldl _ (fun _ _ hx => State.settle_wf hx _) _ h)

theorem State.coreIssue_kept (core : Nat) : Kept (s.coreIssue core) := by
  unfold State.coreIssue
  split
  · exact kept_next h
  · split
    · rename_i e; exact State.issueStrand_kept (wf_fst e (State.selected_wf h core)) _
    · rename_i e; exact kept_next (wf_fst e (State.selected_wf h core))

theorem State.faultFirst_wf (core : Nat) : Memory.wf (s.faultFirst core).mem = true := by
  unfold State.faultFirst
  split
  · exact h
  · split
    · dsimp only
      split
      · exact outState_wf h (State.issueStrand_kept h _)
      · exact h
    · exact h

/-- What falls due is one of the units' events; before a core freezes, the instruction it has begun may fault. -/
theorem State.performDue_kept (d : Due) (a b : Nat) : Kept (s.perform_ d a b) := by
  cases d with
  | coreFreeze =>
    simp only [State.perform_]
    split
    · exact execCoreFreeze_kept (State.faultFirst_wf h _) a
    · exact kept_next h
  | linkNak => exact exec_kept (.linkNak a) h
  | flitReceive => exact exec_kept (.flitReceive a 0) h
  | messageArrival => exact exec_kept (.messageArrival a) h
  | replyArrival => exact exec_kept (.replyArrival a) h
  | counterIncrement => exact exec_kept (.counterIncrement a) h
  | coreUnfreeze => exact exec_kept (.coreUnfreeze a) h
  | resumePacket => exact exec_kept (.resumePacket a) h
  | groupPacket => exact exec_kept (.groupPacket a) h
  | domainMulticast => exact exec_kept (.domainMulticast a) h
  | mmagOffer => exact exec_kept (.mmagOffer a) h
  | mmagAcceptance => exact exec_kept (.mmagAcceptance a) h
  | mmagStart => exact exec_kept (.mmagStart a) h
  | mmagCredit => exact exec_kept (.mmagCredit a) h
  | mmagStep => exact exec_kept (.mmagStep a) h
  | mmagReport => exact exec_kept (.mmagReport a) h
  | chainBindRequest => exact exec_kept (.chainBindRequest a) h
  | chainBindAnswer => exact exec_kept (.chainBindAnswer a) h
  | chainEntry => exact exec_kept (.chainEntry a) h
  | chainCredit => exact exec_kept (.chainCredit a) h
  | accessRequest => exact exec_kept (.accessRequest a) h
  | barrierOperation => exact exec_kept (.barrierOperation a) h
  | portWaitTimeout => exact exec_kept (.portWaitTimeout a) h
  | accessReply => exact exec_kept (.accessReply a .home) h
  | captureComplete => exact exec_kept (.captureComplete a) h
  | sfCompletion => exact exec_kept (.sfCompletion a) h
  | dispatch => exact exec_kept (.dispatch a) h
  | refillLand => exact exec_kept (.refillLand a b) h
  | refillRead => exact exec_kept (.refillRead a b) h
  | mmagReoffer => exact exec_kept (.mmagReoffer a b) h
  | jobStart => exact exec_kept (.jobStart a b) h
  | jobComplete => exact exec_kept (.jobComplete a b) h
  | completionPush => exact exec_kept (.completionPush a b) h
  | jobFree => exact exec_kept (.jobFree a b) h
  | spinelPiece => exact exec_kept (.spinelPiece a) h
  | barrierDeadlineCheck => exact exec_kept (.barrierDeadlineCheck a) h
  | arrayOperation => exact exec_kept (.arrayOperation a) h
  | graphDrainDone => exact exec_kept (.graphDrainDone a) h
  | fabricAdvance => exact exec_kept (.fabricAdvance a) h
  | graphReloadComplete => exact exec_kept (.graphReloadComplete a b) h
  | packetComplete => exact exec_kept (.packetComplete a b) h
  | nop => exact exec_kept (.nop a) h
  | launch => exact exec_kept (.launch a) h
  | copy => exact exec_kept (.copy a) h
  | signal => exact exec_kept (.signal a) h
  | cond => exact exec_kept (.cond a) h
  | condRetest => exact exec_kept (.condRetest a) h
  | placement => exact exec_kept (.placement a) h
  | kernelLoaded => exact exec_kept (.kernelLoaded a) h
  | quiescenceWave => exact exec_kept (.quiescenceWave a) h
  | retirementComplete => exact exec_kept (.retirementComplete a) h
  | contextCommandComplete => exact exec_kept (.contextCommandComplete a) h
  | multicastTimeout => exact exec_kept (.multicastTimeout a b) h
  | leaseActivationTimeout => exact exec_kept (.leaseActivationTimeout a) h
  | borrowerRevoked => exact exec_kept (.borrowerRevoked a) h
  | lenderRevoked => exact exec_kept (.lenderRevoked a false) h
  | trainingTimeout => exact exec_kept (.trainingTimeout a) h
  | invalidationComplete => exact exec_kept (.invalidationComplete) h
  | firmwareReset => exact exec_kept (.firmwareReset true []) h
  | coldReset => exact exec_kept (.coldReset true []) h

theorem State.takeDue_kept (d : Due) (a b : Nat) : Kept (s.takeDue d a b) := by
  unfold State.takeDue
  split
  · exact kept_next h
  · exact State.performDue_kept h d a b

theorem State.eventAct_kept (i : Instr) : Kept (s.event_ i) := by
  unfold State.event_
  split
  · exact kept_next h
  · exact exec_kept i h

theorem State.sampleAll_wf : Memory.wf s.sampleAll.mem = true :=
  wf_foldl _ (fun _ _ hx =>
    have hl := wf_foldl _ (fun _ _ hy => outState_wf hy (execLoopSample_kept hy _ _)) _ hx
    outState_wf hl (kept_next (State.rateRefill_wf _ hl))) _ h

theorem State.tick_wf : Memory.wf s.tick.mem = true := by
  have ha : Memory.wf (if s.alive then s.sampleAll else s).mem = true := by
    split
    · exact State.sampleAll_wf h
    · exact h
  have hp : Memory.wf (if s.alive then s.sampleAll else s).drained.takePorts.mem = true :=
    wf_mem (State.takePorts_mem ..) (State.drained_wf ha)
  unfold State.tick
  refine wf_mem (State.pump_mem ..) (wf_foldl _ (fun x e hx => ?_) _ hp)
  split
  · exact hx
  · exact wf_mem (State.replay_mem ..) hx

theorem State.issueClock_wf : Memory.wf s.issueClock.mem = true := by
  unfold State.issueClock
  have hc (l : List Nat) {x : State} (hx : Memory.wf x.mem = true) :
      Memory.wf (l.foldl (fun s c => outState s (s.coreIssue c)) x).mem = true :=
    wf_foldl _ (fun _ _ hy => outState_wf hy (State.coreIssue_kept hy _)) _ hx
  refine wf_foldl _ (fun _ e hx => ?_) _
    (hc _ (wf_foldl _ (fun _ _ hx => outState_wf hx (State.takeDue_kept hx ..)) _ (hc _ h)))
  exact wf_foldl _ (fun _ _ hy => outState_wf hy (State.takeDue_kept hy ..)) _ hx

theorem State.takeAct_kept (a : Act) : Kept (s.takeAct a) := by
  cases a with
  | clock => exact kept_next (State.tick_wf h)
  | core c => exact State.coreIssue_kept h c
  | issueClock => exact kept_next (State.issueClock_wf h)
  | issue n => exact State.issueStrand_kept h n
  | event i => exact State.eventAct_kept h i
  | due d a b => exact State.takeDue_kept h d a b

theorem step_kept : Kept (step s) :=
  State.takeAct_kept (s := s.nextAct.1) (wf_mem (State.nextAct_mem ..) h) _

end

/-- Settles O7: a step runs one instruction, one event of a unit or one clock, and each of these writes memory
through the one function that keeps its form. -/
theorem stepKeepsMemoryForm : Obligations.StepKeepsMemoryForm := by
  unfold Obligations.StepKeepsMemoryForm
  intro s t hs e
  exact (step_kept hs).wf t e

end Sys2Proof.Machine
end

section
/-! SUPPORT. O15: the checks of an access in their order, and the fault at issue of one that fails (R58, R60, R77,
R159 to R162, R165). -/

namespace Sys2Proof.Machine

open Sys2Proof
open Sys2Proof.Claims

/-! ### The check of an access -/

/-- The lowest byte that a range lock of the strand's tile keeps the access from (R77). -/
def State.lockFor (s : State) (n : Nat) (ea : Word) (size : Nat) (need : Need) : Option Nat :=
  lockHit (s.tile (tileOf n)).locks ea.toNat size (need.w || need.atomic)

section
variable {s : State} {n : Nat} {ea : Word} {size align : Nat} {need : Need}

theorem State.checkAccess_misaligned (h : ea.toNat % align ≠ 0) :
    s.checkAccess n ea size align need = .bad .misaligned ea := by
  simp [State.checkAccess, State.checkFor, State.checkLocks, h]

theorem State.checkAccess_unmapped {k : Cause} (ha : ea.toNat % align = 0) (hk : r58Range ea.toNat size = some k) :
    s.checkAccess n ea size align need = .bad k ea := by
  simp [State.checkAccess, State.checkFor, State.checkLocks, ha, hk]

theorem State.checkAccess_unplaced {t off : Nat} (ha : ea.toNat % align = 0) (hr : r58Range ea.toNat size = none)
    (hw : windowOf ea.toNat = some (t, off)) (hp : s.inPlacement (s.ctxOf n) t = false) :
    s.checkAccess n ea size align need = .bad .scratchBounds ea := by
  simp [State.checkAccess, State.checkFor, State.checkLocks, ha, hr, hw, hp]

/-- An address that the strand may reach, of the slices of its placements, its own tile or a page, comes to what its
translation says. -/
theorem State.checkAccess_of_resolve (ha : ea.toNat % align = 0) (hr : r58Range ea.toNat size = none)
    (hg : isGateway n = false) (hw : ∀ t off, windowOf ea.toNat = some (t, off) → s.inPlacement (s.ctxOf n) t = true)
    {t : Target} (ht : s.resolve (s.ctxOf n) (coreOf n) ea.toNat need = .ok t) :
    (s.lockFor n ea size need = none → s.checkAccess n ea size align need = .ok t false) ∧
    (∀ b, s.lockFor n ea size need = some b →
      s.checkAccess n ea size align need = .bad .rangeLock (BitVec.ofNat 64 b)) := by
  have hg' : isGatewayCore (coreOf n) = false := hg
  unfold State.lockFor tileOf
  cases hwin : windowOf ea.toNat with
  | none =>
    cases hal : aliasOf ea.toNat <;>
      constructor <;> intros <;>
      simp_all [State.checkAccess, State.checkFor, State.checkLocks]
  | some w =>
    have hin := hw w.1 w.2 hwin
    constructor <;> intros <;>
      simp_all [State.checkAccess, State.checkFor, State.checkLocks]

theorem State.checkAccess_page (ha : ea.toNat % align = 0) (hr : r58Range ea.toNat size = none)
    (hw : windowOf ea.toNat = none) (hal : aliasOf ea.toNat = none) :
    (s.xlate (s.ctxOf n) ea.toNat need = .absent → s.checkAccess n ea size align need = .bad .pageAbsent ea) ∧
    (s.xlate (s.ctxOf n) ea.toNat need = .denied → s.checkAccess n ea size align need = .bad .pagePermission ea) ∧
    (s.xlate (s.ctxOf n) ea.toNat need = .revoked → s.checkAccess n ea size align need = .bad .leaseRevoked ea) := by
  refine ⟨fun h => ?_, fun h => ?_, fun h => ?_⟩ <;>
    simp [State.checkAccess, State.checkFor, State.checkLocks, State.resolve, ha, hr, hw, hal, h]

end

/-! ### The address map (R58) -/

theorem r58Range_first {va : Nat} {k : Cause} (h : r58 va = some k) (n : Nat) : r58Range va n = some k := by
  simp [r58Range, h]

theorem r58Range_ends {va n : Nat} (h : r58 va = none) (h' : r58 (va + (n - 1)) = none) : r58Range va n = none := by
  simp [r58Range, h, h']

theorem r58_beyond {va : Nat} (h : 0x800000000000 ≤ va) : r58 va = some .pageAbsent := by
  unfold r58; split_ifs <;> first | rfl | omega

theorem r58_hole {va : Nat} (h : (0x7000C0000000 ≤ va ∧ va < 0x7F0000000000) ∨
    (0x7F0000300000 ≤ va ∧ va < 0x800000000000)) : r58 va = some .scratchBounds := by
  unfold r58; split_ifs <;> first | rfl | omega

theorem r58_page {va : Nat} (h : va < 0x700000000000) : r58 va = none := by
  unfold r58; split_ifs <;> first | rfl | omega

theorem r58_alias {off : Nat} (h : off < 0x300000) : r58 (0x7F0000000000 + off) = none := by
  unfold r58; split_ifs <;> first | rfl | omega

theorem r58_slice {t off : Nat} (ht : t < 768) (ho : off < 0x400000) :
    r58 (0x700000000000 + t * 0x400000 + off) = if 0x300000 ≤ off then some .scratchBounds else none := by
  unfold r58
  have hm : (0x700000000000 + t * 0x400000 + off - 0x700000000000) % 0x400000 = off := by omega
  rw [hm]
  split_ifs <;> first | rfl | omega

theorem windowOf_slice {t off : Nat} (ht : t < 768) (ho : off < 0x400000) :
    windowOf (0x700000000000 + t * 0x400000 + off) = some (t, off) := by
  unfold windowOf
  rw [if_pos (by omega), show (0x700000000000 + t * 0x400000 + off - 0x700000000000) / 0x400000 = t by omega,
    show (0x700000000000 + t * 0x400000 + off - 0x700000000000) % 0x400000 = off by omega]

theorem windowOf_outside {va : Nat} (h : va < 0x700000000000 ∨ 0x7000C0000000 ≤ va) : windowOf va = none :=
  if_neg (by omega)

theorem aliasOf_own {off : Nat} (h : off < 0x300000) : aliasOf (0x7F0000000000 + off) = some off := by
  unfold aliasOf
  rw [if_pos (by omega), Nat.add_sub_cancel_left]

theorem aliasOf_below {va : Nat} (h : va < 0x7F0000000000) : aliasOf va = none := if_neg (by omega)

theorem tileOf_eq {n : Nat} (h : isGateway n = false) : tileOf n = coreOf n / 8 := by
  have h' : isGatewayCore (coreOf n) = false := h
  simp [tileOf, tileOfCore, h']

theorem accessChecksInOrder : AccessChecksInOrder := by
  intro s n ea size align need va out hit
  refine ⟨State.checkAccess_misaligned, fun ha h => State.checkAccess_unmapped ha (r58Range_first (r58_beyond h) _),
    fun ha h => State.checkAccess_unmapped ha (r58Range_first (r58_hole h) _), ?_, ?_, ?_, ?_⟩
  · intro t off ht hlo hhi hva ha
    refine State.checkAccess_unmapped ha (r58Range_first ?_ _)
    rw [show ea.toNat = _ from hva, r58_slice ht hhi, if_pos hlo]
  · intro t off ht h0 hsz hva ha
    have hw : windowOf ea.toNat = some (t, off) := by rw [show ea.toNat = _ from hva, windowOf_slice ht (by omega)]
    have hr : r58Range ea.toNat size = none := by
      rw [show ea.toNat = _ from hva]
      refine r58Range_ends ?_ ?_
      · rw [r58_slice ht (by omega), if_neg (by omega)]
      · rw [Nat.add_assoc _ off, r58_slice ht (by omega), if_neg (by omega)]
    refine ⟨State.checkAccess_unplaced ha hr hw, fun hp hg => ?_⟩
    refine State.checkAccess_of_resolve ha hr hg (fun t' off' h' => ?_) (by simp [State.resolve, hw])
    rw [hw] at h'
    cases h'
    exact hp
  · intro off hg h0 hsz hva ha
    have hw : windowOf ea.toNat = none := by rw [show ea.toNat = _ from hva]; exact windowOf_outside (by omega)
    have hal : aliasOf ea.toNat = some off := by rw [show ea.toNat = _ from hva, aliasOf_own (by omega)]
    have hr : r58Range ea.toNat size = none := by
      rw [show ea.toNat = _ from hva]
      refine r58Range_ends (r58_alias (by omega)) ?_
      rw [Nat.add_assoc]
      exact r58_alias (by omega)
    have hg' : isGatewayCore (coreOf n) = false := hg
    refine State.checkAccess_of_resolve ha hr hg (fun _ _ h' => by rw [hw] at h'; cases h') ?_
    simp [State.resolve, hw, hal, hg', tileOf_eq hg]
  · intro ha h0 hsz
    have hr : r58Range ea.toNat size = none := r58Range_ends (r58_page (by omega)) (r58_page (by omega))
    have hw : windowOf ea.toNat = none := windowOf_outside (by omega)
    have hal : aliasOf ea.toNat = none := aliasOf_below (by omega)
    obtain ⟨habs, hden, hrev⟩ := State.checkAccess_page (s := s) (n := n) (need := need) ha hr hw hal
    refine ⟨habs, hden, hrev, fun t ht hg hn => ?_⟩
    refine (State.checkAccess_of_resolve ha hr hg (fun _ _ h' => by rw [hw] at h'; cases h') ?_).1 hn
    simpa [State.resolve, hw, hal] using ht

/-! ### Loads, stores and atomics at issue -/

theorem eaOff_eq (st : Strand) (a : GReg) (i : BitVec 16) :
    eaOff st a i = BitVec.ofInt 64 ((readG st a).toNat + i.toInt) := by
  rw [eaOff, sx, BitVec.signExtend, BitVec.ofInt_add, BitVec.ofInt_natCast, BitVec.ofNat_toNat, BitVec.setWidth_eq]

theorem eaIdx_eq (st : Strand) (a b : GReg) (sc : Bool) (k : Nat) :
    eaIdx st a b sc k =
      BitVec.ofNat 64 ((readG st a).toNat + (readG st b).toNat * (if sc then 2 ^ k else 1)) := by
  apply BitVec.eq_of_toNat_eq
  cases sc <;> simp [eaIdx, Nat.shiftLeft_eq]

theorem State.loadForm_of_canIssue {s : State} {u : List Nat} (h : s.canIssue { g := u } = true) (i : Instr) (d : GReg)
    (ea : Strand → Word) (n : Nat) (sg : Bool) :
    s.loadForm i u d ea n sg = .next (s.finish (s.scalarAccess (ea s.me) n needR .load (some (d, sg)))) :=
  congrArg _ (State.issue_of_canIssue h _ _)

theorem State.storeForm_of_canIssue {s : State} {u : List Nat} (h : s.canIssue { g := u } = true) (i : Instr) (b : GReg)
    (ea : Strand → Word) (n : Nat) :
    s.storeForm i u b ea n =
      .next (s.finish (s.scalarAccess (ea s.me) n needW (.store (leBytes n (readG s.me b).toNat)) none)) :=
  congrArg _ (State.issue_of_canIssue h _ _)

theorem State.atomicForm_of_canIssue {s : State} {d a b : GReg} (h : s.canIssue { g := [d, a, b] } = true) (i : Instr)
    (op : Nat) (wide : Bool) :
    s.atomicForm i op d a b wide = .next (s.finish (s.scalarAccess (readG s.me a) (if wide then 8 else 4)
      { r := true, w := true, atomic := true, hostOk := op == 0 || op == 8 || op == 9 }
      (.atomic op (readG s.me b) (readG s.me d)) (some (d, false)))) :=
  congrArg _ (State.issue_of_canIssue h _ _)

theorem loads_eq (st : Strand) (d a b : GReg) (i : BitVec 16) (sc : Bool) :
    loads st d a b i sc =
      ([ (.ldb d a i, [d, a], eaOff st a i, 1, true), (.ldh d a i, [d, a], eaOff st a i, 2, true),
        (.ldw d a i, [d, a], eaOff st a i, 4, true), (.ldd d a i, [d, a], eaOff st a i, 8, false),
        (.ldbu d a i, [d, a], eaOff st a i, 1, false), (.ldhu d a i, [d, a], eaOff st a i, 2, false),
        (.ldwu d a i, [d, a], eaOff st a i, 4, false),
        (.ldx d a b .b sc, [d, a, b], eaIdx st a b sc 0, 1, true),
        (.ldx d a b .h sc, [d, a, b], eaIdx st a b sc 1, 2, true),
        (.ldx d a b .w sc, [d, a, b], eaIdx st a b sc 2, 4, true),
        (.ldx d a b .d sc, [d, a, b], eaIdx st a b sc 3, 8, false),
        (.ldx d a b .bu sc, [d, a, b], eaIdx st a b sc 0, 1, false),
        (.ldx d a b .hu sc, [d, a, b], eaIdx st a b sc 1, 2, false),
        (.ldx d a b .wu sc, [d, a, b], eaIdx st a b sc 2, 4, false) ] :
        List (Instr × List Nat × Word × Nat × Bool)) := by
  simp [loads, eaOff_eq, eaIdx_eq]

theorem stores_eq (st : Strand) (v a b : GReg) (i : BitVec 16) (sc : Bool) :
    stores st v a b i sc =
      ([ (.stb v a i, [v, a], eaOff st a i, 1), (.sth v a i, [v, a], eaOff st a i, 2),
        (.stw v a i, [v, a], eaOff st a i, 4), (.std v a i, [v, a], eaOff st a i, 8),
        (.stx v a b .b sc, [v, a, b], eaIdx st a b sc 0, 1), (.stx v a b .h sc, [v, a, b], eaIdx st a b sc 1, 2),
        (.stx v a b .w sc, [v, a, b], eaIdx st a b sc 2, 4),
        (.stx v a b .d sc, [v, a, b], eaIdx st a b sc 3, 8) ] : List (Instr × List Nat × Word × Nat)) := by
  simp [stores, eaOff_eq, eaIdx_eq]

theorem exec_load {s : State} {d a b : GReg} {i : BitVec 16} {sc : Bool} {e : Instr × List Nat × Word × Nat × Bool}
    (he : e ∈ loads s.me d a b i sc) (hi : s.canIssue { g := e.2.1 } = true) :
    exec e.1 s = .next (s.finish (s.scalarAccess e.2.2.1 e.2.2.2.1 needR .load (some (d, e.2.2.2.2)))) := by
  simp only [loads_eq, List.mem_cons, List.not_mem_nil, or_false] at he
  rcases he with rfl | rfl | rfl | rfl | rfl | rfl | rfl | rfl | rfl | rfl | rfl | rfl | rfl | rfl
  iterate 7 exact State.loadForm_of_canIssue hi _ d (fun st => eaOff st a i) _ _
  all_goals exact State.loadForm_of_canIssue hi _ d (fun st => eaIdx st a b sc (LdSize.shape _).1) _ _

theorem exec_store {s : State} {v a b : GReg} {i : BitVec 16} {sc : Bool} {e : Instr × List Nat × Word × Nat}
    (he : e ∈ stores s.me v a b i sc) (hi : s.canIssue { g := e.2.1 } = true) :
    exec e.1 s = .next (s.finish
      (s.scalarAccess e.2.2.1 e.2.2.2 needW (.store (leBytes e.2.2.2 (readG s.me v).toNat)) none)) := by
  simp only [stores_eq, List.mem_cons, List.not_mem_nil, or_false] at he
  rcases he with rfl | rfl | rfl | rfl | rfl | rfl | rfl | rfl
  iterate 4 exact State.storeForm_of_canIssue hi _ v (fun st => eaOff st a i) _
  all_goals exact State.storeForm_of_canIssue hi _ v (fun st => eaIdx st a b sc (StSize.log _)) _

/-- R166: the atomics with the number of their operation. -/
def numberedAtomics (d a b : GReg) (wide : Bool) : List (Nat × Instr) :=
  [(0, .aadd d a b wide), (1, .aand d a b wide), (2, .aor d a b wide), (3, .axor d a b wide), (4, .amin d a b wide),
    (5, .amax d a b wide), (6, .aminu d a b wide), (7, .amaxu d a b wide), (8, .aswp d a b wide),
    (9, .acas d a b wide)]

theorem exec_atomic {s : State} {d a b : GReg} {wide : Bool} {op : Nat} {j : Instr}
    (hj : (op, j) ∈ numberedAtomics d a b wide) (hi : s.canIssue { g := [d, a, b] } = true) :
    exec j s = .next (s.finish (s.scalarAccess (readG s.me a) (if wide then 8 else 4) (atomicNeed j)
      (.atomic op (readG s.me b) (readG s.me d)) (some (d, false)))) := by
  simp only [numberedAtomics, List.mem_cons, List.not_mem_nil, or_false, Prod.mk.injEq] at hj
  rcases hj with ⟨rfl, rfl⟩ | ⟨rfl, rfl⟩ | ⟨rfl, rfl⟩ | ⟨rfl, rfl⟩ | ⟨rfl, rfl⟩ | ⟨rfl, rfl⟩ | ⟨rfl, rfl⟩ |
    ⟨rfl, rfl⟩ | ⟨rfl, rfl⟩ | ⟨rfl, rfl⟩ <;>
    exact State.atomicForm_of_canIssue hi _ _ _

theorem numbered_of_atomics {d a b : GReg} {wide : Bool} {o x y : Nat} {e : Instr × Nat × Option Nat}
    (he : e ∈ atomics d a b wide o x y) :
    (∃ op, (op, e.1) ∈ numberedAtomics d a b wide) ∧ e.2.1 = if wide then 8 else 4 := by
  simp only [atomics, List.mem_cons, List.not_mem_nil, or_false] at he
  rcases he with rfl | rfl | rfl | rfl | rfl | rfl | rfl | rfl | rfl | rfl <;>
    simp [numberedAtomics]

theorem State.finish_scalarAccess_bad {s : State} {ea : Word} {n : Nat} {need : Need} {c : Cause} {v : Word}
    (h : s.checkAccess s.cur ea n n need = .bad c v) (kind : AccKind) (dest : Option (GReg × Bool)) :
    s.finish (s.scalarAccess ea n need kind dest) = s.raiseAtIssue s.cur c v := by
  rw [State.scalarAccess, h]
  rfl

theorem failedCheckFaultsAtIssue : FailedCheckFaultsAtIssue := by
  intro s d a b i sc c v
  refine ⟨fun e he hi hc => ?_, fun e he hi hc => ?_, fun wide e he hi hc => ?_⟩
  · rw [exec_load he hi, State.finish_scalarAccess_bad hc]
  · rw [exec_store he hi, State.finish_scalarAccess_bad hc]
  · obtain ⟨⟨op, hop⟩, hn⟩ := numbered_of_atomics he
    rw [hn] at hc
    rw [exec_atomic hop hi, State.finish_scalarAccess_bad hc]

/-- Settles O15: the check of an access by cases of its address, and what issue does with one that fails. -/
theorem accessChecksAndTheirFaults : Obligations.AccessChecksAndTheirFaults :=
  ⟨accessChecksInOrder, failedCheckFaultsAtIssue⟩

end Sys2Proof.Machine
end

section
/-! SUPPORT. O18: accesses whose home is elsewhere are issued, and what FENCE waits for (R68, R69, R125, R162, R168,
R213). -/

namespace Sys2Proof.Machine

open Sys2Proof
open Sys2Proof.Claims

/-! ### A packet sent leaves the issuing strand alone -/

theorem State.inject_cur (s : State) (a b : Nat) (v : Bool) (c : Nat) (l : List Nat) (x : Body) :
    (s.inject a b v c l x).cur = s.cur := by
  unfold State.inject State.route State.sendOn
  split <;> rfl

theorem State.inject_strand (s : State) (a b : Nat) (v : Bool) (c : Nat) (l : List Nat) (x : Body) (n : Nat) :
    (s.inject a b v c l x).strand n = s.strand n := by
  rw [State.strand, State.inject_strands]
  rfl

theorem State.inject_me (s : State) (a b : Nat) (v : Bool) (c : Nat) (l : List Nat) (x : Body) :
    (s.inject a b v c l x).me = s.me := by
  rw [State.me, State.inject_strand, State.inject_cur]
  rfl

theorem State.modMe_congr {s : State} {f g : Strand → Strand} (h : f s.me = g s.me) : s.modMe f = s.modMe g := by
  unfold State.modMe State.modStrand
  exact congrArg (s.setStrand s.cur) h

/-! ### One access issued to a home elsewhere -/

theorem issuedAway_strand (s : State) (a : Access) (p : Bool) (n : Nat) : (issuedAway s a p).strand n = s.strand n := by
  unfold issuedAway
  dsimp only
  split
  · rfl
  · rw [State.inject_strand]; rfl

theorem issuedAway_cur (s : State) (a : Access) (p : Bool) : (issuedAway s a p).cur = s.cur := by
  unfold issuedAway
  dsimp only
  split
  · rfl
  · rw [State.inject_cur]; rfl

theorem issuedAway_me (s : State) (a : Access) (p : Bool) : (issuedAway s a p).me = s.me := by
  rw [State.me, issuedAway_strand, issuedAway_cur]
  rfl

theorem issuedAway_mem (s : State) (a : Access) (p : Bool) : (issuedAway s a p).mem = s.mem := by
  unfold issuedAway
  dsimp only
  split
  · rfl
  · rw [State.inject_mem]; rfl

theorem State.issueGroup_away {s : State} {a : Access} (h : isOwn s.myCore a.target = false) (ht : a.tile = s.myTile)
    (hc : a.ctx = s.myCtx) (p : Option Pend) :
    s.issueGroup [a] p = match p with
      | some p => (issuedAway s a !a.status.open).modMe fun st =>
          { st with pend := st.pend ++ [{ p with id := s.nextId, lc := st.lc }] }
      | none => issuedAway s a !a.status.open := by
  have h' k : isOwn ({ s with nextId := k } : State).myCore a.target = false := h
  unfold State.issueGroup
  cases ho : a.status.open <;> cases p <;>
    simp [State.performOwn, numberFrom, State.sendRequests, gather, issuedAway, h', ho, ht, hc, -State.mk.injEq] <;>
    rfl

theorem accessOf_open (s : State) (ea : Word) (n : Nat) (kind : AccKind) (t : Target) (p : Bool) (dest : Dest) :
    (s.accessOf ea n kind t p dest).status.open = !p := by
  cases p <;> rfl

theorem State.finish_scalarAccess_away {s : State} {ea : Word} {n : Nat} {need : Need} {t : Target} {p : Bool}
    (hc : s.checkAccess s.cur ea n n need = .ok t p) (h : isOwn s.myCore t = false) (kind : AccKind) (d : GReg)
    (sg : Bool) :
    s.finish (s.scalarAccess ea n need kind (some (d, sg))) =
      s.goesOn ((issuedAway s (s.accessOf ea n kind t p (.g d n sg)) p).modMe fun st =>
        { st with pend := st.pend ++ [{ id := s.nextId, g := some d, lc := s.me.lc }] }) := by
  rw [State.scalarAccess, hc]
  simp only [h, Bool.false_and, Bool.false_eq_true, if_false, State.finish_go]
  refine congrArg s.goesOn
    ((State.issueGroup_away (a := s.accessOf ea n kind t p (.g d n sg)) h rfl rfl (some { g := some d })).trans ?_)
  rw [accessOf_open, Bool.not_not]
  exact State.modMe_congr (by rw [issuedAway_me])

theorem State.finish_storeAccess_away {s : State} {ea : Word} {n : Nat} {need : Need} {t : Target} {p : Bool}
    (hc : s.checkAccess s.cur ea n n need = .ok t p) (h : isOwn s.myCore t = false) (kind : AccKind) :
    s.finish (s.scalarAccess ea n need kind none) =
      s.goesOn (issuedAway s (s.accessOf ea n kind t p .none) p) := by
  rw [State.scalarAccess, hc]
  simp only [State.finish_go]
  rw [State.issueGroup_away h rfl rfl none, accessOf_open, Bool.not_not]

/-! ### Going on -/

theorem State.canIssue_issues {s : State} {u : Uses} (h : s.canIssue u = true) : s.me.phase.issues = true := by
  simp only [State.canIssue, Bool.and_eq_true] at h
  exact h.1.1.1

theorem State.goesOn_strand_ne (s u : State) {n : Nat} (h : n ≠ s.cur) : (s.goesOn u).strand n = u.strand n := by
  rcases State.advance_cases u s.cur s.me none false with e | ⟨_, e⟩ <;> rw [State.goesOn, e]
  · exact State.modStrand_strand_ne _ _ _ h
  · rw [(State.raiseAtIssue_onlyStrand _ _ _ _).2 _ h, State.modStrand_strand_ne _ _ _ h]

theorem State.goesOn_mem (s u : State) : (s.goesOn u).mem = u.mem := State.advance_mem ..

theorem State.goesOn_advanced {s u : State} (h : u.me.phase ≠ .faulted) (hc : u.cur = s.cur) :
    Advanced s (s.goesOn u) := by
  constructor
  · rcases State.advance_cases u s.cur s.me none false with e | ⟨_, e⟩ <;> rw [State.goesOn, e]
    · rw [State.modStrand_strand_same]; rfl
    · rw [State.raiseAtIssue_strand, Strand.fault_pc, State.modStrand_strand_same]; rfl
  · intro hs
    rw [State.goesOn, State.advance_of_free _ _ _ _ _ hs, State.modStrand_strand_same, ← hc]
    exact if_neg h

theorem accessesElsewhereAreSent : AccessesElsewhereAreSent := by
  intro s d a b i sc t p ht out sent owed
  refine ⟨fun e he hi hc => ?_, fun e he hi hc => ?_, fun op j hj hi hc => ?_⟩
  · exact (exec_load he hi).trans (congrArg _ (State.finish_scalarAccess_away hc ht _ d _))
  · have hph : s.me.phase ≠ .faulted := by
      intro hp
      have := State.canIssue_issues hi
      rw [hp] at this
      cases this
    refine ⟨_, (exec_store he hi).trans (congrArg _ (State.finish_storeAccess_away hc ht _)), rfl, ?_, ?_, ?_⟩
    · exact State.goesOn_advanced (by rwa [issuedAway_me]) (issuedAway_cur _ _ _)
    · exact fun x => State.byte_of_mem ((State.goesOn_mem _ _).trans (issuedAway_mem _ _ _)) x
    · exact fun n hn => (State.goesOn_strand_ne _ _ hn).trans (issuedAway_strand _ _ _ _)
  · exact (exec_atomic hj hi).trans (congrArg _ (State.finish_scalarAccess_away hc ht _ d _))

/-! ### FENCE -/

theorem State.mem_releaseSet {s : State} {n i : Nat} :
    i ∈ s.releaseSet n ↔ ∃ a, (a ∈ s.acc ∧ a.status = .sent ∧
      ((a.strand = n ∧ a.run = (s.strand n).run) ∨ a.id ∈ (s.strand n).acq)) ∧ a.id = i := by
  simp [State.releaseSet, and_assoc]

/-- An access number is released when no access of that number is still to be performed. -/
theorem State.not_released_iff {s : State} {i : Nat} :
    s.released [i] = false ↔ ∃ a ∈ s.acc, a.id = i ∧ a.status = .sent := by
  simp [State.released]

theorem AccKind.returns_iff {k : AccKind} (h : k.ordered = true) : k.returns = true ↔ ∀ bs, k ≠ .store bs := by
  cases k <;> simp_all [AccKind.returns, AccKind.ordered]

theorem State.outstanding_ordered {s : State} {n : Nat} {a : Access} (h : a ∈ s.outstanding n) :
    a.kind.ordered = true := by
  simp only [State.outstanding, List.mem_filter, Bool.and_eq_true] at h
  exact h.2.2

theorem State.outstanding_returns_iff {s : State} {n : Nat} :
    (s.outstanding n).any (fun a => a.kind.returns) = true ↔ ∃ a ∈ s.outstanding n, ∀ bs, a.kind ≠ .store bs := by
  rw [List.any_eq_true]
  exact exists_congr fun a => and_congr_right fun h => AccKind.returns_iff (State.outstanding_ordered h)

/-- What FENCE waits for at each scope (R168). -/
theorem State.fenceWaits_iff (s : State) (n : Nat) (k : FenceKind) (sc : Scope) :
    let far := (sc = .device ∨ sc = .domain) ∧ k ≠ .acquire
    s.fenceWaits n k sc = true ↔
      (sc ≠ .strand ∧ ∃ a ∈ s.outstanding n, (∀ bs, a.kind ≠ .store bs) ∨ far) ∨ (far ∧ s.releaseSet n ≠ []) := by
  cases sc with
  | strand => simp [State.fenceWaits]
  | core => simpa [State.fenceWaits] using State.outstanding_returns_iff
  | tile => simpa [State.fenceWaits] using State.outstanding_returns_iff
  | device | domain =>
    by_cases hk : k = .acquire
    · simpa [State.fenceWaits, hk] using State.outstanding_returns_iff
    · simp [State.fenceWaits, hk]

theorem State.fenceAcquires_acq (s : State) (i : Nat) :
    i ∈ (s.fenceAcquires.strand s.cur).acq ↔
      (i ∈ s.me.acq ∨ ∃ x ∈ (s.tile s.myTile).fenced, x.1 = i ∧ (x.2 = none ∨ x.2 = some s.myCore)) ∧
        ∃ a ∈ s.acc, a.id = i ∧ a.status = .sent := by
  unfold State.fenceAcquires
  rw [State.strand_modMe_cur]
  simp only [List.mem_filter, List.mem_append, Bool.not_eq_true', State.not_released_iff, List.mem_filterMap,
    Option.ite_none_right_eq_some, Option.some.injEq]
  refine and_congr_left fun _ => ?_
  by_cases hi : i ∈ s.me.acq
  · simp [hi]
  · simp [hi, and_comm]

theorem State.fenceAcquires_strand (s : State) :
    s.fenceAcquires.strand s.cur = { s.me with acq := (s.fenceAcquires.strand s.cur).acq } := by
  unfold State.fenceAcquires
  rw [State.strand_modMe_cur]

theorem State.mem_fenceReleases (s : State) (sc : Scope) (i : Nat) (c : Option Nat) :
    (i, c) ∈ ((s.fenceReleases sc).tile s.myTile).fenced ↔
      ((i, c) ∈ (s.tile s.myTile).fenced ∧ ∃ a ∈ s.acc, a.id = i ∧ a.status = .sent) ∨
      (c = (if sc = .core then some s.myCore else none) ∧ i ∈ s.releaseSet s.cur) := by
  unfold State.fenceReleases
  rw [State.tile_modTile]
  simp only [List.mem_append, List.mem_filter, Bool.not_eq_true', State.not_released_iff, List.mem_map,
    Prod.mk.injEq]
  refine or_congr_right ⟨?_, fun ⟨hc, hi⟩ => ⟨i, hi, rfl, hc.symm⟩⟩
  rintro ⟨j, hj, rfl, rfl⟩
  exact ⟨rfl, hj⟩

/-- The strand of a completed FENCE is changed by what it acquires alone. -/
theorem State.fenced_strand_cur (s : State) (k : FenceKind) (sc : Scope) :
    (s.fenced k sc).strand s.cur =
      (if k = .release ∨ sc = .strand then s else s.fenceAcquires).strand s.cur := by
  unfold State.fenced
  split <;> split <;> rfl

theorem State.fenced_strand_ne (s : State) (k : FenceKind) (sc : Scope) {n : Nat} (h : n ≠ s.cur) :
    (s.fenced k sc).strand n = s.strand n := by
  have ha : s.fenceAcquires.strand n = s.strand n := State.strand_modMe_ne _ _ h
  unfold State.fenced
  split <;> split
  · rfl
  · rfl
  · exact ha
  · exact ha

theorem State.fenced_shape (s : State) (k : FenceKind) (sc : Scope) :
    s.fenced k sc = { s with strands := (s.fenced k sc).strands, tiles := (s.fenced k sc).tiles } := by
  unfold State.fenced
  split <;> split <;> rfl

theorem State.fenced_tile (s : State) (k : FenceKind) (sc : Scope) {w : Nat}
    (h : w ≠ s.myTile ∨ k = .acquire ∨ (sc ≠ .core ∧ sc ≠ .tile)) : (s.fenced k sc).tile w = s.tile w := by
  have ha : s.fenceAcquires.tile w = s.tile w := rfl
  have hr (u : State) (hw : w ≠ u.myTile) : (u.fenceReleases sc).tile w = u.tile w := SMap.get_set_ne _ _ _ hw
  unfold State.fenced
  split <;> split
  · refine hr s ?_
    grind
  · rfl
  · refine (hr s.fenceAcquires ?_).trans ha
    show w ≠ s.myTile
    grind
  · exact ha

theorem State.mem_fenced (s : State) {k : FenceKind} {sc : Scope} (hk : k ≠ .acquire) (hs : sc = .core ∨ sc = .tile)
    (i : Nat) (c : Option Nat) :
    (i, c) ∈ ((s.fenced k sc).tile s.myTile).fenced ↔
      ((i, c) ∈ (s.tile s.myTile).fenced ∧ ∃ a ∈ s.acc, a.id = i ∧ a.status = .sent) ∨
      (c = (if sc = .core then some s.myCore else none) ∧
        ∃ a, a.id = i ∧ (a ∈ s.acc ∧ a.status = .sent ∧
          ((a.strand = s.cur ∧ a.run = s.me.run) ∨ a.id ∈ ((s.fenced k sc).strand s.cur).acq))) := by
  have hset (u : State) (hu : u.acc = s.acc) (hrun : (u.strand s.cur).run = s.me.run) :
      i ∈ u.releaseSet s.cur ↔ ∃ a, a.id = i ∧ (a ∈ s.acc ∧ a.status = .sent ∧
        ((a.strand = s.cur ∧ a.run = s.me.run) ∨ a.id ∈ (u.strand s.cur).acq)) := by
    rw [State.mem_releaseSet, hu, hrun]
    exact exists_congr fun a => and_comm
  rw [State.fenced_strand_cur]
  unfold State.fenced
  rw [if_pos ⟨hk, hs⟩]
  split
  · rw [State.mem_fenceReleases, hset s rfl rfl]
  · have hrun : (s.fenceAcquires.strand s.cur).run = s.me.run := by rw [State.fenceAcquires_strand]
    rw [← hset s.fenceAcquires rfl hrun]
    exact State.mem_fenceReleases s.fenceAcquires sc i c

theorem exec_fence {s : State} (h : s.canIssue {} = true) (k : FenceKind) (sc : Scope) :
    exec (.fence k sc) s =
      .next (if s.fenceWaits s.cur k sc then s.holdAt s.cur .fence else s.goesOn (s.fenced k sc)) := by
  refine congrArg _ ((State.issue_of_canIssue h _ _).trans ?_)
  split <;> rfl

theorem fenceWaitsForEarlierAccesses : FenceWaitsForEarlierAccesses := by
  intro s k sc hi mine far unperformed wait open_
  have hw : s.fenceWaits s.cur k sc = true ↔ wait := by
    refine (State.fenceWaits_iff s s.cur k sc).trans (or_congr_right (and_congr_right fun _ => ?_))
    constructor
    · intro h
      obtain ⟨i, hi⟩ := List.exists_mem_of_ne_nil _ h
      obtain ⟨a, ha, _⟩ := State.mem_releaseSet.1 hi
      exact ⟨a, ha⟩
    · rintro ⟨a, ha⟩
      exact List.ne_nil_of_mem (State.mem_releaseSet.2 ⟨a, ha, rfl⟩)
  refine ⟨fun h => ?_, fun h => ?_⟩
  · rw [exec_fence hi, if_pos (hw.2 h)]
    rfl
  · refine ⟨s.fenced k sc, ?_, State.fenced_shape s k sc, fun n hn => State.fenced_strand_ne s k sc hn, ?_, ?_, ?_,
      fun w hw => State.fenced_tile s k sc hw, fun hk hs i c => State.mem_fenced s hk hs i c⟩
    · rw [exec_fence hi, if_neg (mt hw.1 h)]
    · rw [State.fenced_strand_cur]
      split
      · rfl
      · exact State.fenceAcquires_strand s
    · intro hk
      rw [State.fenced_strand_cur, if_pos hk]
      rfl
    · intro hk hs i
      rw [State.fenced_strand_cur, if_neg (not_or.2 ⟨hk, hs⟩)]
      exact State.fenceAcquires_acq s i

/-- Settles O18: an access issued to a home elsewhere, and FENCE with what it acquires and releases. -/
theorem accessesElsewhereAndFences : Obligations.AccessesElsewhereAndFences :=
  ⟨accessesElsewhereAreSent, fenceWaitsForEarlierAccesses⟩

end Sys2Proof.Machine
end

section
/-! SUPPORT. O21: RESUME, the return from a fault, and what the image of a strand holds (R82, R121, R129, R403, R407,
R420). -/

namespace Sys2Proof.Machine

open Sys2Proof
open Sys2Proof.Claims

/-! ### RESUME -/

theorem State.strandPlaced_iff (s : State) (c n : Nat) :
    s.strandPlaced c n = true ↔ isGateway n = false ∧
      ((s.ctx c).kst = .running ∨ (s.ctx c).kst = .draining) ∧ (s.ctx c).covers (tileOf n) = true := by
  simp [State.strandPlaced, Ctx.delivers, and_assoc]

section
variable {s : State} {a : GReg} (h : s.canIssue { g := [a] } = true)
include h

theorem exec_resume_sent (hp : s.strandPlaced s.myCtx ((readG s.me a).toNat % 2 ^ 15) = true)
    (ht : s.portTakes s.myTile true = true) :
    exec (.resume a) s = .next (s.goesOn ((s.source s.myCtx).inject s.myTile
      (tileOf ((readG s.me a).toNat % 2 ^ 15)) true s.myCtx (s.releaseSet s.cur) (.resume (readG s.me a) s.myCtx))) :=
  congrArg _ ((State.issue_of_canIssue h _ _).trans (by
    simp only [hp, ht, State.injecting, Bool.not_true, Bool.false_eq_true, if_false, if_true, State.finish_go]))

theorem exec_resume_held (hp : s.strandPlaced s.myCtx ((readG s.me a).toNat % 2 ^ 15) = true)
    (ht : s.portTakes s.myTile true = false) : exec (.resume a) s = .next (s.holdAt s.cur .injection) :=
  congrArg _ ((State.issue_of_canIssue h _ _).trans (by
    simp only [hp, ht, State.injecting, Bool.not_true, Bool.false_eq_true, if_false, State.finish_hold]))

theorem exec_resume_unplaced (hp : s.strandPlaced s.myCtx ((readG s.me a).toNat % 2 ^ 15) = false) :
    exec (.resume a) s = .next (s.raiseAtIssue s.cur .illegalCombination (readG s.me a)) :=
  congrArg _ ((State.issue_of_canIssue h _ _).trans (by
    simp only [hp, Bool.not_false, if_true, State.finish_trap]))

end

theorem State.inject_acc (s : State) (a b : Nat) (v : Bool) (c : Nat) (l : List Nat) (x : Body) :
    (s.inject a b v c l x).acc = s.acc := by
  unfold State.inject State.route State.sendOn
  split <;> rfl

theorem State.goesOn_acc (s u : State) : (s.goesOn u).acc = u.acc := by
  rcases State.advance_cases u s.cur s.me none false with e | ⟨_, e⟩ <;> rw [State.goesOn, e] <;> rfl

theorem State.canIssue_not_faulted {s : State} {u : Uses} (h : s.canIssue u = true) : s.me.phase ≠ .faulted := by
  intro hp
  have hi := State.canIssue_issues h
  rw [hp] at hi
  cases hi

theorem resumeSendsControlPacket : ResumeSendsControlPacket := by
  intro s a hi v n c placed
  have hs : s.strandPlaced s.myCtx n = true ↔ placed := State.strandPlaced_iff s s.myCtx n
  refine ⟨fun hp ht => ⟨_, exec_resume_sent hi (hs.2 hp) ht, rfl, ?_, ?_, ?_, ?_⟩,
    fun hp ht => exec_resume_held hi (hs.2 hp) ht,
    fun hp => exec_resume_unplaced hi (Bool.eq_false_iff.2 (mt hs.1 hp))⟩
  · refine State.goesOn_advanced ?_ (State.inject_cur ..)
    rw [State.inject_me]
    exact State.canIssue_not_faulted hi
  · exact fun x => State.byte_of_mem ((State.goesOn_mem _ _).trans (State.inject_mem ..)) x
  · exact fun k hk => (State.goesOn_strand_ne _ _ hk).trans (State.inject_strand ..)
  · exact (State.goesOn_acc _ _).trans (State.inject_acc ..)

/-! ### The return from a fault -/

theorem returnFromFaultRestoresStrand : ReturnFromFaultRestoresStrand := by
  intro st bs x f
  refine ⟨rfl, rfl, rfl, rfl, rfl, rfl, fun i => ?_, fun i => ?_, fun i => ?_, rfl, rfl, rfl, rfl, rfl, rfl, rfl, rfl⟩
  · exact Vector.getElem_ofFn i.isLt
  · exact Vector.getElem_ofFn i.isLt
  · exact Vector.getElem_ofFn i.isLt

/-! ### Fields of a record -/

theorem fieldAt_skip {l : List Byte} {off : Nat} (h : l.length ≤ off) (r : List Byte) (n : Nat) :
    fieldAt (l ++ r) off n = fieldAt r (off - l.length) n := by
  rw [fieldAt, List.drop_append, List.drop_of_length_le h, List.nil_append, fieldAt]

theorem fieldAt_first {l : List Byte} {off n : Nat} (h : off + n ≤ l.length) (r : List Byte) :
    fieldAt (l ++ r) off n = fieldAt l off n := by
  rw [fieldAt, List.drop_append_of_le_length (by omega), List.take_append_of_le_length (by simp; omega), fieldAt]

theorem fieldAt_leBytes (n v : Nat) (r : List Byte) : fieldAt (leBytes n v ++ r) 0 n = v % 2 ^ (8 * n) := by
  rw [fieldAt_first (by simp [leBytes_length]), fieldAt, List.drop_zero,
    List.take_of_length_le (leBytes_length n v).le, leNat_leBytes]

/-- A part of a list made of parts of one length. -/
theorem take_drop_flatten {α : Type} {k : Nat} {L : List (List α)} (hL : ∀ l ∈ L, l.length = k) {i : Nat}
    (hi : i < L.length) : (L.flatten.drop (k * i)).take k = L[i] := by
  induction L generalizing i with
  | nil => cases hi
  | cons l r ih =>
    have hl : l.length = k := hL l List.mem_cons_self
    cases i with
    | zero => simp [← hl]
    | succ j =>
      rw [List.flatten_cons, List.drop_append,
        List.drop_of_length_le (by rw [hl]; exact Nat.le_mul_of_pos_right _ (by omega)), List.nil_append, hl, Nat.mul_succ, Nat.add_sub_cancel, List.getElem_cons_succ]
      exact ih (fun x hx => hL x (List.mem_cons_of_mem _ hx)) (by simpa using hi)

theorem length_flatten_of_forall {α : Type} {k : Nat} {L : List (List α)} (hL : ∀ l ∈ L, l.length = k) :
    L.flatten.length = k * L.length := by
  rw [List.length_flatten, List.map_congr_left (g := fun _ => k) hL]
  simp [Nat.mul_comm]

/-! ### The image of a strand -/

/-- The general registers of an image. -/
def Strand.imageG (st : Strand) : List (List Byte) :=
  (List.range 32).map fun i => leBytes 8 (if i < budget st.code ∧ i ≠ 0 then (st.g.toList.getD i 0).toNat else 0)
/-- The vector registers of an image. -/
def Strand.imageW (st : Strand) : List (List Byte) := st.w.toList.map fun x => leBytes 64 x.toNat
/-- The masks of an image. -/
def Strand.imageM (st : Strand) : List (List Byte) :=
  st.m.toList.mapIdx fun i x => leBytes 2 (if i = 0 then 0xFFFF else x.toNat)
/-- What an image holds after its registers. -/
def Strand.imageRest (st : Strand) (sst hdr : Nat) : List Byte :=
  leBytes 8 (st.stateWord sst) ++ (leBytes 8 st.epc.toNat ++ (leBytes 8 st.cause.toNat ++
  (leBytes 8 st.badva.toNat ++ (leBytes 8 st.sbase.toNat ++ (leBytes 8 st.slim.toNat ++
  (leBytes 8 st.lc.toNat ++ (leBytes 8 st.ls.toNat ++ (leBytes 8 st.le.toNat ++
  (leBytes 8 (fpctlWord st).toNat ++ (leBytes 8 st.flags.toNat ++ (leBytes 8 st.rngctr.toNat ++
  (leBytes 8 st.rngstream.toNat ++ (leBytes 4 st.jc0.toNat ++ (leBytes 4 st.jc1.toNat ++
  (st.jstat.toList ++ (leBytes 8 st.hidx.toNat ++ (leBytes 8 st.msgsrc.toNat ++
  (leBytes 8 (statusWord st).toNat ++
  (leBytes 8 (st.owed.toNat + st.replied.toNat * 2 + (st.pool.getD 255) % 256 * 256) ++
  (headBytes hdr (argsNat st.msg.args) ++ List.replicate 544 0))))))))))))))))))))

theorem Strand.imageBytes_eq (st : Strand) (sst hdr : Nat) :
    st.imageBytes sst hdr =
      st.imageG.flatten ++ (st.imageW.flatten ++ (st.imageM.flatten ++ st.imageRest sst hdr)) := by
  unfold Strand.imageBytes Strand.imageRest
  generalize List.replicate 544 0 = z
  simp only [List.append_assoc, Strand.imageG, Strand.imageW, Strand.imageM]

theorem Strand.imageG_length (st : Strand) : ∀ l ∈ st.imageG, l.length = 8 := by
  intro l hl
  obtain ⟨i, _, rfl⟩ := List.mem_map.1 hl
  exact leBytes_length _ _

theorem Strand.imageW_length (st : Strand) : ∀ l ∈ st.imageW, l.length = 64 := by
  intro l hl
  obtain ⟨i, _, rfl⟩ := List.mem_map.1 hl
  exact leBytes_length _ _

theorem Strand.imageM_length (st : Strand) : ∀ l ∈ st.imageM, l.length = 2 := by
  intro l hl
  obtain ⟨i, _, rfl⟩ := List.mem_mapIdx.1 hl
  exact leBytes_length _ _

theorem Strand.imageG_flatten_length (st : Strand) : st.imageG.flatten.length = 256 := by
  rw [length_flatten_of_forall st.imageG_length]; simp [Strand.imageG]

theorem Strand.imageW_flatten_length (st : Strand) : st.imageW.flatten.length = 1024 := by
  rw [length_flatten_of_forall st.imageW_length]; simp [Strand.imageW]

theorem Strand.imageM_flatten_length (st : Strand) : st.imageM.flatten.length = 16 := by
  rw [length_flatten_of_forall st.imageM_length]; simp [Strand.imageM]

theorem Strand.imageRest_length (st : Strand) (sst hdr : Nat) : (st.imageRest sst hdr).length = 752 := by
  simp only [Strand.imageRest, headBytes, List.length_append, leBytes_length, Vector.length_toList,
    List.length_replicate]

section
variable (st : Strand) (sst hdr : Nat)

theorem Strand.image_g (i : Fin 32) :
    fieldAt (st.imageBytes sst hdr) (8 * i.val) 8 =
      if i.val < budget st.code ∧ i.val ≠ 0 then st.g[i].toNat else 0 := by
  rw [Strand.imageBytes_eq, fieldAt_first (by rw [Strand.imageG_flatten_length]; omega), fieldAt,
    take_drop_flatten st.imageG_length (by simp [Strand.imageG])]
  simp only [Strand.imageG, List.getElem_map, List.getElem_range, leNat_leBytes]
  split
  · rw [List.getD_eq_getElem _ _ (by simp), Vector.getElem_toList]
    exact BitVec.toNat_mod_cancel _
  · rfl

theorem Strand.image_w (i : Fin 16) :
    fieldAt (st.imageBytes sst hdr) (256 + 64 * i.val) 64 = st.w[i].toNat := by
  rw [Strand.imageBytes_eq, fieldAt_skip (by rw [Strand.imageG_flatten_length]; omega), Strand.imageG_flatten_length,
    Nat.add_sub_cancel_left, fieldAt_first (by rw [Strand.imageW_flatten_length]; omega), fieldAt,
    take_drop_flatten st.imageW_length (by simp [Strand.imageW])]
  simp only [Strand.imageW, List.getElem_map, leNat_leBytes, Nat.reduceMul]
  exact BitVec.toNat_mod_cancel _

theorem Strand.image_m (i : Fin 8) :
    fieldAt (st.imageBytes sst hdr) (1280 + 2 * i.val) 2 = if i.val = 0 then 0xFFFF else st.m[i].toNat := by
  rw [Strand.imageBytes_eq, fieldAt_skip (by rw [Strand.imageG_flatten_length]; omega), Strand.imageG_flatten_length,
    fieldAt_skip (by rw [Strand.imageW_flatten_length]; omega), Strand.imageW_flatten_length,
    fieldAt_first (by rw [Strand.imageM_flatten_length]; omega), fieldAt,
    show 1280 + 2 * i.val - 256 - 1024 = 2 * i.val by omega,
    take_drop_flatten st.imageM_length (by simp [Strand.imageM])]
  simp only [Strand.imageM, List.getElem_mapIdx, leNat_leBytes]
  split
  · rfl
  · exact BitVec.toNat_mod_cancel _

theorem Strand.image_rest (off n : Nat) :
    fieldAt (st.imageBytes sst hdr) (1296 + off) n = fieldAt (st.imageRest sst hdr) off n := by
  rw [Strand.imageBytes_eq, fieldAt_skip (by rw [Strand.imageG_flatten_length]; omega), Strand.imageG_flatten_length,
    fieldAt_skip (by rw [Strand.imageW_flatten_length]; omega), Strand.imageW_flatten_length,
    fieldAt_skip (by rw [Strand.imageM_flatten_length]; omega), Strand.imageM_flatten_length,
    show 1296 + off - 256 - 1024 - 16 = off by omega]

end

theorem imageHoldsTheStrand : ImageHoldsTheStrand := by
  intro st sst hdr hs bs f
  have hrest := Strand.image_rest st sst hdr
  refine ⟨?_, fun i h0 hi => ?_, fun i => Strand.image_w st sst hdr i, fun i h0 => ?_, ?_, ?_, ?_, ?_⟩
  · simp only [bs, Strand.imageBytes_eq, List.length_append, Strand.imageG_flatten_length,
      Strand.imageW_flatten_length, Strand.imageM_flatten_length, Strand.imageRest_length]
  · rw [show f (8 * i.val) 8 = _ from Strand.image_g st sst hdr i, if_pos ⟨hi, h0⟩]
  · rw [show f (1280 + 2 * i.val) 2 = _ from Strand.image_m st sst hdr i, if_neg h0]
  · exact Strand.image_g st sst hdr 0
  · exact Strand.image_m st sst hdr 0
  · rw [show f 1296 8 = _ from hrest 0 8, Strand.imageRest, fieldAt_leBytes]
    unfold Strand.stateWord
    omega
  · rw [show f 1304 8 = _ from hrest 8 8, show f 1312 8 = _ from hrest 16 8, show f 1320 8 = _ from hrest 24 8,
      show f 1328 8 = _ from hrest 32 8, show f 1336 8 = _ from hrest 40 8, show f 1344 8 = _ from hrest 48 8,
      show f 1352 8 = _ from hrest 56 8, show f 1360 8 = _ from hrest 64 8, show f 1376 8 = _ from hrest 80 8,
      show f 1384 8 = _ from hrest 88 8, show f 1392 8 = _ from hrest 96 8, show f 1400 4 = _ from hrest 104 4,
      show f 1404 4 = _ from hrest 108 4, show f 1424 8 = _ from hrest 128 8, show f 1432 8 = _ from hrest 136 8]
    have w64 (v : Word) : v.toNat % 2 ^ (8 * 8) = v.toNat := Nat.mod_eq_of_lt v.isLt
    have h9 (v : BitVec 9) : v.toNat % 2 ^ (8 * 8) = v.toNat := Nat.mod_eq_of_lt (by omega)
    have h5 (v : BitVec 5) : v.toNat % 2 ^ (8 * 8) = v.toNat := Nat.mod_eq_of_lt (by omega)
    have h12 (v : BitVec 12) : v.toNat % 2 ^ (8 * 8) = v.toNat := Nat.mod_eq_of_lt (by omega)
    have h17 (v : BitVec 17) : v.toNat % 2 ^ (8 * 8) = v.toNat := Nat.mod_eq_of_lt (by omega)
    have h32 (v : BitVec 32) : v.toNat % 2 ^ (8 * 4) = v.toNat := Nat.mod_eq_of_lt (by omega)
    simp only [Strand.imageRest, fieldAt_skip, fieldAt_leBytes, leBytes_length, Nat.reduceSub, Nat.reduceLeDiff,
      Vector.length_toList, w64, h9, h5, h12, h17, h32, and_self]

/-- Settles O21: RESUME at issue, the strand a reload makes of an image, and the fields of the image itself. -/
theorem resumeAndStrandImages : Obligations.ResumeAndStrandImages :=
  ⟨resumeSendsControlPacket, returnFromFaultRestoresStrand, imageHoldsTheStrand⟩

end Sys2Proof.Machine
end

section
/-! SUPPORT. O30: the commands of the copy engine, checked and issued, and the instructions that wait for jobs. -/

namespace Sys2Proof.Machine
open Sys2Proof Sys2Proof.Claims

/-! ### A fault whose BADVA is a free value -/

theorem State.finish_trapOpen (s : State) (c : Cause) :
    s.finish (.trapOpen c) =
      ({ s with nextId := s.nextId + 1 } : State).raiseAtIssue s.cur c (Config.freeWord s.nextId) := rfl

/-- R121: a fault at issue with a free BADVA changes its strand and the counter of free values alone. -/
theorem faultsWith_of_trapOpen {i : Instr} {s : State} {c : Cause}
    (h : exec i s = .next (s.finish (.trapOpen c))) : FaultsWith i s c := by
  have hst : (s.finish (.trapOpen c)).strand s.cur = s.me.fault
      { cause := c, ord := s.nextId + 1, time := s.time, epc := pcWord s.me, badva := Config.freeWord s.nextId } :=
    State.raiseAtIssue_strand ({ s with nextId := s.nextId + 1 } : State) s.cur c (Config.freeWord s.nextId)
  refine ⟨_, h, ⟨rfl, fun k hk => ?_⟩, ?_, fun hnone => ?_, ?_, ?_⟩
  · exact ((State.raiseAtIssue_onlyStrand ({ s with nextId := s.nextId + 1 } : State) s.cur c
      (Config.freeWord s.nextId)).2 k hk).trans rfl
  · rw [hst, Strand.fault_phase]
  · rw [hst, (Strand.fault_first _ _ hnone).2]
    simp
  · rw [hst, Strand.fault_pc]
  · rw [hst, Strand.fault_g]

/-! ### A command and its order -/

/-- An engine command is what an order of the specification asks for: the same kind, descriptor and ranges, the same
limits with the values that pass them, and the same checks after them. -/
structure Order.Asks (s : State) (o : Order) (q : Cmd) : Prop where
  kind : o.kind = q.kind
  fn : o.fn = q.fn
  desc : o.desc = q.desc
  ranges : o.ranges = q.ranges
  aligns : o.aligns = q.aligns
  strides : o.strides = q.strides
  limits : List.Forall₂ (fun x y => (x.1 ↔ y.1 = true) ∧ x.2 = y.2) o.limits q.limits
  bounds : s.cmdBounds q = o.bounds.findSome? id
  overlap : o.overlap ↔ q.overlap = true

/-- The first limit that is passed, if one is. -/
theorem find?_limits {l : List (Prop × Word)} {l' : List (Bool × Word)}
    (h : List.Forall₂ (fun x y => (x.1 ↔ y.1 = true) ∧ x.2 = y.2) l l') :
    (∃ x ∈ l, x.1 ∧ l'.find? (·.1) = some (true, x.2)) ∨ ((∀ x ∈ l, ¬ x.1) ∧ l'.find? (·.1) = none) := by
  induction h with
  | nil => exact .inr ⟨by simp, rfl⟩
  | @cons x y l l' hxy _ ih =>
    obtain ⟨hp, hv⟩ := hxy
    obtain ⟨b, v⟩ := y
    cases b with
    | true => exact .inl ⟨x, by simp, hp.2 rfl, by simp [hv]⟩
    | false =>
      have hx : ¬ x.1 := by simpa using hp
      rcases ih with ⟨z, hz, hz1, hz2⟩ | ⟨hall, hnone⟩
      · exact .inl ⟨z, by simp [hz], hz1, by simpa using hz2⟩
      · exact .inr ⟨by simpa [hx] using hall, by simpa using hnone⟩

/-- The alignment of a completion action's address (R298). -/
theorem actAlign_eq (c c1 : Word) :
    actAlign c c1 = if c.toNat % 8 = 1 then [(c1, 8)] else if c.toNat % 8 = 3 then [(c1, 32)] else [] := by
  unfold actAlign compAct
  split <;> simp_all

/-- The bounds check of a completion action's address (R298): one of 8 or 32 bytes, of a scratchpad address alone. -/
theorem actRange_eq (s : State) (c c1 : Word) :
    (actRange c c1).findSome? (fun r => s.boundsCheck s.myCtx r.1 r.2) =
      (if (c.toNat % 8 = 1 ∨ c.toNat % 8 = 3) ∧ 0x700000000000 ≤ c1.toNat ∧ c1.toNat < 0x800000000000 then
        [s.boundsCheck (s.ctxOf s.cur) c1.toNat (if c.toNat % 8 = 1 then 8 else 32)] else []).findSome? id := by
  unfold actRange
  rw [actAlign_eq]
  by_cases h1 : c.toNat % 8 = 1
  · simp only [h1, if_true, true_or, true_and]
    split <;> simp [State.myCtx, List.findSome?_cons]
  · by_cases h3 : c.toNat % 8 = 3
    · simp only [h3, if_true, or_true, true_and]
      split <;> simp [State.myCtx, List.findSome?_cons]
    · simp [h1, h3]

/-- What is found first in a list of findings. -/
theorem findSome?_id_append {α : Type} {p r : List (Option α)} {x : α} (h : ∀ y ∈ p, y = none) :
    (p ++ some x :: r).findSome? id = some x := by
  rw [List.findSome?_append, List.findSome?_eq_none_iff.2 (by simpa using h)]
  rfl

/-! ### The checks in their order (R302) -/

section
variable {s : State} {c c1 : Word} {q : Cmd}

theorem State.cmdFault_completion (h : compJc c = 3 ∨ 6 ≤ compAct c) :
    s.cmdFault c c1 q = some (.trap .illegalCombination c) := if_pos h

theorem State.cmdFault_limit {b : Bool} {v : Word} (h : ¬ (compJc c = 3 ∨ 6 ≤ compAct c))
    (hl : q.limits.find? (·.1) = some (b, v)) : s.cmdFault c c1 q = some (.trap .illegalCombination v) := by
  unfold State.cmdFault
  rw [if_neg h, hl]

theorem State.cmdFault_align {v : Word} {n : Nat} (h : ¬ (compJc c = 3 ∨ 6 ≤ compAct c))
    (hl : q.limits.find? (·.1) = none)
    (ha : ((q.aligns ++ actAlign c c1).find? fun x => x.1.toNat % x.2 != 0) = some (v, n)) :
    s.cmdFault c c1 q = some (.trap .misaligned v) := by
  unfold State.cmdFault
  rw [if_neg h, hl]
  dsimp only
  rw [ha]

section
variable (h : ¬ (compJc c = 3 ∨ 6 ≤ compAct c)) (hl : q.limits.find? (·.1) = none)
  (ha : ((q.aligns ++ actAlign c c1).find? fun x => x.1.toNat % x.2 != 0) = none)
include h hl ha

theorem State.cmdFault_stride (hs : (q.strides.any fun x => x.1 % x.2 != 0) = true) :
    s.cmdFault c c1 q = some (.trapOpen .misaligned) := by
  unfold State.cmdFault
  rw [if_neg h, hl]
  dsimp only
  rw [ha]
  exact if_pos hs

variable (hs : ¬ (q.strides.any fun x => x.1 % x.2 != 0) = true)
include hs

theorem State.cmdFault_bounds {k : Cause} {v : Nat}
    (hb : ((s.cmdBounds q).or ((actRange c c1).findSome? fun r => s.boundsCheck s.myCtx r.1 r.2)) = some (k, v)) :
    s.cmdFault c c1 q = some (.trap k (BitVec.ofNat 64 v)) := by
  unfold State.cmdFault
  rw [if_neg h, hl]
  dsimp only
  rw [ha]
  dsimp only
  rw [if_neg hs, hb]

theorem State.cmdFault_last
    (hb : ((s.cmdBounds q).or ((actRange c c1).findSome? fun r => s.boundsCheck s.myCtx r.1 r.2)) = none) :
    s.cmdFault c c1 q = if q.overlap then some (.trapOpen .illegalCombination) else none := by
  unfold State.cmdFault
  rw [if_neg h, hl]
  dsimp only
  rw [ha]
  dsimp only
  rw [if_neg hs, hb]
end
end

/-! ### A slot for the job (R76, R293) -/

/-- R293: a command that passes its checks and the waits after them. -/
def State.takeSlot (s : State) (d : GReg) (w : Word × Word × Word) (q : Cmd) (room : State → Bool)
    (enter : State → Nat → State) : Res :=
  match (s.core s.myCore).freeSlot with
  | none => .hold .jobSlots
  | some slot =>
    if (s.tile s.myTile).freeLocks < (q.locks 0 0 0 0).length then .hold .lockTable
    else if !room s then .hold .injection
    else s.putGAnd (enter (s.newJob slot w.1 w.2.1 w.2.2 q) slot) d (BitVec.ofNat 64 slot)

theorem State.command_pass {s : State} {d : GReg} {w : Word × Word × Word} {q : Cmd} {room : State → Bool}
    {enter : State → Nat → State} (h : s.cmdFault w.1 w.2.1 q = none) :
    s.command d w.1 w.2.1 w.2.2 q room enter = s.takeSlot d w q room enter := by
  unfold State.command
  rw [h]
  rfl

theorem State.command_fault {s : State} {d : GReg} {w : Word × Word × Word} {q : Cmd} {room : State → Bool}
    {enter : State → Nat → State} {r : Res} (h : s.cmdFault w.1 w.2.1 q = some r) :
    s.command d w.1 w.2.1 w.2.2 q room enter = r := by
  unfold State.command
  rw [h]

/-- The lowest free slot of a core. -/
theorem Core.freeSlot_eq_some {c : Core} {k : Nat} (hk : k < 16) (hf : (c.jobs.get {} k).st = .free)
    (hlow : ∀ j < k, ¬ (c.jobs.get {} j).st = .free) : c.freeSlot = some k := by
  unfold Core.freeSlot
  rw [List.find?_range_eq_some]
  refine ⟨beq_iff_eq.2 hf, by simpa using hk, fun j hj => by simpa using hlow j hj⟩

theorem Core.freeSlot_eq_none {c : Core} (h : ∀ k < 16, ¬ (c.jobs.get {} k).st = .free) : c.freeSlot = none := by
  unfold Core.freeSlot
  rw [List.find?_eq_none]
  intro k hk
  simpa using h k (List.mem_range.1 hk)

/-- The entries that a command asks of the range-lock table (R75). -/
theorem Cmd.length_locks (q : Cmd) (t c k x : Nat) :
    (q.locks t c k x).length = (q.ranges.filter fun r => r.2.2 != 0).length := by
  simp [Cmd.locks]

/-- The job of an order in its slot is the job of its command. -/
theorem State.newJob_eq_issued {s : State} {o : Order} {q : Cmd} (h : Order.Asks s o q) (w : Word × Word × Word)
    (k : Nat) : s.newJob k w.1 w.2.1 w.2.2 q = issued s o w k := by
  unfold State.newJob issued
  rw [h.kind, h.fn, h.desc, h.ranges]
  rfl

theorem takesSlot_of_takeSlot {i : Instr} {s : State} {d : GReg} {o : Order} {w : Word × Word × Word} {q : Cmd}
    {room : State → Bool} {enter : State → Nat → State} (h : Order.Asks s o q)
    (hroom : o.room ↔ room s = true) (henter : o.enter = enter)
    (hx : exec i s = .next (s.finish (s.takeSlot d w q room enter))) : TakesSlot i s d o w := by
  have hlen := q.length_locks 0 0 0 0
  rw [← h.ranges] at hlen
  refine ⟨fun hfull => ?_, fun k hk hfree hlow => ?_⟩
  · have hnone : (s.core s.myCore).freeSlot = none := Core.freeSlot_eq_none hfull
    rw [State.takeSlot, hnone] at hx
    exact hx
  · have hsome : (s.core s.myCore).freeSlot = some k := Core.freeSlot_eq_some hk hfree hlow
    have hshort : ((s.tile s.myTile).freeLocks < (q.locks 0 0 0 0).length) ↔
        ((o.ranges.filter fun r => r.2.2 != 0).length ≠ 0 ∧
          64 < (s.tile (tileOf s.cur)).locks.length + (o.ranges.filter fun r => r.2.2 != 0).length) := by
      rw [hlen]
      show 64 - (s.tile (tileOf s.cur)).locks.length < _ ↔ _
      omega
    rw [State.takeSlot, hsome] at hx
    dsimp only at hx
    refine ⟨fun hs => ?_, fun hs hr => ?_, fun hs hr hb => ?_, fun hs hr hb => ?_⟩
    · rw [if_pos (hshort.2 hs)] at hx
      exact hx
    · rw [if_neg (mt hshort.1 hs), if_pos (by simpa using mt hroom.2 hr)] at hx
      exact hx
    all_goals
      rw [if_neg (mt hshort.1 hs), if_neg (by simpa using hroom.1 hr), State.finish_putGAnd, hb] at hx
    · exact hx
    · rw [hx, ← State.newJob_eq_issued h, henter]
      rfl

/-- R302: what an engine command comes to, from its checks to its slot. -/
theorem commandOutcome_of_command {i : Instr} {s : State} {d : GReg} {o : Order} {w : Word × Word × Word} {q : Cmd}
    {room : State → Bool} {enter : State → Nat → State} (h : Order.Asks s o q)
    (hroom : o.room ↔ room s = true) (henter : o.enter = enter)
    (hx : exec i s = .next (s.finish (s.command d w.1 w.2.1 w.2.2 q room enter))) : CommandOutcome i s d o w := by
  have halign : o.aligns ++ (if w.1.toNat % 8 = 1 then [(w.2.1, 8)] else if w.1.toNat % 8 = 3 then [(w.2.1, 32)] else [])
      = q.aligns ++ actAlign w.1 w.2.1 := by rw [actAlign_eq, h.aligns]
  have hlim := find?_limits h.limits
  have hfind : ∀ l : List (Option (Cause × Nat)), (s.cmdBounds q).or (l.findSome? id) = (o.bounds ++ l).findSome? id := by
    intro l
    rw [h.bounds, List.findSome?_append]
  unfold CommandOutcome
  dsimp only
  rw [halign, h.strides]
  have hnolim : (∀ x ∈ o.limits, ¬ x.1) → q.limits.find? (·.1) = none := by
    intro hall
    rcases hlim with ⟨x, hx1, hx2, _⟩ | ⟨_, hnone⟩
    · exact absurd hx2 (hall x hx1)
    · exact hnone
  have hnoalign : (∀ x ∈ q.aligns ++ actAlign w.1 w.2.1, x.1.toNat % x.2 = 0) →
      ((q.aligns ++ actAlign w.1 w.2.1).find? fun x => x.1.toNat % x.2 != 0) = none := by
    intro hall
    rw [List.find?_eq_none]
    intro x hx
    simpa using hall x hx
  refine ⟨fun h1 => ?_, fun h1 h2 => ?_, fun h2 h3 => ?_, fun h3 h4 => ?_, fun h4 p k v r hp hn => ?_,
    fun h5 ho => ?_, fun h5 ho => ?_⟩
  · rw [hx, State.command_fault (State.cmdFault_completion (not_not.1 h1))]
    rfl
  · rcases hlim with ⟨x, hx1, hx2, hx3⟩ | ⟨hall, _⟩
    · refine ⟨x, hx1, hx2, ?_⟩
      rw [hx, State.command_fault (State.cmdFault_limit h1 hx3)]
      rfl
    · exact absurd ⟨h1, hall⟩ h2
  · obtain ⟨h1, hl⟩ := h2
    cases hf : (q.aligns ++ actAlign w.1 w.2.1).find? fun x => x.1.toNat % x.2 != 0 with
    | none =>
      rw [List.find?_eq_none] at hf
      exact absurd ⟨⟨h1, hl⟩, fun x hx => by simpa using hf x hx⟩ h3
    | some x =>
      refine ⟨x, List.mem_of_find?_eq_some hf, by simpa using List.find?_some hf, ?_⟩
      rw [hx, State.command_fault (State.cmdFault_align h1 (hnolim hl) hf)]
      rfl
  all_goals
    obtain ⟨h1, hl, ha⟩ : ¬ (compJc w.1 = 3 ∨ 6 ≤ compAct w.1) ∧ (∀ x ∈ o.limits, ¬ x.1) ∧
        ∀ x ∈ q.aligns ++ actAlign w.1 w.2.1, x.1.toNat % x.2 = 0 := by tauto
  · have hs : (q.strides.any fun x => x.1 % x.2 != 0) = true := by
      by_contra hs
      exact h4 ⟨h3, by simpa using hs⟩
    exact faultsWith_of_trapOpen
      (by rw [hx, State.command_fault (State.cmdFault_stride h1 (hnolim hl) (hnoalign ha) hs)])
  all_goals
    have hs : ¬ (q.strides.any fun x => x.1 % x.2 != 0) = true := by
      simp only [List.any_eq_true, bne_iff_ne, not_exists, not_and, ne_eq, not_not]
      tauto
  · have hb := (hfind _).trans ((congrArg _ hp).trans (findSome?_id_append hn))
    rw [← actRange_eq] at hb
    rw [hx, State.command_fault (State.cmdFault_bounds h1 (hnolim hl) (hnoalign ha) hs hb)]
    rfl
  all_goals
    have hb := (hfind _).trans (List.findSome?_eq_none_iff.2 h5.2)
    rw [← actRange_eq] at hb
    have hc := State.cmdFault_last h1 (hnolim hl) (hnoalign ha) hs hb
  · rw [if_pos (h.overlap.1 ho)] at hc
    exact faultsWith_of_trapOpen (by rw [hx, State.command_fault hc])
  · rw [if_neg (mt h.overlap.2 ho)] at hc
    exact takesSlot_of_takeSlot h hroom henter (by rw [hx, State.command_pass hc])

/-! ### The completion run (R297) -/

theorem State.canIssue_run (s : State) {r : Nat} (h : s.canIssue { g := run r 3 } = true) :
    ¬ budget s.me.code ≤ r + 2 ∧ (s.me.pend.any fun p => p.blocks { g := run r 3 }) = false := by
  simp only [State.canIssue, Bool.and_eq_true, Bool.not_eq_true'] at h
  obtain ⟨⟨⟨_, hbud⟩, _⟩, hpend⟩ := h
  refine ⟨?_, hpend⟩
  simp [Uses.inBudget, run, List.range_succ] at hbud
  omega

theorem readRun_eq_cons {st : Strand} {b : GReg} (hb : b ≠ 0) {w : Word × Word × Word}
    (h : readRun st b.val 3 = [w.1, w.2.1, w.2.2]) :
    readG st b = w.1 ∧ (readRun st b.val 3).getD 1 0 = w.2.1 ∧ (readRun st b.val 3).getD 2 0 = w.2.2 := by
  refine ⟨?_, by rw [h]; rfl, by rw [h]; rfl⟩
  have hb' : b.val ≠ 0 := fun hz => hb (Fin.ext hz)
  have hfirst : (readRun st b.val 3).getD 0 0 = st.g.toList.getD b.val 0 := by
    simp [readRun, run, hb', List.range_succ]
  rw [h] at hfirst
  simpa [readG, hb] using hfirst.symm

/-- A command with its completion run as the specification names it. -/
theorem State.withComp_of_completion {s : State} {i : Instr} {b : GReg} {w : Word × Word × Word}
    (h : Completion s b w) (f : Word → Word → Word → Res) : s.withComp i b f = f w.1 w.2.1 w.2.2 := by
  unfold Completion at h
  unfold State.withComp compAct
  dsimp only
  by_cases hb : b = 0
  · rw [if_pos hb] at h ⊢
    rw [h]
  · rw [if_neg hb] at h ⊢
    by_cases ha : (readG s.me b).toNat % 8 = 0
    · rw [if_pos ha] at h ⊢
      rw [h]
    · rw [if_neg ha] at h ⊢
      obtain ⟨hi, hr⟩ := h
      obtain ⟨hbud, hpend⟩ := s.canIssue_run hi
      obtain ⟨h0, h1, h2⟩ := readRun_eq_cons hb hr
      rw [if_neg hbud, if_neg (by simp [hpend]), h0, h1, h2]

/-- A completion run that passes the budget, with an action (R297). -/
theorem State.withComp_of_budget {s : State} {i : Instr} {b : GReg} (hb : b ≠ 0)
    (ha : (readG s.me b).toNat % 8 ≠ 0) (h : budget s.me.code ≤ b.val + 2) (f : Word → Word → Word → Res) :
    s.withComp i b f = .trap .illegalInstruction (wordOf i) := by
  unfold State.withComp compAct
  dsimp only
  rw [if_neg hb, if_neg ha, if_pos h]

theorem orderOutcome_of_withComp {s : State} {d b : GReg} {o : Order} {q : Cmd} {room : State → Bool}
    {enter : State → Nat → State} (h : Order.Asks s o q) (hroom : o.room ↔ room s = true) (henter : o.enter = enter)
    (hx : exec (o.instr d b) s = .next (s.finish
      (s.withComp (o.instr d b) b fun w w1 w2 => s.command d w w1 w2 q room enter))) : OrderOutcome s d b o := by
  refine ⟨fun w hw => ?_, fun hb ha hbud => ?_⟩
  · rw [State.withComp_of_completion hw] at hx
    exact commandOutcome_of_command h hroom henter hx
  · rw [State.withComp_of_budget hb ha hbud] at hx
    exact hx

/-! ### The commands of the copy engine (R301 to R308) -/

/-- A command on a core of a tile. -/
theorem finish_issue_tileOnly {s : State} {u : Uses} (hg : isGateway s.cur = false) (h : s.canIssue u = true)
    (i : Instr) (body : State → Res) : s.issue i u (tileOnly i body) = s.finish (body s) := by
  rw [State.issue_of_canIssue h]
  unfold tileOnly
  rw [hg]
  rfl

theorem cmdBounds_eq_boundsOf {s : State} {q : Cmd} (h : q.bounds = none) :
    s.cmdBounds q = (boundsOf s q.ranges).findSome? id := by
  unfold State.cmdBounds boundsOf
  rw [h, List.findSome?_map]
  rfl

theorem overlaps_iff (a n b m : Nat) : overlaps a n b m ↔ sharesByte a n b m = true := by
  unfold overlaps sharesByte
  rw [decide_eq_true_iff]
  constructor
  · rintro ⟨x, h1, h2, h3, h4⟩
    omega
  · intro h
    exact ⟨max a b, by omega, by omega, by omega, by omega⟩

/-- An order whose command is checked and issued with nothing more to do: what its instruction runs. -/
def Order.Plain (s : State) (a : GReg) (o : Order) : Prop :=
  ∃ q : State → Cmd, Order.Asks s o (q s) ∧ o.room = True ∧ o.enter = (fun s _ => s) ∧
    ∀ d b, exec (o.instr d b) s = .next (s.issue (o.instr d b) { g := d.val :: b.val :: run a.val o.words }
      (tileOnly (o.instr d b) fun s => s.withComp (o.instr d b) b fun w w1 w2 => s.plainCommand d w w1 w2 (q s)))

/-- The bounding range of the rows of CPY2 that the specification names (R75): first byte and length, for a stride word
and a word of row length and rows. -/
def rowSpan (base : Word) (stride shape : Nat) : Nat × Nat :=
  let far := ((stride % 2 ^ 32 : Nat) : Int).bmod (2 ^ 32) * ((shape / 2 ^ 32 : Nat) - 1 : Int)
  ((base + BitVec.ofInt 64 (min 0 far)).toNat, far.natAbs + shape % 2 ^ 32)

theorem bounding_eq_rowSpan (base : Word) (v shape : Nat) :
    bounding base (sextNat 32 v) (shape % 2 ^ 32) (shape / 2 ^ 32) = rowSpan base v shape := by
  have hv : sextNat 32 v = ((v % 2 ^ 32 : Nat) : Int).bmod (2 ^ 32) := by
    rw [sextNat_eq_bmod (by decide), Int.natCast_mod]
    exact (Int.emod_bmod ..).symm
  unfold bounding moveAddr rowSpan
  rw [hv]

theorem rowSpan_mod (base : Word) (v shape : Nat) : rowSpan base (v % 2 ^ 32) shape = rowSpan base v shape := by
  unfold rowSpan
  rw [Nat.mod_mod]

/-- The bounding ranges of CPY2, source and destination. -/
theorem cpy2Cmd_spans (r : List Word) :
    let src := rowSpan (r.getD 0 0) (r.getD 3 0).toNat (r.getD 2 0).toNat
    let dst := rowSpan (r.getD 1 0) ((r.getD 3 0).toNat / 2 ^ 32) (r.getD 2 0).toNat
    (cpy2Cmd r).ranges = [(false, src), (true, dst)] ∧ (cpy2Cmd r).overlap = sharesByte src.1 src.2 dst.1 dst.2 := by
  intro src dst
  have hsrc : bounding (r.getD 0 0) (sextNat 32 ((r.getD 3 0).toNat % 2 ^ 32)) ((r.getD 2 0).toNat % 2 ^ 32)
      ((r.getD 2 0).toNat / 2 ^ 32) = src := by rw [bounding_eq_rowSpan, rowSpan_mod]
  have hdst : bounding (r.getD 1 0) (sextNat 32 ((r.getD 3 0).toNat / 2 ^ 32)) ((r.getD 2 0).toNat % 2 ^ 32)
      ((r.getD 2 0).toNat / 2 ^ 32) = dst := bounding_eq_rowSpan ..
  rw [← hsrc, ← hdst]
  exact ⟨rfl, rfl⟩

/-- A limit of the specification and the one of the command. -/
theorem limit_iff {p : Prop} {b : Bool} (h : p ↔ b = true) (v : Word) :
    ((p, v).1 ↔ (b, v).1 = true) ∧ (p, v).2 = (b, v).2 := ⟨h, rfl⟩

/-- Where an engine reads and where it writes are checked alike (R58). -/
theorem boundsOf_direction (s : State) (b : Bool) (x y : Nat × Nat) :
    boundsOf s [(false, x), (b, y)] = boundsOf s [(false, x), (false, y)] := by
  simp only [boundsOf, List.filter_cons, List.filter_nil]
  split <;> split <;> rfl

/-- The limits of GATH and SCAT (R308): three addresses and strides, and the number and length of the rows. -/
theorem rowsCmd_limits {k : JobKind} (hk : k = .gath ∨ k = .scat) (wide : Bool) (r : List Word) :
    let val := fun n => (r.getD n 0).toNat
    let w := val 3 % 2 ^ 16
    let n := val 3 / 2 ^ 16 % 2 ^ 32
    List.Forall₂ (fun (x : Prop × Word) y => (x.1 ↔ y.1 = true) ∧ x.2 = y.2)
      [(val 0 < 0x700000000000, r.getD 0 0), (val 2 < 0x700000000000, r.getD 2 0),
        (w < 32 ∨ 2048 < w ∨ w % 32 ≠ 0 ∨ n < 1 ∨ 65536 < n, r.getD 3 0), (val 4 % 32 ≠ 0, r.getD 4 0)]
      (rowsCmd k wide r).limits := by
  intro val w n
  have hshape : (w < 32 ∨ 2048 < w ∨ w % 32 ≠ 0 ∨ n < 1 ∨ 65536 < n) ↔
      decide (w < 32 ∨ 2048 < w ∨ w % 32 ≠ 0 ∨ n = 0 ∨ 65536 < n) = true := by
    rw [decide_eq_true_iff]
    exact or_congr_right (or_congr_right (or_congr_right (or_congr_left Nat.lt_one_iff)))
  rcases hk with rfl | rfl <;>
  exact .cons (limit_iff (decide_eq_true_iff).symm _) (.cons (limit_iff (decide_eq_true_iff).symm _)
    (.cons (limit_iff hshape _) (.cons (limit_iff (decide_eq_true_iff).symm _) .nil)))

/-- What the bounds check finds of the ranges of GATH and SCAT. -/
theorem rowsCmd_bounds (s : State) {k : JobKind} (hk : k = .gath ∨ k = .scat) (wide : Bool) (r : List Word) :
    let n := (r.getD 3 0).toNat / 2 ^ 16 % 2 ^ 32
    s.cmdBounds (rowsCmd k wide r) = (boundsOf s [(false, (r.getD 0 0).toNat, n * if wide then 8 else 4),
      (false, (r.getD 2 0).toNat, n * ((r.getD 3 0).toNat % 2 ^ 16))]).findSome? id := by
  rcases hk with rfl | rfl <;>
  exact (cmdBounds_eq_boundsOf rfl).trans (congrArg (fun l => l.findSome? id) (boundsOf_direction ..))

theorem asks_cpy {s : State} {a : GReg} {wide : Bool} {o : Order} (h : (copyOrders s a wide).head? = some o) :
    Order.Asks s o (cpyCmd (readRun s.me a.val 3)) ∧ o.room = True ∧ o.enter = (fun s _ => s) := by
  cases h
  refine ⟨⟨rfl, rfl, rfl, rfl, rfl, rfl, ?_, ?_, ?_⟩, rfl, rfl⟩
  · exact .cons (limit_iff (decide_eq_true_iff).symm _) .nil
  · exact cmdBounds_eq_boundsOf rfl
  · exact overlaps_iff ..

theorem copyOrders_plain (s : State) (a : GReg) (wide : Bool) : ∀ o ∈ copyOrders s a wide, Order.Plain s a o := by
  unfold copyOrders
  dsimp only
  simp only [List.forall_mem_cons]
  have hspans := cpy2Cmd_spans (readRun s.me a.val 4)
  refine ⟨⟨fun s => cpyCmd (readRun s.me a.val 3), (asks_cpy (wide := wide) rfl).1, rfl, rfl, fun _ _ => rfl⟩,
    ⟨fun s => cpy2Cmd (readRun s.me a.val 4), ⟨rfl, rfl, rfl, ?_, rfl, rfl, ?_, ?_, ?_⟩, rfl, rfl, fun _ _ => rfl⟩,
    ⟨fun s => cpyfCmd (readRun s.me a.val 5), ⟨rfl, rfl, rfl, rfl, rfl, rfl, ?_, ?_, ?_⟩, rfl, rfl, fun _ _ => rfl⟩,
    ⟨fun s => rowsCmd .gath wide (readRun s.me a.val 5), ⟨rfl, ?_, rfl, rfl, rfl, rfl, ?_, ?_, ?_⟩, rfl, rfl, fun _ _ => rfl⟩,
    ⟨fun s => rowsCmd .scat wide (readRun s.me a.val 5), ⟨rfl, ?_, rfl, rfl, rfl, rfl, ?_, ?_, ?_⟩, rfl, rfl, fun _ _ => rfl⟩, by simp⟩
  -- CPY2
  · exact hspans.1.symm
  · refine .cons (limit_iff ?_ _) .nil
    simp only [Bool.or_eq_true, beq_iff_eq, decide_eq_true_iff, or_assoc]
    exact Iff.rfl
  · exact (cmdBounds_eq_boundsOf rfl).trans (congrArg (fun l => (boundsOf s l).findSome? id) hspans.1)
  · exact (overlaps_iff ..).trans (Bool.eq_iff_iff.1 hspans.2.symm)
  -- CPYF
  · refine .cons (limit_iff ?_ _) (.cons (limit_iff (decide_eq_true_iff).symm _) .nil)
    rw [decide_eq_true_iff]
    exact or_congr_right (or_congr_right (or_congr_right (or_congr_left Nat.lt_one_iff)))
  · exact cmdBounds_eq_boundsOf rfl
  · exact overlaps_iff ..
  -- GATH and SCAT
  · cases wide <;> rfl
  · exact rowsCmd_limits (.inl rfl) wide _
  · exact rowsCmd_bounds s (.inl rfl) wide _
  · exact iff_of_false id Bool.false_ne_true
  · cases wide <;> rfl
  · exact rowsCmd_limits (.inr rfl) wide _
  · exact rowsCmd_bounds s (.inr rfl) wide _
  · exact iff_of_false id Bool.false_ne_true

/-- R301 to R308: CPYQ is CPY with the completion word of its form. -/
theorem exec_cpyq {s : State} {d a : GReg} {j : BitVec 2} {c : BitVec 3} (hg : isGateway s.cur = false)
    (h : s.canIssue { g := d.val :: run a.val 3 } = true) :
    exec (.cpyq d a j c) s = .next (s.finish (if j = 3 then .trapOpen .illegalCombination
      else s.plainCommand d (BitVec.ofNat 64 (j.toNat * 8 + 5)) (c.setWidth 64) 0 (cpyCmd (readRun s.me a.val 3)))) :=
  congrArg _ (finish_issue_tileOnly hg h _ _)

theorem copyCommands : CopyCommands := by
  intro s d a b wide hg
  refine ⟨fun o ho hi => ?_, fun j c o ho hi => ⟨fun hj => ?_, fun hj => ?_⟩⟩
  · obtain ⟨q, hask, hroom, henter, hx⟩ := copyOrders_plain s a wide o ho
    refine orderOutcome_of_withComp (room := fun _ => true) hask (by simp [hroom]) henter ?_
    rw [hx, finish_issue_tileOnly hg hi]
    rfl
  · obtain ⟨hask, hroom, henter⟩ := asks_cpy ho
    have hx := exec_cpyq (j := j) (c := c) hg hi
    have hc : c.setWidth 64 = BitVec.ofNat 64 c.toNat := BitVec.eq_of_toNat_eq (by simp)
    rw [if_neg hj, Nat.mul_comm, hc] at hx
    exact commandOutcome_of_command (room := fun _ => true) hask (by simp [hroom]) henter hx
  · have hx := exec_cpyq (j := j) (c := c) hg hi
    rw [if_pos hj] at hx
    exact faultsWith_of_trapOpen hx

/-! ### JPOLL, JWAIT, JCWAIT and ARMJ (R313 to R316) -/

/-- R293: the job in a slot is one of the issuing strand's present run. -/
theorem State.jobOf_iff (s : State) (k : Nat) : s.jobOf s.cur k = true ↔
    (((s.core (s.cur / 4)).jobs.get {} k).st ≠ .free ∧ ((s.core (s.cur / 4)).jobs.get {} k).strand = s.cur ∧
      ((s.core (s.cur / 4)).jobs.get {} k).run = s.me.run) := by
  unfold State.jobOf
  simp only [Bool.and_eq_true, bne_iff_ne, beq_iff_eq, and_assoc]
  exact Iff.rfl

theorem writes_of_putG {i : Instr} {s : State} {d : GReg} {v : Word} (h : exec i s = .next (s.finish (s.putG d v))) :
    Writes i s d v := by
  rw [State.finish_putG] at h
  exact ⟨fun hb => by rw [h, hb]; rfl, fun hb => by rw [h, hb]; rfl⟩

theorem exec_jpoll {s : State} {p : PReg} {a : GReg} (h : s.canIssue { g := [a] } = true) :
    exec (.jpoll p a) s = .next (s.completes (writeP s.me p (!s.jobOf s.cur ((readG s.me a).toNat % 16)))) :=
  congrArg _ (State.issue_of_canIssue h _ _)

theorem exec_jwait {s : State} {d a : GReg} (h : s.canIssue { g := [d, a] } = true) :
    exec (.jwait d a) s = .next (s.finish (if s.jobOf s.cur ((readG s.me a).toNat % 16) then .hold .jobWait
      else s.putG d ((s.me.jstat.toList.getD ((readG s.me a).toNat % 16) 0).setWidth 64))) :=
  congrArg _ (State.issue_of_canIssue h _ _)

theorem exec_jwaitAll {s : State} {d : GReg} (h : s.canIssue { g := [d] } = true) :
    exec (.jwaitAll d) s = .next (s.finish (if (List.range 16).any fun k => s.jobOf s.cur k then .hold .jobWait
      else s.putG d (((s.me.jstat.toList.find? (· != 0)).getD 0).setWidth 64))) :=
  congrArg _ (State.issue_of_canIssue h _ _)

/-- The first status that is not 0 (R314). -/
theorem find?_nonzero {l : List (BitVec 8)} {k : Nat} (hk : l.getD k 0 ≠ 0) (hlow : ∀ i < k, l.getD i 0 = 0) :
    (l.find? (· != 0)).getD 0 = l.getD k 0 := by
  induction l generalizing k with
  | nil => simp at hk
  | cons x l ih =>
    cases k with
    | zero =>
      have hx : x ≠ 0 := hk
      rw [List.find?_cons_of_pos (p := (· != 0)) (bne_iff_ne.2 hx)]
      rfl
    | succ k =>
      have hx : x = 0 := hlow 0 (Nat.succ_pos k)
      rw [List.find?_cons_of_neg (by simp [hx])]
      exact ih hk fun i hi => hlow (i + 1) (Nat.succ_lt_succ hi)

theorem find?_nonzero_none {l : List (BitVec 8)} (h : ∀ i < l.length, l.getD i 0 = 0) : (l.find? (· != 0)).getD 0 = 0 := by
  rw [List.find?_eq_none.2, Option.getD_none]
  intro x hx
  obtain ⟨i, hi, rfl⟩ := List.getElem_of_mem hx
  have hzero := h i hi
  rw [List.getD_eq_getElem _ _ hi] at hzero
  simp [hzero]

/-- The strand once JCWAIT has put `x` in the counter that `j` selects, under SUB alone (R315). -/
def jcAfter (st : Strand) (u j : Bool) (x : BitVec 32) : Strand :=
  if u = false then st else if j then { st with jc1 := x } else { st with jc0 := x }

theorem sub_setWidth {c : BitVec 32} {w : Word} (h : w.toNat % 2 ^ 32 ≤ c.toNat) :
    c - w.setWidth 32 = BitVec.ofNat 32 (c.toNat - w.toNat % 2 ^ 32) := by
  have hw : (w.setWidth 32).toNat = w.toNat % 2 ^ 32 := BitVec.toNat_setWidth ..
  refine BitVec.eq_of_toNat_eq ?_
  rw [BitVec.toNat_sub_of_le (by rw [BitVec.le_def, hw]; exact h), BitVec.toNat_ofNat, hw]
  exact (Nat.mod_eq_of_lt (by have := c.isLt; omega)).symm

theorem exec_jcwait {s : State} {d a : GReg} {u j : Bool} (h : s.canIssue { g := [d, a] } = true) {c : BitVec 32}
    (hc : c = if j then s.me.jc1 else s.me.jc0) :
    exec (.jcwait d a u j) s = .next (
      if c.toNat < (readG s.me a).toNat % 2 ^ 32 then s.holdAt s.cur .jobWait
      else if s.me.spBad d (c.setWidth 64) then s.raiseAtIssue s.cur .stackLimit (c.setWidth 64)
      else s.completes (writeG (jcAfter s.me u j (c - (readG s.me a).setWidth 32)) d (c.setWidth 64))) := by
  refine congrArg _ ((State.issue_of_canIssue h _ _).trans ?_)
  have hult : c.ult ((readG s.me a).setWidth 32) = decide (c.toNat < (readG s.me a).toNat % 2 ^ 32) := by
    rw [BitVec.ult, BitVec.toNat_setWidth]
  dsimp only
  rw [← hc, hult]
  by_cases hlow : c.toNat < (readG s.me a).toNat % 2 ^ 32
  · rw [if_pos hlow, if_pos (decide_eq_true hlow)]
    rfl
  · rw [if_neg hlow, if_neg (by simpa using hlow), State.finish_putGAnd]
    cases u
    · rfl
    · cases j <;> simp only [Bool.not_true, Bool.false_eq_true, if_false, if_true, State.modMe_modMe] <;> rfl

/-- The message that ARMJ keeps (R211, R212, R316). -/
def watchMsg (s : State) (r : List Word) : Msg :=
  let dw := r.getD 0 0
  let k := s.ctx (s.ctxOf s.cur)
  let o := destOf dw (k.x0.toNat, k.y0.toNat)
  let tn := tileOf s.cur
  { hdr := {
      posted := true, ctx := BitVec.ofNat 8 (s.ctxOf s.cur), sy := BitVec.ofNat 5 (tn / 32),
      sx := BitVec.ofNat 5 (tn % 32), score := BitVec.ofNat 3 (s.cur / 4 % 8), sstr := 0,
      hidx := BitVec.ofNat 12 (dw.toNat / 2 ^ 17), pset := dw.getLsbD 16, prio := BitVec.ofNat 2 (dw.toNat / 2 ^ 14),
      dcore := BitVec.ofNat 3 (dw.toNat / 2 ^ 11), dy := BitVec.ofNat 5 o.2, dx := BitVec.ofNat 5 o.1 }
    args := r.drop 1 }

theorem watchMsg_eq (s : State) (r : List Word) :
    ({ hdr := ((({ posted := true, ctx := BitVec.ofNat 8 s.myCtx } : Hdr).withDest (r.getD 0 0) (s.offsetOf s.myCtx).1
        (s.offsetOf s.myCtx).2).withSource s.myTile (s.myCore % 8) 0), args := r.drop 1 } : Msg) = watchMsg s r := by
  have hset : ∀ n, (r.getD 0 0).getLsbD n = ((r.getD 0 0).toNat / 2 ^ n % 2 == 1) := fun n => by
    rw [getLsbD_eq_decide]
    exact (Bool.beq_eq_decide_eq _ _).symm
  unfold watchMsg Hdr.withDest Hdr.withSource destOf
  dsimp only
  rw [hset, hset]
  cases (r.getD 0 0).toNat / 2 ^ 10 % 2 == 1 <;> rfl

/-- The watch that ARMJ makes (R316). -/
def armedWatch (s : State) (slots : List Nat) (r : List Word) : JobWatch :=
  { slots := slots, ctx := s.ctxOf s.cur, msg := watchMsg s r }

theorem exec_armj {s : State} {a b : GReg} (hg : isGateway s.cur = false)
    (h : s.canIssue { g := a.val :: run b.val 5 } = true) {l : List Nat}
    (hl : ((List.range 16).filter fun k => (readG s.me a).getLsbD k && s.jobOf s.cur k) = l) :
    exec (.armj a b) s = .next (
      if 16 ≤ (s.core (s.cur / 4)).jwatches.length then s.holdAt s.cur .jobWait
      else if l.isEmpty then s.goesOn (s.postWatch s.myCore (armedWatch s l (readRun s.me b.val 5)))
      else s.goesOn ((s.modCore s.myCore fun c =>
        { c with jwatches := c.jwatches ++ [armedWatch s l (readRun s.me b.val 5)] }).source s.myCtx)) := by
  refine congrArg _ ((finish_issue_tileOnly hg h _ _).trans ?_)
  unfold armedWatch
  rw [← watchMsg_eq]
  dsimp only
  rw [hl]
  split
  · rename_i hfull
    exact (if_pos hfull).symm
  · rename_i hfull
    rw [if_neg (show ¬ 16 ≤ (s.core (s.cur / 4)).jwatches.length from hfull)]
    split <;> rfl

theorem not_any_jobOf {s : State}
    (h : ∀ k < 16, ¬ (((s.core (s.cur / 4)).jobs.get {} k).st ≠ .free ∧
      ((s.core (s.cur / 4)).jobs.get {} k).strand = s.cur ∧ ((s.core (s.cur / 4)).jobs.get {} k).run = s.me.run)) :
    ¬ ((List.range 16).any fun k => s.jobOf s.cur k) = true := by
  rw [List.any_eq_true]
  rintro ⟨k, hk, hj⟩
  exact h k (List.mem_range.1 hk) ((s.jobOf_iff k).1 hj)

/-- A watch of the issuing core posts from its tile (R316). -/
theorem State.postWatch_core {s : State} (hg : isGateway s.cur = false) (w : JobWatch) :
    s.postWatch s.myCore w = s.post (tileOf s.cur) 4 [] w.msg := by
  rw [tileOf_eq hg]
  rfl

theorem waitingForJobs : WaitingForJobs := by
  intro s d a b p u j
  refine ⟨fun hi => ⟨fun hm => ?_, fun hm => ?_⟩, fun hi => ⟨fun hm => ?_, fun hm => ?_, fun hlow => ?_, fun hle hb => ?_,
    fun hle hb => ?_⟩, fun hi => ⟨fun hm => ?_, fun hm => ⟨fun hz => ?_, fun k hk hne hz => ?_⟩⟩,
    fun hi hg => ⟨fun hfull => ?_, fun hroom l hl hmem => ?_⟩⟩
  -- JPOLL
  · rw [exec_jpoll hi, (s.jobOf_iff _).2 hm]
    rfl
  · rw [exec_jpoll hi, eq_false_of_ne_true (mt (s.jobOf_iff _).1 hm)]
    rfl
  -- JWAIT
  · rw [Held, exec_jwait hi, if_pos ((s.jobOf_iff _).2 hm)]
    rfl
  · refine writes_of_putG ?_
    rw [exec_jwait hi, if_neg (mt (s.jobOf_iff _).1 hm)]
  -- JCWAIT
  · rw [Held, exec_jcwait hi rfl, if_pos hlow]
    rfl
  · rw [exec_jcwait hi rfl, if_neg (Nat.not_lt.2 hle), hb]
    rfl
  · rw [exec_jcwait hi rfl, if_neg (Nat.not_lt.2 hle), hb, sub_setWidth hle]
    rfl
  -- JWAIT.ALL
  · obtain ⟨k, hk, hm⟩ := hm
    have hany : ((List.range 16).any fun k => s.jobOf s.cur k) = true :=
      List.any_eq_true.2 ⟨k, List.mem_range.2 hk, (s.jobOf_iff k).2 hm⟩
    rw [Held, exec_jwaitAll hi, if_pos hany]
    rfl
  · refine writes_of_putG ?_
    rw [exec_jwaitAll hi, if_neg (not_any_jobOf hm), find?_nonzero_none fun i hi => hz i (by simpa using hi)]
    rfl
  · refine writes_of_putG ?_
    rw [exec_jwaitAll hi, if_neg (not_any_jobOf hm), find?_nonzero hne hz]
  -- ARMJ
  · rw [Held, exec_armj hg hi rfl, if_pos hfull]
    rfl
  · have hfilter : ((List.range 16).filter fun k => (readG s.me a).getLsbD k && s.jobOf s.cur k) = l := by
      refine (List.pairwise_lt_range.sublist List.filter_sublist).eq_of_mem_iff hl fun k => ?_
      rw [List.mem_filter, List.mem_range, Bool.and_eq_true, s.jobOf_iff, hmem]
    rw [exec_armj hg hi hfilter, if_neg (Nat.not_le.2 hroom)]
    refine ⟨fun hnil => ?_, fun hne => ?_⟩
    · rw [hnil, State.postWatch_core hg]
      rfl
    · rw [if_neg (by simpa using hne)]
      rfl

/-- Settles O30: an engine command runs the checks and takes the slot that its order names, and each waiting instruction
asks `State.jobOf` for the jobs of the strand's present run. -/
theorem copyCommandsAndJobWaits : Obligations.CopyCommandsAndJobWaits := by
  unfold Obligations.CopyCommandsAndJobWaits
  exact ⟨copyCommands, waitingForJobs⟩

end Sys2Proof.Machine
end

section
/-! SUPPORT. O44: accesses and barrier operations performed at their home, their answers, and the deadlines of a unit's
continuations. -/

namespace Sys2Proof.Machine
open Sys2Proof Sys2Proof.Claims

/-! ### Lists with one entry changed -/

theorem modify_middle {α : Type} (xs : List α) (a : α) (ys : List α) (f : α → α) :
    (xs ++ a :: ys).modify xs.length f = xs ++ f a :: ys := by
  induction xs with
  | nil => rfl
  | cons x xs ih => exact congrArg (x :: ·) ih

/-- What is asked of one entry alone finds it alone. -/
theorem filter_middle {α : Type} {p : α → Bool} {xs : List α} {a : α} {ys : List α} (ha : p a = true)
    (hp : ∀ b ∈ xs ++ ys, p b = false) : (xs ++ a :: ys).filter p = [a] := by
  have hnone : ∀ l : List α, (∀ b ∈ l, p b = false) → l.filter p = [] := fun l hl =>
    List.filter_eq_nil_iff.2 fun b hb => by simp [hl b hb]
  rw [List.filter_append, List.filter_cons_of_pos ha, hnone xs fun b hb => hp b (List.mem_append_left _ hb),
    hnone ys fun b hb => hp b (List.mem_append_right _ hb)]
  rfl

/-- What is asked of all entries but one leaves the others. -/
theorem filter_others {α : Type} {p : α → Bool} {xs : List α} {a : α} {ys : List α} (ha : p a = false)
    (hp : ∀ b ∈ xs ++ ys, p b = true) : (xs ++ a :: ys).filter p = xs ++ ys := by
  rw [List.filter_append, List.filter_cons_of_neg (by simp [ha]),
    List.filter_eq_self.2 fun b hb => hp b (List.mem_append_left _ hb),
    List.filter_eq_self.2 fun b hb => hp b (List.mem_append_right _ hb)]

/-- The entry at a place is among the entries before and after it. -/
theorem eq_middle_of_getElem? {α : Type} {l : List α} {k : Nat} {a : α} (h : l[k]? = some a) :
    ∃ xs ys, l = xs ++ a :: ys ∧ xs.length = k ∧ ∀ b ∈ xs ++ ys, ∃ j, j ≠ k ∧ l[j]? = some b := by
  obtain ⟨hk, rfl⟩ := List.getElem?_eq_some_iff.1 h
  refine ⟨l.take k, l.drop (k + 1), ?_, List.length_take_of_le (Nat.le_of_lt hk), fun b hb => ?_⟩
  · rw [← List.drop_eq_getElem_cons hk, List.take_append_drop]
  · rcases List.mem_append.1 hb with hb | hb
    · obtain ⟨j, hj, rfl⟩ := List.getElem_of_mem hb
      rw [List.length_take] at hj
      exact ⟨j, by omega, by rw [List.getElem_take, List.getElem?_eq_getElem]⟩
    · obtain ⟨j, hj, rfl⟩ := List.getElem_of_mem hb
      rw [List.length_drop] at hj
      exact ⟨k + 1 + j, by omega, by rw [List.getElem_drop, List.getElem?_eq_getElem]⟩

/-! ### The request and the answer of an access (R213, R214) -/

theorem AccStatus.open_iff (st : AccStatus) : st.open = true ↔ st = .sent := by
  cases st <;> simp [AccStatus.open]

/-- With identifiers of their own, the packets before one are those before its place. -/
theorem takeWhile_id {l : List Packet} (h : (l.map (·.id)).Nodup) {i : Nat} {p : Packet} (hp : l[i]? = some p) :
    l.takeWhile (fun q => q.id != p.id) = l.take i := by
  induction l generalizing i with
  | nil => simp at hp
  | cons x l ih =>
    rw [List.map_cons, List.nodup_cons] at h
    cases i with
    | zero =>
      obtain rfl : x = p := by simpa using hp
      simp
    | succ i =>
      have hp' : l[i]? = some p := by simpa using hp
      have hne : x.id ≠ p.id := fun he => h.1 (he ▸ List.mem_map_of_mem (List.mem_of_getElem? hp'))
      rw [List.takeWhile_cons_of_pos (by simpa using hne), ih h.2 hp', List.take_succ_cons]

theorem State.onWay_iff (s : State) (a : Access) (h : (s.net.map (·.id)).Nodup) :
    s.onWay a = true ↔ ∃ i p, s.net[i]? = some p ∧ a.id ∈ p.body.carried ∧ (p.pos ≠ p.dst ∨ p.moving = true ∨
      ∃ q ∈ s.net.take i, q.src = p.src ∧ q.dst = p.dst ∧ q.vn1 = p.vn1 ∧ s.loadsBeside a q = false) := by
  unfold State.onWay Packet.sameStream
  simp only [List.any_eq_true, Bool.and_eq_true, Bool.or_eq_true, List.contains_iff_mem, bne_iff_ne, beq_iff_eq,
    Bool.not_eq_true', and_assoc, or_assoc]
  constructor
  · rintro ⟨p, hp, hc, hw⟩
    obtain ⟨i, hi, rfl⟩ := List.getElem_of_mem hp
    have hi' := List.getElem?_eq_getElem hi
    rw [takeWhile_id h hi'] at hw
    exact ⟨i, _, hi', hc, hw⟩
  · rintro ⟨i, p, hi, hc, hw⟩
    rw [← takeWhile_id h hi] at hw
    exact ⟨p, List.mem_of_getElem? hi, hc, hw⟩

theorem State.mayPerform_iff (s : State) (a : Access) : s.mayPerform a = true ↔ MayPerform s a := by
  unfold State.mayPerform MayPerform
  simp only [Bool.and_eq_true, Bool.not_eq_true', AccStatus.open_iff, and_assoc]

/-- Every request packet is that of access `i` alone, or names other accesses only. -/
def OwnRequest (s : State) (i : Nat) : Prop :=
  ∀ p ∈ s.net, ∀ is, p.body = .request is → is = [i] ∨ (is ≠ [] ∧ i ∉ is)

/-- The answer of one access takes its request packet away and leaves every other as it is. -/
theorem State.sendAnswer_one {s : State} {a : Access} (h : OwnRequest s a.id) :
    s.sendAnswer a [a.id] = answeredBack s a := by
  unfold State.sendAnswer answeredBack
  refine congrArg (fun l => ({ s with net := l } : State).inject (s.homeTile a.tile a.target) a.tile true a.ctx []
    (.answer [a.id])) ?_
  refine (List.filterMap_congr fun p hp => ?_).trans (congrFun List.filterMap_eq_filter _)
  cases hb : p.body with
  | request is =>
    rcases h p hp is hb with rfl | ⟨hne, hmem⟩
    · simp [Option.guard, hb]
    · obtain ⟨x, is', rfl⟩ := List.exists_cons_of_ne_nil hne
      obtain ⟨hx, hmem'⟩ := not_or.1 (mt List.mem_cons.2 hmem)
      have hkeep : ((x :: is').filter fun i => !([a.id] : List Nat).contains i) = x :: is' :=
        List.filter_eq_self.2 fun i hi => by
          have : i ≠ a.id := fun he => hmem (he ▸ hi)
          simpa using this
      have hall : (x :: is').all [a.id].contains = false := by simp [Ne.symm hx]
      have hother : Body.request (x :: is') ≠ .request [a.id] := fun he =>
        hx (List.cons.inj (Body.request.inj he)).1.symm
      simp only [hall, hkeep, Bool.false_eq_true, if_false, Option.guard, hb, decide_eq_true hother, if_true]
      rw [← hb]
  | _ => simp [Option.guard, hb]

/-- A packet sent is on the network. -/
theorem State.inject_sends (s : State) (x y : Nat) (v : Bool) (c : Nat) (l : List Nat) (b : Body) :
    ∃ p ∈ (s.inject x y v c l b).net, p.body = b ∧ p.dst = y ∧ p.vn1 = v := by
  unfold State.inject State.route State.sendOn
  split
  · exact ⟨_, List.mem_map.2 ⟨_, List.mem_append_right _ (List.mem_singleton_self _), if_pos rfl⟩, rfl, rfl, rfl⟩
  · exact ⟨_, List.mem_append_right _ (List.mem_singleton_self _), rfl, rfl, rfl⟩

theorem answeredBack_sends (s : State) (a : Access) :
    ∃ p ∈ (answeredBack s a).net, p.body = .answer [a.id] ∧ p.dst = a.tile ∧ p.vn1 = true := State.inject_sends ..

theorem answeredBack_acc (s : State) (a : Access) : (answeredBack s a).acc = s.acc := State.inject_acc ..

theorem answeredBack_mem (s : State) (a : Access) : (answeredBack s a).mem = s.mem := State.route_mem ..

theorem answeredBack_strands (s : State) (a : Access) : (answeredBack s a).strands = s.strands := State.route_strands ..

/-! ### An access that stands alone (R63, R79) -/

/-- The access stands between others, of other identifiers and other instructions. -/
structure Stands (s : State) (k : Nat) (a : Access) (xs ys : List Access) : Prop where
  acc : s.acc = xs ++ a :: ys
  place : xs.length = k
  id : ∀ b ∈ xs ++ ys, b.id ≠ a.id
  grp : ∀ b ∈ xs ++ ys, ¬ (b.grp = a.grp ∧ b.strand = a.strand)

theorem stands_of_alone {s : State} {k : Nat} {a : Access} (h : Alone s k a) : ∃ xs ys, Stands s k a xs ys := by
  obtain ⟨hk, hall, -⟩ := h
  obtain ⟨xs, ys, hacc, hlen, hothers⟩ := eq_middle_of_getElem? hk
  refine ⟨xs, ys, hacc, hlen, fun b hb => ?_, fun b hb => ?_⟩ <;>
  · obtain ⟨j, hj, hb'⟩ := hothers b hb
    have := hall j b hb' hj
    tauto

section
variable {s : State} {k : Nat} {a : Access} {xs ys : List Access} (h : Stands s k a xs ys)
include h

/-- A change of the access by its identifier is the change of its entry. -/
theorem Stands.map_id (f : Access → Access) :
    (s.acc.map fun x => if x.id = a.id then f x else x) = s.acc.modify k f := by
  have hsame : ∀ l : List Access, (∀ b ∈ l, b.id ≠ a.id) → (l.map fun x => if x.id = a.id then f x else x) = l :=
    fun l hl => (List.map_congr_left fun b hb => if_neg (hl b hb)).trans (List.map_id l)
  rw [h.acc, ← h.place, modify_middle, List.map_append, List.map_cons, if_pos rfl,
    hsame xs fun b hb => h.id b (List.mem_append_left _ hb), hsame ys fun b hb => h.id b (List.mem_append_right _ hb)]

theorem Stands.find_id : (s.acc.find? fun b => b.id == a.id) = some a := by
  rw [← List.head?_filter, h.acc, filter_middle (p := fun b : Access => b.id == a.id) (beq_self_eq_true _)
    fun b hb => by simpa using h.id b hb]
  rfl

/-- An access that stands alone is performed alone. -/
theorem Stands.joined (ho : a.status.open = true) (hl : a.target.local_ = true) :
    ((s.acc.filter fun b => b.status.open && a.joins b).map (·.id)) = [a.id] := by
  rw [h.acc, filter_middle (by simp [ho, hl, Access.joins]) fun b hb => ?_]
  · rfl
  · have := h.grp b hb
    by_cases h1 : a.grp = b.grp
    · have h2 : a.strand ≠ b.strand := fun he => this ⟨h1.symm, he.symm⟩
      simp [Access.joins, h2]
    · simp [Access.joins, h1]

theorem Stands.performAt {u : State} {st : AccStatus} (hp : s.perform a = (u, st)) (hu : u.acc = s.acc) :
    s.performAt a.id = ended u k st := by
  unfold State.performAt ended
  rw [h.find_id]
  dsimp only
  rw [hp]
  dsimp only
  rw [hu, h.map_id]
end

/-- Only a store of whole lines has its watches evaluated after its elements (R193). -/
theorem State.lineWatches_scalar {a : Access} (h : a.whole = false) (s : State) : s.lineWatches a = s := by
  unfold State.lineWatches
  rw [h]
  split
  · split <;> rfl
  · rfl

/-- R79, R213: an access that stands alone is performed at its home and answered. -/
theorem exec_accessRequest {s : State} {k : Nat} {a : Access} (h : Alone s k a) (hm : MayPerform s a)
    (hl : a.target.local_ = true) (hk : a.kind.plain = true) (hw : a.whole = false) {u : State} {st : AccStatus}
    (hp : s.perform a = (u, st)) (hacc : u.acc = s.acc) (hnet : u.net = s.net) :
    exec (.accessRequest k) s = .next (answeredBack (ended u k st) a) := by
  obtain ⟨xs, ys, hs⟩ := stands_of_alone h
  refine congrArg Host.Outcome.next ?_
  unfold State.accessRequest
  rw [h.1]
  dsimp only
  rw [if_neg (by simp [hl]), if_pos (by simp [(s.mayPerform_iff a).2 hm, hk, hl]),
    hs.joined ((AccStatus.open_iff _).2 hm.1) hl, List.foldl_cons, List.foldl_nil, hs.performAt hp hacc,
    State.lineWatches_scalar hw, State.sendAnswer_one]
  intro p hp
  exact h.2.2 p (hnet ▸ hp)

theorem exec_accessRequest_waits {s : State} {k : Nat} {a : Access} (h : s.acc[k]? = some a)
    (hl : a.target.local_ = true) (hm : ¬ MayPerform s a) : exec (.accessRequest k) s = .next s := by
  refine congrArg Host.Outcome.next ?_
  unfold State.accessRequest
  rw [h]
  dsimp only
  rw [if_neg (by simp [hl]), if_neg (by simp [mt (s.mayPerform_iff a).1 hm])]

/-! ### Reads and writes of memory with no watch (R64 to R66, R163) -/

/-- Without soft errors nothing is corrected. -/
theorem State.correct_of_soft {s : State} (h : s.soft = []) (c pa n : Nat) : s.correct c pa n = s := by
  unfold State.correct
  rw [h]
  simp

theorem sliceOf_low {pa : Nat} (h : pa ≤ 2 ^ 40) : sliceOf pa = none := if_neg (by omega)

/-- A store outside every slice is its bytes and the errors it clears. -/
theorem State.storeAt_low {s : State} {pa : Nat} (h : sliceOf pa = none) (bs : List Byte) :
    s.storeAt pa none bs = { s with
      mem := (s.writeRaw pa bs).mem
      poison := s.poison.filter fun u => !(coveredUnits pa bs.length).contains u
      soft := s.soft.filter fun u => !(coveredUnits pa bs.length).contains u } := by
  unfold State.storeAt State.writePlain
  rw [h, State.writeRaw_eq]

theorem isReservedByte_low {pa : Nat} (h : pa ≤ 2 ^ 40) : isReservedByte pa = false := by
  unfold isReservedByte
  rw [sliceOf_low h]

section
variable {s : State} {pa : Nat} {bs : List Byte} (h : pa + bs.length ≤ 2 ^ 40)
include h

theorem State.byte_storeAt_low {j : Nat} (hj : j < bs.length) : (s.storeAt pa none bs).byte (pa + j) = bs.getD j 0 := by
  rw [State.storeAt_low (sliceOf_low (by omega))]
  rw [List.getD_eq_getElem _ _ hj]
  exact State.byte_writeRaw s pa bs j hj (isReservedByte_low (by omega))

theorem State.storeAt_low_outside : SameBytesOutside s (s.storeAt pa none bs) pa bs.length := by
  rw [State.storeAt_low (sliceOf_low (by omega))]
  exact fun c hc => State.byte_writeRaw_outside s pa bs hc

theorem State.readRaw_storeAt_low : (s.storeAt pa none bs).readRaw pa bs.length = bs := by
  refine List.ext_getElem (by simp) fun i h₁ h₂ => ?_
  simp only [State.readRaw_eq_map, List.getElem_map, List.getElem_range]
  rw [State.byte_storeAt_low h h₂, List.getD_eq_getElem _ _ h₂]
end

theorem State.performMem_load {s : State} {a : Access} {pa : Nat} (hk : a.kind = .load) (hs : s.soft = []) :
    s.performMem a pa none =
      (s, if s.poisoned pa a.size = true then .failed .poison else .done (s.readRaw pa a.size)) := by
  unfold State.performMem
  rw [hk]
  dsimp only
  rw [State.correct_of_soft hs]
  split <;> rfl

theorem State.performMem_store {s : State} {a : Access} {pa : Nat} {bs : List Byte} (hk : a.kind = .store bs)
    (hw : a.whole = false) : s.performMem a pa none =
      if s.partlyPoisoned pa a.size = true then (s, .failed .poison) else (s.storeAt pa none bs, .done []) := by
  unfold State.performMem
  rw [hk, hw]
  rfl

section
variable {s : State} {a : Access} {pa op : Nat} {x y : Word} (hk : a.kind = .atomic op x y)
include hk

theorem State.performMem_atomic_poisoned (hp : s.poisoned pa a.size = true) :
    s.performMem a pa none = (s, .failed .poison) := by
  unfold State.performMem
  rw [hk]
  exact if_pos hp

variable (hs : s.soft = []) (hp : s.poisoned pa a.size = false)
include hs hp

theorem State.performMem_atomic_some {v : Nat}
    (hv : atomicNew op (8 * a.size) (leNat (s.readRaw pa a.size)) (x.toNat % 2 ^ (8 * a.size))
      (y.toNat % 2 ^ (8 * a.size)) = some v) :
    s.performMem a pa none = (s.storeAt pa none (leBytes a.size v), .done (s.readRaw pa a.size)) := by
  unfold State.performMem
  rw [hk]
  dsimp only
  rw [hp, State.correct_of_soft hs, show s.readPlain pa none a.size = s.readRaw pa a.size from rfl, hv]
  rfl

theorem State.performMem_atomic_none
    (hv : atomicNew op (8 * a.size) (leNat (s.readRaw pa a.size)) (x.toNat % 2 ^ (8 * a.size))
      (y.toNat % 2 ^ (8 * a.size)) = none) :
    s.performMem a pa none = (s, .done (s.readRaw pa a.size)) := by
  unfold State.performMem
  rw [hk]
  dsimp only
  rw [hp, State.correct_of_soft hs, show s.readPlain pa none a.size = s.readRaw pa a.size from rfl, hv]
  rfl
end

/-- An access performed at its home and answered: the bytes stored, and what is left alone. -/
theorem answeredBack_storeAt {s : State} {pa : Nat} {bs : List Byte} (h : pa + bs.length ≤ 2 ^ 40) (k : Nat)
    (st : AccStatus) (a : Access) :
    let t := answeredBack (ended (s.storeAt pa none bs) k st) a
    t.acc = (ended s k st).acc ∧ t.strands = s.strands ∧
      (∃ p ∈ t.net, p.body = .answer [a.id] ∧ p.dst = a.tile ∧ p.vn1 = true) ∧
      SameBytesOutside s t pa bs.length ∧ (∀ j < bs.length, t.byte (pa + j) = bs.getD j 0) := by
  intro t
  have hstore := State.storeAt_low (s := s) (sliceOf_low (pa := pa) (by omega)) bs
  have hbyte : ∀ c, t.byte c = (s.storeAt pa none bs).byte c := State.byte_of_mem (answeredBack_mem ..)
  refine ⟨(answeredBack_acc ..).trans ?_, (answeredBack_strands ..).trans ?_, answeredBack_sends .., fun c hc => ?_,
    fun j hj => ?_⟩
  · rw [hstore]
    rfl
  · rw [hstore]
    rfl
  · rw [hbyte, State.storeAt_low_outside h c hc]
  · rw [hbyte, State.byte_storeAt_low h hj]

theorem accessRequestsArePerformed : AccessRequestsArePerformed := by
  refine ⟨State.onWay_iff, fun s k pa a h ht hw hpa hs => ?_⟩
  have hl : a.target.local_ = true := by rw [ht]; rfl
  have hperf : s.perform a = s.performMem a pa none := by unfold State.perform; rw [ht]
  refine ⟨exec_accessRequest_waits h.1 hl, fun hm => ⟨fun hk => ?_, fun bs hk hp => ?_, fun bs hk hlen hp => ?_,
    fun op x y hk hp => ?_, fun op x y hk hp => ?_⟩⟩
  · exact exec_accessRequest h hm hl (by rw [hk]; rfl) hw (hperf.trans (State.performMem_load hk hs)) rfl rfl
  · rw [State.performMem_store hk hw, if_pos hp] at hperf
    exact exec_accessRequest h hm hl (by rw [hk]; rfl) hw hperf rfl rfl
  · rw [State.performMem_store hk hw, hp] at hperf
    rw [← hlen] at hpa ⊢
    have hx := exec_accessRequest h hm hl (by rw [hk]; rfl) hw hperf
    have hstore := State.storeAt_low (s := s) (sliceOf_low (pa := pa) (by omega)) bs
    exact ⟨_, hx (by rw [hstore]) (by rw [hstore]), answeredBack_storeAt hpa k _ a⟩
  · exact exec_accessRequest h hm hl (by rw [hk]; rfl) hw
      (hperf.trans (State.performMem_atomic_poisoned hk hp)) rfl rfl
  · have hx := fun {u st} => exec_accessRequest (u := u) (st := st) h hm hl (by rw [hk]; rfl) hw
    cases hv : atomicNew op (8 * a.size) (leNat (s.readRaw pa a.size)) (x.toNat % 2 ^ (8 * a.size))
        (y.toNat % 2 ^ (8 * a.size)) with
    | none =>
      have hbyte : ∀ c, (answeredBack (ended s k (.done (s.readRaw pa a.size))) a).byte c = s.byte c :=
        State.byte_of_mem ((answeredBack_mem ..).trans rfl)
      refine ⟨_, hx (hperf.trans (State.performMem_atomic_none hk hs hp hv)) rfl rfl, answeredBack_acc ..,
        answeredBack_strands .., answeredBack_sends .., fun c _ => hbyte c, ?_⟩
      rw [State.readRaw_congr fun i _ => hbyte _, hv]
    | some v =>
      have hlen : (leBytes a.size v).length = a.size := leBytes_length ..
      have hpa' : pa + (leBytes a.size v).length ≤ 2 ^ 40 := by rw [hlen]; exact hpa
      have hstore := State.storeAt_low (s := s) (sliceOf_low (pa := pa) (by omega)) (leBytes a.size v)
      obtain ⟨hacc, hstr, hgo, hout, hin⟩ := answeredBack_storeAt hpa' k (.done (s.readRaw pa a.size)) a
      have hread := readRaw_of_bytes hin (off := 0) (n := a.size) (by omega)
      rw [Nat.add_zero, List.drop_zero, List.take_of_length_le (Nat.le_of_eq hlen)] at hread
      rw [hlen] at hout
      refine ⟨_, hx (hperf.trans (State.performMem_atomic_some hk hs hp hv)) (by rw [hstore]) (by rw [hstore]), hacc,
        hstr, hgo, hout, ?_⟩
      rw [hread, hv, leNat_leBytes]

/-! ### The answer back at the tile (R125, R129, R165) -/

theorem OnlyStrand.trans {n : Nat} {s t u : State} (h : OnlyStrand n s t) (h' : OnlyStrand n t u) : OnlyStrand n s u := by
  obtain ⟨hst, hothers⟩ := h
  obtain ⟨htu, hothers'⟩ := h'
  refine ⟨?_, fun k hk => (hothers' k hk).trans (hothers k hk)⟩
  rw [htu, hst]

/-- A strand that is not saved has no image to keep in step. -/
theorem State.savedImage_unsaved {s : State} {n : Nat} (h : (s.strand n).phase.saved = false) : s.savedImage n = none := by
  simp [State.savedImage, h]

/-- A strand that is not saved and awaits nothing else simply no longer awaits the group. -/
theorem State.tryResume_unpend {s : State} {n : Nat} (g : Nat) (h : (s.strand n).phase.saved = false)
    (hr : (s.strand n).resumeWait = false) :
    (s.unpend n g).tryResume n = s.modStrand n fun st => { st with pend := st.pend.filter fun p => p.id != g } := by
  have hst := State.modStrand_strand_same s n fun st => { st with pend := st.pend.filter fun p => p.id != g }
  have himage : s.unpend n g = s.modStrand n fun st => { st with pend := st.pend.filter fun p => p.id != g } := by
    unfold State.unpend State.imagePend State.imageState
    rw [State.savedImage_unsaved (by rw [hst]; exact h)]
  rw [himage]
  unfold State.tryResume
  rw [hst]
  dsimp only
  rw [hr, Bool.false_and, if_neg Bool.false_ne_true, if_neg fun hs => by rw [hs] at h; exact Bool.noConfusion h]

/-- A result for a general register of a running strand (R165). -/
theorem State.deliver_register {s : State} {a : Access} {r : GReg} {n : Nat} {sg : Bool} {bs : List Byte}
    (hd : a.dest = .g r n sg) (hph : (s.strand a.strand).phase = .running)
    (hsp : (s.strand a.strand).spBad r (loadWord n sg bs) = false) :
    OnlyStrand a.strand s (s.deliver a bs) ∧
      (s.deliver a bs).strand a.strand = writeG (s.strand a.strand) r (loadWord n sg bs) := by
  have hu : s.deliver a bs = if r = 0 then s
      else s.putLate a.strand (fun st => writeG st r (loadWord n sg bs)) (8 * r.val)
        (leBytes 8 (loadWord n sg bs).toNat) := by
    simp [State.deliver, hd, hsp]
  by_cases h0 : r = 0
  · rw [hu, if_pos h0, h0]
    exact ⟨⟨rfl, fun _ _ => rfl⟩, (writeG_zero _ _).symm⟩
  · have hrun : ((s.modStrand a.strand fun st => writeG st r (loadWord n sg bs)).strand a.strand).phase = .running := by
      rw [State.modStrand_strand_same, writeG_phase, hph]
    rw [hu, if_neg h0, State.putLate, State.imageField_running hrun]
    exact ⟨State.modStrand_onlyStrand .., State.modStrand_strand_same ..⟩

/-- What a group of one access brings. -/
theorem State.answer_one {s : State} {a : Access} (hlive : s.accessLive a = true) :
    s.answer [a] = ((s.settleGroup [a] true).unpend a.strand a.grp).tryResume a.strand := by
  unfold State.answer
  dsimp only
  rw [hlive]
  rfl

theorem State.accessLive_running {s : State} {a : Access} (hrun : (s.strand a.strand).run = a.run)
    (hph : (s.strand a.strand).phase = .running) : s.accessLive a = true := by
  simp [State.accessLive, hrun, hph]

theorem State.settleGroup_done {s : State} {a : Access} {bs : List Byte} (h : a.status = .done bs) :
    s.settleGroup [a] true = s.deliverKind a bs := by
  simp [State.settleGroup, worst, h, AccStatus.cause, AccStatus.bytes]

theorem State.settleGroup_failed {s : State} {a : Access} {c : Cause} (h : a.status = .failed c) :
    s.settleGroup [a] true = s.raiseLate a.strand a.run a.hidx (a.lateFault c) := by
  simp [State.settleGroup, worst, h, AccStatus.cause]

theorem State.deliverKind_bytes {s : State} {a : Access} (hr : ∀ d, a.kind ≠ .redlv d) (hp : ∀ v w, a.kind ≠ .probe v w)
    (bs : List Byte) : s.deliverKind a bs = s.deliver a bs := by
  unfold State.deliverKind
  cases h : a.kind with
  | redlv d => exact absurd h (hr d)
  | probe v w => exact absurd h (hp v w)
  | _ => rfl

/-- The state once the answer of `a` is off the network and `rest` are the accesses still in flight. -/
def sunk (s : State) (a : Access) (rest : List Access) : State :=
  { s with net := s.net.filter fun p => p.body ≠ .answer [a.id], acc := rest }

/-- The answer of an access that stands alone is sunk: its packet is gone, and it is no longer in flight. -/
theorem State.sinkAnswer_alone {s : State} {a : Access} {xs ys : List Access} (hacc : s.acc = xs ++ a :: ys)
    (hothers : ∀ b ∈ xs ++ ys, b.id ≠ a.id ∧ ¬ (b.grp = a.grp ∧ b.strand = a.strand))
    (hnet : ∀ p ∈ s.net, a.id ∈ p.body.carried → p.body = .answer [a.id]) :
    s.sinkAnswer a = (sunk s a (xs ++ ys)).answer [{ a with back := true }] := by
  have hcar : ∀ p ∈ s.net, p.body.carried.contains a.id = decide (p.body = .answer [a.id]) := by
    intro p hp
    rw [Bool.eq_iff_iff, List.contains_iff_mem, decide_eq_true_iff]
    exact ⟨hnet p hp, fun h => by rw [h]; exact List.mem_singleton_self _⟩
  have hgone : (s.net.filter fun p => !p.body.carried.contains a.id) = s.net.filter fun p => p.body ≠ .answer [a.id] :=
    List.filter_congr fun p hp => by rw [hcar p hp, decide_not]
  have hids : ∀ x : Access, (a.id :: ((s.net.filter fun p => p.body.carried.contains a.id).flatMap
      fun p => p.body.carried)).contains x.id = true ↔ x.id = a.id := by
    intro x
    rw [List.contains_iff_mem, List.mem_cons, List.mem_flatMap]
    refine ⟨fun h => h.elim id ?_, .inl⟩
    rintro ⟨p, hp, hx⟩
    obtain ⟨hp, hc⟩ := List.mem_filter.1 hp
    rw [hcar p hp, decide_eq_true_iff] at hc
    rw [hc] at hx
    exact List.mem_singleton.1 hx
  have hst : Stands s xs.length a xs ys := ⟨hacc, rfl, fun b hb => (hothers b hb).1, fun b hb => (hothers b hb).2⟩
  have hback : (s.acc.map fun x => if (a.id :: ((s.net.filter fun p => p.body.carried.contains a.id).flatMap
      fun p => p.body.carried)).contains x.id then { x with back := true } else x) =
      xs ++ { a with back := true } :: ys := by
    refine (List.map_congr_left fun x _ => if_congr (hids x) rfl rfl).trans ((hst.map_id _).trans ?_)
    rw [hacc, modify_middle]
  have hmine : ∀ b ∈ xs ++ ys, (b.grp == a.grp && b.strand == a.strand) = false := fun b hb => by
    simpa using (hothers b hb).2
  have hgroup : ((xs ++ { a with back := true } :: ys).filter fun b => b.grp == a.grp && b.strand == a.strand) =
      [{ a with back := true }] := filter_middle (by simp) hmine
  have hrest : ((xs ++ { a with back := true } :: ys).filter fun b => !(b.grp == a.grp && b.strand == a.strand)) =
      xs ++ ys := filter_others (by simp) fun b hb => by rw [hmine b hb]; rfl
  unfold State.sinkAnswer
  dsimp only
  rw [hback, hgroup, hrest, hgone]
  rfl

theorem exec_accessReply_home {s : State} {k : Nat} {a : Access} (h : s.acc[k]? = some a) :
    exec (.accessReply k .home) s = .next (if a.status.open then s.peerReply k a .home else if s.onWay a then s
      else s.sinkAnswer a) := by
  refine congrArg Host.Outcome.next ?_
  unfold State.accessReply
  rw [h]

theorem OnlyStrand.of_sunk {n : Nat} {s t : State} {a : Access} {rest : List Access}
    (h : OnlyStrand n (sunk s a rest) t) :
    t.acc = rest ∧ t.mem = s.mem ∧ SameStrandsBut n s t ∧ t.net = s.net.filter fun p => p.body ≠ .answer [a.id] := by
  obtain ⟨ht, hothers⟩ := h
  exact ⟨by rw [ht]; rfl, by rw [ht]; rfl, hothers, by rw [ht]; rfl⟩

/-- A late fault of a strand that still runs (R129). -/
theorem State.raiseLate_running {s : State} {n run : Nat} (hrun : (s.strand n).run = run)
    (hph : (s.strand n).phase = .running) (x : BitVec 12) (f : FaultRec) :
    s.raiseLate n run x f = s.modStrand n fun st => st.fault { f with time := s.time } := by
  unfold State.raiseLate
  dsimp only
  rw [if_neg (not_not.2 hrun), hph]
  rfl

/-- What the first fault of a strand, a deferred one, leaves in its registers (R121, R129). -/
theorem Strand.fault_deferred {st : Strand} {f : FaultRec} (h : st.faults = []) (hd : f.deferred = true) :
    (st.fault f).cause.toNat = f.cause.code.toNat + 256 ∧ (st.fault f).badva = f.badva ∧ (st.fault f).faults = [f] := by
  obtain ⟨hb, hc⟩ := Strand.fault_first st f h
  refine ⟨?_, hb, by simp [Strand.fault, h]⟩
  rw [hc, hd, if_pos rfl]
  cases f.cause <;> rfl

theorem accessRepliesComeBack : AccessRepliesComeBack := by
  intro s k xs ys a hacc hk hothers hnet st hrun hph hres back
  have hget : s.acc[k]? = some a := by rw [hacc, hk]; simp
  have hx := exec_accessReply_home hget
  refine ⟨fun hst hway => ?_, fun hl hst => ?_, fun hway =>
    ⟨fun bs r n sg hst hnr hnp hd => ?_, fun c hst hc => ?_⟩⟩
  · rw [hx, if_neg (mt (AccStatus.open_iff _).1 hst), if_pos hway]
  · rw [hx, if_pos ((AccStatus.open_iff _).2 hst)]
    unfold State.peerReply
    rw [hl]
    rfl
  all_goals
    have hclosed : ¬ a.status.open = true := by rw [hst]; exact Bool.false_ne_true
    rw [if_neg hclosed, hway, if_neg Bool.false_ne_true, State.sinkAnswer_alone hacc hothers hnet,
      State.answer_one (s := sunk s a (xs ++ ys)) (a := { a with back := true })
        (State.accessLive_running (s := sunk s a (xs ++ ys)) hrun hph)] at hx
  · intro v hsp
    rw [State.settleGroup_done (a := { a with back := true }) hst,
      State.deliverKind_bytes (a := { a with back := true }) hnr hnp] at hx
    obtain ⟨honly, hme⟩ := State.deliver_register (s := sunk s a (xs ++ ys)) (a := { a with back := true }) hd hph hsp
    have hresumed := State.tryResume_unpend a.grp
      (by rw [hme, writeG_phase]; exact congrArg Phase.saved hph) (by rw [hme, writeG_resumeWait]; exact hres)
    refine ⟨_, hx.trans (congrArg _ hresumed), (honly.trans (State.modStrand_onlyStrand ..)).of_sunk, ?_⟩
    rw [State.modStrand_strand_same, hme, writeG_pend]
    rfl
  · rw [State.settleGroup_failed (a := { a with back := true }) hst,
      State.raiseLate_running (s := sunk s a (xs ++ ys)) (n := a.strand) hrun hph] at hx
    have hme := State.modStrand_strand_same (sunk s a (xs ++ ys)) a.strand fun st =>
      st.fault { a.lateFault c with time := s.time }
    have hresumed := State.tryResume_unpend a.grp (by rw [hme]; rfl) (by rw [hme]; exact hres)
    refine ⟨_, hx.trans (congrArg _ hresumed),
      ((State.modStrand_onlyStrand ..).trans (State.modStrand_onlyStrand ..)).of_sunk, ?_⟩
    rw [State.modStrand_strand_same, hme]
    refine ⟨rfl, rfl, rfl, fun hnone => ?_⟩
    obtain ⟨hcause, hbadva, hfaults⟩ := Strand.fault_deferred (st := st)
      (f := { a.lateFault c with time := s.time }) hnone rfl
    exact ⟨hcause, rfl, hbadva, _, hfaults, rfl, rfl, rfl, rfl, rfl⟩

/-! ### A store sends no request (R231) -/

/-- A body that is no request. -/
def Body.isRequest : Body → Bool
  | .request _ => true
  | _ => false

section
variable {i : Nat} {s u : State}

theorem OwnRequest.of_net (h : OwnRequest s i) (hn : u.net = s.net) : OwnRequest u i := fun p hp => h p (hn ▸ hp)

theorem OwnRequest.inject (h : OwnRequest s i) {b : Body} (hb : b.isRequest = false) (x y : Nat) (v : Bool) (c : Nat)
    (l : List Nat) : OwnRequest (s.inject x y v c l b) i := by
  have hnew : ∀ p : Packet, p.body = b → ∀ is, p.body = .request is → is = [i] ∨ (is ≠ [] ∧ i ∉ is) := fun p hp is his => by
    rw [← hp, his] at hb
    exact Bool.noConfusion hb
  have happ : ∀ q ∈ s.net ++ [({ id := s.nextId, src := x, dst := y, pos := x, vn1 := v, ctx := c, after := l, body := b } : Packet)],
      ∀ is, q.body = .request is → is = [i] ∨ (is ≠ [] ∧ i ∉ is) := fun q hq => by
    rcases List.mem_append.1 hq with hq | hq
    · exact h q hq
    · exact hnew q (by rw [List.mem_singleton.1 hq])
  unfold State.inject State.route State.sendOn
  split
  · intro p hp
    obtain ⟨q, hq, rfl⟩ := List.mem_map.1 hp
    split
    · exact hnew _ rfl
    · exact happ q hq
  · exact happ

theorem OwnRequest.foldl {α : Type} {f : State → α → State} (hf : ∀ s x, OwnRequest s i → OwnRequest (f s x) i)
    (h : OwnRequest s i) (l : List α) : OwnRequest (l.foldl f s) i := by
  induction l generalizing s with
  | nil => exact h
  | cons x l ih => exact ih (hf s x h)
end

theorem State.peerVerdict_net (s : State) (i : Nat) : (s.peerVerdict i).1.net = s.net := by
  unfold State.peerVerdict
  split <;> rfl

theorem State.peerWrite_net {s u : State} {i off : Nat} {key : Option Nat} {bs : List Byte}
    (h : s.peerWrite i off key bs = some u) : u.net = s.net := by
  have hstore : (s.peerStore i off key bs).1.net = s.net := by
    unfold State.peerStore
    split
    · exact State.peerVerdict_net ..
    · rw [State.peerVerdict_net]
      cases key <;> rfl
  unfold State.peerWrite at h
  split at h
  · rename_i x hx
    rw [hx] at hstore
    cases h
    exact hstore
  · cases h

theorem State.writePlain_net (s : State) (pa : Nat) (key : Option Nat) (bs : List Byte) :
    (s.writePlain pa key bs).net = s.net := by rw [State.writePlain_eq]

theorem State.vaWrite_net {s u : State} {c va : Nat} {bs : List Byte} (h : s.vaWrite c va bs = some u) :
    u.net = s.net := by
  unfold State.vaWrite at h
  split at h
  · cases h
    exact State.writePlain_net ..
  · exact State.peerWrite_net h
  all_goals cases h

theorem State.vaWriteAll_net {s u : State} {c fuel va : Nat} {bs : List Byte} (h : s.vaWriteAll c fuel va bs = some u) :
    u.net = s.net := by
  induction fuel generalizing s va bs with
  | zero => cases h; rfl
  | succ n ih =>
    simp only [State.vaWriteAll] at h
    split at h
    · cases h
      rfl
    · split at h
      · rename_i x hx
        exact (ih h).trans (State.vaWrite_net hx)
      · cases h

theorem State.ringPut_net (s : State) (c : Nat) (r : Ring) (bs : List Byte) : (s.ringPut c r bs).1.net = s.net := by
  unfold State.ringPut
  dsimp only
  split
  · rfl
  · split
    · rename_i x hx
      have hnet := State.vaWriteAll_net hx
      dsimp only
      split <;> exact hnet
    · rfl

theorem State.setFlt_net (s : State) (c : Nat) : (s.setFlt c).net = s.net := by
  unfold State.setFlt
  split <;> rfl

section
variable {i : Nat} {s : State} (h : OwnRequest s i)
include h

theorem OwnRequest.ringPut (c : Nat) (r : Ring) (bs : List Byte) : OwnRequest (s.ringPut c r bs).1 i :=
  h.of_net (State.ringPut_net ..)

theorem OwnRequest.event (c : Nat) (k : Cause) (a b d : Nat) (x y : Word) : OwnRequest (s.event c k a b d x y) i :=
  h.ringPut _ _ _

theorem OwnRequest.sendReply (t n : Nat) (x : Hdr) (ud nr : Bool) (args : List Word) :
    OwnRequest (s.sendReply t n x ud nr args) i := by
  unfold State.sendReply
  refine OwnRequest.inject ?_ rfl _ _ _ _ _
  exact h.of_net rfl

theorem OwnRequest.undeliverable (t r : Nat) (m : Msg) : OwnRequest (s.undeliverable t r m) i := by
  unfold State.undeliverable
  dsimp only
  have hrec := fun bs => (h.ringPut m.hdr.ctx.toNat .undeliverable bs).event m.hdr.ctx.toNat .handlerAbsent r t 0 0 0
  split
  · exact OwnRequest.sendReply (hrec _) _ _ _ _ _ _
  · split
    · exact OwnRequest.of_net (hrec _) (State.setFlt_net _ _)
    · exact hrec _

theorem OwnRequest.sendMsg (t : Nat) (l : List Nat) (m : Msg) : OwnRequest (s.sendMsg t l m) i := by
  unfold State.sendMsg
  split
  · refine OwnRequest.inject ?_ rfl _ _ _ _ _
    exact h.of_net rfl
  · exact h.undeliverable _ _ _

theorem OwnRequest.postWatch1 (t : Nat) (w : Watch) : OwnRequest (s.postWatch1 t w) i := by
  unfold State.postWatch1
  split
  · exact h
  · unfold State.post
    refine OwnRequest.sendMsg ?_ _ _ _
    exact h.of_net rfl

theorem OwnRequest.evalWatches (t o n : Nat) : OwnRequest (s.evalWatches t o n) i := by
  unfold State.evalWatches
  refine OwnRequest.foldl (fun s w h => OwnRequest.postWatch1 h t w) ?_ _
  exact h.of_net rfl

theorem OwnRequest.storeAt (pa : Nat) (key : Option Nat) (bs : List Byte) : OwnRequest (s.storeAt pa key bs) i := by
  unfold State.storeAt
  dsimp only
  split
  · refine OwnRequest.evalWatches ?_ _ _ _
    exact h.of_net (State.writePlain_net ..)
  · exact h.of_net (State.writePlain_net ..)
end

/-! ### Barrier operations at their home (R267 to R273) -/

theorem exec_barrierOperation {s : State} {k : Nat} {a : Access} {op : BarrierOp} (h : Alone s k a) (hm : MayPerform s a)
    (hl : a.target.local_ = true) (hk : a.kind = .barrier op) {u : State} {r : AccStatus}
    (hp : s.performBarrier a = (u, r)) (hu : OwnRequest u a.id) :
    exec (.barrierOperation k) s = .next (answeredBack (ended u k r) a) := by
  refine congrArg Host.Outcome.next ?_
  unfold State.barrierOperation
  rw [h.1]
  dsimp only
  rw [if_pos (by simp [(s.mayPerform_iff a).2 hm, hk, hl, AccKind.plain]), hp]
  exact State.sendAnswer_one hu

theorem exec_barrierOperation_waits {s : State} {k : Nat} {a : Access} (h : s.acc[k]? = some a) (hm : ¬ MayPerform s a) :
    exec (.barrierOperation k) s = .next s := by
  refine congrArg Host.Outcome.next ?_
  unfold State.barrierOperation
  rw [h]
  dsimp only
  rw [if_neg (by simp [mt (s.mayPerform_iff a).1 hm])]

theorem barrierIn_eq (s : State) (pa : Nat) : BarObj.ofBytes (s.readPlain pa none 32) = barrierIn s pa :=
  congrArg BarObj.ofBytes (State.readRaw_eq_map s pa 32)

/-! ### The object in memory (R266) -/

/-- Every field of the object lies in its bits. -/
structure BarObj.Fits (o : BarObj) : Prop where
  drop : o.drop < 2 ^ 15
  expect : o.expect < 2 ^ 16
  arrived : o.arrived < 2 ^ 16
  res0 : o.res0 < 2 ^ 14
  res1 : o.res1 < 2 ^ 7
  pending : o.pending < 2 ^ 56
  res2 : o.res2 < 2 ^ 32
  nwait : o.nwait < 2 ^ 16
  head : o.head < 2 ^ 16
  baseb : o.baseb < 2 ^ 32
  dbase : o.dbase < 2 ^ 32

theorem leNat_lt (bs : List Byte) : leNat bs < 2 ^ (8 * bs.length) := by
  induction bs with
  | nil => simp [leNat]
  | cons b bs ih =>
    have hb := b.isLt
    rw [leNat, List.length_cons, Nat.mul_add, Nat.pow_add]
    omega

theorem fieldAt_lt (bs : List Byte) (off : Nat) : fieldAt bs off 8 < 2 ^ 64 := by
  refine Nat.lt_of_lt_of_le (leNat_lt _) (Nat.pow_le_pow_right (by decide) ?_)
  have := List.length_take_le 8 (bs.drop off)
  omega

theorem BarObj.ofBytes_fits (bs : List Byte) : (BarObj.ofBytes bs).Fits := by
  have h2 := fieldAt_lt bs 16
  have h3 := fieldAt_lt bs 24
  constructor <;> dsimp only [BarObj.ofBytes] <;> omega

/-- Four words in memory order. -/
theorem fieldAt_words (a b c d : Nat) :
    let l := leBytes 8 a ++ leBytes 8 b ++ leBytes 8 c ++ leBytes 8 d
    fieldAt l 0 8 = a % 2 ^ 64 ∧ fieldAt l 8 8 = b % 2 ^ 64 ∧ fieldAt l 16 8 = c % 2 ^ 64 ∧ fieldAt l 24 8 = d % 2 ^ 64 := by
  intro l
  have hl : l = leBytes 8 a ++ (leBytes 8 b ++ (leBytes 8 c ++ (leBytes 8 d ++ []))) := by simp [l]
  have hskip : ∀ (v off : Nat) (r : List Byte), fieldAt (leBytes 8 v ++ r) (8 + off) 8 = fieldAt r off 8 := fun v off r => by
    rw [fieldAt_skip (by rw [leBytes_length]; omega), leBytes_length, Nat.add_sub_cancel_left]
  rw [hl]
  refine ⟨fieldAt_leBytes .., ?_, ?_, ?_⟩
  · exact (hskip a 0 _).trans (fieldAt_leBytes ..)
  · exact (hskip a 8 _).trans ((hskip b 0 _).trans (fieldAt_leBytes ..))
  · exact (hskip a 16 _).trans ((hskip b 8 _).trans ((hskip c 0 _).trans (fieldAt_leBytes ..)))

theorem BarObj.ofBytes_bytes {o : BarObj} (h : o.Fits) : BarObj.ofBytes o.bytes = o := by
  obtain ⟨h1, h2, h3, h4, h5, h6, h7, h8, h9, h10, h11⟩ := h
  have hp := Bool.toNat_lt o.phase
  have ho := Bool.toNat_lt o.ovr
  have hi := Bool.toNat_lt o.init
  have hv := Bool.toNat_lt o.bovr
  have hbit : ∀ (b : Bool) (n : Nat), n = b.toNat → (n == 1) = b := fun b n h => by cases b <;> simp [h]
  obtain ⟨w0, w1, w2, w3⟩ := fieldAt_words
    (o.phase.toNat * 2 ^ 63 + o.drop * 2 ^ 48 + o.expect * 2 ^ 32 + o.arrived * 2 ^ 16 + o.res0 * 4 +
      o.ovr.toNat * 2 + o.init.toNat)
    (o.bovr.toNat * 2 ^ 63 + o.res1 * 2 ^ 56 + o.pending) (o.res2 * 2 ^ 32 + o.nwait * 2 ^ 16 + o.head)
    (o.baseb * 2 ^ 32 + o.dbase)
  rw [← BarObj.bytes] at w0 w1 w2 w3
  unfold BarObj.ofBytes
  dsimp only
  rw [w0, w1, w2, w3]
  cases o
  rw [BarObj.mk.injEq]
  refine ⟨hbit _ _ ?_, ?_, ?_, ?_, ?_, hbit _ _ ?_, hbit _ _ ?_, hbit _ _ ?_, ?_, ?_, ?_, ?_, ?_, ?_, ?_⟩ <;>
  · dsimp only at *
    omega

theorem BarObj.bytes_length (o : BarObj) : o.bytes.length = 32 := by simp [BarObj.bytes, leBytes_length]

/-- The object read back where its bytes have been written. -/
theorem barrierIn_of_bytes {t : State} {pa : Nat} {o : BarObj} (ho : o.Fits)
    (ht : ∀ j < o.bytes.length, t.byte (pa + j) = o.bytes.getD j 0) : barrierIn t pa = o := by
  have hbytes : ((List.range 32).map fun i => t.byte (pa + i)) = o.bytes := by
    refine List.ext_getElem (by simp [o.bytes_length]) fun i h₁ h₂ => ?_
    rw [List.getElem_map, List.getElem_range, ht i h₂, List.getD_eq_getElem _ _ h₂]
  rw [barrierIn, hbytes, BarObj.ofBytes_bytes ho]

theorem arrivedIn_fits {o : BarObj} (h : o.Fits) (add : Nat) (drop : Bool) : (arrivedIn o add drop).Fits := by
  have hdrop : (arrivedIn o add drop).drop < 2 ^ 15 := by
    have := h.drop
    cases drop <;> simp only [arrivedIn, if_true, Bool.false_eq_true, if_false] <;> omega
  exact { h with drop := hdrop, arrived := Nat.mod_lt _ (by decide), pending := Nat.mod_lt _ (by decide) }

theorem flipped_fits {o : BarObj} (h : o.Fits) (time : Word) : (flipped o time).Fits :=
  { h with
    drop := Nat.two_pow_pos 15
    arrived := Nat.two_pow_pos 16
    expect := Nat.mod_lt _ (by decide)
    pending := Nat.lt_trans h.baseb (by decide)
    dbase := Nat.mod_lt _ (by decide) }

/-! ### Arrivals (R271 to R273) -/

/-- An arrival that the barrier refuses. -/
theorem State.barArrive_refused {s : State} {u pa : Nat} {c : Option Nat} {add : Word} {drop : Bool} {o : BarObj}
    (h : o.init = false ∨ o.arrived = o.expect) :
    s.barArrive u pa c add drop o = (s, { o with ovr := true }, none) := by
  unfold State.barArrive
  rw [if_pos (by simpa using h)]

/-- An arrival that the barrier takes is counted, and completes the phase when it can. -/
theorem State.barArrive_taken {s : State} {u pa : Nat} {c : Option Nat} {add : Word} {drop : Bool} {o : BarObj}
    (hi : o.init = true) (ha : o.arrived ≠ o.expect) {v : State} {o' : BarObj} {done : Bool}
    (h : s.barComplete u pa c (arrivedIn o add.toNat drop) = (v, o', done)) :
    s.barArrive u pa c add drop o = (v, o', some (done.toNat * 2 + o.phase.toNat)) := by
  have hpend : pend56 ((o.pending : Int) + (add.toNat : Int) % 2 ^ 56) = (o.pending + add.toNat % 2 ^ 56) % 2 ^ 56 := by
    unfold pend56 wrap
    omega
  unfold State.barArrive
  rw [if_neg (by simp [hi, ha])]
  dsimp only
  rw [hpend]
  unfold arrivedIn at h
  rw [h]

/-- An object that does not complete and is not below zero stays as it is. -/
theorem State.barComplete_open {s : State} {u pa : Nat} {c : Option Nat} {o : BarObj} (h : ¬ completing o)
    (hn : ¬ (o.arrived = o.expect ∧ 2 ^ 55 ≤ o.pending)) : s.barComplete u pa c o = (s, o, false) := by
  unfold State.barComplete
  split
  · rename_i hfull
    obtain ⟨hi, ha⟩ : o.init = true ∧ o.arrived = o.expect := by simpa using hfull
    rw [if_neg fun hp => h ⟨hi, ha, hp⟩, if_neg (by simpa [BarObj.negative] using fun hp => hn ⟨ha, hp⟩)]
  · rfl

/-- A barrier for which nothing waits completes by its flip alone (R272). -/
theorem State.barComplete_alone {s : State} {u pa : Nat} {c : Option Nat} {o : BarObj} (h : completing o)
    (hp : s.pool u = []) : s.barComplete u pa c o = (s.setPool u [], flipped o s.time, true) := by
  obtain ⟨hi, ha, hz⟩ := h
  have hchain : s.chain u pa o = [] := by
    unfold State.chain
    rw [hp]
    rfl
  have hposts : s.postConts u pa o false (fun c => c.phase == o.phase) = (s.setPool u [], o) := by
    unfold State.postConts
    rw [hchain, hp]
    rfl
  unfold State.barComplete
  rw [if_pos (by simp [hi, ha]), if_pos hz]
  dsimp only
  rw [hposts]
  have htime : (s.setPool u []).time = s.time := by
    unfold State.setPool
    split <;> rfl
  dsimp only
  rw [htime]
  rfl

theorem State.performBarrier_poisoned {s : State} {a : Access} {pa : Nat} {op : BarrierOp} (ht : a.target = .mem pa none)
    (hk : a.kind = .barrier op) (hp : s.poisoned pa 32 = true) : s.performBarrier a = (s, .failed .poison) := by
  unfold State.performBarrier
  rw [ht, hk]
  exact if_pos hp

section
variable {s : State} {a : Access} {pa : Nat} {op : BarrierOp} (ht : a.target = .mem pa none) (hk : a.kind = .barrier op)
  (hs : s.soft = []) (hp : s.poisoned pa 32 = false)
include ht hk hs hp

theorem State.performBarrier_some {u : State} {r : Nat} (h : s.barrierAt (some a.ctx) pa none op = (u, some r)) :
    s.performBarrier a = (u, .done (leBytes 8 r)) := by
  unfold State.performBarrier
  rw [ht, hk]
  dsimp only
  rw [hp, if_neg Bool.false_ne_true, State.correct_of_soft hs, h]

theorem State.performBarrier_none {u : State} (h : s.barrierAt (some a.ctx) pa none op = (u, none)) :
    s.performBarrier a = (u, .failed .barrierOverrun) := by
  unfold State.performBarrier
  rw [ht, hk]
  dsimp only
  rw [hp, if_neg Bool.false_ne_true, State.correct_of_soft hs, h]
end

theorem State.barrierAt_arrive {s : State} {c : Option Nat} {pa : Nat} {add : Word} {drop : Bool} {u : State} {o : BarObj}
    {r : Option Nat} (h : s.barArrive (unitOfPlace pa) pa c add drop (barrierIn s pa) = (u, o, r)) :
    s.barrierAt c pa none (.arrive add drop) = (u.storeAt pa none o.bytes, r) := by
  unfold State.barrierAt
  dsimp only
  rw [barrierIn_eq, h]

theorem State.barrierAt_test (s : State) (c : Option Nat) (pa : Nat) (ph : Bool) :
    s.barrierAt c pa none (.test ph) =
      (s, some ((barrierIn s pa).init && (barrierIn s pa).phase != ph).toNat) := by
  unfold State.barrierAt
  dsimp only
  rw [barrierIn_eq]

theorem barrierIn_fits (s : State) (pa : Nat) : (barrierIn s pa).Fits := BarObj.ofBytes_fits _

theorem State.setPool_same (s : State) (u : Nat) (p : SMap Cont) :
    (s.setPool u p).mem = s.mem ∧ (s.setPool u p).acc = s.acc ∧ (s.setPool u p).net = s.net := by
  unfold State.setPool
  split <;> exact ⟨rfl, rfl, rfl⟩

/-! ### Deadlines (R277, R394) -/

section
variable {s : State} {u i : Nat} {c : Cont}

theorem State.pool_tile (hu : u < 768) : s.pool u = (s.tile u).conts := if_pos hu

/-- The only entry of a pool is on the list of its barrier exactly when the list begins with it. -/
theorem State.chain_single (hp : s.pool u = [(i, c)]) (o : BarObj) :
    s.chain u c.obj o = if o.head = i then [i] else [] := by
  have hentry : ∀ j, poolEntry [(i, c)] j = if i = j then some c else none := fun j => by
    unfold poolEntry
    rw [List.find?_cons]
    by_cases h : i = j
    · simp [h]
    · rw [beq_eq_false_iff_ne.2 h, if_neg h]
      rfl
  unfold State.chain
  rw [hp, show (256 : Nat) = 255 + 1 from rfl, Machine.chainFrom, hentry]
  by_cases h : i = o.head
  · rw [if_pos h, if_pos h.symm]
    dsimp only
    rw [if_neg (by simp)]
    have hend : Machine.chainFrom [(i, c)] c.obj 255 [o.head] c.next = [] := by
      rw [show (255 : Nat) = 254 + 1 from rfl, Machine.chainFrom, hentry]
      by_cases hn : i = c.next
      · rw [if_pos hn]
        dsimp only
        rw [if_pos (by simp [← hn, h])]
      · rw [if_neg hn]
    rw [hend, h]
  · rw [if_neg h, if_neg (Ne.symm h)]

theorem State.contLate_iff (hp : s.pool u = [(i, c)]) (hk : c.key = none) : s.contLate u i c = true ↔
    (c.deadline ≠ 0 ∧ (barrierIn s c.obj).init = true ∧ (barrierIn s c.obj).phase = c.phase ∧
      (barrierIn s c.obj).head = i ∧
      c.deadline.toNat ≤ (s.time.toNat % 2 ^ 32 + 2 ^ 32 - (barrierIn s c.obj).dbase) % 2 ^ 32) := by
  unfold State.contLate State.contWaits State.barAge
  rw [hk, barrierIn_eq, State.chain_single hp]
  by_cases h : (barrierIn s c.obj).head = i <;> simp [h, and_assoc]

/-- A barrier without the only continuation on its list (R277). -/
def emptied (o : BarObj) : BarObj := { o with head := 65535, nwait := (o.nwait + 65535) % 65536 }

theorem emptied_fits {o : BarObj} (h : o.Fits) : (emptied o).Fits := by
  obtain ⟨h1, h2, h3, h4, h5, h6, h7, -, -, h10, h11⟩ := h
  constructor <;> dsimp only [emptied] <;> omega

theorem State.deadlineCheck_single (hp : s.pool u = [(i, c)]) (hk : c.key = none) :
    s.deadlineCheck u = if s.contLate u i c then
      ((s.setPool u []).postCont u c true).storeAt c.obj none (emptied (barrierIn s c.obj)).bytes
      else s := by
  have hentry : poolEntry [(i, c)] i = some c := by simp [poolEntry]
  unfold State.deadlineCheck
  rw [hp, List.map_cons, List.map_nil, List.foldl_cons, List.foldl_nil, hp, hentry]
  dsimp only
  split
  · rename_i hlate
    have hhead := ((State.contLate_iff hp hk).1 hlate).2.2.2.1
    have hkeep : (s.chain u c.obj (barrierIn s c.obj)).filter (· != i) = [] := by
      rw [State.chain_single hp, if_pos hhead]
      simp
    rw [hk, barrierIn_eq, hkeep]
    simp [relink, emptied]
  · rfl

/-- R394: what a continuation of a kernel past its draining clock comes to. -/
theorem State.pastDrain_iff (x : Nat) : s.pastDrain x = true ↔ ((s.ctx x).kst = .draining ∧ (s.ctx x).drainAt ≠ s.time) := by
  unfold State.pastDrain
  simp

/-- A continuation posted by a tile (R276). -/
theorem State.postCont_sends (hu : u < 768) (hd : s.pastDrain c.ctx = false) (hy : c.hdr.dy.toNat < 24) (tmo : Bool) :
    ∃ m : Msg, m.args = c.args ∧ m.hdr.tmo = tmo ∧ m.hdr.hidx = c.hdr.hidx ∧
      s.postCont u c tmo = ((s.unitSeq u 3).2.source (c.ctx % 256)).inject u (c.hdr.dy.toNat * 32 + c.hdr.dx.toNat) false
        (c.ctx % 256) [] (.msg m) := by
  refine ⟨{ c.msg u tmo with hdr := { (c.msg u tmo).hdr with seq := (s.unitSeq u 3).1 } }, rfl, rfl, rfl, ?_⟩
  have hdest : ({ (c.msg u tmo).hdr with seq := (s.unitSeq u 3).1 } : Hdr).destTile =
      some (c.hdr.dy.toNat * 32 + c.hdr.dx.toNat) := if_pos hy
  have hctx : ({ (c.msg u tmo).hdr with seq := (s.unitSeq u 3).1 } : Hdr).ctx.toNat = c.ctx % 256 := BitVec.toNat_ofNat ..
  have hunit : unitTile u = u := if_pos hu
  unfold State.postCont
  rw [hd, hunit, if_neg Bool.false_ne_true]
  unfold State.post State.sendMsg
  dsimp only
  rw [hdest, hctx]
end

/-- A post leaves memory and the tile's continuations as they are. -/
theorem State.postCont_same {s : State} {u : Nat} {c : Cont} (hu : u < 768) (hy : c.hdr.dy.toNat < 24) (tmo : Bool) :
    (s.postCont u c tmo).mem = s.mem ∧ ((s.postCont u c tmo).tile u).conts = (s.tile u).conts := by
  cases hd : s.pastDrain c.ctx with
  | true =>
    have hw : s.postCont u c tmo = s := if_pos hd
    rw [hw]
    exact ⟨rfl, rfl⟩
  | false =>
    obtain ⟨m, -, -, -, hw⟩ := State.postCont_sends hu hd hy tmo
    rw [hw]
    refine ⟨State.inject_mem .., ?_⟩
    rw [((SameButNet.refl _).inject ..).tile_eq u]
    exact (congrArg Tile.conts (State.modTile_tile_same s u fun x =>
      { x with seqs := x.seqs.set 3 ((s.tile u).seqs.get 0 3 + 1) })).trans rfl

section
variable {s : State} {u : Nat} (hu : u < 768) {p : SMap Cont}
include hu

theorem State.setPool_conts : ((s.setPool u p).tile u).conts = p := by
  rw [State.setPool, if_pos hu]
  exact congrArg Tile.conts (State.modTile_tile_same ..)

theorem State.setPool_pastDrain {x : Nat} : (s.setPool u p).pastDrain x = s.pastDrain x := by
  rw [State.setPool, if_pos hu]
  rfl

/-- Taking a continuation out and numbering its message leave the network as it was. -/
theorem State.setPool_sameNet {x : Nat} : SameNet s (((s.setPool u p).unitSeq u 3).2.source x) := by
  rw [State.setPool, if_pos hu]
  exact (((SameNet.refl s).modTile ..).modTile ..).source ..
end

theorem barrierStepsAtTheHome : BarrierStepsAtTheHome := by
  refine ⟨fun s k pa a op h ht hk hs => ?_, fun s u i c hu hconts hkey hal hpa hy _ => ?_⟩
  · have hl : a.target.local_ = true := by rw [ht]; rfl
    refine ⟨exec_barrierOperation_waits h.1, fun hm => ⟨fun hp => ?_, fun hp => ⟨fun add drop hop => ⟨fun hr => ?_,
      fun hi ha hc hn => ?_, fun hi ha hc hpool hal hpa => ?_⟩, fun ph hop => ?_⟩⟩⟩
    · exact exec_barrierOperation h hm hl hk (State.performBarrier_poisoned ht hk hp) h.2.2
    · rw [hop] at hk
      exact exec_barrierOperation h hm hl hk (State.performBarrier_none ht hk hs hp
        (State.barrierAt_arrive (State.barArrive_refused hr))) (OwnRequest.storeAt h.2.2 _ _ _)
    · rw [hop] at hk
      have hx := exec_barrierOperation h hm hl hk (State.performBarrier_some ht hk hs hp
        (State.barrierAt_arrive (State.barArrive_taken hi ha (State.barComplete_open hc hn))))
        (OwnRequest.storeAt h.2.2 _ _ _)
      refine hx.trans ?_
      cases (barrierIn s pa).phase <;> rfl
    · rw [hop] at hk
      obtain ⟨hmem, hacc, hnet⟩ := s.setPool_same (unitOfPlace pa) []
      have hx := exec_barrierOperation h hm hl hk (State.performBarrier_some ht hk hs hp
        (State.barrierAt_arrive (State.barArrive_taken hi ha (State.barComplete_alone hc hpool))))
        (OwnRequest.storeAt (OwnRequest.of_net h.2.2 hnet) _ _ _)
      have hlen := (flipped (arrivedIn (barrierIn s pa) add.toNat drop) s.time).bytes_length
      obtain ⟨hacc', -, -, hout, hin⟩ := answeredBack_storeAt (s := s.setPool (unitOfPlace pa) []) (pa := pa)
        (bs := (flipped (arrivedIn (barrierIn s pa) add.toNat drop) s.time).bytes) (by rw [hlen]; exact hpa) k
        (.done (leBytes 8 (true.toNat * 2 + (barrierIn s pa).phase.toNat))) a
      rw [hlen] at hout
      refine ⟨_, hx, fun c hcc => (hout c hcc).trans (State.byte_of_mem hmem c),
        barrierIn_of_bytes (flipped_fits (arrivedIn_fits (barrierIn_fits s pa) _ _) _) hin, hacc'.trans ?_⟩
      unfold ended
      dsimp only
      rw [hacc]
      cases (barrierIn s pa).phase <;> rfl
    · rw [hop] at hk
      have hx := exec_barrierOperation h hm hl hk (State.performBarrier_some ht hk hs hp
        (s.barrierAt_test _ pa ph)) h.2.2
      have hr : ((barrierIn s pa).init && (barrierIn s pa).phase != ph).toNat =
          if (barrierIn s pa).init = true ∧ (barrierIn s pa).phase ≠ ph then 1 else 0 := by
        cases (barrierIn s pa).init <;> cases (barrierIn s pa).phase <;> cases ph <;> rfl
      rw [hr] at hx
      exact hx
  · have hp : s.pool u = [(i, c)] := (State.pool_tile hu).trans hconts
    have hlate := State.contLate_iff (s := s) hp hkey
    have hx : exec (.barrierDeadlineCheck u) s = .next (s.deadlineCheck u) := rfl
    rw [State.deadlineCheck_single hp hkey] at hx
    refine ⟨fun hn => ?_, fun hl => ?_⟩
    · rw [hx, if_neg (mt hlate.1 hn)]
    · rw [if_pos (hlate.2 hl)] at hx
      have hlen := (emptied (barrierIn s c.obj)).bytes_length
      obtain ⟨hmem, hcon⟩ := State.postCont_same (s := s.setPool u []) hu hy true
      have hmem' := (s.setPool_same u []).1
      have hlow : c.obj + (emptied (barrierIn s c.obj)).bytes.length ≤ 2 ^ 40 := by rw [hlen]; exact hpa
      have hout := State.storeAt_low_outside (s := (s.setPool u []).postCont u c true) hlow
      have hin := fun j hj => State.byte_storeAt_low (s := (s.setPool u []).postCont u c true) hlow (j := j) hj
      rw [State.storeAt_low (sliceOf_low (by omega))] at hx hout hin
      rw [hlen] at hout
      refine ⟨_, hx, hcon.trans (State.setPool_conts hu), fun x hxx => (hout x hxx).trans
        (State.byte_of_mem (hmem.trans hmem') x), barrierIn_of_bytes (emptied_fits (barrierIn_fits s c.obj)) hin,
        fun hd => ?_, fun hd => ?_⟩
      · have hw : (s.setPool u []).postCont u c true = s.setPool u [] :=
          if_pos ((State.setPool_pastDrain hu).trans ((s.pastDrain_iff c.ctx).2 hd))
        rw [hw]
        exact (s.setPool_same u []).2.2
      · have hnd : (s.setPool u []).pastDrain c.ctx = false := by
          rw [State.setPool_pastDrain hu]
          exact Bool.eq_false_iff.2 (mt (s.pastDrain_iff c.ctx).1 hd)
        obtain ⟨m, hargs, htmo, hhidx, hw⟩ := State.postCont_sends hu hnd hy true
        refine ⟨m, hargs, htmo, hhidx, ?_⟩
        rw [hw]
        exact (SameNet.inject (State.setPool_sameNet hu) _ _ _ _ _).net

/-- Settles O44: accesses that stand alone are performed and answered one by one, an arrival is `State.barArrive` on the
object in memory, and a unit's only continuation is late exactly when its barrier's list begins with it. -/
theorem accessesAtTheirHome : Obligations.AccessesAtTheirHome :=
  ⟨accessRequestsArePerformed, accessRepliesComeBack, barrierStepsAtTheHome⟩

end Sys2Proof.Machine
end

section
/-! SUPPORT. O49: how a job ends its accesses, its completion action with it (R295, R298, R311). -/

namespace Sys2Proof.Machine
open Sys2Proof Sys2Proof.Claims

/-! ### What a write through a translation leaves -/

/-- Two states whose strands, cores, tiles and contexts are the same. -/
structure SameUnits (s u : State) : Prop where
  strands : u.strands = s.strands
  cores : u.cores = s.cores
  tiles : u.tiles = s.tiles
  ctxs : u.ctxs = s.ctxs

theorem SameUnits.refl (s : State) : SameUnits s s := ⟨rfl, rfl, rfl, rfl⟩

theorem SameUnits.trans {s t u : State} (h : SameUnits s t) (h' : SameUnits t u) : SameUnits s u :=
  ⟨h'.strands.trans h.strands, h'.cores.trans h.cores, h'.tiles.trans h.tiles, h'.ctxs.trans h.ctxs⟩

theorem State.peerVerdict_units (s : State) (i : Nat) : SameUnits s (s.peerVerdict i).1 := by
  unfold State.peerVerdict
  split <;> exact ⟨rfl, rfl, rfl, rfl⟩

theorem State.sendBytes_units (s : State) (p i off : Nat) (key : Option Nat) (bs : List Byte) :
    SameUnits s (s.sendBytes p i off key bs) := by
  cases key <;> exact ⟨rfl, rfl, rfl, rfl⟩

theorem State.peerStore_units (s : State) (i off : Nat) (key : Option Nat) (bs : List Byte) :
    SameUnits s (s.peerStore i off key bs).1 := by
  unfold State.peerStore
  split
  · exact s.peerVerdict_units i
  · exact (s.sendBytes_units ..).trans (State.peerVerdict_units ..)

theorem State.peerWrite_units {s u : State} {i off : Nat} {key : Option Nat} {bs : List Byte}
    (h : s.peerWrite i off key bs = some u) : SameUnits s u := by
  have hstore := s.peerStore_units i off key bs
  unfold State.peerWrite at h
  split at h
  · rename_i x hx
    rw [hx] at hstore
    cases h
    exact hstore
  · cases h

theorem State.vaWrite_units {s u : State} {c va : Nat} {bs : List Byte} (h : s.vaWrite c va bs = some u) :
    SameUnits s u := by
  unfold State.vaWrite at h
  split at h
  · cases h
    rw [State.writePlain_eq]
    exact ⟨rfl, rfl, rfl, rfl⟩
  · exact State.peerWrite_units h
  all_goals cases h

theorem State.vaWriteAll_units {s u : State} {c fuel va : Nat} {bs : List Byte} (h : s.vaWriteAll c fuel va bs = some u) :
    SameUnits s u := by
  induction fuel generalizing s va bs with
  | zero => cases h; exact SameUnits.refl _
  | succ n ih =>
    simp only [State.vaWriteAll] at h
    split at h
    · cases h
      exact SameUnits.refl _
    · split at h
      · rename_i x hx
        exact (State.vaWrite_units hx).trans (ih h)
      · cases h

/-! ### What leaves strands, cores and range entries alone -/

/-- Strands, cores and the range entries of every tile are as before. -/
structure Keeps (s u : State) : Prop where
  strands : u.strands = s.strands
  cores : u.cores = s.cores
  locks : ∀ t, (u.tile t).locks = (s.tile t).locks

theorem Keeps.refl (s : State) : Keeps s s := ⟨rfl, rfl, fun _ => rfl⟩

theorem Keeps.trans {s t u : State} (h : Keeps s t) (h' : Keeps t u) : Keeps s u :=
  ⟨h'.strands.trans h.strands, h'.cores.trans h.cores, fun t => (h'.locks t).trans (h.locks t)⟩

theorem SameUnits.keeps {s u : State} (h : SameUnits s u) : Keeps s u :=
  ⟨h.strands, h.cores, fun t => congrArg (fun m : SMap Tile => (m.get {} t).locks) h.tiles⟩

/-- A change of a tile that leaves its range entries. -/
theorem Keeps.modTile (s : State) (t : Nat) {f : Tile → Tile} (h : ∀ x, (f x).locks = x.locks) : Keeps s (s.modTile t f) := by
  refine ⟨rfl, rfl, fun n => ?_⟩
  by_cases hn : n = t
  · rw [hn, State.modTile_tile_same, h]
  · rw [State.modTile_tile_ne _ _ _ hn]

theorem Keeps.inject (s : State) (x y : Nat) (v : Bool) (c : Nat) (l : List Nat) (b : Body) :
    Keeps s (s.inject x y v c l b) := by
  unfold State.inject State.route State.sendOn
  split <;> exact ⟨rfl, rfl, fun _ => rfl⟩

theorem Keeps.unitSeq (s : State) (t n : Nat) : Keeps s (s.unitSeq t n).2 :=
  Keeps.modTile s t (f := fun x => { x with seqs := x.seqs.set n ((s.tile t).seqs.get 0 n + 1) }) fun _ => rfl

theorem Keeps.source (s : State) (c : Nat) : Keeps s (s.source c) := ⟨rfl, rfl, fun _ => rfl⟩

theorem Keeps.setFlt (s : State) (c : Nat) : Keeps s (s.setFlt c) := by
  unfold State.setFlt
  split <;> exact ⟨rfl, rfl, fun _ => rfl⟩

theorem Keeps.ringPut (s : State) (c : Nat) (r : Ring) (bs : List Byte) : Keeps s (s.ringPut c r bs).1 := by
  unfold State.ringPut
  dsimp only
  split
  · exact ⟨rfl, rfl, fun _ => rfl⟩
  · split
    · rename_i x hx
      have hkeep := (State.vaWriteAll_units hx).keeps
      dsimp only
      split <;> exact ⟨hkeep.strands, hkeep.cores, hkeep.locks⟩
    · exact ⟨rfl, rfl, fun _ => rfl⟩

theorem Keeps.postMsg (s : State) (t n : Nat) (l : List Nat) (m : Msg) : Keeps s (s.postMsg t n l m) := by
  unfold State.postMsg
  exact ((Keeps.unitSeq ..).trans (Keeps.source ..)).trans (Keeps.inject ..)

theorem Keeps.faultPost (s : State) (c : Nat) (f : FaultRecord) (n : BitVec 32) (x y : Nat) :
    Keeps s (s.faultPost c f n x y) := by
  unfold State.faultPost
  dsimp only
  split
  · exact Keeps.refl s
  · split
    · exact Keeps.setFlt ..
    · exact Keeps.postMsg ..

theorem Keeps.faultRecord (s : State) (c : Nat) (f : FaultRecord) : Keeps s (s.faultRecord c f) := by
  unfold State.faultRecord
  dsimp only
  split
  · rename_i x hx
    rw [show x = (x, true).1 from rfl, ← hx]
    exact (Keeps.ringPut ..).trans (Keeps.faultPost ..)
  · rename_i x hx
    rw [show x = (x, false).1 from rfl, ← hx]
    exact (Keeps.ringPut ..).trans (Keeps.setFlt ..)

theorem Keeps.jobRecord (s : State) (core slot : Nat) : Keeps s (s.jobRecord core slot) := by
  unfold State.jobRecord
  dsimp only
  split
  · exact Keeps.refl s
  · exact Keeps.faultRecord ..

/-! ### A job that ends its accesses -/

/-- The job of a slot ended: its pieces and its range entries are gone (R76, R295). -/
def State.ending (s : State) (core slot : Nat) : State :=
  (s.modTile (core / 8) fun x => { x with locks := x.locks.filter fun l => !l.ofJob (core / 8) core slot }).modJob core slot
    fun j => { j with st := .completing, pieces := [] }

theorem State.finishJob_eq (s : State) (core slot : Nat) :
    s.finishJob core slot = ((s.ending core slot).jobRecord core slot).act core slot false := rfl

/-- What every end of a job gives, whatever its completion action is. -/
structure Ended (s u : State) (core slot : Nat) : Prop where
  st : (u.job core slot).st = .completing
  pieces : (u.job core slot).pieces = []
  bytes : (u.job core slot).bytes = (s.job core slot).bytes
  strands : u.strands = s.strands
  locks : (u.tile (core / 8)).locks = (s.tile (core / 8)).locks.filter fun l => !l.ofJob (core / 8) core slot

theorem State.job_ending (s : State) (core slot : Nat) :
    (s.ending core slot).job core slot = { s.job core slot with st := .completing, pieces := [] } := by
  unfold State.ending
  rw [State.job_modJob_same, State.job_modTile]

theorem State.ending_watches (s : State) (core slot t : Nat) :
    ((s.ending core slot).tile t).watches = (s.tile t).watches := by
  unfold State.ending
  rw [State.tile_modJob]
  by_cases ht : t = core / 8
  · rw [ht, State.modTile_tile_same]
  · rw [State.modTile_tile_ne _ _ _ ht]

theorem State.ending_maps (s : State) (core slot : Nat) : SameMaps s (s.ending core slot) := ⟨fun _ _ => rfl, rfl, rfl⟩

theorem State.ending_net (s : State) (core slot : Nat) : SameNet s (s.ending core slot) :=
  ((SameNet.refl s).modTile ..).modJob ..

section
variable {s u v : State} {core slot : Nat}

theorem Ended.ending (s : State) (core slot : Nat) : Ended s (s.ending core slot) core slot := by
  have hj := s.job_ending core slot
  refine ⟨by rw [hj], by rw [hj], by rw [hj], rfl, ?_⟩
  unfold State.ending
  rw [State.tile_modJob, State.modTile_tile_same]

theorem Keeps.job (h : Keeps s u) (c k : Nat) : u.job c k = s.job c k :=
  congrArg (fun m : SMap Core => (m.get {} c).jobs.get {} k) h.cores

theorem Ended.and (h : Ended s u core slot) {q : Prop} (hq : q) : (u.job core slot).st = .completing ∧
    (u.job core slot).pieces = [] ∧ (u.job core slot).bytes = (s.job core slot).bytes ∧ u.strands = s.strands ∧
    (u.tile (core / 8)).locks = (s.tile (core / 8)).locks.filter (fun l => !l.ofJob (core / 8) core slot) ∧ q :=
  ⟨h.st, h.pieces, h.bytes, h.strands, h.locks, hq⟩

theorem Ended.keeps (h : Ended s u core slot) (hk : Keeps u v) : Ended s v core slot := by
  have hj := hk.job core slot
  exact ⟨hj ▸ h.st, hj ▸ h.pieces, hj ▸ h.bytes, hk.strands.trans h.strands, (hk.locks _).trans h.locks⟩

theorem Ended.modJob (h : Ended s u core slot) {f : Job → Job}
    (hf : ∀ j, (f j).st = j.st ∧ (f j).pieces = j.pieces ∧ (f j).bytes = j.bytes) : Ended s (u.modJob core slot f) core slot := by
  obtain ⟨hst, hpieces, hbytes⟩ := hf (u.job core slot)
  have hj : (u.modJob core slot f).job core slot = f (u.job core slot) := State.job_modJob_same ..
  exact ⟨hj ▸ hst.trans h.st, hj ▸ hpieces.trans h.pieces, hj ▸ hbytes.trans h.bytes, h.strands, h.locks⟩

theorem Ended.actDone (h : Ended s u core slot) : Ended s (u.actDone core slot) core slot :=
  h.modJob fun _ => ⟨rfl, rfl, rfl⟩

theorem State.job_actDone (s : State) (core slot : Nat) :
    (s.actDone core slot).job core slot = { s.job core slot with action := .done } := State.job_modJob_same ..

theorem Ended.actFail (h : Ended s u core slot) (c : Cause) (a : Nat) : Ended s (u.actFail core slot c a) core slot := by
  unfold State.actFail
  exact ((h.modJob (f := fun j => { j with err := some c.code, errAddr := BitVec.ofNat 64 a, errTile := core / 8, errTime := u.time })
    fun _ => ⟨rfl, rfl, rfl⟩).keeps (Keeps.jobRecord ..)).actDone

theorem State.job_actFail (s : State) (core slot : Nat) (c : Cause) (a : Nat) :
    ((s.actFail core slot c a).job core slot).action = .done ∧ ((s.actFail core slot c a).job core slot).err = some c.code ∧
      ((s.actFail core slot c a).job core slot).errAddr = BitVec.ofNat 64 a := by
  unfold State.actFail
  rw [State.job_actDone, (Keeps.jobRecord ..).job, State.job_modJob_same]
  exact ⟨rfl, rfl, rfl⟩
end

theorem State.jobRecord_none {s : State} {core slot : Nat} (h : (s.job core slot).err = none) : s.jobRecord core slot = s := by
  unfold State.jobRecord
  dsimp only
  rw [h]

/-- A state in which the maps are the same translates the same. -/
theorem SameMaps.engX_eq {s u : State} (h : SameMaps s u) (c core va n : Nat) (need : Need) :
    u.engX c core va n need = s.engX c core va n need := by
  have hbounds : u.boundsCheck c va n = s.boundsCheck c va n := by
    unfold State.boundsCheck State.outsideByte State.inPlacement
    simp only [h.ctx_eq]
  unfold State.engX
  rw [hbounds, h.resolve_eq]

theorem Writable.of_same {s u : State} {pa n : Nat} (h : Writable s pa n) (hp : u.poison = s.poison) (hsoft : u.soft = s.soft)
    (hw : ∀ t, (u.tile t).watches = (s.tile t).watches) : Writable u pa n := by
  obtain ⟨hs, hun, hres⟩ := h
  refine ⟨fun x hx => ?_, fun t off ht w hmem => ?_, hres⟩
  · rw [hp, hsoft]
    exact hs x hx
  · rw [hw] at hmem
    exact hun t off ht w hmem

theorem Writable.ending {s : State} {pa n : Nat} (h : Writable s pa n) (core slot : Nat) : Writable (s.ending core slot) pa n :=
  Writable.of_same h rfl rfl (s.ending_watches core slot)

/-! ### The record of a job's error (R311) -/

/-- Fault records that a context's ring has taken or lost. -/
def Ctx.faultCount (k : Ctx) : BitVec 32 := k.frtail + k.frlost

theorem State.ctx_modCtx_faultCount (s : State) (c n : Nat) {f : Ctx → Ctx} (hf : ∀ k, (f k).faultCount = k.faultCount) :
    ((s.modCtx c f).ctx n).faultCount = (s.ctx n).faultCount := by
  by_cases hn : n = c
  · rw [hn, State.ctx_modCtx, hf]
  · exact congrArg Ctx.faultCount (SMap.get_set_ne _ _ _ hn)

theorem State.setFlt_faultCount (s : State) (c n : Nat) : ((s.setFlt c).ctx n).faultCount = (s.ctx n).faultCount := by
  unfold State.setFlt
  split
  · rfl
  · exact s.ctx_modCtx_faultCount c n (f := fun k => { k with flt := true }) fun _ => rfl

theorem State.inject_ctx (s : State) (x y : Nat) (v : Bool) (c : Nat) (l : List Nat) (b : Body) (n : Nat) :
    (s.inject x y v c l b).ctx n = s.ctx n := by
  unfold State.inject State.route State.sendOn
  split <;> rfl

theorem State.postMsg_faultCount (s : State) (t unit : Nat) (l : List Nat) (m : Msg) (n : Nat) :
    ((s.postMsg t unit l m).ctx n).faultCount = (s.ctx n).faultCount := by
  unfold State.postMsg
  dsimp only
  rw [State.inject_ctx]
  exact State.ctx_modCtx_faultCount _ _ n (f := fun k => { k with src := k.src + 1 }) fun _ => rfl

theorem State.faultPost_faultCount (s : State) (c : Nat) (f : FaultRecord) (x : BitVec 32) (y z n : Nat) :
    ((s.faultPost c f x y z).ctx n).faultCount = (s.ctx n).faultCount := by
  unfold State.faultPost
  dsimp only
  split
  · rfl
  · split
    · exact s.setFlt_faultCount c n
    · exact State.postMsg_faultCount ..

/-- A record of the fault ring is counted, as taken or as lost. -/
theorem State.ringPut_faultCount (s : State) (c : Nat) (bs : List Byte) :
    ((s.ringPut c .fault bs).1.ctx c).faultCount = (s.ctx c).faultCount + 1 := by
  have hlost : ∀ k : Ctx, (k.ringLose .fault).faultCount = k.faultCount + 1 := fun k => (BitVec.add_assoc ..).symm
  have htaken : ∀ k : Ctx, (k.ringCount .fault).faultCount = k.faultCount + 1 := fun k => by
    change k.frtail + 1 + k.frlost = k.frtail + k.frlost + 1
    ac_rfl
  unfold State.ringPut
  dsimp only
  split
  · rw [State.ctx_modCtx, hlost]
  · split
    · rename_i x hx
      have hctx : x.ctx c = s.ctx c := congrArg (SMap.get · ({} : Ctx) c) (State.vaWriteAll_units hx).ctxs
      rw [if_neg (by simp)]
      dsimp only
      rw [State.ctx_modCtx, htaken, hctx]
    · dsimp only
      rw [State.ctx_modCtx, hlost]

theorem State.faultRecord_faultCount (s : State) (c : Nat) (f : FaultRecord) :
    ((s.faultRecord c f).ctx c).faultCount = (s.ctx c).faultCount + 1 := by
  unfold State.faultRecord
  dsimp only
  split
  · rename_i x hx
    rw [State.faultPost_faultCount, show x = (x, true).1 from rfl, ← hx, State.ringPut_faultCount]
  · rename_i x hx
    rw [State.setFlt_faultCount, show x = (x, false).1 from rfl, ← hx, State.ringPut_faultCount]

theorem State.jobRecord_faultCount {s : State} {core slot : Nat} {c : BitVec 8} (h : (s.job core slot).err = some c) :
    ((s.jobRecord core slot).ctx (s.job core slot).ctx).faultCount = (s.ctx (s.job core slot).ctx).faultCount + 1 := by
  unfold State.jobRecord
  dsimp only
  rw [h]
  exact State.faultRecord_faultCount ..

/-! ### A completion action on memory (R298) -/

/-- The tag of a request is on the list of requests that wait for the host. -/
def Asked (l : List TsrReq) (tag : Nat) (who : TsrFor) (va : Word) : Prop :=
  ∃ r ∈ l, r.tag = tag ∧ r.who = who ∧ r.va = va ∧ r.write = true

section
variable {s u : State} {tag n : Nat} {who : TsrFor} {va : Word}

theorem State.writeTsr_same (s : State) (n : Nat) :
    (s.writeTsr n).strands = s.strands ∧ (s.writeTsr n).tiles = s.tiles ∧ (s.writeTsr n).cores = s.cores := by
  unfold State.writeTsr
  split
  · exact ⟨rfl, rfl, rfl⟩
  · dsimp only
    split
    · rw [State.writeRaw_eq]
      exact ⟨rfl, rfl, rfl⟩
    · exact ⟨rfl, rfl, rfl⟩

theorem Asked.writeTsr (h : Asked s.tsrReqs tag who va) : Asked (s.writeTsr n).tsrReqs tag who va := by
  obtain ⟨r, hmem, hr⟩ := h
  unfold State.writeTsr
  split
  · exact ⟨r, hmem, hr⟩
  · rename_i q hq
    dsimp only
    split
    · rw [State.writeRaw_eq]
      refine ⟨if r.tag = q.tag then { r with sent := true } else r, List.mem_map_of_mem hmem, ?_⟩
      split <;> exact hr
    · exact ⟨r, hmem, hr⟩

theorem State.flushTsr_induct {P : State → Prop} (hs : P s) (hstep : ∀ v, P v → P (v.writeTsr n)) : P (s.flushTsr n) := by
  unfold State.flushTsr
  generalize s.tsrReqs = l
  induction l generalizing s with
  | nil => exact hs
  | cons r l ih => exact ih (hstep s hs)

/-- A request leaves strands, tiles and cores as they are. -/
theorem State.request_same (s : State) (who : TsrFor) (ctx t va : Nat) (write : Bool) (stack : Option Nat) :
    let u := (s.request who ctx t va write stack).1
    u.strands = s.strands ∧ u.tiles = s.tiles ∧ u.cores = s.cores :=
  State.flushTsr_induct (P := fun v => v.strands = s.strands ∧ v.tiles = s.tiles ∧ v.cores = s.cores) ⟨rfl, rfl, rfl⟩
    fun v ⟨hs, ht, hc⟩ =>
      let ⟨hs', ht', hc'⟩ := v.writeTsr_same _
      ⟨hs'.trans hs, ht'.trans ht, hc'.trans hc⟩

theorem Keeps.request (s : State) (who : TsrFor) (ctx t va : Nat) (write : Bool) (stack : Option Nat) :
    Keeps s (s.request who ctx t va write stack).1 := by
  obtain ⟨hs, ht, hc⟩ := s.request_same who ctx t va write stack
  exact ⟨hs, hc, fun n => congrArg (fun m : SMap Tile => (m.get {} n).locks) ht⟩

theorem State.request_asks (s : State) (who : TsrFor) (ctx t va : Nat) (stack : Option Nat) :
    let x := s.request who ctx t va true stack
    Asked x.1.tsrReqs x.2 who (BitVec.ofNat 64 va) :=
  State.flushTsr_induct (P := fun v => Asked v.tsrReqs _ who _)
    ⟨_, List.mem_append_right _ (List.mem_singleton.2 rfl), rfl, rfl, rfl, rfl⟩ fun _ hv => hv.writeTsr
end

section
variable {s : State} {core slot n : Nat} {need : Need} {final : Bool} {f : State → Target → State × Option Cause}

theorem State.actAt_fail {c : Cause} {a : Nat}
    (h : s.engX (s.job core slot).ctx core (s.job core slot).comp1.toNat n need = .fail c a) :
    s.actAt core slot n need final f = s.actFail core slot c a := by
  unfold State.actAt
  dsimp only
  rw [h]

theorem State.actAt_absent (h : s.engX (s.job core slot).ctx core (s.job core slot).comp1.toNat n need = .absent) :
    let x := s.request (.action core slot) (s.job core slot).ctx (core / 8) (s.job core slot).comp1.toNat true none
    s.actAt core slot n need false f = x.1.modJob core slot fun j => { j with action := .held x.2 } := by
  unfold State.actAt
  dsimp only
  rw [h]
  exact if_neg Bool.false_ne_true

theorem State.actAt_done {t : Target} {u : State}
    (h : s.engX (s.job core slot).ctx core (s.job core slot).comp1.toNat n need = .ok t) (hf : f s t = (u, none)) :
    s.actAt core slot n need final f = u.actDone core slot := by
  unfold State.actAt
  dsimp only
  rw [h]
  dsimp only
  rw [hf]
end

/-- The write of a completion action: its word at the target. -/
def State.writeWord (v : Word) (s : State) (t : Target) : State × Option Cause :=
  let x := s.engineWrite t (leBytes 8 v.toNat) []
  (x.1, x.2.1.map (·.1))

section
variable {s : State} {core slot : Nat} (herr : (s.job core slot).err = none)
include herr

theorem State.act_write (h : (s.job core slot).comp.toNat % 8 = 1) (final : Bool) :
    s.act core slot final = s.actAt core slot 8 needW final (State.writeWord (s.job core slot).comp2) := by
  unfold State.act compAct
  dsimp only
  rw [h, herr]
  rfl

theorem State.act_count (h : (s.job core slot).comp.toNat % 8 = 2) (final : Bool) :
    s.act core slot final = ((s.unitSeq (core / 8) 4).2.sendCount (core / 8) []
      { (s.job core slot).actHdr core { rels := true } with seq := (s.unitSeq (core / 8) 4).1 } (s.job core slot).comp1
      ((s.job core slot).comp2.setWidth 32)).actDone core slot := by
  unfold State.act compAct
  dsimp only
  rw [h, herr]
  rfl

theorem State.act_bytes (h : (s.job core slot).comp.toNat % 8 = 3) (final : Bool) :
    s.act core slot final = s.actAt core slot 32 needBarrier final fun u t => u.actBytes (s.job core slot) t := by
  unfold State.act compAct
  dsimp only
  rw [h, herr]
  rfl
end

section
variable {s : State} {core slot : Nat}

theorem State.act_none (h : (s.job core slot).comp.toNat % 8 = 0) (final : Bool) :
    s.act core slot final = s.actDone core slot := by
  unfold State.act compAct
  dsimp only
  rw [h]
  rfl

theorem State.act_skipped {c : BitVec 8} (herr : (s.job core slot).err = some c)
    (h1 : 1 ≤ (s.job core slot).comp.toNat % 8) (h3 : (s.job core slot).comp.toNat % 8 ≤ 3) (final : Bool) :
    s.act core slot final = s.actDone core slot := by
  unfold State.act compAct
  dsimp only
  rw [herr]
  generalize (s.job core slot).comp.toNat % 8 = act at h1 h3
  obtain rfl | rfl | rfl : act = 1 ∨ act = 2 ∨ act = 3 := by omega
  all_goals rfl

theorem State.act_push (h : (s.job core slot).comp.toNat % 8 = 5) (final : Bool) :
    s.act core slot final = s.modJob core slot fun j => { j with action := .pushing (j.handle (core / 8) slot) } := by
  unfold State.act compAct
  dsimp only
  rw [h]
  rfl

/-- The message that a completion action posts. -/
def State.actMsg (s : State) (core slot : Nat) : Msg :=
  let j := s.job core slot
  { hdr := (j.actHdr core { posted := true, rels := true }).withDest j.comp1 (s.offsetOf j.ctx).1 (s.offsetOf j.ctx).2
    args := [j.comp2, j.statusWord slot, BitVec.ofNat 64 j.bytes, BitVec.ofNat 64 j.rowCount] }

theorem State.act_post (h : (s.job core slot).comp.toNat % 8 = 4) (final : Bool) :
    s.act core slot final = (s.post (core / 8) 4 [] (s.actMsg core slot)).actDone core slot := by
  unfold State.act compAct
  dsimp only
  rw [h]
  rfl
end

/-! ### The bytes and the object that an action writes -/

theorem Keeps.storeAt {s : State} {pa : Nat} {bs : List Byte} (h : Writable s pa bs.length) : Keeps s (s.storeAt pa none bs) := by
  obtain ⟨-, -, hstrands, hcores, htiles, -⟩ := State.storeAt_writable h
  exact ⟨hstrands, hcores, fun t => congrArg Tile.locks (htiles t)⟩

/-- A word written where nothing hinders it. -/
theorem State.writeWord_writable {s : State} {pa : Nat} (h : Writable s pa 8) (v : Word) :
    ∃ u, s.writeWord v (.mem pa none) = (u, none) ∧ Keeps s u ∧ memNat u pa 8 = v.toNat ∧ SameBytesOutside s u pa 8 := by
  have hlen : (leBytes 8 v.toNat).length = 8 := leBytes_length ..
  have hw : Writable s pa (leBytes 8 v.toNat).length := by rwa [hlen]
  obtain ⟨hbytes, hout, -⟩ := State.storeAt_writable hw
  have hwrite := State.engineWrite_sound hw.1 (List.ne_nil_of_length_eq_add_one hlen)
  rw [hlen] at hout
  refine ⟨s.storeAt pa none (leBytes 8 v.toNat), ?_, Keeps.storeAt hw, ?_, hout⟩
  · unfold State.writeWord
    rw [hwrite]
    rfl
  · have hread := readRaw_of_bytes hbytes (off := 0) (n := 8) (by rw [hlen])
    rw [List.drop_zero, List.take_of_length_le (Nat.le_of_eq hlen), Nat.add_zero] at hread
    rw [memNat_eq_leNat, hread, leNat_leBytes]
    exact Nat.mod_eq_of_lt v.isLt

theorem State.setPool_keeps (s : State) (u : Nat) (p : SMap Cont) : Keeps s (s.setPool u p) := by
  unfold State.setPool
  split
  · exact Keeps.modTile s u fun _ => rfl
  · exact ⟨rfl, rfl, fun _ => rfl⟩

theorem State.setPool_watches (s : State) (u : Nat) (p : SMap Cont) (t : Nat) :
    ((s.setPool u p).tile t).watches = (s.tile t).watches := by
  unfold State.setPool
  split
  · by_cases ht : t = u
    · rw [ht, State.modTile_tile_same]
    · rw [State.modTile_tile_ne _ _ _ ht]
  · rfl

theorem Writable.setPool {s : State} {pa n : Nat} (h : Writable s pa n) (u : Nat) (p : SMap Cont) : Writable (s.setPool u p) pa n := by
  have hmarks : (s.setPool u p).poison = s.poison ∧ (s.setPool u p).soft = s.soft := by
    unfold State.setPool
    split <;> exact ⟨rfl, rfl⟩
  exact Writable.of_same h hmarks.1 hmarks.2 (s.setPool_watches u p)

/-- A barrier after an action has taken its bytes off PENDING (R298). -/
def lessened (b : BarObj) (n : Nat) : BarObj := { b with pending := (b.pending + 2 ^ 56 - n) % 2 ^ 56 }

theorem BarObj.Fits.setPending {b : BarObj} (h : b.Fits) {p : Nat} (hp : p < 2 ^ 56) : ({ b with pending := p } : BarObj).Fits := by
  obtain ⟨h1, h2, h3, h4, h5, -, h7, h8, h9, h10, h11⟩ := h
  constructor <;> assumption

theorem lessened_fits {b : BarObj} (h : b.Fits) (n : Nat) : (lessened b n).Fits := by
  unfold lessened
  exact h.setPending (Nat.mod_lt _ (by decide))

/-- The bytes of an action taken off a barrier for which nothing waits (R272, R298). -/
theorem State.barrierAt_bytes {s : State} {pa : Nat} {sub : Word} (h : Writable s pa 32) (hp : s.pool (unitOfPlace pa) = [])
    (c : Option Nat) (b1 : BarObj) (hb : b1 = lessened (barrierIn s pa) (sub.toNat % 2 ^ 56))
    (hneg : ¬ (b1.init = true ∧ b1.arrived = b1.expect ∧ 2 ^ 55 ≤ b1.pending)) :
    let u := (s.barrierAt c pa none (.bytes sub)).1
    Keeps s u ∧ SameBytesOutside s u pa 32 ∧
      barrierIn u pa = if b1.init = true ∧ b1.arrived = b1.expect ∧ b1.pending = 0 then flipped b1 s.time else b1 := by
  have hfits : b1.Fits := hb ▸ lessened_fits (barrierIn_fits s pa) _
  have hpend : pend56 (((barrierIn s pa).pending : Int) - (sub.toNat % 2 ^ 56 : Nat)) = b1.pending := by
    have := (barrierIn_fits s pa).pending
    rw [hb]
    unfold pend56 wrap lessened
    dsimp only
    omega
  have hobj : ({ barrierIn s pa with pending := b1.pending } : BarObj) = b1 := by
    rw [hb]
    rfl
  have hstore : ∀ (v : State) (o : BarObj), Keeps s v → Writable v pa 32 → v.mem = s.mem → o.Fits →
      Keeps s (v.storeAt pa none o.bytes) ∧ SameBytesOutside s (v.storeAt pa none o.bytes) pa 32 ∧
        barrierIn (v.storeAt pa none o.bytes) pa = o := fun v o hk hv hm ho => by
    have hv' : Writable v pa o.bytes.length := by rwa [BarObj.bytes_length]
    obtain ⟨hbytes, hout, -⟩ := State.storeAt_writable hv'
    rw [BarObj.bytes_length] at hout
    exact ⟨hk.trans (Keeps.storeAt hv'), fun x hx => (hout x hx).trans (State.byte_of_mem hm x), barrierIn_of_bytes ho hbytes⟩
  unfold State.barrierAt
  dsimp only
  rw [barrierIn_eq, hpend, hobj]
  by_cases hdone : b1.init = true ∧ b1.arrived = b1.expect ∧ b1.pending = 0
  · rw [State.barComplete_alone hdone hp, if_pos hdone]
    exact hstore _ _ (s.setPool_keeps ..) (Writable.setPool h _ _) (s.setPool_same ..).1 (flipped_fits hfits _)
  · have hopen : s.barComplete (unitOfPlace pa) pa c b1 = (s, b1, false) := by
      by_cases hi : b1.init = true
      · exact State.barComplete_open hdone fun hn => hneg ⟨hi, hn⟩
      · unfold State.barComplete
        exact if_neg (by simp [hi])
    rw [hopen, if_neg hdone]
    exact hstore s b1 (Keeps.refl s) h rfl hfits

/-! ### What an action sends (R298) -/

theorem Hdr.withDest_to (h : Hdr) (dw : Word) (x0 y0 : Nat) :
    (h.withDest dw x0 y0).dx = BitVec.ofNat 5 (destOf dw (x0, y0)).1 ∧
      (h.withDest dw x0 y0).dy = BitVec.ofNat 5 (destOf dw (x0, y0)).2 := by
  have hrel : dw.getLsbD 10 = (dw.toNat / 2 ^ 10 % 2 == 1) := by
    rw [getLsbD_eq_decide]
    exact (Bool.beq_eq_decide_eq _ _).symm
  unfold Hdr.withDest destOf
  dsimp only
  rw [hrel]
  cases dw.toNat / 2 ^ 10 % 2 == 1 <;> exact ⟨rfl, rfl⟩

theorem destOf_fst_lt (dw : Word) (o : Nat × Nat) : (destOf dw o).1 < 32 := by
  unfold destOf
  dsimp only
  split <;> exact Nat.mod_lt _ (by decide)

/-- The tile that a header names whose destination is on the mesh. -/
theorem Hdr.destTile_of_to {h : Hdr} {to_ : Nat × Nat} (hx : h.dx = BitVec.ofNat 5 to_.1) (hy : h.dy = BitVec.ofNat 5 to_.2)
    (h1 : to_.1 < 32) (h2 : to_.2 < 24) : h.destTile = some (to_.2 * 32 + to_.1) := by
  have hdx : h.dx.toNat = to_.1 := by rw [hx, BitVec.toNat_ofNat, Nat.mod_eq_of_lt h1]
  have hdy : h.dy.toNat = to_.2 := by rw [hy, BitVec.toNat_ofNat, Nat.mod_eq_of_lt (by omega)]
  unfold Hdr.destTile
  rw [hdx, hdy, if_pos h2]

/-- The header of a counter message with the destination that the counter word `cw` names. -/
def countHdr (h : Hdr) (cw : Word) (o : Nat × Nat) : Hdr :=
  let d := h.withDest (BitVec.ofNat 64 (cw.toNat % 2 ^ 11)) o.1 o.2
  { h with kind := 2, dx := d.dx, dy := d.dy, hidx := BitVec.ofNat 12 (cw.toNat / 2 ^ 17 % 256) }

/-- A counter message that has a destination leaves for it. -/
theorem State.sendCount_sends (s : State) (t : Nat) (l : List Nat) (h : Hdr) (cw : Word) (v : BitVec 32) (to_ : Nat × Nat)
    (hto : to_ = destOf (BitVec.ofNat 64 (cw.toNat % 2 ^ 11)) (s.offsetOf h.ctx.toNat)) (hd : to_.2 < 24) :
    ∃ g : Hdr, g.kind = 2 ∧ g.ctx = h.ctx ∧ g.rels = h.rels ∧ s.sendCount t l h cw v =
      (s.source h.ctx.toNat).inject t (to_.2 * 32 + to_.1) false h.ctx.toNat l (.counter g (cw.toNat / 2 ^ 17 % 256) v) := by
  have hw := h.withDest_to (BitVec.ofNat 64 (cw.toNat % 2 ^ 11)) (s.offsetOf h.ctx.toNat).1 (s.offsetOf h.ctx.toNat).2
  rw [Prod.mk.eta, ← hto] at hw
  have hlt : to_.1 < 32 := hto ▸ destOf_fst_lt ..
  have htile : (countHdr h cw (s.offsetOf h.ctx.toNat)).destTile = some (to_.2 * 32 + to_.1) :=
    Hdr.destTile_of_to hw.1 hw.2 hlt hd
  refine ⟨countHdr h cw (s.offsetOf h.ctx.toNat), rfl, rfl, rfl, ?_⟩
  unfold countHdr at *
  unfold State.sendCount
  dsimp only at *
  rw [htile]

/-- A message that has a destination leaves for it. -/
theorem State.post_sends (s : State) (t unit : Nat) (l : List Nat) (m : Msg) {d : Nat} (hd : m.hdr.destTile = some d) :
    s.post t unit l m = ((s.unitSeq t unit).2.source m.hdr.ctx.toNat).inject t d false m.hdr.ctx.toNat l
      (.msg { m with hdr := { m.hdr with seq := (s.unitSeq t unit).1 } }) := by
  have hd' : ({ m.hdr with seq := (s.unitSeq t unit).1 } : Hdr).destTile = some d := hd
  unfold State.post State.sendMsg
  dsimp only
  rw [hd']

/-! ### The end of a job, by its completion action -/

section
variable {s : State} {core slot : Nat}

/-- The end of a job without an error begins its completion action at once. -/
theorem State.finishJob_clean (h : (s.job core slot).err = none) :
    s.finishJob core slot = (s.ending core slot).act core slot false := by
  have he : ((s.ending core slot).job core slot).err = none := by rw [State.job_ending]; exact h
  rw [State.finishJob_eq, State.jobRecord_none he]

theorem State.engX_ending {c x va n : Nat} {need : Need} : (s.ending core slot).engX c x va n need = s.engX c x va n need :=
  (s.ending_maps core slot).engX_eq ..

/-- An error is recorded once, and the actions 1 to 3 are skipped. -/
theorem State.finishJob_failed {c : BitVec 8} (herr : (s.job core slot).err = some c) (h1 : 1 ≤ (s.job core slot).comp.toNat % 8)
    (h3 : (s.job core slot).comp.toNat % 8 ≤ 3) :
    s.finishJob core slot = ((s.ending core slot).jobRecord core slot).actDone core slot := by
  have hj : (((s.ending core slot).jobRecord core slot).job core slot) =
      { s.job core slot with st := .completing, pieces := [] } := by
    rw [(Keeps.jobRecord ..).job, State.job_ending]
  rw [State.finishJob_eq]
  refine State.act_skipped (c := c) ?_ ?_ ?_ false <;> rw [hj]
  · exact herr
  · exact h1
  · exact h3

/-- What an end whose completion action is over gives. -/
theorem Ended.done {u : State} (h : Keeps (s.ending core slot) u) :
    Ended s (u.actDone core slot) core slot ∧ ((u.actDone core slot).job core slot).action = .done ∧
      ((u.actDone core slot).job core slot).err = (s.job core slot).err := by
  refine ⟨((Ended.ending s core slot).keeps h).actDone, ?_, ?_⟩ <;> rw [State.job_actDone]
  rw [h.job, State.job_ending]

/-- The message that a job posts when it ends. -/
theorem State.actMsg_ending : (s.ending core slot).actMsg core slot = s.actMsg core slot := by
  unfold State.actMsg
  rw [State.job_ending]
  rfl

/-- The job status word of a job without an error. -/
theorem State.actMsg_args (s : State) (core slot : Nat) (herr : (s.job core slot).err = none) : (s.actMsg core slot).args =
    let j := s.job core slot
    [j.comp2, BitVec.ofNat 64 (0 + slot % 16 * 2 ^ 8 + j.strand / 4 % 8 * 2 ^ 12 + j.strand % 4 * 2 ^ 15),
      BitVec.ofNat 64 j.bytes, BitVec.ofNat 64 j.rowCount] := by
  unfold State.actMsg Job.statusWord
  dsimp only
  rw [herr]
  rfl

theorem Job.handle_eq (j : Job) (t n : Nat) : j.handle t n =
    BitVec.ofNat 64 ((if j.err = none then 0 else 2 ^ 63) + n % 16 * 2 ^ 52 + j.strand / 4 % 8 * 2 ^ 49 +
      (if 0x7F0000000000 ≤ j.firstByte.toNat ∧ j.firstByte.toNat < 0x7F0000300000
        then 0x700000000000 + t * 0x400000 + (j.firstByte.toNat - 0x7F0000000000) else j.firstByte.toNat) % 2 ^ 48) := by
  have herr : j.err.isSome.toNat * 2 ^ 63 = if j.err = none then 0 else 2 ^ 63 := by
    cases j.err <;> simp
  unfold Job.handle aliasOf
  rw [herr]
  dsimp only
  by_cases hown : 0x7F0000000000 ≤ j.firstByte.toNat ∧ j.firstByte.toNat < 0x7F0000300000
  · rw [if_pos hown, if_pos hown]
    rfl
  · rw [if_neg hown, if_neg hown]
    rfl

/-- The bytes that an action takes off a barrier's PENDING (R298). -/
def Job.actSub (j : Job) : Word := if j.comp2.getLsbD 63 then BitVec.ofNat 64 j.bytes else j.comp2

theorem Job.actSub_toNat (j : Job) :
    j.actSub.toNat % 2 ^ 56 = if j.comp2.getLsbD 63 then j.bytes % 2 ^ 56 else j.comp2.toNat % 2 ^ 56 := by
  unfold Job.actSub
  split
  · rw [BitVec.toNat_ofNat]
    omega
  · rfl

theorem State.ending_pool {u : Nat} : (s.ending core slot).pool u = s.pool u := by
  unfold State.pool
  split
  · unfold State.ending
    rw [State.tile_modJob]
    by_cases ht : u = core / 8
    · rw [ht, State.modTile_tile_same]
    · rw [State.modTile_tile_ne _ _ _ ht]
  · rfl

theorem State.actBytes_sound {pa : Nat} (h : Sound s pa 32) (j : Job) :
    s.actBytes j (.mem pa none) = ((s.barrierAt (some j.ctx) pa none (.bytes j.actSub)).1, none) := by
  have hpoison : s.poisoned pa 32 = false := by
    unfold State.poisoned
    exact List.any_eq_false.2 fun u hu => by simpa using (h u hu).1
  unfold State.actBytes
  dsimp only
  rw [hpoison, State.correct_of_sound h]
  rfl

/-- A counter message of a completion action, in the network of the state before the job ended. -/
theorem State.sendCount_ending (to_ : Nat × Nat) (hctx : (s.job core slot).ctx < 256)
    (hto : to_ = destOf (BitVec.ofNat 64 ((s.job core slot).comp1.toNat % 2 ^ 11)) (s.offsetOf (s.job core slot).ctx))
    (hd : to_.2 < 24) {q : BitVec 16} {v : State} (hv : SameNet s v) (hk : Keeps (s.ending core slot) v) (hx : v.ctxs = s.ctxs)
    (n : BitVec 32) :
    ∃ u, v.sendCount (core / 8) [] { (s.job core slot).actHdr core { rels := true } with seq := q } (s.job core slot).comp1 n = u ∧
      Keeps (s.ending core slot) u ∧ u.mem = v.mem ∧
      ∃ h : Hdr, h.kind = 2 ∧ h.ctx = BitVec.ofNat 8 (s.job core slot).ctx ∧ h.rels = true ∧
        u.net = (s.inject (core / 8) (to_.2 * 32 + to_.1) false (s.job core slot).ctx []
          (.counter h ((s.job core slot).comp1.toNat / 2 ^ 17 % 256) n)).net := by
  have hc : ({ (s.job core slot).actHdr core { rels := true } with seq := q } : Hdr).ctx.toNat = (s.job core slot).ctx :=
    (BitVec.toNat_ofNat ..).trans (Nat.mod_eq_of_lt hctx)
  have ho : v.offsetOf (s.job core slot).ctx = s.offsetOf (s.job core slot).ctx := by
    unfold State.offsetOf State.ctx
    rw [hx]
  obtain ⟨g, hkind, hg, hrels, hsend⟩ := v.sendCount_sends (core / 8) []
    { (s.job core slot).actHdr core { rels := true } with seq := q } (s.job core slot).comp1 n to_ (by rw [hc, ho]; exact hto) hd
  rw [hc] at hsend
  refine ⟨_, hsend, hk.trans ((Keeps.source ..).trans (Keeps.inject ..)), State.inject_mem .., g, hkind, hg, hrels, ?_⟩
  exact ((hv.source _).inject ..).net
end

theorem SameNet.unitSeq {s u : State} (h : SameNet s u) (t n : Nat) : SameNet s (u.unitSeq t n).2 := ⟨h.net, h.nextId, h.links⟩

section
variable {s : State} {core slot : Nat} (herr : (s.job core slot).err = none)
include herr

theorem State.finishJob_none (hact : (s.job core slot).comp.toNat % 8 = 0) :
    s.finishJob core slot = (s.ending core slot).actDone core slot := by
  rw [State.finishJob_clean herr, State.act_none (by rw [State.job_ending]; exact hact)]

/-- A completion action that writes a word, once its target is known. -/
theorem State.finishJob_write (hact : (s.job core slot).comp.toNat % 8 = 1) : s.finishJob core slot =
    (s.ending core slot).actAt core slot 8 needW false (State.writeWord (s.job core slot).comp2) := by
  rw [State.finishJob_clean herr, State.act_write (by rw [State.job_ending]; exact herr) (by rw [State.job_ending]; exact hact),
    State.job_ending]

/-- A completion action on a barrier, once its target is known. -/
theorem State.finishJob_bytes (hact : (s.job core slot).comp.toNat % 8 = 3) : s.finishJob core slot =
    (s.ending core slot).actAt core slot 32 needBarrier false
      fun u t => u.actBytes ((s.ending core slot).job core slot) t := by
  rw [State.finishJob_clean herr, State.act_bytes (by rw [State.job_ending]; exact herr) (by rw [State.job_ending]; exact hact)]

theorem State.finishJob_writes {pa : Nat} (hact : (s.job core slot).comp.toNat % 8 = 1)
    (he : s.engX (s.job core slot).ctx core (s.job core slot).comp1.toNat 8 needW = .ok (.mem pa none)) (hw : Writable s pa 8) :
    ∃ u, s.finishJob core slot = u.actDone core slot ∧ Keeps (s.ending core slot) u ∧
      memNat u pa 8 = (s.job core slot).comp2.toNat ∧ SameBytesOutside s u pa 8 := by
  obtain ⟨u, hu, hk, hword, hout⟩ := State.writeWord_writable (Writable.ending hw core slot) (s.job core slot).comp2
  refine ⟨u, ?_, hk, hword, hout⟩
  rw [State.finishJob_write herr hact]
  exact State.actAt_done (by rw [State.engX_ending, State.job_ending]; exact he) hu

theorem State.finishJob_fails {c : Cause} {a : Nat} (hact : (s.job core slot).comp.toNat % 8 = 1)
    (he : s.engX (s.job core slot).ctx core (s.job core slot).comp1.toNat 8 needW = .fail c a) :
    s.finishJob core slot = (s.ending core slot).actFail core slot c a := by
  rw [State.finishJob_write herr hact]
  exact State.actAt_fail (by rw [State.engX_ending, State.job_ending]; exact he)

theorem State.finishJob_asks (hact : (s.job core slot).comp.toNat % 8 = 1)
    (he : s.engX (s.job core slot).ctx core (s.job core slot).comp1.toNat 8 needW = .absent) :
    let u := s.finishJob core slot
    Ended s u core slot ∧ ∃ tag, (u.job core slot).action = .held tag ∧
      Asked u.tsrReqs tag (.action core slot) (BitVec.ofNat 64 (s.job core slot).comp1.toNat) := by
  intro u
  have hu : u = s.finishJob core slot := rfl
  rw [State.finishJob_write herr hact, State.actAt_absent (by rw [State.engX_ending, State.job_ending]; exact he),
    State.job_ending] at hu
  rw [hu]
  refine ⟨((Ended.ending s core slot).keeps (Keeps.request ..)).modJob fun _ => ⟨rfl, rfl, rfl⟩, _,
    congrArg Job.action (State.job_modJob_same ..), ?_⟩
  exact State.request_asks ..

theorem State.finishJob_counts (to_ : Nat × Nat) (hact : (s.job core slot).comp.toNat % 8 = 2) (hctx : (s.job core slot).ctx < 256)
    (hto : to_ = destOf (BitVec.ofNat 64 ((s.job core slot).comp1.toNat % 2 ^ 11)) (s.offsetOf (s.job core slot).ctx))
    (hd : to_.2 < 24) :
    ∃ u, s.finishJob core slot = u.actDone core slot ∧ Keeps (s.ending core slot) u ∧ u.mem = s.mem ∧
      ∃ h : Hdr, h.kind = 2 ∧ h.ctx = BitVec.ofNat 8 (s.job core slot).ctx ∧ h.rels = true ∧
        u.net = (s.inject (core / 8) (to_.2 * 32 + to_.1) false (s.job core slot).ctx []
          (.counter h ((s.job core slot).comp1.toNat / 2 ^ 17 % 256) ((s.job core slot).comp2.setWidth 32))).net := by
  obtain ⟨u, hu, hk, hmem, hnet⟩ := State.sendCount_ending to_ hctx hto hd
    (q := ((s.ending core slot).unitSeq (core / 8) 4).1) ((s.ending_net core slot).unitSeq (core / 8) 4) (Keeps.unitSeq ..) rfl
    ((s.job core slot).comp2.setWidth 32)
  refine ⟨u, ?_, hk, hmem, hnet⟩
  rw [State.finishJob_clean herr, State.act_count (by rw [State.job_ending]; exact herr) (by rw [State.job_ending]; exact hact),
    State.job_ending, ← hu]
  rfl

theorem State.finishJob_takes {pa : Nat} (hact : (s.job core slot).comp.toNat % 8 = 3)
    (he : s.engX (s.job core slot).ctx core (s.job core slot).comp1.toNat 32 needBarrier = .ok (.mem pa none))
    (hw : Writable s pa 32) (hpool : s.pool (unitOfPlace pa) = []) (b1 : BarObj)
    (hb : b1 = lessened (barrierIn s pa) ((s.job core slot).actSub.toNat % 2 ^ 56))
    (hneg : ¬ (b1.init = true ∧ b1.arrived = b1.expect ∧ 2 ^ 55 ≤ b1.pending)) :
    ∃ u, s.finishJob core slot = u.actDone core slot ∧ Keeps (s.ending core slot) u ∧ SameBytesOutside s u pa 32 ∧
      barrierIn u pa = if b1.init = true ∧ b1.arrived = b1.expect ∧ b1.pending = 0 then flipped b1 s.time else b1 := by
  obtain ⟨hk, hout, hobj⟩ := State.barrierAt_bytes (Writable.ending hw core slot) (State.ending_pool.trans hpool)
    (some (s.job core slot).ctx) b1 hb hneg
  refine ⟨_, ?_, hk, hout, hobj⟩
  rw [State.finishJob_bytes herr hact]
  refine State.actAt_done (t := .mem pa none) (by rw [State.engX_ending, State.job_ending]; exact he) ?_
  rw [State.actBytes_sound (Writable.ending hw core slot).1, State.job_ending]
  rfl

theorem State.finishJob_posts (to_ : Nat × Nat) (hact : (s.job core slot).comp.toNat % 8 = 4)
    (hto : to_ = destOf (s.job core slot).comp1 (s.offsetOf (s.job core slot).ctx)) (hd : to_.2 < 24) :
    ∃ u, s.finishJob core slot = u.actDone core slot ∧ Keeps (s.ending core slot) u ∧ u.mem = s.mem ∧
      ∃ q : BitVec 16, u.net = (s.inject (core / 8) (to_.2 * 32 + to_.1) false ((s.job core slot).ctx % 256) []
        (.msg { s.actMsg core slot with hdr := { (s.actMsg core slot).hdr with seq := q } })).net := by
  have hdest := Hdr.withDest_to ((s.job core slot).actHdr core { posted := true, rels := true }) (s.job core slot).comp1
    (s.offsetOf (s.job core slot).ctx).1 (s.offsetOf (s.job core slot).ctx).2
  rw [Prod.mk.eta, ← hto] at hdest
  have htile : (s.actMsg core slot).hdr.destTile = some (to_.2 * 32 + to_.1) :=
    Hdr.destTile_of_to hdest.1 hdest.2 (hto ▸ destOf_fst_lt ..) hd
  have hctx : (s.actMsg core slot).hdr.ctx.toNat = (s.job core slot).ctx % 256 := BitVec.toNat_ofNat ..
  have hpost := (s.ending core slot).post_sends (core / 8) 4 [] (s.actMsg core slot) htile
  rw [hctx] at hpost
  rw [State.finishJob_clean herr, State.act_post (by rw [State.job_ending]; exact hact), State.actMsg_ending, hpost]
  exact ⟨_, rfl, (Keeps.unitSeq (s.ending core slot) (core / 8) 4).trans ((Keeps.source ..).trans (Keeps.inject ..)),
    State.inject_mem .., _, ((((s.ending_net core slot).unitSeq (core / 8) 4).source _).inject ..).net⟩
end

/-- A tile handle that waits for its queue. -/
theorem State.finishJob_pushes {s : State} {core slot : Nat} (hact : (s.job core slot).comp.toNat % 8 = 5) :
    let u := s.finishJob core slot
    Ended s u core slot ∧ (u.job core slot).action = .pushing ((s.job core slot).handle (core / 8) slot) := by
  intro u
  have hu : u = s.finishJob core slot := rfl
  have hj : (((s.ending core slot).jobRecord core slot).job core slot) = { s.job core slot with st := .completing, pieces := [] } := by
    rw [(Keeps.jobRecord ..).job, State.job_ending]
  rw [State.finishJob_eq, State.act_push (by rw [hj]; exact hact)] at hu
  rw [hu]
  refine ⟨((Ended.ending s core slot).keeps (Keeps.jobRecord ..)).modJob fun _ => ⟨rfl, rfl, rfl⟩, ?_⟩
  rw [State.job_modJob_same, hj]
  rfl

/-- An instruction that ends a job ends its accesses. -/
theorem endsAccesses_of_finishJob {x : Instr} {s : State} {core slot : Nat} (hx : exec x s = .next (s.finishJob core slot)) :
    EndsAccesses x s core slot := by
  unfold EndsAccesses
  intro j t act va o dst gives status first home rows
  refine ⟨fun herr => ⟨fun hact => ?_, fun hact => ⟨fun pa he hw => ?_, fun c a he => ?_, fun he => ?_⟩, ?_, ?_⟩,
    fun c herr h1 h3 => ?_, fun hact herr hd => ?_, fun hact => ?_⟩
  · obtain ⟨h, hdone, hnone⟩ := Ended.done (Keeps.refl (s.ending core slot))
    rw [State.finishJob_none herr hact] at hx
    exact ⟨_, hx, h.and ⟨hdone, hnone.trans herr, rfl, rfl⟩⟩
  · obtain ⟨u, hu, hk, hword, hout⟩ := State.finishJob_writes herr hact he hw
    obtain ⟨h, hdone, hnone⟩ := Ended.done hk
    exact ⟨_, hu ▸ hx, h.and ⟨hdone, hnone.trans herr, hword, hout⟩⟩
  · rw [State.finishJob_fails herr hact he] at hx
    exact ⟨_, hx, ((Ended.ending s core slot).actFail c a).and ((s.ending core slot).job_actFail core slot c a)⟩
  · obtain ⟨h, hask⟩ := State.finishJob_asks herr hact he
    exact ⟨_, hx, h.and hask⟩
  · intro hact hctx to_ hd
    obtain ⟨u, hu, hk, hsent⟩ := State.finishJob_counts herr to_ hact hctx rfl hd
    obtain ⟨h, hdone, -⟩ := Ended.done hk
    exact ⟨_, hu ▸ hx, h.and ⟨hdone, hsent⟩⟩
  · intro hact pa he hw hpool b n b1 hbytes hneg
    have hb1 : b1 = lessened (barrierIn s pa) (j.actSub.toNat % 2 ^ 56) := by
      rw [Job.actSub_toNat]
      rfl
    obtain ⟨u, hu, hk, hout, hobj⟩ := State.finishJob_takes herr hact he hw hpool b1 hb1 hneg
    obtain ⟨h, hdone, -⟩ := Ended.done hk
    exact ⟨_, hu ▸ hx, h.and ⟨hdone, hobj, hout⟩⟩
  · rw [State.finishJob_failed herr h1 h3] at hx
    obtain ⟨h, hdone, hsame⟩ := Ended.done (Keeps.jobRecord (s.ending core slot) core slot)
    have hcount := State.jobRecord_faultCount (s := s.ending core slot) (core := core) (slot := slot) (c := c)
      (by rw [State.job_ending]; exact herr)
    rw [State.job_ending] at hcount
    exact ⟨_, hx, h.and ⟨hdone, hsame.trans herr, hcount⟩⟩
  · obtain ⟨u, hu, hk, hmem, q, hnet⟩ := State.finishJob_posts herr dst hact rfl hd
    obtain ⟨h, hdone, -⟩ := Ended.done hk
    have hrows : j.rowCount = rows := by
      unfold Job.rowCount
      dsimp only [rows]
      cases j.kind <;> rfl
    have herr0 : status = 0 + slot % 16 * 2 ^ 8 + j.strand / 4 % 8 * 2 ^ 12 + j.strand % 4 * 2 ^ 15 := by
      dsimp only [status]
      rw [herr]
    refine ⟨_, hu ▸ hx, h.and ⟨hdone, hmem, _, hnet, rfl, rfl, rfl, rfl, ?_⟩⟩
    rw [herr0, ← hrows]
    exact s.actMsg_args core slot herr
  · obtain ⟨h, haction⟩ := State.finishJob_pushes hact
    have hfirst : j.firstByte = first := by
      unfold Job.firstByte
      dsimp only [first]
      cases j.kind <;> rfl
    refine ⟨_, hx, h.and (haction.trans (congrArg ActState.pushing ?_))⟩
    rw [Job.handle_eq, hfirst]

end Sys2Proof.Machine
end

section
/-! SUPPORT. O49: the pieces into which a copy is cut, one page of source and of destination each (R304). -/

namespace Sys2Proof.Machine
open Sys2Proof Sys2Proof.Claims

/-! ### Runs -/

/-- Granules that `n` bytes from `a` touch. -/
def granuleCount (a n : Nat) : Nat := (a % 65536 + n + 65535) / 65536

/-- The next run: no granule ends within it. -/
def runLen (src dst n : Nat) : Nat := min n (min (65536 - src % 65536) (65536 - dst % 65536))

theorem runLen_bounds {src dst n : Nat} (h : n ≠ 0) : 0 < runLen src dst n ∧ runLen src dst n ≤ n ∧
    src % 65536 + runLen src dst n ≤ 65536 ∧ dst % 65536 + runLen src dst n ≤ 65536 := by
  unfold runLen
  omega

theorem cutAt_succ {fuel src dst n : Nat} (h : n ≠ 0) : cutAt (fuel + 1) src dst n =
    (src, dst, runLen src dst n) :: cutAt fuel (src + runLen src dst n) (dst + runLen src dst n) (n - runLen src dst n) :=
  if_neg h

theorem cutAt_zero (fuel src dst : Nat) : cutAt fuel src dst 0 = [] := by
  cases fuel <;> rfl

/-- A run that leaves bytes ends a granule of the source or of the destination. -/
theorem granuleCount_runLen {src dst n : Nat} (h : n - runLen src dst n ≠ 0) :
    granuleCount (src + runLen src dst n) (n - runLen src dst n) + granuleCount (dst + runLen src dst n) (n - runLen src dst n) + 1 ≤
      granuleCount src n + granuleCount dst n := by
  unfold granuleCount runLen at *
  omega

/-- Enough fuel cuts all the bytes. -/
theorem sum_cutAt {fuel src dst n : Nat} (h : n = 0 ∨ granuleCount src n + granuleCount dst n ≤ fuel + 1) :
    ((cutAt fuel src dst n).map (·.2.2)).sum = n := by
  induction fuel generalizing src dst n with
  | zero =>
    obtain rfl | h := h
    · rfl
    · unfold granuleCount at h
      rw [cutAt]
      simp only [List.map_nil, List.sum_nil]
      omega
  | succ fuel ih =>
    by_cases hn : n = 0
    · rw [hn, cutAt_zero]
      rfl
    · have hle := (runLen_bounds (src := src) (dst := dst) hn).2.1
      have hrest : n - runLen src dst n = 0 ∨ granuleCount (src + runLen src dst n) (n - runLen src dst n) +
          granuleCount (dst + runLen src dst n) (n - runLen src dst n) ≤ fuel + 1 := by
        by_cases hr : n - runLen src dst n = 0
        · exact .inl hr
        · have := granuleCount_runLen hr
          omega
      rw [cutAt_succ hn, List.map_cons, List.sum_cons, ih hrest]
      exact Nat.add_sub_cancel' hle

theorem sum_cuts (src dst n : Nat) : ((cuts src dst n).map (·.2.2)).sum = n :=
  sum_cutAt (by unfold granuleCount; omega)

/-- Where each run lies. -/
theorem cutAt_append {fuel src dst n : Nat} {a : List (Nat × Nat × Nat)} {x : Nat × Nat × Nat} {b : List (Nat × Nat × Nat)}
    (h : cutAt fuel src dst n = a ++ x :: b) :
    x.1 = src + (a.map (·.2.2)).sum ∧ x.2.1 = dst + (a.map (·.2.2)).sum ∧ 0 < x.2.2 ∧
      x.1 % 65536 + x.2.2 ≤ 65536 ∧ x.2.1 % 65536 + x.2.2 ≤ 65536 := by
  induction fuel generalizing src dst n a with
  | zero => simp [cutAt] at h
  | succ fuel ih =>
    by_cases hn : n = 0
    · rw [hn, cutAt_zero] at h
      simp at h
    · rw [cutAt_succ hn] at h
      cases a with
      | nil =>
        obtain ⟨rfl, -⟩ := List.cons.inj h
        obtain ⟨hpos, -, hs, hd⟩ := runLen_bounds (src := src) (dst := dst) hn
        exact ⟨rfl, rfl, hpos, hs, hd⟩
      | cons y a =>
        rw [List.cons_append] at h
        obtain ⟨hy, htail⟩ := List.cons.inj h
        obtain ⟨h1, h2, h3⟩ := ih htail
        rw [← hy, List.map_cons, List.sum_cons]
        exact ⟨h1.trans (Nat.add_assoc ..), h2.trans (Nat.add_assoc ..), h3⟩

/-! ### Pieces -/

/-- What a piece is of its job: its place, its addresses and its length. -/
def Piece.key (p : Piece) : Nat × Word × Word × Nat := (p.idx, p.src, p.dst, p.len)

theorem sum_len_of_keys {ps qs : List Piece} (h : ps.map Piece.key = qs.map Piece.key) :
    (ps.map (·.len)).sum = (qs.map (·.len)).sum := by
  have hlen : ∀ l : List Piece, l.map (·.len) = (l.map Piece.key).map (·.2.2.2) := fun l => by rw [List.map_map]; rfl
  rw [hlen, hlen, h]

theorem sum_len_numberPieces (l : List (Nat × Nat × Nat)) : ((numberPieces l).map (·.len)).sum = (l.map (·.2.2)).sum := by
  unfold numberPieces
  congr 1
  exact List.ext_getElem (by simp) fun i h₁ h₂ => by simp

/-- A piece among those of a list of runs: it is numbered by its place, and its run stands at that place. -/
theorem numberPieces_append {l : List (Nat × Nat × Nat)} {a b : List Piece} {p : Piece} (h : numberPieces l = a ++ p :: b) :
    ∃ u x v, l = u ++ x :: v ∧ a.map (·.len) = u.map (·.2.2) ∧
      p = { idx := a.length, src := BitVec.ofNat 64 x.1, dst := BitVec.ofNat 64 x.2.1, len := x.2.2 } := by
  obtain ⟨u, w, rfl, hu, hw⟩ := List.mapIdx_eq_append_iff.1 h
  obtain ⟨x, v, rfl, hx, -⟩ := List.mapIdx_eq_cons_iff.1 hw
  have hlen : a.length = u.length := by rw [← hu, List.length_mapIdx]
  refine ⟨u, x, v, rfl, ?_, ?_⟩
  · rw [← hu]
    exact List.ext_getElem (by simp) fun i h₁ h₂ => by simp
  · rw [← hx, hlen, Nat.zero_add]

/-- Pieces with the keys of those of a list of runs, split where one of them stands. -/
theorem keys_append {ps qs a b : List Piece} {p : Piece} (h : ps.map Piece.key = qs.map Piece.key) (hp : ps = a ++ p :: b) :
    ∃ a' p' b', qs = a' ++ p' :: b' ∧ a'.map Piece.key = a.map Piece.key ∧ p'.key = p.key := by
  rw [hp, List.map_append, List.map_cons] at h
  obtain ⟨a', r, rfl, ha, hr⟩ := List.map_eq_append_iff.1 h.symm
  obtain ⟨p', b', rfl, hp', -⟩ := List.map_eq_cons_iff.1 hr
  exact ⟨a', p', b', rfl, ha, hp'⟩

/-- R304: a copy is cut in contiguous pieces of one page each. -/
theorem pieces_of_cuts {ps : List Piece} {x y : Word} {n : Nat}
    (h : ps.map Piece.key = (numberPieces (cuts x.toNat y.toNat n)).map Piece.key) :
    (ps.map (·.len)).sum = n ∧ ∀ a p b, ps = a ++ p :: b → let o := (a.map (·.len)).sum;
      p.idx = a.length ∧ p.src = x + BitVec.ofNat 64 o ∧ p.dst = y + BitVec.ofNat 64 o ∧ 0 < p.len ∧
      p.src.toNat % 65536 + p.len ≤ 65536 ∧ p.dst.toNat % 65536 + p.len ≤ 65536 := by
  refine ⟨by rw [sum_len_of_keys h, sum_len_numberPieces, sum_cuts], ?_⟩
  intro a p b hp o
  obtain ⟨a', p', b', hq, ha, hkey⟩ := keys_append h hp
  obtain ⟨u, r, v, hcut, hlen, rfl⟩ := numberPieces_append hq
  obtain ⟨hsrc, hdst, hpos, hs, hd⟩ := cutAt_append hcut
  have ho : (u.map (·.2.2)).sum = o := by rw [← hlen, sum_len_of_keys ha]
  have hcount : a'.length = a.length := by simpa using congrArg List.length ha
  obtain ⟨hidx, hpsrc, hpdst, hplen⟩ : a'.length = p.idx ∧ BitVec.ofNat 64 r.1 = p.src ∧ BitVec.ofNat 64 r.2.1 = p.dst ∧
      r.2.2 = p.len := by simpa [Piece.key] using hkey
  rw [ho] at hsrc hdst
  rw [← hidx, ← hpsrc, ← hpdst, ← hplen]
  refine ⟨hcount, ?_, ?_, hpos, ?_, ?_⟩
  · rw [hsrc, BitVec.ofNat_add, BitVec.ofNat_toNat, BitVec.setWidth_eq]
  · rw [hdst, BitVec.ofNat_add, BitVec.ofNat_toNat, BitVec.setWidth_eq]
  · rw [BitVec.toNat_ofNat]
    omega
  · rw [BitVec.toNat_ofNat]
    omega

/-- Numbered pieces have different places. -/
theorem nodup_numberPieces (l : List (Nat × Nat × Nat)) : ((numberPieces l).map (·.idx)).Nodup := by
  have hidx : (numberPieces l).map (·.idx) = List.range l.length := by
    unfold numberPieces
    exact List.ext_getElem (by simp) fun i h₁ h₂ => by simp
  rw [hidx]
  exact List.nodup_range

end Sys2Proof.Machine
end

section
/-! SUPPORT. O49: what the credit of a tile's engine does to a job's pieces (R310, R368). -/

namespace Sys2Proof.Machine
open Sys2Proof Sys2Proof.Claims

/-! ### A piece formed -/

/-- Strands, tiles and the other jobs are as before, and of the job in the slot its state, kind, command and pieces. -/
structure JobKept (s u : State) (core slot : Nat) : Prop where
  strands : u.strands = s.strands
  tiles : u.tiles = s.tiles
  others : ∀ c k, (c, k) ≠ (core, slot) → u.job c k = s.job c k
  st : (u.job core slot).st = (s.job core slot).st
  kind : (u.job core slot).kind = (s.job core slot).kind
  desc : (u.job core slot).desc = (s.job core slot).desc
  pieces : (u.job core slot).pieces = (s.job core slot).pieces

section
variable {s t u : State} {core slot : Nat}

theorem JobKept.trans (h : JobKept s t core slot) (h' : JobKept t u core slot) : JobKept s u core slot :=
  ⟨h'.strands.trans h.strands, h'.tiles.trans h.tiles, fun c k hk => (h'.others c k hk).trans (h.others c k hk),
    h'.st.trans h.st, h'.kind.trans h.kind, h'.desc.trans h.desc, h'.pieces.trans h.pieces⟩

theorem JobKept.of_cores (hs : u.strands = s.strands) (ht : u.tiles = s.tiles) (hc : u.cores = s.cores) :
    JobKept s u core slot := by
  have hj : ∀ c k, u.job c k = s.job c k := fun c k => congrArg (fun m : SMap Core => (m.get {} c).jobs.get {} k) hc
  exact ⟨hs, ht, fun c k _ => hj c k, by rw [hj], by rw [hj], by rw [hj], by rw [hj]⟩

theorem JobKept.refl (s : State) (core slot : Nat) : JobKept s s core slot := JobKept.of_cores rfl rfl rfl

theorem JobKept.freeSpinel (s : State) (core slot idx : Nat) (st : PieceState) :
    JobKept s (s.freeSpinel core slot idx st) core slot := by
  cases st <;> exact JobKept.of_cores rfl rfl rfl

theorem JobKept.request (s : State) (core slot : Nat) (who : TsrFor) (ctx t va : Nat) (write : Bool) (stack : Option Nat) :
    JobKept s (s.request who ctx t va write stack).1 core slot :=
  let ⟨hs, ht, hc⟩ := s.request_same who ctx t va write stack
  JobKept.of_cores hs ht hc

theorem JobKept.note (s : State) (core slot idx : Nat) (c : Cause) (a : Nat) (time : Word) :
    JobKept s (s.modJob core slot fun j => j.note idx c a time) core slot := by
  have hnote : ∀ j : Job, (j.note idx c a time).st = j.st ∧ (j.note idx c a time).kind = j.kind ∧
      (j.note idx c a time).desc = j.desc ∧ (j.note idx c a time).pieces = j.pieces := fun j => by
    unfold Job.note
    split <;> exact ⟨rfl, rfl, rfl, rfl⟩
  obtain ⟨hst, hkind, hdesc, hpieces⟩ := hnote (s.job core slot)
  have hj : (s.modJob core slot fun j => j.note idx c a time).job core slot = (s.job core slot).note idx c a time :=
    State.job_modJob_same ..
  exact ⟨rfl, rfl, fun x k hk => State.job_modJob_ne s _ hk, by rw [hj, hst], by rw [hj, hkind], by rw [hj, hdesc],
    by rw [hj, hpieces]⟩
end

/-- A piece that is formed comes to one of its states, and nothing else of its job changes. -/
theorem State.formPiece_sets (s : State) (core slot : Nat) (p : Piece) :
    ∃ v st, JobKept s v core slot ∧ s.formPiece core slot p = v.setPiece core slot p.idx st ∧
      ((s.job core slot).kind.copies = true → st ≠ .todo) := by
  unfold State.formPiece
  dsimp only
  split
  · unfold State.holdPiece
    dsimp only
    split
    · exact ⟨_, _, JobKept.request .., rfl, fun _ => nofun⟩
    · exact ⟨_, _, (JobKept.freeSpinel ..).trans (JobKept.request ..), rfl, fun _ => nofun⟩
  · exact ⟨_, _, (JobKept.note ..).trans (JobKept.freeSpinel ..), rfl, fun _ => nofun⟩
  · rename_i l hx
    cases (s.job core slot).spinelOf l with
    | none => exact ⟨s, _, JobKept.refl s core slot, rfl, fun _ => nofun⟩
    | some k =>
      dsimp only
      by_cases hcopy : (s.job core slot).kind.copies = true
      · rw [if_pos hcopy]
        refine ⟨_, _, ?_, rfl, fun _ => nofun⟩
        exact JobKept.of_cores rfl rfl rfl
      · rw [if_neg hcopy]
        generalize rowTokens _ p.len = n
        by_cases hfull : sorterDepth < ((s.spinel k).sorter.map (·.2)).sum + n
        · rw [if_pos hfull]
          exact ⟨s, _, JobKept.refl s core slot, rfl, fun h => absurd h hcopy⟩
        · rw [if_neg hfull]
          refine ⟨_, _, ?_, rfl, fun h => absurd h hcopy⟩
          exact JobKept.of_cores rfl rfl rfl

/-! ### Credit granted -/

/-- Of a job that is given credit, and of everything but its tile's credit, this stays. -/
structure Granted (s u : State) (core slot : Nat) : Prop where
  strands : u.strands = s.strands
  locks : ∀ t, (u.tile t).locks = (s.tile t).locks
  others : ∀ c k, (c, k) ≠ (core, slot) → u.job c k = s.job c k
  kind : (u.job core slot).kind = (s.job core slot).kind
  desc : (u.job core slot).desc = (s.job core slot).desc
  keys : (u.job core slot).pieces.map Piece.key = (s.job core slot).pieces.map Piece.key

section
variable {s t u : State} {core slot : Nat}

theorem Granted.refl (s : State) (core slot : Nat) : Granted s s core slot := ⟨rfl, fun _ => rfl, fun _ _ _ => rfl, rfl, rfl, rfl⟩

theorem Granted.trans (h : Granted s t core slot) (h' : Granted t u core slot) : Granted s u core slot :=
  ⟨h'.strands.trans h.strands, fun x => (h'.locks x).trans (h.locks x), fun c k hk => (h'.others c k hk).trans (h.others c k hk),
    h'.kind.trans h.kind, h'.desc.trans h.desc, h'.keys.trans h.keys⟩

theorem Granted.of_kept (h : JobKept s u core slot) : Granted s u core slot :=
  ⟨h.strands, fun t => congrArg (fun m : SMap Tile => (m.get {} t).locks) h.tiles, h.others, h.kind, h.desc, by rw [h.pieces]⟩

/-- A change of pieces that leaves each its place, its addresses and its length. -/
theorem Granted.modPiece (s : State) (core slot idx : Nat) {f : Piece → Piece}
    (hf : ∀ p ∈ (s.job core slot).pieces, p.idx = idx → (f p).key = p.key) : Granted s (s.modPiece core slot idx f) core slot := by
  have hj : (s.modPiece core slot idx f).job core slot = { s.job core slot with
      pieces := (s.job core slot).pieces.map fun p => if p.idx = idx then f p else p } := State.job_modJob_same ..
  refine ⟨rfl, fun _ => rfl, fun c k hk => State.job_modJob_ne s _ hk, by rw [hj], by rw [hj], ?_⟩
  rw [hj, List.map_map]
  refine List.map_congr_left fun p hp => ?_
  change (if p.idx = idx then f p else p).key = p.key
  split
  · exact hf p hp ‹_›
  · rfl

theorem Tile.setCredit_locks (x : Tile) (k : JobKind) (n : Nat) : (x.setCredit k n).locks = x.locks := by
  unfold Tile.setCredit
  split <;> rfl

theorem Granted.setCredit (s : State) (core slot t : Nat) (k : JobKind) (n : Nat) :
    Granted s (s.modTile t fun x => x.setCredit k n) core slot :=
  ⟨rfl, (Keeps.modTile s t fun x => x.setCredit_locks k n).locks, fun _ _ _ => rfl, rfl, rfl, rfl⟩

/-- The piece of a given place, where no two have the same. -/
theorem eq_of_find_idx {l : List Piece} (hn : (l.map (·.idx)).Nodup) {idx : Nat} {p q : Piece}
    (hp : (l.find? fun x => x.idx == idx) = some p) (hq : q ∈ l) (hi : q.idx = idx) : q = p :=
  List.inj_on_of_nodup_map hn hq (List.mem_of_find?_eq_some hp) (hi.trans (by simpa using List.find?_some hp : p.idx = idx).symm)

/-- The state in which a piece has the requests `m`, and its tile's engine the credit `n`. -/
def State.asking (s : State) (core slot : Nat) (p : Piece) (n m : Nat) : State :=
  (s.modTile (core / 8) fun x => x.setCredit (s.job core slot).kind n).modPiece core slot p.idx fun _ => { p with asked := m }

theorem State.asking_granted {idx : Nat} {p : Piece} (hn : ((s.job core slot).pieces.map (·.idx)).Nodup)
    (hp : ((s.job core slot).pieces.find? fun x => x.idx == idx) = some p) (n m : Nat) :
    Granted s (s.asking core slot p n m) core slot ∧ ((s.asking core slot p n m).job core slot).st = (s.job core slot).st := by
  have hi : p.idx = idx := by simpa using List.find?_some hp
  refine ⟨(Granted.setCredit ..).trans (Granted.modPiece _ _ _ _ fun q hq hq' => ?_),
    (congrArg Job.st (State.job_modJob_same ..)).trans rfl⟩
  rw [eq_of_find_idx hn hp hq (hq'.trans hi)]
  rfl

/-- The requests that a piece is given. -/
def State.grantOf (s : State) (core slot : Nat) (p : Piece) : Nat :=
  min ((s.job core slot).requests p - p.asked)
    (min ((s.tile (core / 8)).credit (s.job core slot).kind) (s.engineRoom (core / 8) (s.job core slot).kind.copies))

/-- A piece that may ask is given its requests, and with the first of them it is formed. -/
theorem State.grantPiece_asks {idx : Nat} {p : Piece} (hp : ((s.job core slot).pieces.find? fun x => x.idx == idx) = some p)
    (ha : (p.st.ended || p.st.isHeld || !(s.job core slot).mayWrite p) = false) :
    let n := s.grantOf core slot p
    let v := s.asking core slot p ((s.tile (core / 8)).credit (s.job core slot).kind - n) (p.asked + n)
    s.grantPiece core slot idx =
      if p.st = .todo ∧ 0 < p.asked + n then v.formPiece core slot { p with asked := p.asked + n } else v := by
  obtain rfl : p.idx = idx := by simpa using List.find?_some hp
  unfold State.grantPiece
  dsimp only
  rw [hp]
  dsimp only
  rw [ha]
  rfl

theorem State.grantPiece_granted (hn : ((s.job core slot).pieces.map (·.idx)).Nodup) (idx : Nat) :
    Granted s (s.grantPiece core slot idx) core slot ∧
      ((s.grantPiece core slot idx).job core slot).st = (s.job core slot).st := by
  cases hp : (s.job core slot).pieces.find? fun x => x.idx == idx with
  | none =>
    have hsame : s.grantPiece core slot idx = s := by
      unfold State.grantPiece
      dsimp only
      rw [hp]
    rw [hsame]
    exact ⟨Granted.refl s core slot, rfl⟩
  | some p =>
    cases ha : p.st.ended || p.st.isHeld || !(s.job core slot).mayWrite p with
    | true =>
      have hsame : s.grantPiece core slot idx = s := by
        unfold State.grantPiece
        dsimp only
        rw [hp]
        exact if_pos ha
      rw [hsame]
      exact ⟨Granted.refl s core slot, rfl⟩
    | false =>
      have hask := State.asking_granted hn hp
      rw [State.grantPiece_asks hp ha]
      split
      · obtain ⟨v, st, hv, hform, -⟩ := State.formPiece_sets (s.asking core slot p _ _) core slot _
        rw [hform]
        refine ⟨(hask _ _).1.trans ((Granted.of_kept hv).trans (Granted.modPiece _ _ _ _ fun _ _ _ => rfl)), ?_⟩
        exact (congrArg Job.st (State.job_modJob_same ..)).trans (hv.st.trans (hask _ _).2)
      · exact hask _ _

theorem Granted.nodup (h : Granted s u core slot) (hn : ((s.job core slot).pieces.map (·.idx)).Nodup) :
    ((u.job core slot).pieces.map (·.idx)).Nodup := by
  have hidx : ∀ l : List Piece, l.map (·.idx) = (l.map Piece.key).map (·.1) := fun l => by rw [List.map_map]; rfl
  rwa [hidx, h.keys, ← hidx]

theorem State.foldl_grantPiece_granted (l : List Piece) (hn : ((s.job core slot).pieces.map (·.idx)).Nodup) :
    let u := l.foldl (fun s p => s.grantPiece core slot p.idx) s
    Granted s u core slot ∧ (u.job core slot).st = (s.job core slot).st := by
  induction l generalizing s with
  | nil => exact ⟨Granted.refl s core slot, rfl⟩
  | cons p l ih =>
    obtain ⟨hgrant, hst⟩ := State.grantPiece_granted hn p.idx
    obtain ⟨hrest, hst'⟩ := ih (hgrant.nodup hn)
    exact ⟨hgrant.trans hrest, hst'.trans hst⟩

/-- A job whose streams have been looked at is RUNNING or TRANSLATING, if it was one of them. -/
theorem State.settleJob_granted (h : (s.job core slot).st = .running ∨ (s.job core slot).st = .translating) :
    Granted s (s.settleJob core slot) core slot ∧ ((s.settleJob core slot).job core slot).pieces = (s.job core slot).pieces ∧
      ((s.settleJob core slot).job core slot).st =
        if (s.job core slot).pieces.any (fun p => p.st.isHeld) then .translating else .running := by
  have hj : (s.settleJob core slot).job core slot = { s.job core slot with
      st := if (s.job core slot).pieces.any (fun p => p.st.isHeld) then .translating else .running } :=
    (State.job_modJob_same ..).trans (if_pos h)
  exact ⟨⟨rfl, fun _ => rfl, fun c k hk => State.job_modJob_ne s _ hk, by rw [hj], by rw [hj], by rw [hj]⟩, by rw [hj], by rw [hj]⟩

/-- A job that is given credit stays what it is, and RUNNING or TRANSLATING. -/
theorem State.grant_granted (hm : (s.job core slot).kind.moves = true)
    (h : (s.job core slot).st = .running ∨ (s.job core slot).st = .translating)
    (hn : ((s.job core slot).pieces.map (·.idx)).Nodup) :
    let u := s.grant core slot
    Granted s u core slot ∧ ((u.job core slot).st = .running ∨ (u.job core slot).st = .translating) := by
  obtain ⟨hgrant, hst⟩ := State.foldl_grantPiece_granted (s.job core slot).pieces hn
  obtain ⟨hsettle, -, hst'⟩ := State.settleJob_granted (hst ▸ h)
  unfold State.grant
  dsimp only
  rw [if_pos ⟨hm, h⟩]
  refine ⟨hgrant.trans hsettle, ?_⟩
  rw [hst']
  split
  · exact .inr rfl
  · exact .inl rfl
end

end Sys2Proof.Machine
end

section
/-! SUPPORT. O49: jobs of the copy engine begin (R74, R76, R78, R295, R304, R308). -/

namespace Sys2Proof.Machine
open Sys2Proof Sys2Proof.Claims

/-! ### The rows of an index vector -/

theorem mem_unitsOf_sub {a n i k u : Nat} (hu : u ∈ unitsOf (a + i) k) (h : i + k ≤ n) : u ∈ unitsOf a n := by
  unfold unitsOf at *
  split at hu
  · cases hu
  · rw [if_neg (by omega)]
    obtain ⟨x, hx, rfl⟩ := List.mem_map.1 hu
    have hx' := List.mem_range.1 hx
    exact List.mem_map.2 ⟨(a + i) / 8 + x - a / 8, List.mem_range.2 (by omega), by omega⟩

theorem State.poisoned_of_sound {s : State} {pa n i k : Nat} (h : Sound s pa n) (hi : i + k ≤ n) :
    s.poisoned (pa + i) k = false :=
  List.any_eq_false.2 fun u hu => by simpa using (h u (mem_unitsOf_sub hu hi)).1

/-- A row of a gather or scatter, from the index read for it. -/
def Job.rowPiece (j : Job) (i v : Nat) : Piece :=
  let row : Word := j.d 1 + BitVec.ofNat 64 v * j.d 4
  let at_ : Word := j.d 2 + BitVec.ofNat 64 (i * j.table.1)
  if j.kind = .gath then { idx := i, src := row, dst := at_, len := j.table.1 }
  else { idx := i, src := at_, dst := row, len := j.table.1 }

theorem Job.rowPieces_range (j : Job) (n : Nat) (v : Nat → Nat) :
    j.rowPieces ((List.range n).map fun i => some (v i)) = (List.range n).map fun i => j.rowPiece i (v i) := by
  have hrows : ((List.range n).map fun i => some (v i)).mapIdx (fun i o => o.map (j.rowPiece i)) =
      (List.range n).map fun i => some (j.rowPiece i (v i)) :=
    List.ext_getElem (by simp) fun i h₁ h₂ => by simp
  have hform : j.rowPieces ((List.range n).map fun i => some (v i)) =
      (((List.range n).map fun i => some (v i)).mapIdx fun i o => o.map (j.rowPiece i)).filterMap id := rfl
  rw [hform, hrows, List.filterMap_map]
  exact congrFun (List.filterMap_eq_map' (f := fun i => j.rowPiece i (v i))) _

theorem Job.rowPiece_idx (j : Job) (i v : Nat) : (j.rowPiece i v).idx = i := by
  unfold Job.rowPiece
  dsimp only
  split <;> rfl

theorem Job.nodup_rows (j : Job) (n : Nat) (v : Nat → Nat) :
    (((List.range n).map fun i => j.rowPiece i (v i)).map (·.idx)).Nodup := by
  have hidx : ((List.range n).map fun i => j.rowPiece i (v i)).map (·.idx) = List.range n := by
    rw [List.map_map]
    exact (List.map_congr_left fun i _ => j.rowPiece_idx i (v i)).trans (List.map_id _)
  rw [hidx]
  exact List.nodup_range

/-- An index vector that lies at a known place and is sound gives a row for each of its indices. -/
theorem State.startPieces_rows {s : State} {core e : Nat} {j : Job} (hk : j.kind = .gath ∨ j.kind = .scat)
    (he : e = if j.fn % 2 = 1 then 8 else 4) {pa : Nat}
    (hx : s.engX j.ctx core (j.d 0).toNat (j.table.2 * e) needR = .ok (.mem pa none)) (hs : Sound s pa (j.table.2 * e)) :
    s.startPieces core j = (s, (List.range j.table.2).map fun i => j.rowPiece i (memNat s (pa + i * e) e), []) := by
  have hle : ∀ i ∈ List.range j.table.2, i * e + e ≤ j.table.2 * e := fun i hi => by
    rw [← Nat.succ_mul]
    exact Nat.mul_le_mul_right _ (List.mem_range.1 hi)
  have hbad : (List.range j.table.2).filter (fun i => s.poisoned (pa + i * e) e) = [] :=
    List.filter_eq_nil_iff.2 fun i hi => by simpa using State.poisoned_of_sound hs (hle i hi)
  have hidx : ((List.range j.table.2).map fun i =>
      if ([] : List Nat).contains i then none else some (leNat (((s.readRaw pa (j.table.2 * e)).drop (i * e)).take e))) =
      (List.range j.table.2).map fun i => some (memNat s (pa + i * e) e) :=
    List.map_congr_left fun i hi => congrArg some (leNat_drop_readRaw s pa (hle i hi))
  unfold State.startPieces
  dsimp only
  rw [← he, hx]
  dsimp only
  rw [State.correct_of_sound hs, hbad]
  unfold State.readPlain
  dsimp only
  rw [hidx, Job.rowPieces_range]
  obtain hk | hk := hk <;> rw [hk] <;> rfl

/-! ### The event -/

section
variable {s : State} {core slot : Nat}

/-- The turn of a job: it is ISSUED, what it comes after has been performed, and no earlier range conflicts. -/
def State.turn (s : State) (core slot : Nat) : Prop :=
  (s.job core slot).st = .issued ∧ s.released (s.job core slot).after = true ∧ s.inOrder (core / 8) (core / 8) core slot = true

theorem exec_jobStart (h : (s.job core slot).kind ≠ .gload) : exec (.jobStart core slot) s = .next (s.jobStart core slot) :=
  congrArg Host.Outcome.next (if_neg h)

theorem State.jobStart_waits (h : ¬ s.turn core slot) : s.jobStart core slot = s :=
  if_neg fun ⟨hst, _, hr, ho⟩ => h ⟨hst, hr, ho⟩

/-- The state of a job that has just begun, before it asks for credit. -/
def State.begun (s : State) (core slot : Nat) (ps : List Piece) : State :=
  s.modJob core slot fun j => { j with st := .running, pieces := ps }

theorem State.jobStart_begins (h : s.turn core slot) (hm : (s.job core slot).kind.moves = true)
    (hne : ¬ ((s.job core slot).kind = .cpy ∧ (s.job core slot).d 2 = 0)) {ps : List Piece}
    (hp : s.startPieces core (s.job core slot) = (s, ps, [])) : s.jobStart core slot =
      ((if (s.job core slot).kind.copies then s else s.freeIndex core slot).begun core slot ps).grant core slot := by
  obtain ⟨hst, hr, ho⟩ := h
  unfold State.jobStart
  dsimp only
  rw [if_pos ⟨hst, hm, hr, ho⟩, if_neg hne, hp]
  rfl

theorem State.begun_granted {s' : State} (hs : s'.strands = s.strands) (hj : s'.job core slot = s.job core slot)
    (hm : (s.job core slot).kind.moves = true) {ps : List Piece} (hn : (ps.map (·.idx)).Nodup) :
    let u := (s'.begun core slot ps).grant core slot
    ((u.job core slot).st = .running ∨ (u.job core slot).st = .translating) ∧
      (u.job core slot).kind = (s.job core slot).kind ∧ (u.job core slot).desc = (s.job core slot).desc ∧
      u.strands = s.strands ∧ (∀ t, (u.tile t).locks = (s'.tile t).locks) ∧
      (u.job core slot).pieces.map Piece.key = ps.map Piece.key := by
  have hb : (s'.begun core slot ps).job core slot = { s.job core slot with st := .running, pieces := ps } := by
    rw [State.begun, State.job_modJob_same, hj]
  obtain ⟨hg, hst⟩ := State.grant_granted (s := s'.begun core slot ps) (core := core) (slot := slot) (by rw [hb]; exact hm)
    (by rw [hb]; exact .inl rfl) (by rw [hb]; exact hn)
  exact ⟨hst, by rw [hg.kind, hb], by rw [hg.desc, hb], hg.strands.trans hs, hg.locks, by rw [hg.keys, hb]⟩

end

theorem jobsBeginWithTheirPieces : JobsBeginWithTheirPieces := by
  unfold JobsBeginWithTheirPieces
  intro s core slot j reg turn begun
  refine ⟨fun hk ht => ?_, fun ht hk hz => ?_, fun ht hk hz => ?_, ?_⟩
  · exact (exec_jobStart hk).trans (congrArg Host.Outcome.next (State.jobStart_waits ht))
  · obtain ⟨hst, hr, ho⟩ := ht
    refine endsAccesses_of_finishJob ((exec_jobStart (by rw [hk]; nofun)).trans (congrArg Host.Outcome.next ?_))
    unfold State.jobStart
    dsimp only
    rw [if_pos ⟨hst, by rw [hk]; rfl, hr, ho⟩, if_pos ⟨hk, hz⟩]
  · have hm : (s.job core slot).kind.moves = true := by rw [hk]; rfl
    have hp : s.startPieces core j = (s, numberPieces (cuts (reg 0).toNat (reg 1).toNat (reg 2).toNat), []) := by
      unfold State.startPieces
      dsimp only
      rw [hk]
      rfl
    have hbegin := State.jobStart_begins (s := s) (core := core) (slot := slot) ht hm (fun h => hz h.2) hp
    rw [if_pos (by rw [hk]; rfl)] at hbegin
    obtain ⟨hst, hkind, hdesc, hstrands, -, hkeys⟩ :=
      State.begun_granted (s := s) (s' := s) (core := core) (slot := slot) rfl rfl hm (nodup_numberPieces _)
    rw [← hbegin] at hst hkind hdesc hstrands hkeys
    exact ⟨_, exec_jobStart (by rw [hk]; nofun), hst, hkind, hdesc, hstrands, pieces_of_cuts hkeys⟩
  · intro ht hk e w n pa hx hs
    have hcopy : (s.job core slot).kind.copies = false := by
      obtain hk | hk := hk <;> rw [hk] <;> rfl
    have hm : (s.job core slot).kind.moves = true := by
      obtain hk | hk := hk <;> rw [hk] <;> rfl
    have hgload : (s.job core slot).kind ≠ .gload := by
      obtain hk | hk := hk <;> rw [hk] <;> nofun
    have hcpy : (s.job core slot).kind ≠ .cpy := by
      obtain hk | hk := hk <;> rw [hk] <;> nofun
    have htable : j.table = (w, n) := by
      unfold Job.table
      obtain hk | hk := hk <;> rw [hk] <;> rfl
    have hp := State.startPieces_rows (s := s) (core := core) (e := e) (j := j) (pa := pa) hk rfl (by rw [htable]; exact hx)
      (by rw [htable]; exact hs)
    have hbegin := State.jobStart_begins (s := s) (core := core) (slot := slot) ht hm (fun h => hcpy h.1) hp
    rw [hcopy, if_neg Bool.false_ne_true] at hbegin
    obtain ⟨hst, hkind, hdesc, hstrands, hlocks, hkeys⟩ := State.begun_granted (s := s) (s' := s.freeIndex core slot)
      (core := core) (slot := slot) rfl rfl hm (j.nodup_rows j.table.2 fun i => memNat s (pa + i * e) e)
    rw [← hbegin] at hst hkind hdesc hstrands hlocks hkeys
    refine ⟨_, exec_jobStart hgload, hst, hkind, hdesc, hstrands, ?_, ?_⟩
    · rw [hlocks]
      exact congrArg Tile.locks (State.modTile_tile_same ..)
    · refine hkeys.trans ?_
      rw [List.map_map, htable]
      refine List.map_congr_left fun i _ => ?_
      change (j.rowPiece i _).key = _
      unfold Job.rowPiece
      rw [htable]
      dsimp only
      split <;> rfl

end Sys2Proof.Machine
end

section
/-! SUPPORT. O49: the requests of a piece performed by the engine (R303, R304, R310, R367). -/

namespace Sys2Proof.Machine
open Sys2Proof Sys2Proof.Claims

/-! ### One run copied -/

theorem unit_mem_unitsOf {a n i : Nat} (h : i < n) : (a + i) / 8 * 8 ∈ unitsOf a n := by
  unfold unitsOf
  rw [if_neg (by omega)]
  exact List.mem_map.2 ⟨(a + i) / 8 - a / 8, List.mem_range.2 (by omega), by omega⟩

theorem State.engineRead_sound {s : State} {pa n : Nat} (h : Sound s pa n) (c : Nat) :
    s.engineRead c (.mem pa none) n = (s, { bytes := s.readRaw pa n }) := by
  have hbad : (List.range n).filter (fun i => s.poison.contains ((pa + i) / 8 * 8)) = [] :=
    List.filter_eq_nil_iff.2 fun i hi => by simpa using (h _ (unit_mem_unitsOf (List.mem_range.1 hi))).1
  unfold State.engineRead
  dsimp only
  rw [State.correct_of_sound h, hbad]
  rfl

/-- What the write of a run leaves: its bytes are there, and the units and jobs are as before. -/
structure Wrote (s v : State) (qa : Nat) (bs : List Byte) : Prop where
  bytes : ∀ i < bs.length, v.byte (qa + i) = bs.getD i 0
  outside : SameBytesOutside s v qa bs.length
  strands : v.strands = s.strands
  cores : v.cores = s.cores
  tiles : ∀ t, v.tile t = s.tile t

theorem State.engineWrite_writable {s : State} {qa : Nat} {bs : List Byte} (h : Writable s qa bs.length) :
    ∃ v, s.engineWrite (.mem qa none) bs [] = (v, none, bs.length) ∧ Wrote s v qa bs := by
  by_cases hb : bs = []
  · subst hb
    exact ⟨s, rfl, ⟨fun i hi => absurd hi (Nat.not_lt_zero i), fun _ _ => rfl, rfl, rfl, fun _ => rfl⟩⟩
  · obtain ⟨hbytes, hout, hstrands, hcores, htiles, -⟩ := State.storeAt_writable h
    exact ⟨_, State.engineWrite_sound h.1 hb, ⟨hbytes, hout, hstrands, hcores, htiles⟩⟩

/-- The bytes that a run reads at `pa`. -/
theorem readRaw_getD (s : State) (pa : Nat) {n i : Nat} (h : i < n) : (s.readRaw pa n).getD i 0 = s.byte (pa + i) := by
  rw [State.readRaw_eq_map, List.getD_eq_getElem _ _ (by simpa using h)]
  simp

theorem State.copyRun_sound {s : State} {pa qa n : Nat} (hs : Sound s pa n) (hw : Writable s qa n) (core slot idx a b : Nat) :
    ∃ v, s.copyRun core slot idx (.mem pa none, .mem qa none, a, b, n) =
        (v.modJob core slot fun j => { j with bytes := j.bytes + n }, true) ∧ Wrote s v qa (s.readRaw pa n) := by
  have hlen := s.readRaw_length pa n
  obtain ⟨v, hv, hwrote⟩ := State.engineWrite_writable (s := s) (qa := qa) (bs := s.readRaw pa n) (by rwa [hlen])
  refine ⟨v, ?_, hwrote⟩
  unfold State.copyRun
  dsimp only
  rw [State.engineRead_sound hs]
  dsimp only
  rw [hv, hlen]

/-! ### A piece performed -/

section
variable {s : State} {core slot : Nat} {p : Piece}

theorem State.job_modPiece (s : State) (core slot idx : Nat) (f : Piece → Piece) :
    (s.modPiece core slot idx f).job core slot = { s.job core slot with
      pieces := (s.job core slot).pieces.map fun p => if p.idx = idx then f p else p } := State.job_modJob_same ..

theorem State.job_freeSpinel (s : State) (core slot idx : Nat) (st : PieceState) (c k : Nat) :
    (s.freeSpinel core slot idx st).job c k = s.job c k := by
  cases st <;> rfl

theorem State.freeSpinel_gens (s : State) (core slot idx r : Nat) :
    (core, slot, idx) ∉ ((s.freeSpinel core slot idx (.gen r)).spinel r).gens := by
  have hgens : ((s.freeSpinel core slot idx (.gen r)).spinel r).gens = (s.spinel r).gens.filter (· != (core, slot, idx)) :=
    congrArg Spinel.gens (State.modSpinel_spinel_same ..)
  rw [hgens]
  simp

/-- The part of a piece that has been asked for, where none of it has been performed. -/
theorem Job.asked_fresh (j : Job) (h : p.wrote = 0) :
    j.asked p = if j.kind.copies then { p with len := min p.len (256 * p.asked) } else p := by
  unfold Job.asked moveAddr
  rw [h]
  simp

/-- A copy whose requests are under way, of one run, is performed: it goes on, or is over. -/
theorem State.performPiece_run {pa qa a b n : Nat} (hk : (s.job core slot).kind ≠ .cpyf)
    (hx : s.pieceX core (s.job core slot) ((s.job core slot).asked p) = .ok [(.mem pa none, .mem qa none, a, b, n)])
    (hs : Sound s pa n) (hw : Writable s qa n) :
    ∃ v, Wrote s v qa (s.readRaw pa n) ∧
      let w := (v.modJob core slot fun j => { j with bytes := j.bytes + n }).modPiece core slot p.idx fun q =>
        { q with wrote := p.asked }
      s.performPiece core slot p = if (s.job core slot).requests p ≤ p.asked then
          (w.endPiece core slot p .done).modJob core slot fun j => { j with rows := j.rows + 1 }
        else w := by
  obtain ⟨v, hrun, hwrote⟩ := State.copyRun_sound hs hw core slot p.idx a b
  have hruns : s.copyRuns core slot p.idx [(.mem pa none, .mem qa none, a, b, n)] =
      (v.modJob core slot fun j => { j with bytes := j.bytes + n }, true) := by
    unfold State.copyRuns
    rw [hrun]
    rfl
  refine ⟨v, hwrote, ?_⟩
  unfold State.performPiece
  dsimp only
  rw [hx]
  dsimp only
  rw [if_neg hk, hruns]
  dsimp only
  by_cases ho : (s.job core slot).requests p ≤ p.asked
  · simp only [ho, decide_true, if_true, Bool.and_self]
  · simp only [ho, decide_false, Bool.false_and, if_false, Bool.false_eq_true]
/-- The job after its only piece has been performed in part. -/
def Job.wrote (j : Job) (p : Piece) (n : Nat) : Job :=
  { j with bytes := j.bytes + n, pieces := [{ p with wrote := p.asked }] }

/-- The part of an only piece that is under way performed, while other requests of it remain. -/
theorem State.performPiece_part {pa qa a b n : Nat} (hk : (s.job core slot).kind ≠ .cpyf)
    (hp : (s.job core slot).pieces = [p]) (hmore : ¬ (s.job core slot).requests p ≤ p.asked)
    (hx : s.pieceX core (s.job core slot) ((s.job core slot).asked p) = .ok [(.mem pa none, .mem qa none, a, b, n)])
    (hs : Sound s pa n) (hw : Writable s qa n) :
    let w := s.performPiece core slot p
    (∀ i < n, w.byte (qa + i) = s.byte (pa + i)) ∧ SameBytesOutside s w qa n ∧ (∀ t, w.tile t = s.tile t) ∧
      w.job core slot = (s.job core slot).wrote p n := by
  intro w
  have hw' : w = s.performPiece core slot p := rfl
  obtain ⟨v, hwrote, hform⟩ := State.performPiece_run hk hx hs hw
  rw [hform, if_neg hmore] at hw'
  have hlen := s.readRaw_length pa n
  have hmem : w.mem = v.mem := by rw [hw']; rfl
  have hjob : v.job core slot = s.job core slot := congrArg (fun m : SMap Core => (m.get {} core).jobs.get {} slot) hwrote.cores
  have hout := hwrote.outside
  rw [hlen] at hout
  refine ⟨fun i hi => ?_, fun c hc => (State.byte_of_mem hmem c).trans (hout c hc), fun t => ?_, ?_⟩
  · rw [State.byte_of_mem hmem, hwrote.bytes i (by rwa [hlen]), readRaw_getD s pa hi]
  · rw [hw']
    exact hwrote.tiles t
  · rw [hw', State.job_modPiece, State.job_modJob_same, hjob]
    dsimp only
    rw [hp]
    unfold Job.wrote
    simp

/-- The last part of an only piece performed: it is over, and its generator is free. -/
theorem State.performPiece_last {pa qa a b n : Nat} (hk : (s.job core slot).kind ≠ .cpyf)
    (hp : (s.job core slot).pieces = [p]) (hlast : (s.job core slot).requests p ≤ p.asked)
    (hx : s.pieceX core (s.job core slot) ((s.job core slot).asked p) = .ok [(.mem pa none, .mem qa none, a, b, n)])
    (hs : Sound s pa n) (hw : Writable s qa n) :
    let w := s.performPiece core slot p
    (∀ i < n, w.byte (qa + i) = s.byte (pa + i)) ∧ SameBytesOutside s w qa n ∧
      w.job core slot = { (s.job core slot).wrote { p with st := .done } n with rows := (s.job core slot).rows + 1 } ∧
      ∀ r, p.st = .gen r → (core, slot, p.idx) ∉ (w.spinel r).gens := by
  intro w
  have hw' : w = s.performPiece core slot p := rfl
  obtain ⟨v, hwrote, hform⟩ := State.performPiece_run hk hx hs hw
  rw [hform, if_pos hlast] at hw'
  unfold State.endPiece at hw'
  have hlen := s.readRaw_length pa n
  have hmem : w.mem = v.mem := by
    rw [hw']
    exact State.freeSpinel_mem ..
  have hjob : v.job core slot = s.job core slot := congrArg (fun m : SMap Core => (m.get {} core).jobs.get {} slot) hwrote.cores
  have hout := hwrote.outside
  rw [hlen] at hout
  refine ⟨fun i hi => ?_, fun c hc => (State.byte_of_mem hmem c).trans (hout c hc), ?_, fun r hr => ?_⟩
  · rw [State.byte_of_mem hmem, hwrote.bytes i (by rwa [hlen]), readRaw_getD s pa hi]
  · rw [hw', State.job_modJob_same, State.setPiece, State.job_modPiece, State.job_freeSpinel, State.job_modPiece,
      State.job_modJob_same, hjob]
    dsimp only
    rw [hp]
    unfold Job.wrote
    simp
  · rw [hw', hr]
    exact State.freeSpinel_gens _ core slot p.idx r

end

end Sys2Proof.Machine
end

section
/-! SUPPORT. O49: pieces performed, taken by a generator and given credit (R309, R310, R367, R368). -/

namespace Sys2Proof.Machine
open Sys2Proof Sys2Proof.Claims

/-! ### JOB_COMPLETE for a job of one piece -/

section
variable {s : State} {core slot : Nat} {p : Piece}

theorem exec_jobComplete (h : (s.job core slot).kind.moves = true) :
    exec (.jobComplete core slot) s = .next (s.jobComplete core slot) := congrArg Host.Outcome.next (if_pos h)

theorem Job.mayWrite_alone (j : Job) (h : j.pieces = [p]) : j.mayWrite p = true := by
  unfold Job.mayWrite
  rw [h]
  simp

theorem find_only (p : Piece) : [p].find? (fun x => x.idx == p.idx) = some p := by simp

variable (hp : (s.job core slot).pieces = [p])
include hp

/-- The only piece of a job, with requests under way, is performed. -/
theorem State.workPiece_only (hw : p.st.works (s.job core slot).kind.copies = true) (hlt : p.wrote < p.asked) :
    s.workPiece core slot p.idx = s.performPiece core slot p := by
  unfold State.workPiece
  dsimp only
  rw [hp, find_only]
  dsimp only
  rw [hw, (s.job core slot).mayWrite_alone hp, decide_eq_true hlt]
  rfl

variable (hm : (s.job core slot).kind.moves = true) (hst : (s.job core slot).st = .running ∨ (s.job core slot).st = .translating)
  (hw : p.st.works (s.job core slot).kind.copies = true) (hlt : p.wrote < p.asked)
include hm hst hw hlt

/-- A job completes when its only piece is over. -/
theorem State.jobComplete_ends (hk : (s.job core slot).kind ≠ .cpyf)
    (hall : ((s.performPiece core slot p).job core slot).pieces.all (fun q => q.st.ended) = true) :
    s.jobComplete core slot = (s.performPiece core slot p).finishJob core slot := by
  unfold State.jobComplete
  dsimp only
  rw [if_pos ⟨hst, hm⟩, hp, List.foldl_cons, List.foldl_nil, State.workPiece_only hp hw hlt, hall, if_neg hk]
  rfl

/-- A job whose piece is not over sends the requests it can. -/
theorem State.jobComplete_goes
    (hall : ((s.performPiece core slot p).job core slot).pieces.all (fun q => q.st.ended) = false) :
    s.jobComplete core slot = ((s.performPiece core slot p).grant core slot).settleJob core slot := by
  unfold State.jobComplete
  dsimp only
  rw [if_pos ⟨hst, hm⟩, hp, List.foldl_cons, List.foldl_nil, State.workPiece_only hp hw hlt, hall]
  rfl

end

/-! ### Credit for a job of one piece -/

section
variable {s : State} {core slot : Nat} {p : Piece} (hp : (s.job core slot).pieces = [p])
include hp

theorem State.grant_only (hm : (s.job core slot).kind.moves = true)
    (hst : (s.job core slot).st = .running ∨ (s.job core slot).st = .translating) :
    s.grant core slot = (s.grantPiece core slot p.idx).settleJob core slot := by
  unfold State.grant
  dsimp only
  rw [if_pos ⟨hm, hst⟩, hp]
  rfl

theorem State.grantPiece_only (ha : (p.st.ended || p.st.isHeld) = false) :
    let n := s.grantOf core slot p
    let v := s.asking core slot p ((s.tile (core / 8)).credit (s.job core slot).kind - n) (p.asked + n)
    s.grantPiece core slot p.idx =
      if p.st = .todo ∧ 0 < p.asked + n then v.formPiece core slot { p with asked := p.asked + n } else v := by
  refine State.grantPiece_asks (by rw [hp, find_only]) ?_
  rw [ha, (s.job core slot).mayWrite_alone hp]
  rfl

theorem State.job_asking (n m : Nat) :
    (s.asking core slot p n m).job core slot = { s.job core slot with pieces := [{ p with asked := m }] } := by
  unfold State.asking
  rw [State.job_modPiece, State.job_modTile, hp]
  simp
end

theorem State.asking_tile (s : State) (core slot : Nat) (p : Piece) (n m : Nat) :
    (s.asking core slot p n m).tile (core / 8) = (s.tile (core / 8)).setCredit (s.job core slot).kind n := by
  unfold State.asking State.modPiece
  rw [State.tile_modJob, State.modTile_tile_same]

/-- Without credit the only piece of a job asks for nothing more, and the job is RUNNING. -/
theorem State.grant_without_credit {s : State} {core slot : Nat} {p : Piece} (hp : (s.job core slot).pieces = [p])
    (hm : (s.job core slot).kind.moves = true) (hst : (s.job core slot).st = .running ∨ (s.job core slot).st = .translating)
    (ha : (p.st.ended || p.st.isHeld) = false) (ht : p.st ≠ .todo)
    (hc : (s.tile (core / 8)).credit (s.job core slot).kind = 0) :
    let u := (s.grant core slot).settleJob core slot
    u.mem = s.mem ∧ u.job core slot = { s.job core slot with st := .running } := by
  have hnone : s.grantOf core slot p = 0 := by
    unfold State.grantOf
    rw [hc]
    omega
  have hgrant : s.grantPiece core slot p.idx = s.asking core slot p 0 p.asked := by
    rw [State.grantPiece_only hp ha, if_neg fun h => ht h.1, hnone, hc]
    rfl
  have hjob : (s.asking core slot p 0 p.asked).job core slot = s.job core slot := by
    rw [State.job_asking hp, ← hp]
  have hheld : p.st.isHeld = false := (Bool.or_eq_false_iff.1 ha).2
  have hsettle : ∀ v : State, v.job core slot = s.job core slot ∨ v.job core slot = { s.job core slot with st := .running } →
      (v.settleJob core slot).job core slot = { s.job core slot with st := .running } := fun v hv => by
    have hvp : (v.job core slot).pieces.any (fun q => q.st.isHeld) = false := by
      obtain h | h := hv <;> simp [h, hp, hheld]
    have hvst : (v.job core slot).st = .running ∨ (v.job core slot).st = .translating := by
      obtain h | h := hv <;> rw [h]
      · exact hst
      · exact .inl rfl
    unfold State.settleJob
    rw [State.job_modJob_same, if_pos hvst, hvp]
    obtain h | h := hv <;> rw [h] <;> rfl
  intro u
  have hu : u = ((s.asking core slot p 0 p.asked).settleJob core slot).settleJob core slot := by
    rw [← hgrant, ← State.grant_only hp hm hst]
  rw [hu]
  exact ⟨rfl, hsettle _ (.inr (hsettle _ (.inl hjob)))⟩

/-! ### The requests under way -/

section
variable {s : State} {core slot : Nat} {p : Piece}

/-- The kinds of job whose pieces are copies or rows performed as they come. -/
theorem moves_of_mem {k : JobKind} (h : k ∈ [JobKind.cpy, .cpy2, .gath, .scat]) : k.moves = true ∧ k ≠ .cpyf := by
  simp only [List.mem_cons, List.not_mem_nil, or_false] at h
  obtain rfl | rfl | rfl | rfl := h <;> exact ⟨rfl, nofun⟩

theorem works_of_taken {copies : Bool} (h : p.st = .ready ∨ (∃ r, p.st = .gen r) ∨ (¬ copies = true ∧ ∃ r, p.st = .spinel r)) :
    p.st.works copies = true ∧ (p.st.ended || p.st.isHeld) = false ∧ p.st ≠ .todo := by
  obtain h | ⟨r, h⟩ | ⟨hc, r, h⟩ := h <;> rw [h]
  · exact ⟨rfl, rfl, nofun⟩
  · exact ⟨rfl, rfl, nofun⟩
  · cases copies with
    | false => exact ⟨rfl, rfl, nofun⟩
    | true => exact absurd rfl hc

variable (hk : (s.job core slot).kind ∈ [JobKind.cpy, .cpy2, .gath, .scat])
  (hst : (s.job core slot).st = .running ∨ (s.job core slot).st = .translating)
  (hp : (s.job core slot).pieces = [p]) (hzero : p.wrote = 0)
  (ht : p.st = .ready ∨ (∃ r, p.st = .gen r) ∨ (¬ (s.job core slot).kind.copies = true ∧ ∃ r, p.st = .spinel r))
include hk hst hp hzero ht

/-- With its last request performed the only piece of a job is over, and so is the job. -/
theorem jobComplete_lastRequest (hasks : p.asked = (s.job core slot).requests p) (hpos : 0 < (s.job core slot).requests p)
    (hcomp : (s.job core slot).comp = 0) (herr : (s.job core slot).err = none) {pa qa a b n : Nat}
    (hx : s.pieceX core (s.job core slot) p = .ok [(.mem pa none, .mem qa none, a, b, n)]) (hs : Sound s pa n)
    (hw : Writable s qa n) :
    Reaches (.jobComplete core slot) s fun u => Copied s u core slot pa qa n ∧ (u.job core slot).st = .completing ∧
      (u.job core slot).rows = (s.job core slot).rows + 1 ∧ ∀ r, p.st = .gen r → (core, slot, p.idx) ∉ (u.spinel r).gens := by
  obtain ⟨hm, hkf⟩ := moves_of_mem hk
  obtain ⟨hworks, -⟩ := works_of_taken ht
  have hwhole : (s.job core slot).asked p = p := by
    rw [Job.asked_fresh _ hzero]
    split
    · rename_i hc
      have hlen : min p.len (256 * p.asked) = p.len := by
        rw [hasks, Job.requests, if_pos hc]
        omega
      rw [hlen]
    · rfl
  obtain ⟨hbytes, hout, hjob, hgen⟩ := State.performPiece_last hkf hp (Nat.le_of_eq hasks.symm) (by rw [hwhole]; exact hx) hs hw
  have hall : ((s.performPiece core slot p).job core slot).pieces.all (fun q => q.st.ended) = true := by
    rw [hjob]
    rfl
  have hend := State.finishJob_none (s := s.performPiece core slot p) (core := core) (slot := slot)
    (by rw [hjob]; exact herr) (by rw [hjob]; exact congrArg (fun w : Word => w.toNat % 8) hcomp)
  have hlast : ((s.performPiece core slot p).finishJob core slot).job core slot =
      { (s.performPiece core slot p).job core slot with st := .completing, pieces := [], action := .done } := by
    rw [hend, State.job_actDone, State.job_ending]
  refine ⟨_, (exec_jobComplete hm).trans (congrArg Host.Outcome.next
    (State.jobComplete_ends hp hm hst hworks (by rw [hzero, hasks]; exact hpos) hkf hall)), ⟨?_, ?_, ?_, ?_⟩, ?_, ?_, ?_⟩
  · rw [hend]
    exact hbytes
  · rw [hend]
    exact hout
  · rw [hlast, hjob]
    rfl
  · rw [hlast, hjob]
    rfl
  · rw [hlast]
  · rw [hlast, hjob]
  · rw [hend]
    exact hgen

/-- Requests performed while others remain and there is no credit: the piece counts them, and the job goes on. -/
theorem jobComplete_someRequests (hc : (s.job core slot).kind.copies = true) (hpos : 0 < p.asked) (hmore : 256 * p.asked < p.len)
    (hcredit : (s.tile (core / 8)).copyCredit = 0) {pa qa a b n : Nat}
    (hx : s.pieceX core (s.job core slot) { p with len := 256 * p.asked } = .ok [(.mem pa none, .mem qa none, a, b, n)])
    (hs : Sound s pa n) (hw : Writable s qa n) :
    Reaches (.jobComplete core slot) s fun u => Copied s u core slot pa qa n ∧ (u.job core slot).st = .running ∧
      (u.job core slot).rows = (s.job core slot).rows ∧ (u.job core slot).pieces = [{ p with wrote := p.asked }] := by
  obtain ⟨hm, hkf⟩ := moves_of_mem hk
  obtain ⟨hworks, hopen, htodo⟩ := works_of_taken ht
  have hpart : (s.job core slot).asked p = { p with len := 256 * p.asked } := by
    rw [Job.asked_fresh _ hzero, if_pos hc, Nat.min_eq_right (Nat.le_of_lt hmore)]
  have hrequests : ¬ (s.job core slot).requests p ≤ p.asked := by
    rw [Job.requests, if_pos hc]
    omega
  obtain ⟨hbytes, hout, htile, hjob⟩ := State.performPiece_part hkf hp hrequests (by rw [hpart]; exact hx) hs hw
  have hall : ((s.performPiece core slot p).job core slot).pieces.all (fun q => q.st.ended) = false := by
    rw [hjob]
    have hended : p.st.ended = false := (Bool.or_eq_false_iff.1 hopen).1
    simp [Job.wrote, hended]
  obtain ⟨hmem, hlast⟩ := State.grant_without_credit (s := s.performPiece core slot p) (core := core) (slot := slot)
    (p := { p with wrote := p.asked }) (by rw [hjob]; rfl) (by rw [hjob]; exact hm) (by rw [hjob]; exact hst) hopen htodo
    (by rw [hjob, htile, Tile.credit]; exact (if_pos hc).trans hcredit)
  refine ⟨_, (exec_jobComplete hm).trans (congrArg Host.Outcome.next
    (State.jobComplete_goes hp hm hst hworks (by rw [hzero]; exact hpos) hall)), ⟨fun i hi => ?_, fun c hx => ?_, ?_, ?_⟩, ?_, ?_, ?_⟩
  · rw [State.byte_of_mem hmem]
    exact hbytes i hi
  · rw [State.byte_of_mem hmem]
    exact hout c hx
  all_goals rw [hlast]
  all_goals rw [hjob]
  all_goals rfl
end

end Sys2Proof.Machine
end

section
/-! SUPPORT. O49: a stack's generators and the refill of a tile's credit (R310, R368). -/

namespace Sys2Proof.Machine
open Sys2Proof Sys2Proof.Claims

/-! ### SPINEL_PIECE -/

section
variable {s : State} {r : Nat}

theorem State.spinelPiece_waits (h : (s.spinel r).waiting = [] ∨ 8 ≤ (s.spinel r).gens.length) : s.spinelPiece r = s := by
  unfold State.spinelPiece
  cases hw : (s.spinel r).waiting with
  | nil => rfl
  | cons x l =>
    obtain h | h := h
    · rw [hw] at h
      cases h
    · exact if_pos h

/-- A free generator takes the piece that has waited longest. -/
theorem State.spinelPiece_takes {core slot idx : Nat} {l : List (Nat × Nat × Nat)} {a b : List Piece} {p : Piece}
    (hw : (s.spinel r).waiting = (core, slot, idx) :: l) (hfree : (s.spinel r).gens.length < 8)
    (hp : (s.job core slot).pieces = a ++ p :: b) (hi : p.idx = idx) (hst : p.st = .spinel r)
    (hothers : ∀ q ∈ a ++ b, q.idx ≠ idx) :
    let u := s.spinelPiece r
    (u.spinel r).waiting = l ∧ (u.spinel r).gens = (s.spinel r).gens ++ [(core, slot, idx)] ∧
      (u.job core slot).pieces = a ++ { p with st := .gen r } :: b ∧ u.mem = s.mem ∧ u.strands = s.strands := by
  intro u
  have hany : ((s.modSpinel r fun x => { x with waiting := l }).job core slot).pieces.any
      (fun q => q.idx == idx && q.st == .spinel r) = true := by
    rw [show (s.modSpinel r fun x => { x with waiting := l }).job core slot = s.job core slot from rfl, hp]
    simp [hi, hst]
  have hu : u = ((s.modSpinel r fun x => { x with waiting := l }).modSpinel r fun x =>
      { x with gens := x.gens ++ [(core, slot, idx)] }).setPiece core slot idx (.gen r) := by
    change s.spinelPiece r = _
    unfold State.spinelPiece
    rw [hw]
    dsimp only
    rw [if_neg (by unfold generators; omega), if_pos hany]
  have hspinel : u.spinel r = { s.spinel r with waiting := l, gens := (s.spinel r).gens ++ [(core, slot, idx)] } := by
    rw [hu]
    refine (State.modSpinel_spinel_same (s.modSpinel r fun x => { x with waiting := l }) r
      fun x => { x with gens := x.gens ++ [(core, slot, idx)] }).trans ?_
    rw [State.modSpinel_spinel_same]
  have hsame : ∀ q ∈ a ++ b, (if q.idx = idx then { q with st := PieceState.gen r } else q) = q := fun q hq => if_neg (hothers q hq)
  refine ⟨by rw [hspinel], by rw [hspinel], ?_, by rw [hu]; rfl, by rw [hu]; rfl⟩
  rw [hu, State.setPiece, State.job_modPiece,
    show ((s.modSpinel r _).modSpinel r _).job core slot = s.job core slot from rfl]
  dsimp only
  rw [hp, List.map_append, List.map_cons, if_pos hi,
    List.map_congr_left fun q hq => hsame q (List.mem_append_left _ hq),
    List.map_congr_left fun q hq => hsame q (List.mem_append_right _ hq), List.map_id', List.map_id']
end

/-! ### RATE_CREDIT_REFILL -/

/-- A job that no credit reaches: its unit is not the copy engine or the gather unit, or it has no pieces under way. -/
def Job.idle (j : Job) : Prop := j.kind.moves = false ∨ (j.st ≠ .running ∧ j.st ≠ .translating)

theorem State.grant_idle {s : State} {core slot : Nat} (h : (s.job core slot).idle) : s.grant core slot = s := by
  refine if_neg fun ⟨hm, hst⟩ => ?_
  obtain h | ⟨h1, h2⟩ := h
  · rw [h] at hm
    cases hm
  · exact hst.elim h1 h2

theorem State.foldl_grant_idle {s : State} {t : Nat} {l : List Nat} (h : ∀ i ∈ l, (s.job (8 * t + i / 16) (i % 16)).idle) :
    l.foldl (fun s i => s.grant (8 * t + i / 16) (i % 16)) s = s := by
  induction l with
  | nil => rfl
  | cons i l ih =>
    rw [List.foldl_cons, State.grant_idle (h i List.mem_cons_self)]
    exact ih fun k hk => h k (List.mem_cons_of_mem _ hk)

section
variable {s : State} {t : Nat} (hdue : (s.tile t).refillDue = true)
include hdue

theorem State.refillCredits_tile : (s.refillCredits t).tile t =
    { s.tile t with copyCredit := (s.tile t).copyRate, gathCredit := (s.tile t).gathRate, refillDue := false } :=
  (State.modTile_tile_same ..).trans (if_pos hdue)

theorem State.rateRefill_due : s.rateRefill t =
    (List.range 128).foldl (fun s i => s.grant (8 * t + i / 16) (i % 16)) (s.refillCredits t) := if_pos hdue

theorem State.rateRefill_idle (h : ∀ c < 8, ∀ k < 16, (s.job (8 * t + c) k).idle) : s.rateRefill t = s.refillCredits t := by
  rw [State.rateRefill_due hdue]
  refine State.foldl_grant_idle fun i hi => ?_
  have hlt := List.mem_range.1 hi
  exact h _ (by omega) _ (by omega)

/-- Where one job alone can ask, the refill is its alone. -/
theorem State.rateRefill_one {c k : Nat} (hc : c < 8) (hk : k < 16)
    (h : ∀ d < 8, ∀ l < 16, (d, l) ≠ (c, k) → (s.job (8 * t + d) l).idle)
    (hm : (s.job (8 * t + c) k).kind.moves = true)
    (hst : (s.job (8 * t + c) k).st = .running ∨ (s.job (8 * t + c) k).st = .translating)
    (hn : ((s.job (8 * t + c) k).pieces.map (·.idx)).Nodup) :
    s.rateRefill t = (s.refillCredits t).grant (8 * t + c) k := by
  obtain ⟨a, b, hab⟩ := List.append_of_mem (List.mem_range.2 (show 16 * c + k < 128 by omega))
  have hnodup : (a ++ (16 * c + k) :: b).Nodup := hab ▸ List.nodup_range
  have hidle : ∀ i ∈ a ++ b, (i / 16, i % 16) ≠ (c, k) ∧ (s.job (8 * t + i / 16) (i % 16)).idle := fun i hi => by
    have hlt : i < 128 := List.mem_range.1 (hab ▸ by
      obtain hi | hi := List.mem_append.1 hi
      · exact List.mem_append_left _ hi
      · exact List.mem_append_right _ (List.mem_cons_of_mem _ hi))
    have hne : i ≠ 16 * c + k := fun he => (List.nodup_cons.1 (List.nodup_middle.1 hnodup)).1 (he ▸ hi)
    have hpair : (i / 16, i % 16) ≠ (c, k) := fun he => by
      obtain ⟨h1, h2⟩ := Prod.mk.inj he
      omega
    exact ⟨hpair, h _ (by omega) _ (by omega) hpair⟩
  have hcore : (8 * t + (16 * c + k) / 16) = 8 * t + c := by omega
  have hslot : (16 * c + k) % 16 = k := by omega
  obtain ⟨hgrant, -⟩ := State.grant_granted (s := s.refillCredits t) (core := 8 * t + c) (slot := k) hm hst hn
  rw [State.rateRefill_due hdue, hab, List.foldl_append, List.foldl_cons,
    State.foldl_grant_idle (s := s.refillCredits t) fun i hi => (hidle i (List.mem_append_left _ hi)).2, hcore, hslot]
  refine State.foldl_grant_idle fun i hi => ?_
  obtain ⟨hpair, hi⟩ := hidle i (List.mem_append_right _ hi)
  have hother : (8 * t + i / 16, i % 16) ≠ (8 * t + c, k) := fun he => hpair (by
    obtain ⟨h1, h2⟩ := Prod.mk.inj he
    rw [h2, Nat.add_left_cancel h1])
  rw [hgrant.others _ _ hother]
  exact hi
end

/-- The only piece of a job given credit for the first time: it has its requests, and with one of them it is formed. -/
theorem State.grantPiece_todo {s : State} {core slot : Nat} {p : Piece} (hp : (s.job core slot).pieces = [p]) (ht : p.st = .todo) :
    let n := s.grantOf core slot p
    let u := s.grantPiece core slot p.idx
    u.tile (core / 8) =
        (s.tile (core / 8)).setCredit (s.job core slot).kind ((s.tile (core / 8)).credit (s.job core slot).kind - n) ∧
      (u.job core slot).st = (s.job core slot).st ∧
      ∃ st, (u.job core slot).pieces = [{ p with st := st, asked := p.asked + n }] ∧
        ((s.job core slot).kind.copies = true → 0 < n → st ≠ .todo) := by
  intro n u
  have hu : u = _ := State.grantPiece_only hp (by rw [ht]; rfl)
  have hjob := State.job_asking hp ((s.tile (core / 8)).credit (s.job core slot).kind - n) (p.asked + n)
  have htile := s.asking_tile core slot p ((s.tile (core / 8)).credit (s.job core slot).kind - n) (p.asked + n)
  split at hu
  · obtain ⟨v, st, hv, hform, htodo⟩ := State.formPiece_sets
      (s.asking core slot p ((s.tile (core / 8)).credit (s.job core slot).kind - n) (p.asked + n)) core slot
      { p with asked := p.asked + n }
    rw [hform] at hu
    rw [hu]
    have hvtile : v.tile (core / 8) = _ := congrArg (SMap.get · ({} : Tile) (core / 8)) hv.tiles
    refine ⟨hvtile.trans htile, ?_, st, ?_, fun hc _ => htodo (by rw [hjob]; exact hc)⟩
    · rw [State.setPiece, State.job_modPiece]
      exact hv.st.trans (by rw [hjob])
    · rw [State.setPiece, State.job_modPiece]
      dsimp only
      rw [hv.pieces, hjob]
      simp
  · rename_i hnot
    rw [hu]
    refine ⟨htile, by rw [hjob], p.st, by rw [hjob], fun _ hpos => absurd ⟨ht, ?_⟩ hnot⟩
    exact Nat.add_pos_right _ hpos

/-- The credit that the units of a tile have after a grant. -/
theorem Tile.credit_setCredit (x : Tile) (k : JobKind) (n : Nat) :
    (k.copies = true → (x.setCredit k n).copyCredit = n) ∧ (¬ k.copies = true → (x.setCredit k n).gathCredit = n) := by
  unfold Tile.setCredit
  constructor <;> intro h
  · rw [if_pos h]
  · rw [if_neg h]

/-- The refill where one job alone asks, for its only piece. -/
theorem rateCreditRefill_one {s : State} {t c k : Nat} {p : Piece} (hdue : (s.tile t).refillDue = true) (hc : c < 8) (hk : k < 16)
    (h : ∀ d < 8, ∀ l < 16, (d, l) ≠ (c, k) → (s.job (8 * t + d) l).idle)
    (hm : (s.job (8 * t + c) k).kind.moves = true) (hst : (s.job (8 * t + c) k).st = .running)
    (hp : (s.job (8 * t + c) k).pieces = [p]) (ht : p.st = .todo) (rate n : Nat)
    (hrate : rate = if (s.job (8 * t + c) k).kind.copies then (s.tile t).copyRate else (s.tile t).gathRate)
    (hn : n = min ((s.job (8 * t + c) k).requests p - p.asked) (min rate
      ((if (s.job (8 * t + c) k).kind.copies then 64 else 128) - s.staged t (s.job (8 * t + c) k).kind.copies))) :
    let copies := (s.job (8 * t + c) k).kind.copies = true
    Reaches (.rateCreditRefill t) s fun u =>
      (copies → (u.tile t).copyCredit = rate - n) ∧ (¬ copies → (u.tile t).gathCredit = rate - n) ∧
      (u.job (8 * t + c) k).pieces.map (fun q => (q.idx, q.asked)) = [(p.idx, p.asked + n)] ∧
      (copies → 0 < n → ∀ q ∈ (u.job (8 * t + c) k).pieces, q.st ≠ .todo) := by
  intro copies
  have htile : (8 * t + c) / 8 = t := by omega
  have hcredit : ((s.refillCredits t).tile t).credit (s.job (8 * t + c) k).kind = rate := by
    rw [State.refillCredits_tile hdue, hrate]
    rfl
  have hgrantOf : (s.refillCredits t).grantOf (8 * t + c) k p = n := by
    unfold State.grantOf
    rw [htile, show (s.refillCredits t).job (8 * t + c) k = s.job (8 * t + c) k from rfl, hcredit, hn]
    rfl
  obtain ⟨hset, hst', st, hpieces, htodo⟩ := State.grantPiece_todo (s := s.refillCredits t) (core := 8 * t + c) (slot := k) hp ht
  rw [hgrantOf] at hset hpieces htodo
  rw [htile, show (s.refillCredits t).job (8 * t + c) k = s.job (8 * t + c) k from rfl, hcredit] at hset
  obtain ⟨-, hsettled, -⟩ := State.settleJob_granted (s := (s.refillCredits t).grantPiece (8 * t + c) k p.idx)
    (core := 8 * t + c) (slot := k) (.inl (hst'.trans hst))
  have hrefill : s.rateRefill t = ((s.refillCredits t).grantPiece (8 * t + c) k p.idx).settleJob (8 * t + c) k :=
    (State.rateRefill_one hdue hc hk h hm (.inl hst) (by rw [hp]; exact List.nodup_singleton _)).trans
      (State.grant_only (s := s.refillCredits t) hp hm (.inl hst))
  have hu : (s.rateRefill t).tile t = ((s.refillCredits t).tile t).setCredit (s.job (8 * t + c) k).kind (rate - n) := by
    rw [hrefill]
    exact hset
  have hlist : ((s.rateRefill t).job (8 * t + c) k).pieces = [{ p with st := st, asked := p.asked + n }] := by
    rw [hrefill, hsettled, hpieces]
  obtain ⟨hcopy, hgather⟩ := ((s.refillCredits t).tile t).credit_setCredit (s.job (8 * t + c) k).kind (rate - n)
  refine ⟨_, rfl, fun hc => ?_, fun hc => ?_, ?_, fun hc hpos q hq => ?_⟩
  · rw [hu]
    exact hcopy hc
  · rw [hu]
    exact hgather hc
  · rw [hlist]
    rfl
  · rw [hlist] at hq
    rw [List.mem_singleton.1 hq]
    exact htodo hc hpos

theorem piecesArePerformed : PiecesArePerformed := by
  unfold PiecesArePerformed
  refine ⟨?_, ?_, ?_⟩
  · intro s core slot p j copies asks hk hst hp hzero ht
    exact ⟨fun hasks hpos hcomp herr pa qa a b n hx hs hw =>
        jobComplete_lastRequest hk hst hp hzero ht hasks hpos hcomp herr hx hs hw,
      fun hc hpos hmore hcredit pa qa a b n hx hs hw =>
        jobComplete_someRequests hk hst hp hzero ht hc hpos hmore hcredit hx hs hw⟩
  · intro s r x
    refine ⟨fun h => congrArg Host.Outcome.next (State.spinelPiece_waits h), ?_⟩
    intro core slot idx l a p b hw hfree hp hi hst hothers
    exact ⟨_, rfl, State.spinelPiece_takes hw hfree hp hi hst hothers⟩
  · intro s t tile idle
    refine ⟨fun hdue => ?_, fun hdue h => ?_, ?_⟩
    · refine congrArg Host.Outcome.next (if_neg ?_)
      rw [hdue]
      exact Bool.false_ne_true
    · have htile := State.refillCredits_tile hdue
      refine ⟨_, rfl, ?_⟩
      rw [State.rateRefill_idle hdue h]
      exact ⟨congrArg Tile.copyCredit htile, congrArg Tile.gathCredit htile, congrArg Tile.refillDue htile, rfl, rfl⟩
    · intro c hc k hk p j copies asks rate room n hdue h hkind hst hp ht
      have hm : j.kind.moves = true := by
        simp only [List.mem_cons, List.not_mem_nil, or_false] at hkind
        obtain hkind | hkind := hkind <;> rw [hkind] <;> rfl
      exact rateCreditRefill_one hdue hc hk h hm hst hp ht rate n rfl rfl

/-- Settles O49: a job begins in its turn, cut in pieces or in rows, and ends its accesses by its completion action; credit,
requests and generators take its pieces to their end. -/
theorem jobsAndTheirPieces : Obligations.JobsAndTheirPieces := ⟨jobsBeginWithTheirPieces, piecesArePerformed⟩

end Sys2Proof.Machine
end
